-- ==== Sys2Proof/Word.lean ====
section
/-! DEFINITION. The words of the EF9 (32-bit registers, commands and table words; bytes of frames and host memory) and the
names that commands carry: masters, hosts, BARs, course-time states. -/
namespace Sys2Proof

/-- A register, command or table word (32 bits, little-endian in memory). -/
abbrev Word := BitVec 32

/-- A byte of a frame, of host memory or of archive memory. -/
abbrev Byte := BitVec 8

/-- The word of a number, modulo 2^32. -/
abbrev word (n : Nat) : Word := BitVec.ofNat 32 n

/-- The byte of a number, modulo 2^8. -/
abbrev byte (n : Nat) : Byte := BitVec.ofNat 8 n

/-- The three masters that may drive one EF9 (R352), in the order of the arbiter (R355). -/
inductive Master where
  | a | b | sb
  deriving DecidableEq, Repr

/-- The two hosts (R324). -/
inductive HostId where
  | a | b
  deriving DecidableEq, Repr

/-- The BARs of an endpoint (R326). -/
inductive Bar where
  | bar0 | bar2
  deriving DecidableEq, Repr

/-- What happened to a read of host memory that the EF9 made (R325, R347, R362). -/
inductive HostRead where
  | ok | poisoned | timeout
  deriving DecidableEq, Repr

/-- Why a host is lost (R328): its data link goes down, `PE_PERST_N` is asserted, a hot or Function Level Reset, or D3hot. -/
inductive HostLoss where
  | linkDown | perst | reset | d3hot
  deriving DecidableEq, Repr

/-- A PCIe error that an endpoint detects (R359). -/
inductive PcieError where
  | correctable | uncorrectable | poisoned
  deriving DecidableEq, Repr

/-- The PLLs whose relock is an event of its own (R399). -/
inductive Pll where
  | cclk | dclk | serdes (p : Nat)
  deriving DecidableEq, Repr

/-- What a JTAG operation does (R12, R382, R383, R438): read IDCODE, bypass, boundary scan with the bits the cells captured, program a fuse
bit with VFUSE present or not, or another instruction of the test TAP. EXTEST drives the balls named, as (row, column, level), from their cells;
with `ac` it is the EXTEST_PULSE of IEEE 1149.6. -/
inductive JtagOp where
  | idcode | bypass | boundaryScan (cells : List Bool) | extest (ac : Bool) (cells : List Bool) (drive : List (Nat × Nat × Bool))
  | programFuse (bit : Nat) (vfuse : Bool) | test (ir : Nat)
  deriving DecidableEq, Repr

/-- The number of a master: its window and its reject counter (R372, R354). -/
def Master.num : Master → Nat
  | .a => 0 | .b => 1 | .sb => 2

/-- The owner code of a master (R353). -/
def Master.owner (m : Master) : Nat := m.num + 1

/-- The number of a host. -/
def HostId.num : HostId → Nat
  | .a => 0 | .b => 1

/-- The master that a host is. -/
def HostId.master : HostId → Master
  | .a => .a | .b => .b

/-- The fields of the OTP array (R382). -/
inductive FuseField where
  | secure | debugLock | keyHash (i : Nat) | keyRevoke | rollback | asym (p : Nat)
  deriving DecidableEq, Repr

/-- What reading the OTP array gave (R382), single bits corrected: SECURE, DEBUG_LOCK, the four KEY_HASH digests as numbers,
KEY_REVOKE, ROLLBACK as the thermometer code of 64 bits, CHIPLET_ASYM by chiplet, and the fields that were uncorrectable. -/
structure Fuses where
  secure : Bool
  debugLock : Bool
  keyHash : List Nat
  keyRevoke : Nat
  rollback : Nat
  asym : List Nat
  bad : List FuseField
  deriving DecidableEq, Repr

/-- A request's place at a subchannel: its bank, and where it stands in that bank's queue (R311). -/
structure BankPlace where
  bank : Nat
  pos : Nat
  deriving DecidableEq, Repr

/-- How auto-negotiation or training of a port ends (R68): complete, with the mode and the FEC of the highest common ability, or failed. -/
inductive AnOutcome where
  | resolved (mode fec : Nat)
  | failed
  deriving DecidableEq, Repr

/-- Where the Clerk stops (R377): the address of the control-store word that it cannot correct, and how many of the table writes of the command in
progress are done. -/
structure CsStop where
  addr : Nat
  done : Nat
  deriving DecidableEq, Repr

end Sys2Proof
end

