-- ==== Sys2Proof/Syntax.lean ====
section
/-! DEFINITION. The commands of the EF9: one constructor for each row of the opcode table, in the table's order, with what the row's event
carries as operands (the table gives no row any bits). Each docstring gives the rule and the table's own summary. Times within a cycle are
phases in sixteenths; `m` is the master that makes an access; `p` is a pipeline or its chiplet. -/
namespace Sys2Proof

/-- The commands. -/
inductive Instr where
  /-- R10: A master writes its block's expert gate key, which arms, opens, closes or disarms that master's gate. -/
  | expertGateWrite (m : Master) (addr key : Nat)
  /-- R10: An armed gate disarms, or an open gate closes, 1 ms (timed in MCLK) after the write that armed or opened it. -/
  | expertGateExpire
  /-- R11: A write to a register that has no row of its own: ownership, same-round, expert-gate, value and state checks are applied, and refusals are
  logged in HST_REJECT_LOG. -/
  | registerWrite (m : Master) (bar : Bar) (addr : Nat) (single : Bool) (data : Word)
  /-- R7: A read of the low word of a 64-bit counter or multi-word value latches the remaining words into the reading master's holding register. -/
  | latchedWordRead (m : Master) (bar : Bar) (addr : Nat) (single : Bool)
  /-- R83: A read of PRT_TS_FIFO word 0 removes the oldest two-step timestamp entry and latches words 1 to 3 for the reading master. -/
  | tsFifoRead (m : Master) (port : Nat)
  /-- R354: A read of HST_REJECT_LOG word 0 removes the oldest rejection entry and latches its other words for the reading master. -/
  | rejectLogRead (m : Master)
  /-- R118: A write to a high-water or low-water register, such as OVF_HIGH, QUEUE_HIGH, LOOP_HIGH, STB_POOL_LOW, PEAK, GAP_NS or MERGED, restarts it
  from the current value. -/
  | watermarkReset (m : Master) (addr : Nat) (data : Word)
  /-- R19: A frame's first bit passes the ingress counting point: the MAC takes the ingress timestamp and running count, marks the edition bit and
  counts the frame. -/
  | frameRxStart (port phase : Nat) (head : List Byte)
  /-- R14: In each CCLK cycle an ingress half assigns its six header slots to ready front-panel, recirculation and injected headers, which then run
  through the fixed-latency ingress stages. -/
  | ingressSlotAssign (p : Nat)
  /-- R69: A frame's last bit arrives: the MAC checks the FCS and the length check of R97, completes the frame record and drops or stomps bad frames.
  -/
  | frameRxEnd (port : Nat) (tail : List Byte) (fecBad pcsErr : Bool)
  /-- R225: A received frame would exceed its stall size, so the Stable stops writing it and drops or stomps its copies. -/
  | stallOverrun (port : Nat) (bytes : List Byte)
  /-- R77: A received PAUSE or PFC MAC Control frame is consumed, counted, and pauses its classes. -/
  | pauseFrameRx (port phase : Nat) (frame : List Byte) (fecBad : Bool)
  /-- R77: A received pause's quanta time runs out and the class is unpaused. -/
  | pauseExpire (port prio : Nat)
  /-- R232: The link unit appends admitted slips from its link FIFO to their queues in admission order, up to 48 per cycle. -/
  | slipLink (p : Nat)
  /-- R251: A port's Harness selects at most one candidate head copy per cycle by band, priority and DWRR, and charges the curbs and Ration work. -/
  | harnessSelect (port : Nat)
  /-- R17: An egress half takes up to six selected copies per cycle, once a copy of unknown length has 196 bytes received, and runs them through the
  egress stages. -/
  | egressSlotAssign (p : Nat)
  /-- R19: A copy's first bit passes the egress counting point: the MAC takes the egress timestamp and updates the counters, histogram, matrix and
  flow cache. -/
  | frameTxStart (port phase : Nat)
  /-- R238: A copy's last byte is read by a MAC, onto the loop or into the host egress unit. -/
  | frameTxEnd (port : Nat)
  /-- R196: A frame has wholly entered its pipeline's loop FIFO and becomes ready for an ingress slot. -/
  | recircFifoEnter (p : Nat)
  /-- R79: On an XOFF or XON change, the MAC sends a PAUSE or PFC frame at the next frame boundary. -/
  | pauseFrameTx (port : Nat)
  /-- R79: While XOFF persists, the pause frame is repeated each time half of TX_QUANTA has passed. -/
  | pauseRepeat (port prio : Nat)
  /-- R80: A priority paused without a break for WD_MS is declared stormed, and its class queue is walked. -/
  | pfcStormDeclare (port prio : Nat)
  /-- R80: A stormed priority unpaused for RESTORE_MS without a break ends its storm. -/
  | pfcStormEnd (port prio : Nat)
  /-- R73: A port's walker frees queued slips in queue order, counting them under PORT_FLUSH or PFC_STORM. -/
  | walkFree (port n : Nat)
  /-- R240: A walk ends once the port's queues and link FIFO hold no copy for it, and the port moves on from FLUSH or SAFE. -/
  | walkEnd (port : Nat)
  /-- R262: A cadence entry's interval ends and the port's class gates change at the MAC. -/
  | gateTransition (port : Nat)
  /-- R66: A PRT_OCT_MODE write with APPLY changes the octet's mode and FEC when all its ports are DISABLED, or is refused. -/
  | octetModeApply (m : Master) (o : Nat) (data : Word)
  /-- R66: The octet's lanes relock after a mode change, and READY becomes 1. -/
  | octetReady (o : Nat)
  /-- R72: A write of a port's ADMIN bit moves the port between DISABLED and the other link states. -/
  | adminWrite (m : Master) (port : Nat) (on : Bool)
  /-- R68: Auto-negotiation or training completes, or it fails or mismatches and the port stays DOWN. -/
  | anResolve (port : Nat) (outcome : AnOutcome) (taps : List Word)
  /-- R72: LINK_RAW rises on a port, and the hold-up timer starts or a down-hold is cancelled. -/
  | linkRawRise (port : Nat)
  /-- R71: A lane event makes LINK_RAW fall, starting down-hold or the walk, truncating frames and clearing member-live. -/
  | linkRawFall (port lane cause : Nat)
  /-- R72: The hold-up timer expires and the port enters UP, sets member-live and raises LINK_UP. -/
  | holdUpExpire (port : Nat)
  /-- R72: The down-hold timer expires and the port goes from UP to FLUSH, starting the walk and any forget. -/
  | downHoldExpire (port : Nat)
  /-- R35: TIME_REF stays within ±100 ppm for 10 ms and is qualified; the PLL switches or relocks with phase build-out. -/
  | refQualify
  /-- R35: TIME_REF has no edge for 1 µs or leaves its band and is disqualified, leading to holdover or a fallback to REF_MGMT. -/
  | refDisqualify
  /-- R40: An active PPS_IN edge is timestamped and corrected for path delay. -/
  | ppsInEdge (phase : Nat)
  /-- R40: 100 ns after an edge the EF9 accepts or rejects it, capturing a valid edge and sending its event. -/
  | ppsEdgeValidate (stayed : Bool)
  /-- R37: No valid edge arrives for HOLD_SECS in LOCKED, and course time enters HOLDOVER. -/
  | ppsLoss
  /-- R37: The TCLK PLL loses lock and course time enters UNSET. -/
  | tclkUnlock
  /-- R46: A TIM_CTRL SET_NOW request sets course time to TIM_SET at the apply instant. -/
  | setNow (m : Master)
  /-- R46: A TIM_CTRL SET_AT_PPS request sets course time at the next valid PPS_IN edge. -/
  | setAtPps (m : Master)
  /-- R46: A TIM_CTRL STEP request adds TIM_STEP to course time at the apply instant. -/
  | step (m : Master)
  /-- R46: A TIM_CTRL CLEAR request enters UNSET at once. -/
  | clear (m : Master)
  /-- R46: A write of TIM_FREQ_HI requests a new frequency word at the apply instant. -/
  | timFreqWrite (m : Master) (data : Word)
  /-- R47: At the apply instant every endpoint applies the pending set, step or frequency change in the same TCLK cycle. -/
  | courseTimeApply
  /-- R47: A SET_AT_PPS whose edge is not accepted within HOLD_SECS + 1 s is withdrawn and counted as refused. -/
  | setAtPpsTimeout
  /-- R44: A time-of-day message is received whole, then checked, counted and recorded or discarded. -/
  | todMessageRx (bytes : List Byte)
  /-- R44: A time-of-day message whose 16 bytes do not arrive within 10 ms is discarded. -/
  | todRxTimeout
  /-- R59: PPS_OUT rises at each whole second of course time, advanced by DELAY. -/
  | ppsOutRise
  /-- R59: PPS_OUT falls after WIDTH_US. -/
  | ppsOutFall
  /-- R59: 100 ms after a PPS_OUT rise, TOD_TX begins a message naming the next edge. -/
  | todTxSend
  /-- R52: A die-to-die timing calibration run starts after TCLK lock, after a link comes up, or every PERIOD_MS. -/
  | calibrationRun (p : Nat)
  /-- R52: A write of TIM_CAL_CTRL RUN_NOW starts a calibration run for every chiplet. -/
  | runNow (m : Master)
  /-- R52: A calibration run completes, applies its result, sets DONE and may raise TIM_CAL_JUMP. -/
  | calibrationComplete (p : Nat) (result : Int)
  /-- R62: A chiplet calibration run does not complete within 20 µs and TIM_CAL_FAIL is raised. -/
  | calibrationTimeout (p : Nat)
  /-- R55: A register write of ARM = 1 to a slot from 8 to 15 arms its trigger, or is refused. -/
  | triggerArm (m : Master) (slot kind : Nat)
  /-- R55: A register write of ARM = 0 to a slot from 8 to 15 cancels its trigger. -/
  | triggerCancel (m : Master) (slot : Nat)
  /-- R56: Course time reaches an armed trigger's time T (or a repeat of it), and every endpoint acts on it. -/
  | triggerFire (slot : Nat)
  /-- R60: An input TIME_GPIO rising edge is timestamped, or counted as an overrun. -/
  | gpioCapture (i phase : Nat)
  /-- R61: The CDR of a SyncE output's lane loses lock, and the output squelches or switches to its backup lane. -/
  | synceFailover (j : Nat)
  /-- R105: The Reader's spare ports scrub every select entry and layout of every replica once per PERIOD_US. -/
  | readerScrub (p : Nat)
  /-- R129: The overflow scrub reads every overflow entry once per OVF_PERIOD_US and invalidates and repairs bad ones. -/
  | overflowScrub (unit : Nat)
  /-- R129: The bucket scrub reads every bucket once per BUCKET_PERIOD_MS. -/
  | bucketScrub (unit : Nat)
  /-- R175: The Catalogue scrub reads every row and result of every replica once per PERIOD_US and repairs bad ones. -/
  | catScrub (p : Nat)
  /-- R204: The Farrier's spare ports scrub every rewrite word, ARG and egress VLAN entry once per PERIOD_US. -/
  | farScrub (p : Nat)
  /-- R139: The learn unit takes the next queued request and inserts it or applies it as a move, at most 40 million per second. -/
  | learnInsert (p : Nat)
  /-- R141: PERIOD_S of the running count elapses and a timed age sweep of the pipeline's store starts. -/
  | ageSweepStart (p : Nat)
  /-- R141: The Clerk runs one 4,096-entry chunk of a timed age sweep, clearing hit bits or deleting entries. -/
  | ageSweepChunk (hits : List Nat)
  /-- R144: A write of EN_A or EN_B enables a table mirror and starts its resync, or is refused. -/
  | mirrorEnable (m : Master) (enA enB : Bool)
  /-- R147: A DMA unit of the mirror write stream writes up to 64 queued records to host memory. -/
  | mirrorWrite (h : HostId)
  /-- R147: A mirror queue makes no progress for STALL_US, and the mirror becomes invalid and is dropped by its writers. -/
  | mirrorStall (h : HostId)
  /-- R148: One 4,096-entry chunk of a mirror resync queues records, and the last chunk sets VALID. -/
  | resyncChunk
  /-- R149: The Clerk issues the mirror read for an open repair. -/
  | repairReadIssue
  /-- R149: The mirror record read for a repair returns from host memory. -/
  | repairRecordReturn (tag : Nat) (r : HostRead) (ws : List Word)
  /-- R149: The Clerk rewrites the entry from a good record, or invalidates it, and opens the repair fence. -/
  | repairWrite
  /-- R150: FENCE_TIMEOUT_US passes before all punted frames return, and the fence closes and releases its held frames. -/
  | fenceTimeout (tag p : Nat)
  /-- R214: The drain timer expires with copies still inside, and the slot enters EXPIRING. -/
  | drainTimeout (slot : Bool)
  /-- R213: A DRAINING or EXPIRING slot's resident count reaches 0, and the slot enters DRAINED. -/
  | editionDrained (slot : Bool)
  /-- R220: A slot stays EXPIRING for 1 s and ED_STUCK is raised. -/
  | edStuck (slot : Bool)
  /-- R222: A write of STB_CFG.EN from 0 to 1 starts building the free lists. -/
  | stableEnable (m : Master)
  /-- R222: The free lists are built and STB_STATUS.READY is set. -/
  | stableReady
  /-- R274: The power monitors sample every core and SerDes rail every 1 µs. -/
  | powerSample (rails : List Nat)
  /-- R277: At the end of each 10 µs period Ration averages power, reads the sensors and computes the allowances for the next period. -/
  | rationPeriodEnd (temps : List Int)
  /-- R279: 1 µs after the period boundary all Harnesses load their new allowances together. -/
  | allowanceLoad
  /-- R284: The power monitors fail their self-check, and Ration holds a fixed allowance and raises RAT_MON_FAIL. -/
  | monitorFail
  /-- R291: 10 µs after T the snapshot scan starts writing the selected sets to archive memory. -/
  | snapshotScanStart
  /-- R292: The scan writes the snapshot header, which makes the snapshot complete and exportable. -/
  | snapshotComplete
  /-- R290: Clearing ARC_CFG.SNAP_EN cancels the SNAPSHOT trigger and abandons a scan in progress. -/
  | snapDisable (m : Master)
  /-- R296: An uncorrectable counter word is restored from the last complete snapshot, and ARC_CNT_LOST is raised. -/
  | counterRestore (set elem idx : Nat)
  /-- R299: The flow sweeper visits every cache entry once per 1 ms, evicting idle flows and exporting active ones. -/
  | flowSweep (p : Nat)
  /-- R299: Writing PAR_FLOW_CFG.EN = 0 evicts every flow with reason FLUSH. -/
  | flowFlush (m : Master) (p : Nat)
  /-- R302: A write of ARC_CAP_CFG STOP moves a FREEZE-mode capture ring to STOPPING. -/
  | captureStop (m : Master)
  /-- R302: A write of ARC_CAP_CFG REARM moves a FROZEN ring back to recording. -/
  | captureRearm (m : Master)
  /-- R301: The host egress unit reads a capture copy, and a capture record is written or counted as lost. -/
  | captureDeliver
  /-- R316: A write of DRM_CFG.EN from 0 to 1 starts training every populated subchannel. -/
  | dramTrainStart (m : Master)
  /-- R316: Training ends: READY is set, or a failing subchannel raises DRM_TRAIN. -/
  | dramTrainDone (fails : Nat)
  /-- R311: A requester's 64-byte burst request enters its bank queue through the DWRR arbiter. -/
  | dramRequest (req : Nat) (write : Bool) (addr : Nat) (data : List Byte) (enables : List Bool)
  /-- R313: A subchannel scheduler picks one DRAM command per command slot by precedence. -/
  | dramSchedule (u : Nat) (ecc : List (Nat × List Nat))
  /-- R315: A refresh falls due and is issued, or postponed up to POSTPONE. -/
  | dramRefresh (u : Nat)
  /-- R315: Every 1 ms the controller reads MR4 to set the refresh rate. -/
  | mr4Poll (u : Nat) (twice : Bool)
  /-- R317: A periodic ZQ calibration pauses one subchannel. -/
  | zqCalibration (u : Nat)
  /-- R317: A periodic DQS oscillator retrain pauses one subchannel, and may retrain it fully. -/
  | dqsRetrain (u : Nat) (moved : Bool)
  /-- R321: The patrol scrub reads a burst and writes back a corrected one, or logs an uncorrectable one. -/
  | patrolScrub (ecc : List (Nat × List Nat))
  /-- R322: A device asserts ALERT_N and the controller replays commands, up to 4 times. -/
  | alertReplay (u : Nat) (place : BankPlace) (failing : Bool)
  /-- R328: A host's link goes down, PERST is asserted, it is reset or it enters D3hot, and its channels, domains, gates and mirror are dropped. -/
  | hostLost (h : HostId) (why : HostLoss)
  /-- R29: PE_PERST_N is deasserted and the endpoint comes up from on-die defaults. -/
  | perstRelease (h : HostId)
  /-- R331: A host writes a channel's doorbell index, which is accepted or refused as a bad value. -/
  | doorbellWrite (h : HostId) (c : Nat) (v : Word)
  /-- R362: A DMA unit reads one command and its entry data for the Clerk. -/
  | commandFetch (h : HostId) (pr : Bool) (ws : List Word) (r : HostRead) (data : List Word)
  /-- R340: A DMA unit writes up to 16 completions to a completion ring. -/
  | completionWrite (h : HostId) (pr : Bool)
  /-- R349: A DMA unit writes up to 16 event records to a host's event ring. -/
  | eventWrite (h : HostId)
  /-- R343: The host egress unit delivers one punt or mirror copy into a posted buffer and writes its punt entry. -/
  | puntDeliver (h : HostId)
  /-- R347: A DMA unit reads one inject descriptor and its frame, then sends it on the pipeline or direct path or refuses it. -/
  | injectFrame (h : HostId) (j : Nat) (d : List Word) (r : HostRead) (frame : List Byte)
  /-- R350: A DMA unit writes up to 64 KiB of an export stream to its ring. -/
  | exportWrite (h : HostId) (j : Nat) (ecc : List (Nat × List Nat))
  /-- R351: A DMA unit runs one bulk descriptor between host and archive memory and writes its status. -/
  | bulkTransfer (h : HostId) (j : Nat) (d : List Word) (r : HostRead) (data : List Byte) (ecc : List (Nat × List Nat))
  /-- R342: A DMA unit reads up to 64 post entries and posts buffers, refusing bad or double posts. -/
  | bufferPost (h : HostId) (entries : List Nat)
  /-- R333: MOD_US passes since the first unsignalled entry, and the channel sends its MSI-X vector. -/
  | msixModTimeout (c : Nat)
  /-- R331: Setting a channel's EN starts its indexes at 0. -/
  | channelEnable (m : Master) (c : Nat)
  /-- R337: Clearing a channel's EN stops it at once and disposes of its work. -/
  | channelStop (m : Master) (c : Nat)
  /-- R342: Clearing a buffer pool's EN returns every one of its buffers to software state. -/
  | poolDisable (m : Master) (k : Nat)
  /-- R353: A write of GEN_OWNER_CAS makes one compare-and-set request on a domain's owner. -/
  | ownerCas (m : Master) (data : Word)
  /-- R356: An I2C/SMBus write transaction with PEC writes a register within the sideband window. -/
  | sidebandWrite (addr7 : Nat) (bytes : List Byte)
  /-- R356: An I2C/SMBus read transaction returns a register value with PEC. -/
  | sidebandRead (addr7 : Nat) (bytes : List Byte)
  /-- R356: The EF9 answers the Alert Response Address and releases MG_ALERT_N. -/
  | alertResponse
  /-- R459: SCL is held low for more than 35 ms, and the target abandons the transaction. -/
  | sidebandTimeout
  /-- R325: An EF9 read request to host memory gets no completion within 10 ms. -/
  | dmaReadTimeout (h : HostId)
  /-- R361: At each boundary the Clerk takes halts, repairs, patches, priority and normal items in order and starts the next step. -/
  | clerkBoundary (conds : List Bool)
  /-- R365: The NOP command does nothing and completes OK. -/
  | nop
  /-- R340: FENCE completes once every earlier command of its ring has completed and earlier archive writes are in their bank queues. -/
  | fence
  /-- R366: A command writes a register under the issuing master's gate and ownership. -/
  | regWrite
  /-- R367: A command reads a register, or times out on a stopped clock. -/
  | regRead
  /-- R362: A command writes a table entry whole in one cycle. -/
  | entryWrite
  /-- R368: A command reads an entry as stored, and reports PARITY and opens a repair on a failed check. -/
  | entryRead
  /-- R365: A command deletes or invalidates a table entry or prefix. -/
  | entryDelete
  /-- R117: A command inserts a key into a bridge store or the key store. -/
  | hashInsert
  /-- R118: A command looks up a key and returns its entry. -/
  | hashLookup
  /-- R365: A command deletes a key from a hashed store. -/
  | hashDelete
  /-- R171: A command inserts a Catalogue entry at an address, moving rows down within the run. -/
  | catInsert
  /-- R171: A command invalidates one Catalogue row or pair in one step. -/
  | catRemove
  /-- R172: A command moves a block of Catalogue rows by k places within a run. -/
  | catMoveBlock
  /-- R210: A command opens the free slot with a new edition number. -/
  | editionOpen
  /-- R210: A command arms the edition switch at T or IMMEDIATE, and completes when it fires. -/
  | editionArm
  /-- R215: A chunked command sweeps a slot's edition-scoped objects and frees the slot. -/
  | editionRetire
  /-- R141: A chunked command runs one age sweep of a pipeline's store. -/
  | ageSweep
  /-- R75: A chunked command deletes every learned entry of a port from its pipeline's bridge store. -/
  | portForget
  /-- R365: A chunked command scrubs a table and counts the bad entries found. -/
  | scrub
  /-- R290: A command arms the SNAPSHOT trigger with a time, an interval and a set mask. -/
  | snapshotAt
  /-- R289: A command returns live counter values of one set over an index range. -/
  | counterRead
  /-- R395: A command arms a tack-set switch at T, and completes when it fires. -/
  | tackSelectAt
  /-- R395: Within 1 ms of arming, the live fields receive pending values, or the switch is cancelled when any would be refused. -/
  | tackPendingLoad
  /-- R378: A command checks a microcode patch image and hands it to the verifier. -/
  | patchLoad
  /-- R378: The Folio verifier finishes the patch signature check, which marks the patch verified or fails it with AUTH_FAIL. -/
  | patchVerifyDone (key : List Word)
  /-- R378: A verified patch is installed in one step at an allowed boundary. -/
  | patchInstall
  /-- R148: A chunked command resyncs one host's table mirror. -/
  | mirrorResync
  /-- R72: A command sets a port's ADMIN and FORGET_ON_DOWN. -/
  | portAdmin
  /-- R353: A command makes a compare-and-set request on a control domain's owner. -/
  | claimDomain
  /-- R371: A write of CLE_CTRL.HALT sets or clears the software halt request, which takes the Clerk to HALTED or back to RUN. -/
  | haltRequest (m : Master) (on : Bool)
  /-- R377: An uncorrectable control-store word stops the Clerk at once, and the command in progress completes with PARITY. -/
  | clerkStop (stop : CsStop)
  /-- R373: A write of GO submits a table access window's command image as a priority item. -/
  | tawGo (m : Master)
  /-- R379: A Clerk step runs 100 µs without a mirror-queue wait, and CLE_STEP_OVERRUN is raised. -/
  | stepOverrun
  /-- R428: PWRGOOD falls, SYS_RESET_N is low, or the REF_MGMT monitor acts, and everything is reset. -/
  | coldReset (pwrgood : Bool)
  /-- R381: SYS_RESET_N rises: the straps are sampled and boot enters FUSES. -/
  | resetRelease (tackSel hostMode bootSrc : Nat)
  /-- R380: The OTP has been read and the PLLs and links started, and boot moves to FLASH or straight to APPLY for tack set 7. -/
  | bootFusesDone (fuses : Fuses) (vdd : Nat)
  /-- R387: The SFDP tables and both copy headers have been read, and boot enters VERIFY. -/
  | bootHeadersRead (size : Nat) (second : Bool) (headA headB : List Word)
  /-- R387: A copy read is checked, which chooses a valid copy or leads to DEFAULTS. -/
  | bootVerifyDone (copy again : List Word)
  /-- R390: Boot applies one Folio record item (REG, ENTRY or HASH), or counts its refusal. -/
  | bootApplyRecord
  /-- R389: A WAIT record's register condition holds or its timeout expires, and application continues. -/
  | bootWaitDone
  /-- R391: The apply pass ends and compares its digest: boot ends in READY, or FOL_TAMPER triggers an internal reset. -/
  | bootApplyEnd (again : List Word)
  /-- R392: A write of FOL_FL_CTRL.GO starts a flash read, program or erase, or refuses it. -/
  | flashOp (m : Master) (cs op : Nat)
  /-- R392: A flash window operation completes and BUSY clears. -/
  | flashOpDone (ok_ : Bool) (data : List Word)
  /-- R383: A write of FOL_OTP_PROG.GO starts programming a fuse bit, or fails without VFUSE. -/
  | otpProgram (m : Master) (bit : Nat) (vfuse : Bool)
  /-- R383: Fuse programming completes within 100 µs and BUSY clears. -/
  | otpProgramDone
  /-- R429: A write of CKR_RESET with the key starts a warm reset: work ends, transmitters squelch and DDR5 enters self-refresh. -/
  | warmReset (m : Master) (key : Nat)
  /-- R429: 10 µs after a warm reset request the internal reset is released and boot restarts at FUSES. -/
  | warmResetRelease
  /-- R401: A source slot receives events in an MCLK cycle: the collector counts, classifies, records and reacts. -/
  | faultEvent (slot : Nat)
  /-- R411: A domain's quiet period ends: its record closes and its reaction lifts or latches. -/
  | quietPeriodEnd (id : Nat)
  /-- R413: A write of FLT_DOM_CLEAR lifts a domain's reaction, closes its record and resets its recovery count. -/
  | domainClear (m : Master) (domain : Nat)
  /-- R414: A deglitched FAULT_IN_N or fault-input GPIO level changes, raising or ending its level source. -/
  | faultInChange (k : Nat) (high : Bool)
  /-- R416: A write of FLT_FORCE raises a forced event or holds a level source present. -/
  | faultForce (m : Master) (j : Nat) (data : Word)
  /-- R417: A write of FLT_INJECT.GO corrupts the check bits of one memory word now or on its next write. -/
  | errorInject (m : Master) (data : Word)
  /-- R421: REF_MGMT has no edge for 1 µs or the MCLK PLL loses lock, and the monitor holds cold reset. -/
  | refMgmtLoss
  /-- R421: 1 ms after REF_MGMT returns and MCLK relocks, the EF9 leaves that reset. -/
  | refMgmtRecover
  /-- R422: A write of CKR_STOP requests a clock stop, or is refused. -/
  | clockStop (m : Master) (data : Word)
  /-- R422: After in-flight requests complete, the clock stops and its CKR_RUN bit reads 0. -/
  | clockStopped (k : Nat)
  /-- R422: A stopped clock is started again and runs within 10 µs. -/
  | clockStart (k : Nat)
  /-- R426: A request waits 64 µs at a crossing: HUNG is set, HUNG_CROSSING is raised and the crossing may be reset. -/
  | crossingHung (x : Nat)
  /-- R427: A write of CKR_XRESET resets a crossing and flushes both halves. -/
  | crossingReset (m : Master) (data : Word)
  /-- R430: A write of CKR_CHIPLET_RESET resets a chiplet and its link, and its ports lose LINK_RAW. -/
  | chipletReset (m : Master) (data : Word)
  /-- R431: A die-to-die link finishes training and comes up. -/
  | d2dLinkUp (p : Nat)
  /-- R431: An uncorrectable flit arrives; its frames end bad and 16 within 1 ms take the link down. -/
  | d2dFlitError (p : Nat) (corrected : Bool) (lanes : List Nat)
  /-- R431: Every 10 ms a down link tries to train again. -/
  | d2dRetrain (p : Nat)
  /-- R432: The CCLK PLL loses lock and CKR_PLL_UNLOCK is raised. -/
  | cclkPllUnlock
  /-- R87: A chiplet lane PLL loses lock and PRT_SERDES_PLL is raised. -/
  | serdesPllUnlock (p : Nat)
  /-- R328: A lost host's PCIe data link comes back up, or it returns to D0, so it is no longer lost and HST_LINK_DOWN ends. -/
  | hostLinkReturn (h : HostId) (speed width : Nat) (flit : Bool)
  /-- R52: The TCLK PLL gains lock, which sets TCLK_LOCK, ends TIM_TCLK_UNLOCK and starts the die-to-die calibration that follows TCLK lock. -/
  | tclkPllLock
  /-- R399: The CCLK PLL, DCLK PLL or a chiplet lane PLL regains lock, ending its level fault source so the domain's quiet period can start. -/
  | pllRelock (which : Pll)
  /-- R432: The DCLK PLL loses lock, which raises DRM_TRAIN with DCLK_LOCK at 0 and leaves DCLK requests hanging. -/
  | dclkPllUnlock
  /-- R431: A chiplet's die-to-die link PLL loses lock, for example because SD_REFCLK is missing, so the link goes down and CKR_D2D_LINK is raised. -/
  | d2dLinkPllUnlock (p : Nat)
  /-- R284: The power monitors pass their self-check again, so Ration leaves its fixed fail allowance and RAT_MON_FAIL ends. -/
  | monitorRecover
  /-- R60: An output TIME_GPIO pulse ends after WIDTH_NS. -/
  | gpioPulseEnd (i : Nat)
  /-- R85: An RS-FEC codeword is decoded on a port, updating corrected, uncorrectable and symbol counters and raising PRT_FEC_UNCORR on an
  uncorrectable codeword. -/
  | fecCodewordDecode (port : Nat) (syms : List Nat) (uncorr : Bool)
  /-- R359: An endpoint detects a correctable, uncorrectable or poisoned PCIe error, counted in HST_PCIE_ERR and raised as HST_PCIE_CORR or
  HST_PCIE_UNCORR. -/
  | pcieLinkError (h : HostId) (e : PcieError)
  /-- R438: A JTAG TAP operation runs boundary scan, IDCODE, test-TAP instructions or OTP programming, subject to DEBUG_LOCK. -/
  | jtagInstruction (sel : Bool) (op : JtagOp)
  deriving DecidableEq, Repr

end Sys2Proof
end

