-- ==== Sys2Proof/Decode.lean ====
section
/-! DEFINITION. Commands by the bits of the opcode table. The table gives no row any bits: the commands of this block are events and register
accesses, and the encoded commands of the Clerk's rings are words that COMMAND_FETCH carries (R338, R362), decoded in Machine/ClerkOps. -/
namespace Sys2Proof

/-- The command that a word spells: no row of the table has bits, so no word spells one. -/
def decodeTableWord (_nbits _w : Nat) : Option Instr := none

end Sys2Proof
end

