-- ==== Sys2Proof/Machine/Maps.lean ====
section
/-! DEFINITION. Sparse data by key: association lists with one entry per key, used for registers, tables, counters and every
other store that the spec indexes by number. -/
namespace Sys2Proof.Machine

/-- A finite map as a list of pairs, the newest entry first, with at most one entry per key. -/
abbrev AMap (κ α : Type) := List (κ × α)

/-- The value stored at a key, if the map lists one. -/
def AMap.get? {κ α : Type} [DecidableEq κ] (m : AMap κ α) (k : κ) : Option α :=
  match m with
  | [] => none
  | (k', v) :: t => if k' = k then some v else AMap.get? t k

/-- The map without a key. -/
def AMap.erase {κ α : Type} [DecidableEq κ] (m : AMap κ α) (k : κ) : AMap κ α :=
  match m with
  | [] => []
  | (k', v) :: t => if k' = k then AMap.erase t k else (k', v) :: AMap.erase t k

/-- The map with a value at a key. -/
def AMap.set {κ α : Type} [DecidableEq κ] (m : AMap κ α) (k : κ) (v : α) : AMap κ α :=
  (k, v) :: AMap.erase m k

/-- The value at a key, or a default where the map lists none. -/
def AMap.getD {κ α : Type} [DecidableEq κ] (m : AMap κ α) (k : κ) (d : α) : α :=
  (AMap.get? m k).getD d

/-- The map with its value at a key changed by f, starting from a default. -/
def AMap.adjust {κ α : Type} [DecidableEq κ] (m : AMap κ α) (k : κ) (d : α) (f : α → α) : AMap κ α :=
  AMap.set m k (f (AMap.getD m k d))

/-- Bits hi down to lo of a number. -/
def bitsOf (n hi lo : Nat) : Nat := n / 2 ^ lo % 2 ^ (hi + 1 - lo)

/-- A number with bits hi down to lo replaced by a value. -/
def setBits (n hi lo v : Nat) : Nat :=
  n - bitsOf n hi lo * 2 ^ lo + (v % 2 ^ (hi + 1 - lo)) * 2 ^ lo

/-- One bit of a number as a Bool. -/
def bitOf (n i : Nat) : Bool := n / 2 ^ i % 2 == 1

/-- The signed reading of the low w bits of a number. -/
def signedOf (w n : Nat) : Int :=
  let x := n % 2 ^ w
  if x < 2 ^ (w - 1) then (x : Int) else (x : Int) - (2 ^ w : Nat)

/-- The number held by a list of words, least significant word first. -/
def wordsNat : List Word → Nat
  | [] => 0
  | w :: t => w.toNat + 2 ^ 32 * wordsNat t

/-- A number as n words, least significant word first. -/
def natWords (n : Nat) (v : Nat) : List Word :=
  (List.range n).map fun i => word (v / 2 ^ (32 * i))

/-- The number held by a list of bytes in wire order (first byte most significant). -/
def bytesNat (bs : List Byte) : Nat := bs.foldl (fun a b => a * 256 + b.toNat) 0

/-- A number as n bytes in wire order (most significant byte first). -/
def natBytes (n v : Nat) : List Byte :=
  (List.range n).map fun i => byte (v / 2 ^ (8 * (n - 1 - i)))

/-- The bytes of a word in memory order (little-endian). -/
def wordBytes (w : Word) : List Byte := (List.range 4).map fun i => byte (w.toNat / 2 ^ (8 * i))

/-- The word held by four bytes in memory order. -/
def bytesWord (bs : List Byte) : Word :=
  word ((bs.take 4).foldr (fun b a => a * 256 + b.toNat) 0)

/-- The words held by bytes in memory order, a last short word padded with zeros; n is the number of words. -/
def bytesWords (n : Nat) (bs : List Byte) : List Word :=
  (List.range n).map fun i => bytesWord (bs.drop (4 * i))

/-- Saturating addition at a maximum. -/
def satAdd (mx a b : Nat) : Nat := min mx (a + b)

end Sys2Proof.Machine
end

