-- ==== Sys2Proof/Machine/Flags.lean ====
section
/-! DEFINITION. The check codes that the spec gives in full: the CRC-32 of the hashes (R115), the Ethernet frame check sequence (R70:
the polynomial and bit order are 802.3's, assumption log 5), the CRC-16 of time-of-day messages, mirror records and
capture records (R43), the CRC-8 of the sideband (R356), and the Internet checksum with its incremental update (R81). -/
namespace Sys2Proof.Machine

/-- One bit of a most-significant-bit-first CRC of width w: shift in the bit b. -/
def crcBit (w poly : Nat) (c : Nat) (b : Bool) : Nat :=
  let top := bitOf c (w - 1) != b
  let c' := (c * 2) % 2 ^ w
  if top then c' ^^^ poly else c'

/-- One byte of a most-significant-bit-first CRC. -/
def crcByte (w poly c : Nat) (b : Byte) : Nat :=
  let c := crcBit w poly c (bitOf b.toNat 7)
  let c := crcBit w poly c (bitOf b.toNat 6)
  let c := crcBit w poly c (bitOf b.toNat 5)
  let c := crcBit w poly c (bitOf b.toNat 4)
  let c := crcBit w poly c (bitOf b.toNat 3)
  let c := crcBit w poly c (bitOf b.toNat 2)
  let c := crcBit w poly c (bitOf b.toNat 1)
  crcBit w poly c (bitOf b.toNat 0)

/-- A most-significant-bit-first CRC over bytes, with no reflection and no final XOR. -/
def crcMsb (w poly init : Nat) (bs : List Byte) : Nat := bs.foldl (crcByte w poly) init

/-- The polynomials of R115 by POLY code. -/
def polyOf : Nat → Nat
  | 0 => 0x04C11DB7
  | 1 => 0x1EDC6F41
  | 2 => 0x741B8CD7
  | _ => 0x814141AB

/-- The CRC-32 of R115: POLY code, initial value, bytes. -/
def crc32 (poly init : Nat) (bs : List Byte) : Nat := crcMsb 32 (polyOf poly) init bs

/-- CRC-16/CCITT-FALSE (R43). -/
def crc16 (bs : List Byte) : Nat := crcMsb 16 0x1021 0xFFFF bs

/-- The SMBus CRC-8 (R356). -/
def crc8 (bs : List Byte) : Nat := crcMsb 8 0x07 0 bs

/-- A byte with its bits in the opposite order. -/
def revByte (b : Byte) : Byte :=
  byte ((List.range 8).foldl (fun a i => a * 2 + bitsOf b.toNat i i) 0)

/-- The Ethernet frame check sequence of a frame without FCS, as its four bytes in wire order. -/
def fcsBytes (bs : List Byte) : List Byte :=
  let c := crcMsb 32 0x04C11DB7 0xFFFFFFFF (bs.map revByte)
  (natBytes 4 (c ^^^ 0xFFFFFFFF)).map revByte

/-- Whether a whole frame ends in its correct FCS. -/
def fcsGood (bs : List Byte) : Bool :=
  decide (4 ≤ bs.length) && bs.drop (bs.length - 4) == fcsBytes (bs.take (bs.length - 4))

/-- The stomped FCS: the correct FCS XOR 0xFFFF_FFFF (R70). -/
def stompBytes (bs : List Byte) : List Byte := (fcsBytes bs).map fun b => byte (b.toNat ^^^ 0xFF)

/-- Folds a sum to 16 bits with end-around carry. -/
def fold16 (n : Nat) : Nat :=
  let a := n % 65536 + n / 65536
  let b := a % 65536 + a / 65536
  b % 65536 + b / 65536

/-- The 16-bit sum of bytes in wire order, an odd last byte padded with zero. -/
def sum16 : List Byte → Nat
  | a :: b :: t => a.toNat * 256 + b.toNat + sum16 t
  | [a] => a.toNat * 256
  | [] => 0

/-- The Internet checksum of bytes. -/
def inetSum (bs : List Byte) : Nat := 65535 - fold16 (fold16 (sum16 bs))

/-- The incremental update of a checksum in the manner of RFC 1624: HC' = ~(~HC + ~m + m'), for old and new bytes of even length. -/
def rfc1624 (hc : Nat) (old new : List Byte) : Nat :=
  let comp := (old.length / 2 + old.length % 2) * 65535 - sum16 old
  65535 - fold16 (fold16 ((65535 - hc) + comp + sum16 new))

end Sys2Proof.Machine
end

