-- ==== Sys2Proof/Config.lean ====
section
/-! DEFINITION. What one implementation fixes and the free values: constants without a body, so that no proof can see what they
are and a claim holds whatever they are (assumption log 3). Each free value is applied to the counter `State.free` or to the
operands it depends on. -/
namespace Sys2Proof.Config

/-- A value the spec leaves open, one per use, taken with the counter `State.free`. -/
opaque freeWord : Nat → Word

/-- The identifier of the Clerk's ROM (`CLE_UCODE_VER.ROM_ID`, reset "fixed" with no value stated). -/
opaque romId : BitVec 16

/-- The six words of each control-store word of the ROM (R374: they are Ladulyn's microcode). -/
opaque romWord : Nat → List Word

/-- The six words of a control-store RAM word that nothing has written since power-on (R374 to R376 do not state them). -/
opaque ramWord : Nat → List Word

/-- Where the fuse bit of a bit address of `FOL_OTP_PROG.BIT` lies in the OTP fields taken in the order of R382's table, from the least significant
bit of SECURE upward (R382 and R383 do not state it); none for an address without a fuse or one of a check code. -/
opaque fusePlace : Nat → Option Nat

/-- The version field of the JTAG IDCODE (R12 gives its width only). -/
opaque jtagVersion : BitVec 4

/-- The check bits stored beside a memory word (R105, R129, R175, R204, R319: their values are not stated). -/
opaque checkBits : Nat → Word

/-- Whether the check code of archive memory detects an error that lies in more than one device, rather than miscorrecting it (R319 leaves it to
the code's distance), by burst and failing data lines. -/
opaque eccDetects : Nat → List Nat → Bool

/-- The bytes that stand for the input port, layout and output port in a flow key's CRC (R297 does not give their form). -/
opaque flowKeyTail : Nat → Nat → Option Nat → List Byte

/-- Which of a word's two parity bits a one-bit injection inverts (R417 does not say): true for the first, by checker and index. -/
opaque firstParity : Nat → Nat → Bool

/-- Which of the check bits of a wider code an injection inverts (R417 does not say), by checker and index, and the second one by index and checker.
-/
opaque flipBit : Nat → Nat → Nat

/-- The gates of a port and bank whose active cadence list has no entry (R262 names the last entry's, and there is none). -/
opaque emptyGates : Nat → Nat → Byte

end Sys2Proof.Config
end

