-- ==== Sys2Proof/Machine/Memory.lean ====
section
/-! DEFINITION. Archive memory (R308 to R323) as cells in one canonical form: addresses strictly rising, no cell equal to what an
unlisted address reads as. The spec gives DRAM no contents after power-on: an unlisted byte reads 0 (DESIGN CHOICE, unsafe,
assumption log 4). -/
namespace Sys2Proof.Machine

/-- Archive memory. -/
abbrev Memory := List Host.Cell

/-- What an address that no cell lists reads as. -/
def Memory.blank : Byte := 0

/-- The byte at an address. -/
def Memory.read (m : Memory) (a : Nat) : Byte :=
  match m with
  | [] => Memory.blank
  | (k, b) :: t => if k = a then b else Memory.read t a

/-- Writes one byte: the list stays sorted, and the blank value removes the cell. -/
def Memory.write (m : Memory) (a : Nat) (b : Byte) : Memory :=
  match m with
  | [] => if b = Memory.blank then [] else [(a, b)]
  | (k, c) :: t =>
    if a < k then (if b = Memory.blank then (k, c) :: t else (a, b) :: (k, c) :: t)
    else if a = k then (if b = Memory.blank then t else (a, b) :: t)
    else (k, c) :: Memory.write t a b

/-- Writes bytes at consecutive addresses. -/
def Memory.writes (m : Memory) (a : Nat) : List Byte → Memory
  | [] => m
  | b :: t => Memory.writes (Memory.write m a b) (a + 1) t

/-- Reads n bytes from an address. -/
def Memory.reads (m : Memory) (a n : Nat) : List Byte := (List.range n).map fun i => Memory.read m (a + i)

/-- Writes zeros over a range: its cells are removed. -/
def Memory.clear (m : Memory) (a n : Nat) : Memory := m.filter fun c => c.1 < a || a + n ≤ c.1

/-- Every cell's address is above a bound, addresses strictly rise, and no cell is blank. -/
def Memory.okFrom (lo : Nat) : Memory → Bool
  | [] => true
  | (k, b) :: t => decide (lo ≤ k) && b != Memory.blank && Memory.okFrom (k + 1) t

/-- The canonical form of archive memory. -/
def Memory.wf (m : Memory) : Bool := Memory.okFrom 0 m

end Sys2Proof.Machine
end

