-- ==== Sys2Proof/Machine/FaultSlots.lean ====
section
/-! DEFINITION. The fault sources (R398, R399, R403): the kinds in the order of R398, the slots of their instances, the domain of a
slot, and the reset value of a slot's configuration. The severities come from the fault table of each chapter. -/
namespace Sys2Proof.Machine

/-- The source kinds, in the order R398 numbers them. -/
inductive FKind where
  | TIM_REF_LOSS | TIM_PPS_LOSS | TIM_TCLK_UNLOCK | TIM_CAL_JUMP | TIM_CAL_FAIL | TIM_TRIG_LATE
  | TIM_PPS_REJECT | TIM_TOD_BAD | ED_EXPIRED | ED_STUCK | KST_PARITY | PFX_PARITY
  | OVF_SCRUB | MIR_STALL | MIR_REPAIR_FAIL | STB_ECC_CORR | STB_DOUBLE_FREE | STB_POOL_LOW
  | RAT_OVER_CAP | RAT_MON_FAIL | ARC_ECC_CORR | ARC_CNT_LOST | ARC_SNAP_OVERRUN | ARC_LEDGER_FULL
  | ARC_CAP_LOST | DRM_ECC_CORR | DRM_ECC_UNCORR | DRM_TRAIN | DRM_ALERT | HST_LINK_DOWN
  | HST_PCIE_CORR | HST_PCIE_UNCORR | HST_DMA_TIMEOUT | HST_DOUBLE_POST | HST_RING_ERR | CLE_CS_ROM_PAR
  | CLE_CS_RAM_CORR | CLE_CS_UNCORR | CLE_STEP_OVERRUN | CLE_PATCH_AUTH | FOL_NO_IMAGE | FOL_COPY_BAD
  | FOL_NO_TACK | FOL_RECORD | FOL_TAMPER | OTP_PARITY | CKR_PLL_UNLOCK | HUNG_CROSSING
  | CKR_D2D_LINK | FLT_IN | FLT_GPIO_IN | RDR_PARITY | RDR_PARITY_DOUBLE | BRS_PARITY
  | GRP_PARITY | FENCE_TIMEOUT | AGE_LATE | CAT_ROW_PARITY | CAT_RES_PARITY | CAT_ROW_LOST
  | FAR_PARITY | FAR_PARITY_LOST | FAR_PROG_FAULT | STB_ECC_UNCORR | HAR_ECC_CORR | HAR_ECC_UNCORR
  | RAT_TCRIT | RAT_SENSOR | ARC_CONSERVE | PRT_SERDES_PLL | PRT_CT_UNDERRUN | PRT_AN_FAIL
  | PRT_TS_OVERFLOW | HAR_GATE_TOO_LONG | PRT_FEC_UNCORR | PRT_PFC_STORM | STB_LIST_BROKEN | HAR_GATE_CLOSED
  deriving DecidableEq, Repr

/-- The defaults of a source kind: its severity (or base severity when counted), the count N of a counted source, whether it
is counted, whether it is a level source (R399), and its reaction (R403: 0 NONE, 1 SAFE, 2 ARCHIVE). -/
structure FSrc where
  sev : Nat
  n : Nat
  counted : Bool
  level : Bool
  react : Nat
  deriving DecidableEq, Repr

/-- The number of a kind: its position in the table of R398. -/
def FKind.num : FKind → Nat
  | .TIM_REF_LOSS => 0
  | .TIM_PPS_LOSS => 1
  | .TIM_TCLK_UNLOCK => 2
  | .TIM_CAL_JUMP => 3
  | .TIM_CAL_FAIL => 4
  | .TIM_TRIG_LATE => 5
  | .TIM_PPS_REJECT => 6
  | .TIM_TOD_BAD => 7
  | .ED_EXPIRED => 8
  | .ED_STUCK => 9
  | .KST_PARITY => 10
  | .PFX_PARITY => 11
  | .OVF_SCRUB => 12
  | .MIR_STALL => 13
  | .MIR_REPAIR_FAIL => 14
  | .STB_ECC_CORR => 15
  | .STB_DOUBLE_FREE => 16
  | .STB_POOL_LOW => 17
  | .RAT_OVER_CAP => 18
  | .RAT_MON_FAIL => 19
  | .ARC_ECC_CORR => 20
  | .ARC_CNT_LOST => 21
  | .ARC_SNAP_OVERRUN => 22
  | .ARC_LEDGER_FULL => 23
  | .ARC_CAP_LOST => 24
  | .DRM_ECC_CORR => 25
  | .DRM_ECC_UNCORR => 26
  | .DRM_TRAIN => 27
  | .DRM_ALERT => 28
  | .HST_LINK_DOWN => 29
  | .HST_PCIE_CORR => 30
  | .HST_PCIE_UNCORR => 31
  | .HST_DMA_TIMEOUT => 32
  | .HST_DOUBLE_POST => 33
  | .HST_RING_ERR => 34
  | .CLE_CS_ROM_PAR => 35
  | .CLE_CS_RAM_CORR => 36
  | .CLE_CS_UNCORR => 37
  | .CLE_STEP_OVERRUN => 38
  | .CLE_PATCH_AUTH => 39
  | .FOL_NO_IMAGE => 40
  | .FOL_COPY_BAD => 41
  | .FOL_NO_TACK => 42
  | .FOL_RECORD => 43
  | .FOL_TAMPER => 44
  | .OTP_PARITY => 45
  | .CKR_PLL_UNLOCK => 46
  | .HUNG_CROSSING => 47
  | .CKR_D2D_LINK => 48
  | .FLT_IN => 49
  | .FLT_GPIO_IN => 50
  | .RDR_PARITY => 51
  | .RDR_PARITY_DOUBLE => 52
  | .BRS_PARITY => 53
  | .GRP_PARITY => 54
  | .FENCE_TIMEOUT => 55
  | .AGE_LATE => 56
  | .CAT_ROW_PARITY => 57
  | .CAT_RES_PARITY => 58
  | .CAT_ROW_LOST => 59
  | .FAR_PARITY => 60
  | .FAR_PARITY_LOST => 61
  | .FAR_PROG_FAULT => 62
  | .STB_ECC_UNCORR => 63
  | .HAR_ECC_CORR => 64
  | .HAR_ECC_UNCORR => 65
  | .RAT_TCRIT => 66
  | .RAT_SENSOR => 67
  | .ARC_CONSERVE => 68
  | .PRT_SERDES_PLL => 69
  | .PRT_CT_UNDERRUN => 70
  | .PRT_AN_FAIL => 71
  | .PRT_TS_OVERFLOW => 72
  | .HAR_GATE_TOO_LONG => 73
  | .PRT_FEC_UNCORR => 74
  | .PRT_PFC_STORM => 75
  | .STB_LIST_BROKEN => 76
  | .HAR_GATE_CLOSED => 77

/-- The kinds by number (R398). -/
def kindList : List FKind :=
  [.TIM_REF_LOSS, .TIM_PPS_LOSS, .TIM_TCLK_UNLOCK, .TIM_CAL_JUMP, .TIM_CAL_FAIL, .TIM_TRIG_LATE,
   .TIM_PPS_REJECT, .TIM_TOD_BAD, .ED_EXPIRED, .ED_STUCK, .KST_PARITY, .PFX_PARITY,
   .OVF_SCRUB, .MIR_STALL, .MIR_REPAIR_FAIL, .STB_ECC_CORR, .STB_DOUBLE_FREE, .STB_POOL_LOW,
   .RAT_OVER_CAP, .RAT_MON_FAIL, .ARC_ECC_CORR, .ARC_CNT_LOST, .ARC_SNAP_OVERRUN, .ARC_LEDGER_FULL,
   .ARC_CAP_LOST, .DRM_ECC_CORR, .DRM_ECC_UNCORR, .DRM_TRAIN, .DRM_ALERT, .HST_LINK_DOWN,
   .HST_PCIE_CORR, .HST_PCIE_UNCORR, .HST_DMA_TIMEOUT, .HST_DOUBLE_POST, .HST_RING_ERR, .CLE_CS_ROM_PAR,
   .CLE_CS_RAM_CORR, .CLE_CS_UNCORR, .CLE_STEP_OVERRUN, .CLE_PATCH_AUTH, .FOL_NO_IMAGE, .FOL_COPY_BAD,
   .FOL_NO_TACK, .FOL_RECORD, .FOL_TAMPER, .OTP_PARITY, .CKR_PLL_UNLOCK, .HUNG_CROSSING,
   .CKR_D2D_LINK, .FLT_IN, .FLT_GPIO_IN, .RDR_PARITY, .RDR_PARITY_DOUBLE, .BRS_PARITY,
   .GRP_PARITY, .FENCE_TIMEOUT, .AGE_LATE, .CAT_ROW_PARITY, .CAT_RES_PARITY, .CAT_ROW_LOST,
   .FAR_PARITY, .FAR_PARITY_LOST, .FAR_PROG_FAULT, .STB_ECC_UNCORR, .HAR_ECC_CORR, .HAR_ECC_UNCORR,
   .RAT_TCRIT, .RAT_SENSOR, .ARC_CONSERVE, .PRT_SERDES_PLL, .PRT_CT_UNDERRUN, .PRT_AN_FAIL,
   .PRT_TS_OVERFLOW, .HAR_GATE_TOO_LONG, .PRT_FEC_UNCORR, .PRT_PFC_STORM, .STB_LIST_BROKEN, .HAR_GATE_CLOSED]

/-- The defaults of each kind. A counted source has base severity INFO (the example of R419) and the window of 1 s. -/
def FKind.src : FKind → FSrc
  | .TIM_REF_LOSS => ⟨2, 0, false, true, 0⟩
  | .TIM_PPS_LOSS => ⟨2, 0, false, true, 0⟩
  | .TIM_TCLK_UNLOCK => ⟨2, 0, false, true, 0⟩
  | .TIM_CAL_JUMP => ⟨1, 0, false, false, 0⟩
  | .TIM_CAL_FAIL => ⟨2, 0, false, false, 0⟩
  | .TIM_TRIG_LATE => ⟨1, 0, false, false, 0⟩
  | .TIM_PPS_REJECT => ⟨0, 0, false, false, 0⟩
  | .TIM_TOD_BAD => ⟨0, 0, false, false, 0⟩
  | .ED_EXPIRED => ⟨1, 0, false, false, 0⟩
  | .ED_STUCK => ⟨2, 0, false, true, 0⟩
  | .KST_PARITY => ⟨0, 1000, true, false, 0⟩
  | .PFX_PARITY => ⟨0, 1000, true, false, 0⟩
  | .OVF_SCRUB => ⟨0, 16, true, false, 0⟩
  | .MIR_STALL => ⟨2, 0, false, false, 0⟩
  | .MIR_REPAIR_FAIL => ⟨0, 16, true, false, 0⟩
  | .STB_ECC_CORR => ⟨0, 10000, true, false, 0⟩
  | .STB_DOUBLE_FREE => ⟨2, 0, false, false, 0⟩
  | .STB_POOL_LOW => ⟨0, 0, false, false, 0⟩
  | .RAT_OVER_CAP => ⟨2, 0, false, true, 0⟩
  | .RAT_MON_FAIL => ⟨2, 0, false, true, 0⟩
  | .ARC_ECC_CORR => ⟨0, 10000, true, false, 0⟩
  | .ARC_CNT_LOST => ⟨0, 16, true, false, 0⟩
  | .ARC_SNAP_OVERRUN => ⟨0, 0, false, false, 0⟩
  | .ARC_LEDGER_FULL => ⟨1, 0, false, false, 0⟩
  | .ARC_CAP_LOST => ⟨0, 0, false, false, 0⟩
  | .DRM_ECC_CORR => ⟨0, 10000, true, false, 0⟩
  | .DRM_ECC_UNCORR => ⟨0, 16, true, false, 2⟩
  | .DRM_TRAIN => ⟨2, 0, false, false, 2⟩
  | .DRM_ALERT => ⟨2, 0, false, false, 2⟩
  | .HST_LINK_DOWN => ⟨2, 0, false, true, 0⟩
  | .HST_PCIE_CORR => ⟨0, 10000, true, false, 0⟩
  | .HST_PCIE_UNCORR => ⟨0, 16, true, false, 0⟩
  | .HST_DMA_TIMEOUT => ⟨1, 0, false, false, 0⟩
  | .HST_DOUBLE_POST => ⟨0, 0, false, false, 0⟩
  | .HST_RING_ERR => ⟨0, 0, false, false, 0⟩
  | .CLE_CS_ROM_PAR => ⟨0, 0, false, false, 0⟩
  | .CLE_CS_RAM_CORR => ⟨0, 0, false, false, 0⟩
  | .CLE_CS_UNCORR => ⟨3, 0, false, false, 0⟩
  | .CLE_STEP_OVERRUN => ⟨2, 0, false, false, 0⟩
  | .CLE_PATCH_AUTH => ⟨1, 0, false, false, 0⟩
  | .FOL_NO_IMAGE => ⟨2, 0, false, false, 0⟩
  | .FOL_COPY_BAD => ⟨1, 0, false, false, 0⟩
  | .FOL_NO_TACK => ⟨1, 0, false, false, 0⟩
  | .FOL_RECORD => ⟨1, 0, false, false, 0⟩
  | .FOL_TAMPER => ⟨3, 0, false, false, 0⟩
  | .OTP_PARITY => ⟨2, 0, false, false, 0⟩
  | .CKR_PLL_UNLOCK => ⟨3, 0, false, true, 1⟩
  | .HUNG_CROSSING => ⟨2, 0, false, false, 0⟩
  | .CKR_D2D_LINK => ⟨3, 0, false, true, 1⟩
  | .FLT_IN => ⟨3, 0, false, true, 1⟩
  | .FLT_GPIO_IN => ⟨2, 0, false, true, 0⟩
  | .RDR_PARITY => ⟨0, 1000, true, false, 0⟩
  | .RDR_PARITY_DOUBLE => ⟨0, 16, true, false, 1⟩
  | .BRS_PARITY => ⟨0, 1000, true, false, 0⟩
  | .GRP_PARITY => ⟨0, 1000, true, false, 0⟩
  | .FENCE_TIMEOUT => ⟨1, 0, false, false, 0⟩
  | .AGE_LATE => ⟨0, 0, false, false, 0⟩
  | .CAT_ROW_PARITY => ⟨0, 1000, true, false, 0⟩
  | .CAT_RES_PARITY => ⟨0, 1000, true, false, 0⟩
  | .CAT_ROW_LOST => ⟨0, 16, true, false, 1⟩
  | .FAR_PARITY => ⟨0, 1000, true, false, 0⟩
  | .FAR_PARITY_LOST => ⟨0, 16, true, false, 1⟩
  | .FAR_PROG_FAULT => ⟨0, 0, false, false, 0⟩
  | .STB_ECC_UNCORR => ⟨0, 16, true, false, 1⟩
  | .HAR_ECC_CORR => ⟨0, 10000, true, false, 0⟩
  | .HAR_ECC_UNCORR => ⟨0, 16, true, false, 1⟩
  | .RAT_TCRIT => ⟨3, 0, false, true, 1⟩
  | .RAT_SENSOR => ⟨1, 0, false, false, 0⟩
  | .ARC_CONSERVE => ⟨0, 3, true, false, 0⟩
  | .PRT_SERDES_PLL => ⟨3, 0, false, true, 1⟩
  | .PRT_CT_UNDERRUN => ⟨1, 0, false, false, 0⟩
  | .PRT_AN_FAIL => ⟨0, 0, false, false, 0⟩
  | .PRT_TS_OVERFLOW => ⟨0, 0, false, false, 0⟩
  | .HAR_GATE_TOO_LONG => ⟨0, 0, false, false, 0⟩
  | .PRT_FEC_UNCORR => ⟨0, 10000, true, false, 1⟩
  | .PRT_PFC_STORM => ⟨0, 4, true, false, 0⟩
  | .STB_LIST_BROKEN => ⟨3, 0, false, true, 1⟩
  | .HAR_GATE_CLOSED => ⟨1, 0, false, false, 0⟩

/-- The kind of a slot, if the slot is not reserved (R398). -/
def slotKind (s : Nat) : Option FKind :=
  if s ≤ 11 then kindList[s]?
  else if s ≤ 20 then some .OVF_SCRUB
  else if s ≤ 36 then kindList[s - 8]?
  else if s ≤ 48 then kindList[29 + (s - 37) / 2]?
  else if s ≤ 61 then kindList[s - 14]?
  else if s ≤ 69 then some .CKR_D2D_LINK
  else if s = 70 then some .FLT_IN
  else if s ≤ 86 then some .FLT_GPIO_IN
  else if s ≤ 127 then none
  else if s ≤ 271 then kindList[51 + (s - 128) / 8]?
  else if s ≤ 279 then some .PRT_SERDES_PLL
  else if s ≤ 311 then kindList[70 + (s - 280) / 8]?
  else if s ≤ 1023 then none
  else if s ≤ 2047 then kindList[74 + (s - 1024) / 256]?
  else none

/-- The slot of an instance x of a kind: a pipeline, a chiplet, a host, a GPIO or a port, 0 where there is one instance
(R398); for OVF_SCRUB, x is the pipeline or 8 for the key store. -/
def slotOf (k : FKind) (x : Nat) : Nat :=
  let n := k.num
  if n ≤ 11 then n
  else if n = 12 then 12 + x
  else if n ≤ 28 then n + 8
  else if n ≤ 34 then 37 + 2 * (n - 29) + x
  else if n ≤ 47 then n + 14
  else if n = 48 then 62 + x
  else if n = 49 then 70
  else if n = 50 then 71 + x
  else if n ≤ 68 then 128 + 8 * (n - 51) + x
  else if n = 69 then 272 + x
  else if n ≤ 73 then 280 + 8 * (n - 70) + x
  else 1024 + 256 * (n - 74) + x

/-- A fault domain as its 16-bit value (R400): level 0 lane, 1 port, 2 pipeline, 3 chiplet, 4 chip. -/
def domainOf (level inst : Nat) : Nat := level * 0x2000 + inst

/-- The chip domain. -/
def chipDomain : Nat := domainOf 4 0

/-- The domain of a slot, for the slots whose domain is fixed (R398), the port of slots 280 to 311 being named by DETAIL; FLT_IN and FLT_GPIO_IN are
programmed. -/
def slotDomain (s detail : Nat) : Nat :=
  if s < 12 then chipDomain
  else if s < 20 then domainOf 2 (s - 12)
  else if s ≤ 61 then chipDomain
  else if s ≤ 69 then domainOf 3 (s - 62)
  else if s ≤ 127 then chipDomain
  else if s ≤ 271 then domainOf 2 ((s - 128) % 8)
  else if s ≤ 279 then domainOf 3 (s - 272)
  else if s ≤ 311 then domainOf 1 (detail % 256)
  else if 1024 ≤ s then domainOf 1 ((s - 1024) % 256)
  else chipDomain

/-- The reset word of `FLT_SRC_CFG[s]` (R398, R399, R403); a reserved slot reads 0. -/
def srcCfgReset (s : Nat) : Nat :=
  match slotKind s with
  | none => 0
  | some k =>
    let d := k.src
    2 ^ 31 + d.react * 2 ^ 28 + d.sev * 2 ^ 26 + (if d.counted then 2 ^ 25 else 0) + (if d.level then 2 ^ 24 else 0)
      + 20 * 2 ^ 16 + d.n

end Sys2Proof.Machine
end

