-- ==== Sys2Proof/Machine/RegMap.lean ====
section
/-! DEFINITION. The register map of BAR0 (R464, R466): every register table of the manual as data. One constructor of `Reg` per
register (a register of several words with different layouts has one constructor per layout), its block, its offset, its index
strides, its fields with access type, reset value and level, and one constant per field. The text was set out from the
register tables of the chapters of spec/; `Reg.resetWord` gives the word a register holds at reset. -/
namespace Sys2Proof.Machine

/-- The blocks of R464 and the pipeline sub-blocks of R466. -/
inductive Block where
  | GEN | TIM | HST | CLE | FOL | FLT | RAT | CKR | DRM | ARC | KST | STB | PRT | RDR | BRS | CAT | FAR | HAR | PAR
  deriving DecidableEq, Repr

/-- The access types of R5. -/
inductive Acc where
  | ro | rw | w1c | wo | rws | rwl
  deriving DecidableEq, Repr

/-- One field of a register: bits `hi` down to `lo`, access type, reset value, and whether its level is X (R9). -/
structure FieldDesc where
  hi : Nat
  lo : Nat
  acc : Acc
  rst : Nat
  expert : Bool
  deriving DecidableEq, Repr

/-- One register: its block, its offset in the block, and up to three index dimensions as (count, stride). -/
structure RegDesc where
  block : Block
  off : Nat
  dims : List (Nat × Nat)
  fields : List FieldDesc
  deriving DecidableEq, Repr

/-- The registers of the EF9. -/
inductive Reg where
  | GEN_ID | GEN_STRAPS | GEN_OWNER_CAS | GEN_OWNER_MAP
  | GEN_EXPERT_GATE | TIM_STATUS | TIM_CFG | TIM_PPS_WIN
  | TIM_PPS_DELAY | TIM_PPS_CAP | TIM_PPS_REJ | TIM_PPS_COUNTS
  | TIM_NOW | TIM_RUN | TIM_SET | TIM_FREQ_LO
  | TIM_FREQ_HI | TIM_STEP | TIM_CTRL | TIM_CHANGE
  | TIM_TOD_CFG | TIM_TOD_RX | TIM_TOD_COUNTS | TIM_PPS_OUT
  | TIM_PPS_OUT_DELAY | TIM_CAL_CTRL | TIM_CAL_STATUS | TIM_CHIPLET_ASYM
  | TIM_SYNCE | TIM_SYNCE_EN | TIM_GPIO_CFG | TIM_GPIO_CAP
  | TIM_GPIO_STAT | TIM_TRIG_CTRL | TIM_TRIG_TIME | TIM_TRIG_INTERVAL
  | TIM_EXPERT_GATE | HST_MODE | HST_LINK | HST_PCIE_ERR
  | HST_REJECT_LOG | HST_REJECT_COUNT | HST_POOL_LO | HST_POOL_HI
  | HST_POOL_CFG | HST_POOL_STAT | HST_SB_CFG | HST_SB_INT
  | HST_SB_MASK | HST_PUNT_MAP | HST_CNT | HST_CH_BASE_LO
  | HST_CH_BASE_HI | HST_CH_CFG | HST_CH_MOD | HST_CH_WB_LO
  | HST_CH_WB_HI | HST_CH_DEV_IDX | HST_CH_HOST_IDX | HST_CH_STAT
  | HST_EXPERT_GATE | CLE_STATUS | CLE_CTRL | CLE_UCODE_VER
  | CLE_GAP_MAX | CLE_CS_STATUS | CLE_CS_LAST | CLE_UCODE_DIGEST
  | CLE_CMD_COUNT | CLE_CMD_FAIL | CLE_MIRROR_CFG | CLE_MIRROR_BASE_LO
  | CLE_MIRROR_BASE_HI | CLE_MIRROR_SIZE | CLE_MIRROR_NEED | CLE_MIRROR_STATUS
  | CLE_REPAIR_CFG | CLE_REPAIR_STATUS | CLE_ED_STATUS | CLE_ED_NUM
  | CLE_ED_TIMEOUT | CLE_ED_RESIDENT | CLE_ED_SWITCH_TIME | CLE_ED_DRAIN
  | CLE_PATCH_MAP | CLE_TAW_CTRL | CLE_TAW_RESULT | CLE_TAW_CMD
  | CLE_TAW_DATA | CLE_EXPERT_GATE | FOL_BOOT_STATUS | FOL_BOOT_SEQ
  | FOL_COPY_STATUS | FOL_BOOT_ERR | FOL_BOOT_ERR_ADDR | FOL_BOOT_TIME
  | FOL_WARM_TACK | FOL_TACK_AVAIL | FOL_TACK_STATUS | FOL_OTP_POLICY
  | FOL_OTP_PROG | FOL_FL_ADDR | FOL_FL_CTRL | FOL_FL_DATA
  | FOL_EXPERT_GATE | FLT_CFG | FLT_STATUS | FLT_DAYBOOK_HEAD
  | FLT_DAYBOOK_SEQ | FLT_HOST_INT | FLT_SCOPE_CFG | FLT_SCOPE_WIN
  | FLT_DOM_SEL | FLT_DOM_STATE | FLT_DOM_CLEAR | FLT_IN_CFG
  | FLT_IN_STATUS | FLT_INJECT | FLT_INJECT_INDEX | FLT_GPIO
  | FLT_GPIO_DOM | FLT_GPIO_OSEV | FLT_GPIO_IN | FLT_REC
  | FLT_REC_MERGED | FLT_REC_FIRST | FLT_REC_LAST | FLT_REC_KINDS
  | FLT_REC_INFO | FLT_DAYBOOK | FLT_DAYBOOK_CNT | FLT_DAYBOOK_DETAIL
  | FLT_DAYBOOK_ESEQ | FLT_DAYBOOK_TIME | FLT_DAYBOOK_RSVD | FLT_SRC_CFG | FLT_SRC_CNT
  | FLT_FORCE | FLT_EXPERT_GATE | RAT_CFG | RAT_CAP_HOST
  | RAT_CAP_BOARD | RAT_POWER | RAT_WORK | RAT_LOOP
  | RAT_SHED | RAT_THERM | RAT_OVER | RAT_AVS
  | RAT_PIPE_ALLOW | RAT_PIPE_STAT | RAT_SENSOR | RAT_EXPERT_GATE
  | CKR_RUN | CKR_RUN_OCT | CKR_PLL_STATUS | CKR_STOP
  | CKR_RESET | CKR_RESET_STATUS | CKR_CHIPLET_RESET | CKR_XRESET
  | CKR_XCFG | CKR_HUNG_LAST | CKR_XSTATUS | CKR_D2D_STATUS
  | CKR_EXPERT_GATE | DRM_CFG | DRM_STATUS | DRM_SCHED
  | DRM_ARB | DRM_REF | DRM_TRAIN | DRM_SCRUB
  | DRM_TIMING_ADJ | DRM_ECC_COUNT | DRM_ERR_HEAD | DRM_ERR_LOG
  | DRM_ERR_ADDR_LO | DRM_ERR_ADDR_HI | DRM_ERR_SYND | DRM_ERR_TIME
  | DRM_EXPERT_GATE | ARC_CFG | ARC_SNAP_BASE_LO | ARC_SNAP_BASE_HI
  | ARC_SNAP_SIZE | ARC_SNAP_STATUS | ARC_CONS_LAST | ARC_LEDGER_BASE_LO
  | ARC_LEDGER_BASE_HI | ARC_LEDGER_CFG | ARC_FLOW_TIMERS | ARC_LEDGER_STATUS
  | ARC_CAP_BASE_LO | ARC_CAP_BASE_HI | ARC_CAP_CFG | ARC_CAP_POST
  | ARC_CAP_RATE | ARC_CAP_STATUS | ARC_CAP_STOP_SEQ | ARC_CAP_DROP_MASK
  | ARC_EXPORT | ARC_EXPERT_GATE | KST_HASH | KST_SEED
  | KST_COUNT | KST_OVF_COUNT | KST_PFX_UNITS | KST_PFX_COUNT
  | KST_PFX_COUNT6 | KST_PAR_STATUS | KST_SCRUB | KST_EXPERT_GATE
  | STB_CFG | STB_STATUS | STB_POOL_CFG | STB_POOL_COUNT
  | STB_POOL_FREE | STB_POOL_LOW | STB_POOL_RSV | STB_SLIP
  | STB_SLIP_LOW | STB_ERR_LAST | STB_MIRROR | STB_ING_LIMIT
  | STB_ING_XOFF | STB_ING_XON | STB_ING_USED | STB_EG_LIMIT
  | STB_EG_USED | STB_EG_PORT | STB_EXPERT_GATE | PRT_OCT_MODE
  | PRT_OCT_TXMAP | PRT_OCT_RXMAP | PRT_OCT_STATUS | PRT_CFG
  | PRT_TIMERS | PRT_STATE | PRT_EVENTS | PRT_FC_CFG
  | PRT_PRIO_MAP | PRT_PFC_WD | PRT_PFC_STATUS | PRT_SA_LO
  | PRT_SA_HI | PRT_PTP_CFG | PRT_PTP_RX_ADJ | PRT_TS_FIFO
  | PRT_LANE_CFG | PRT_LANE_STATUS | PRT_LANE_TXEQ | PRT_EXPERT_GATE
  | RDR_CFG | RDR_DISC_A | RDR_DISC_B | RDR_FAIL_LAST
  | RDR_FAIL_TIME | RDR_PAR_STATUS | RDR_SCRUB | RDR_PROFILE
  | RDR_EXPERT_GATE | BRS_HASH | BRS_SEED | BRS_COUNT
  | BRS_OVF_COUNT | BRS_GRP_HASH | BRS_GRP_SEED | BRS_PAR_STATUS
  | BRS_SCRUB | BRS_PORT | BRS_RMAC_LO | BRS_RMAC_HI
  | BRS_LEARN_CFG | BRS_LEARN_STATUS | BRS_AGE_CFG | BRS_AGE_STATUS
  | BRS_LEARN_PORT | BRS_LEARN_COUNT | BRS_BD_LIMIT_EN | BRS_EXPERT_GATE
  | BRS_BD_LEARN | CAT_CFG | CAT_SCRUB | CAT_PAR_STATUS
  | CAT_MOVE_STATUS | CAT_USE | CAT_SLICE_I | CAT_SLICE_E
  | CAT_EXPERT_GATE | FAR_CFG | FAR_STATUS | FAR_FAULT_LAST
  | FAR_PAR_STATUS | FAR_SCRUB | FAR_PORT | FAR_EXPERT_GATE
  | HAR_OVH | HAR_ERR_LAST | HAR_PORT_COL | HAR_GATE_CFG
  | HAR_GATE_STAT | HAR_GATE_SWAPS | HAR_CAD_BASE | HAR_CAD_CYCLE
  | HAR_CAD_LEN | HAR_EXPERT_GATE | PAR_FLOW_CFG | PAR_FLOW_SEED
  | PAR_FLOW_STATUS | PAR_FLOW_MASK_LO | PAR_FLOW_MASK_HI | PAR_FLOW_PROF
  | PAR_EXPERT_GATE
  deriving DecidableEq, Repr

/-- A field of a register, by register and bit range. -/
structure Fld where
  reg : Reg
  hi : Nat
  lo : Nat
  deriving DecidableEq, Repr

/-- True for the sub-blocks of a pipeline window (R466). -/
def Block.perPipe : Block → Bool
  | .PRT | .RDR | .BRS | .CAT | .FAR | .HAR | .PAR => true
  | _ => false

/-- The BAR0 base of a block; a sub-block's base depends on the pipeline p (R464, R466). -/
def Block.base (p : Nat) : Block → Nat
  | .GEN => 0x0
  | .TIM => 0x10000
  | .HST => 0x20000
  | .CLE => 0x30000
  | .FOL => 0x40000
  | .FLT => 0x50000
  | .RAT => 0x60000
  | .CKR => 0x70000
  | .DRM => 0x80000
  | .ARC => 0x90000
  | .KST => 0xA0000
  | .STB => 0xB0000
  | .PRT => 0x1000000 + p * 0x200000 + 0x0
  | .RDR => 0x1000000 + p * 0x200000 + 0x40000
  | .BRS => 0x1000000 + p * 0x200000 + 0x60000
  | .CAT => 0x1000000 + p * 0x200000 + 0x80000
  | .FAR => 0x1000000 + p * 0x200000 + 0xA0000
  | .HAR => 0x1000000 + p * 0x200000 + 0xC0000
  | .PAR => 0x1000000 + p * 0x200000 + 0xE0000

/-- The description of each register, from its register table. -/
def Reg.desc : Reg → RegDesc
  | .GEN_ID => ⟨.GEN, 0x0, [], [⟨31, 16, .ro, 0xef95, false⟩, ⟨7, 0, .ro, 16, false⟩]⟩
  | .GEN_STRAPS => ⟨.GEN, 0x4, [], [⟨5, 5, .ro, 0, false⟩, ⟨4, 3, .ro, 0, false⟩, ⟨2, 0, .ro, 0, false⟩]⟩
  | .GEN_OWNER_CAS => ⟨.GEN, 0x100, [], [⟨29, 29, .ro, 0, false⟩, ⟨28, 28, .ro, 0, false⟩, ⟨27, 26, .ro, 0, false⟩, ⟨16, 16, .wo, 0, false⟩, ⟨13, 12, .wo, 0, false⟩, ⟨9, 8, .wo, 0, false⟩, ⟨5, 0, .rw, 0, false⟩]⟩
  | .GEN_OWNER_MAP => ⟨.GEN, 0x110, [(4, 0x4)], [⟨31, 0, .ro, 0, false⟩]⟩
  | .GEN_EXPERT_GATE => ⟨.GEN, 0xFFFC, [], [⟨9, 9, .ro, 0, false⟩, ⟨8, 8, .ro, 0, false⟩, ⟨7, 0, .wo, 0, false⟩]⟩
  | .TIM_STATUS => ⟨.TIM, 0x0, [], [⟨8, 8, .w1c, 0, false⟩, ⟨7, 7, .ro, 1, false⟩, ⟨6, 6, .ro, 0, false⟩, ⟨5, 5, .ro, 0, false⟩, ⟨4, 4, .ro, 0, false⟩, ⟨3, 3, .ro, 0, false⟩, ⟨2, 2, .ro, 0, false⟩, ⟨1, 0, .ro, 0, false⟩]⟩
  | .TIM_CFG => ⟨.TIM, 0x4, [], [⟨11, 4, .rw, 3, false⟩, ⟨3, 3, .rw, 0, false⟩, ⟨2, 2, .rw, 0, false⟩, ⟨1, 0, .rw, 2, false⟩]⟩
  | .TIM_PPS_WIN => ⟨.TIM, 0x8, [], [⟨16, 0, .rw, 1000, false⟩]⟩
  | .TIM_PPS_DELAY => ⟨.TIM, 0xC, [], [⟨23, 0, .rw, 0, false⟩]⟩
  | .TIM_PPS_CAP => ⟨.TIM, 0x10, [(3, 0x4)], [⟨31, 0, .ro, 0, false⟩]⟩
  | .TIM_PPS_REJ => ⟨.TIM, 0x1C, [(3, 0x4)], [⟨31, 0, .ro, 0, false⟩]⟩
  | .TIM_PPS_COUNTS => ⟨.TIM, 0x28, [], [⟨31, 16, .ro, 0, false⟩, ⟨15, 0, .ro, 0, false⟩]⟩
  | .TIM_NOW => ⟨.TIM, 0x30, [(3, 0x4)], [⟨31, 0, .ro, 0, false⟩]⟩
  | .TIM_RUN => ⟨.TIM, 0x3C, [(2, 0x4)], [⟨31, 0, .ro, 0, false⟩]⟩
  | .TIM_SET => ⟨.TIM, 0x44, [(3, 0x4)], [⟨31, 0, .rw, 0, false⟩]⟩
  | .TIM_FREQ_LO => ⟨.TIM, 0x50, [], [⟨31, 0, .rw, 0, true⟩]⟩
  | .TIM_FREQ_HI => ⟨.TIM, 0x54, [], [⟨31, 0, .rw, 0x10000, true⟩]⟩
  | .TIM_STEP => ⟨.TIM, 0x58, [(3, 0x4)], [⟨31, 0, .rw, 0, false⟩]⟩
  | .TIM_CTRL => ⟨.TIM, 0x64, [], [⟨3, 3, .wo, 0, true⟩, ⟨2, 2, .wo, 0, false⟩, ⟨1, 1, .wo, 0, false⟩, ⟨0, 0, .wo, 0, false⟩]⟩
  | .TIM_CHANGE => ⟨.TIM, 0x68, [], [⟨31, 24, .ro, 0, false⟩, ⟨23, 8, .ro, 0, false⟩, ⟨0, 0, .ro, 0, false⟩]⟩
  | .TIM_TOD_CFG => ⟨.TIM, 0x70, [], [⟨31, 24, .rw, 248, false⟩, ⟨23, 8, .rw, 0, false⟩, ⟨3, 3, .rw, 0, false⟩, ⟨2, 2, .rw, 0, false⟩, ⟨1, 0, .rw, 0, false⟩]⟩
  | .TIM_TOD_RX => ⟨.TIM, 0x74, [(4, 0x4)], [⟨31, 0, .ro, 0, false⟩]⟩
  | .TIM_TOD_COUNTS => ⟨.TIM, 0x84, [], [⟨31, 24, .ro, 0, false⟩, ⟨23, 16, .ro, 0, false⟩, ⟨15, 0, .ro, 0, false⟩]⟩
  | .TIM_PPS_OUT => ⟨.TIM, 0x90, [], [⟨21, 2, .rw, 0x186a0, false⟩, ⟨1, 1, .rw, 0, false⟩, ⟨0, 0, .rw, 1, false⟩]⟩
  | .TIM_PPS_OUT_DELAY => ⟨.TIM, 0x94, [], [⟨23, 0, .rw, 0, false⟩]⟩
  | .TIM_CAL_CTRL => ⟨.TIM, 0xA0, [], [⟨14, 1, .rw, 1000, true⟩, ⟨0, 0, .wo, 0, true⟩]⟩
  | .TIM_CAL_STATUS => ⟨.TIM, 0xA4, [], [⟨15, 8, .w1c, 0, false⟩, ⟨7, 0, .ro, 0, false⟩]⟩
  | .TIM_CHIPLET_ASYM => ⟨.TIM, 0xC0, [(8, 0x4)], [⟨15, 0, .rw, 0, true⟩]⟩
  | .TIM_SYNCE => ⟨.TIM, 0x110, [(2, 0x4)], [⟨27, 20, .ro, 0, false⟩, ⟨19, 19, .ro, 1, false⟩, ⟨18, 18, .rw, 0, false⟩, ⟨17, 16, .rw, 0, false⟩, ⟨15, 8, .rw, 0, false⟩, ⟨7, 0, .rw, 0, false⟩]⟩
  | .TIM_SYNCE_EN => ⟨.TIM, 0x118, [], [⟨1, 0, .rw, 0, false⟩]⟩
  | .TIM_GPIO_CFG => ⟨.TIM, 0x120, [(2, 0x4)], [⟨31, 8, .rw, 0, false⟩, ⟨1, 0, .rw, 0, false⟩]⟩
  | .TIM_GPIO_CAP => ⟨.TIM, 0x130, [(2, 0x10), (3, 0x4)], [⟨31, 0, .ro, 0, false⟩]⟩
  | .TIM_GPIO_STAT => ⟨.TIM, 0x150, [], [⟨31, 16, .ro, 0, false⟩, ⟨15, 0, .ro, 0, false⟩]⟩
  | .TIM_TRIG_CTRL => ⟨.TIM, 0x200, [(16, 0x20)], [⟨23, 16, .ro, 0, false⟩, ⟨12, 12, .w1c, 0, false⟩, ⟨11, 11, .w1c, 0, false⟩, ⟨10, 10, .w1c, 0, false⟩, ⟨9, 9, .ro, 0, false⟩, ⟨8, 8, .wo, 0, false⟩, ⟨3, 0, .rw, 0, false⟩]⟩
  | .TIM_TRIG_TIME => ⟨.TIM, 0x204, [(16, 0x20), (3, 0x4)], [⟨31, 0, .rw, 0, false⟩]⟩
  | .TIM_TRIG_INTERVAL => ⟨.TIM, 0x210, [(16, 0x20), (2, 0x4)], [⟨31, 0, .rw, 0, false⟩]⟩
  | .TIM_EXPERT_GATE => ⟨.TIM, 0xFFFC, [], [⟨9, 9, .ro, 0, false⟩, ⟨8, 8, .ro, 0, false⟩, ⟨7, 0, .wo, 0, false⟩]⟩
  | .HST_MODE => ⟨.HST, 0x0, [], [⟨1, 0, .ro, 0, false⟩]⟩
  | .HST_LINK => ⟨.HST, 0x10, [(2, 0x4)], [⟨10, 10, .ro, 1, false⟩, ⟨9, 9, .ro, 0, false⟩, ⟨8, 4, .ro, 0, false⟩, ⟨3, 1, .ro, 0, false⟩, ⟨0, 0, .ro, 0, false⟩]⟩
  | .HST_PCIE_ERR => ⟨.HST, 0x18, [(2, 0x4)], [⟨31, 16, .ro, 0, false⟩, ⟨15, 0, .ro, 0, false⟩]⟩
  | .HST_REJECT_LOG => ⟨.HST, 0x20, [(6, 0x4)], [⟨31, 0, .ro, 0, false⟩]⟩
  | .HST_REJECT_COUNT => ⟨.HST, 0x40, [(3, 0x4)], [⟨31, 0, .ro, 0, false⟩]⟩
  | .HST_POOL_LO => ⟨.HST, 0x100, [(8, 0x20)], [⟨31, 12, .rw, 0, false⟩]⟩
  | .HST_POOL_HI => ⟨.HST, 0x104, [(8, 0x20)], [⟨31, 0, .rw, 0, false⟩]⟩
  | .HST_POOL_CFG => ⟨.HST, 0x108, [(8, 0x20)], [⟨31, 31, .rw, 0, false⟩, ⟨22, 16, .rw, 0, false⟩, ⟨15, 0, .rw, 0, false⟩]⟩
  | .HST_POOL_STAT => ⟨.HST, 0x10C, [(8, 0x20)], [⟨31, 20, .ro, 0, false⟩, ⟨16, 0, .ro, 0, false⟩]⟩
  | .HST_SB_CFG => ⟨.HST, 0x200, [], [⟨8, 8, .rw, 1, true⟩, ⟨6, 0, .rw, 92, true⟩]⟩
  | .HST_SB_INT => ⟨.HST, 0x204, [], [⟨2, 2, .w1c, 0, false⟩, ⟨1, 1, .w1c, 0, false⟩, ⟨0, 0, .w1c, 0, false⟩]⟩
  | .HST_SB_MASK => ⟨.HST, 0x208, [], [⟨2, 0, .rw, 0, false⟩]⟩
  | .HST_PUNT_MAP => ⟨.HST, 0x300, [(32, 0x4)], [⟨3, 3, .rw, 0, false⟩, ⟨2, 0, .rw, 6, false⟩]⟩
  | .HST_CNT => ⟨.HST, 0x400, [(2, 0x100), (18, 0x8), (2, 0x4)], [⟨31, 0, .ro, 0, false⟩]⟩
  | .HST_CH_BASE_LO => ⟨.HST, 0x1000, [(64, 0x40)], [⟨31, 12, .rw, 0, false⟩]⟩
  | .HST_CH_BASE_HI => ⟨.HST, 0x1004, [(64, 0x40)], [⟨31, 0, .rw, 0, false⟩]⟩
  | .HST_CH_CFG => ⟨.HST, 0x1008, [(64, 0x40)], [⟨31, 31, .rw, 0, false⟩, ⟨29, 24, .rw, 6, false⟩, ⟨23, 16, .rw, 0, false⟩, ⟨15, 15, .rw, 0, false⟩, ⟨7, 0, .rw, 1, false⟩]⟩
  | .HST_CH_MOD => ⟨.HST, 0x100C, [(64, 0x40)], [⟨9, 0, .rw, 0, false⟩]⟩
  | .HST_CH_WB_LO => ⟨.HST, 0x1010, [(64, 0x40)], [⟨31, 3, .rw, 0, false⟩]⟩
  | .HST_CH_WB_HI => ⟨.HST, 0x1014, [(64, 0x40)], [⟨31, 0, .rw, 0, false⟩]⟩
  | .HST_CH_DEV_IDX => ⟨.HST, 0x1018, [(64, 0x40)], [⟨31, 0, .ro, 0, false⟩]⟩
  | .HST_CH_HOST_IDX => ⟨.HST, 0x101C, [(64, 0x40)], [⟨31, 0, .ro, 0, false⟩]⟩
  | .HST_CH_STAT => ⟨.HST, 0x1020, [(64, 0x40)], [⟨2, 2, .ro, 0, false⟩, ⟨1, 1, .ro, 0, false⟩, ⟨0, 0, .w1c, 0, false⟩]⟩
  | .HST_EXPERT_GATE => ⟨.HST, 0xFFFC, [], [⟨9, 9, .ro, 0, false⟩, ⟨8, 8, .ro, 0, false⟩, ⟨7, 0, .wo, 0, false⟩]⟩
  | .CLE_STATUS => ⟨.CLE, 0x0, [], [⟨5, 5, .ro, 0, false⟩, ⟨4, 4, .ro, 0, false⟩, ⟨3, 3, .ro, 0, false⟩, ⟨2, 2, .ro, 0, false⟩, ⟨1, 1, .ro, 0, false⟩, ⟨0, 0, .ro, 0, false⟩]⟩
  | .CLE_CTRL => ⟨.CLE, 0x4, [], [⟨0, 0, .rw, 0, true⟩]⟩
  | .CLE_UCODE_VER => ⟨.CLE, 0x10, [], [⟨31, 16, .ro, 0, false⟩, ⟨15, 0, .ro, 0, false⟩]⟩
  | .CLE_GAP_MAX => ⟨.CLE, 0x20, [], [⟨31, 0, .rw, 0, false⟩]⟩
  | .CLE_CS_STATUS => ⟨.CLE, 0x30, [], [⟨31, 16, .ro, 0, false⟩, ⟨15, 0, .ro, 0, false⟩]⟩
  | .CLE_CS_LAST => ⟨.CLE, 0x34, [], [⟨31, 31, .w1c, 0, false⟩, ⟨30, 29, .ro, 0, false⟩, ⟨13, 0, .ro, 0, false⟩]⟩
  | .CLE_UCODE_DIGEST => ⟨.CLE, 0x40, [(12, 0x4)], [⟨31, 0, .ro, 0, false⟩]⟩
  | .CLE_CMD_COUNT => ⟨.CLE, 0x80, [(3, 0x4)], [⟨31, 0, .ro, 0, false⟩]⟩
  | .CLE_CMD_FAIL => ⟨.CLE, 0x90, [(3, 0x4)], [⟨31, 0, .ro, 0, false⟩]⟩
  | .CLE_MIRROR_CFG => ⟨.CLE, 0x400, [], [⟨23, 10, .rw, 1000, true⟩, ⟨3, 3, .rw, 1, false⟩, ⟨2, 2, .rw, 0, false⟩, ⟨1, 1, .rw, 0, false⟩, ⟨0, 0, .rw, 0, false⟩]⟩
  | .CLE_MIRROR_BASE_LO => ⟨.CLE, 0x408, [(2, 0x8)], [⟨31, 12, .rw, 0, false⟩]⟩
  | .CLE_MIRROR_BASE_HI => ⟨.CLE, 0x40C, [(2, 0x8)], [⟨31, 0, .rw, 0, false⟩]⟩
  | .CLE_MIRROR_SIZE => ⟨.CLE, 0x418, [(2, 0x4)], [⟨31, 0, .rw, 0, false⟩]⟩
  | .CLE_MIRROR_NEED => ⟨.CLE, 0x420, [], [⟨31, 0, .ro, 0, false⟩]⟩
  | .CLE_MIRROR_STATUS => ⟨.CLE, 0x424, [], [⟨31, 16, .ro, 0, false⟩, ⟨3, 3, .ro, 0, false⟩, ⟨2, 2, .ro, 0, false⟩, ⟨1, 1, .ro, 0, false⟩, ⟨0, 0, .ro, 0, false⟩]⟩
  | .CLE_REPAIR_CFG => ⟨.CLE, 0x428, [], [⟨31, 16, .rw, 0x4000, true⟩, ⟨13, 0, .rw, 100, true⟩]⟩
  | .CLE_REPAIR_STATUS => ⟨.CLE, 0x42C, [], [⟨31, 16, .ro, 0, false⟩, ⟨3, 0, .ro, 0, false⟩]⟩
  | .CLE_ED_STATUS => ⟨.CLE, 0x500, [], [⟨8, 8, .ro, 0, false⟩, ⟨6, 4, .ro, 0, false⟩, ⟨2, 0, .ro, 3, false⟩]⟩
  | .CLE_ED_NUM => ⟨.CLE, 0x504, [], [⟨31, 16, .ro, 0, false⟩, ⟨15, 0, .ro, 0, false⟩]⟩
  | .CLE_ED_TIMEOUT => ⟨.CLE, 0x508, [], [⟨16, 0, .rw, 0x2710, false⟩]⟩
  | .CLE_ED_RESIDENT => ⟨.CLE, 0x510, [(2, 0x4)], [⟨31, 0, .ro, 0, false⟩]⟩
  | .CLE_ED_SWITCH_TIME => ⟨.CLE, 0x520, [(3, 0x4)], [⟨31, 0, .ro, 0, false⟩]⟩
  | .CLE_ED_DRAIN => ⟨.CLE, 0x52C, [], [⟨31, 24, .ro, 0, false⟩, ⟨23, 0, .ro, 0, false⟩]⟩
  | .CLE_PATCH_MAP => ⟨.CLE, 0x800, [(64, 0x4)], [⟨31, 31, .ro, 0, true⟩, ⟨29, 16, .ro, 0, true⟩, ⟨12, 0, .ro, 0, true⟩]⟩
  | .CLE_TAW_CTRL => ⟨.CLE, 0x1000, [(3, 0x400)], [⟨15, 8, .ro, 0, false⟩, ⟨2, 2, .w1c, 0, false⟩, ⟨1, 1, .ro, 0, false⟩, ⟨0, 0, .wo, 0, false⟩]⟩
  | .CLE_TAW_RESULT => ⟨.CLE, 0x1008, [(3, 0x400), (2, 0x4)], [⟨31, 0, .ro, 0, false⟩]⟩
  | .CLE_TAW_CMD => ⟨.CLE, 0x1040, [(3, 0x400), (16, 0x4)], [⟨31, 0, .rw, 0, false⟩]⟩
  | .CLE_TAW_DATA => ⟨.CLE, 0x1200, [(3, 0x400), (128, 0x4)], [⟨31, 0, .rw, 0, false⟩]⟩
  | .CLE_EXPERT_GATE => ⟨.CLE, 0xFFFC, [], [⟨9, 9, .ro, 0, false⟩, ⟨8, 8, .ro, 0, false⟩, ⟨7, 0, .wo, 0, false⟩]⟩
  | .FOL_BOOT_STATUS => ⟨.FOL, 0x0, [], [⟨31, 16, .ro, 0, false⟩, ⟨12, 12, .ro, 0, false⟩, ⟨11, 11, .ro, 0, false⟩, ⟨10, 8, .ro, 7, false⟩, ⟨5, 4, .ro, 0, false⟩, ⟨3, 0, .ro, 0, false⟩]⟩
  | .FOL_BOOT_SEQ => ⟨.FOL, 0x4, [], [⟨31, 0, .ro, 0, false⟩]⟩
  | .FOL_COPY_STATUS => ⟨.FOL, 0x8, [], [⟨7, 4, .ro, 8, false⟩, ⟨3, 0, .ro, 8, false⟩]⟩
  | .FOL_BOOT_ERR => ⟨.FOL, 0xC, [], [⟨31, 31, .w1c, 0, false⟩, ⟨30, 27, .ro, 0, false⟩, ⟨23, 16, .ro, 0, false⟩, ⟨3, 0, .ro, 0, false⟩]⟩
  | .FOL_BOOT_ERR_ADDR => ⟨.FOL, 0x10, [], [⟨31, 0, .ro, 0, false⟩]⟩
  | .FOL_BOOT_TIME => ⟨.FOL, 0x14, [], [⟨15, 0, .ro, 0, false⟩]⟩
  | .FOL_WARM_TACK => ⟨.FOL, 0x20, [], [⟨3, 3, .rws, 0, false⟩, ⟨2, 0, .rws, 0, false⟩]⟩
  | .FOL_TACK_AVAIL => ⟨.FOL, 0x24, [], [⟨31, 16, .ro, 0, false⟩, ⟨14, 8, .ro, 0, false⟩, ⟨6, 0, .ro, 0, false⟩]⟩
  | .FOL_TACK_STATUS => ⟨.FOL, 0x28, [], [⟨31, 16, .ro, 0, false⟩, ⟨8, 8, .w1c, 0, false⟩, ⟨7, 7, .ro, 0, false⟩, ⟨6, 6, .ro, 0, false⟩, ⟨5, 3, .ro, 0, false⟩, ⟨2, 0, .ro, 7, false⟩]⟩
  | .FOL_OTP_POLICY => ⟨.FOL, 0x40, [], [⟨26, 24, .ro, 0, false⟩, ⟨23, 16, .ro, 0, false⟩, ⟨11, 8, .ro, 0, false⟩, ⟨7, 4, .ro, 0, false⟩, ⟨1, 1, .ro, 0, false⟩, ⟨0, 0, .ro, 0, false⟩]⟩
  | .FOL_OTP_PROG => ⟨.FOL, 0x48, [], [⟨31, 31, .wo, 0, true⟩, ⟨30, 30, .ro, 0, true⟩, ⟨29, 29, .w1c, 0, true⟩, ⟨11, 0, .rw, 0, true⟩]⟩
  | .FOL_FL_ADDR => ⟨.FOL, 0x80, [], [⟨31, 0, .rw, 0, false⟩]⟩
  | .FOL_FL_CTRL => ⟨.FOL, 0x84, [], [⟨31, 31, .wo, 0, false⟩, ⟨30, 30, .ro, 0, false⟩, ⟨29, 29, .w1c, 0, false⟩, ⟨9, 9, .rw, 0, false⟩, ⟨1, 0, .rw, 0, false⟩]⟩
  | .FOL_FL_DATA => ⟨.FOL, 0x100, [(64, 0x4)], [⟨31, 0, .rw, 0, false⟩]⟩
  | .FOL_EXPERT_GATE => ⟨.FOL, 0xFFFC, [], [⟨9, 9, .ro, 0, false⟩, ⟨8, 8, .ro, 0, false⟩, ⟨7, 0, .wo, 0, false⟩]⟩
  | .FLT_CFG => ⟨.FLT, 0x0, [], [⟨5, 4, .rw, 2, false⟩, ⟨3, 2, .rw, 1, false⟩, ⟨1, 0, .rw, 3, false⟩]⟩
  | .FLT_STATUS => ⟨.FLT, 0x4, [], [⟨17, 17, .ro, 0, false⟩, ⟨16, 16, .ro, 0, false⟩, ⟨13, 8, .ro, 0, false⟩, ⟨5, 0, .ro, 0, false⟩]⟩
  | .FLT_DAYBOOK_HEAD => ⟨.FLT, 0x8, [], [⟨31, 16, .ro, 0, false⟩, ⟨5, 0, .ro, 0, false⟩]⟩
  | .FLT_DAYBOOK_SEQ => ⟨.FLT, 0xC, [], [⟨31, 0, .ro, 0, false⟩]⟩
  | .FLT_HOST_INT => ⟨.FLT, 0x10, [(2, 0x4)], [⟨31, 31, .rw, 0, false⟩, ⟨9, 8, .rw, 1, false⟩, ⟨7, 0, .rw, 0, false⟩]⟩
  | .FLT_SCOPE_CFG => ⟨.FLT, 0x20, [(5, 0x8)], [⟨23, 16, .rw, 3, false⟩, ⟨15, 0, .rw, 100, false⟩]⟩
  | .FLT_SCOPE_WIN => ⟨.FLT, 0x24, [(5, 0x8)], [⟨15, 0, .rw, 3600, false⟩]⟩
  | .FLT_DOM_SEL => ⟨.FLT, 0x50, [], [⟨15, 0, .rw, 0, false⟩]⟩
  | .FLT_DOM_STATE => ⟨.FLT, 0x54, [], [⟨31, 31, .ro, 0, false⟩, ⟨30, 30, .ro, 0, false⟩, ⟨29, 29, .ro, 0, false⟩, ⟨28, 28, .ro, 0, false⟩, ⟨25, 24, .ro, 0, false⟩, ⟨20, 16, .ro, 0, false⟩, ⟨7, 0, .ro, 0, false⟩]⟩
  | .FLT_DOM_CLEAR => ⟨.FLT, 0x58, [], [⟨15, 0, .wo, 0, false⟩]⟩
  | .FLT_IN_CFG => ⟨.FLT, 0x60, [], [⟨31, 31, .rw, 0, false⟩, ⟨23, 16, .rw, 10, false⟩, ⟨15, 0, .rw, 0x8000, false⟩]⟩
  | .FLT_IN_STATUS => ⟨.FLT, 0x64, [], [⟨31, 16, .ro, 0, false⟩, ⟨1, 1, .ro, 0, false⟩, ⟨0, 0, .ro, 0, false⟩]⟩
  | .FLT_INJECT => ⟨.FLT, 0x70, [], [⟨31, 31, .wo, 0, true⟩, ⟨30, 30, .ro, 0, true⟩, ⟨29, 29, .rw, 0, true⟩, ⟨28, 28, .rw, 0, true⟩, ⟨27, 26, .rw, 0, true⟩, ⟨22, 20, .rw, 0, true⟩, ⟨7, 0, .rw, 0, true⟩]⟩
  | .FLT_INJECT_INDEX => ⟨.FLT, 0x74, [], [⟨31, 0, .rw, 0, true⟩]⟩
  | .FLT_GPIO => ⟨.FLT, 0x100, [(16, 0x4)], [⟨31, 16, .ro, 0, false⟩, ⟨15, 8, .rw, 10, false⟩, ⟨7, 7, .rw, 0, false⟩, ⟨6, 4, .rw, 0, false⟩, ⟨3, 3, .rw, 0, false⟩, ⟨2, 2, .rw, 0, false⟩, ⟨1, 0, .rw, 0, false⟩]⟩
  | .FLT_GPIO_DOM => ⟨.FLT, 0x140, [(16, 0x4)], [⟨15, 0, .rw, 0x8000, false⟩]⟩
  | .FLT_GPIO_OSEV => ⟨.FLT, 0x180, [], [⟨31, 0, .rw, 0xffffffff, false⟩]⟩
  | .FLT_GPIO_IN => ⟨.FLT, 0x184, [], [⟨15, 0, .ro, 0, false⟩]⟩
  | .FLT_REC => ⟨.FLT, 0x1000, [(32, 0x40)], [⟨31, 31, .ro, 0, false⟩, ⟨30, 30, .ro, 0, false⟩, ⟨29, 29, .ro, 0, false⟩, ⟨28, 27, .ro, 0, false⟩, ⟨15, 0, .ro, 0, false⟩]⟩
  | .FLT_REC_MERGED => ⟨.FLT, 0x1004, [(32, 0x40)], [⟨31, 0, .ro, 0, false⟩]⟩
  | .FLT_REC_FIRST => ⟨.FLT, 0x1008, [(32, 0x40), (3, 0x4)], [⟨31, 0, .ro, 0, false⟩]⟩
  | .FLT_REC_LAST => ⟨.FLT, 0x1014, [(32, 0x40), (3, 0x4)], [⟨31, 0, .ro, 0, false⟩]⟩
  | .FLT_REC_KINDS => ⟨.FLT, 0x1020, [(32, 0x40), (4, 0x4)], [⟨31, 0, .ro, 0, false⟩]⟩
  | .FLT_REC_INFO => ⟨.FLT, 0x1030, [(32, 0x40)], [⟨23, 16, .ro, 0, false⟩, ⟨10, 0, .ro, 0, false⟩]⟩
  | .FLT_DAYBOOK => ⟨.FLT, 0x2000, [(64, 0x20)], [⟨31, 31, .ro, 0, false⟩, ⟨22, 21, .ro, 0, false⟩, ⟨20, 16, .ro, 0, false⟩, ⟨15, 15, .ro, 0, false⟩, ⟨14, 14, .ro, 0, false⟩, ⟨13, 12, .ro, 0, false⟩, ⟨10, 0, .ro, 0, false⟩]⟩
  | .FLT_DAYBOOK_CNT => ⟨.FLT, 0x2004, [(64, 0x20)], [⟨31, 16, .ro, 0, false⟩, ⟨15, 0, .ro, 0, false⟩]⟩
  | .FLT_DAYBOOK_DETAIL => ⟨.FLT, 0x2008, [(64, 0x20)], [⟨31, 0, .ro, 0, false⟩]⟩
  | .FLT_DAYBOOK_ESEQ => ⟨.FLT, 0x200C, [(64, 0x20)], [⟨31, 0, .ro, 0, false⟩]⟩
  | .FLT_DAYBOOK_TIME => ⟨.FLT, 0x2010, [(64, 0x20), (3, 0x4)], [⟨31, 0, .ro, 0, false⟩]⟩
  | .FLT_DAYBOOK_RSVD => ⟨.FLT, 0x201C, [(64, 0x20)], []⟩
  | .FLT_SRC_CFG => ⟨.FLT, 0x4000, [(2048, 0x4)], [⟨31, 31, .rw, 1, false⟩, ⟨30, 30, .rw, 0, true⟩, ⟨29, 28, .rw, 0, true⟩, ⟨27, 26, .rw, 0, false⟩, ⟨25, 25, .ro, 0, false⟩, ⟨24, 24, .ro, 0, false⟩, ⟨20, 16, .rw, 20, false⟩, ⟨15, 0, .rw, 0, false⟩]⟩
  | .FLT_SRC_CNT => ⟨.FLT, 0x6000, [(2048, 0x4)], [⟨31, 0, .ro, 0, false⟩]⟩
  | .FLT_FORCE => ⟨.FLT, 0x8000, [(64, 0x4)], [⟨31, 0, .rw, 0, true⟩]⟩
  | .FLT_EXPERT_GATE => ⟨.FLT, 0xFFFC, [], [⟨9, 9, .ro, 0, false⟩, ⟨8, 8, .ro, 0, false⟩, ⟨7, 0, .wo, 0, false⟩]⟩
  | .RAT_CFG => ⟨.RAT, 0x0, [], [⟨0, 0, .rw, 1, false⟩]⟩
  | .RAT_CAP_HOST => ⟨.RAT, 0x4, [], [⟨9, 0, .rwl, 800, false⟩]⟩
  | .RAT_CAP_BOARD => ⟨.RAT, 0x8, [], [⟨9, 0, .rw, 800, false⟩]⟩
  | .RAT_POWER => ⟨.RAT, 0xC, [], [⟨28, 16, .rw, 0, false⟩, ⟨12, 0, .ro, 0, false⟩]⟩
  | .RAT_WORK => ⟨.RAT, 0x10, [], [⟨15, 8, .rw, 1, true⟩, ⟨7, 0, .rw, 4, true⟩]⟩
  | .RAT_LOOP => ⟨.RAT, 0x14, [], [⟨31, 24, .rw, 192, true⟩, ⟨23, 20, .rw, 5, true⟩, ⟨19, 16, .rw, 8, true⟩, ⟨15, 0, .rw, 650, true⟩]⟩
  | .RAT_SHED => ⟨.RAT, 0x18, [], [⟨31, 24, .rwl, 0, true⟩, ⟨23, 16, .rwl, 32, true⟩, ⟨15, 8, .rwl, 48, true⟩, ⟨7, 0, .rwl, 64, true⟩]⟩
  | .RAT_THERM => ⟨.RAT, 0x1C, [], [⟨23, 16, .rw, 107, true⟩, ⟨15, 8, .rw, 102, true⟩, ⟨7, 0, .rw, 92, true⟩]⟩
  | .RAT_OVER => ⟨.RAT, 0x20, [], [⟨16, 16, .ro, 0, false⟩, ⟨15, 0, .rw, 100, true⟩]⟩
  | .RAT_AVS => ⟨.RAT, 0x30, [], [⟨16, 16, .ro, 0, false⟩, ⟨9, 0, .ro, 750, false⟩]⟩
  | .RAT_PIPE_ALLOW => ⟨.RAT, 0x100, [(8, 0x8)], [⟨31, 0, .ro, 0, false⟩]⟩
  | .RAT_PIPE_STAT => ⟨.RAT, 0x104, [(8, 0x8)], [⟨31, 28, .ro, 0, false⟩, ⟨24, 16, .ro, 256, false⟩, ⟨10, 0, .ro, 0, false⟩]⟩
  | .RAT_SENSOR => ⟨.RAT, 0x200, [(64, 0x4)], [⟨15, 15, .ro, 0, false⟩, ⟨10, 0, .ro, 0, false⟩]⟩
  | .RAT_EXPERT_GATE => ⟨.RAT, 0xFFFC, [], [⟨9, 9, .ro, 0, false⟩, ⟨8, 8, .ro, 0, false⟩, ⟨7, 0, .wo, 0, false⟩]⟩
  | .CKR_RUN => ⟨.CKR, 0x0, [], [⟨15, 8, .ro, 0, false⟩, ⟨6, 0, .ro, 0, false⟩]⟩
  | .CKR_RUN_OCT => ⟨.CKR, 0x4, [], [⟨31, 0, .ro, 0, false⟩]⟩
  | .CKR_PLL_STATUS => ⟨.CKR, 0x8, [], [⟨31, 16, .ro, 0, false⟩, ⟨2, 2, .ro, 0, false⟩, ⟨1, 1, .ro, 0, false⟩, ⟨0, 0, .ro, 0, false⟩]⟩
  | .CKR_STOP => ⟨.CKR, 0x10, [], [⟨15, 8, .rw, 0, true⟩, ⟨1, 1, .rw, 0, true⟩, ⟨0, 0, .rw, 0, true⟩]⟩
  | .CKR_RESET => ⟨.CKR, 0x20, [], [⟨8, 8, .wo, 0, true⟩, ⟨7, 0, .wo, 0, true⟩]⟩
  | .CKR_RESET_STATUS => ⟨.CKR, 0x24, [], [⟨31, 16, .ro, 0, false⟩, ⟨2, 0, .ro, 0, false⟩]⟩
  | .CKR_CHIPLET_RESET => ⟨.CKR, 0x28, [], [⟨7, 0, .rw, 0, true⟩]⟩
  | .CKR_XRESET => ⟨.CKR, 0x30, [], [⟨17, 0, .wo, 0, true⟩]⟩
  | .CKR_XCFG => ⟨.CKR, 0x34, [], [⟨0, 0, .rw, 1, true⟩]⟩
  | .CKR_HUNG_LAST => ⟨.CKR, 0x40, [], [⟨31, 31, .w1c, 0, false⟩, ⟨30, 29, .ro, 0, false⟩, ⟨28, 24, .ro, 0, false⟩, ⟨23, 0, .ro, 0, false⟩]⟩
  | .CKR_XSTATUS => ⟨.CKR, 0x100, [(18, 0x4)], [⟨31, 16, .ro, 0, false⟩, ⟨8, 8, .w1c, 0, false⟩, ⟨7, 0, .rw, 0, false⟩]⟩
  | .CKR_D2D_STATUS => ⟨.CKR, 0x200, [(8, 0x4)], [⟨31, 31, .ro, 0, false⟩, ⟨30, 16, .ro, 0, false⟩, ⟨15, 0, .ro, 0, false⟩]⟩
  | .CKR_EXPERT_GATE => ⟨.CKR, 0xFFFC, [], [⟨9, 9, .ro, 0, false⟩, ⟨8, 8, .ro, 0, false⟩, ⟨7, 0, .wo, 0, false⟩]⟩
  | .DRM_CFG => ⟨.DRM, 0x0, [], [⟨31, 31, .rws, 0, false⟩, ⟨24, 20, .rws, 12, true⟩, ⟨19, 18, .rws, 1, true⟩, ⟨17, 16, .rws, 2, false⟩, ⟨12, 12, .rws, 0, false⟩, ⟨11, 11, .rws, 0, false⟩, ⟨10, 9, .rws, 0, false⟩, ⟨3, 0, .rws, 0, false⟩]⟩
  | .DRM_STATUS => ⟨.DRM, 0x4, [], [⟨23, 16, .ro, 0, false⟩, ⟨15, 8, .ro, 0, false⟩, ⟨1, 1, .ro, 0, false⟩, ⟨0, 0, .ro, 0, false⟩]⟩
  | .DRM_SCHED => ⟨.DRM, 0x10, [], [⟨31, 16, .rw, 2000, true⟩, ⟨15, 8, .rw, 24, true⟩, ⟨7, 0, .rw, 8, true⟩]⟩
  | .DRM_ARB => ⟨.DRM, 0x14, [], [⟨23, 20, .rw, 1, true⟩, ⟨19, 16, .rw, 2, true⟩, ⟨15, 12, .rw, 4, true⟩, ⟨11, 8, .rw, 2, true⟩, ⟨7, 4, .rw, 4, true⟩, ⟨3, 0, .rw, 9, true⟩]⟩
  | .DRM_REF => ⟨.DRM, 0x20, [], [⟨4, 2, .rw, 4, true⟩, ⟨0, 0, .rw, 0, true⟩]⟩
  | .DRM_TRAIN => ⟨.DRM, 0x24, [], [⟨31, 16, .rw, 128, true⟩, ⟨15, 0, .rw, 100, true⟩]⟩
  | .DRM_SCRUB => ⟨.DRM, 0x28, [], [⟨31, 31, .rw, 1, false⟩, ⟨7, 0, .rw, 24, true⟩]⟩
  | .DRM_TIMING_ADJ => ⟨.DRM, 0x2C, [], [⟨3, 0, .rw, 0, true⟩]⟩
  | .DRM_ECC_COUNT => ⟨.DRM, 0x100, [(8, 0x4)], [⟨31, 16, .ro, 0, false⟩, ⟨15, 0, .ro, 0, false⟩]⟩
  | .DRM_ERR_HEAD => ⟨.DRM, 0x1F0, [], [⟨31, 16, .ro, 0, false⟩, ⟨3, 0, .ro, 0, false⟩]⟩
  | .DRM_ERR_LOG => ⟨.DRM, 0x200, [(16, 0x40)], [⟨31, 31, .w1c, 0, false⟩, ⟨30, 28, .ro, 0, false⟩, ⟨26, 24, .ro, 0, false⟩, ⟨18, 16, .ro, 0, false⟩]⟩
  | .DRM_ERR_ADDR_LO => ⟨.DRM, 0x204, [(16, 0x40)], [⟨31, 0, .ro, 0, false⟩]⟩
  | .DRM_ERR_ADDR_HI => ⟨.DRM, 0x208, [(16, 0x40)], [⟨7, 0, .ro, 0, false⟩]⟩
  | .DRM_ERR_SYND => ⟨.DRM, 0x20C, [(16, 0x40), (4, 0x4)], [⟨31, 0, .ro, 0, false⟩]⟩
  | .DRM_ERR_TIME => ⟨.DRM, 0x21C, [(16, 0x40), (3, 0x4)], [⟨31, 0, .ro, 0, false⟩]⟩
  | .DRM_EXPERT_GATE => ⟨.DRM, 0xFFFC, [], [⟨9, 9, .ro, 0, false⟩, ⟨8, 8, .ro, 0, false⟩, ⟨7, 0, .wo, 0, false⟩]⟩
  | .ARC_CFG => ⟨.ARC, 0x0, [], [⟨2, 2, .rw, 0, false⟩, ⟨1, 1, .rw, 0, false⟩, ⟨0, 0, .rw, 0, false⟩]⟩
  | .ARC_SNAP_BASE_LO => ⟨.ARC, 0x10, [], [⟨31, 16, .rw, 0, false⟩]⟩
  | .ARC_SNAP_BASE_HI => ⟨.ARC, 0x14, [], [⟨7, 0, .rw, 0, false⟩]⟩
  | .ARC_SNAP_SIZE => ⟨.ARC, 0x18, [], [⟨5, 0, .rw, 0, false⟩]⟩
  | .ARC_SNAP_STATUS => ⟨.ARC, 0x20, [], [⟨31, 16, .ro, 0, false⟩, ⟨1, 1, .ro, 0, false⟩, ⟨0, 0, .ro, 0, false⟩]⟩
  | .ARC_CONS_LAST => ⟨.ARC, 0x28, [], [⟨31, 31, .w1c, 0, false⟩, ⟨26, 24, .ro, 0, false⟩, ⟨23, 0, .ro, 0, false⟩]⟩
  | .ARC_LEDGER_BASE_LO => ⟨.ARC, 0x30, [], [⟨31, 16, .rw, 0, false⟩]⟩
  | .ARC_LEDGER_BASE_HI => ⟨.ARC, 0x34, [], [⟨7, 0, .rw, 0, false⟩]⟩
  | .ARC_LEDGER_CFG => ⟨.ARC, 0x38, [], [⟨4, 0, .rw, 20, false⟩]⟩
  | .ARC_FLOW_TIMERS => ⟨.ARC, 0x3C, [], [⟨31, 20, .rwl, 60, false⟩, ⟨15, 0, .rwl, 0x3a98, false⟩]⟩
  | .ARC_LEDGER_STATUS => ⟨.ARC, 0x40, [], [⟨26, 0, .ro, 0, false⟩]⟩
  | .ARC_CAP_BASE_LO => ⟨.ARC, 0x50, [], [⟨31, 16, .rw, 0, false⟩]⟩
  | .ARC_CAP_BASE_HI => ⟨.ARC, 0x54, [], [⟨7, 0, .rw, 0, false⟩]⟩
  | .ARC_CAP_CFG => ⟨.ARC, 0x58, [], [⟨30, 30, .wo, 0, false⟩, ⟨29, 29, .wo, 0, false⟩, ⟨11, 10, .rw, 3, false⟩, ⟨9, 9, .rw, 0, false⟩, ⟨8, 8, .rw, 0, false⟩, ⟨4, 0, .rw, 16, false⟩]⟩
  | .ARC_CAP_POST => ⟨.ARC, 0x5C, [], [⟨23, 0, .rw, 1024, false⟩]⟩
  | .ARC_CAP_RATE => ⟨.ARC, 0x60, [], [⟨26, 0, .rwl, 0xf4240, false⟩]⟩
  | .ARC_CAP_STATUS => ⟨.ARC, 0x64, [], [⟨1, 0, .ro, 0, false⟩]⟩
  | .ARC_CAP_STOP_SEQ => ⟨.ARC, 0x68, [], [⟨31, 0, .ro, 0, false⟩]⟩
  | .ARC_CAP_DROP_MASK => ⟨.ARC, 0x80, [(8, 0x4)], [⟨31, 0, .rw, 0, false⟩]⟩
  | .ARC_EXPORT => ⟨.ARC, 0xC0, [(4, 0x4)], [⟨1, 0, .rw, 0, false⟩]⟩
  | .ARC_EXPERT_GATE => ⟨.ARC, 0xFFFC, [], [⟨9, 9, .ro, 0, false⟩, ⟨8, 8, .ro, 0, false⟩, ⟨7, 0, .wo, 0, false⟩]⟩
  | .KST_HASH => ⟨.KST, 0x0, [], [⟨1, 0, .rw, 0, true⟩]⟩
  | .KST_SEED => ⟨.KST, 0x4, [], [⟨31, 0, .rw, 0, true⟩]⟩
  | .KST_COUNT => ⟨.KST, 0x8, [], [⟨20, 0, .ro, 0, false⟩]⟩
  | .KST_OVF_COUNT => ⟨.KST, 0xC, [], [⟨31, 16, .rw, 0, false⟩, ⟨14, 0, .ro, 0, false⟩]⟩
  | .KST_PFX_UNITS => ⟨.KST, 0x10, [], [⟨20, 0, .ro, 0, false⟩]⟩
  | .KST_PFX_COUNT => ⟨.KST, 0x14, [], [⟨20, 0, .ro, 0, false⟩]⟩
  | .KST_PFX_COUNT6 => ⟨.KST, 0x18, [], [⟨19, 0, .ro, 0, false⟩]⟩
  | .KST_PAR_STATUS => ⟨.KST, 0x20, [], [⟨31, 31, .w1c, 0, false⟩, ⟨30, 30, .ro, 0, false⟩, ⟨25, 24, .ro, 0, false⟩, ⟨20, 0, .ro, 0, false⟩]⟩
  | .KST_SCRUB => ⟨.KST, 0x24, [], [⟨25, 16, .rw, 100, true⟩, ⟨9, 0, .rw, 50, true⟩]⟩
  | .KST_EXPERT_GATE => ⟨.KST, 0xFFFC, [], [⟨9, 9, .ro, 0, false⟩, ⟨8, 8, .ro, 0, false⟩, ⟨7, 0, .wo, 0, false⟩]⟩
  | .STB_CFG => ⟨.STB, 0x0, [], [⟨1, 1, .rw, 1, false⟩, ⟨0, 0, .rw, 0, false⟩]⟩
  | .STB_STATUS => ⟨.STB, 0x4, [], [⟨0, 0, .ro, 0, false⟩]⟩
  | .STB_POOL_CFG => ⟨.STB, 0x10, [(4, 0x4)], [⟨11, 0, .rw, 0, true⟩]⟩
  | .STB_POOL_COUNT => ⟨.STB, 0x20, [(4, 0x4)], [⟨18, 0, .ro, 0, false⟩]⟩
  | .STB_POOL_FREE => ⟨.STB, 0x30, [(4, 0x4)], [⟨18, 0, .ro, 0, false⟩]⟩
  | .STB_POOL_LOW => ⟨.STB, 0x40, [(4, 0x4)], [⟨18, 0, .rw, 0, false⟩]⟩
  | .STB_POOL_RSV => ⟨.STB, 0x50, [(4, 0x4)], [⟨17, 0, .rwl, 0, false⟩]⟩
  | .STB_SLIP => ⟨.STB, 0x60, [], [⟨20, 0, .ro, 0x100000, false⟩]⟩
  | .STB_SLIP_LOW => ⟨.STB, 0x64, [], [⟨20, 0, .rw, 0x100000, false⟩]⟩
  | .STB_ERR_LAST => ⟨.STB, 0x70, [], [⟨31, 31, .w1c, 0, false⟩, ⟨30, 28, .ro, 0, false⟩, ⟨27, 26, .ro, 0, false⟩, ⟨23, 21, .ro, 0, false⟩, ⟨20, 0, .ro, 0, false⟩]⟩
  | .STB_MIRROR => ⟨.STB, 0x100, [(8, 0x4)], [⟨12, 12, .rw, 0, false⟩, ⟨11, 9, .rw, 0, false⟩, ⟨8, 0, .rw, 0, false⟩]⟩
  | .STB_ING_LIMIT => ⟨.STB, 0x1000, [(2128, 0x10)], [⟨21, 0, .rwl, 0x280000, false⟩]⟩
  | .STB_ING_XOFF => ⟨.STB, 0x1004, [(2128, 0x10)], [⟨21, 0, .rwl, 0x280000, false⟩]⟩
  | .STB_ING_XON => ⟨.STB, 0x1008, [(2128, 0x10)], [⟨21, 0, .rwl, 0x280000, false⟩]⟩
  | .STB_ING_USED => ⟨.STB, 0x100C, [(2128, 0x10)], [⟨31, 31, .ro, 0, false⟩, ⟨21, 0, .ro, 0, false⟩]⟩
  | .STB_EG_LIMIT => ⟨.STB, 0xA000, [(2136, 0x8)], [⟨21, 0, .rwl, 0x6000, false⟩]⟩
  | .STB_EG_USED => ⟨.STB, 0xA004, [(2136, 0x8)], [⟨21, 0, .ro, 0, false⟩]⟩
  | .STB_EG_PORT => ⟨.STB, 0xF000, [(267, 0x4)], [⟨0, 0, .rw, 0, false⟩]⟩
  | .STB_EXPERT_GATE => ⟨.STB, 0xFFFC, [], [⟨9, 9, .ro, 0, false⟩, ⟨8, 8, .ro, 0, false⟩, ⟨7, 0, .wo, 0, false⟩]⟩
  | .PRT_OCT_MODE => ⟨.PRT, 0x0, [(4, 0x40)], [⟨31, 31, .wo, 0, false⟩, ⟨9, 8, .rw, 0, false⟩, ⟨5, 5, .rw, 1, false⟩, ⟨4, 4, .rw, 0, false⟩, ⟨3, 0, .rw, 0, false⟩]⟩
  | .PRT_OCT_TXMAP => ⟨.PRT, 0x4, [(4, 0x40)], [⟨23, 0, .rw, 0xfac688, true⟩]⟩
  | .PRT_OCT_RXMAP => ⟨.PRT, 0x8, [(4, 0x40)], [⟨23, 0, .rw, 0xfac688, true⟩]⟩
  | .PRT_OCT_STATUS => ⟨.PRT, 0xC, [(4, 0x40)], [⟨8, 8, .w1c, 0, false⟩, ⟨7, 7, .ro, 0, false⟩, ⟨3, 0, .ro, 0, false⟩]⟩
  | .PRT_CFG => ⟨.PRT, 0x1000, [(32, 0x100)], [⟨28, 28, .rw, 0, false⟩, ⟨27, 27, .rw, 0, false⟩, ⟨25, 24, .rw, 0, true⟩, ⟨21, 8, .rw, 9600, false⟩, ⟨0, 0, .rw, 0, false⟩]⟩
  | .PRT_TIMERS => ⟨.PRT, 0x1004, [(32, 0x100)], [⟨31, 16, .rwl, 10, false⟩, ⟨15, 0, .rwl, 0, false⟩]⟩
  | .PRT_STATE => ⟨.PRT, 0x1008, [(32, 0x100)], [⟨15, 15, .ro, 0, false⟩, ⟨14, 14, .ro, 0, false⟩, ⟨13, 13, .ro, 0, false⟩, ⟨12, 12, .ro, 0, false⟩, ⟨11, 11, .ro, 0, false⟩, ⟨10, 10, .ro, 0, false⟩, ⟨9, 9, .ro, 0, false⟩, ⟨8, 8, .ro, 0, false⟩, ⟨2, 0, .ro, 0, false⟩]⟩
  | .PRT_EVENTS => ⟨.PRT, 0x100C, [(32, 0x100)], [⟨6, 6, .w1c, 0, false⟩, ⟨5, 5, .w1c, 0, false⟩, ⟨4, 4, .w1c, 0, false⟩, ⟨3, 3, .w1c, 0, false⟩, ⟨2, 2, .w1c, 0, false⟩, ⟨1, 1, .w1c, 0, false⟩, ⟨0, 0, .w1c, 0, false⟩]⟩
  | .PRT_FC_CFG => ⟨.PRT, 0x1010, [(32, 0x100)], [⟨31, 16, .rw, 0xffff, false⟩, ⟨15, 8, .rw, 0, false⟩, ⟨1, 0, .rw, 0, false⟩]⟩
  | .PRT_PRIO_MAP => ⟨.PRT, 0x1014, [(32, 0x100)], [⟨23, 0, .rw, 0xfac688, false⟩]⟩
  | .PRT_PFC_WD => ⟨.PRT, 0x1018, [(32, 0x100)], [⟨31, 31, .rw, 1, false⟩, ⟨19, 10, .rwl, 100, false⟩, ⟨9, 0, .rwl, 100, false⟩]⟩
  | .PRT_PFC_STATUS => ⟨.PRT, 0x101C, [(32, 0x100)], [⟨23, 16, .w1c, 0, false⟩, ⟨15, 8, .ro, 0, false⟩, ⟨7, 0, .ro, 0, false⟩]⟩
  | .PRT_SA_LO => ⟨.PRT, 0x1020, [(32, 0x100)], [⟨31, 0, .rw, 0, false⟩]⟩
  | .PRT_SA_HI => ⟨.PRT, 0x1024, [(32, 0x100)], [⟨15, 0, .rw, 0, false⟩]⟩
  | .PRT_PTP_CFG => ⟨.PRT, 0x1028, [(32, 0x100)], [⟨1, 1, .rw, 0, false⟩, ⟨0, 0, .rw, 1, false⟩]⟩
  | .PRT_PTP_RX_ADJ => ⟨.PRT, 0x102C, [(32, 0x100)], [⟨23, 0, .rw, 0, false⟩]⟩
  | .PRT_TS_FIFO => ⟨.PRT, 0x1030, [(32, 0x100), (4, 0x4)], [⟨31, 0, .ro, 0, false⟩]⟩
  | .PRT_LANE_CFG => ⟨.PRT, 0x3000, [(32, 0x40)], [⟨6, 6, .rw, 0, true⟩, ⟨5, 3, .rw, 0, true⟩, ⟨2, 2, .rw, 0, true⟩, ⟨1, 1, .rw, 0, false⟩, ⟨0, 0, .rw, 0, false⟩]⟩
  | .PRT_LANE_STATUS => ⟨.PRT, 0x3004, [(32, 0x40)], [⟨31, 16, .ro, 0, true⟩, ⟨3, 3, .ro, 0, false⟩, ⟨2, 2, .ro, 0, false⟩, ⟨1, 1, .ro, 0, false⟩, ⟨0, 0, .ro, 0, false⟩]⟩
  | .PRT_LANE_TXEQ => ⟨.PRT, 0x3008, [(32, 0x40)], [⟨23, 18, .rw, 0, true⟩, ⟨17, 12, .rw, 0, true⟩, ⟨11, 6, .rw, 63, true⟩, ⟨5, 0, .rw, 0, true⟩]⟩
  | .PRT_EXPERT_GATE => ⟨.PRT, 0xFFFC, [], [⟨9, 9, .ro, 0, false⟩, ⟨8, 8, .ro, 0, false⟩, ⟨7, 0, .wo, 0, false⟩]⟩
  | .RDR_CFG => ⟨.RDR, 0x0, [], [⟨15, 15, .rw, 0, false⟩, ⟨11, 8, .rw, 0, false⟩, ⟨5, 0, .rw, 0, true⟩]⟩
  | .RDR_DISC_A => ⟨.RDR, 0x10, [(4, 0x4)], [⟨24, 24, .rw, 0, true⟩, ⟨23, 16, .rw, 0, true⟩, ⟨8, 8, .rw, 0, true⟩, ⟨7, 0, .rw, 0, true⟩]⟩
  | .RDR_DISC_B => ⟨.RDR, 0x20, [(4, 0x4)], [⟨24, 24, .rw, 0, true⟩, ⟨23, 16, .rw, 0, true⟩, ⟨8, 8, .rw, 0, true⟩, ⟨7, 0, .rw, 0, true⟩]⟩
  | .RDR_FAIL_LAST => ⟨.RDR, 0x40, [], [⟨31, 31, .w1c, 0, false⟩, ⟨23, 18, .ro, 0, false⟩, ⟨17, 9, .ro, 0, false⟩, ⟨8, 8, .ro, 0, false⟩, ⟨7, 0, .ro, 0, false⟩]⟩
  | .RDR_FAIL_TIME => ⟨.RDR, 0x44, [(3, 0x4)], [⟨31, 0, .ro, 0, false⟩]⟩
  | .RDR_PAR_STATUS => ⟨.RDR, 0x50, [], [⟨31, 16, .ro, 0, false⟩, ⟨15, 15, .w1c, 0, false⟩, ⟨7, 7, .ro, 0, false⟩, ⟨5, 0, .ro, 0, false⟩]⟩
  | .RDR_SCRUB => ⟨.RDR, 0x54, [], [⟨13, 0, .rw, 1000, true⟩]⟩
  | .RDR_PROFILE => ⟨.RDR, 0x100, [(35, 0x4)], [⟨7, 4, .rw, 0, false⟩, ⟨3, 0, .rw, 0, false⟩]⟩
  | .RDR_EXPERT_GATE => ⟨.RDR, 0xFFFC, [], [⟨9, 9, .ro, 0, false⟩, ⟨8, 8, .ro, 0, false⟩, ⟨7, 0, .wo, 0, false⟩]⟩
  | .BRS_HASH => ⟨.BRS, 0x0, [], [⟨1, 0, .rw, 0, true⟩]⟩
  | .BRS_SEED => ⟨.BRS, 0x4, [], [⟨31, 0, .rw, 0, true⟩]⟩
  | .BRS_COUNT => ⟨.BRS, 0x8, [], [⟨19, 0, .ro, 0, false⟩]⟩
  | .BRS_OVF_COUNT => ⟨.BRS, 0xC, [], [⟨31, 16, .rw, 0, false⟩, ⟨13, 0, .ro, 0, false⟩]⟩
  | .BRS_GRP_HASH => ⟨.BRS, 0x10, [], [⟨1, 0, .rw, 1, true⟩]⟩
  | .BRS_GRP_SEED => ⟨.BRS, 0x14, [], [⟨31, 0, .rw, 0, true⟩]⟩
  | .BRS_PAR_STATUS => ⟨.BRS, 0x20, [], [⟨31, 31, .w1c, 0, false⟩, ⟨27, 24, .ro, 0, false⟩, ⟨19, 0, .ro, 0, false⟩]⟩
  | .BRS_SCRUB => ⟨.BRS, 0x24, [], [⟨25, 16, .rw, 100, true⟩, ⟨9, 0, .rw, 50, true⟩]⟩
  | .BRS_PORT => ⟨.BRS, 0x100, [(35, 0x4)], [⟨25, 25, .rw, 0, false⟩, ⟨24, 15, .rw, 0, false⟩, ⟨14, 14, .rw, 0, false⟩, ⟨13, 0, .rw, 0, false⟩]⟩
  | .BRS_RMAC_LO => ⟨.BRS, 0x200, [(16, 0x8)], [⟨31, 0, .rw, 0, false⟩]⟩
  | .BRS_RMAC_HI => ⟨.BRS, 0x204, [(16, 0x8)], [⟨16, 16, .rw, 0, false⟩, ⟨15, 0, .rw, 0, false⟩]⟩
  | .BRS_LEARN_CFG => ⟨.BRS, 0x1000, [], [⟨5, 5, .rw, 0, false⟩, ⟨4, 4, .rw, 1, false⟩, ⟨3, 3, .rw, 1, false⟩, ⟨2, 2, .rw, 1, false⟩, ⟨0, 0, .rw, 1, false⟩]⟩
  | .BRS_LEARN_STATUS => ⟨.BRS, 0x1004, [], [⟨31, 16, .rw, 0, false⟩, ⟨10, 0, .ro, 0, false⟩]⟩
  | .BRS_AGE_CFG => ⟨.BRS, 0x1010, [], [⟨12, 12, .rw, 0, true⟩, ⟨11, 0, .rwl, 300, false⟩]⟩
  | .BRS_AGE_STATUS => ⟨.BRS, 0x1014, [], [⟨31, 16, .ro, 0, false⟩, ⟨15, 8, .ro, 0, false⟩, ⟨0, 0, .ro, 0, false⟩]⟩
  | .BRS_LEARN_PORT => ⟨.BRS, 0x1100, [(32, 0x4)], [⟨26, 19, .rw, 0, true⟩, ⟨18, 18, .rwl, 1, false⟩, ⟨17, 17, .rwl, 0, false⟩, ⟨16, 16, .rwl, 0, false⟩, ⟨15, 0, .rwl, 0, false⟩]⟩
  | .BRS_LEARN_COUNT => ⟨.BRS, 0x1200, [(32, 0x4)], [⟨19, 0, .ro, 0, false⟩]⟩
  | .BRS_BD_LIMIT_EN => ⟨.BRS, 0x1800, [(512, 0x4)], [⟨31, 0, .rwl, 0, false⟩]⟩
  | .BRS_EXPERT_GATE => ⟨.BRS, 0xFFFC, [], [⟨9, 9, .ro, 0, false⟩, ⟨8, 8, .ro, 0, false⟩, ⟨7, 0, .wo, 0, false⟩]⟩
  | .BRS_BD_LEARN => ⟨.BRS, 0x10000, [(16384, 0x4)], [⟨31, 16, .ro, 0, false⟩, ⟨15, 0, .rwl, 0, false⟩]⟩
  | .CAT_CFG => ⟨.CAT, 0x0, [], [⟨19, 16, .rw, 4, true⟩, ⟨12, 8, .rw, 12, true⟩]⟩
  | .CAT_SCRUB => ⟨.CAT, 0x4, [], [⟨9, 0, .rw, 1000, true⟩]⟩
  | .CAT_PAR_STATUS => ⟨.CAT, 0x8, [], [⟨31, 31, .w1c, 0, false⟩, ⟨30, 30, .ro, 0, false⟩, ⟨29, 28, .ro, 0, false⟩, ⟨27, 26, .ro, 0, false⟩, ⟨13, 0, .ro, 0, false⟩]⟩
  | .CAT_MOVE_STATUS => ⟨.CAT, 0xC, [], [⟨31, 16, .ro, 0, false⟩, ⟨0, 0, .ro, 0, false⟩]⟩
  | .CAT_USE => ⟨.CAT, 0x10, [], [⟨28, 16, .ro, 0, false⟩, ⟨13, 0, .ro, 0, false⟩]⟩
  | .CAT_SLICE_I => ⟨.CAT, 0x100, [(24, 0x4)], [⟨18, 18, .rw, 0, true⟩, ⟨17, 17, .rw, 1, false⟩, ⟨15, 8, .rw, 0, false⟩, ⟨7, 0, .rw, 0, false⟩]⟩
  | .CAT_SLICE_E => ⟨.CAT, 0x180, [(8, 0x4)], [⟨18, 18, .rw, 0, true⟩, ⟨17, 17, .rw, 1, false⟩, ⟨15, 8, .rw, 0, false⟩, ⟨7, 0, .rw, 0, false⟩]⟩
  | .CAT_EXPERT_GATE => ⟨.CAT, 0xFFFC, [], [⟨9, 9, .ro, 0, false⟩, ⟨8, 8, .ro, 0, false⟩, ⟨7, 0, .wo, 0, false⟩]⟩
  | .FAR_CFG => ⟨.FAR, 0x0, [], [⟨0, 0, .rw, 1, false⟩]⟩
  | .FAR_STATUS => ⟨.FAR, 0x4, [], [⟨31, 16, .rw, 0, false⟩, ⟨10, 0, .ro, 0, false⟩]⟩
  | .FAR_FAULT_LAST => ⟨.FAR, 0x10, [], [⟨31, 31, .w1c, 0, false⟩, ⟨30, 28, .ro, 0, false⟩, ⟨27, 26, .ro, 0, false⟩, ⟨25, 23, .ro, 0, false⟩, ⟨22, 22, .ro, 0, false⟩, ⟨21, 13, .ro, 0, false⟩, ⟨12, 0, .ro, 0, false⟩]⟩
  | .FAR_PAR_STATUS => ⟨.FAR, 0x20, [], [⟨31, 31, .w1c, 0, false⟩, ⟨30, 29, .ro, 0, false⟩, ⟨28, 27, .ro, 0, false⟩, ⟨14, 0, .ro, 0, false⟩]⟩
  | .FAR_SCRUB => ⟨.FAR, 0x24, [], [⟨9, 0, .rw, 1000, true⟩]⟩
  | .FAR_PORT => ⟨.FAR, 0x100, [(33, 0x4)], [⟨29, 29, .rw, 0, false⟩, ⟨28, 16, .rw, 0, false⟩, ⟨13, 13, .rw, 0, false⟩, ⟨12, 0, .rw, 0, false⟩]⟩
  | .FAR_EXPERT_GATE => ⟨.FAR, 0xFFFC, [], [⟨9, 9, .ro, 0, false⟩, ⟨8, 8, .ro, 0, false⟩, ⟨7, 0, .wo, 0, false⟩]⟩
  | .HAR_OVH => ⟨.HAR, 0x10, [(4, 0x4)], [⟨6, 0, .rwl, 20, false⟩]⟩
  | .HAR_ERR_LAST => ⟨.HAR, 0x20, [], [⟨31, 31, .w1c, 0, false⟩, ⟨30, 28, .ro, 0, false⟩, ⟨14, 0, .ro, 0, false⟩]⟩
  | .HAR_PORT_COL => ⟨.HAR, 0x100, [(35, 0x4)], [⟨4, 4, .rw, 0, false⟩, ⟨3, 1, .rw, 0, false⟩, ⟨0, 0, .rw, 0, false⟩]⟩
  | .HAR_GATE_CFG => ⟨.HAR, 0x200, [(32, 0x10)], [⟨31, 31, .rw, 0, true⟩, ⟨30, 30, .ro, 0, true⟩, ⟨29, 29, .rw, 0, true⟩, ⟨15, 0, .rw, 10, true⟩]⟩
  | .HAR_GATE_STAT => ⟨.HAR, 0x204, [(32, 0x10)], [⟨31, 24, .ro, 0, true⟩, ⟨15, 8, .ro, 0, true⟩, ⟨7, 0, .ro, 0, true⟩]⟩
  | .HAR_GATE_SWAPS => ⟨.HAR, 0x208, [(32, 0x10)], [⟨15, 0, .ro, 0, true⟩]⟩
  | .HAR_CAD_BASE => ⟨.HAR, 0x1000, [(32, 0x40), (2, 0x20), (3, 0x4)], [⟨31, 0, .rw, 0, true⟩]⟩
  | .HAR_CAD_CYCLE => ⟨.HAR, 0x100C, [(32, 0x40), (2, 0x20)], [⟨29, 0, .rw, 0xf4240, true⟩]⟩
  | .HAR_CAD_LEN => ⟨.HAR, 0x1010, [(32, 0x40), (2, 0x20)], [⟨8, 0, .rw, 0, true⟩]⟩
  | .HAR_EXPERT_GATE => ⟨.HAR, 0xFFFC, [], [⟨9, 9, .ro, 0, false⟩, ⟨8, 8, .ro, 0, false⟩, ⟨7, 0, .wo, 0, false⟩]⟩
  | .PAR_FLOW_CFG => ⟨.PAR, 0x0, [], [⟨2, 1, .rw, 0, true⟩, ⟨0, 0, .rw, 0, false⟩]⟩
  | .PAR_FLOW_SEED => ⟨.PAR, 0x4, [], [⟨31, 0, .rw, 0, true⟩]⟩
  | .PAR_FLOW_STATUS => ⟨.PAR, 0x8, [], [⟨16, 0, .ro, 0, false⟩]⟩
  | .PAR_FLOW_MASK_LO => ⟨.PAR, 0x100, [(64, 0x10)], [⟨31, 0, .rw, 0, false⟩]⟩
  | .PAR_FLOW_MASK_HI => ⟨.PAR, 0x104, [(64, 0x10)], [⟨31, 0, .rw, 0, false⟩]⟩
  | .PAR_FLOW_PROF => ⟨.PAR, 0x108, [(64, 0x10)], [⟨1, 1, .rw, 0, false⟩, ⟨0, 0, .rw, 0, false⟩]⟩
  | .PAR_EXPERT_GATE => ⟨.PAR, 0xFFFC, [], [⟨9, 9, .ro, 0, false⟩, ⟨8, 8, .ro, 0, false⟩, ⟨7, 0, .wo, 0, false⟩]⟩

/-- The registers of each block, used to find the register at an address. -/
def Block.regs : Block → List Reg
  | .GEN => [.GEN_ID, .GEN_STRAPS, .GEN_OWNER_CAS, .GEN_OWNER_MAP, .GEN_EXPERT_GATE]
  | .TIM => [.TIM_STATUS, .TIM_CFG, .TIM_PPS_WIN, .TIM_PPS_DELAY, .TIM_PPS_CAP, .TIM_PPS_REJ, .TIM_PPS_COUNTS, .TIM_NOW, .TIM_RUN, .TIM_SET, .TIM_FREQ_LO, .TIM_FREQ_HI, .TIM_STEP, .TIM_CTRL, .TIM_CHANGE, .TIM_TOD_CFG, .TIM_TOD_RX, .TIM_TOD_COUNTS, .TIM_PPS_OUT, .TIM_PPS_OUT_DELAY, .TIM_CAL_CTRL, .TIM_CAL_STATUS, .TIM_CHIPLET_ASYM, .TIM_SYNCE, .TIM_SYNCE_EN, .TIM_GPIO_CFG, .TIM_GPIO_CAP, .TIM_GPIO_STAT, .TIM_TRIG_CTRL, .TIM_TRIG_TIME, .TIM_TRIG_INTERVAL, .TIM_EXPERT_GATE]
  | .HST => [.HST_MODE, .HST_LINK, .HST_PCIE_ERR, .HST_REJECT_LOG, .HST_REJECT_COUNT, .HST_POOL_LO, .HST_POOL_HI, .HST_POOL_CFG, .HST_POOL_STAT, .HST_SB_CFG, .HST_SB_INT, .HST_SB_MASK, .HST_PUNT_MAP, .HST_CNT, .HST_CH_BASE_LO, .HST_CH_BASE_HI, .HST_CH_CFG, .HST_CH_MOD, .HST_CH_WB_LO, .HST_CH_WB_HI, .HST_CH_DEV_IDX, .HST_CH_HOST_IDX, .HST_CH_STAT, .HST_EXPERT_GATE]
  | .CLE => [.CLE_STATUS, .CLE_CTRL, .CLE_UCODE_VER, .CLE_GAP_MAX, .CLE_CS_STATUS, .CLE_CS_LAST, .CLE_UCODE_DIGEST, .CLE_CMD_COUNT, .CLE_CMD_FAIL, .CLE_MIRROR_CFG, .CLE_MIRROR_BASE_LO, .CLE_MIRROR_BASE_HI, .CLE_MIRROR_SIZE, .CLE_MIRROR_NEED, .CLE_MIRROR_STATUS, .CLE_REPAIR_CFG, .CLE_REPAIR_STATUS, .CLE_ED_STATUS, .CLE_ED_NUM, .CLE_ED_TIMEOUT, .CLE_ED_RESIDENT, .CLE_ED_SWITCH_TIME, .CLE_ED_DRAIN, .CLE_PATCH_MAP, .CLE_TAW_CTRL, .CLE_TAW_RESULT, .CLE_TAW_CMD, .CLE_TAW_DATA, .CLE_EXPERT_GATE]
  | .FOL => [.FOL_BOOT_STATUS, .FOL_BOOT_SEQ, .FOL_COPY_STATUS, .FOL_BOOT_ERR, .FOL_BOOT_ERR_ADDR, .FOL_BOOT_TIME, .FOL_WARM_TACK, .FOL_TACK_AVAIL, .FOL_TACK_STATUS, .FOL_OTP_POLICY, .FOL_OTP_PROG, .FOL_FL_ADDR, .FOL_FL_CTRL, .FOL_FL_DATA, .FOL_EXPERT_GATE]
  | .FLT => [.FLT_CFG, .FLT_STATUS, .FLT_DAYBOOK_HEAD, .FLT_DAYBOOK_SEQ, .FLT_HOST_INT, .FLT_SCOPE_CFG, .FLT_SCOPE_WIN, .FLT_DOM_SEL, .FLT_DOM_STATE, .FLT_DOM_CLEAR, .FLT_IN_CFG, .FLT_IN_STATUS, .FLT_INJECT, .FLT_INJECT_INDEX, .FLT_GPIO, .FLT_GPIO_DOM, .FLT_GPIO_OSEV, .FLT_GPIO_IN, .FLT_REC, .FLT_REC_MERGED, .FLT_REC_FIRST, .FLT_REC_LAST, .FLT_REC_KINDS, .FLT_REC_INFO, .FLT_DAYBOOK, .FLT_DAYBOOK_CNT, .FLT_DAYBOOK_DETAIL, .FLT_DAYBOOK_ESEQ, .FLT_DAYBOOK_TIME, .FLT_DAYBOOK_RSVD, .FLT_SRC_CFG, .FLT_SRC_CNT, .FLT_FORCE, .FLT_EXPERT_GATE]
  | .RAT => [.RAT_CFG, .RAT_CAP_HOST, .RAT_CAP_BOARD, .RAT_POWER, .RAT_WORK, .RAT_LOOP, .RAT_SHED, .RAT_THERM, .RAT_OVER, .RAT_AVS, .RAT_PIPE_ALLOW, .RAT_PIPE_STAT, .RAT_SENSOR, .RAT_EXPERT_GATE]
  | .CKR => [.CKR_RUN, .CKR_RUN_OCT, .CKR_PLL_STATUS, .CKR_STOP, .CKR_RESET, .CKR_RESET_STATUS, .CKR_CHIPLET_RESET, .CKR_XRESET, .CKR_XCFG, .CKR_HUNG_LAST, .CKR_XSTATUS, .CKR_D2D_STATUS, .CKR_EXPERT_GATE]
  | .DRM => [.DRM_CFG, .DRM_STATUS, .DRM_SCHED, .DRM_ARB, .DRM_REF, .DRM_TRAIN, .DRM_SCRUB, .DRM_TIMING_ADJ, .DRM_ECC_COUNT, .DRM_ERR_HEAD, .DRM_ERR_LOG, .DRM_ERR_ADDR_LO, .DRM_ERR_ADDR_HI, .DRM_ERR_SYND, .DRM_ERR_TIME, .DRM_EXPERT_GATE]
  | .ARC => [.ARC_CFG, .ARC_SNAP_BASE_LO, .ARC_SNAP_BASE_HI, .ARC_SNAP_SIZE, .ARC_SNAP_STATUS, .ARC_CONS_LAST, .ARC_LEDGER_BASE_LO, .ARC_LEDGER_BASE_HI, .ARC_LEDGER_CFG, .ARC_FLOW_TIMERS, .ARC_LEDGER_STATUS, .ARC_CAP_BASE_LO, .ARC_CAP_BASE_HI, .ARC_CAP_CFG, .ARC_CAP_POST, .ARC_CAP_RATE, .ARC_CAP_STATUS, .ARC_CAP_STOP_SEQ, .ARC_CAP_DROP_MASK, .ARC_EXPORT, .ARC_EXPERT_GATE]
  | .KST => [.KST_HASH, .KST_SEED, .KST_COUNT, .KST_OVF_COUNT, .KST_PFX_UNITS, .KST_PFX_COUNT, .KST_PFX_COUNT6, .KST_PAR_STATUS, .KST_SCRUB, .KST_EXPERT_GATE]
  | .STB => [.STB_CFG, .STB_STATUS, .STB_POOL_CFG, .STB_POOL_COUNT, .STB_POOL_FREE, .STB_POOL_LOW, .STB_POOL_RSV, .STB_SLIP, .STB_SLIP_LOW, .STB_ERR_LAST, .STB_MIRROR, .STB_ING_LIMIT, .STB_ING_XOFF, .STB_ING_XON, .STB_ING_USED, .STB_EG_LIMIT, .STB_EG_USED, .STB_EG_PORT, .STB_EXPERT_GATE]
  | .PRT => [.PRT_OCT_MODE, .PRT_OCT_TXMAP, .PRT_OCT_RXMAP, .PRT_OCT_STATUS, .PRT_CFG, .PRT_TIMERS, .PRT_STATE, .PRT_EVENTS, .PRT_FC_CFG, .PRT_PRIO_MAP, .PRT_PFC_WD, .PRT_PFC_STATUS, .PRT_SA_LO, .PRT_SA_HI, .PRT_PTP_CFG, .PRT_PTP_RX_ADJ, .PRT_TS_FIFO, .PRT_LANE_CFG, .PRT_LANE_STATUS, .PRT_LANE_TXEQ, .PRT_EXPERT_GATE]
  | .RDR => [.RDR_CFG, .RDR_DISC_A, .RDR_DISC_B, .RDR_FAIL_LAST, .RDR_FAIL_TIME, .RDR_PAR_STATUS, .RDR_SCRUB, .RDR_PROFILE, .RDR_EXPERT_GATE]
  | .BRS => [.BRS_HASH, .BRS_SEED, .BRS_COUNT, .BRS_OVF_COUNT, .BRS_GRP_HASH, .BRS_GRP_SEED, .BRS_PAR_STATUS, .BRS_SCRUB, .BRS_PORT, .BRS_RMAC_LO, .BRS_RMAC_HI, .BRS_LEARN_CFG, .BRS_LEARN_STATUS, .BRS_AGE_CFG, .BRS_AGE_STATUS, .BRS_LEARN_PORT, .BRS_LEARN_COUNT, .BRS_BD_LIMIT_EN, .BRS_EXPERT_GATE, .BRS_BD_LEARN]
  | .CAT => [.CAT_CFG, .CAT_SCRUB, .CAT_PAR_STATUS, .CAT_MOVE_STATUS, .CAT_USE, .CAT_SLICE_I, .CAT_SLICE_E, .CAT_EXPERT_GATE]
  | .FAR => [.FAR_CFG, .FAR_STATUS, .FAR_FAULT_LAST, .FAR_PAR_STATUS, .FAR_SCRUB, .FAR_PORT, .FAR_EXPERT_GATE]
  | .HAR => [.HAR_OVH, .HAR_ERR_LAST, .HAR_PORT_COL, .HAR_GATE_CFG, .HAR_GATE_STAT, .HAR_GATE_SWAPS, .HAR_CAD_BASE, .HAR_CAD_CYCLE, .HAR_CAD_LEN, .HAR_EXPERT_GATE]
  | .PAR => [.PAR_FLOW_CFG, .PAR_FLOW_SEED, .PAR_FLOW_STATUS, .PAR_FLOW_MASK_LO, .PAR_FLOW_MASK_HI, .PAR_FLOW_PROF, .PAR_EXPERT_GATE]

/-- `GEN_ID.PART`. -/ def fGEN_ID_PART : Fld := ⟨.GEN_ID, 31, 16⟩
/-- `GEN_ID.STEPPING`. -/ def fGEN_ID_STEPPING : Fld := ⟨.GEN_ID, 7, 0⟩
/-- `GEN_STRAPS.BOOT_SRC`. -/ def fGEN_STRAPS_BOOT_SRC : Fld := ⟨.GEN_STRAPS, 5, 5⟩
/-- `GEN_STRAPS.HOST_MODE`. -/ def fGEN_STRAPS_HOST_MODE : Fld := ⟨.GEN_STRAPS, 4, 3⟩
/-- `GEN_STRAPS.TACK_SEL`. -/ def fGEN_STRAPS_TACK_SEL : Fld := ⟨.GEN_STRAPS, 2, 0⟩
/-- `GEN_OWNER_CAS.DONE`. -/ def fGEN_OWNER_CAS_DONE : Fld := ⟨.GEN_OWNER_CAS, 29, 29⟩
/-- `GEN_OWNER_CAS.OK`. -/ def fGEN_OWNER_CAS_OK : Fld := ⟨.GEN_OWNER_CAS, 28, 28⟩
/-- `GEN_OWNER_CAS.OWNER`. -/ def fGEN_OWNER_CAS_OWNER : Fld := ⟨.GEN_OWNER_CAS, 27, 26⟩
/-- `GEN_OWNER_CAS.FORCE`. -/ def fGEN_OWNER_CAS_FORCE : Fld := ⟨.GEN_OWNER_CAS, 16, 16⟩
/-- `GEN_OWNER_CAS.NEW`. -/ def fGEN_OWNER_CAS_NEW : Fld := ⟨.GEN_OWNER_CAS, 13, 12⟩
/-- `GEN_OWNER_CAS.EXPECT`. -/ def fGEN_OWNER_CAS_EXPECT : Fld := ⟨.GEN_OWNER_CAS, 9, 8⟩
/-- `GEN_OWNER_CAS.DOMAIN`. -/ def fGEN_OWNER_CAS_DOMAIN : Fld := ⟨.GEN_OWNER_CAS, 5, 0⟩
/-- `GEN_OWNER_MAP.OWNERS`. -/ def fGEN_OWNER_MAP_OWNERS : Fld := ⟨.GEN_OWNER_MAP, 31, 0⟩
/-- `GEN_EXPERT_GATE.ARMED`. -/ def fGEN_EXPERT_GATE_ARMED : Fld := ⟨.GEN_EXPERT_GATE, 9, 9⟩
/-- `GEN_EXPERT_GATE.OPEN`. -/ def fGEN_EXPERT_GATE_OPEN : Fld := ⟨.GEN_EXPERT_GATE, 8, 8⟩
/-- `GEN_EXPERT_GATE.KEY`. -/ def fGEN_EXPERT_GATE_KEY : Fld := ⟨.GEN_EXPERT_GATE, 7, 0⟩
/-- `TIM_STATUS.ARM_REFUSED`. -/ def fTIM_STATUS_ARM_REFUSED : Fld := ⟨.TIM_STATUS, 8, 8⟩
/-- `TIM_STATUS.REF_SRC`. -/ def fTIM_STATUS_REF_SRC : Fld := ⟨.TIM_STATUS, 7, 7⟩
/-- `TIM_STATUS.TIME_SET`. -/ def fTIM_STATUS_TIME_SET : Fld := ⟨.TIM_STATUS, 6, 6⟩
/-- `TIM_STATUS.CAL_DONE`. -/ def fTIM_STATUS_CAL_DONE : Fld := ⟨.TIM_STATUS, 5, 5⟩
/-- `TIM_STATUS.TCLK_LOCK`. -/ def fTIM_STATUS_TCLK_LOCK : Fld := ⟨.TIM_STATUS, 4, 4⟩
/-- `TIM_STATUS.PPS_OK`. -/ def fTIM_STATUS_PPS_OK : Fld := ⟨.TIM_STATUS, 3, 3⟩
/-- `TIM_STATUS.REF_OK`. -/ def fTIM_STATUS_REF_OK : Fld := ⟨.TIM_STATUS, 2, 2⟩
/-- `TIM_STATUS.STATE`. -/ def fTIM_STATUS_STATE : Fld := ⟨.TIM_STATUS, 1, 0⟩
/-- `TIM_CFG.HOLD_SECS`. -/ def fTIM_CFG_HOLD_SECS : Fld := ⟨.TIM_CFG, 11, 4⟩
/-- `TIM_CFG.PPS_EDGE`. -/ def fTIM_CFG_PPS_EDGE : Fld := ⟨.TIM_CFG, 3, 3⟩
/-- `TIM_CFG.PPS_MODE`. -/ def fTIM_CFG_PPS_MODE : Fld := ⟨.TIM_CFG, 2, 2⟩
/-- `TIM_CFG.REF_FREQ`. -/ def fTIM_CFG_REF_FREQ : Fld := ⟨.TIM_CFG, 1, 0⟩
/-- `TIM_PPS_WIN.WINDOW_NS`. -/ def fTIM_PPS_WIN_WINDOW_NS : Fld := ⟨.TIM_PPS_WIN, 16, 0⟩
/-- `TIM_PPS_DELAY.DELAY`. -/ def fTIM_PPS_DELAY_DELAY : Fld := ⟨.TIM_PPS_DELAY, 23, 0⟩
/-- `TIM_PPS_CAP.W`. -/ def fTIM_PPS_CAP_W : Fld := ⟨.TIM_PPS_CAP, 31, 0⟩
/-- `TIM_PPS_REJ.W`. -/ def fTIM_PPS_REJ_W : Fld := ⟨.TIM_PPS_REJ, 31, 0⟩
/-- `TIM_PPS_COUNTS.REJECTED`. -/ def fTIM_PPS_COUNTS_REJECTED : Fld := ⟨.TIM_PPS_COUNTS, 31, 16⟩
/-- `TIM_PPS_COUNTS.VALID`. -/ def fTIM_PPS_COUNTS_VALID : Fld := ⟨.TIM_PPS_COUNTS, 15, 0⟩
/-- `TIM_NOW.W`. -/ def fTIM_NOW_W : Fld := ⟨.TIM_NOW, 31, 0⟩
/-- `TIM_RUN.W`. -/ def fTIM_RUN_W : Fld := ⟨.TIM_RUN, 31, 0⟩
/-- `TIM_SET.W`. -/ def fTIM_SET_W : Fld := ⟨.TIM_SET, 31, 0⟩
/-- `TIM_FREQ_LO.VALUE`. -/ def fTIM_FREQ_LO_VALUE : Fld := ⟨.TIM_FREQ_LO, 31, 0⟩
/-- `TIM_FREQ_HI.VALUE`. -/ def fTIM_FREQ_HI_VALUE : Fld := ⟨.TIM_FREQ_HI, 31, 0⟩
/-- `TIM_STEP.W`. -/ def fTIM_STEP_W : Fld := ⟨.TIM_STEP, 31, 0⟩
/-- `TIM_CTRL.CLEAR`. -/ def fTIM_CTRL_CLEAR : Fld := ⟨.TIM_CTRL, 3, 3⟩
/-- `TIM_CTRL.STEP`. -/ def fTIM_CTRL_STEP : Fld := ⟨.TIM_CTRL, 2, 2⟩
/-- `TIM_CTRL.SET_AT_PPS`. -/ def fTIM_CTRL_SET_AT_PPS : Fld := ⟨.TIM_CTRL, 1, 1⟩
/-- `TIM_CTRL.SET_NOW`. -/ def fTIM_CTRL_SET_NOW : Fld := ⟨.TIM_CTRL, 0, 0⟩
/-- `TIM_CHANGE.REFUSED`. -/ def fTIM_CHANGE_REFUSED : Fld := ⟨.TIM_CHANGE, 31, 24⟩
/-- `TIM_CHANGE.APPLIED`. -/ def fTIM_CHANGE_APPLIED : Fld := ⟨.TIM_CHANGE, 23, 8⟩
/-- `TIM_CHANGE.PENDING`. -/ def fTIM_CHANGE_PENDING : Fld := ⟨.TIM_CHANGE, 0, 0⟩
/-- `TIM_TOD_CFG.CLOCK_CLASS`. -/ def fTIM_TOD_CFG_CLOCK_CLASS : Fld := ⟨.TIM_TOD_CFG, 31, 24⟩
/-- `TIM_TOD_CFG.UTC_OFFSET`. -/ def fTIM_TOD_CFG_UTC_OFFSET : Fld := ⟨.TIM_TOD_CFG, 23, 8⟩
/-- `TIM_TOD_CFG.TRACEABLE`. -/ def fTIM_TOD_CFG_TRACEABLE : Fld := ⟨.TIM_TOD_CFG, 3, 3⟩
/-- `TIM_TOD_CFG.TX_EN`. -/ def fTIM_TOD_CFG_TX_EN : Fld := ⟨.TIM_TOD_CFG, 2, 2⟩
/-- `TIM_TOD_CFG.RX_MODE`. -/ def fTIM_TOD_CFG_RX_MODE : Fld := ⟨.TIM_TOD_CFG, 1, 0⟩
/-- `TIM_TOD_RX.W`. -/ def fTIM_TOD_RX_W : Fld := ⟨.TIM_TOD_RX, 31, 0⟩
/-- `TIM_TOD_COUNTS.BAD`. -/ def fTIM_TOD_COUNTS_BAD : Fld := ⟨.TIM_TOD_COUNTS, 31, 24⟩
/-- `TIM_TOD_COUNTS.MISMATCH`. -/ def fTIM_TOD_COUNTS_MISMATCH : Fld := ⟨.TIM_TOD_COUNTS, 23, 16⟩
/-- `TIM_TOD_COUNTS.GOOD`. -/ def fTIM_TOD_COUNTS_GOOD : Fld := ⟨.TIM_TOD_COUNTS, 15, 0⟩
/-- `TIM_PPS_OUT.WIDTH_US`. -/ def fTIM_PPS_OUT_WIDTH_US : Fld := ⟨.TIM_PPS_OUT, 21, 2⟩
/-- `TIM_PPS_OUT.EN_UNSET`. -/ def fTIM_PPS_OUT_EN_UNSET : Fld := ⟨.TIM_PPS_OUT, 1, 1⟩
/-- `TIM_PPS_OUT.EN`. -/ def fTIM_PPS_OUT_EN : Fld := ⟨.TIM_PPS_OUT, 0, 0⟩
/-- `TIM_PPS_OUT_DELAY.DELAY`. -/ def fTIM_PPS_OUT_DELAY_DELAY : Fld := ⟨.TIM_PPS_OUT_DELAY, 23, 0⟩
/-- `TIM_CAL_CTRL.PERIOD_MS`. -/ def fTIM_CAL_CTRL_PERIOD_MS : Fld := ⟨.TIM_CAL_CTRL, 14, 1⟩
/-- `TIM_CAL_CTRL.RUN_NOW`. -/ def fTIM_CAL_CTRL_RUN_NOW : Fld := ⟨.TIM_CAL_CTRL, 0, 0⟩
/-- `TIM_CAL_STATUS.JUMP`. -/ def fTIM_CAL_STATUS_JUMP : Fld := ⟨.TIM_CAL_STATUS, 15, 8⟩
/-- `TIM_CAL_STATUS.DONE`. -/ def fTIM_CAL_STATUS_DONE : Fld := ⟨.TIM_CAL_STATUS, 7, 0⟩
/-- `TIM_CHIPLET_ASYM.ASYM`. -/ def fTIM_CHIPLET_ASYM_ASYM : Fld := ⟨.TIM_CHIPLET_ASYM, 15, 0⟩
/-- `TIM_SYNCE.ACTIVE`. -/ def fTIM_SYNCE_ACTIVE : Fld := ⟨.TIM_SYNCE, 27, 20⟩
/-- `TIM_SYNCE.SQUELCHED`. -/ def fTIM_SYNCE_SQUELCHED : Fld := ⟨.TIM_SYNCE, 19, 19⟩
/-- `TIM_SYNCE.MODE`. -/ def fTIM_SYNCE_MODE : Fld := ⟨.TIM_SYNCE, 18, 18⟩
/-- `TIM_SYNCE.FREQ_SEL`. -/ def fTIM_SYNCE_FREQ_SEL : Fld := ⟨.TIM_SYNCE, 17, 16⟩
/-- `TIM_SYNCE.BACKUP`. -/ def fTIM_SYNCE_BACKUP : Fld := ⟨.TIM_SYNCE, 15, 8⟩
/-- `TIM_SYNCE.LANE`. -/ def fTIM_SYNCE_LANE : Fld := ⟨.TIM_SYNCE, 7, 0⟩
/-- `TIM_SYNCE_EN.EN`. -/ def fTIM_SYNCE_EN_EN : Fld := ⟨.TIM_SYNCE_EN, 1, 0⟩
/-- `TIM_GPIO_CFG.WIDTH_NS`. -/ def fTIM_GPIO_CFG_WIDTH_NS : Fld := ⟨.TIM_GPIO_CFG, 31, 8⟩
/-- `TIM_GPIO_CFG.MODE`. -/ def fTIM_GPIO_CFG_MODE : Fld := ⟨.TIM_GPIO_CFG, 1, 0⟩
/-- `TIM_GPIO_CAP.W`. -/ def fTIM_GPIO_CAP_W : Fld := ⟨.TIM_GPIO_CAP, 31, 0⟩
/-- `TIM_GPIO_STAT.OVERRUN1`. -/ def fTIM_GPIO_STAT_OVERRUN1 : Fld := ⟨.TIM_GPIO_STAT, 31, 16⟩
/-- `TIM_GPIO_STAT.OVERRUN0`. -/ def fTIM_GPIO_STAT_OVERRUN0 : Fld := ⟨.TIM_GPIO_STAT, 15, 0⟩
/-- `TIM_TRIG_CTRL.SKIPPED`. -/ def fTIM_TRIG_CTRL_SKIPPED : Fld := ⟨.TIM_TRIG_CTRL, 23, 16⟩
/-- `TIM_TRIG_CTRL.CANCELLED`. -/ def fTIM_TRIG_CTRL_CANCELLED : Fld := ⟨.TIM_TRIG_CTRL, 12, 12⟩
/-- `TIM_TRIG_CTRL.LATE`. -/ def fTIM_TRIG_CTRL_LATE : Fld := ⟨.TIM_TRIG_CTRL, 11, 11⟩
/-- `TIM_TRIG_CTRL.FIRED`. -/ def fTIM_TRIG_CTRL_FIRED : Fld := ⟨.TIM_TRIG_CTRL, 10, 10⟩
/-- `TIM_TRIG_CTRL.ARMED`. -/ def fTIM_TRIG_CTRL_ARMED : Fld := ⟨.TIM_TRIG_CTRL, 9, 9⟩
/-- `TIM_TRIG_CTRL.ARM`. -/ def fTIM_TRIG_CTRL_ARM : Fld := ⟨.TIM_TRIG_CTRL, 8, 8⟩
/-- `TIM_TRIG_CTRL.KIND`. -/ def fTIM_TRIG_CTRL_KIND : Fld := ⟨.TIM_TRIG_CTRL, 3, 0⟩
/-- `TIM_TRIG_TIME.W`. -/ def fTIM_TRIG_TIME_W : Fld := ⟨.TIM_TRIG_TIME, 31, 0⟩
/-- `TIM_TRIG_INTERVAL.W`. -/ def fTIM_TRIG_INTERVAL_W : Fld := ⟨.TIM_TRIG_INTERVAL, 31, 0⟩
/-- `TIM_EXPERT_GATE.ARMED`. -/ def fTIM_EXPERT_GATE_ARMED : Fld := ⟨.TIM_EXPERT_GATE, 9, 9⟩
/-- `TIM_EXPERT_GATE.OPEN`. -/ def fTIM_EXPERT_GATE_OPEN : Fld := ⟨.TIM_EXPERT_GATE, 8, 8⟩
/-- `TIM_EXPERT_GATE.KEY`. -/ def fTIM_EXPERT_GATE_KEY : Fld := ⟨.TIM_EXPERT_GATE, 7, 0⟩
/-- `HST_MODE.HOST_MODE`. -/ def fHST_MODE_HOST_MODE : Fld := ⟨.HST_MODE, 1, 0⟩
/-- `HST_LINK.PERST`. -/ def fHST_LINK_PERST : Fld := ⟨.HST_LINK, 10, 10⟩
/-- `HST_LINK.FLIT`. -/ def fHST_LINK_FLIT : Fld := ⟨.HST_LINK, 9, 9⟩
/-- `HST_LINK.WIDTH`. -/ def fHST_LINK_WIDTH : Fld := ⟨.HST_LINK, 8, 4⟩
/-- `HST_LINK.SPEED`. -/ def fHST_LINK_SPEED : Fld := ⟨.HST_LINK, 3, 1⟩
/-- `HST_LINK.UP`. -/ def fHST_LINK_UP : Fld := ⟨.HST_LINK, 0, 0⟩
/-- `HST_PCIE_ERR.UNCORR`. -/ def fHST_PCIE_ERR_UNCORR : Fld := ⟨.HST_PCIE_ERR, 31, 16⟩
/-- `HST_PCIE_ERR.CORR`. -/ def fHST_PCIE_ERR_CORR : Fld := ⟨.HST_PCIE_ERR, 15, 0⟩
/-- `HST_REJECT_LOG.W`. -/ def fHST_REJECT_LOG_W : Fld := ⟨.HST_REJECT_LOG, 31, 0⟩
/-- `HST_REJECT_COUNT.COUNT`. -/ def fHST_REJECT_COUNT_COUNT : Fld := ⟨.HST_REJECT_COUNT, 31, 0⟩
/-- `HST_POOL_LO.BASE`. -/ def fHST_POOL_LO_BASE : Fld := ⟨.HST_POOL_LO, 31, 12⟩
/-- `HST_POOL_HI.BASE`. -/ def fHST_POOL_HI_BASE : Fld := ⟨.HST_POOL_HI, 31, 0⟩
/-- `HST_POOL_CFG.EN`. -/ def fHST_POOL_CFG_EN : Fld := ⟨.HST_POOL_CFG, 31, 31⟩
/-- `HST_POOL_CFG.SIZE_256`. -/ def fHST_POOL_CFG_SIZE_256 : Fld := ⟨.HST_POOL_CFG, 22, 16⟩
/-- `HST_POOL_CFG.COUNT_M1`. -/ def fHST_POOL_CFG_COUNT_M1 : Fld := ⟨.HST_POOL_CFG, 15, 0⟩
/-- `HST_POOL_STAT.DOUBLE`. -/ def fHST_POOL_STAT_DOUBLE : Fld := ⟨.HST_POOL_STAT, 31, 20⟩
/-- `HST_POOL_STAT.POSTED`. -/ def fHST_POOL_STAT_POSTED : Fld := ⟨.HST_POOL_STAT, 16, 0⟩
/-- `HST_SB_CFG.PEC_REQ`. -/ def fHST_SB_CFG_PEC_REQ : Fld := ⟨.HST_SB_CFG, 8, 8⟩
/-- `HST_SB_CFG.ADDR`. -/ def fHST_SB_CFG_ADDR : Fld := ⟨.HST_SB_CFG, 6, 0⟩
/-- `HST_SB_INT.HOST_B_LOST`. -/ def fHST_SB_INT_HOST_B_LOST : Fld := ⟨.HST_SB_INT, 2, 2⟩
/-- `HST_SB_INT.HOST_A_LOST`. -/ def fHST_SB_INT_HOST_A_LOST : Fld := ⟨.HST_SB_INT, 1, 1⟩
/-- `HST_SB_INT.FAULT`. -/ def fHST_SB_INT_FAULT : Fld := ⟨.HST_SB_INT, 0, 0⟩
/-- `HST_SB_MASK.MASK`. -/ def fHST_SB_MASK_MASK : Fld := ⟨.HST_SB_MASK, 2, 0⟩
/-- `HST_PUNT_MAP.HOST`. -/ def fHST_PUNT_MAP_HOST : Fld := ⟨.HST_PUNT_MAP, 3, 3⟩
/-- `HST_PUNT_MAP.CLASS`. -/ def fHST_PUNT_MAP_CLASS : Fld := ⟨.HST_PUNT_MAP, 2, 0⟩
/-- `HST_CNT.W`. -/ def fHST_CNT_W : Fld := ⟨.HST_CNT, 31, 0⟩
/-- `HST_CH_BASE_LO.BASE`. -/ def fHST_CH_BASE_LO_BASE : Fld := ⟨.HST_CH_BASE_LO, 31, 12⟩
/-- `HST_CH_BASE_HI.BASE`. -/ def fHST_CH_BASE_HI_BASE : Fld := ⟨.HST_CH_BASE_HI, 31, 0⟩
/-- `HST_CH_CFG.EN`. -/ def fHST_CH_CFG_EN : Fld := ⟨.HST_CH_CFG, 31, 31⟩
/-- `HST_CH_CFG.LOG2_SIZE`. -/ def fHST_CH_CFG_LOG2_SIZE : Fld := ⟨.HST_CH_CFG, 29, 24⟩
/-- `HST_CH_CFG.VECTOR`. -/ def fHST_CH_CFG_VECTOR : Fld := ⟨.HST_CH_CFG, 23, 16⟩
/-- `HST_CH_CFG.INT_EN`. -/ def fHST_CH_CFG_INT_EN : Fld := ⟨.HST_CH_CFG, 15, 15⟩
/-- `HST_CH_CFG.MOD_COUNT`. -/ def fHST_CH_CFG_MOD_COUNT : Fld := ⟨.HST_CH_CFG, 7, 0⟩
/-- `HST_CH_MOD.MOD_US`. -/ def fHST_CH_MOD_MOD_US : Fld := ⟨.HST_CH_MOD, 9, 0⟩
/-- `HST_CH_WB_LO.WB`. -/ def fHST_CH_WB_LO_WB : Fld := ⟨.HST_CH_WB_LO, 31, 3⟩
/-- `HST_CH_WB_HI.WB`. -/ def fHST_CH_WB_HI_WB : Fld := ⟨.HST_CH_WB_HI, 31, 0⟩
/-- `HST_CH_DEV_IDX.IDX`. -/ def fHST_CH_DEV_IDX_IDX : Fld := ⟨.HST_CH_DEV_IDX, 31, 0⟩
/-- `HST_CH_HOST_IDX.IDX`. -/ def fHST_CH_HOST_IDX_IDX : Fld := ⟨.HST_CH_HOST_IDX, 31, 0⟩
/-- `HST_CH_STAT.FULL`. -/ def fHST_CH_STAT_FULL : Fld := ⟨.HST_CH_STAT, 2, 2⟩
/-- `HST_CH_STAT.RUNNING`. -/ def fHST_CH_STAT_RUNNING : Fld := ⟨.HST_CH_STAT, 1, 1⟩
/-- `HST_CH_STAT.ERR`. -/ def fHST_CH_STAT_ERR : Fld := ⟨.HST_CH_STAT, 0, 0⟩
/-- `HST_EXPERT_GATE.ARMED`. -/ def fHST_EXPERT_GATE_ARMED : Fld := ⟨.HST_EXPERT_GATE, 9, 9⟩
/-- `HST_EXPERT_GATE.OPEN`. -/ def fHST_EXPERT_GATE_OPEN : Fld := ⟨.HST_EXPERT_GATE, 8, 8⟩
/-- `HST_EXPERT_GATE.KEY`. -/ def fHST_EXPERT_GATE_KEY : Fld := ⟨.HST_EXPERT_GATE, 7, 0⟩
/-- `CLE_STATUS.STOPPED`. -/ def fCLE_STATUS_STOPPED : Fld := ⟨.CLE_STATUS, 5, 5⟩
/-- `CLE_STATUS.PATCH_WAIT`. -/ def fCLE_STATUS_PATCH_WAIT : Fld := ⟨.CLE_STATUS, 4, 4⟩
/-- `CLE_STATUS.STEP`. -/ def fCLE_STATUS_STEP : Fld := ⟨.CLE_STATUS, 3, 3⟩
/-- `CLE_STATUS.HALT_REQ`. -/ def fCLE_STATUS_HALT_REQ : Fld := ⟨.CLE_STATUS, 2, 2⟩
/-- `CLE_STATUS.HALTED`. -/ def fCLE_STATUS_HALTED : Fld := ⟨.CLE_STATUS, 1, 1⟩
/-- `CLE_STATUS.READY`. -/ def fCLE_STATUS_READY : Fld := ⟨.CLE_STATUS, 0, 0⟩
/-- `CLE_CTRL.HALT`. -/ def fCLE_CTRL_HALT : Fld := ⟨.CLE_CTRL, 0, 0⟩
/-- `CLE_UCODE_VER.PATCH_ID`. -/ def fCLE_UCODE_VER_PATCH_ID : Fld := ⟨.CLE_UCODE_VER, 31, 16⟩
/-- `CLE_UCODE_VER.ROM_ID`. -/ def fCLE_UCODE_VER_ROM_ID : Fld := ⟨.CLE_UCODE_VER, 15, 0⟩
/-- `CLE_GAP_MAX.GAP_NS`. -/ def fCLE_GAP_MAX_GAP_NS : Fld := ⟨.CLE_GAP_MAX, 31, 0⟩
/-- `CLE_CS_STATUS.RAM_CORR`. -/ def fCLE_CS_STATUS_RAM_CORR : Fld := ⟨.CLE_CS_STATUS, 31, 16⟩
/-- `CLE_CS_STATUS.ROM_PAR`. -/ def fCLE_CS_STATUS_ROM_PAR : Fld := ⟨.CLE_CS_STATUS, 15, 0⟩
/-- `CLE_CS_LAST.VALID`. -/ def fCLE_CS_LAST_VALID : Fld := ⟨.CLE_CS_LAST, 31, 31⟩
/-- `CLE_CS_LAST.KIND`. -/ def fCLE_CS_LAST_KIND : Fld := ⟨.CLE_CS_LAST, 30, 29⟩
/-- `CLE_CS_LAST.ADDR`. -/ def fCLE_CS_LAST_ADDR : Fld := ⟨.CLE_CS_LAST, 13, 0⟩
/-- `CLE_UCODE_DIGEST.DIGEST`. -/ def fCLE_UCODE_DIGEST_DIGEST : Fld := ⟨.CLE_UCODE_DIGEST, 31, 0⟩
/-- `CLE_CMD_COUNT.COUNT`. -/ def fCLE_CMD_COUNT_COUNT : Fld := ⟨.CLE_CMD_COUNT, 31, 0⟩
/-- `CLE_CMD_FAIL.COUNT`. -/ def fCLE_CMD_FAIL_COUNT : Fld := ⟨.CLE_CMD_FAIL, 31, 0⟩
/-- `CLE_MIRROR_CFG.STALL_US`. -/ def fCLE_MIRROR_CFG_STALL_US : Fld := ⟨.CLE_MIRROR_CFG, 23, 10⟩
/-- `CLE_MIRROR_CFG.FALLBACK`. -/ def fCLE_MIRROR_CFG_FALLBACK : Fld := ⟨.CLE_MIRROR_CFG, 3, 3⟩
/-- `CLE_MIRROR_CFG.REPAIR_SRC`. -/ def fCLE_MIRROR_CFG_REPAIR_SRC : Fld := ⟨.CLE_MIRROR_CFG, 2, 2⟩
/-- `CLE_MIRROR_CFG.EN_B`. -/ def fCLE_MIRROR_CFG_EN_B : Fld := ⟨.CLE_MIRROR_CFG, 1, 1⟩
/-- `CLE_MIRROR_CFG.EN_A`. -/ def fCLE_MIRROR_CFG_EN_A : Fld := ⟨.CLE_MIRROR_CFG, 0, 0⟩
/-- `CLE_MIRROR_BASE_LO.ADDR_LO`. -/ def fCLE_MIRROR_BASE_LO_ADDR_LO : Fld := ⟨.CLE_MIRROR_BASE_LO, 31, 12⟩
/-- `CLE_MIRROR_BASE_HI.ADDR_HI`. -/ def fCLE_MIRROR_BASE_HI_ADDR_HI : Fld := ⟨.CLE_MIRROR_BASE_HI, 31, 0⟩
/-- `CLE_MIRROR_SIZE.SIZE_MIB`. -/ def fCLE_MIRROR_SIZE_SIZE_MIB : Fld := ⟨.CLE_MIRROR_SIZE, 31, 0⟩
/-- `CLE_MIRROR_NEED.NEED_MIB`. -/ def fCLE_MIRROR_NEED_NEED_MIB : Fld := ⟨.CLE_MIRROR_NEED, 31, 0⟩
/-- `CLE_MIRROR_STATUS.STALLS`. -/ def fCLE_MIRROR_STATUS_STALLS : Fld := ⟨.CLE_MIRROR_STATUS, 31, 16⟩
/-- `CLE_MIRROR_STATUS.RESYNC_B`. -/ def fCLE_MIRROR_STATUS_RESYNC_B : Fld := ⟨.CLE_MIRROR_STATUS, 3, 3⟩
/-- `CLE_MIRROR_STATUS.RESYNC_A`. -/ def fCLE_MIRROR_STATUS_RESYNC_A : Fld := ⟨.CLE_MIRROR_STATUS, 2, 2⟩
/-- `CLE_MIRROR_STATUS.VALID_B`. -/ def fCLE_MIRROR_STATUS_VALID_B : Fld := ⟨.CLE_MIRROR_STATUS, 1, 1⟩
/-- `CLE_MIRROR_STATUS.VALID_A`. -/ def fCLE_MIRROR_STATUS_VALID_A : Fld := ⟨.CLE_MIRROR_STATUS, 0, 0⟩
/-- `CLE_REPAIR_CFG.FENCE_LIMIT`. -/ def fCLE_REPAIR_CFG_FENCE_LIMIT : Fld := ⟨.CLE_REPAIR_CFG, 31, 16⟩
/-- `CLE_REPAIR_CFG.FENCE_TIMEOUT_US`. -/ def fCLE_REPAIR_CFG_FENCE_TIMEOUT_US : Fld := ⟨.CLE_REPAIR_CFG, 13, 0⟩
/-- `CLE_REPAIR_STATUS.INVALIDATED`. -/ def fCLE_REPAIR_STATUS_INVALIDATED : Fld := ⟨.CLE_REPAIR_STATUS, 31, 16⟩
/-- `CLE_REPAIR_STATUS.OPEN`. -/ def fCLE_REPAIR_STATUS_OPEN : Fld := ⟨.CLE_REPAIR_STATUS, 3, 0⟩
/-- `CLE_ED_STATUS.IN_FORCE`. -/ def fCLE_ED_STATUS_IN_FORCE : Fld := ⟨.CLE_ED_STATUS, 8, 8⟩
/-- `CLE_ED_STATUS.STATE_B`. -/ def fCLE_ED_STATUS_STATE_B : Fld := ⟨.CLE_ED_STATUS, 6, 4⟩
/-- `CLE_ED_STATUS.STATE_A`. -/ def fCLE_ED_STATUS_STATE_A : Fld := ⟨.CLE_ED_STATUS, 2, 0⟩
/-- `CLE_ED_NUM.NUM_B`. -/ def fCLE_ED_NUM_NUM_B : Fld := ⟨.CLE_ED_NUM, 31, 16⟩
/-- `CLE_ED_NUM.NUM_A`. -/ def fCLE_ED_NUM_NUM_A : Fld := ⟨.CLE_ED_NUM, 15, 0⟩
/-- `CLE_ED_TIMEOUT.TIMEOUT_US`. -/ def fCLE_ED_TIMEOUT_TIMEOUT_US : Fld := ⟨.CLE_ED_TIMEOUT, 16, 0⟩
/-- `CLE_ED_RESIDENT.RESIDENT`. -/ def fCLE_ED_RESIDENT_RESIDENT : Fld := ⟨.CLE_ED_RESIDENT, 31, 0⟩
/-- `CLE_ED_SWITCH_TIME.W`. -/ def fCLE_ED_SWITCH_TIME_W : Fld := ⟨.CLE_ED_SWITCH_TIME, 31, 0⟩
/-- `CLE_ED_DRAIN.EXPIRIES`. -/ def fCLE_ED_DRAIN_EXPIRIES : Fld := ⟨.CLE_ED_DRAIN, 31, 24⟩
/-- `CLE_ED_DRAIN.LAST_DRAIN_US`. -/ def fCLE_ED_DRAIN_LAST_DRAIN_US : Fld := ⟨.CLE_ED_DRAIN, 23, 0⟩
/-- `CLE_PATCH_MAP.V`. -/ def fCLE_PATCH_MAP_V : Fld := ⟨.CLE_PATCH_MAP, 31, 31⟩
/-- `CLE_PATCH_MAP.RAM_ADDR`. -/ def fCLE_PATCH_MAP_RAM_ADDR : Fld := ⟨.CLE_PATCH_MAP, 29, 16⟩
/-- `CLE_PATCH_MAP.ROM_ADDR`. -/ def fCLE_PATCH_MAP_ROM_ADDR : Fld := ⟨.CLE_PATCH_MAP, 12, 0⟩
/-- `CLE_TAW_CTRL.STATUS`. -/ def fCLE_TAW_CTRL_STATUS : Fld := ⟨.CLE_TAW_CTRL, 15, 8⟩
/-- `CLE_TAW_CTRL.DONE`. -/ def fCLE_TAW_CTRL_DONE : Fld := ⟨.CLE_TAW_CTRL, 2, 2⟩
/-- `CLE_TAW_CTRL.BUSY`. -/ def fCLE_TAW_CTRL_BUSY : Fld := ⟨.CLE_TAW_CTRL, 1, 1⟩
/-- `CLE_TAW_CTRL.GO`. -/ def fCLE_TAW_CTRL_GO : Fld := ⟨.CLE_TAW_CTRL, 0, 0⟩
/-- `CLE_TAW_RESULT.W`. -/ def fCLE_TAW_RESULT_W : Fld := ⟨.CLE_TAW_RESULT, 31, 0⟩
/-- `CLE_TAW_CMD.W`. -/ def fCLE_TAW_CMD_W : Fld := ⟨.CLE_TAW_CMD, 31, 0⟩
/-- `CLE_TAW_DATA.W`. -/ def fCLE_TAW_DATA_W : Fld := ⟨.CLE_TAW_DATA, 31, 0⟩
/-- `CLE_EXPERT_GATE.ARMED`. -/ def fCLE_EXPERT_GATE_ARMED : Fld := ⟨.CLE_EXPERT_GATE, 9, 9⟩
/-- `CLE_EXPERT_GATE.OPEN`. -/ def fCLE_EXPERT_GATE_OPEN : Fld := ⟨.CLE_EXPERT_GATE, 8, 8⟩
/-- `CLE_EXPERT_GATE.KEY`. -/ def fCLE_EXPERT_GATE_KEY : Fld := ⟨.CLE_EXPERT_GATE, 7, 0⟩
/-- `FOL_BOOT_STATUS.REFUSED`. -/ def fFOL_BOOT_STATUS_REFUSED : Fld := ⟨.FOL_BOOT_STATUS, 31, 16⟩
/-- `FOL_BOOT_STATUS.TAMPER`. -/ def fFOL_BOOT_STATUS_TAMPER : Fld := ⟨.FOL_BOOT_STATUS, 12, 12⟩
/-- `FOL_BOOT_STATUS.NO_TACK`. -/ def fFOL_BOOT_STATUS_NO_TACK : Fld := ⟨.FOL_BOOT_STATUS, 11, 11⟩
/-- `FOL_BOOT_STATUS.TACK`. -/ def fFOL_BOOT_STATUS_TACK : Fld := ⟨.FOL_BOOT_STATUS, 10, 8⟩
/-- `FOL_BOOT_STATUS.COPY`. -/ def fFOL_BOOT_STATUS_COPY : Fld := ⟨.FOL_BOOT_STATUS, 5, 4⟩
/-- `FOL_BOOT_STATUS.STATE`. -/ def fFOL_BOOT_STATUS_STATE : Fld := ⟨.FOL_BOOT_STATUS, 3, 0⟩
/-- `FOL_BOOT_SEQ.SEQ`. -/ def fFOL_BOOT_SEQ_SEQ : Fld := ⟨.FOL_BOOT_SEQ, 31, 0⟩
/-- `FOL_COPY_STATUS.CAUSE_B`. -/ def fFOL_COPY_STATUS_CAUSE_B : Fld := ⟨.FOL_COPY_STATUS, 7, 4⟩
/-- `FOL_COPY_STATUS.CAUSE_A`. -/ def fFOL_COPY_STATUS_CAUSE_A : Fld := ⟨.FOL_COPY_STATUS, 3, 0⟩
/-- `FOL_BOOT_ERR.VALID`. -/ def fFOL_BOOT_ERR_VALID : Fld := ⟨.FOL_BOOT_ERR, 31, 31⟩
/-- `FOL_BOOT_ERR.CAUSE`. -/ def fFOL_BOOT_ERR_CAUSE : Fld := ⟨.FOL_BOOT_ERR, 30, 27⟩
/-- `FOL_BOOT_ERR.TABLE`. -/ def fFOL_BOOT_ERR_TABLE : Fld := ⟨.FOL_BOOT_ERR, 23, 16⟩
/-- `FOL_BOOT_ERR.SECTION`. -/ def fFOL_BOOT_ERR_SECTION : Fld := ⟨.FOL_BOOT_ERR, 3, 0⟩
/-- `FOL_BOOT_ERR_ADDR.ADDR`. -/ def fFOL_BOOT_ERR_ADDR_ADDR : Fld := ⟨.FOL_BOOT_ERR_ADDR, 31, 0⟩
/-- `FOL_BOOT_TIME.MS`. -/ def fFOL_BOOT_TIME_MS : Fld := ⟨.FOL_BOOT_TIME, 15, 0⟩
/-- `FOL_WARM_TACK.V`. -/ def fFOL_WARM_TACK_V : Fld := ⟨.FOL_WARM_TACK, 3, 3⟩
/-- `FOL_WARM_TACK.TACK`. -/ def fFOL_WARM_TACK_TACK : Fld := ⟨.FOL_WARM_TACK, 2, 0⟩
/-- `FOL_TACK_AVAIL.STORE_USED`. -/ def fFOL_TACK_AVAIL_STORE_USED : Fld := ⟨.FOL_TACK_AVAIL, 31, 16⟩
/-- `FOL_TACK_AVAIL.LIVE`. -/ def fFOL_TACK_AVAIL_LIVE : Fld := ⟨.FOL_TACK_AVAIL, 14, 8⟩
/-- `FOL_TACK_AVAIL.PRESENT`. -/ def fFOL_TACK_AVAIL_PRESENT : Fld := ⟨.FOL_TACK_AVAIL, 6, 0⟩
/-- `FOL_TACK_STATUS.SWITCHES`. -/ def fFOL_TACK_STATUS_SWITCHES : Fld := ⟨.FOL_TACK_STATUS, 31, 16⟩
/-- `FOL_TACK_STATUS.ERR`. -/ def fFOL_TACK_STATUS_ERR : Fld := ⟨.FOL_TACK_STATUS, 8, 8⟩
/-- `FOL_TACK_STATUS.LOADED`. -/ def fFOL_TACK_STATUS_LOADED : Fld := ⟨.FOL_TACK_STATUS, 7, 7⟩
/-- `FOL_TACK_STATUS.ARMED`. -/ def fFOL_TACK_STATUS_ARMED : Fld := ⟨.FOL_TACK_STATUS, 6, 6⟩
/-- `FOL_TACK_STATUS.TARGET`. -/ def fFOL_TACK_STATUS_TARGET : Fld := ⟨.FOL_TACK_STATUS, 5, 3⟩
/-- `FOL_TACK_STATUS.IN_FORCE`. -/ def fFOL_TACK_STATUS_IN_FORCE : Fld := ⟨.FOL_TACK_STATUS, 2, 0⟩
/-- `FOL_OTP_POLICY.KEY_USED`. -/ def fFOL_OTP_POLICY_KEY_USED : Fld := ⟨.FOL_OTP_POLICY, 26, 24⟩
/-- `FOL_OTP_POLICY.ROLLBACK`. -/ def fFOL_OTP_POLICY_ROLLBACK : Fld := ⟨.FOL_OTP_POLICY, 23, 16⟩
/-- `FOL_OTP_POLICY.KEY_REVOKED`. -/ def fFOL_OTP_POLICY_KEY_REVOKED : Fld := ⟨.FOL_OTP_POLICY, 11, 8⟩
/-- `FOL_OTP_POLICY.KEY_VALID`. -/ def fFOL_OTP_POLICY_KEY_VALID : Fld := ⟨.FOL_OTP_POLICY, 7, 4⟩
/-- `FOL_OTP_POLICY.DEBUG_LOCK`. -/ def fFOL_OTP_POLICY_DEBUG_LOCK : Fld := ⟨.FOL_OTP_POLICY, 1, 1⟩
/-- `FOL_OTP_POLICY.SECURE`. -/ def fFOL_OTP_POLICY_SECURE : Fld := ⟨.FOL_OTP_POLICY, 0, 0⟩
/-- `FOL_OTP_PROG.GO`. -/ def fFOL_OTP_PROG_GO : Fld := ⟨.FOL_OTP_PROG, 31, 31⟩
/-- `FOL_OTP_PROG.BUSY`. -/ def fFOL_OTP_PROG_BUSY : Fld := ⟨.FOL_OTP_PROG, 30, 30⟩
/-- `FOL_OTP_PROG.FAIL`. -/ def fFOL_OTP_PROG_FAIL : Fld := ⟨.FOL_OTP_PROG, 29, 29⟩
/-- `FOL_OTP_PROG.BIT`. -/ def fFOL_OTP_PROG_BIT : Fld := ⟨.FOL_OTP_PROG, 11, 0⟩
/-- `FOL_FL_ADDR.ADDR`. -/ def fFOL_FL_ADDR_ADDR : Fld := ⟨.FOL_FL_ADDR, 31, 0⟩
/-- `FOL_FL_CTRL.GO`. -/ def fFOL_FL_CTRL_GO : Fld := ⟨.FOL_FL_CTRL, 31, 31⟩
/-- `FOL_FL_CTRL.BUSY`. -/ def fFOL_FL_CTRL_BUSY : Fld := ⟨.FOL_FL_CTRL, 30, 30⟩
/-- `FOL_FL_CTRL.ERR`. -/ def fFOL_FL_CTRL_ERR : Fld := ⟨.FOL_FL_CTRL, 29, 29⟩
/-- `FOL_FL_CTRL.CS`. -/ def fFOL_FL_CTRL_CS : Fld := ⟨.FOL_FL_CTRL, 9, 9⟩
/-- `FOL_FL_CTRL.OP`. -/ def fFOL_FL_CTRL_OP : Fld := ⟨.FOL_FL_CTRL, 1, 0⟩
/-- `FOL_FL_DATA.DATA`. -/ def fFOL_FL_DATA_DATA : Fld := ⟨.FOL_FL_DATA, 31, 0⟩
/-- `FOL_EXPERT_GATE.ARMED`. -/ def fFOL_EXPERT_GATE_ARMED : Fld := ⟨.FOL_EXPERT_GATE, 9, 9⟩
/-- `FOL_EXPERT_GATE.OPEN`. -/ def fFOL_EXPERT_GATE_OPEN : Fld := ⟨.FOL_EXPERT_GATE, 8, 8⟩
/-- `FOL_EXPERT_GATE.KEY`. -/ def fFOL_EXPERT_GATE_KEY : Fld := ⟨.FOL_EXPERT_GATE, 7, 0⟩
/-- `FLT_CFG.SB_SEV`. -/ def fFLT_CFG_SB_SEV : Fld := ⟨.FLT_CFG, 5, 4⟩
/-- `FLT_CFG.EVT_SEV`. -/ def fFLT_CFG_EVT_SEV : Fld := ⟨.FLT_CFG, 3, 2⟩
/-- `FLT_CFG.OUT_SEV`. -/ def fFLT_CFG_OUT_SEV : Fld := ⟨.FLT_CFG, 1, 0⟩
/-- `FLT_STATUS.CHIP_SAFE`. -/ def fFLT_STATUS_CHIP_SAFE : Fld := ⟨.FLT_STATUS, 17, 17⟩
/-- `FLT_STATUS.FOUT`. -/ def fFLT_STATUS_FOUT : Fld := ⟨.FLT_STATUS, 16, 16⟩
/-- `FLT_STATUS.LATCHED`. -/ def fFLT_STATUS_LATCHED : Fld := ⟨.FLT_STATUS, 13, 8⟩
/-- `FLT_STATUS.OPEN`. -/ def fFLT_STATUS_OPEN : Fld := ⟨.FLT_STATUS, 5, 0⟩
/-- `FLT_DAYBOOK_HEAD.LOST`. -/ def fFLT_DAYBOOK_HEAD_LOST : Fld := ⟨.FLT_DAYBOOK_HEAD, 31, 16⟩
/-- `FLT_DAYBOOK_HEAD.NEXT`. -/ def fFLT_DAYBOOK_HEAD_NEXT : Fld := ⟨.FLT_DAYBOOK_HEAD, 5, 0⟩
/-- `FLT_DAYBOOK_SEQ.SEQ`. -/ def fFLT_DAYBOOK_SEQ_SEQ : Fld := ⟨.FLT_DAYBOOK_SEQ, 31, 0⟩
/-- `FLT_HOST_INT.EN`. -/ def fFLT_HOST_INT_EN : Fld := ⟨.FLT_HOST_INT, 31, 31⟩
/-- `FLT_HOST_INT.SEV`. -/ def fFLT_HOST_INT_SEV : Fld := ⟨.FLT_HOST_INT, 9, 8⟩
/-- `FLT_HOST_INT.VECTOR`. -/ def fFLT_HOST_INT_VECTOR : Fld := ⟨.FLT_HOST_INT, 7, 0⟩
/-- `FLT_SCOPE_CFG.REC_LIMIT`. -/ def fFLT_SCOPE_CFG_REC_LIMIT : Fld := ⟨.FLT_SCOPE_CFG, 23, 16⟩
/-- `FLT_SCOPE_CFG.Q_MS`. -/ def fFLT_SCOPE_CFG_Q_MS : Fld := ⟨.FLT_SCOPE_CFG, 15, 0⟩
/-- `FLT_SCOPE_WIN.REC_WINDOW_S`. -/ def fFLT_SCOPE_WIN_REC_WINDOW_S : Fld := ⟨.FLT_SCOPE_WIN, 15, 0⟩
/-- `FLT_DOM_SEL.DOMAIN`. -/ def fFLT_DOM_SEL_DOMAIN : Fld := ⟨.FLT_DOM_SEL, 15, 0⟩
/-- `FLT_DOM_STATE.REACT`. -/ def fFLT_DOM_STATE_REACT : Fld := ⟨.FLT_DOM_STATE, 31, 31⟩
/-- `FLT_DOM_STATE.LATCHED`. -/ def fFLT_DOM_STATE_LATCHED : Fld := ⟨.FLT_DOM_STATE, 30, 30⟩
/-- `FLT_DOM_STATE.LEVEL`. -/ def fFLT_DOM_STATE_LEVEL : Fld := ⟨.FLT_DOM_STATE, 29, 29⟩
/-- `FLT_DOM_STATE.NOREC`. -/ def fFLT_DOM_STATE_NOREC : Fld := ⟨.FLT_DOM_STATE, 28, 28⟩
/-- `FLT_DOM_STATE.SEV`. -/ def fFLT_DOM_STATE_SEV : Fld := ⟨.FLT_DOM_STATE, 25, 24⟩
/-- `FLT_DOM_STATE.REC`. -/ def fFLT_DOM_STATE_REC : Fld := ⟨.FLT_DOM_STATE, 20, 16⟩
/-- `FLT_DOM_STATE.RECOVERIES`. -/ def fFLT_DOM_STATE_RECOVERIES : Fld := ⟨.FLT_DOM_STATE, 7, 0⟩
/-- `FLT_DOM_CLEAR.DOMAIN`. -/ def fFLT_DOM_CLEAR_DOMAIN : Fld := ⟨.FLT_DOM_CLEAR, 15, 0⟩
/-- `FLT_IN_CFG.EN`. -/ def fFLT_IN_CFG_EN : Fld := ⟨.FLT_IN_CFG, 31, 31⟩
/-- `FLT_IN_CFG.RATE_MAX`. -/ def fFLT_IN_CFG_RATE_MAX : Fld := ⟨.FLT_IN_CFG, 23, 16⟩
/-- `FLT_IN_CFG.DOMAIN`. -/ def fFLT_IN_CFG_DOMAIN : Fld := ⟨.FLT_IN_CFG, 15, 0⟩
/-- `FLT_IN_STATUS.MASKINGS`. -/ def fFLT_IN_STATUS_MASKINGS : Fld := ⟨.FLT_IN_STATUS, 31, 16⟩
/-- `FLT_IN_STATUS.MASKED`. -/ def fFLT_IN_STATUS_MASKED : Fld := ⟨.FLT_IN_STATUS, 1, 1⟩
/-- `FLT_IN_STATUS.LEVEL`. -/ def fFLT_IN_STATUS_LEVEL : Fld := ⟨.FLT_IN_STATUS, 0, 0⟩
/-- `FLT_INJECT.GO`. -/ def fFLT_INJECT_GO : Fld := ⟨.FLT_INJECT, 31, 31⟩
/-- `FLT_INJECT.BUSY`. -/ def fFLT_INJECT_BUSY : Fld := ⟨.FLT_INJECT, 30, 30⟩
/-- `FLT_INJECT.MODE`. -/ def fFLT_INJECT_MODE : Fld := ⟨.FLT_INJECT, 29, 29⟩
/-- `FLT_INJECT.BITS`. -/ def fFLT_INJECT_BITS : Fld := ⟨.FLT_INJECT, 28, 28⟩
/-- `FLT_INJECT.REPLICA`. -/ def fFLT_INJECT_REPLICA : Fld := ⟨.FLT_INJECT, 27, 26⟩
/-- `FLT_INJECT.PIPE`. -/ def fFLT_INJECT_PIPE : Fld := ⟨.FLT_INJECT, 22, 20⟩
/-- `FLT_INJECT.CHECKER`. -/ def fFLT_INJECT_CHECKER : Fld := ⟨.FLT_INJECT, 7, 0⟩
/-- `FLT_INJECT_INDEX.INDEX`. -/ def fFLT_INJECT_INDEX_INDEX : Fld := ⟨.FLT_INJECT_INDEX, 31, 0⟩
/-- `FLT_GPIO.MASKINGS`. -/ def fFLT_GPIO_MASKINGS : Fld := ⟨.FLT_GPIO, 31, 16⟩
/-- `FLT_GPIO.RATE_MAX`. -/ def fFLT_GPIO_RATE_MAX : Fld := ⟨.FLT_GPIO, 15, 8⟩
/-- `FLT_GPIO.OPIPE_V`. -/ def fFLT_GPIO_OPIPE_V : Fld := ⟨.FLT_GPIO, 7, 7⟩
/-- `FLT_GPIO.OPIPE`. -/ def fFLT_GPIO_OPIPE : Fld := ⟨.FLT_GPIO, 6, 4⟩
/-- `FLT_GPIO.SAFE_LEVEL`. -/ def fFLT_GPIO_SAFE_LEVEL : Fld := ⟨.FLT_GPIO, 3, 3⟩
/-- `FLT_GPIO.POL`. -/ def fFLT_GPIO_POL : Fld := ⟨.FLT_GPIO, 2, 2⟩
/-- `FLT_GPIO.MODE`. -/ def fFLT_GPIO_MODE : Fld := ⟨.FLT_GPIO, 1, 0⟩
/-- `FLT_GPIO_DOM.DOMAIN`. -/ def fFLT_GPIO_DOM_DOMAIN : Fld := ⟨.FLT_GPIO_DOM, 15, 0⟩
/-- `FLT_GPIO_OSEV.OSEV`. -/ def fFLT_GPIO_OSEV_OSEV : Fld := ⟨.FLT_GPIO_OSEV, 31, 0⟩
/-- `FLT_GPIO_IN.IN`. -/ def fFLT_GPIO_IN_IN : Fld := ⟨.FLT_GPIO_IN, 15, 0⟩
/-- `FLT_REC.VALID`. -/ def fFLT_REC_VALID : Fld := ⟨.FLT_REC, 31, 31⟩
/-- `FLT_REC.LATCHED`. -/ def fFLT_REC_LATCHED : Fld := ⟨.FLT_REC, 30, 30⟩
/-- `FLT_REC.REACT`. -/ def fFLT_REC_REACT : Fld := ⟨.FLT_REC, 29, 29⟩
/-- `FLT_REC.SEV`. -/ def fFLT_REC_SEV : Fld := ⟨.FLT_REC, 28, 27⟩
/-- `FLT_REC.DOMAIN`. -/ def fFLT_REC_DOMAIN : Fld := ⟨.FLT_REC, 15, 0⟩
/-- `FLT_REC_MERGED.MERGED`. -/ def fFLT_REC_MERGED_MERGED : Fld := ⟨.FLT_REC_MERGED, 31, 0⟩
/-- `FLT_REC_FIRST.W`. -/ def fFLT_REC_FIRST_W : Fld := ⟨.FLT_REC_FIRST, 31, 0⟩
/-- `FLT_REC_LAST.W`. -/ def fFLT_REC_LAST_W : Fld := ⟨.FLT_REC_LAST, 31, 0⟩
/-- `FLT_REC_KINDS.W`. -/ def fFLT_REC_KINDS_W : Fld := ⟨.FLT_REC_KINDS, 31, 0⟩
/-- `FLT_REC_INFO.RECOVERIES`. -/ def fFLT_REC_INFO_RECOVERIES : Fld := ⟨.FLT_REC_INFO, 23, 16⟩
/-- `FLT_REC_INFO.FIRST_SLOT`. -/ def fFLT_REC_INFO_FIRST_SLOT : Fld := ⟨.FLT_REC_INFO, 10, 0⟩
/-- `FLT_DAYBOOK.VALID`. -/ def fFLT_DAYBOOK_VALID : Fld := ⟨.FLT_DAYBOOK, 31, 31⟩
/-- `FLT_DAYBOOK.TSTATE`. -/ def fFLT_DAYBOOK_TSTATE : Fld := ⟨.FLT_DAYBOOK, 22, 21⟩
/-- `FLT_DAYBOOK.REC`. -/ def fFLT_DAYBOOK_REC : Fld := ⟨.FLT_DAYBOOK, 20, 16⟩
/-- `FLT_DAYBOOK.NOREC`. -/ def fFLT_DAYBOOK_NOREC : Fld := ⟨.FLT_DAYBOOK, 15, 15⟩
/-- `FLT_DAYBOOK.FORCED`. -/ def fFLT_DAYBOOK_FORCED : Fld := ⟨.FLT_DAYBOOK, 14, 14⟩
/-- `FLT_DAYBOOK.SEV`. -/ def fFLT_DAYBOOK_SEV : Fld := ⟨.FLT_DAYBOOK, 13, 12⟩
/-- `FLT_DAYBOOK.SLOT`. -/ def fFLT_DAYBOOK_SLOT : Fld := ⟨.FLT_DAYBOOK, 10, 0⟩
/-- `FLT_DAYBOOK_CNT.COUNT`. -/ def fFLT_DAYBOOK_CNT_COUNT : Fld := ⟨.FLT_DAYBOOK_CNT, 31, 16⟩
/-- `FLT_DAYBOOK_CNT.DOMAIN`. -/ def fFLT_DAYBOOK_CNT_DOMAIN : Fld := ⟨.FLT_DAYBOOK_CNT, 15, 0⟩
/-- `FLT_DAYBOOK_DETAIL.DETAIL`. -/ def fFLT_DAYBOOK_DETAIL_DETAIL : Fld := ⟨.FLT_DAYBOOK_DETAIL, 31, 0⟩
/-- `FLT_DAYBOOK_ESEQ.SEQ`. -/ def fFLT_DAYBOOK_ESEQ_SEQ : Fld := ⟨.FLT_DAYBOOK_ESEQ, 31, 0⟩
/-- `FLT_DAYBOOK_TIME.W`. -/ def fFLT_DAYBOOK_TIME_W : Fld := ⟨.FLT_DAYBOOK_TIME, 31, 0⟩
/-- `FLT_SRC_CFG.EN`. -/ def fFLT_SRC_CFG_EN : Fld := ⟨.FLT_SRC_CFG, 31, 31⟩
/-- `FLT_SRC_CFG.HALT`. -/ def fFLT_SRC_CFG_HALT : Fld := ⟨.FLT_SRC_CFG, 30, 30⟩
/-- `FLT_SRC_CFG.REACT`. -/ def fFLT_SRC_CFG_REACT : Fld := ⟨.FLT_SRC_CFG, 29, 28⟩
/-- `FLT_SRC_CFG.SEV`. -/ def fFLT_SRC_CFG_SEV : Fld := ⟨.FLT_SRC_CFG, 27, 26⟩
/-- `FLT_SRC_CFG.COUNTED`. -/ def fFLT_SRC_CFG_COUNTED : Fld := ⟨.FLT_SRC_CFG, 25, 25⟩
/-- `FLT_SRC_CFG.LEVEL_SRC`. -/ def fFLT_SRC_CFG_LEVEL_SRC : Fld := ⟨.FLT_SRC_CFG, 24, 24⟩
/-- `FLT_SRC_CFG.WIN`. -/ def fFLT_SRC_CFG_WIN : Fld := ⟨.FLT_SRC_CFG, 20, 16⟩
/-- `FLT_SRC_CFG.N`. -/ def fFLT_SRC_CFG_N : Fld := ⟨.FLT_SRC_CFG, 15, 0⟩
/-- `FLT_SRC_CNT.COUNT`. -/ def fFLT_SRC_CNT_COUNT : Fld := ⟨.FLT_SRC_CNT, 31, 0⟩
/-- `FLT_FORCE.BITS`. -/ def fFLT_FORCE_BITS : Fld := ⟨.FLT_FORCE, 31, 0⟩
/-- `FLT_EXPERT_GATE.ARMED`. -/ def fFLT_EXPERT_GATE_ARMED : Fld := ⟨.FLT_EXPERT_GATE, 9, 9⟩
/-- `FLT_EXPERT_GATE.OPEN`. -/ def fFLT_EXPERT_GATE_OPEN : Fld := ⟨.FLT_EXPERT_GATE, 8, 8⟩
/-- `FLT_EXPERT_GATE.KEY`. -/ def fFLT_EXPERT_GATE_KEY : Fld := ⟨.FLT_EXPERT_GATE, 7, 0⟩
/-- `RAT_CFG.EN`. -/ def fRAT_CFG_EN : Fld := ⟨.RAT_CFG, 0, 0⟩
/-- `RAT_CAP_HOST.CAP_W`. -/ def fRAT_CAP_HOST_CAP_W : Fld := ⟨.RAT_CAP_HOST, 9, 0⟩
/-- `RAT_CAP_BOARD.CAP_W`. -/ def fRAT_CAP_BOARD_CAP_W : Fld := ⟨.RAT_CAP_BOARD, 9, 0⟩
/-- `RAT_POWER.PEAK`. -/ def fRAT_POWER_PEAK : Fld := ⟨.RAT_POWER, 28, 16⟩
/-- `RAT_POWER.LAST`. -/ def fRAT_POWER_LAST : Fld := ⟨.RAT_POWER, 12, 0⟩
/-- `RAT_WORK.B`. -/ def fRAT_WORK_B : Fld := ⟨.RAT_WORK, 15, 8⟩
/-- `RAT_WORK.A`. -/ def fRAT_WORK_A : Fld := ⟨.RAT_WORK, 7, 0⟩
/-- `RAT_LOOP.FAIL_ALLOW`. -/ def fRAT_LOOP_FAIL_ALLOW : Fld := ⟨.RAT_LOOP, 31, 24⟩
/-- `RAT_LOOP.MARGIN_W`. -/ def fRAT_LOOP_MARGIN_W : Fld := ⟨.RAT_LOOP, 23, 20⟩
/-- `RAT_LOOP.GAIN`. -/ def fRAT_LOOP_GAIN : Fld := ⟨.RAT_LOOP, 19, 16⟩
/-- `RAT_LOOP.E_PJ`. -/ def fRAT_LOOP_E_PJ : Fld := ⟨.RAT_LOOP, 15, 0⟩
/-- `RAT_SHED.D3`. -/ def fRAT_SHED_D3 : Fld := ⟨.RAT_SHED, 31, 24⟩
/-- `RAT_SHED.D2`. -/ def fRAT_SHED_D2 : Fld := ⟨.RAT_SHED, 23, 16⟩
/-- `RAT_SHED.D1`. -/ def fRAT_SHED_D1 : Fld := ⟨.RAT_SHED, 15, 8⟩
/-- `RAT_SHED.YIELD`. -/ def fRAT_SHED_YIELD : Fld := ⟨.RAT_SHED, 7, 0⟩
/-- `RAT_THERM.T_CRIT`. -/ def fRAT_THERM_T_CRIT : Fld := ⟨.RAT_THERM, 23, 16⟩
/-- `RAT_THERM.T_HARD`. -/ def fRAT_THERM_T_HARD : Fld := ⟨.RAT_THERM, 15, 8⟩
/-- `RAT_THERM.T_SOFT`. -/ def fRAT_THERM_T_SOFT : Fld := ⟨.RAT_THERM, 7, 0⟩
/-- `RAT_OVER.OVER`. -/ def fRAT_OVER_OVER : Fld := ⟨.RAT_OVER, 16, 16⟩
/-- `RAT_OVER.PERIODS`. -/ def fRAT_OVER_PERIODS : Fld := ⟨.RAT_OVER, 15, 0⟩
/-- `RAT_AVS.VALID`. -/ def fRAT_AVS_VALID : Fld := ⟨.RAT_AVS, 16, 16⟩
/-- `RAT_AVS.VDD_MV`. -/ def fRAT_AVS_VDD_MV : Fld := ⟨.RAT_AVS, 9, 0⟩
/-- `RAT_PIPE_ALLOW.ALLOW`. -/ def fRAT_PIPE_ALLOW_ALLOW : Fld := ⟨.RAT_PIPE_ALLOW, 31, 0⟩
/-- `RAT_PIPE_STAT.DEFER`. -/ def fRAT_PIPE_STAT_DEFER : Fld := ⟨.RAT_PIPE_STAT, 31, 28⟩
/-- `RAT_PIPE_STAT.SCALE`. -/ def fRAT_PIPE_STAT_SCALE : Fld := ⟨.RAT_PIPE_STAT, 24, 16⟩
/-- `RAT_PIPE_STAT.HOT`. -/ def fRAT_PIPE_STAT_HOT : Fld := ⟨.RAT_PIPE_STAT, 10, 0⟩
/-- `RAT_SENSOR.VALID`. -/ def fRAT_SENSOR_VALID : Fld := ⟨.RAT_SENSOR, 15, 15⟩
/-- `RAT_SENSOR.TEMP`. -/ def fRAT_SENSOR_TEMP : Fld := ⟨.RAT_SENSOR, 10, 0⟩
/-- `RAT_EXPERT_GATE.ARMED`. -/ def fRAT_EXPERT_GATE_ARMED : Fld := ⟨.RAT_EXPERT_GATE, 9, 9⟩
/-- `RAT_EXPERT_GATE.OPEN`. -/ def fRAT_EXPERT_GATE_OPEN : Fld := ⟨.RAT_EXPERT_GATE, 8, 8⟩
/-- `RAT_EXPERT_GATE.KEY`. -/ def fRAT_EXPERT_GATE_KEY : Fld := ⟨.RAT_EXPERT_GATE, 7, 0⟩
/-- `CKR_RUN.D2D`. -/ def fCKR_RUN_D2D : Fld := ⟨.CKR_RUN, 15, 8⟩
/-- `CKR_RUN.CLOCKS`. -/ def fCKR_RUN_CLOCKS : Fld := ⟨.CKR_RUN, 6, 0⟩
/-- `CKR_RUN_OCT.RUN`. -/ def fCKR_RUN_OCT_RUN : Fld := ⟨.CKR_RUN_OCT, 31, 0⟩
/-- `CKR_PLL_STATUS.UNLOCKS`. -/ def fCKR_PLL_STATUS_UNLOCKS : Fld := ⟨.CKR_PLL_STATUS, 31, 16⟩
/-- `CKR_PLL_STATUS.TCLK_LOCK`. -/ def fCKR_PLL_STATUS_TCLK_LOCK : Fld := ⟨.CKR_PLL_STATUS, 2, 2⟩
/-- `CKR_PLL_STATUS.DCLK_LOCK`. -/ def fCKR_PLL_STATUS_DCLK_LOCK : Fld := ⟨.CKR_PLL_STATUS, 1, 1⟩
/-- `CKR_PLL_STATUS.CCLK_LOCK`. -/ def fCKR_PLL_STATUS_CCLK_LOCK : Fld := ⟨.CKR_PLL_STATUS, 0, 0⟩
/-- `CKR_STOP.CHIPLET`. -/ def fCKR_STOP_CHIPLET : Fld := ⟨.CKR_STOP, 15, 8⟩
/-- `CKR_STOP.FCLK`. -/ def fCKR_STOP_FCLK : Fld := ⟨.CKR_STOP, 1, 1⟩
/-- `CKR_STOP.DCLK`. -/ def fCKR_STOP_DCLK : Fld := ⟨.CKR_STOP, 0, 0⟩
/-- `CKR_RESET.WARM`. -/ def fCKR_RESET_WARM : Fld := ⟨.CKR_RESET, 8, 8⟩
/-- `CKR_RESET.KEY`. -/ def fCKR_RESET_KEY : Fld := ⟨.CKR_RESET, 7, 0⟩
/-- `CKR_RESET_STATUS.WARM_COUNT`. -/ def fCKR_RESET_STATUS_WARM_COUNT : Fld := ⟨.CKR_RESET_STATUS, 31, 16⟩
/-- `CKR_RESET_STATUS.CAUSE`. -/ def fCKR_RESET_STATUS_CAUSE : Fld := ⟨.CKR_RESET_STATUS, 2, 0⟩
/-- `CKR_CHIPLET_RESET.RESET`. -/ def fCKR_CHIPLET_RESET_RESET : Fld := ⟨.CKR_CHIPLET_RESET, 7, 0⟩
/-- `CKR_XRESET.RESET`. -/ def fCKR_XRESET_RESET : Fld := ⟨.CKR_XRESET, 17, 0⟩
/-- `CKR_XCFG.AUTO_XRESET`. -/ def fCKR_XCFG_AUTO_XRESET : Fld := ⟨.CKR_XCFG, 0, 0⟩
/-- `CKR_HUNG_LAST.VALID`. -/ def fCKR_HUNG_LAST_VALID : Fld := ⟨.CKR_HUNG_LAST, 31, 31⟩
/-- `CKR_HUNG_LAST.MASTER`. -/ def fCKR_HUNG_LAST_MASTER : Fld := ⟨.CKR_HUNG_LAST, 30, 29⟩
/-- `CKR_HUNG_LAST.CROSSING`. -/ def fCKR_HUNG_LAST_CROSSING : Fld := ⟨.CKR_HUNG_LAST, 28, 24⟩
/-- `CKR_HUNG_LAST.OFFSET`. -/ def fCKR_HUNG_LAST_OFFSET : Fld := ⟨.CKR_HUNG_LAST, 23, 0⟩
/-- `CKR_XSTATUS.FLUSHES`. -/ def fCKR_XSTATUS_FLUSHES : Fld := ⟨.CKR_XSTATUS, 31, 16⟩
/-- `CKR_XSTATUS.HUNG`. -/ def fCKR_XSTATUS_HUNG : Fld := ⟨.CKR_XSTATUS, 8, 8⟩
/-- `CKR_XSTATUS.MERGED`. -/ def fCKR_XSTATUS_MERGED : Fld := ⟨.CKR_XSTATUS, 7, 0⟩
/-- `CKR_D2D_STATUS.UP`. -/ def fCKR_D2D_STATUS_UP : Fld := ⟨.CKR_D2D_STATUS, 31, 31⟩
/-- `CKR_D2D_STATUS.UNCORR`. -/ def fCKR_D2D_STATUS_UNCORR : Fld := ⟨.CKR_D2D_STATUS, 30, 16⟩
/-- `CKR_D2D_STATUS.CORR`. -/ def fCKR_D2D_STATUS_CORR : Fld := ⟨.CKR_D2D_STATUS, 15, 0⟩
/-- `CKR_EXPERT_GATE.ARMED`. -/ def fCKR_EXPERT_GATE_ARMED : Fld := ⟨.CKR_EXPERT_GATE, 9, 9⟩
/-- `CKR_EXPERT_GATE.OPEN`. -/ def fCKR_EXPERT_GATE_OPEN : Fld := ⟨.CKR_EXPERT_GATE, 8, 8⟩
/-- `CKR_EXPERT_GATE.KEY`. -/ def fCKR_EXPERT_GATE_KEY : Fld := ⟨.CKR_EXPERT_GATE, 7, 0⟩
/-- `DRM_CFG.EN`. -/ def fDRM_CFG_EN : Fld := ⟨.DRM_CFG, 31, 31⟩
/-- `DRM_CFG.GRAIN_LOG2`. -/ def fDRM_CFG_GRAIN_LOG2 : Fld := ⟨.DRM_CFG, 24, 20⟩
/-- `DRM_CFG.ORDER`. -/ def fDRM_CFG_ORDER : Fld := ⟨.DRM_CFG, 19, 18⟩
/-- `DRM_CFG.SPEED`. -/ def fDRM_CFG_SPEED : Fld := ⟨.DRM_CFG, 17, 16⟩
/-- `DRM_CFG.RANKS`. -/ def fDRM_CFG_RANKS : Fld := ⟨.DRM_CFG, 12, 12⟩
/-- `DRM_CFG.DENSITY`. -/ def fDRM_CFG_DENSITY : Fld := ⟨.DRM_CFG, 11, 11⟩
/-- `DRM_CFG.WIDTH`. -/ def fDRM_CFG_WIDTH : Fld := ⟨.DRM_CFG, 10, 9⟩
/-- `DRM_CFG.CH_EN`. -/ def fDRM_CFG_CH_EN : Fld := ⟨.DRM_CFG, 3, 0⟩
/-- `DRM_STATUS.CAP_GIB`. -/ def fDRM_STATUS_CAP_GIB : Fld := ⟨.DRM_STATUS, 23, 16⟩
/-- `DRM_STATUS.TRAIN_FAIL`. -/ def fDRM_STATUS_TRAIN_FAIL : Fld := ⟨.DRM_STATUS, 15, 8⟩
/-- `DRM_STATUS.TRAINING`. -/ def fDRM_STATUS_TRAINING : Fld := ⟨.DRM_STATUS, 1, 1⟩
/-- `DRM_STATUS.READY`. -/ def fDRM_STATUS_READY : Fld := ⟨.DRM_STATUS, 0, 0⟩
/-- `DRM_SCHED.AGE_NS`. -/ def fDRM_SCHED_AGE_NS : Fld := ⟨.DRM_SCHED, 31, 16⟩
/-- `DRM_SCHED.WR_HI`. -/ def fDRM_SCHED_WR_HI : Fld := ⟨.DRM_SCHED, 15, 8⟩
/-- `DRM_SCHED.WR_LO`. -/ def fDRM_SCHED_WR_LO : Fld := ⟨.DRM_SCHED, 7, 0⟩
/-- `DRM_ARB.SCRUB`. -/ def fDRM_ARB_SCRUB : Fld := ⟨.DRM_ARB, 23, 20⟩
/-- `DRM_ARB.HOST`. -/ def fDRM_ARB_HOST : Fld := ⟨.DRM_ARB, 19, 16⟩
/-- `DRM_ARB.EXPORT`. -/ def fDRM_ARB_EXPORT : Fld := ⟨.DRM_ARB, 15, 12⟩
/-- `DRM_ARB.CAPTURE`. -/ def fDRM_ARB_CAPTURE : Fld := ⟨.DRM_ARB, 11, 8⟩
/-- `DRM_ARB.LEDGER`. -/ def fDRM_ARB_LEDGER : Fld := ⟨.DRM_ARB, 7, 4⟩
/-- `DRM_ARB.SCAN`. -/ def fDRM_ARB_SCAN : Fld := ⟨.DRM_ARB, 3, 0⟩
/-- `DRM_REF.POSTPONE`. -/ def fDRM_REF_POSTPONE : Fld := ⟨.DRM_REF, 4, 2⟩
/-- `DRM_REF.MODE`. -/ def fDRM_REF_MODE : Fld := ⟨.DRM_REF, 0, 0⟩
/-- `DRM_TRAIN.ZQ_MS`. -/ def fDRM_TRAIN_ZQ_MS : Fld := ⟨.DRM_TRAIN, 31, 16⟩
/-- `DRM_TRAIN.RETRAIN_MS`. -/ def fDRM_TRAIN_RETRAIN_MS : Fld := ⟨.DRM_TRAIN, 15, 0⟩
/-- `DRM_SCRUB.EN`. -/ def fDRM_SCRUB_EN : Fld := ⟨.DRM_SCRUB, 31, 31⟩
/-- `DRM_SCRUB.PERIOD_H`. -/ def fDRM_SCRUB_PERIOD_H : Fld := ⟨.DRM_SCRUB, 7, 0⟩
/-- `DRM_TIMING_ADJ.SLACK_CK`. -/ def fDRM_TIMING_ADJ_SLACK_CK : Fld := ⟨.DRM_TIMING_ADJ, 3, 0⟩
/-- `DRM_ECC_COUNT.UNCORR`. -/ def fDRM_ECC_COUNT_UNCORR : Fld := ⟨.DRM_ECC_COUNT, 31, 16⟩
/-- `DRM_ECC_COUNT.CORR`. -/ def fDRM_ECC_COUNT_CORR : Fld := ⟨.DRM_ECC_COUNT, 15, 0⟩
/-- `DRM_ERR_HEAD.LOST`. -/ def fDRM_ERR_HEAD_LOST : Fld := ⟨.DRM_ERR_HEAD, 31, 16⟩
/-- `DRM_ERR_HEAD.NEXT`. -/ def fDRM_ERR_HEAD_NEXT : Fld := ⟨.DRM_ERR_HEAD, 3, 0⟩
/-- `DRM_ERR_LOG.VALID`. -/ def fDRM_ERR_LOG_VALID : Fld := ⟨.DRM_ERR_LOG, 31, 31⟩
/-- `DRM_ERR_LOG.KIND`. -/ def fDRM_ERR_LOG_KIND : Fld := ⟨.DRM_ERR_LOG, 30, 28⟩
/-- `DRM_ERR_LOG.SUBCH`. -/ def fDRM_ERR_LOG_SUBCH : Fld := ⟨.DRM_ERR_LOG, 26, 24⟩
/-- `DRM_ERR_LOG.REQ`. -/ def fDRM_ERR_LOG_REQ : Fld := ⟨.DRM_ERR_LOG, 18, 16⟩
/-- `DRM_ERR_ADDR_LO.ADDR`. -/ def fDRM_ERR_ADDR_LO_ADDR : Fld := ⟨.DRM_ERR_ADDR_LO, 31, 0⟩
/-- `DRM_ERR_ADDR_HI.ADDR`. -/ def fDRM_ERR_ADDR_HI_ADDR : Fld := ⟨.DRM_ERR_ADDR_HI, 7, 0⟩
/-- `DRM_ERR_SYND.W`. -/ def fDRM_ERR_SYND_W : Fld := ⟨.DRM_ERR_SYND, 31, 0⟩
/-- `DRM_ERR_TIME.W`. -/ def fDRM_ERR_TIME_W : Fld := ⟨.DRM_ERR_TIME, 31, 0⟩
/-- `DRM_EXPERT_GATE.ARMED`. -/ def fDRM_EXPERT_GATE_ARMED : Fld := ⟨.DRM_EXPERT_GATE, 9, 9⟩
/-- `DRM_EXPERT_GATE.OPEN`. -/ def fDRM_EXPERT_GATE_OPEN : Fld := ⟨.DRM_EXPERT_GATE, 8, 8⟩
/-- `DRM_EXPERT_GATE.KEY`. -/ def fDRM_EXPERT_GATE_KEY : Fld := ⟨.DRM_EXPERT_GATE, 7, 0⟩
/-- `ARC_CFG.CAP_EN`. -/ def fARC_CFG_CAP_EN : Fld := ⟨.ARC_CFG, 2, 2⟩
/-- `ARC_CFG.LEDGER_EN`. -/ def fARC_CFG_LEDGER_EN : Fld := ⟨.ARC_CFG, 1, 1⟩
/-- `ARC_CFG.SNAP_EN`. -/ def fARC_CFG_SNAP_EN : Fld := ⟨.ARC_CFG, 0, 0⟩
/-- `ARC_SNAP_BASE_LO.ADDR`. -/ def fARC_SNAP_BASE_LO_ADDR : Fld := ⟨.ARC_SNAP_BASE_LO, 31, 16⟩
/-- `ARC_SNAP_BASE_HI.ADDR`. -/ def fARC_SNAP_BASE_HI_ADDR : Fld := ⟨.ARC_SNAP_BASE_HI, 7, 0⟩
/-- `ARC_SNAP_SIZE.LOG2`. -/ def fARC_SNAP_SIZE_LOG2 : Fld := ⟨.ARC_SNAP_SIZE, 5, 0⟩
/-- `ARC_SNAP_STATUS.OVERRUN`. -/ def fARC_SNAP_STATUS_OVERRUN : Fld := ⟨.ARC_SNAP_STATUS, 31, 16⟩
/-- `ARC_SNAP_STATUS.SCANNING`. -/ def fARC_SNAP_STATUS_SCANNING : Fld := ⟨.ARC_SNAP_STATUS, 1, 1⟩
/-- `ARC_SNAP_STATUS.ARMED`. -/ def fARC_SNAP_STATUS_ARMED : Fld := ⟨.ARC_SNAP_STATUS, 0, 0⟩
/-- `ARC_CONS_LAST.VALID`. -/ def fARC_CONS_LAST_VALID : Fld := ⟨.ARC_CONS_LAST, 31, 31⟩
/-- `ARC_CONS_LAST.PIPE`. -/ def fARC_CONS_LAST_PIPE : Fld := ⟨.ARC_CONS_LAST, 26, 24⟩
/-- `ARC_CONS_LAST.SEQ`. -/ def fARC_CONS_LAST_SEQ : Fld := ⟨.ARC_CONS_LAST, 23, 0⟩
/-- `ARC_LEDGER_BASE_LO.ADDR`. -/ def fARC_LEDGER_BASE_LO_ADDR : Fld := ⟨.ARC_LEDGER_BASE_LO, 31, 16⟩
/-- `ARC_LEDGER_BASE_HI.ADDR`. -/ def fARC_LEDGER_BASE_HI_ADDR : Fld := ⟨.ARC_LEDGER_BASE_HI, 7, 0⟩
/-- `ARC_LEDGER_CFG.LOG2_RECS`. -/ def fARC_LEDGER_CFG_LOG2_RECS : Fld := ⟨.ARC_LEDGER_CFG, 4, 0⟩
/-- `ARC_FLOW_TIMERS.ACTIVE_S`. -/ def fARC_FLOW_TIMERS_ACTIVE_S : Fld := ⟨.ARC_FLOW_TIMERS, 31, 20⟩
/-- `ARC_FLOW_TIMERS.IDLE_MS`. -/ def fARC_FLOW_TIMERS_IDLE_MS : Fld := ⟨.ARC_FLOW_TIMERS, 15, 0⟩
/-- `ARC_LEDGER_STATUS.USED`. -/ def fARC_LEDGER_STATUS_USED : Fld := ⟨.ARC_LEDGER_STATUS, 26, 0⟩
/-- `ARC_CAP_BASE_LO.ADDR`. -/ def fARC_CAP_BASE_LO_ADDR : Fld := ⟨.ARC_CAP_BASE_LO, 31, 16⟩
/-- `ARC_CAP_BASE_HI.ADDR`. -/ def fARC_CAP_BASE_HI_ADDR : Fld := ⟨.ARC_CAP_BASE_HI, 7, 0⟩
/-- `ARC_CAP_CFG.STOP`. -/ def fARC_CAP_CFG_STOP : Fld := ⟨.ARC_CAP_CFG, 30, 30⟩
/-- `ARC_CAP_CFG.REARM`. -/ def fARC_CAP_CFG_REARM : Fld := ⟨.ARC_CAP_CFG, 29, 29⟩
/-- `ARC_CAP_CFG.STOP_SEV`. -/ def fARC_CAP_CFG_STOP_SEV : Fld := ⟨.ARC_CAP_CFG, 11, 10⟩
/-- `ARC_CAP_CFG.STOP_FAULT_EN`. -/ def fARC_CAP_CFG_STOP_FAULT_EN : Fld := ⟨.ARC_CAP_CFG, 9, 9⟩
/-- `ARC_CAP_CFG.MODE`. -/ def fARC_CAP_CFG_MODE : Fld := ⟨.ARC_CAP_CFG, 8, 8⟩
/-- `ARC_CAP_CFG.LOG2_RECS`. -/ def fARC_CAP_CFG_LOG2_RECS : Fld := ⟨.ARC_CAP_CFG, 4, 0⟩
/-- `ARC_CAP_POST.POST`. -/ def fARC_CAP_POST_POST : Fld := ⟨.ARC_CAP_POST, 23, 0⟩
/-- `ARC_CAP_RATE.RATE`. -/ def fARC_CAP_RATE_RATE : Fld := ⟨.ARC_CAP_RATE, 26, 0⟩
/-- `ARC_CAP_STATUS.STATE`. -/ def fARC_CAP_STATUS_STATE : Fld := ⟨.ARC_CAP_STATUS, 1, 0⟩
/-- `ARC_CAP_STOP_SEQ.SEQ`. -/ def fARC_CAP_STOP_SEQ_SEQ : Fld := ⟨.ARC_CAP_STOP_SEQ, 31, 0⟩
/-- `ARC_CAP_DROP_MASK.MASK`. -/ def fARC_CAP_DROP_MASK_MASK : Fld := ⟨.ARC_CAP_DROP_MASK, 31, 0⟩
/-- `ARC_EXPORT.STREAM`. -/ def fARC_EXPORT_STREAM : Fld := ⟨.ARC_EXPORT, 1, 0⟩
/-- `ARC_EXPERT_GATE.ARMED`. -/ def fARC_EXPERT_GATE_ARMED : Fld := ⟨.ARC_EXPERT_GATE, 9, 9⟩
/-- `ARC_EXPERT_GATE.OPEN`. -/ def fARC_EXPERT_GATE_OPEN : Fld := ⟨.ARC_EXPERT_GATE, 8, 8⟩
/-- `ARC_EXPERT_GATE.KEY`. -/ def fARC_EXPERT_GATE_KEY : Fld := ⟨.ARC_EXPERT_GATE, 7, 0⟩
/-- `KST_HASH.POLY`. -/ def fKST_HASH_POLY : Fld := ⟨.KST_HASH, 1, 0⟩
/-- `KST_SEED.SEED`. -/ def fKST_SEED_SEED : Fld := ⟨.KST_SEED, 31, 0⟩
/-- `KST_COUNT.ENTRIES`. -/ def fKST_COUNT_ENTRIES : Fld := ⟨.KST_COUNT, 20, 0⟩
/-- `KST_OVF_COUNT.OVF_HIGH`. -/ def fKST_OVF_COUNT_OVF_HIGH : Fld := ⟨.KST_OVF_COUNT, 31, 16⟩
/-- `KST_OVF_COUNT.OVF_ENTRIES`. -/ def fKST_OVF_COUNT_OVF_ENTRIES : Fld := ⟨.KST_OVF_COUNT, 14, 0⟩
/-- `KST_PFX_UNITS.USED`. -/ def fKST_PFX_UNITS_USED : Fld := ⟨.KST_PFX_UNITS, 20, 0⟩
/-- `KST_PFX_COUNT.V4`. -/ def fKST_PFX_COUNT_V4 : Fld := ⟨.KST_PFX_COUNT, 20, 0⟩
/-- `KST_PFX_COUNT6.V6`. -/ def fKST_PFX_COUNT6_V6 : Fld := ⟨.KST_PFX_COUNT6, 19, 0⟩
/-- `KST_PAR_STATUS.VALID`. -/ def fKST_PAR_STATUS_VALID : Fld := ⟨.KST_PAR_STATUS, 31, 31⟩
/-- `KST_PAR_STATUS.COPY`. -/ def fKST_PAR_STATUS_COPY : Fld := ⟨.KST_PAR_STATUS, 30, 30⟩
/-- `KST_PAR_STATUS.TABLE`. -/ def fKST_PAR_STATUS_TABLE : Fld := ⟨.KST_PAR_STATUS, 25, 24⟩
/-- `KST_PAR_STATUS.INDEX`. -/ def fKST_PAR_STATUS_INDEX : Fld := ⟨.KST_PAR_STATUS, 20, 0⟩
/-- `KST_SCRUB.BUCKET_PERIOD_MS`. -/ def fKST_SCRUB_BUCKET_PERIOD_MS : Fld := ⟨.KST_SCRUB, 25, 16⟩
/-- `KST_SCRUB.OVF_PERIOD_US`. -/ def fKST_SCRUB_OVF_PERIOD_US : Fld := ⟨.KST_SCRUB, 9, 0⟩
/-- `KST_EXPERT_GATE.ARMED`. -/ def fKST_EXPERT_GATE_ARMED : Fld := ⟨.KST_EXPERT_GATE, 9, 9⟩
/-- `KST_EXPERT_GATE.OPEN`. -/ def fKST_EXPERT_GATE_OPEN : Fld := ⟨.KST_EXPERT_GATE, 8, 8⟩
/-- `KST_EXPERT_GATE.KEY`. -/ def fKST_EXPERT_GATE_KEY : Fld := ⟨.KST_EXPERT_GATE, 7, 0⟩
/-- `STB_CFG.CT_EN`. -/ def fSTB_CFG_CT_EN : Fld := ⟨.STB_CFG, 1, 1⟩
/-- `STB_CFG.EN`. -/ def fSTB_CFG_EN : Fld := ⟨.STB_CFG, 0, 0⟩
/-- `STB_STATUS.READY`. -/ def fSTB_STATUS_READY : Fld := ⟨.STB_STATUS, 0, 0⟩
/-- `STB_POOL_CFG.BAYS`. -/ def fSTB_POOL_CFG_BAYS : Fld := ⟨.STB_POOL_CFG, 11, 0⟩
/-- `STB_POOL_COUNT.COUNT`. -/ def fSTB_POOL_COUNT_COUNT : Fld := ⟨.STB_POOL_COUNT, 18, 0⟩
/-- `STB_POOL_FREE.FREE`. -/ def fSTB_POOL_FREE_FREE : Fld := ⟨.STB_POOL_FREE, 18, 0⟩
/-- `STB_POOL_LOW.LOW`. -/ def fSTB_POOL_LOW_LOW : Fld := ⟨.STB_POOL_LOW, 18, 0⟩
/-- `STB_POOL_RSV.RSV`. -/ def fSTB_POOL_RSV_RSV : Fld := ⟨.STB_POOL_RSV, 17, 0⟩
/-- `STB_SLIP.FREE`. -/ def fSTB_SLIP_FREE : Fld := ⟨.STB_SLIP, 20, 0⟩
/-- `STB_SLIP_LOW.LOW`. -/ def fSTB_SLIP_LOW_LOW : Fld := ⟨.STB_SLIP_LOW, 20, 0⟩
/-- `STB_ERR_LAST.VALID`. -/ def fSTB_ERR_LAST_VALID : Fld := ⟨.STB_ERR_LAST, 31, 31⟩
/-- `STB_ERR_LAST.KIND`. -/ def fSTB_ERR_LAST_KIND : Fld := ⟨.STB_ERR_LAST, 30, 28⟩
/-- `STB_ERR_LAST.POOL`. -/ def fSTB_ERR_LAST_POOL : Fld := ⟨.STB_ERR_LAST, 27, 26⟩
/-- `STB_ERR_LAST.PIPE`. -/ def fSTB_ERR_LAST_PIPE : Fld := ⟨.STB_ERR_LAST, 23, 21⟩
/-- `STB_ERR_LAST.INDEX`. -/ def fSTB_ERR_LAST_INDEX : Fld := ⟨.STB_ERR_LAST, 20, 0⟩
/-- `STB_MIRROR.V`. -/ def fSTB_MIRROR_V : Fld := ⟨.STB_MIRROR, 12, 12⟩
/-- `STB_MIRROR.CLASS`. -/ def fSTB_MIRROR_CLASS : Fld := ⟨.STB_MIRROR, 11, 9⟩
/-- `STB_MIRROR.DEST`. -/ def fSTB_MIRROR_DEST : Fld := ⟨.STB_MIRROR, 8, 0⟩
/-- `STB_ING_LIMIT.LIMIT`. -/ def fSTB_ING_LIMIT_LIMIT : Fld := ⟨.STB_ING_LIMIT, 21, 0⟩
/-- `STB_ING_XOFF.XOFF`. -/ def fSTB_ING_XOFF_XOFF : Fld := ⟨.STB_ING_XOFF, 21, 0⟩
/-- `STB_ING_XON.XON`. -/ def fSTB_ING_XON_XON : Fld := ⟨.STB_ING_XON, 21, 0⟩
/-- `STB_ING_USED.XOFF_STATE`. -/ def fSTB_ING_USED_XOFF_STATE : Fld := ⟨.STB_ING_USED, 31, 31⟩
/-- `STB_ING_USED.USED`. -/ def fSTB_ING_USED_USED : Fld := ⟨.STB_ING_USED, 21, 0⟩
/-- `STB_EG_LIMIT.LIMIT`. -/ def fSTB_EG_LIMIT_LIMIT : Fld := ⟨.STB_EG_LIMIT, 21, 0⟩
/-- `STB_EG_USED.USED`. -/ def fSTB_EG_USED_USED : Fld := ⟨.STB_EG_USED, 21, 0⟩
/-- `STB_EG_PORT.SAF`. -/ def fSTB_EG_PORT_SAF : Fld := ⟨.STB_EG_PORT, 0, 0⟩
/-- `STB_EXPERT_GATE.ARMED`. -/ def fSTB_EXPERT_GATE_ARMED : Fld := ⟨.STB_EXPERT_GATE, 9, 9⟩
/-- `STB_EXPERT_GATE.OPEN`. -/ def fSTB_EXPERT_GATE_OPEN : Fld := ⟨.STB_EXPERT_GATE, 8, 8⟩
/-- `STB_EXPERT_GATE.KEY`. -/ def fSTB_EXPERT_GATE_KEY : Fld := ⟨.STB_EXPERT_GATE, 7, 0⟩
/-- `PRT_OCT_MODE.APPLY`. -/ def fPRT_OCT_MODE_APPLY : Fld := ⟨.PRT_OCT_MODE, 31, 31⟩
/-- `PRT_OCT_MODE.FEC`. -/ def fPRT_OCT_MODE_FEC : Fld := ⟨.PRT_OCT_MODE, 9, 8⟩
/-- `PRT_OCT_MODE.TRAIN_EN`. -/ def fPRT_OCT_MODE_TRAIN_EN : Fld := ⟨.PRT_OCT_MODE, 5, 5⟩
/-- `PRT_OCT_MODE.AN_EN`. -/ def fPRT_OCT_MODE_AN_EN : Fld := ⟨.PRT_OCT_MODE, 4, 4⟩
/-- `PRT_OCT_MODE.MODE`. -/ def fPRT_OCT_MODE_MODE : Fld := ⟨.PRT_OCT_MODE, 3, 0⟩
/-- `PRT_OCT_TXMAP.MAP`. -/ def fPRT_OCT_TXMAP_MAP : Fld := ⟨.PRT_OCT_TXMAP, 23, 0⟩
/-- `PRT_OCT_RXMAP.MAP`. -/ def fPRT_OCT_RXMAP_MAP : Fld := ⟨.PRT_OCT_RXMAP, 23, 0⟩
/-- `PRT_OCT_STATUS.REFUSED`. -/ def fPRT_OCT_STATUS_REFUSED : Fld := ⟨.PRT_OCT_STATUS, 8, 8⟩
/-- `PRT_OCT_STATUS.READY`. -/ def fPRT_OCT_STATUS_READY : Fld := ⟨.PRT_OCT_STATUS, 7, 7⟩
/-- `PRT_OCT_STATUS.ACTIVE_MODE`. -/ def fPRT_OCT_STATUS_ACTIVE_MODE : Fld := ⟨.PRT_OCT_STATUS, 3, 0⟩
/-- `PRT_CFG.FORGET_ON_DOWN`. -/ def fPRT_CFG_FORGET_ON_DOWN : Fld := ⟨.PRT_CFG, 28, 28⟩
/-- `PRT_CFG.SAFE_MODE`. -/ def fPRT_CFG_SAFE_MODE : Fld := ⟨.PRT_CFG, 27, 27⟩
/-- `PRT_CFG.LOOPBACK`. -/ def fPRT_CFG_LOOPBACK : Fld := ⟨.PRT_CFG, 25, 24⟩
/-- `PRT_CFG.MAX_FRAME`. -/ def fPRT_CFG_MAX_FRAME : Fld := ⟨.PRT_CFG, 21, 8⟩
/-- `PRT_CFG.ADMIN`. -/ def fPRT_CFG_ADMIN : Fld := ⟨.PRT_CFG, 0, 0⟩
/-- `PRT_TIMERS.HOLD_UP_MS`. -/ def fPRT_TIMERS_HOLD_UP_MS : Fld := ⟨.PRT_TIMERS, 31, 16⟩
/-- `PRT_TIMERS.DOWN_HOLD_MS`. -/ def fPRT_TIMERS_DOWN_HOLD_MS : Fld := ⟨.PRT_TIMERS, 15, 0⟩
/-- `PRT_STATE.RF`. -/ def fPRT_STATE_RF : Fld := ⟨.PRT_STATE, 15, 15⟩
/-- `PRT_STATE.LF`. -/ def fPRT_STATE_LF : Fld := ⟨.PRT_STATE, 14, 14⟩
/-- `PRT_STATE.AN_DONE`. -/ def fPRT_STATE_AN_DONE : Fld := ⟨.PRT_STATE, 13, 13⟩
/-- `PRT_STATE.ALIGNED`. -/ def fPRT_STATE_ALIGNED : Fld := ⟨.PRT_STATE, 12, 12⟩
/-- `PRT_STATE.LINK_RAW`. -/ def fPRT_STATE_LINK_RAW : Fld := ⟨.PRT_STATE, 11, 11⟩
/-- `PRT_STATE.LIVE`. -/ def fPRT_STATE_LIVE : Fld := ⟨.PRT_STATE, 10, 10⟩
/-- `PRT_STATE.HOLD_TIMER`. -/ def fPRT_STATE_HOLD_TIMER : Fld := ⟨.PRT_STATE, 9, 9⟩
/-- `PRT_STATE.STORM_ANY`. -/ def fPRT_STATE_STORM_ANY : Fld := ⟨.PRT_STATE, 8, 8⟩
/-- `PRT_STATE.STATE`. -/ def fPRT_STATE_STATE : Fld := ⟨.PRT_STATE, 2, 0⟩
/-- `PRT_EVENTS.TS_OVERFLOW`. -/ def fPRT_EVENTS_TS_OVERFLOW : Fld := ⟨.PRT_EVENTS, 6, 6⟩
/-- `PRT_EVENTS.SAFE_ENTERED`. -/ def fPRT_EVENTS_SAFE_ENTERED : Fld := ⟨.PRT_EVENTS, 5, 5⟩
/-- `PRT_EVENTS.AN_MISMATCH`. -/ def fPRT_EVENTS_AN_MISMATCH : Fld := ⟨.PRT_EVENTS, 4, 4⟩
/-- `PRT_EVENTS.AN_FAIL`. -/ def fPRT_EVENTS_AN_FAIL : Fld := ⟨.PRT_EVENTS, 3, 3⟩
/-- `PRT_EVENTS.DAMPED`. -/ def fPRT_EVENTS_DAMPED : Fld := ⟨.PRT_EVENTS, 2, 2⟩
/-- `PRT_EVENTS.LINK_UP`. -/ def fPRT_EVENTS_LINK_UP : Fld := ⟨.PRT_EVENTS, 1, 1⟩
/-- `PRT_EVENTS.LINK_DOWN`. -/ def fPRT_EVENTS_LINK_DOWN : Fld := ⟨.PRT_EVENTS, 0, 0⟩
/-- `PRT_FC_CFG.TX_QUANTA`. -/ def fPRT_FC_CFG_TX_QUANTA : Fld := ⟨.PRT_FC_CFG, 31, 16⟩
/-- `PRT_FC_CFG.PRIO_EN`. -/ def fPRT_FC_CFG_PRIO_EN : Fld := ⟨.PRT_FC_CFG, 15, 8⟩
/-- `PRT_FC_CFG.MODE`. -/ def fPRT_FC_CFG_MODE : Fld := ⟨.PRT_FC_CFG, 1, 0⟩
/-- `PRT_PRIO_MAP.MAP`. -/ def fPRT_PRIO_MAP_MAP : Fld := ⟨.PRT_PRIO_MAP, 23, 0⟩
/-- `PRT_PFC_WD.EN`. -/ def fPRT_PFC_WD_EN : Fld := ⟨.PRT_PFC_WD, 31, 31⟩
/-- `PRT_PFC_WD.RESTORE_MS`. -/ def fPRT_PFC_WD_RESTORE_MS : Fld := ⟨.PRT_PFC_WD, 19, 10⟩
/-- `PRT_PFC_WD.WD_MS`. -/ def fPRT_PFC_WD_WD_MS : Fld := ⟨.PRT_PFC_WD, 9, 0⟩
/-- `PRT_PFC_STATUS.STORM_EVT`. -/ def fPRT_PFC_STATUS_STORM_EVT : Fld := ⟨.PRT_PFC_STATUS, 23, 16⟩
/-- `PRT_PFC_STATUS.STORMED`. -/ def fPRT_PFC_STATUS_STORMED : Fld := ⟨.PRT_PFC_STATUS, 15, 8⟩
/-- `PRT_PFC_STATUS.PAUSED`. -/ def fPRT_PFC_STATUS_PAUSED : Fld := ⟨.PRT_PFC_STATUS, 7, 0⟩
/-- `PRT_SA_LO.SA`. -/ def fPRT_SA_LO_SA : Fld := ⟨.PRT_SA_LO, 31, 0⟩
/-- `PRT_SA_HI.SA`. -/ def fPRT_SA_HI_SA : Fld := ⟨.PRT_SA_HI, 15, 0⟩
/-- `PRT_PTP_CFG.TWO_STEP_EN`. -/ def fPRT_PTP_CFG_TWO_STEP_EN : Fld := ⟨.PRT_PTP_CFG, 1, 1⟩
/-- `PRT_PTP_CFG.ONE_STEP_EN`. -/ def fPRT_PTP_CFG_ONE_STEP_EN : Fld := ⟨.PRT_PTP_CFG, 0, 0⟩
/-- `PRT_PTP_RX_ADJ.ADJ`. -/ def fPRT_PTP_RX_ADJ_ADJ : Fld := ⟨.PRT_PTP_RX_ADJ, 23, 0⟩
/-- `PRT_TS_FIFO.W`. -/ def fPRT_TS_FIFO_W : Fld := ⟨.PRT_TS_FIFO, 31, 0⟩
/-- `PRT_LANE_CFG.PRBS_CHECK`. -/ def fPRT_LANE_CFG_PRBS_CHECK : Fld := ⟨.PRT_LANE_CFG, 6, 6⟩
/-- `PRT_LANE_CFG.PRBS`. -/ def fPRT_LANE_CFG_PRBS : Fld := ⟨.PRT_LANE_CFG, 5, 3⟩
/-- `PRT_LANE_CFG.TX_DISABLE`. -/ def fPRT_LANE_CFG_TX_DISABLE : Fld := ⟨.PRT_LANE_CFG, 2, 2⟩
/-- `PRT_LANE_CFG.RX_INVERT`. -/ def fPRT_LANE_CFG_RX_INVERT : Fld := ⟨.PRT_LANE_CFG, 1, 1⟩
/-- `PRT_LANE_CFG.TX_INVERT`. -/ def fPRT_LANE_CFG_TX_INVERT : Fld := ⟨.PRT_LANE_CFG, 0, 0⟩
/-- `PRT_LANE_STATUS.PRBS_ERR`. -/ def fPRT_LANE_STATUS_PRBS_ERR : Fld := ⟨.PRT_LANE_STATUS, 31, 16⟩
/-- `PRT_LANE_STATUS.TRAIN_DONE`. -/ def fPRT_LANE_STATUS_TRAIN_DONE : Fld := ⟨.PRT_LANE_STATUS, 3, 3⟩
/-- `PRT_LANE_STATUS.BLOCK_LOCK`. -/ def fPRT_LANE_STATUS_BLOCK_LOCK : Fld := ⟨.PRT_LANE_STATUS, 2, 2⟩
/-- `PRT_LANE_STATUS.CDR_LOCK`. -/ def fPRT_LANE_STATUS_CDR_LOCK : Fld := ⟨.PRT_LANE_STATUS, 1, 1⟩
/-- `PRT_LANE_STATUS.SIG_DET`. -/ def fPRT_LANE_STATUS_SIG_DET : Fld := ⟨.PRT_LANE_STATUS, 0, 0⟩
/-- `PRT_LANE_TXEQ.PRE2`. -/ def fPRT_LANE_TXEQ_PRE2 : Fld := ⟨.PRT_LANE_TXEQ, 23, 18⟩
/-- `PRT_LANE_TXEQ.PRE1`. -/ def fPRT_LANE_TXEQ_PRE1 : Fld := ⟨.PRT_LANE_TXEQ, 17, 12⟩
/-- `PRT_LANE_TXEQ.MAIN`. -/ def fPRT_LANE_TXEQ_MAIN : Fld := ⟨.PRT_LANE_TXEQ, 11, 6⟩
/-- `PRT_LANE_TXEQ.POST1`. -/ def fPRT_LANE_TXEQ_POST1 : Fld := ⟨.PRT_LANE_TXEQ, 5, 0⟩
/-- `PRT_EXPERT_GATE.ARMED`. -/ def fPRT_EXPERT_GATE_ARMED : Fld := ⟨.PRT_EXPERT_GATE, 9, 9⟩
/-- `PRT_EXPERT_GATE.OPEN`. -/ def fPRT_EXPERT_GATE_OPEN : Fld := ⟨.PRT_EXPERT_GATE, 8, 8⟩
/-- `PRT_EXPERT_GATE.KEY`. -/ def fPRT_EXPERT_GATE_KEY : Fld := ⟨.PRT_EXPERT_GATE, 7, 0⟩
/-- `RDR_CFG.FAIL_HOST`. -/ def fRDR_CFG_FAIL_HOST : Fld := ⟨.RDR_CFG, 15, 15⟩
/-- `RDR_CFG.FAIL_DROP`. -/ def fRDR_CFG_FAIL_DROP : Fld := ⟨.RDR_CFG, 11, 8⟩
/-- `RDR_CFG.TRAIL_MAX`. -/ def fRDR_CFG_TRAIL_MAX : Fld := ⟨.RDR_CFG, 5, 0⟩
/-- `RDR_DISC_A.REL_HI`. -/ def fRDR_DISC_A_REL_HI : Fld := ⟨.RDR_DISC_A, 24, 24⟩
/-- `RDR_DISC_A.OFF_HI`. -/ def fRDR_DISC_A_OFF_HI : Fld := ⟨.RDR_DISC_A, 23, 16⟩
/-- `RDR_DISC_A.REL_LO`. -/ def fRDR_DISC_A_REL_LO : Fld := ⟨.RDR_DISC_A, 8, 8⟩
/-- `RDR_DISC_A.OFF_LO`. -/ def fRDR_DISC_A_OFF_LO : Fld := ⟨.RDR_DISC_A, 7, 0⟩
/-- `RDR_DISC_B.REL_HI`. -/ def fRDR_DISC_B_REL_HI : Fld := ⟨.RDR_DISC_B, 24, 24⟩
/-- `RDR_DISC_B.OFF_HI`. -/ def fRDR_DISC_B_OFF_HI : Fld := ⟨.RDR_DISC_B, 23, 16⟩
/-- `RDR_DISC_B.REL_LO`. -/ def fRDR_DISC_B_REL_LO : Fld := ⟨.RDR_DISC_B, 8, 8⟩
/-- `RDR_DISC_B.OFF_LO`. -/ def fRDR_DISC_B_OFF_LO : Fld := ⟨.RDR_DISC_B, 7, 0⟩
/-- `RDR_FAIL_LAST.VALID`. -/ def fRDR_FAIL_LAST_VALID : Fld := ⟨.RDR_FAIL_LAST, 31, 31⟩
/-- `RDR_FAIL_LAST.LAYOUT`. -/ def fRDR_FAIL_LAST_LAYOUT : Fld := ⟨.RDR_FAIL_LAST, 23, 18⟩
/-- `RDR_FAIL_LAST.PORT`. -/ def fRDR_FAIL_LAST_PORT : Fld := ⟨.RDR_FAIL_LAST, 17, 9⟩
/-- `RDR_FAIL_LAST.PASS`. -/ def fRDR_FAIL_LAST_PASS : Fld := ⟨.RDR_FAIL_LAST, 8, 8⟩
/-- `RDR_FAIL_LAST.CODE`. -/ def fRDR_FAIL_LAST_CODE : Fld := ⟨.RDR_FAIL_LAST, 7, 0⟩
/-- `RDR_FAIL_TIME.W`. -/ def fRDR_FAIL_TIME_W : Fld := ⟨.RDR_FAIL_TIME, 31, 0⟩
/-- `RDR_PAR_STATUS.RETRIES`. -/ def fRDR_PAR_STATUS_RETRIES : Fld := ⟨.RDR_PAR_STATUS, 31, 16⟩
/-- `RDR_PAR_STATUS.DOUBLE`. -/ def fRDR_PAR_STATUS_DOUBLE : Fld := ⟨.RDR_PAR_STATUS, 15, 15⟩
/-- `RDR_PAR_STATUS.TABLE`. -/ def fRDR_PAR_STATUS_TABLE : Fld := ⟨.RDR_PAR_STATUS, 7, 7⟩
/-- `RDR_PAR_STATUS.ENTRY`. -/ def fRDR_PAR_STATUS_ENTRY : Fld := ⟨.RDR_PAR_STATUS, 5, 0⟩
/-- `RDR_SCRUB.PERIOD_US`. -/ def fRDR_SCRUB_PERIOD_US : Fld := ⟨.RDR_SCRUB, 13, 0⟩
/-- `RDR_PROFILE.PROF_B`. -/ def fRDR_PROFILE_PROF_B : Fld := ⟨.RDR_PROFILE, 7, 4⟩
/-- `RDR_PROFILE.PROF_A`. -/ def fRDR_PROFILE_PROF_A : Fld := ⟨.RDR_PROFILE, 3, 0⟩
/-- `RDR_EXPERT_GATE.ARMED`. -/ def fRDR_EXPERT_GATE_ARMED : Fld := ⟨.RDR_EXPERT_GATE, 9, 9⟩
/-- `RDR_EXPERT_GATE.OPEN`. -/ def fRDR_EXPERT_GATE_OPEN : Fld := ⟨.RDR_EXPERT_GATE, 8, 8⟩
/-- `RDR_EXPERT_GATE.KEY`. -/ def fRDR_EXPERT_GATE_KEY : Fld := ⟨.RDR_EXPERT_GATE, 7, 0⟩
/-- `BRS_HASH.POLY`. -/ def fBRS_HASH_POLY : Fld := ⟨.BRS_HASH, 1, 0⟩
/-- `BRS_SEED.SEED`. -/ def fBRS_SEED_SEED : Fld := ⟨.BRS_SEED, 31, 0⟩
/-- `BRS_COUNT.ENTRIES`. -/ def fBRS_COUNT_ENTRIES : Fld := ⟨.BRS_COUNT, 19, 0⟩
/-- `BRS_OVF_COUNT.OVF_HIGH`. -/ def fBRS_OVF_COUNT_OVF_HIGH : Fld := ⟨.BRS_OVF_COUNT, 31, 16⟩
/-- `BRS_OVF_COUNT.OVF_ENTRIES`. -/ def fBRS_OVF_COUNT_OVF_ENTRIES : Fld := ⟨.BRS_OVF_COUNT, 13, 0⟩
/-- `BRS_GRP_HASH.POLY`. -/ def fBRS_GRP_HASH_POLY : Fld := ⟨.BRS_GRP_HASH, 1, 0⟩
/-- `BRS_GRP_SEED.SEED`. -/ def fBRS_GRP_SEED_SEED : Fld := ⟨.BRS_GRP_SEED, 31, 0⟩
/-- `BRS_PAR_STATUS.VALID`. -/ def fBRS_PAR_STATUS_VALID : Fld := ⟨.BRS_PAR_STATUS, 31, 31⟩
/-- `BRS_PAR_STATUS.TABLE`. -/ def fBRS_PAR_STATUS_TABLE : Fld := ⟨.BRS_PAR_STATUS, 27, 24⟩
/-- `BRS_PAR_STATUS.INDEX`. -/ def fBRS_PAR_STATUS_INDEX : Fld := ⟨.BRS_PAR_STATUS, 19, 0⟩
/-- `BRS_SCRUB.BUCKET_PERIOD_MS`. -/ def fBRS_SCRUB_BUCKET_PERIOD_MS : Fld := ⟨.BRS_SCRUB, 25, 16⟩
/-- `BRS_SCRUB.OVF_PERIOD_US`. -/ def fBRS_SCRUB_OVF_PERIOD_US : Fld := ⟨.BRS_SCRUB, 9, 0⟩
/-- `BRS_PORT.LAG_V`. -/ def fBRS_PORT_LAG_V : Fld := ⟨.BRS_PORT, 25, 25⟩
/-- `BRS_PORT.LAG_ID`. -/ def fBRS_PORT_LAG_ID : Fld := ⟨.BRS_PORT, 24, 15⟩
/-- `BRS_PORT.UNTAG_V`. -/ def fBRS_PORT_UNTAG_V : Fld := ⟨.BRS_PORT, 14, 14⟩
/-- `BRS_PORT.UNTAG_BD`. -/ def fBRS_PORT_UNTAG_BD : Fld := ⟨.BRS_PORT, 13, 0⟩
/-- `BRS_RMAC_LO.MAC`. -/ def fBRS_RMAC_LO_MAC : Fld := ⟨.BRS_RMAC_LO, 31, 0⟩
/-- `BRS_RMAC_HI.V`. -/ def fBRS_RMAC_HI_V : Fld := ⟨.BRS_RMAC_HI, 16, 16⟩
/-- `BRS_RMAC_HI.MAC_HI`. -/ def fBRS_RMAC_HI_MAC_HI : Fld := ⟨.BRS_RMAC_HI, 15, 0⟩
/-- `BRS_LEARN_CFG.BD_LIMIT_DROP`. -/ def fBRS_LEARN_CFG_BD_LIMIT_DROP : Fld := ⟨.BRS_LEARN_CFG, 5, 5⟩
/-- `BRS_LEARN_CFG.EVT_AGE`. -/ def fBRS_LEARN_CFG_EVT_AGE : Fld := ⟨.BRS_LEARN_CFG, 4, 4⟩
/-- `BRS_LEARN_CFG.EVT_LEARN`. -/ def fBRS_LEARN_CFG_EVT_LEARN : Fld := ⟨.BRS_LEARN_CFG, 3, 3⟩
/-- `BRS_LEARN_CFG.SA_CHECK`. -/ def fBRS_LEARN_CFG_SA_CHECK : Fld := ⟨.BRS_LEARN_CFG, 2, 2⟩
/-- `BRS_LEARN_CFG.EN`. -/ def fBRS_LEARN_CFG_EN : Fld := ⟨.BRS_LEARN_CFG, 0, 0⟩
/-- `BRS_LEARN_STATUS.QUEUE_HIGH`. -/ def fBRS_LEARN_STATUS_QUEUE_HIGH : Fld := ⟨.BRS_LEARN_STATUS, 31, 16⟩
/-- `BRS_LEARN_STATUS.QUEUE`. -/ def fBRS_LEARN_STATUS_QUEUE : Fld := ⟨.BRS_LEARN_STATUS, 10, 0⟩
/-- `BRS_AGE_CFG.DA_HIT`. -/ def fBRS_AGE_CFG_DA_HIT : Fld := ⟨.BRS_AGE_CFG, 12, 12⟩
/-- `BRS_AGE_CFG.PERIOD_S`. -/ def fBRS_AGE_CFG_PERIOD_S : Fld := ⟨.BRS_AGE_CFG, 11, 0⟩
/-- `BRS_AGE_STATUS.SWEEPS`. -/ def fBRS_AGE_STATUS_SWEEPS : Fld := ⟨.BRS_AGE_STATUS, 31, 16⟩
/-- `BRS_AGE_STATUS.LATE`. -/ def fBRS_AGE_STATUS_LATE : Fld := ⟨.BRS_AGE_STATUS, 15, 8⟩
/-- `BRS_AGE_STATUS.SWEEPING`. -/ def fBRS_AGE_STATUS_SWEEPING : Fld := ⟨.BRS_AGE_STATUS, 0, 0⟩
/-- `BRS_LEARN_PORT.META`. -/ def fBRS_LEARN_PORT_META : Fld := ⟨.BRS_LEARN_PORT, 26, 19⟩
/-- `BRS_LEARN_PORT.LEARN_EN`. -/ def fBRS_LEARN_PORT_LEARN_EN : Fld := ⟨.BRS_LEARN_PORT, 18, 18⟩
/-- `BRS_LEARN_PORT.LIMIT_DROP`. -/ def fBRS_LEARN_PORT_LIMIT_DROP : Fld := ⟨.BRS_LEARN_PORT, 17, 17⟩
/-- `BRS_LEARN_PORT.LIMIT_EN`. -/ def fBRS_LEARN_PORT_LIMIT_EN : Fld := ⟨.BRS_LEARN_PORT, 16, 16⟩
/-- `BRS_LEARN_PORT.LIMIT`. -/ def fBRS_LEARN_PORT_LIMIT : Fld := ⟨.BRS_LEARN_PORT, 15, 0⟩
/-- `BRS_LEARN_COUNT.COUNT`. -/ def fBRS_LEARN_COUNT_COUNT : Fld := ⟨.BRS_LEARN_COUNT, 19, 0⟩
/-- `BRS_BD_LIMIT_EN.EN`. -/ def fBRS_BD_LIMIT_EN_EN : Fld := ⟨.BRS_BD_LIMIT_EN, 31, 0⟩
/-- `BRS_EXPERT_GATE.ARMED`. -/ def fBRS_EXPERT_GATE_ARMED : Fld := ⟨.BRS_EXPERT_GATE, 9, 9⟩
/-- `BRS_EXPERT_GATE.OPEN`. -/ def fBRS_EXPERT_GATE_OPEN : Fld := ⟨.BRS_EXPERT_GATE, 8, 8⟩
/-- `BRS_EXPERT_GATE.KEY`. -/ def fBRS_EXPERT_GATE_KEY : Fld := ⟨.BRS_EXPERT_GATE, 7, 0⟩
/-- `BRS_BD_LEARN.COUNT`. -/ def fBRS_BD_LEARN_COUNT : Fld := ⟨.BRS_BD_LEARN, 31, 16⟩
/-- `BRS_BD_LEARN.LIMIT`. -/ def fBRS_BD_LEARN_LIMIT : Fld := ⟨.BRS_BD_LEARN, 15, 0⟩
/-- `CAT_CFG.SPLIT_E`. -/ def fCAT_CFG_SPLIT_E : Fld := ⟨.CAT_CFG, 19, 16⟩
/-- `CAT_CFG.SPLIT_I`. -/ def fCAT_CFG_SPLIT_I : Fld := ⟨.CAT_CFG, 12, 8⟩
/-- `CAT_SCRUB.PERIOD_US`. -/ def fCAT_SCRUB_PERIOD_US : Fld := ⟨.CAT_SCRUB, 9, 0⟩
/-- `CAT_PAR_STATUS.VALID`. -/ def fCAT_PAR_STATUS_VALID : Fld := ⟨.CAT_PAR_STATUS, 31, 31⟩
/-- `CAT_PAR_STATUS.DIR`. -/ def fCAT_PAR_STATUS_DIR : Fld := ⟨.CAT_PAR_STATUS, 30, 30⟩
/-- `CAT_PAR_STATUS.REPLICA`. -/ def fCAT_PAR_STATUS_REPLICA : Fld := ⟨.CAT_PAR_STATUS, 29, 28⟩
/-- `CAT_PAR_STATUS.KIND`. -/ def fCAT_PAR_STATUS_KIND : Fld := ⟨.CAT_PAR_STATUS, 27, 26⟩
/-- `CAT_PAR_STATUS.ADDR`. -/ def fCAT_PAR_STATUS_ADDR : Fld := ⟨.CAT_PAR_STATUS, 13, 0⟩
/-- `CAT_MOVE_STATUS.LAST_STEPS`. -/ def fCAT_MOVE_STATUS_LAST_STEPS : Fld := ⟨.CAT_MOVE_STATUS, 31, 16⟩
/-- `CAT_MOVE_STATUS.BUSY`. -/ def fCAT_MOVE_STATUS_BUSY : Fld := ⟨.CAT_MOVE_STATUS, 0, 0⟩
/-- `CAT_USE.VALID_E`. -/ def fCAT_USE_VALID_E : Fld := ⟨.CAT_USE, 28, 16⟩
/-- `CAT_USE.VALID_I`. -/ def fCAT_USE_VALID_I : Fld := ⟨.CAT_USE, 13, 0⟩
/-- `CAT_SLICE_I.WIDE`. -/ def fCAT_SLICE_I_WIDE : Fld := ⟨.CAT_SLICE_I, 18, 18⟩
/-- `CAT_SLICE_I.EN`. -/ def fCAT_SLICE_I_EN : Fld := ⟨.CAT_SLICE_I, 17, 17⟩
/-- `CAT_SLICE_I.TAG_MASK`. -/ def fCAT_SLICE_I_TAG_MASK : Fld := ⟨.CAT_SLICE_I, 15, 8⟩
/-- `CAT_SLICE_I.TAG`. -/ def fCAT_SLICE_I_TAG : Fld := ⟨.CAT_SLICE_I, 7, 0⟩
/-- `CAT_SLICE_E.WIDE`. -/ def fCAT_SLICE_E_WIDE : Fld := ⟨.CAT_SLICE_E, 18, 18⟩
/-- `CAT_SLICE_E.EN`. -/ def fCAT_SLICE_E_EN : Fld := ⟨.CAT_SLICE_E, 17, 17⟩
/-- `CAT_SLICE_E.TAG_MASK`. -/ def fCAT_SLICE_E_TAG_MASK : Fld := ⟨.CAT_SLICE_E, 15, 8⟩
/-- `CAT_SLICE_E.TAG`. -/ def fCAT_SLICE_E_TAG : Fld := ⟨.CAT_SLICE_E, 7, 0⟩
/-- `CAT_EXPERT_GATE.ARMED`. -/ def fCAT_EXPERT_GATE_ARMED : Fld := ⟨.CAT_EXPERT_GATE, 9, 9⟩
/-- `CAT_EXPERT_GATE.OPEN`. -/ def fCAT_EXPERT_GATE_OPEN : Fld := ⟨.CAT_EXPERT_GATE, 8, 8⟩
/-- `CAT_EXPERT_GATE.KEY`. -/ def fCAT_EXPERT_GATE_KEY : Fld := ⟨.CAT_EXPERT_GATE, 7, 0⟩
/-- `FAR_CFG.TURN_EN`. -/ def fFAR_CFG_TURN_EN : Fld := ⟨.FAR_CFG, 0, 0⟩
/-- `FAR_STATUS.LOOP_HIGH`. -/ def fFAR_STATUS_LOOP_HIGH : Fld := ⟨.FAR_STATUS, 31, 16⟩
/-- `FAR_STATUS.LOOP_LEVEL`. -/ def fFAR_STATUS_LOOP_LEVEL : Fld := ⟨.FAR_STATUS, 10, 0⟩
/-- `FAR_FAULT_LAST.VALID`. -/ def fFAR_FAULT_LAST_VALID : Fld := ⟨.FAR_FAULT_LAST, 31, 31⟩
/-- `FAR_FAULT_LAST.CAUSE`. -/ def fFAR_FAULT_LAST_CAUSE : Fld := ⟨.FAR_FAULT_LAST, 30, 28⟩
/-- `FAR_FAULT_LAST.OP`. -/ def fFAR_FAULT_LAST_OP : Fld := ⟨.FAR_FAULT_LAST, 27, 26⟩
/-- `FAR_FAULT_LAST.STAGE`. -/ def fFAR_FAULT_LAST_STAGE : Fld := ⟨.FAR_FAULT_LAST, 25, 23⟩
/-- `FAR_FAULT_LAST.PASS`. -/ def fFAR_FAULT_LAST_PASS : Fld := ⟨.FAR_FAULT_LAST, 22, 22⟩
/-- `FAR_FAULT_LAST.PORT`. -/ def fFAR_FAULT_LAST_PORT : Fld := ⟨.FAR_FAULT_LAST, 21, 13⟩
/-- `FAR_FAULT_LAST.ADDR`. -/ def fFAR_FAULT_LAST_ADDR : Fld := ⟨.FAR_FAULT_LAST, 12, 0⟩
/-- `FAR_PAR_STATUS.VALID`. -/ def fFAR_PAR_STATUS_VALID : Fld := ⟨.FAR_PAR_STATUS, 31, 31⟩
/-- `FAR_PAR_STATUS.TABLE`. -/ def fFAR_PAR_STATUS_TABLE : Fld := ⟨.FAR_PAR_STATUS, 30, 29⟩
/-- `FAR_PAR_STATUS.REPLICA`. -/ def fFAR_PAR_STATUS_REPLICA : Fld := ⟨.FAR_PAR_STATUS, 28, 27⟩
/-- `FAR_PAR_STATUS.INDEX`. -/ def fFAR_PAR_STATUS_INDEX : Fld := ⟨.FAR_PAR_STATUS, 14, 0⟩
/-- `FAR_SCRUB.PERIOD_US`. -/ def fFAR_SCRUB_PERIOD_US : Fld := ⟨.FAR_SCRUB, 9, 0⟩
/-- `FAR_PORT.DEF_B_V`. -/ def fFAR_PORT_DEF_B_V : Fld := ⟨.FAR_PORT, 29, 29⟩
/-- `FAR_PORT.DEF_B`. -/ def fFAR_PORT_DEF_B : Fld := ⟨.FAR_PORT, 28, 16⟩
/-- `FAR_PORT.DEF_A_V`. -/ def fFAR_PORT_DEF_A_V : Fld := ⟨.FAR_PORT, 13, 13⟩
/-- `FAR_PORT.DEF_A`. -/ def fFAR_PORT_DEF_A : Fld := ⟨.FAR_PORT, 12, 0⟩
/-- `FAR_EXPERT_GATE.ARMED`. -/ def fFAR_EXPERT_GATE_ARMED : Fld := ⟨.FAR_EXPERT_GATE, 9, 9⟩
/-- `FAR_EXPERT_GATE.OPEN`. -/ def fFAR_EXPERT_GATE_OPEN : Fld := ⟨.FAR_EXPERT_GATE, 8, 8⟩
/-- `FAR_EXPERT_GATE.KEY`. -/ def fFAR_EXPERT_GATE_KEY : Fld := ⟨.FAR_EXPERT_GATE, 7, 0⟩
/-- `HAR_OVH.OVERHEAD`. -/ def fHAR_OVH_OVERHEAD : Fld := ⟨.HAR_OVH, 6, 0⟩
/-- `HAR_ERR_LAST.VALID`. -/ def fHAR_ERR_LAST_VALID : Fld := ⟨.HAR_ERR_LAST, 31, 31⟩
/-- `HAR_ERR_LAST.TABLE`. -/ def fHAR_ERR_LAST_TABLE : Fld := ⟨.HAR_ERR_LAST, 30, 28⟩
/-- `HAR_ERR_LAST.INDEX`. -/ def fHAR_ERR_LAST_INDEX : Fld := ⟨.HAR_ERR_LAST, 14, 0⟩
/-- `HAR_PORT_COL.PCP_CLASS`. -/ def fHAR_PORT_COL_PCP_CLASS : Fld := ⟨.HAR_PORT_COL, 4, 4⟩
/-- `HAR_PORT_COL.DEF_CLASS`. -/ def fHAR_PORT_COL_DEF_CLASS : Fld := ⟨.HAR_PORT_COL, 3, 1⟩
/-- `HAR_PORT_COL.DEI_YELLOW`. -/ def fHAR_PORT_COL_DEI_YELLOW : Fld := ⟨.HAR_PORT_COL, 0, 0⟩
/-- `HAR_GATE_CFG.SWAP_ARMED`. -/ def fHAR_GATE_CFG_SWAP_ARMED : Fld := ⟨.HAR_GATE_CFG, 31, 31⟩
/-- `HAR_GATE_CFG.ACTIVE`. -/ def fHAR_GATE_CFG_ACTIVE : Fld := ⟨.HAR_GATE_CFG, 30, 30⟩
/-- `HAR_GATE_CFG.EN`. -/ def fHAR_GATE_CFG_EN : Fld := ⟨.HAR_GATE_CFG, 29, 29⟩
/-- `HAR_GATE_CFG.MARGIN_NS`. -/ def fHAR_GATE_CFG_MARGIN_NS : Fld := ⟨.HAR_GATE_CFG, 15, 0⟩
/-- `HAR_GATE_STAT.TOO_LONG`. -/ def fHAR_GATE_STAT_TOO_LONG : Fld := ⟨.HAR_GATE_STAT, 31, 24⟩
/-- `HAR_GATE_STAT.LEAD_MAX_NS`. -/ def fHAR_GATE_STAT_LEAD_MAX_NS : Fld := ⟨.HAR_GATE_STAT, 15, 8⟩
/-- `HAR_GATE_STAT.LEAD_MIN_NS`. -/ def fHAR_GATE_STAT_LEAD_MIN_NS : Fld := ⟨.HAR_GATE_STAT, 7, 0⟩
/-- `HAR_GATE_SWAPS.SWAPS`. -/ def fHAR_GATE_SWAPS_SWAPS : Fld := ⟨.HAR_GATE_SWAPS, 15, 0⟩
/-- `HAR_CAD_BASE.W`. -/ def fHAR_CAD_BASE_W : Fld := ⟨.HAR_CAD_BASE, 31, 0⟩
/-- `HAR_CAD_CYCLE.CYCLE_NS`. -/ def fHAR_CAD_CYCLE_CYCLE_NS : Fld := ⟨.HAR_CAD_CYCLE, 29, 0⟩
/-- `HAR_CAD_LEN.LEN`. -/ def fHAR_CAD_LEN_LEN : Fld := ⟨.HAR_CAD_LEN, 8, 0⟩
/-- `HAR_EXPERT_GATE.ARMED`. -/ def fHAR_EXPERT_GATE_ARMED : Fld := ⟨.HAR_EXPERT_GATE, 9, 9⟩
/-- `HAR_EXPERT_GATE.OPEN`. -/ def fHAR_EXPERT_GATE_OPEN : Fld := ⟨.HAR_EXPERT_GATE, 8, 8⟩
/-- `HAR_EXPERT_GATE.KEY`. -/ def fHAR_EXPERT_GATE_KEY : Fld := ⟨.HAR_EXPERT_GATE, 7, 0⟩
/-- `PAR_FLOW_CFG.POLY`. -/ def fPAR_FLOW_CFG_POLY : Fld := ⟨.PAR_FLOW_CFG, 2, 1⟩
/-- `PAR_FLOW_CFG.EN`. -/ def fPAR_FLOW_CFG_EN : Fld := ⟨.PAR_FLOW_CFG, 0, 0⟩
/-- `PAR_FLOW_SEED.SEED`. -/ def fPAR_FLOW_SEED_SEED : Fld := ⟨.PAR_FLOW_SEED, 31, 0⟩
/-- `PAR_FLOW_STATUS.ENTRIES`. -/ def fPAR_FLOW_STATUS_ENTRIES : Fld := ⟨.PAR_FLOW_STATUS, 16, 0⟩
/-- `PAR_FLOW_MASK_LO.MASK`. -/ def fPAR_FLOW_MASK_LO_MASK : Fld := ⟨.PAR_FLOW_MASK_LO, 31, 0⟩
/-- `PAR_FLOW_MASK_HI.MASK`. -/ def fPAR_FLOW_MASK_HI_MASK : Fld := ⟨.PAR_FLOW_MASK_HI, 31, 0⟩
/-- `PAR_FLOW_PROF.OUT_PORT`. -/ def fPAR_FLOW_PROF_OUT_PORT : Fld := ⟨.PAR_FLOW_PROF, 1, 1⟩
/-- `PAR_FLOW_PROF.EN`. -/ def fPAR_FLOW_PROF_EN : Fld := ⟨.PAR_FLOW_PROF, 0, 0⟩
/-- `PAR_EXPERT_GATE.ARMED`. -/ def fPAR_EXPERT_GATE_ARMED : Fld := ⟨.PAR_EXPERT_GATE, 9, 9⟩
/-- `PAR_EXPERT_GATE.OPEN`. -/ def fPAR_EXPERT_GATE_OPEN : Fld := ⟨.PAR_EXPERT_GATE, 8, 8⟩
/-- `PAR_EXPERT_GATE.KEY`. -/ def fPAR_EXPERT_GATE_KEY : Fld := ⟨.PAR_EXPERT_GATE, 7, 0⟩

/-- The place of an index in a list of (count, stride) dimensions. -/
def RegDesc.index (d : RegDesc) (i j k : Nat) : Nat :=
  match d.dims with
  | [] => 0
  | [(_, a)] => i * a
  | [(_, a), (_, b)] => i * a + j * b
  | (_, a) :: (_, b) :: (_, c) :: _ => i * a + j * b + k * c

/-- The BAR0 offset of a register (R464, R466). -/
def Reg.addr (r : Reg) (p i j k : Nat := 0) : Nat :=
  r.desc.block.base p + r.desc.off + r.desc.index i j k

/-- Places a value in bits hi to lo of a word. -/
def bitsAt (hi lo v : Nat) : Nat := (v % 2 ^ (hi + 1 - lo)) * 2 ^ lo

/-- The reset word that the register table states, field by field. -/
def RegDesc.resetBits (d : RegDesc) : Nat :=
  d.fields.foldl (fun a f => a + bitsAt f.hi f.lo f.rst) 0

/-- The word a register holds at reset. Registers whose table lists a value per index, per pipeline or per fault source
have their own arm; straps, fuses and OTP fields hold 0 until boot writes them. -/
def Reg.resetWord (r : Reg) (p i : Nat) : BitVec 32 :=
  match r with
  | .RDR_DISC_A | .RDR_DISC_B =>
    BitVec.ofNat 32 (bitsAt 23 16 ([13, 17, 24, 27].getD i 0) + bitsAt 7 0 ([12, 16, 18, 25].getD i 0))
  | .BRS_GRP_SEED => BitVec.ofNat 32 (0x11111111 * p)
  | .STB_POOL_CFG => BitVec.ofNat 32 ([512, 510, 1024, 512].getD i 0)
  | .STB_POOL_COUNT => BitVec.ofNat 32 ([262144, 87040, 41943, 3449].getD i 0)
  | .STB_POOL_RSV => BitVec.ofNat 32 ([2048, 1024, 256, 16].getD i 0)
  | .FLT_SCOPE_CFG => BitVec.ofNat 32 (bitsAt 23 16 3 + ([100, 100, 1000, 1000, 10000].getD i 0))
  | .FLT_SRC_CFG => BitVec.ofNat 32 (srcCfgReset i)
  | r => BitVec.ofNat 32 r.desc.resetBits

/-- The access mask of a set of fields: the bits of every field that satisfies f. -/
def RegDesc.mask (d : RegDesc) (f : FieldDesc → Bool) : Nat :=
  d.fields.foldl (fun a x => if f x then a + bitsAt x.hi x.lo (2 ^ 32 - 1) else a) 0

/-- A register and its index values. -/
structure RegAt where
  reg : Reg
  p : Nat
  i : Nat
  j : Nat
  k : Nat
  deriving DecidableEq, Repr

/-- Finds the index values of an offset within a register's array, if it is one of the register's words. -/
def RegDesc.find (d : RegDesc) (o : Nat) : Option (Nat × Nat × Nat) :=
  if o < d.off then none else
  let x := o - d.off
  match d.dims with
  | [] => if x = 0 then some (0, 0, 0) else none
  | [(n, a)] => if x % a = 0 ∧ x / a < n then some (x / a, 0, 0) else none
  | [(n, a), (m, b)] =>
    if x / a < n ∧ (x % a) % b = 0 ∧ (x % a) / b < m then some (x / a, (x % a) / b, 0) else none
  | (n, a) :: (m, b) :: (l, c) :: _ =>
    if x / a < n ∧ (x % a) / b < m ∧ ((x % a) % b) % c = 0 ∧ ((x % a) % b) / c < l
    then some (x / a, (x % a) / b, ((x % a) % b) / c) else none

/-- The block and pipeline that hold a BAR0 offset, with the offset within the block (R464, R466). -/
def blockAt (a : Nat) : Option (Block × Nat × Nat) :=
  if a < 0xC0000 then
    match [Block.GEN, .TIM, .HST, .CLE, .FOL, .FLT, .RAT, .CKR, .DRM, .ARC, .KST, .STB][a / 0x10000]? with
    | some b => some (b, 0, a % 0x10000)
    | none => none
  else if 0x1000000 ≤ a ∧ a < 0x2000000 then
    let p := (a - 0x1000000) / 0x200000
    let o := a % 0x200000
    if o < 0x40000 then some (.PRT, p, o)
    else if o < 0x60000 then some (.RDR, p, o - 0x40000)
    else if o < 0x80000 then some (.BRS, p, o - 0x60000)
    else if o < 0xA0000 then some (.CAT, p, o - 0x80000)
    else if o < 0xC0000 then some (.FAR, p, o - 0xA0000)
    else if o < 0xE0000 then some (.HAR, p, o - 0xC0000)
    else some (.PAR, p, o - 0xE0000)
  else none

/-- The register at a BAR0 offset, if a register table defines one (R465). -/
def regAt (a : Nat) : Option RegAt :=
  match blockAt a with
  | none => none
  | some (b, p, o) =>
    b.regs.findSome? fun r => (r.desc.find o).map fun x => ⟨r, p, x.1, x.2.1, x.2.2⟩

end Sys2Proof.Machine
end

