-- ==== Sys2Proof/Machine/State.lean ====
section
/-! DEFINITION. The state of the EF9 as plain data: the registers of BAR0 by register and index, the tables, the counters, and
beside them what the chapters keep outside registers (frames, buffers, queues, triggers, records). INVENTORY.md lists every
piece with its rule and reset value. Times are in units of 2^-48 ns. -/
namespace Sys2Proof.Machine

/-! ### Commands of the Clerk (R338, R360 to R373) -/

/-- Where a command came from: a host's command ring 0 or 1, or a master's table access window. -/
inductive CmdSrc where
  | ring (h : HostId) (prio : Bool)
  | taw (m : Master)
  deriving DecidableEq, Repr

/-- A command as the Clerk holds it: its sixteen words, the entry data read for it, whether its host read failed, its number in its
ring, and for a chunked command (R370) the next entry number and the result so far. -/
structure Cmd where
  src : CmdSrc
  words : List Word
  data : List Word
  failed : Bool
  seq : Nat
  begun : Bool
  next : Nat
  acc : Nat
  deriving DecidableEq, Repr

/-- A completion (R338): opcode, status, tag and the two result words. -/
structure Completion where
  opcode : Nat
  status : Nat
  tag : Word
  res2 : Word
  res3 : Word
  deriving DecidableEq, Repr

/-- One place in a ring's order of completions: a completion still to come (R369), or one held behind it. -/
inductive HoldEnt where
  | waiting (seq : Nat)
  | done (seq : Nat) (c : Completion)
  deriving DecidableEq, Repr

/-- What the Clerk took at its last boundary (R361) and has not yet run. -/
inductive Work where
  | idle
  | cmd (c : Cmd)
  | sweep (p : Nat)
  | resync (h : HostId)
  | forget (port : Nat)
  | repairRead (tag : Nat)
  | repairWrite (tag : Nat)
  | patch
  deriving DecidableEq, Repr

/-- A patch image checked by `PATCH_LOAD`, waiting for the verifier or for installation (R378). -/
structure Patch where
  cmd : Cmd
  words : List Word
  verified : Bool
  deriving DecidableEq, Repr

/-- The Clerk: commands read and not begun, the work of the present step, chunked commands in progress, hold queues, submitted windows, rotation
state, the background jobs with the index of the next entry of each (timed sweeps, mirror resyncs, forgets of ports that lost their link), the patches
in hand (oldest first), the patch words of the RAM by address (R374), whether the shadow has been copied (R376), the address of the next control-store
word, since when the step after the last boundary has run, whether that step waited for a mirror queue and whether it has overrun (R379), whether the
clock check of its register access passed (R367), whether the Clerk is STOPPED (R371), and for each command ring the command number at its last stop,
below which commands no longer advance its index (R337), and at its host's last loss, below which completions are discarded (R328). -/
structure ClerkSt where
  fetched : List Cmd
  work : Work
  chunked : List Cmd
  hold : List (CmdSrc × List HoldEnt)
  seq : Nat
  priRun : Nat
  rotPri : Nat
  rotNorm : Nat
  sweeps : List (Nat × Nat)
  resyncs : List (HostId × Nat)
  forgets : List (Nat × Nat)
  patches : List Patch
  storeRam : List (Nat × List Word)
  shadow : Bool
  upc : Nat
  stepStart : Option Nat
  stepHeld : Bool
  overran : Bool
  regOk : Bool
  stopped : Bool
  stops : List (CmdSrc × Nat)
  voids : List (CmdSrc × Nat)
  tawLeft : List (Nat × List Word)
  deriving DecidableEq, Repr

/-! ### Course time (R31 to R61) -/

/-- A change of course time that waits for its apply instant or its edge (R46, R47). Values are in units of 2^-48 ns. -/
inductive Change where
  | setNow (v : Nat)
  | setAtPps (v : Nat)
  | step (d : Int)
  | freq (w : Nat)
  deriving DecidableEq, Repr

/-- The pending change, its apply instant (course time) and the running count at which it was accepted. -/
structure Pending where
  change : Change
  applyAt : Nat
  reqRc : Nat
  deriving DecidableEq, Repr

/-- A PPS_IN edge that waits for its 100 ns decision: its corrected timestamp and its running count (R40). -/
structure PpsEdge where
  ts : Nat
  rc : Nat
  deriving DecidableEq, Repr

/-- The kinds of trigger (`TIM_TRIG_CTRL.KIND`). -/
inductive TrigKind where
  | edition | tack | snapshot | cadence | gpio0 | gpio1
  deriving DecidableEq, Repr

/-- An armed trigger: its slot, kind, next firing time, interval (ns, 0 for one-shot), the command still waiting on it,
and the set mask of a snapshot or the slot and tack set it switches to. -/
structure Trig where
  slot : Nat
  kind : TrigKind
  at_ : Nat
  interval : Nat
  cmd : Option Cmd
  arg : Nat
  deriving DecidableEq, Repr

/-- The jobs that hardware runs once in a period of a register, each for a pipeline, a channel or a subchannel. -/
inductive Job where
  | readerScrub | overflowScrub | bucketScrub | catScrub | farScrub | flowSweep | mr4 | zq | retrain | patrol | calibration
  deriving DecidableEq, Repr

/-- The course-time unit. Times are in units of 2^-48 ns: `ct` is course time, `rc` the running count since cold reset (`TIM_RUN` shows it from
`rcBase`, where the last warm reset cleared it). `now` counts TCLK cycles of real time (nominal 1 ns). `holdEdge` is the whole second of the last edge
accepted in HOLDOVER and whether the one before lay in the second before it; `ppsRc` is the running count of the last rise of `PPS_OUT` and `todDue`
whether its message is still to be sent. `tod` holds the good messages that no edge has answered yet, as (SEC, when their last byte came), and
`todCheck` the SEC of those still to be compared (R45). `calRun` holds the calibration runs in progress with their start, and `calRes` the last
results in half picoseconds. `rxDly` and `txDly` are TIM_LANE_RX_DLY and TIM_LANE_TX_DLY, which the spec gives no offset, so that no command writes
them (assumption log 40). `jobs` says when each periodic job last ran. -/
structure TimeSt where
  ct : Nat
  rc : Nat
  now : Nat
  rcBase : Nat
  freq : Nat
  pend : Option Pending
  edge : Option PpsEdge
  lastAcc : Option Nat
  holdEdge : Option (Nat × Bool)
  tod : List (Nat × Nat)
  todCheck : List Nat
  gpioLast : List (Nat × Nat)
  gpioOut : List (Nat × Nat)
  trigs : List Trig
  calRun : List (Nat × Nat)
  calRes : List (Nat × Int)
  rxDly : List (Nat × Int)
  txDly : List (Nat × Int)
  ppsOut : Bool
  ppsRc : Nat
  todDue : Bool
  todTx : List Byte
  jobs : List ((Job × Nat) × Nat)
  deriving DecidableEq, Repr

/-! ### Faults (R398 to R419) -/

/-- Events of one slot on their way to the collector (R401): how many, their detail, whether they were forced, and the course
time and time state of the last. -/
structure Crossing where
  slot : Nat
  count : Nat
  detail : Nat
  forced : Bool
  ct : Nat
  tstate : Nat
  deriving DecidableEq, Repr

/-- The reaction state of one domain (R400 to R413). `sev` is the highest severity since its record opened, `act` the reaction in
force (0 NONE, 1 SAFE, 2 ARCHIVE), `halt` whether an event with HALT = 1 put it in force, `rec_` its open record, `norec` the
order in which it began to wait for one (R409), `quietRc` the running count at which its quiet period started (R411), `recov`
and `recovWin` its recoveries and when their window opened (R412), `told` whether its record reached EVT_SEV (R418). -/
structure Dom where
  id : Nat
  live : Bool
  sev : Nat
  act : Nat
  halt : Bool
  latched : Bool
  rec_ : Option Nat
  norec : Option Nat
  firstCt : Nat
  lastCt : Nat
  merged : Nat
  kinds : Nat
  firstSlot : Nat
  lastSlot : Nat
  detail : Nat
  quietRc : Nat
  recov : Nat
  recovWin : Option Nat
  told : Bool
  deriving DecidableEq, Repr

/-- One fault input (R414, R415): whether its deglitched level is asserted, whether it is masked, and its assertions in the
present second. -/
structure FaultIn where
  asserted : Bool
  masked : Bool
  times : List Nat
  deriving DecidableEq, Repr

/-- The fault collector: events in the crossings, counting windows (slot, opening course time, count), domains, level sources
present (a forced one as slot + 4,096), fault inputs, and the memory words whose check bits the injector inverted (R417), as
(checker, pipeline, replica, index, double), the next-write injections armed, and the entries that wait for the daybook, as
(event, severity, domain), oldest first (R410). -/
structure FaultSt where
  crossing : List Crossing
  windows : List (Nat × Nat × Nat)
  doms : List Dom
  present : List Nat
  order : Nat
  inputs : List (Nat × FaultIn)
  marks : List (Nat × Nat × Nat × Nat × Bool)
  nextMarks : List (Nat × Nat × Nat × Bool)
  dayQ : List (Crossing × Nat × Dom)
  deriving DecidableEq, Repr

/-! ### Host interface (R324 to R357) -/

/-- What the EF9 sends on PCIe: a memory write, a read request for n bytes of whole words (R335) or an MSI-X message, in the order it
leaves (R332). -/
inductive PcieOut where
  | write (h : HostId) (addr : Nat) (bytes : List Byte)
  | read (h : HostId) (addr n : Nat)
  | msi (h : HostId) (vector : Nat)
  deriving DecidableEq, Repr

/-- A channel beside its registers: the entries written since its last interrupt and when the first of them was (R333), and whether the head of its
class waits for a buffer or an entry (R357). -/
structure ChanSt where
  since : Nat
  firstAt : Nat
  waiting : Bool
  deriving DecidableEq, Repr

/-- The host interface: holding registers (R7), expert gates (R9), the arbiter's present round (R355), the reject log, the compare-and-set outcomes,
completion and event queues, posted buffers, interrupt counts, doorbells as last written, MSI-X tables and pending bits, what left on PCIe, the
channel each DMA engine served last (R334), the read data last returned to each master (none where the read ended in an error response), the levels of
`INT_N` and `MG_ALERT_N`, and the sideband's bad transactions, last acknowledgement and last bytes sent. -/
structure HostSt where
  held : List (Master × RegAt × List Word)
  gates : List ((Master × Block × Nat) × (Bool × Nat))
  round : Nat × List (Master × Option Nat)
  rejects : List (List Word)
  rejLost : Bool
  cas : List (Master × Word)
  compl : List (CmdSrc × List Completion)
  events : List (HostId × List (List Word))
  posted : List (HostId × Nat × List Nat)
  bufState : List ((HostId × Nat) × Bool)
  chans : List (Nat × ChanSt)
  doorbell : List ((HostId × Nat) × Word)
  msix : List ((HostId × Nat) × Word)
  pba : List (HostId × List Nat)
  out : List PcieOut
  turns : List (Nat × Nat)
  readData : List (Master × Option Word)
  lost : List HostId
  intN : Bool
  alertN : Bool
  sbBad : Nat
  sbAck : Bool
  sbTx : List Byte
  deriving DecidableEq, Repr

/-! ### Frames on their way (R13 to R27, R69 to R84, R221 to R240) -/

/-- Where the bytes of a frame that is still being received go: it waits for its slot, it is stored in a stall, or it has been
dropped and only its counters remain. -/
inductive RxFate where
  | waiting
  | stalled (pool idx : Nat)
  | gone
  deriving DecidableEq, Repr

/-- A frame in a receive MAC: its port, the bytes received (FCS included), whether its last bit has come, whether its FCS or a codeword was bad,
whether link loss cut it short, the ingress course time, running count and state (R19, R50), the edition bit marked at its counting point (R212),
whether the port was not UP, the byte counters that wait for L with their counting time and running count (R288), where its bytes go, and the port's
PRT_PTP_RX_ADJ as the ingress MAC took it for the residence time (R82). -/
structure RxFrame where
  port : Nat
  bytes : List Byte
  ended : Bool
  bad : Bool
  trunc : Bool
  ct : Nat
  rc : Nat
  tstate : Nat
  ed : Bool
  notUp : Bool
  late : List (Nat × Nat × Nat × Nat × Nat)
  fate : RxFate
  adj : Int
  deriving DecidableEq, Repr

/-- A stall with its frame record (R226): what every copy of the frame shares. `len` is L once known and P before; `reason` is the
drop code that BAD gives its copies; `inPort` is the original input port; `chPort` and `inCls` say where its ingress usage is
charged (R229); `ingPipe` is its ingress pipeline for the tallies (R294); `rxPort` is the front-panel port it is still being
received on; `units` is its charge; `adj` is what R82 subtracts from its ingress running count; `chkLen` says that the check of R97 applies
to it. -/
structure Stall where
  pool : Nat
  idx : Nat
  bytes : List Byte
  len : Nat
  known : Bool
  done : Bool
  bad : Bool
  reason : Nat
  layout : Nat
  shift : Nat
  ed : Bool
  nextProto : Nat
  fragl : Bool
  pass : Bool
  inPort : Nat
  whole : Bool
  routed : Bool
  tstate : Nat
  refs : Nat
  ct : Nat
  rc : Nat
  cont : Option Nat
  rMeta : Nat
  hash : Nat
  pktLen : Nat
  chPort : Nat
  inCls : Nat
  ingPipe : Nat
  rxPort : Option Nat
  units : Nat
  adj : Int
  chkLen : Bool
  deriving DecidableEq, Repr

/-- A slip (R227), with what the copy carries beside it: its edition bit, the Farrier entry given to it at ingress or by an inject
descriptor (R182), its punt reason and repair tag for a host port, whether it is the capture copy, whether it skips lookups by the direct path or
skips the egress stages because the Reader sent it to a second pass (R100), the service that
holds it, and the units it is charged. -/
structure Slip where
  id : Nat
  pool : Nat
  stall : Nat
  cls : Nat
  colour : Nat
  copy : Bool
  mirror : Bool
  ct : Bool
  outPort : Nat
  nh : Nat
  nhV : Bool
  rwIdx : Nat
  finalBd : Nat
  far : Option Nat
  punt : Option Nat
  repair : Option Nat
  capture : Bool
  direct : Bool
  skip : Bool
  svc : Nat
  units : Nat
  deriving DecidableEq, Repr

/-- The marks the Farrier's TSTAMP leaves for the MAC (R81, R83, R193): the offset of a correctionField with that of a UDP checksum
to update, the offset of a PTP header for a two-step timestamp, and the offset of an egress time to insert with that of a UDP
checksum to update. -/
structure TsMarks where
  oneStep : Option (Nat × Option Nat)
  twoStep : Option Nat
  insertTx : Option (Nat × Option Nat)
  deriving DecidableEq, Repr

/-- A copy past its Harness: its slip, the service it left, the length charged at selection, the header as the Farrier left it
and how many bytes of the stored frame it stands for, its marks, the egress key vector, whether MARK CAPTURE was executed, whether
it turned onto the loop, the continuation it carries, whether Lf was unknown at the Farrier (R195), whether its length was not known at its first
bit, what the flow cache made of it there (R298: none when flows are off, the flow it was added to, or untracked), and when that left. -/
structure EgCopy where
  slip : Slip
  svc : Nat
  est : Nat
  hdr : List Byte
  hlen : Nat
  marks : TsMarks
  kv : List Byte
  capture : Bool
  turned : Bool
  cont : Option Nat
  unk : Bool
  late : Bool
  flow : Option (Option Nat)
  ct : Nat
  rc : Nat
  deriving DecidableEq, Repr

/-- A frame on or past a recirculation loop (R196 to R199): its bytes without FCS, and what it keeps from its first pass. `entered`
says that it has wholly entered the loop FIFO. -/
structure LoopFrame where
  bytes : List Byte
  entered : Bool
  inPort : Nat
  ct : Nat
  rc : Nat
  tstate : Nat
  ed : Bool
  shift : Nat
  nextProto : Nat
  fragl : Bool
  cont : Option Nat
  ingPipe : Nat
  adj : Int
  deriving DecidableEq, Repr

/-- An injected frame of a host's inject ring that waits for an ingress slot on the pipeline path (R347), or a fence return (R348). -/
structure InjFrame where
  bytes : List Byte
  host : HostId
  ring : Nat
  pipe : Nat
  ct : Nat
  rc : Nat
  tstate : Nat
  ed : Bool
  fence : Option (Nat × Nat)
  deriving DecidableEq, Repr

/-- What the ports hold beside their registers: hold-up and down-hold deadlines (real time), walks in progress (a port, and the class of a storm
walk), pauses (port, priority) with their end, when the watchdog of each paused priority and the restore time of each unpaused one run out (R80), from
when its paused time is still to be counted, from when each (port, class) in XOFF is to be counted with what each (port, priority) has below 1 ns,
timestamp FIFOs and their overflow flags, pause frames due, the copy in transmission per port, copies that wait for their first bit, the last frame
each port sent, when each octet began to relock, the FEC code each octet has in force, and the class gates in force at each MAC (R262). -/
structure PortSt where
  holdUp : List (Nat × Nat)
  downHold : List (Nat × Nat)
  walks : List (Nat × Option Nat)
  pause : List ((Nat × Nat) × Nat)
  stormAt : List ((Nat × Nat) × Nat)
  pauseAcc : List ((Nat × Nat) × Nat)
  restoreAt : List ((Nat × Nat) × Nat)
  xoffAt : List ((Nat × Nat) × Nat)
  xoffRem : List ((Nat × Nat) × Nat)
  pfcDue : List (Nat × Nat × Bool)
  pfcRepeat : List ((Nat × Nat) × Nat)
  tsFifo : List (Nat × List (List Word))
  tsOvf : List Nat
  safe : List Nat
  txWait : List (Nat × List EgCopy)
  txNow : List (Nat × EgCopy)
  lastTx : List (Nat × List Byte)
  octAt : List (Nat × Nat)
  octFec : List (Nat × Nat)
  gates : List (Nat × Nat)
  deriving DecidableEq, Repr

/-- The Stable and the Harnesses: frames in receive MACs, loops, injected frames waiting, stalls and slips in use, link FIFOs,
queues by service (pipeline × 8,192 + service; host queues at 65,536 + 8 × (port − 264) + class), copies between
selection and the egress half, DWRR rounds, curb and rein buckets, and recirculation credit in units of 1/875 (R14). -/
structure FwdSt where
  rx : List RxFrame
  loops : List (Nat × List LoopFrame)
  inject : List (Nat × List InjFrame)
  credit : List (Nat × Nat)
  stalls : List Stall
  slips : List Slip
  broken : List Nat
  linkFifo : List (Nat × List Nat)
  queues : List (Nat × List Nat)
  sel : List (Nat × List EgCopy)
  rounds : List ((Nat × Bool × Nat × Bool × Nat) × List (Nat × Int))
  curbs : List ((Nat × Nat × Nat × Bool) × (Int × Nat))
  reins : List ((Nat × Nat × Nat) × (Int × Int × Nat))
  deriving DecidableEq, Repr

/-! ### The Archive and archive memory (R287 to R323) -/

/-- A snapshot whose scan has not ended (R291, R292): its T, time state, LATE, set mask, the running count at which it fired, and
the census RES of each pipeline at T (R294), and the running count of the first backward move of course time since. -/
structure Scan where
  t : Nat
  tstate : Nat
  late : Bool
  mask : Nat
  rc : Nat
  started : Bool
  res : List Nat
  back : Option Nat
  deriving DecidableEq, Repr

/-- A complete snapshot that has not been exported: its offset in the region, its bytes and its SEQ. -/
structure Snap where
  off : Nat
  len : Nat
  seq : Nat
  deriving DecidableEq, Repr

/-- A flow cache entry (R298): its key, flow number, frames, bytes, first and last seen with their time states, and least and
greatest latency in ns. -/
structure Flow where
  key : List Byte
  flow : Nat
  inPort : Nat
  layout : Nat
  outPort : Option Nat
  frames : Nat
  bytes : Nat
  first : Nat
  firstState : Nat
  last : Nat
  lastState : Nat
  latMin : Nat
  latMax : Nat
  deriving DecidableEq, Repr

/-- A request to archive memory (R311): its requester (0 scan, 1 ledger, 2 capture, 3 export, 4 host A, 5 host B, 6 scrub), write or
read, its burst address, its bytes with enables (for a read, the data it is to return), and the running count at which it entered its
bank queue. -/
structure DramReq where
  req : Nat
  write : Bool
  addr : Nat
  data : List Byte
  enables : List Bool
  since : Nat
  deriving DecidableEq, Repr

/-- The Archive: snapshot region (next offset, bytes in use, complete snapshots, sequence number, skipped firings), the scan in
progress, residuals of the last complete snapshot, its counters and sets, sets restored since; flow caches by (pipeline,
bucket, way), next flow numbers and when each pipeline last inserted; the ledger's record count and how many are not exported; the capture
ring's sequence, records held, records still to write after a stop, and rate bucket; and each export ring's progress
in its record (bytes exported, and whether an uncorrectable read has ended it). -/
structure ArcSt where
  mem : Memory
  snapHead : Nat
  snapUsed : Nat
  snaps : List Snap
  snapSeq : Nat
  snapSkipped : Nat
  scan : Option Scan
  resid : List Int
  lastSnap : AMap (Nat × Nat × Nat) Nat
  lastMask : Nat
  restored : Nat
  flows : AMap (Nat × Nat × Nat) Flow
  flowNext : List (Nat × Nat)
  flowTok : List (Nat × Nat)
  ledHead : Nat
  ledUsed : Nat
  capSeq : Nat
  capHead : Nat
  capHeld : Nat
  capPost : Nat
  capTok : Nat
  capTokRc : Nat
  expPos : List (Nat × (Nat × Bool))
  deriving DecidableEq, Repr

/-- A unit of a DMA engine that waits for archive memory (R311, R334): its channel; a bulk unit's descriptor, how its host read ended and the bytes to
write; how many bytes an export unit may move; the requests that are still to be answered (requester, address, whether a write) and the answers so far
(address, 0 done or 1 error, bytes). -/
structure ArcUnit where
  chan : Nat
  d : List Word
  r : HostRead
  data : List Byte
  room : Nat
  asks : List (Nat × Nat × Bool)
  got : List (Nat × Nat × List Byte)
  deriving DecidableEq, Repr

/-- The DDR5 controller (R308 to R323): bank queues by (subchannel, bank) and the requests that wait at their requesters; open rows, the subchannels
that serve writes, the bank group each last activated, and the arbiter's deficits; refreshes postponed, the next bank index of REFsb, when the next
refresh falls due (running count) and the subchannels that refresh at double rate; pauses with their end (running count); the burst that the scrub
reads next; replays in a row; what each requester was last answered (address, 0 data or 1 error, bytes); whether the devices are in self-refresh, and
the subchannels that leave it with the retrain still to come (R318); since when the snapshot scan waits at crossing 8, by its requester number (R426);
the units of the DMA engines that wait for archive memory (R334); and the subchannels whose ZQ calibration and retrain come next (R317). -/
structure DramSt where
  queues : AMap (Nat × Nat) (List DramReq)
  waiting : List DramReq
  openRow : AMap (Nat × Nat) Nat
  writing : List Nat
  lastBg : List (Nat × Nat)
  deficits : List (Nat × Nat)
  postponed : List (Nat × Nat)
  refBank : List (Nat × Nat)
  refDue : List (Nat × Nat)
  doubleRate : List Nat
  paused : List (Nat × Nat)
  scrubAt : Nat
  replays : List (Nat × Nat)
  returned : List (Nat × (Nat × Nat × List Byte))
  selfRefresh : Bool
  exits : List Nat
  blocked : List (Nat × Nat)
  units : List ArcUnit
  zqNext : Nat
  trNext : Nat
  deriving DecidableEq, Repr

/-! ### Editions (R208 to R220) -/

/-- What the edition machine holds beside its registers: per slot the running count at which its drain started, the drain's
length and when it entered EXPIRING, and the IMMEDIATE switch waiting for its T with its command. -/
structure EdSt where
  drainRc : List (Nat × Nat)
  drainLen : List (Nat × Nat)
  expRc : List (Nat × Nat)
  imm : Option (Nat × Cmd)
  deriving DecidableEq, Repr

/-! ### Learning, the table mirror, repairs and the repair fence (R135 to R150) -/

/-- A learn or move request of a pipeline's learn queue (R138, R139): the key, the destination S, the entry's META, whether it is a
move, and the local port whose count it took (none for a LAG source and for a move that took no count). -/
structure LearnReq where
  bd : Nat
  mac : Nat
  dt : Nat
  dest : Nat
  metaV : Nat
  move : Bool
  port : Nat
  inPort : Nat
  deriving DecidableEq, Repr

/-- One copy that the Stable is to make of a frame: its output port and class, next hop and rewrite argument, the mirror session of
a mirror copy, and whether it is the capture copy. -/
structure CopyReq where
  port : Nat
  cls : Nat
  nh : Option Nat
  rwIdx : Nat
  session : Option Nat
  capture : Bool
  deriving DecidableEq, Repr

/-- A frame as the ingress half hands it to the Stable (R230), or as a fence queue holds it with its lookup results (R150). `len` is L once known,
otherwise P; `rxPort` is the port it is still being received on; `mc` is the multicast group whose copy set enqueue computes, with `RW_IDX` and the
local index of the input port (R127); `back` says that it is a fence return (R218); `stored` says that it has a stall already, so that a record of its
drop is taken from there (R301). -/
structure Adm where
  pipe : Nat
  inPort : Nat
  chPort : Nat
  ingPipe : Nat
  bytes : List Byte
  whole : Bool
  len : Nat
  known : Bool
  layout : Nat
  shift : Nat
  ed : Bool
  nextProto : Nat
  fragl : Bool
  pass : Bool
  routed : Bool
  tstate : Nat
  ct : Nat
  rc : Nat
  cont : Option Nat
  rMeta : Nat
  hash : Nat
  finalBd : Nat
  cls : Nat
  icls : Nat
  colour : Nat
  far : Option Nat
  punt : Option Nat
  repair : Option Nat
  direct : Bool
  skip : Bool
  rxPort : Option Nat
  copies : List CopyReq
  mc : Option (Nat × Nat × Nat)
  back : Bool
  adj : Int
  chkLen : Bool
  stored : Bool
  deriving DecidableEq, Repr

/-- An egress copy whose search won a fenced row (R174), held after its search: the copy, its key vector, the results of both shelves, and the table
and index of a winner that failed its parity. -/
structure HeldEg where
  copy : EgCopy
  kv : List Byte
  a : Option Nat
  b : Option Nat
  lost : Option (Nat × Nat)
  deriving DecidableEq, Repr

/-- An open repair (R149): its tag, table, pipeline (15 for a replicated or chip table) and index, how far it has come (0 waiting, 1
mirror read issued, 2 record returned, 3 rewritten with its fences), the mirror it reads, the record returned, the frames punted and
returned per pipeline, the pipelines whose fence is open, the running count at which the fences opened, and the number of mirror
records accepted before its read, which go first. -/
structure Repair where
  tag : Nat
  table : Nat
  pipe : Nat
  index : Nat
  phase : Nat
  host : HostId
  record : Option (List Word)
  punted : List (Nat × Nat)
  returned : List (Nat × Nat)
  fences : List Nat
  rcOpen : Nat
  behind : Nat
  deriving DecidableEq, Repr

/-- A table mirror's queue (R147): its records as words, its next sequence number, and the running count of its last progress. -/
structure MirQ where
  seq : Nat
  queue : List (Nat × List Word)
  running : Bool
  progress : Nat
  deriving DecidableEq, Repr

/-- Learning, ageing, mirrors and repairs: learn queues by pipeline, hit bits as (pipeline, entry), when each pipeline's next age sweep is due
(running count) and whether a timed sweep runs, the last LIMIT_REACHED or LOCK_VIOLATION event per (pipeline, port, type), open repairs, mirror
queues, fence queues by pipeline as (tags of the fences it waits for, frame, pool, stall), the egress copies held by fences with theirs (with none
left a copy goes on), and the bad entries whose repair waits for one of the eight to close, as (table, pipeline, index), and the exact learn count of
each (pipeline, BD), which `BRS_BD_LEARN.COUNT` shows saturated (R138). -/
structure LrnSt where
  queues : List (Nat × List LearnReq)
  hits : List (Nat × Nat)
  ageDue : List (Nat × Nat)
  evtAt : List ((Nat × Nat × Nat) × Nat)
  repairs : List Repair
  mirrors : List (HostId × MirQ)
  held : List (Nat × List (List Nat × Adm × Nat × Nat))
  heldEg : List (Nat × List (List Nat × HeldEg))
  waiting : List (Nat × Nat × Nat)
  bdCnt : List ((Nat × Nat) × Nat)
  deriving DecidableEq, Repr

/-! ### Ration (R274 to R286) -/

/-- Ration beside its registers: the power samples of the present period (sum in mW and number), each pipeline's remaining count, work selected and
G-class work in this period, the head copies deferred (slip, ingress running count and pass, with their work) and the kinds deferred (0 yielders, 1 to
3), the allowances that wait for their load with its running count, the last good periods' work, whether the monitors have failed, for how many
periods in a row the condition of R282 has held, and `RAT_SHED` as it stood at the last load. `sampleAt` is when the next sample is due, `endAt` when
the period ends. -/
structure RatSt where
  sum : Nat
  samples : Nat
  sampleAt : Nat
  endAt : Nat
  remain : List (Nat × Int)
  work : List (Nat × Nat)
  gWork : List (Nat × Nat)
  deferred : List (Nat × List ((Nat × Nat × Bool) × Nat))
  kinds : List (Nat × List Nat)
  next : Option (Nat × List Nat)
  good : List Nat
  failed : Bool
  overRun : Nat
  shed : Nat
  deriving DecidableEq, Repr

/-! ### Boot, tack sets, clocks, crossings, pins (R380 to R397, R420 to R439) -/

/-- One live field's value of a tack set (R394): the register, its bits, the bits of the field that the set's triples give, and the value. -/
structure TackField where
  at_ : RegAt
  hi : Nat
  lo : Nat
  mask : Nat
  value : Nat
  deriving DecidableEq, Repr

/-- A Folio record in progress (R389): its kind, table, pipeline (8 for every one), the items left, the words of one item and, for
entries, the next index. -/
structure FolRec where
  kind : Nat
  table : Nat
  pipe : Nat
  left : Nat
  width : Nat
  index : Nat
  deriving DecidableEq, Repr

/-- Boot and the Folio beside their registers: the straps as sampled (R381), the OTP array with the factory trim once it has been read, the fuses as
the EF9 uses them and the bits programmed since (R382, R383, R449), the headers read of copies A and B, the digest verified (R391), the copy as APPLY
reads it again, since when the boot read in progress has waited and whether it ended in an error response (R426, R427), the size of the first flash
device with whether the second answers (R384), the sections still to apply as (directory entry, words left) with the record in progress and its wait
(BAR0 offset, mask, value, deadline), whether only the short APPLY runs, the tack set of this boot, whether this boot follows the internal reset of
R391, when `SYS_RESET_N` was released, the tack store with the pending values of an armed switch (R394, R395), the byte range of the copy applied as
(device, first byte, length), the flash and fuse operations in progress, and since when the flash operation has been (running count). -/
structure FolSt where
  tackSel : Nat
  hostMode : Nat
  bootSrc : Nat
  otp : Option (Fuses × Nat)
  fuses : Fuses
  burnt : List Nat
  heads : List (List Word)
  digest : Nat
  again : List Word
  readRc : Nat
  readErr : Bool
  flash : Nat × Bool
  secs : List (Nat × List Word)
  rec_ : Option FolRec
  wait : Option (Nat × Nat × Nat × Nat)
  short : Bool
  tack : Nat
  tamper : Bool
  startRc : Nat
  store : List (Nat × TackField)
  pend : List TackField
  range : Option (Nat × Nat × Nat)
  flOp : Option (Nat × Nat × Nat)
  otpOp : Option Nat
  flSince : Nat
  deriving DecidableEq, Repr

/-- An access that waits at a crossing (R426): the crossing, its master code (0 internal), the BAR0 offset, the data of a posted
write, since when (running count), whether the watcher has acted on it, for a boot write the directory entry of its section, and whether the Clerk
has abandoned it, so that its response is discarded (R367). -/
structure Access where
  crossing : Nat
  master : Nat
  offset : Nat
  write : Option Word
  since : Nat
  hung : Bool
  sec : Nat
  late : Bool
  deriving DecidableEq, Repr

/-- What a pulse handshake carries (R424): an MSI-X request of a host's vector, or the setting of a status bit of the course-time registers. -/
inductive Pulse where
  | msi (h : HostId) (vector : Nat)
  | bit (f : Fld) (i b : Nat)
  deriving DecidableEq, Repr

/-- Clocks, links and resets beside their registers: clocks being stopped or started as `CKR_RUN` bit numbers, accesses that wait at crossings, the
times of uncorrectable flits by chiplet, when a down link last tried to train, links whose PLL is out of lock, pulse requests in flight, as (crossing,
request, pending bit) (R424), when FCLK last stopped, and for each crossing of archive and flash requests the latest start of a request on which the
watcher has acted (R426), whether REF_MGMT is lost, whether `SYS_RESET_N` or `PWRGOOD` holds the EF9 in cold reset, and when a warm reset was
requested. -/
structure CkrSt where
  stopping : List Nat
  starting : List Nat
  waits : List Access
  flits : List (Nat × Nat)
  trainAt : List (Nat × Nat)
  pllLost : List Nat
  refLost : Bool
  held : Bool
  warmAt : Option Nat
  pulses : List (Nat × Pulse × Bool)
  fclkOff : Nat
  acted : List (Nat × Nat)
  deriving DecidableEq, Repr

/-- Pins and the test port: whether `FAULT_OUT_N` is low and still held low by reset (R437), the levels driven on `GPIO` outputs, whether the SerDes
transmitters are squelched by a reset, whether VFUSE is at 1.8 V (R383), chiplets and lanes that a reaction at their level squelches (R404), the hosts
whose `PE_PERST_N` is deasserted, the JTAG instruction in force and the bits last shifted out on `TDO`. -/
structure PinSt where
  faultOut : Bool
  outHeld : Bool
  gpio : List (Nat × Bool)
  squelch : Bool
  vfuse : Bool
  chipSafe : List Nat
  laneSafe : List Nat
  perst : List HostId
  jtagSel : Bool
  jtagOp : Option JtagOp
  tdo : List Bool
  deriving DecidableEq, Repr


/-! ### The machine -/

/-- Reasons for which the machine stops with a fault. No command of the table ends in one: every fault that the spec describes
is an event of a source slot (R398), which is state. The constructor is kept for a state that holds a table word of the
wrong width, which no command writes; nothing raises it (safe). -/
inductive Fault where
  /-- Raised by no meaning (safe). -/
  | malformedState
  deriving DecidableEq, Repr

/-- Reasons for which a command has no meaning. -/
inductive Refusal where
  /-- Raised by the dispatcher for a row without a meaning (safe: the machine stops). -/
  | notModelled (mnemonic : String)
  /-- Raised by JTAG_INSTRUCTION for a private test-TAP instruction while DEBUG_LOCK is 0: the spec says only that such
  instructions exist and are Ladulyn's own (R438). Safe: the machine stops where the hardware goes on. -/
  | privateTestInstruction
  deriving DecidableEq, Repr

/-- The state of the EF9. -/
structure State where
  /-- The commands that wait, first in, first out. -/
  pending : List Instr
  /-- The registers of BAR0 whose word differs from, or has replaced, the reset word (R464 to R467). -/
  regs : AMap RegAt Word
  /-- The model's own counter of free values taken (not the spec's). -/
  free : Nat
  /-- The course-time unit (R31 to R61). -/
  tim : TimeSt
  /-- The Clerk (R360 to R379). -/
  clerk : ClerkSt
  /-- The fault collector (R398 to R419). -/
  flt : FaultSt
  /-- The host interface (R324 to R359). -/
  hst : HostSt
  /-- The accounting counters by set, element and counter (R287). -/
  cnts : AMap (Nat × Nat × Nat) Nat
  /-- The counter values saved at the present snapshot epoch (R291). -/
  saved : AMap (Nat × Nat × Nat) Nat
  /-- The course time T of the snapshot whose scan has not ended (R291). -/
  epoch : Option Nat
  /-- The table entries by identifier, pipeline (15 for a replicated or chip table) and entry number (R363); an entry not listed reads as the table's
  reset entry. -/
  tables : AMap (Nat × Nat × Nat) (List Word)
  /-- The ports beside their registers (R63 to R84). -/
  ports : PortSt
  /-- The frames inside: MACs, loops, the Stable, the Harnesses (R13 to R27, R196 to R270). -/
  fwd : FwdSt
  /-- The Archive (R287 to R306). -/
  arc : ArcSt
  /-- The DDR5 controller (R308 to R323). -/
  drm : DramSt
  /-- The edition machine beside its registers (R208 to R220). -/
  ed : EdSt
  /-- Learning, ageing, mirrors, repairs and fences (R135 to R150). -/
  lrn : LrnSt
  /-- Ration beside its registers (R274 to R286). -/
  rat : RatSt
  /-- Boot, the Folio and tack sets beside their registers (R380 to R397). -/
  fol : FolSt
  /-- Clocks, crossings, links and resets beside their registers (R420 to R432). -/
  ckr : CkrSt
  /-- Pins and the JTAG port (R404, R405, R437, R438). -/
  pin : PinSt
  deriving DecidableEq, Repr

/-- The course-time unit at reset (R38: 0.000 000 000; R33: the nominal word). -/
def TimeSt.reset : TimeSt where
  ct := 0
  rc := 0
  now := 0
  rcBase := 0
  freq := 0x1000000000000
  pend := none
  edge := none
  lastAcc := none
  holdEdge := none
  tod := []
  todCheck := []
  gpioLast := []
  gpioOut := []
  trigs := []
  calRun := []
  calRes := []
  rxDly := []
  txDly := []
  ppsOut := false
  ppsRc := 0
  todDue := false
  todTx := []
  jobs := []

/-- The Clerk at reset: nothing fetched, nothing running, no patch, and the sequencer at address 0 (R374 states no start: DESIGN CHOICE, assumption
log 28). -/
def ClerkSt.reset : ClerkSt where
  fetched := []
  work := .idle
  chunked := []
  hold := []
  seq := 0
  priRun := 0
  rotPri := 0
  rotNorm := 0
  sweeps := []
  resyncs := []
  forgets := []
  patches := []
  storeRam := []
  shadow := false
  upc := 0
  stepStart := none
  stepHeld := false
  overran := false
  regOk := false
  stopped := false
  stops := []
  voids := []
  tawLeft := []

/-- The fault collector at reset: nothing waiting, no domain with a reaction, no masked input. -/
def FaultSt.reset : FaultSt where
  crossing := []
  windows := []
  doms := []
  present := []
  order := 0
  inputs := []
  marks := []
  nextMarks := []
  dayQ := []

/-- The host interface at reset: gates closed, every queue empty, no host lost. -/
def HostSt.reset : HostSt where
  held := []
  gates := []
  round := (0, [])
  rejects := []
  rejLost := false
  cas := []
  compl := []
  events := []
  posted := []
  bufState := []
  chans := []
  doorbell := []
  msix := []
  pba := []
  out := []
  turns := []
  readData := []
  lost := []
  intN := true
  alertN := true
  sbBad := 0
  sbAck := true
  sbTx := []

/-- The ports at reset: no timer, no walk, no pause, nothing in transmission. -/
def PortSt.reset : PortSt where
  holdUp := []
  downHold := []
  walks := []
  pause := []
  stormAt := []
  pauseAcc := []
  restoreAt := []
  xoffAt := []
  xoffRem := []
  pfcDue := []
  pfcRepeat := []
  tsFifo := []
  tsOvf := []
  safe := []
  txWait := []
  txNow := []
  lastTx := []
  octAt := []
  octFec := []
  gates := []

/-- The forwarding path at reset: nothing inside, every bucket full (R253, R256), and no recirculation credit, of which R14
gives no reset value (DESIGN CHOICE, assumption log 49). -/
def FwdSt.reset : FwdSt where
  rx := []
  loops := []
  inject := []
  credit := []
  stalls := []
  slips := []
  broken := []
  linkFifo := []
  queues := []
  sel := []
  rounds := []
  curbs := []
  reins := []

/-- The Archive at reset: counters 0, no snapshot, no flow, empty rings, a full capture bucket of 4,096 (R301). -/
def ArcSt.reset : ArcSt where
  mem := []
  snapHead := 0
  snapUsed := 0
  snaps := []
  snapSeq := 0
  snapSkipped := 0
  scan := none
  resid := []
  lastSnap := []
  lastMask := 0
  restored := 0
  flows := []
  flowNext := []
  flowTok := []
  ledHead := 0
  ledUsed := 0
  capSeq := 0
  capHead := 0
  capHeld := 0
  capPost := 0
  capTok := 4096 * (1000000000 * 2 ^ 48)
  capTokRc := 0
  expPos := []

/-- The DDR5 controller at reset: nothing queued, nothing trained. -/
def DramSt.reset : DramSt where
  queues := []
  waiting := []
  openRow := []
  writing := []
  lastBg := []
  deficits := []
  postponed := []
  refBank := []
  refDue := []
  doubleRate := []
  paused := []
  scrubAt := 0
  replays := []
  returned := []
  selfRefresh := false
  exits := []
  blocked := []
  units := []
  zqNext := 0
  trNext := 0

/-- The edition machine at reset. -/
def EdSt.reset : EdSt where
  drainRc := []
  drainLen := []
  expRc := []
  imm := none

/-- Learning at reset: no request, no hit bit (R140), no repair, mirrors off. -/
def LrnSt.reset : LrnSt where
  queues := []
  hits := []
  ageDue := []
  evtAt := []
  repairs := []
  mirrors := []
  held := []
  heldEg := []
  waiting := []
  bdCnt := []

/-- Ration at reset: no sample, nothing selected, no allowance loaded. -/
def RatSt.reset : RatSt where
  sum := 0
  samples := 0
  sampleAt := 0
  endAt := 0
  remain := []
  work := []
  gWork := []
  deferred := []
  kinds := []
  next := none
  good := []
  failed := false
  overRun := 0
  shed := 0x00203040

/-- Boot at reset: nothing sampled, read or applied; tack set 7 (`FOL_BOOT_STATUS.TACK` reads 7). -/
def FolSt.reset : FolSt where
  tackSel := 7
  hostMode := 0
  bootSrc := 0
  otp := none
  fuses := ⟨false, false, [], 0, 0, [], []⟩
  burnt := []
  heads := []
  digest := 0
  again := []
  readRc := 0
  readErr := false
  flash := (0, false)
  secs := []
  rec_ := none
  wait := none
  short := false
  tack := 7
  tamper := false
  startRc := 0
  store := []
  pend := []
  range := none
  flOp := none
  otpOp := none
  flSince := 0

/-- Clocks at reset: nothing waits. -/
def CkrSt.reset : CkrSt where
  stopping := []
  starting := []
  waits := []
  flits := []
  trainAt := []
  pllLost := []
  refLost := false
  held := true
  warmAt := none
  pulses := []
  fclkOff := 0
  acted := []

/-- Pins at reset (R437): `FAULT_OUT_N` low, transmitters squelched, the 1149.1 TAP with IDCODE. -/
def PinSt.reset : PinSt where
  faultOut := true
  outHeld := true
  gpio := []
  squelch := true
  vfuse := false
  chipSafe := []
  laneSafe := []
  perst := []
  jtagSel := false
  jtagOp := some .idcode
  tdo := []


/-- The machine right after reset, as the spec gives it: every register at its reset value (a register the map does not list
reads `Reg.resetWord`), every memory and queue empty, course time 0 (R38), boot in state RESET (R380). -/
def State.reset : State where
  pending := []
  regs := []
  free := 0
  tim := .reset
  clerk := .reset
  flt := .reset
  hst := .reset
  cnts := []
  saved := []
  epoch := none
  tables := []
  ports := .reset
  fwd := .reset
  arc := .reset
  drm := .reset
  ed := .reset
  lrn := .reset
  rat := .reset
  fol := .reset
  ckr := .reset
  pin := .reset

end Sys2Proof.Machine
end

