-- ==== Sys2Proof/Machine/Ops.lean ====
section
/-! DEFINITION. The named operations over the state that every family uses: registers and their fields, counters, course time,
events, completions, and raising a fault. -/
namespace Sys2Proof.Machine

/-- What a command answers. -/
abbrev Out := Host.Outcome State Fault Refusal

/-! ### Registers -/

/-- The word of a register: as stored, or its reset word. -/
def State.rg (s : State) (r : Reg) (p i j k : Nat := 0) : Word :=
  AMap.getD s.regs ⟨r, p, i, j, k⟩ (r.resetWord p i)

/-- The state with a register's word replaced. -/
def State.setRg (s : State) (r : Reg) (w : Word) (p i j k : Nat := 0) : State :=
  { s with regs := AMap.set s.regs ⟨r, p, i, j, k⟩ w }

/-- The value of a register field. -/
def State.rd (s : State) (f : Fld) (p i j k : Nat := 0) : Nat :=
  bitsOf (s.rg f.reg p i j k).toNat f.hi f.lo

/-- The state with a register field replaced, the value cut to the field's width. -/
def State.wr (s : State) (f : Fld) (v : Nat) (p i j k : Nat := 0) : State :=
  s.setRg f.reg (word (setBits (s.rg f.reg p i j k).toNat f.hi f.lo v)) p i j k

/-- A one-bit field as a Bool. -/
def State.on (s : State) (f : Fld) (p i j k : Nat := 0) : Bool := s.rd f p i j k == 1

/-- Adds to a saturating field. -/
def State.addSat (s : State) (f : Fld) (n : Nat) (p i j k : Nat := 0) : State :=
  s.wr f (satAdd (2 ^ (f.hi + 1 - f.lo) - 1) (s.rd f p i j k) n) p i j k

/-- Adds to a wrapping field. -/
def State.addWrap (s : State) (f : Fld) (n : Nat) (p i j k : Nat := 0) : State :=
  s.wr f (s.rd f p i j k + n) p i j k

/-- Subtracts from a field, stopping at 0. -/
def State.sub (s : State) (f : Fld) (n : Nat) (p i j k : Nat := 0) : State :=
  s.wr f (s.rd f p i j k - n) p i j k

/-- A value the spec leaves open, and the state that has taken it (assumption log 3). -/
def State.takeFree (s : State) : Word × State :=
  (Config.freeWord s.free, { s with free := s.free + 1 })

/-! ### Course time (R31) -/

/-- Units of course time in one nanosecond: the accumulator keeps 48 fraction bits (R33). -/
def nsU : Nat := 2 ^ 48

/-- Nanoseconds in one second. -/
def nsPerSec : Nat := 1000000000

/-- A duration in nanoseconds as course-time units. -/
def ns (n : Nat) : Nat := n * nsU

/-- The NS field of a course time. -/
def ctNs (t : Nat) : Nat := t / nsU % nsPerSec

/-- The SEC field of a course time. -/
def ctSec (t : Nat) : Nat := t / nsU / nsPerSec

/-- The FRAC field of a course time: the upper 16 of its 48 fraction bits (R33). -/
def ctFrac (t : Nat) : Nat := t % nsU / 2 ^ 32

/-- The three words of a course time in the layout of R31. -/
def ctWords (t : Nat) : List Word :=
  [word (ctNs t), word (ctSec t), word (ctSec t / 2 ^ 32 % 2 ^ 16 + ctFrac t * 2 ^ 16)]

/-- The course time that three words give, refused when NS is above 999,999,999 (R32). -/
def ctOfWords (w0 w1 w2 : Word) : Option Nat :=
  if w0.toNat < nsPerSec then
    some (ns ((w1.toNat + 2 ^ 32 * (w2.toNat % 2 ^ 16)) * nsPerSec + w0.toNat) + (w2.toNat / 2 ^ 16) * 2 ^ 32)
  else none

/-- A timestamp at the resolution of 62.5 ps: FRAC bits [11:0] are 0 (R50). -/
def stamp (t : Nat) : Nat := t - t % 2 ^ 44

/-- The course-time state: 0 UNSET, 1 HOLDOVER, 2 LOCKED. -/
def State.tstate (s : State) : Nat := s.rd fTIM_STATUS_STATE

/-- Course time now. -/
def State.ct (s : State) : Nat := s.tim.ct

/-- The running count now. -/
def State.rc (s : State) : Nat := s.tim.rc

/-! ### Counters (R287, R291) -/

/-- The next T of the snapshot triggers that are armed. -/
def State.snapDue (s : State) : Option Nat := ((s.tim.trigs.filter (·.kind == .snapshot)).map (·.at_)).min?

/-- Whether an event is before the T of the snapshot whose scan has not ended (R291): its counting time is before T, and it passed its counting point,
at the running count `rc`, before any backward move of course time since the firing. An event that such a move gives a time below T comes after the
snapshot: no step undoes a fired trigger (R56), and the edition switch at the same T judges it so too (R58, R212; DESIGN CHOICE against the bare words
of R291, assumption log 48). -/
def State.beforeT (s : State) (e t rc : Nat) : Bool :=
  decide (t < e) && (match s.arc.scan with | some x => x.back.all fun b => decide (rc < b) | none => true)

/-- Adds n to a counter with a counting time, course time and running count. After the epoch change of a snapshot at T the first update saves the
counter first, and an update before T is added to the saved value too (R291). A counter block changes epoch at T itself, so an update
counted at or after the T of an armed snapshot saves the counter although its firing is still to come. -/
def State.countAt (s : State) (set elem idx n t : Nat) (rc : Nat := s.tim.rc) : State :=
  let key := (set, elem, idx)
  let live := AMap.getD s.cnts key 0
  let old := AMap.getD s.saved key live
  let s' := { s with cnts := AMap.set s.cnts key (live + n) }
  match s.epoch with
  | some e => { s' with saved := AMap.set s.saved key (if s.beforeT e t rc then old + n else old) }
  | none =>
    match s.snapDue with
    | some e =>
      if t < e ∧ (AMap.get? s.saved key).isNone then s'
      else { s' with saved := AMap.set s.saved key (if t < e then old + n else old) }
    | none => s'

/-- Adds n to a counter, counting now. -/
def State.count (s : State) (set elem idx n : Nat) : State := s.countAt set elem idx n s.tim.ct

/-- Counts a duration that ends now, in whole nanoseconds: it is split exactly at the T of a snapshot that has been reached and has not fired
yet (R288, R291). -/
def State.countTime (s : State) (set elem idx d : Nat) : State :=
  let n := d / nsU
  match s.epoch, s.snapDue with
  | none, some e =>
    let after := min n ((s.tim.ct - e) / nsU)
    if after = 0 then s.countAt set elem idx n (min s.tim.ct (e - 1))
    else (s.countAt set elem idx (n - after) (e - 1)).countAt set elem idx after s.tim.ct
  | _, _ => s.countAt set elem idx n s.tim.ct

/-- The live value of a counter (R289). -/
def State.cnt (s : State) (set elem idx : Nat) : Nat := AMap.getD s.cnts (set, elem, idx) 0

/-- Counts one event in a pipeline's BLOCK counter, by base + index (R287). -/
def State.blk (s : State) (p idx : Nat) (n : Nat := 1) : State := s.count 14 (p * 1024 + idx) 0 n

/-! ### Channels and events (R329, R331, R349) -/

/-- The global channel number of a host's local channel (R329). -/
def chanOf (h : HostId) (l : Nat) : Nat := 16 * (l % 4) + 8 * h.num + l / 4

/-- The size of a ring in entries (R330). -/
def State.ringSize (s : State) (c : Nat) : Nat := 2 ^ s.rd fHST_CH_CFG_LOG2_SIZE 0 c

/-- The entries of an EF9-written ring that software has not consumed: producer minus consumer, modulo 2^32 (R331). -/
def State.ringUsed (s : State) (c : Nat) : Nat :=
  (s.rd fHST_CH_DEV_IDX_IDX 0 c + 2 ^ 32 - s.rd fHST_CH_HOST_IDX_IDX 0 c) % 2 ^ 32

/-- The events that wait for a host's event ring. -/
def State.eventsOf (s : State) (h : HostId) : List (List Word) := AMap.getD s.hst.events h []

/-- Adds to a counter of R357 of a host (kept as set 16 of the counter store). -/
def State.hcount (s : State) (h : HostId) (i : Nat) (n : Nat := 1) : State := s.count 16 h.num i n

/-- Offers an event record to one host's event ring: kept when the ring is enabled and has room, otherwise discarded. A discard is
counted in learning counter 13 of the record's pipeline (R143, R151, R349), of pipeline 0 when no pipeline applies. -/
def State.eventTo (s : State) (h : HostId) (rec_ : List Word) : State :=
  let c := chanOf h 14
  if s.on fHST_CH_CFG_EN 0 c then
    if s.ringUsed c + (s.eventsOf h).length < s.ringSize c then
      { s with hst := { s.hst with events := AMap.set s.hst.events h (s.eventsOf h ++ [rec_]) } }
    else
      let p := bitsOf (rec_.getD 0 0).toNat 11 8
      s.blk (if p < 8 then p else 0) (160 + 13)
  else s

/-- An event record in the form of R349: type, pipeline (15 when none applies), time state, further bits of word 0, words 1 to
4 and the course time in words 5 to 7. -/
def State.eventRec (s : State) (ty pipe x w1 w2 w3 w4 t : Nat) : List Word :=
  [word (ty + pipe * 2 ^ 8 + s.tstate * 2 ^ 12 + x), word w1, word w2, word w3, word w4] ++ ctWords t

/-- Sends an event to the event ring of each host whose ring is enabled (R349). -/
def State.event (s : State) (ty : Nat) (pipe : Nat := 15) (w1 w2 w3 w4 : Nat := 0) (x : Nat := 0) : State :=
  let r := s.eventRec ty pipe x w1 w2 w3 w4 s.tim.ct
  (s.eventTo .a r).eventTo .b r

/-- Sends an event that carries a course time other than now. -/
def State.eventAt (s : State) (ty pipe w1 w2 t : Nat) : State :=
  let r := s.eventRec ty pipe 0 w1 w2 0 0 t
  (s.eventTo .a r).eventTo .b r

/-! ### Periodic jobs, and pulse handshakes (R423, R424) -/

/-- Whether a job has a run due: a period has passed since its last one. -/
def State.jobDue (s : State) (j : Job) (i len : Nat) : Bool :=
  match AMap.get? s.tim.jobs (j, i) with
  | some t => decide (t + len ≤ s.tim.rc)
  | none => true

/-- A job runs now. -/
def State.jobRun (s : State) (j : Job) (i : Nat) : State := { s with tim := { s.tim with jobs := AMap.set s.tim.jobs (j, i) s.tim.rc } }

/-- Runs a job when a run is due; before that nothing happens. -/
def State.periodic (s : State) (j : Job) (i len : Nat) (run : State → State) : State := if s.jobDue j i len then run (s.jobRun j i) else s

/-- A pulse at a crossing (R424), and whether it is delivered now: with a request in flight it sets the pending bit, and with that set it adds
1 to `MERGED`. -/
def State.pulse (s : State) (x : Nat) (w : Pulse) : State × Bool :=
  let rest := s.ckr.pulses.filter fun q => !(q.1 == x && q.2.1 == w)
  match s.ckr.pulses.find? fun q => q.1 == x && q.2.1 == w with
  | none => ({ s with ckr := { s.ckr with pulses := rest ++ [(x, w, false)] } }, true)
  | some q =>
    if q.2.2 then (s.addSat fCKR_XSTATUS_MERGED 1 0 x, false)
    else ({ s with ckr := { s.ckr with pulses := rest ++ [(x, w, true)] } }, false)

/-- Sets bit b of a field that the TCLK side reports to the register block, through crossing 5 (R423, R425). -/
def State.timBit (s : State) (f : Fld) (i b : Nat) : State :=
  let r := s.pulse 5 (.bit f i b)
  if r.2 then r.1.wr f (r.1.rd f 0 i ||| 2 ^ b) 0 i else r.1

/-! ### Faults: what a block does (R399, R401) -/

/-- One cycle of MCLK in units of course time (R420). -/
def mclkLen : Nat := ns 10

/-- Whether two entries reach the collector as one count (R401): events of a slot and of one domain in one cycle of MCLK. -/
def Crossing.joins (c d : Crossing) : Bool :=
  c.slot == d.slot && c.forced == d.forced && c.ct / mclkLen == d.ct / mclkLen && slotDomain c.slot c.detail == slotDomain d.slot d.detail

/-- Raises n events of a slot, on their way to the collector (R401). -/
def State.raiseSlot (s : State) (slot n detail : Nat) (forced : Bool := false) : State :=
  let e : Crossing := ⟨slot, n, detail, forced, s.tim.ct, s.tstate⟩
  let cnt := match s.flt.crossing.find? e.joins with | some c => c.count + n | none => n
  let rest := s.flt.crossing.filter fun c => !e.joins c
  { s with flt := { s.flt with crossing := rest ++ [{ e with count := cnt }] } }

/-- Raises one event of a source kind at instance x, with the detail its block captures. -/
def State.raise (s : State) (k : FKind) (x : Nat := 0) (detail : Nat := 0) : State := s.raiseSlot (slotOf k x) 1 detail

/-- The domain of a slot: fixed, or programmed for FLT_IN and FLT_GPIO_IN (R398, R414). -/
def State.slotDom (s : State) (slot detail : Nat) : Nat :=
  if slot = 70 then s.rd fFLT_IN_CFG_DOMAIN
  else if 71 ≤ slot ∧ slot ≤ 86 then s.rd fFLT_GPIO_DOM_DOMAIN 0 (slot - 71)
  else slotDomain slot detail

/-- Whether a level source is present, of itself or forced (R416: a forced one is kept as slot + 4,096). -/
def State.isPresent (s : State) (slot : Nat) : Bool := slot ∈ s.flt.present || slot + 4096 ∈ s.flt.present

/-- A level source becomes present: one event, and it stays present (R399). A source already present raises nothing more. -/
def State.levelOnSlot (s : State) (slot : Nat) (detail : Nat := 0) (forced : Bool := false) : State :=
  let key := if forced then slot + 4096 else slot
  if key ∈ s.flt.present then s
  else
    let was := s.isPresent slot
    let s := { s with flt := { s.flt with present := key :: s.flt.present } }
    if was then s else s.raiseSlot slot 1 detail forced

/-- Whether a level source of a domain is present. A slot that is off only counts (R402). -/
def State.levelIn (s : State) (dom : Nat) : Bool :=
  s.flt.present.any fun o => s.on fFLT_SRC_CFG_EN 0 (o % 4096) && s.slotDom (o % 4096) 0 == dom

/-- The quiet period of a domain starts, if it has no level source present any more (R411). -/
def State.quietFrom (s : State) (d : Nat) : State :=
  if s.levelIn d then s
  else { s with flt := { s.flt with doms := s.flt.doms.map fun x => if x.id = d then { x with quietRc := s.tim.rc } else x } }

/-- A level source ends; its domain's quiet period starts when it was the domain's last (R411). -/
def State.levelOffSlot (s : State) (slot : Nat) (forced : Bool := false) : State :=
  let key := if forced then slot + 4096 else slot
  if key ∈ s.flt.present then
    let left := s.flt.present.filter (· != key)
    { s with flt := { s.flt with present := left } }.quietFrom (s.slotDom slot 0)
  else s

/-- A level source of kind k at instance x becomes present. -/
def State.levelOn (s : State) (k : FKind) (x : Nat := 0) (detail : Nat := 0) : State :=
  s.levelOnSlot (slotOf k x) detail

/-- A level source of kind k at instance x ends. -/
def State.levelOff (s : State) (k : FKind) (x : Nat := 0) : State := s.levelOffSlot (slotOf k x)

/-- Whether a domain holds a SAFE reaction (R404). -/
def State.domSafe (s : State) (id : Nat) : Bool := s.flt.doms.any fun d => d.id == id && d.live && d.act == 1

/-- Whether a pipeline is in the safe state, by its own domain, its chiplet's or the chip's (R404). -/
def State.pipeSafe (s : State) (p : Nat) : Bool :=
  s.domSafe (domainOf 2 p) || s.domSafe (domainOf 3 p) || s.domSafe chipDomain

/-! ### Memory words whose check bits are inverted (R417) -/

/-- Whether a memory word carries a corruption, and whether it is a double one: (checker, pipeline, replica, index). -/
def State.marked (s : State) (ck p rep idx : Nat) : Option Bool :=
  (s.flt.marks.find? fun m => m.1 == ck && m.2.1 == p && m.2.2.1 == rep && m.2.2.2.1 == idx).map (·.2.2.2.2)

/-- Removes a corruption: the word has been rewritten. -/
def State.unmark (s : State) (ck p rep idx : Nat) : State :=
  { s with flt := { s.flt with
      marks := s.flt.marks.filter fun m => !(m.1 == ck && m.2.1 == p && m.2.2.1 == rep && m.2.2.2.1 == idx) } }

/-- Places a corruption. -/
def State.mark (s : State) (ck p rep idx : Nat) (dbl : Bool) : State :=
  let s := s.unmark ck p rep idx
  { s with flt := { s.flt with marks := (ck, p, rep, idx, dbl) :: s.flt.marks } }

/-- What a write does to the check bits of the word written, in every replica: they are good again, unless a NEXT-mode injection is
armed for the memory, which corrupts this write in its replica and is spent (R417). -/
def State.wroteWord (s : State) (ck p idx : Nat) : State :=
  let s := { s with flt := { s.flt with
      marks := s.flt.marks.filter fun m => !(m.1 == ck && m.2.1 == p && m.2.2.2.1 == idx) } }
  match s.flt.nextMarks.find? fun m => m.1 == ck && m.2.1 == p with
  | some m =>
    let s := { s with flt := { s.flt with nextMarks := s.flt.nextMarks.filter (· != m) } }
    s.mark ck p m.2.2.1 idx m.2.2.2
  | none => s

/-- Whether a replica's word fails its check. -/
def State.bad (s : State) (ck p rep idx : Nat) : Bool := (s.marked ck p rep idx).isSome

/-! ### Completions (R338, R340, R369, R373) -/

/-- The opcode of a command. -/
def Cmd.opcode (c : Cmd) : Nat := bitsOf ((c.words.getD 0 0).toNat) 7 0

/-- A word of a command. -/
def Cmd.w (c : Cmd) (i : Nat) : Nat := (c.words.getD i 0).toNat

/-- The master that a command carries (R352). -/
def CmdSrc.master : CmdSrc → Master
  | .ring h _ => h.master
  | .taw m => m

/-- The hold queue of a ring. -/
def State.holdOf (s : State) (src : CmdSrc) : List HoldEnt := AMap.getD s.clerk.hold src []

/-- Puts a completion in the queue of its completion ring; it is discarded where that ring is off or its host lost (R328, R337). -/
def State.postRing (s : State) (src : CmdSrc) (c : Completion) : State :=
  match src with
  | .taw _ => s
  | .ring h pr =>
    if s.on fHST_CH_CFG_EN 0 (chanOf h (if pr then 3 else 2)) && !(h ∈ s.hst.lost) then
      { s with hst := { s.hst with compl := AMap.set s.hst.compl src (AMap.getD s.hst.compl src [] ++ [c]) } }
    else s

/-- The completions at the front of a hold queue that may now be posted, and the rest. -/
def splitDone : List HoldEnt → List Completion × List HoldEnt
  | .done _ c :: t => let r := splitDone t; (c :: r.1, r.2)
  | l => ([], l)

/-- Posts every completion at the front of a ring's hold queue, in order (R369). -/
def State.flushHold (s : State) (src : CmdSrc) : State :=
  let r := splitDone (s.holdOf src)
  let s := { s with clerk := { s.clerk with hold := AMap.set s.clerk.hold src r.2 } }
  r.1.foldl (fun s c => s.postRing src c) s

/-- Whether a command began before its host was last lost, so that its completion is discarded (R328). -/
def State.voided (s : State) (c : Cmd) : Bool := decide (c.seq < AMap.getD s.clerk.voids c.src 0)

/-- Counts a completed command or window operation of its master (`CLE_CMD_COUNT`, `CLE_CMD_FAIL`). -/
def State.countCmd (s : State) (m : Master) (status : Nat) : State :=
  let s := s.addSat fCLE_CMD_COUNT_COUNT 1 0 m.num
  if status = 0 then s else s.addSat fCLE_CMD_FAIL_COUNT 1 0 m.num

/-- The data buffer of window j as a completed operation leaves it, which reads return during the next one (R373). -/
def State.tawKeep (s : State) (j : Nat) : State :=
  let buf := (List.range 128).map fun k => s.rg .CLE_TAW_DATA 0 j k
  { s with clerk := { s.clerk with tawLeft := AMap.set s.clerk.tawLeft j buf } }

/-- Completes a command. A window's operation writes STATUS and RESULT, sets DONE and clears BUSY (R373). A ring's completion
enters the ring's hold queue in its place and is posted when every earlier one has been (R340, R369); a voided one is discarded. -/
def State.complete (s : State) (c : Cmd) (status : Nat) (res2 : Nat := 0) (res3 : Nat := 0) : State :=
  let s := s.countCmd c.src.master status
  match c.src with
  | .taw m =>
    let s := ((s.wr fCLE_TAW_CTRL_STATUS status 0 m.num).wr fCLE_TAW_CTRL_DONE 1 0 m.num).wr fCLE_TAW_CTRL_BUSY 0 0 m.num
    let s := s.tawKeep m.num
    (s.setRg .CLE_TAW_RESULT (word res2) 0 m.num 0).setRg .CLE_TAW_RESULT (word res3) 0 m.num 1
  | .ring _ _ =>
    let cpl : Completion := ⟨c.opcode, status, c.words.getD 1 0, word res2, word res3⟩
    let q := s.holdOf c.src
    let q' :=
      if s.voided c then q.filter (· != .waiting c.seq)
      else if q.any (fun e => e == HoldEnt.waiting c.seq) then q.map fun e => if e = HoldEnt.waiting c.seq then .done c.seq cpl else e
      else q ++ [.done c.seq cpl]
    ({ s with clerk := { s.clerk with hold := AMap.set s.clerk.hold c.src q' } }).flushHold c.src

/-- Ends a command's step before its completion is due (R369): the completion keeps its place in the ring's order. -/
def State.defer (s : State) (c : Cmd) : State :=
  match c.src with
  | .taw _ => s
  | .ring _ _ => { s with clerk := { s.clerk with hold := AMap.set s.clerk.hold c.src (s.holdOf c.src ++ [.waiting c.seq]) } }

/-- Completion status codes (R339). -/
def stOK : Nat := 0
def stNOT_FOUND : Nat := 1
def stEXISTS : Nat := 2
def stFULL : Nat := 3
def stCONFLICT : Nat := 4
def stBAD_ARGS : Nat := 5
def stHALTED : Nat := 6
def stPARITY : Nat := 7
def stTIMEOUT : Nat := 8
def stNOT_ARMED : Nat := 9
def stAUTH_FAIL : Nat := 10

end Sys2Proof.Machine
end

