-- ==== Sys2Proof/Machine/Tables.lean ====
section
/-! DEFINITION. The tables of R363: their identifiers, sizes and widths, the entry an index holds, the basic set-up that reset leaves
(R248, R259), and reading fields of an entry. -/
namespace Sys2Proof.Machine

/-- Where a table is held (R363): in each pipeline, replicated, or once for the chip. -/
inductive Held where
  | pipe | rep | chip
  deriving DecidableEq, Repr

/-- One row of the table of R363: where it is held, its entries, its words, and the checker of R417 that guards it. -/
structure TblInfo where
  held : Held
  entries : Nat
  words : Nat
  checker : Nat
  readOnly : Bool
  deriving DecidableEq, Repr

/-- The tables by identifier (R363, R417). Identifiers not listed are reserved. -/
def tblInfo : Nat → Option TblInfo
  | 0x01 => some ⟨.pipe, 64, 8, 0x01, false⟩
  | 0x02 => some ⟨.pipe, 64, 40, 0x02, false⟩
  | 0x08 => some ⟨.pipe, 32, 5, 0x03, false⟩
  | 0x09 => some ⟨.pipe, 143360, 1, 0x04, false⟩
  | 0x0A => some ⟨.rep, 16384, 4, 0x05, false⟩
  | 0x0B => some ⟨.rep, 4096, 3, 0x06, false⟩
  | 0x0C => some ⟨.pipe, 532480, 3, 0x07, false⟩
  | 0x0D => some ⟨.chip, 1064960, 5, 0x09, false⟩
  | 0x0E => some ⟨.chip, 1048576, 8, 0x0B, false⟩
  | 0x0F => some ⟨.rep, 16384, 4, 0x0C, false⟩
  | 0x10 => some ⟨.rep, 4096, 1, 0x0D, false⟩
  | 0x11 => some ⟨.rep, 65536, 1, 0x0E, false⟩
  | 0x12 => some ⟨.rep, 1024, 97, 0x0F, false⟩
  | 0x13 => some ⟨.rep, 16384, 14, 0x10, false⟩
  | 0x18 => some ⟨.pipe, 16, 18, 0x11, false⟩
  | 0x19 => some ⟨.pipe, 16, 18, 0x11, false⟩
  | 0x1A => some ⟨.pipe, 12288, 23, 0x12, false⟩
  | 0x1B => some ⟨.pipe, 4096, 23, 0x13, false⟩
  | 0x20 => some ⟨.pipe, 8192, 8, 0x16, false⟩
  | 0x21 => some ⟨.rep, 32768, 17, 0x17, false⟩
  | 0x22 => some ⟨.rep, 16384, 1, 0x18, false⟩
  | 0x28 => some ⟨.pipe, 264, 1, 0x1E, false⟩
  | 0x29 => some ⟨.pipe, 8192, 8, 0x1F, false⟩
  | 0x2A => some ⟨.pipe, 2048, 8, 0x1F, false⟩
  | 0x2B => some ⟨.pipe, 33, 8, 0x1F, false⟩
  | 0x2C => some ⟨.pipe, 32768, 8, 0x20, false⟩
  | 0x2D => some ⟨.pipe, 8192, 8, 0x20, false⟩
  | 0x2E => some ⟨.pipe, 32, 8, 0x20, false⟩
  | 0x2F => some ⟨.pipe, 16384, 2, 0x21, false⟩
  | 0x38 => some ⟨.chip, 524288, 8, 0x1A, true⟩
  | 0x39 => some ⟨.chip, 1048576, 4, 0x1B, true⟩
  | _ => none

/-- The pipeline part of a table's key: the pipeline of a per-pipeline table, 15 otherwise (R145). -/
def tblPipe (t p : Nat) : Nat :=
  match tblInfo t with
  | some i => if i.held = .pipe then p else 15
  | none => p

/-- n words of zeros. -/
def zeros (n : Nat) : List Word := List.replicate n 0

/-- The entry that reset leaves at an index: the basic set-up of the Harness (R248), the punt reins (R259), and zeros elsewhere
(no other table has a reset value: DESIGN CHOICE, assumption log 6). -/
def tblReset (t i : Nat) : List Word :=
  match t with
  | 0x28 => [word (8 * (i / 8) + i % 8)]
  | 0x29 =>
    if i < 264 then
      [word (i / 8 + (i % 8) * 2 ^ 11 + 2 ^ 14 + 1 * 2 ^ 16)] ++ zeros 7
    else [word (1 * 2 ^ 16)] ++ zeros 7
  | 0x2A => [word ((if i ≤ 32 then i else 0) + 1 * 2 ^ 16)] ++ zeros 7
  | 0x2E => [word (1 + 2 ^ 3 + 2 ^ 7), word 62500, 0, 0, 0, word 64, 0, 0]
  | _ => zeros (match tblInfo t with | some x => x.words | none => 0)

/-- The entry of a table at a pipeline and index. -/
def State.ent (s : State) (t p i : Nat) : List Word :=
  (AMap.get? s.tables (t, tblPipe t p, i)).getD (tblReset t i)

/-- A field of an entry: word w, bits hi to lo. -/
def entF (e : List Word) (w hi lo : Nat) : Nat := bitsOf ((e.getD w 0).toNat) hi lo

/-- A one-bit field of an entry as a Bool. -/
def entB (e : List Word) (w b : Nat) : Bool := entF e w b b == 1

/-- An entry with a field replaced. -/
def entSet (e : List Word) (w hi lo v : Nat) : List Word :=
  e.set w (word (setBits ((e.getD w 0).toNat) hi lo v))

/-- The checkers of R417 that guard an entry, with the index that each knows it by: buckets and overflow entries of the hashed stores
have one each, a Catalogue row has one for its row and one for its result, and where one checker covers several tables their
entries follow one another in the order of R363. -/
def entChecks (t i : Nat) : List (Nat × Nat) :=
  match t with
  | 0x0C => [(if i < 524288 then 0x07 else 0x08, i)]
  | 0x0D => [(if i < 1048576 then 0x09 else 0x0A, i)]
  | 0x19 => [(0x11, i + 16)]
  | 0x1A => [(0x12, i), (0x14, i)]
  | 0x1B => [(0x13, i), (0x15, i)]
  | 0x2A => [(0x1F, i + 8192)]
  | 0x2B => [(0x1F, i + 10240)]
  | 0x2D => [(0x20, i + 32768)]
  | 0x2E => [(0x20, i + 40960)]
  | _ => match tblInfo t with | some x => [(x.checker, i)] | none => []

/-- The state with an entry written: its check bits are good in every replica, or corrupted by an armed NEXT-mode injection (R417). -/
def State.setEnt (s : State) (t p i : Nat) (e : List Word) : State :=
  let s := { s with tables := AMap.set s.tables (t, tblPipe t p, i) e }
  (entChecks t i).foldl (fun s c => s.wroteWord c.1 (tblPipe t p) c.2) s

/-- The state with an entry back at what reset leaves. -/
def State.clearEnt (s : State) (t p i : Nat) : State :=
  { s with tables := AMap.erase s.tables (t, tblPipe t p, i) }

end Sys2Proof.Machine
end

