-- ==== Sys2Proof/Machine/DramOps.lean ====
section
/-! DEFINITION. Archive memory behind its controller: the address mapping (R309, R310), check codes and the error log (R319, R320),
the arbiter and the bank queues (R311 to R315), and reads and writes of byte ranges by the units inside. -/
namespace Sys2Proof.Machine

/-- The number of populated subchannels N (R309). -/
def State.dramN (s : State) : Nat := 2 * ((List.range 4).countP fun i => bitOf (s.rd fDRM_CFG_CH_EN) i)

/-- The grain G (R309). -/
def State.dramG (s : State) : Nat := 2 ^ s.rd fDRM_CFG_GRAIN_LOG2

/-- The global subchannel of an archive address (R309). -/
def State.dramSub (s : State) (a : Nat) : Nat := a / s.dramG % s.dramN

/-- The local burst address of an archive address (R309). -/
def State.dramBurst (s : State) (a : Nat) : Nat := (a / (s.dramG * s.dramN) * s.dramG + a % s.dramG) / 64

/-- Splits a number into fields of the widths given, least significant first. -/
def splitBits (n : Nat) : List Nat → List Nat
  | [] => []
  | w :: t => (n % 2 ^ w) :: splitBits (n / 2 ^ w) t

/-- Where a burst lies in its subchannel. -/
structure DramPlace where
  rank : Nat
  bg : Nat
  ba : Nat
  row : Nat
  col : Nat
  deriving DecidableEq, Repr

/-- The DDR5 column address of a place (R310). -/
def DramPlace.column (x : DramPlace) : Nat := x.col * 16

/-- The fields of a burst address b, in the order that `ORDER` selects (R310). -/
def dramPlace (order width density ranks b : Nat) : DramPlace :=
  let c := if width = 0 then 7 else 6
  let g := if width = 2 then 2 else 3
  let r := 16 + density
  match order with
  | 0 => let l := splitBits b [c, g, 2, r, ranks]
    ⟨l.getD 4 0, l.getD 1 0, l.getD 2 0, l.getD 3 0, l.getD 0 0⟩
  | 1 => let l := splitBits b [g, c, 2, r, ranks]
    ⟨l.getD 4 0, l.getD 0 0, l.getD 2 0, l.getD 3 0, l.getD 1 0⟩
  | 2 => let l := splitBits b [g, 2, c, r, ranks]
    ⟨l.getD 4 0, l.getD 0 0, l.getD 1 0, l.getD 3 0, l.getD 2 0⟩
  | _ => let l := splitBits b [2, g, c - 2, 2, r, ranks]
    ⟨l.getD 5 0, l.getD 1 0, l.getD 3 0, l.getD 4 0, l.getD 0 0 + 4 * l.getD 2 0⟩

/-- The place of an archive address. -/
def State.dramAt (s : State) (a : Nat) : DramPlace :=
  dramPlace (s.rd fDRM_CFG_ORDER) (s.rd fDRM_CFG_WIDTH) (s.rd fDRM_CFG_DENSITY) (s.rd fDRM_CFG_RANKS) (s.dramBurst a)

/-- The bank queue of an archive address: its subchannel and its bank. -/
def State.dramKey (s : State) (a : Nat) : Nat × Nat :=
  let x := s.dramAt a
  (s.dramSub a, x.rank * 32 + x.bg * 4 + x.ba)

/-! ### Check codes (R319, R320) -/

/-- The checker number of archive memory (R417). -/
def dramCk : Nat := 0x25

/-- Enters an error in the log, overwriting the oldest (R320); its syndrome is a free value, since the code is not stated. -/
def State.dramLog (s : State) (kind req addr : Nat) : State :=
  let i := s.rd fDRM_ERR_HEAD_NEXT
  let s := if s.on fDRM_ERR_LOG_VALID 0 i then s.addSat fDRM_ERR_HEAD_LOST 1 else s
  let b := addr / 64 * 64
  let w := 2 ^ 31 + kind * 2 ^ 28 + s.dramSub b * 2 ^ 24 + req * 2 ^ 16
  let s := ((s.setRg .DRM_ERR_LOG (word w) 0 i).setRg .DRM_ERR_ADDR_LO (word b) 0 i).setRg .DRM_ERR_ADDR_HI (word (b / 2 ^ 32)) 0 i
  let s := (List.range 4).foldl (fun s j =>
    let f := s.takeFree
    f.2.setRg .DRM_ERR_SYND f.1 0 i j) s
  let s := (List.range 3).foldl (fun s j => s.setRg .DRM_ERR_TIME ((ctWords s.tim.ct).getD j 0) 0 i j) s
  s.wr fDRM_ERR_HEAD_NEXT (i + 1)

/-- A corrected read of a burst (R319). -/
def State.dramCorr (s : State) (addr : Nat) : State :=
  (s.addSat fDRM_ECC_COUNT_CORR 1 0 (s.dramSub addr)).raise .DRM_ECC_CORR 0 (addr / 64)

/-- An uncorrectable read of a burst (R320). -/
def State.dramUncorr (s : State) (kind req addr : Nat) : State :=
  ((s.addSat fDRM_ECC_COUNT_UNCORR 1 0 (s.dramSub addr)).dramLog kind req addr).raise .DRM_ECC_UNCORR 0 (addr / 64)

/-- The device of a data line of a subchannel, lines 32 to 39 being those of the check bits (R307, R319). -/
def dqDevice (width l : Nat) : Nat := if width = 0 then l / 4 else if width = 1 ∨ 32 ≤ l then l / 8 else l / 16 * 2

/-- Whether the check code finds an error of some data lines uncorrectable (R319): one within one nibble is corrected, any other within one device is
detected, and the rest are detected or miscorrected. -/
def eccUncorr (width b : Nat) (lines : List Nat) : Bool :=
  if ((lines.map (· / 4)).eraseDups).length ≤ 1 then false
  else if ((lines.map (dqDevice width)).eraseDups).length ≤ 1 then true
  else Config.eccDetects b lines

/-- Whether an error is miscorrected. -/
def eccWrong (width b : Nat) (lines : List Nat) : Bool :=
  decide (1 < ((lines.map (dqDevice width)).eraseDups).length) && !Config.eccDetects b lines

/-- n bytes that the spec leaves undefined. -/
def State.freeBytes (s : State) (n : Nat) : List Byte × State :=
  ((List.range n).map fun i => byte (Config.freeWord (s.free + i)).toNat, { s with free := s.free + n })

/-- An error of a burst (address / 64) in some data lines: its check fails from now on. A miscorrected burst reads as free bytes, and an uncorrectable
one stays so until it is written whole (R320). -/
def State.eccOne (s : State) (b : Nat) (lines : List Nat) : State :=
  let w := s.rd fDRM_CFG_WIDTH
  if lines.isEmpty || s.marked dramCk 15 0 b == some true then s
  else
    let s := s.mark dramCk 15 0 b (eccUncorr w b lines)
    if eccWrong w b lines then
      let f := s.freeBytes 64
      { f.2 with arc := { f.2.arc with mem := Memory.writes f.2.arc.mem (b * 64) f.1 } }
    else s

/-- Errors that the devices bring about. -/
def State.eccArrive (s : State) (l : List (Nat × List Nat)) : State := l.foldl (fun s b => s.eccOne b.1 b.2) s

/-- The bursts of a range whose check fails, in address order, each with whether it is uncorrectable. -/
def State.badBursts (s : State) (a n : Nat) : List (Nat × Bool) :=
  let l := s.flt.marks.filter fun m => m.1 == dramCk && decide (a / 64 ≤ m.2.2.2.1) && decide (m.2.2.2.1 * 64 < a + n)
  (l.foldr (fun m acc =>
    let x := (m.2.2.2.1, m.2.2.2.2)
    acc.takeWhile (fun y => decide (y.1 < x.1)) ++ [x] ++ acc.dropWhile (fun y => decide (y.1 < x.1))) [])

/-- A read of a range by a requester: corrected reads count, and the first uncorrectable burst ends it. Answers the address of the
first byte that could not be read. -/
def State.dramCheck (s : State) (kind req : Nat) : List (Nat × Bool) → State × Option Nat
  | [] => (s, none)
  | (b, false) :: t => (s.dramCorr (b * 64)).dramCheck kind req t
  | (b, true) :: _ => (s.dramUncorr kind req (b * 64), some (b * 64))

/-! ### Bytes -/

/-- What a queued write makes of memory: its enabled bytes (R311). -/
def DramReq.apply (r : DramReq) (m : Memory) : Memory :=
  ((List.range 64).filter fun i => r.enables.getD i false).foldl (fun m i => Memory.write m (r.addr + i) (r.data.getD i 0)) m

/-- The queued writes whose bursts meet a range. -/
def State.queuedWrites (s : State) (a n : Nat) : List DramReq :=
  (s.drm.queues.map (·.2)).flatten.filter fun r => r.write && decide (r.addr < a + n) && decide (a < r.addr + 64)

/-- The bursts of a range that a write covers only in part, and whose old content is uncorrectable: a read-modify-write there writes
nothing (R320). -/
def State.rmwLost (s : State) (a n : Nat) : List Nat :=
  ((s.badBursts a n).filter fun b => b.2 && !(decide (a ≤ b.1 * 64) && decide (b.1 * 64 + 64 ≤ a + n))).map (·.1)

/-- What the check codes of a written range become: a burst written whole, or corrected and merged, is good again; a burst whose
read-modify-write failed stays bad and is logged. -/
def State.writeChecks (s : State) (req a n : Nat) : State :=
  (s.badBursts a n).foldl (fun s b =>
    if decide (a ≤ b.1 * 64) && decide (b.1 * 64 + 64 ≤ a + n) then s.unmark dramCk 15 0 b.1
    else if b.2 then s.dramUncorr 1 req (b.1 * 64)
    else (s.dramCorr (b.1 * 64)).unmark dramCk 15 0 b.1) s

/-- The requests of a bank queue. -/
def State.bank (s : State) (k : Nat × Nat) : List DramReq := AMap.getD s.drm.queues k []

/-- The state with a bank queue replaced. -/
def State.setBank (s : State) (k : Nat × Nat) (l : List DramReq) : State :=
  { s with drm := { s.drm with queues := AMap.set s.drm.queues k l } }

/-- The requests queued on a subchannel, each with its queue. -/
def State.subReqs (s : State) (u : Nat) : List ((Nat × Nat) × DramReq) :=
  ((s.drm.queues.filter fun q => q.1.1 == u).map fun q => q.2.map fun r => (q.1, r)).flatten

/-- Whether a subchannel is paused by a periodic run (R317), or has still to leave self-refresh (R318). -/
def State.dramPaused (s : State) (u : Nat) : Bool :=
  (s.drm.paused.any fun p => p.1 == u && decide (s.tim.rc < p.2)) || decide (u ∈ s.drm.exits)

/-- The answer of a request reaches the first unit that waits for one like it. -/
def giveAnswer (ask : Nat × Nat × Bool) (a : Nat × Nat × List Byte) : List ArcUnit → List ArcUnit
  | [] => []
  | u :: t => if ask ∈ u.asks then { u with asks := u.asks.erase ask, got := u.got ++ [a] } :: t else u :: giveAnswer ask a t

/-- Answers the requester of a request, and the unit that waits for it: status 0, or 1 for an error. -/
def State.dramAnswer (s : State) (r : DramReq) (status : Nat) (bs : List Byte) : State :=
  { s with drm := { s.drm with returned := AMap.set s.drm.returned r.req (r.addr, status, bs),
                               units := giveAnswer (r.req, r.addr, r.write) (r.addr, status, bs) s.drm.units } }

/-! ### The arbiter (R311, R314) -/

/-- The arbiter's requester of a request: both hosts are one. -/
def arbOf (req : Nat) : Nat := if req ≤ 4 then req else req - 1

/-- The weight of a requester. -/
def State.arbWeight (s : State) : Nat → Nat
  | 0 => s.rd fDRM_ARB_SCAN
  | 1 => s.rd fDRM_ARB_LEDGER
  | 2 => s.rd fDRM_ARB_CAPTURE
  | 3 => s.rd fDRM_ARB_EXPORT
  | 4 => s.rd fDRM_ARB_HOST
  | _ => s.rd fDRM_ARB_SCRUB

/-- The oldest waiting request of a requester, when its bank queue of 8 has room. -/
def State.arbHead (s : State) (k : Nat) : Option DramReq :=
  match s.drm.waiting.find? fun r => arbOf r.req == k with
  | some r => if (s.bank (s.dramKey r.addr)).length < 8 then some r else none
  | none => none

/-- What a burst holds under some writes that are to be done before. -/
def State.burstUnder (s : State) (a : Nat) (ws : List DramReq) : List Byte := Memory.reads (ws.foldl (fun m r => r.apply m) s.arc.mem) a 64

/-- What a read of a burst that is accepted now returns: memory under every queued write of it (R312). -/
def State.burstNow (s : State) (a : Nat) : List Byte := s.burstUnder a (s.queuedWrites a 64)

/-- A request enters its bank queue. -/
def State.dramAccept (s : State) (r : DramReq) : State :=
  let r' := { r with since := s.tim.rc }
  let k := s.dramKey r.addr
  let s' := s.setBank k (s.bank k ++ [r'])
  { s' with drm := { s'.drm with waiting := s.drm.waiting.erase r } }

/-- One turn of the arbiter: a requester with deficit left, or a new round that gives each waiting requester its weight. -/
def State.arbOne (s : State) : Option State :=
  let ks := (List.range 6).filter fun k => (s.arbHead k).isSome
  let d := fun (k : Nat) => AMap.getD s.drm.deficits k 0
  match ks with
  | [] => none
  | k0 :: _ =>
    let fresh := ks.all fun k => d k == 0
    let defs := (List.range 6).map fun k => (k, if k ∈ ks then (if fresh then s.arbWeight k else d k) else 0)
    let k := ((defs.find? fun x => decide (0 < x.2)).map (·.1)).getD k0
    match s.arbHead k with
    | some r =>
      let s' := s.dramAccept r
      some { s' with drm := { s'.drm with deficits := defs.map fun x => if x.1 = k then (k, x.2 - 1) else x } }
    | none => none

/-- The arbiter lets requests in until no waiting one has room. -/
def State.arb (s : State) : Nat → State
  | 0 => s
  | n + 1 => match s.arbOne with
    | some s' => s'.arb n
    | none => s

/-- Whether DCLK runs (R420). -/
def State.dclkOn (s : State) : Bool := bitOf (s.rg .CKR_RUN).toNat 3

/-! ### Refreshes issued (R315) -/

/-- Closes the rows that refreshes close: every bank of the subchannel, or with REFsb those of the next bank index. -/
def State.refresh (s : State) (u : Nat) : State :=
  let sb := s.rd fDRM_REF_MODE = 1
  let b := AMap.getD s.drm.refBank u 0
  let shut := fun (k : Nat × Nat) => k.1 == u && (!sb || k.2 % 4 == b)
  { s with drm := { s.drm with openRow := s.drm.openRow.filter (fun r => !shut r.1),
                               refBank := AMap.set s.drm.refBank u (if sb then (b + 1) % 4 else b) } }

/-- Issues refreshes: the one that is due, with every one that was postponed. -/
def State.refreshes (s : State) (u : Nat) : Nat → State
  | 0 => s
  | n + 1 => (s.refresh u).refreshes u n

/-- The refreshes that a subchannel has postponed. -/
def State.owed (s : State) (u : Nat) : Nat := AMap.getD s.drm.postponed u 0

/-- Issues n refreshes and owes none. -/
def State.repay (s : State) (u n : Nat) : State :=
  let s' := s.refreshes u n
  { s' with drm := { s'.drm with postponed := AMap.erase s'.drm.postponed u } }

/-- The refreshes that a subchannel has postponed are repaid at once when its queues are empty (R315). -/
def State.queuesEmpty (s : State) (u : Nat) : State := if (s.subReqs u).isEmpty && decide (0 < s.owed u) then s.repay u (s.owed u) else s

/-! ### Serving -/

/-- Whether a write has every byte enable set, so that nothing is read for it (R311). -/
def DramReq.whole (r : DramReq) : Bool := r.write && (List.range 64).all fun i => r.enables.getD i false

/-- The writes to the burst of a request that were accepted before it and wait in its queue. -/
def writesAhead (r : DramReq) (l : List DramReq) : List DramReq := (l.takeWhile (· != r)).filter fun w => w.write && w.addr == r.addr

/-- The scrub writes a corrected burst back, unless a requester's write to it is queued (R321). -/
def State.scrubBack (s : State) (b : Nat) : State :=
  if (s.queuedWrites (b * 64) 64).isEmpty && s.marked dramCk 15 0 b == some false then s.unmark dramCk 15 0 b else s

/-- A read of a burst by a requester, outside any queue: corrected, or in error with no bytes (R319, R320). -/
def State.burstRead (s : State) (r : DramReq) (bs : List Byte) : State :=
  let c := s.dramCheck (if r.req = 6 then 2 else 0) r.req (s.badBursts r.addr 64)
  match c.2 with
  | some _ => c.1.dramAnswer r 1 []
  | none => (if r.req = 6 then c.1.scrubBack (r.addr / 64) else c.1).dramAnswer r 0 bs

/-- Serves a request: a read returns the latest write to its burst accepted before it, from the queue where a whole write waits there, and a write
reaches memory (R311, R312, R320); a subchannel whose queues are empty repays what it has postponed (R315). -/
def State.dramServe (s : State) (k : Nat × Nat) (r : DramReq) : State :=
  let ahead := writesAhead r (s.bank k)
  let bs := s.burstUnder r.addr ahead
  let s := (s.setBank k ((s.bank k).erase r)).queuesEmpty k.1
  if r.write then
    let lost := !r.whole && (s.badBursts r.addr 64).any (·.2)
    let s := if r.whole then s.unmark dramCk 15 0 (r.addr / 64) else s.writeChecks r.req r.addr 63
    if lost then s.dramAnswer r 1 []
    else
      let s := { s with arc := { s.arc with mem := r.apply s.arc.mem } }
      (s.wroteWord dramCk 15 (r.addr / 64)).dramAnswer r 0 []
  else if ahead.any DramReq.whole then s.dramAnswer r 0 bs
  else s.burstRead r bs

/-- Whether a request's burst meets a range. -/
def DramReq.meets (r : DramReq) (a n : Nat) : Bool := decide (r.addr < a + n) && decide (a < r.addr + 64)

/-- The state in which the queued requests of a range have been served, each burst's in acceptance order (R312). -/
def State.dramDrain (s : State) (a n : Nat) : State :=
  ((s.drm.queues.map fun q => (q.2.filter fun r => r.meets a n).map fun r => (q.1, r)).flatten).foldl (fun s x => s.dramServe x.1 x.2) s

/-- A unit's write of bytes that nothing delays: it is served at once, after every queued request of the range (R312). -/
def State.memPut (s : State) (req a : Nat) (bs : List Byte) : State :=
  let s := s.dramDrain a bs.length
  let lost := s.rmwLost a bs.length
  let out := if lost.isEmpty then bs
    else bs.mapIdx fun i b => if (a + i) / 64 ∈ lost then Memory.read s.arc.mem (a + i) else b
  let s := s.writeChecks req a bs.length
  let s := { s with arc := { s.arc with mem := Memory.writes s.arc.mem a out } }
  if (a / 64) ∈ lost ∨ bs.isEmpty then s else if s.flt.nextMarks.isEmpty then s else s.wroteWord dramCk 15 (a / 64)

/-- Whether a unit's requests are served at once: DCLK runs, no subchannel is paused or replays, nothing waits, and no bank queue is full. The command
slots themselves take no time for them (assumption log 19). -/
def State.dramClear (s : State) : Bool :=
  s.dclkOn && s.drm.waiting.isEmpty && !(s.drm.paused.any fun p => decide (s.tim.rc < p.2)) && s.drm.exits.isEmpty &&
    (s.drm.queues.all fun q => decide (q.2.length < 8)) && s.drm.replays.all fun x => x.2 == 0

/-- The burst requests of a unit's write. -/
def burstWrites (req a rc : Nat) (bs : List Byte) : List DramReq :=
  (List.range ((a + bs.length + 63) / 64 - a / 64)).map fun i =>
    let b := (a / 64 + i) * 64
    ⟨req, true, b, (List.range 64).map fun j => if a ≤ b + j then bs.getD (b + j - a) 0 else 0,
      (List.range 64).map fun j => decide (a ≤ b + j) && decide (b + j < a + bs.length), rc⟩

/-- The bursts of n bytes from an address. -/
def burstsOf (a n : Nat) : List Nat := if n = 0 then [] else (List.range ((a + n + 63) / 64 - a / 64)).map fun i => (a / 64 + i) * 64

/-- Requests wait at their requesters, and enter the bank queues through the arbiter; with DCLK stopped they wait at crossing 8 (R311, R314, R426). -/
def State.dramIssue (s : State) (rs : List DramReq) : State :=
  let s' := { s with drm := { s.drm with waiting := s.drm.waiting ++ rs } }
  if s.dclkOn then s'.arb s'.drm.waiting.length else s'

/-- A unit's write of bytes to archive memory: served at once, or through the bank queues. -/
def State.memWrite (s : State) (req a : Nat) (bs : List Byte) : State :=
  if s.dramClear then s.memPut req a bs else s.dramIssue (burstWrites req a s.tim.rc bs)

/-- A unit of a channel issues its requests and waits for their answers. -/
def State.unitAsk (s : State) (u : ArcUnit) (rs : List DramReq) : State :=
  { s with drm := { s.drm with units := s.drm.units ++ [{ u with asks := rs.map fun (r : DramReq) => (r.req, r.addr, r.write) }] } }.dramIssue rs

/-- The unit of a channel that waits for archive memory. -/
def State.unitOf (s : State) (c : Nat) : Option ArcUnit := s.drm.units.find? (·.chan == c)

/-- A channel's unit is over. -/
def State.unitOver (s : State) (c : Nat) : State :=
  let left := s.drm.units.filter (·.chan != c)
  { s with drm := { s.drm with units := left } }

/-- The requests of a requester that have not entered a bank queue. -/
def State.dramWaits (s : State) (req : Nat) : Nat := s.drm.waiting.countP fun r => r.req == req

/-- A unit's read of bytes from archive memory: the latest writes accepted before it (R312). Answers the bytes, and how many of them
lie before the first uncorrectable burst (none when there is no such burst). -/
def State.memRead (s : State) (req a n : Nat) : State × List Byte × Option Nat :=
  let s := s.dramDrain a n
  let r := s.dramCheck 0 req (s.badBursts a n)
  (r.1, Memory.reads s.arc.mem a n, r.2.map fun x => x - a)

/-- The n bytes from an address that answers hold, and how many of them lie before the first burst in error. -/
def answersAt (got : List (Nat × Nat × List Byte)) (a n : Nat) : List Byte × Option Nat :=
  let at_ := fun (b : Nat) => got.find? (·.1 == b)
  ((List.range n).map fun i => ((at_ ((a + i) / 64 * 64)).map fun x => x.2.2.getD ((a + i) % 64) 0).getD 0,
   ((burstsOf a n).find? fun b => (at_ b).any fun x => x.2.1 != 0).map fun b => b - a)

/-- A unit's read of bytes: at once, or from the answers that it has waited for. -/
def State.memReadBy (s : State) (got : Option (List (Nat × Nat × List Byte))) (req a n : Nat) : State × List Byte × Option Nat :=
  match got with
  | none => s.memRead req a n
  | some l => (s, answersAt l a n)

/-- Whether a scan can finish: DCLK runs and no subchannel is paused. -/
def State.archOpen (s : State) : Bool :=
  s.dclkOn && s.drm.exits.isEmpty && !(s.drm.paused.any fun p => decide (s.tim.rc < p.2))

/-- Runs what the scan does in archive memory, or lets it wait: with DCLK stopped, at crossing 8 (R426). -/
def State.archUnit (s : State) (req : Nat) (f : State → State) : State :=
  let others := s.drm.blocked.filter (·.1 != req)
  if s.archOpen then f { s with drm := { s.drm with blocked := others } }
  else if s.dclkOn ∨ s.drm.blocked.any (·.1 == req) then s
  else { s with drm := { s.drm with blocked := others ++ [(req, s.tim.rc)] } }

end Sys2Proof.Machine
end

