-- ==== Sys2Proof/Machine/ArcOps.lean ====
section
/-! DEFINITION. The Archive's shared operations: conservation tallies (R294), the capture ring (R301 to
R303) and the ledger ring (R300). -/
namespace Sys2Proof.Machine

/-- The base address of an Archive region from its two base registers. -/
def regionBase (s : State) (lo hi : Fld) : Nat := s.rd lo * 2 ^ 16 + s.rd hi * 2 ^ 32

/-- The capture region's base. -/
def State.capBase (s : State) : Nat := regionBase s fARC_CAP_BASE_LO_ADDR fARC_CAP_BASE_HI_ADDR

/-- The ledger region's base. -/
def State.ledBase (s : State) : Nat := regionBase s fARC_LEDGER_BASE_LO_ADDR fARC_LEDGER_BASE_HI_ADDR

/-- The snapshot region's base. -/
def State.snapBase (s : State) : Nat := regionBase s fARC_SNAP_BASE_LO_ADDR fARC_SNAP_BASE_HI_ADDR

/-- A census with the copies of a late update: n more that came (IN, X) or fewer that left (OUT, DROP, DELIV) before its T. -/
def censusLate (res : List Nat) (p idx n : Nat) : List Nat :=
  res.modify p fun r => if idx < 2 then r + n else r - n

/-- Adds to a tally of R294: IN 0, X 1, OUT 2, DROP 3, DELIV 4, for ingress pipeline p, with its counting time. An event before the
epoch's T is before its census too. -/
def State.tally (s : State) (p idx n t : Nat) (rc : Nat := s.tim.rc) : State :=
  let s := s.countAt 15 p idx n t rc
  match s.epoch, s.arc.scan with
  | some e, some x => if s.beforeT e t rc then { s with arc := { s.arc with scan := some { x with res := censusLate x.res p idx n } } } else s
  | _, _ => s

/-- Units of the capture bucket in one record: the rate is in records per second and time in 2^-48 ns. -/
def capUnit : Nat := 1000000000 * 2 ^ 48

/-- Refills the capture bucket from the running count, up to 4,096 records (R301). -/
def State.capRefill (s : State) : State :=
  let t := min (4096 * capUnit) (s.arc.capTok + s.rd fARC_CAP_RATE_RATE * (s.tim.rc - s.arc.capTokRc))
  { s with arc := { s.arc with capTok := t, capTokRc := s.tim.rc } }

/-- Counts a capture record lost, by the pipeline of the event, and raises ARC_CAP_LOST (R301, R305, R306). -/
def State.capLost (s : State) (p : Nat) (raise : Bool) : State :=
  let s := s.blk p (384 + 9)
  if raise then s.raise .ARC_CAP_LOST else s

/-- What a capture record says of its frame (R303). -/
structure CapInfo where
  source : Nat
  pass : Bool
  ed : Bool
  inPort : Nat
  outPort : Nat
  dropCode : Nat
  cls : Nat
  layout : Nat
  len : Nat
  lenKnown : Bool
  inTime : Nat
  evTime : Nat
  deriving DecidableEq, Repr

/-- The bits of a Bool. -/
def b2n (b : Bool) : Nat := if b then 1 else 0

/-- The 320 bytes of a capture record (R303); `ts` is the course-time state at the event. -/
def capRecord (c : CapInfo) (ts seq : Nat) (frame : List Byte) : List Byte :=
  let fr := frame.take 256
  let w0 := 3 + c.source * 2 ^ 8 + b2n c.pass * 2 ^ 10 + b2n c.ed * 2 ^ 11 + ts * 2 ^ 12 + c.inPort * 2 ^ 14 + c.outPort * 2 ^ 23
  let w1 := c.dropCode + c.cls * 2 ^ 8 + c.layout * 2 ^ 11 + fr.length * 2 ^ 17
  let w2 := c.len + b2n c.lenKnown * 2 ^ 14
  let ws := [word w0, word w1, word w2, word seq] ++ ctWords c.inTime ++ ctWords c.evTime ++ zeros 5
  let head := (ws.map wordBytes).flatten
  let body := fr ++ List.replicate (256 - fr.length) 0
  head ++ wordBytes (word (crc16 (head ++ body))) ++ body

/-- A record that has been kept counts down POST while the ring is STOPPING, and the ring then freezes (R302). -/
def State.capCountdown (s : State) : State :=
  if s.rd fARC_CAP_STATUS_STATE == 1 then
    let left := s.arc.capPost - 1
    let s' := { s with arc := { s.arc with capPost := left } }
    if left = 0 then s'.wr fARC_CAP_STATUS_STATE 2 else s'
  else s

/-- Writes a capture record to the ring (R302, R303). -/
def State.capKeep (s : State) (p : Nat) (c : CapInfo) (frame : List Byte) : State :=
  let size := 2 ^ s.rd fARC_CAP_CFG_LOG2_RECS
  let seq := s.arc.capSeq + 1
  let s' := s.memWrite 2 (s.capBase + s.arc.capHead % size * 320) (capRecord c s.tstate seq frame)
  let s' := { s' with arc := { s'.arc with capSeq := seq, capHead := s.arc.capHead + 1,
                                           capHeld := min size (s.arc.capHeld + 1), capTok := s.arc.capTok - capUnit } }
  (s'.blk p (384 + 8)).capCountdown

/-- Whether the ring can take a record: its bucket holds one, it is not FROZEN, in CONTINUOUS mode it is not full, and the write buffer of 64 records,
five bursts each, has room (R314). -/
def State.capTakes (s : State) : Bool :=
  let full := s.rd fARC_CAP_CFG_MODE == 0 && decide (2 ^ s.rd fARC_CAP_CFG_LOG2_RECS ≤ s.arc.capHeld)
  decide (capUnit ≤ s.arc.capTok) && s.rd fARC_CAP_STATUS_STATE != 2 && !full && decide ((s.dramWaits 2 + 4) / 5 < 64)

/-- Makes a capture record, or counts it lost: CAP_EN = 0 loses it without a fault; the rate bucket, a full ring in CONTINUOUS mode
and a FROZEN ring lose it with one (R301, R302). -/
def State.capture (s : State) (p : Nat) (c : CapInfo) (frame : List Byte) : State :=
  if !s.on fARC_CFG_CAP_EN then s.capLost p false
  else
    let s' := s.capRefill
    if s'.capTakes then s'.capKeep p c frame else s'.capLost p true

/-- A stop event of the capture ring: in FREEZE mode a RECORDING ring goes to STOPPING and writes POST further records; with POST
0 it freezes at once (R302). -/
def State.capStop (s : State) : State :=
  if s.rd fARC_CAP_CFG_MODE == 1 && s.rd fARC_CAP_STATUS_STATE == 0 then
    let s := s.wr fARC_CAP_STOP_SEQ_SEQ s.arc.capSeq
    let post := s.rd fARC_CAP_POST_POST
    let s := { s with arc := { s.arc with capPost := post } }
    s.wr fARC_CAP_STATUS_STATE (if post = 0 then 2 else 1)
  else s

/-- The record of a drop, when the drop's code has its mask bit (R301). -/
def State.capDrop (s : State) (p : Nat) (c : CapInfo) (frame : List Byte) : State :=
  if bitOf (s.rd fARC_CAP_DROP_MASK_MASK 0 (c.dropCode / 32)) (c.dropCode % 32) then s.capture p c frame else s

/-- The ledger's size in records (R300). -/
def State.ledSize (s : State) : Nat := 2 ^ s.rd fARC_LEDGER_CFG_LOG2_RECS

/-- Whether the ledger's write buffer of 256 records has room for n more (R314). -/
def State.ledBuffer (s : State) (n : Nat) : Bool := decide (s.dramWaits 1 + n ≤ 256)

/-- Whether the ledger has room for n more records (R300). -/
def State.ledRoom (s : State) (n : Nat) : Bool := decide (s.arc.ledUsed + n ≤ s.ledSize)

/-- Writes one 64-byte ledger record: fifteen or sixteen words with word 7 replaced by the CRC-16 over the other 60 bytes. -/
def State.ledWrite (s : State) (ws : List Word) : State :=
  let bs := ((ws.take 7 ++ ws.drop 8).map wordBytes).flatten
  let rec_ := ((ws.take 7).map wordBytes).flatten ++ wordBytes (word (crc16 bs)) ++ ((ws.drop 8).map wordBytes).flatten
  let s := s.memWrite 1 (s.ledBase + (s.arc.ledHead % s.ledSize) * 64) rec_
  { s with arc := { s.arc with ledHead := s.arc.ledHead + 1, ledUsed := s.arc.ledUsed + 1 } }

end Sys2Proof.Machine
end

