-- ==== Sys2Proof/Machine/Frames.lean ====
section
/-! DEFINITION. What every block does with a frame or a copy: the edition's resident counts (R213), drops with their counters, tallies
and capture records (R288, R294, R301), and the release of a copy and of its stall (R238, R239, R241). -/
namespace Sys2Proof.Machine

/-! ### Edition slots -/

/-- The state field of an edition slot: false A, true B. -/
def fEdState (slot : Bool) : Fld := if slot then fCLE_ED_STATUS_STATE_B else fCLE_ED_STATUS_STATE_A

/-- The state of an edition slot (R209): 0 FREE, 1 OPEN, 2 ARMED, 3 IN_FORCE, 4 DRAINING, 5 EXPIRING, 6 DRAINED, 7 SWEEPING. -/
def State.edState (s : State) (slot : Bool) : Nat := s.rd (fEdState slot)

/-- The edition bit in force. -/
def State.edNow (s : State) : Bool := s.on fCLE_ED_STATUS_IN_FORCE

/-- n more copies inside carry a slot's bit (R213). -/
def State.edUp (s : State) (slot : Bool) (n : Nat := 1) : State :=
  s.addWrap fCLE_ED_RESIDENT_RESIDENT n 0 (b2n slot)

/-- One copy that carried a slot's bit has left or been dropped (R213). -/
def State.edDown (s : State) (slot : Bool) (n : Nat := 1) : State :=
  s.sub fCLE_ED_RESIDENT_RESIDENT n 0 (b2n slot)

/-! ### Ports and classes by number -/

/-- The pipeline that serves a port for egress, its recirculation port included (R13); host ports have none. -/
def egPipe (port : Nat) : Nat := if port < 256 then port / 32 else port - 256

/-- The local number of a port in its pipeline: 0 to 31, or 32 for the recirculation port. -/
def egLocal (port : Nat) : Nat := if port < 256 then port % 32 else 32

/-- The index of (port, class) in the usage arrays of the Stable. -/
def pc (port cls : Nat) : Nat := port * 8 + cls

/-! ### Drops -/

/-- Drops a frame before its copy list is formed: one copy, counted in DROP_IN under its input port (R288), in DROP of its
ingress pipeline (R294), and out of its edition's residents when it had been stamped. -/
def State.dropIn (s : State) (inPort code ingPipe : Nat) (stamped : Option Bool) (c : CapInfo) (frame : List Byte) : State :=
  let s := s.count 4 (inPort * 256 + code) 0 1
  let s := s.tally ingPipe 3 1 s.tim.ct
  let s := match stamped with | some e => s.edDown e | none => s
  s.capDrop ingPipe { c with source := 2, dropCode := code, evTime := s.tim.ct } frame

/-- Drops or refuses one copy of a formed copy list: counted in DROP_OUT under its output port (R230, R288), in DROP of the frame's
ingress pipeline, and out of its edition's residents. -/
def State.dropOut (s : State) (outPort code ingPipe : Nat) (ed : Bool) (c : CapInfo) (frame : List Byte) : State :=
  let s := s.count 5 (outPort * 256 + code) 0 1
  let s := s.tally ingPipe 3 1 s.tim.ct
  let s := s.edDown ed
  s.capDrop ingPipe { c with source := 2, dropCode := code, outPort := outPort, evTime := s.tim.ct } frame

/-- What a capture record says of a stored frame. -/
def Stall.capInfo (st : Stall) (outPort cls : Nat) (now : Nat) : CapInfo :=
  ⟨0, st.pass, st.ed, st.inPort, outPort, 0, cls, st.layout, st.len, st.done, st.ct, now⟩

/-! ### Stalls and slips -/

/-- The stored frame without its FCS: the whole frame less 4 bytes once it has ended, otherwise the bytes received. -/
def Stall.body (st : Stall) : List Byte := if st.done then st.bytes.take (st.bytes.length - 4) else st.bytes

/-- The stall at a pool and index, if it is in use. -/
def State.stall? (s : State) (pool idx : Nat) : Option Stall :=
  s.fwd.stalls.find? fun x => x.pool == pool && x.idx == idx

/-- The number of a stall over all pools, pool 0 first: the index of its frame record (R226, assumption log 9). -/
def State.stallNo (s : State) (pool idx : Nat) : Nat :=
  ((List.range pool).map fun k => s.rd fSTB_POOL_COUNT_COUNT 0 k).sum + idx

/-- The state with a stall replaced. -/
def State.putStall (s : State) (x : Stall) : State :=
  { s with fwd := { s.fwd with stalls := x :: s.fwd.stalls.filter fun y => !(y.pool == x.pool && y.idx == x.idx) } }

/-- The state without a stall. -/
def State.delStall (s : State) (pool idx : Nat) : State :=
  { s with fwd := { s.fwd with stalls := s.fwd.stalls.filter fun y => !(y.pool == pool && y.idx == idx) } }

/-- The slip of a number, if it is in use. -/
def State.slip? (s : State) (id : Nat) : Option Slip := s.fwd.slips.find? (·.id == id)

/-- The state with a slip replaced or added. -/
def State.putSlip (s : State) (x : Slip) : State :=
  { s with fwd := { s.fwd with slips := x :: s.fwd.slips.filter (·.id != x.id) } }

/-- The priority that stands for a class at a port's MAC (R77, R79): the one its map gives in PFC mode, the class's own number
otherwise. -/
def State.fcPrio (s : State) (port cls : Nat) : Nat :=
  let p := port / 32
  let k := port % 32
  if s.rd fPRT_FC_CFG_MODE p k = 2 then
    ((List.range 8).find? fun i => bitsOf (s.rd fPRT_PRIO_MAP_MAP p k) (3 * i + 2) (3 * i) == cls).getD cls
  else cls

/-- Starts an accumulated time of (port, priority) at a running count; what an earlier span left below 1 ns still counts. -/
def timeStart (m : AMap (Nat × Nat) Nat) (k : Nat × Nat) (rc : Nat) : AMap (Nat × Nat) Nat :=
  AMap.set m k (rc - AMap.getD m k 0)

/-- The time since an accumulated time's start. -/
def timeSpan (m : AMap (Nat × Nat) Nat) (k : Nat × Nat) (rc : Nat) : Nat := rc - AMap.getD m k rc

/-- Ends the running XOFF time of (port, class) and counts it under the priority that stands for the class now (TX counters 48 to 55 of
R85); below 1 ns is kept for the priority's next. -/
def State.xoffStop (s : State) (port cls : Nat) : State :=
  match AMap.get? s.ports.xoffAt (port, cls) with
  | none => s
  | some t =>
    let k := (port, s.fcPrio port cls)
    let d := s.tim.rc - t + AMap.getD s.ports.xoffRem k 0
    { s.countTime 2 port (48 + k.2) d with ports := { s.ports with
        xoffAt := AMap.erase s.ports.xoffAt (port, cls), xoffRem := AMap.set s.ports.xoffRem k (d % nsU) } }

/-- Starts the XOFF time of (port, class), unless it runs. -/
def State.xoffStart (s : State) (port cls : Nat) : State :=
  if (AMap.get? s.ports.xoffAt (port, cls)).isSome then s
  else { s with ports := { s.ports with xoffAt := AMap.set s.ports.xoffAt (port, cls) s.tim.rc } }

/-- Ends every XOFF time of a port, before its flow control is changed. -/
def State.xoffSettle (s : State) (port : Nat) : State := (List.range 8).foldl (fun s c => s.xoffStop port c) s

/-- Starts the XOFF time of every class of a port that is in XOFF, unless its flow control is off. -/
def State.xoffResume (s : State) (port : Nat) : State :=
  if s.rd fPRT_FC_CFG_MODE (port / 32) (port % 32) = 0 then s
  else (List.range 8).foldl (fun s c => if s.on fSTB_ING_USED_XOFF_STATE 0 (8 * port + c) then s.xoffStart port c else s) s

/-- The frame's XOFF state for (port, class) after a change of USED (R241): set at XOFF, cleared at or below XON and below XOFF. A
change on a front-panel port passes to its MAC, which ignores it while its flow control is off (R79). A change that the MAC has not sent yet
when the next comes is replaced by it (DESIGN CHOICE, assumption log 44). -/
def State.xoffUpdate (s : State) (port cls : Nat) : State :=
  let j := pc port cls
  let used := s.rd fSTB_ING_USED_USED 0 j
  let xoff := s.rd fSTB_ING_XOFF_XOFF 0 j
  let xon := s.rd fSTB_ING_XON_XON 0 j
  let old := s.on fSTB_ING_USED_XOFF_STATE 0 j
  let new := if xoff ≤ used then true else if used ≤ xon then false else old
  if new = old then s
  else
    let s := s.wr fSTB_ING_USED_XOFF_STATE (b2n new) 0 j
    if port < 256 ∧ s.rd fPRT_FC_CFG_MODE (port / 32) (port % 32) ≠ 0 then
      let s := if new then s.xoffStart port cls else s.xoffStop port cls
      { s with ports := { s.ports with
          pfcDue := s.ports.pfcDue.filter (fun d => !(d.1 == port && d.2.1 == cls)) ++ [(port, cls, new)] } }
    else s

/-- Charges or returns ingress usage of (port, class) and updates its XOFF state (R230, R238, R241). -/
def State.ingUse (s : State) (port cls : Nat) (add : Bool) (u : Nat) : State :=
  let j := pc port cls
  let s := if add then s.addSat fSTB_ING_USED_USED u 0 j else s.sub fSTB_ING_USED_USED u 0 j
  s.xoffUpdate port cls

/-- Records the first Stable error since the last clear (`STB_ERR_LAST`). -/
def State.stbErr (s : State) (kind pool pipe index : Nat) : State :=
  if s.on fSTB_ERR_LAST_VALID then s
  else ((((s.wr fSTB_ERR_LAST_VALID 1).wr fSTB_ERR_LAST_KIND kind).wr fSTB_ERR_LAST_POOL pool).wr fSTB_ERR_LAST_PIPE pipe).wr
    fSTB_ERR_LAST_INDEX index

/-- Returns a stall to its pool. -/
def State.freeStall (s : State) (x : Stall) : State :=
  let s := s.delStall x.pool x.idx
  let s := s.addSat fSTB_POOL_FREE_FREE 1 0 x.pool
  s.ingUse x.chPort x.inCls false x.units

/-- A double free (R239): counted, recorded and reported; `kind` is that of `STB_ERR_LAST`. -/
def State.doubleFree (s : State) (kind pool idx pipe : Nat) : State :=
  ((s.stbErr kind pool pipe idx).blk pipe (256 + 20)).raise .STB_DOUBLE_FREE 0 idx

/-- One reference to a stall ends (R236, R238): at 0 the stall is freed. -/
def State.unref (s : State) (x : Stall) : State :=
  if x.refs = 1 then s.freeStall x else s.putStall { x with refs := x.refs - 1 }

/-- The pipeline whose Stable counters count a copy: its egress pipeline, or the frame's ingress pipeline for a host port
(R242). -/
def cntPipe (outPort ingPipe : Nat) : Nat := if outPort < 264 then egPipe outPort else ingPipe

/-- The queue number of a (host port, class) in the QUEUE set (R287). -/
def hostQueue (port cls : Nat) : Nat := 65536 + 8 * (port - 264) + cls

/-- Releases a copy (R238): its units leave the egress usage, its slip returns, and its stall loses one reference. A release that finds the
stall free, or without references, is ignored as a whole (R239). -/
def State.release (s : State) (x : Slip) (ingPipe : Nat) : State :=
  match s.stall? x.pool x.stall with
  | none => s.doubleFree 0 x.pool x.stall (cntPipe x.outPort ingPipe)
  | some st =>
    if st.refs = 0 then s.doubleFree 1 x.pool x.stall (cntPipe x.outPort ingPipe)
    else
      let s := s.sub fSTB_EG_USED_USED x.units 0 (pc x.outPort x.cls)
      let s := { s with fwd := { s.fwd with slips := s.fwd.slips.filter (·.id != x.id) } }
      (s.addSat fSTB_SLIP_FREE 1).unref st

/-- Releases a copy that departed, with the bytes it carried (QUEUE counters 1 and 2). -/
def State.depart (s : State) (x : Slip) (svc ingPipe bytes : Nat) : State :=
  let s := (s.count 6 svc 1 1).count 6 svc 2 bytes
  s.release x ingPipe

/-- The stored frame of a slip, or an empty record where the stall is gone. -/
def State.frameOf (s : State) (x : Slip) : Option Stall := s.stall? x.pool x.stall

/-- Drops an admitted copy: counted under its reason and output port, then released (R238, R288). `svc` is the queue it was linked
to, if it was linked. -/
def State.dropCopy (s : State) (x : Slip) (code : Nat) (svc : Option Nat) : State :=
  match s.frameOf x with
  | some st =>
    let s := s.dropOut x.outPort code st.ingPipe st.ed (st.capInfo x.outPort x.cls s.tim.ct) st.body
    let s := match svc with | some q => s.count 6 q 3 1 | none => s
    s.release x st.ingPipe
  | none => s.release x (egPipe x.outPort)

end Sys2Proof.Machine
end

