-- ==== Sys2Proof/Machine/PortOps.lean ====
section
/-! DEFINITION. What other blocks ask of the ports: which ports exist and how fast they run (R63, R64), their state, the
member-live vector (R76), the outer tag (R85), and the refusals of R73 and R80. -/
namespace Sys2Proof.Machine

/-- Ports per octet of a mode (R63). -/
def modePorts : Nat → Nat
  | 1 => 1 | 2 => 2 | 3 => 1 | 4 => 4 | 5 => 2 | 6 => 1 | 7 => 8 | 8 => 4 | 9 => 8 | 10 => 4 | 11 => 2
  | 12 => 8 | 13 => 8 | 14 => 8 | _ => 0

/-- Port speed of a mode, in Gb/s (R63). -/
def modeSpeed : Nat → Nat
  | 1 => 1600 | 2 => 800 | 3 => 800 | 4 => 400 | 5 => 400 | 6 => 400 | 7 => 200 | 8 => 200 | 9 => 100 | 10 => 100
  | 11 => 100 | 12 => 50 | 13 => 25 | 14 => 10 | _ => 0

/-- Lanes per port of a mode (R63). -/
def modeLanes (m : Nat) : Nat := if modePorts m = 0 then 0 else 8 / modePorts m

/-- The FEC codes that a mode accepts (R63): 0, its own default's code, and its alternative. -/
def modeFecOk (m f : Nat) : Bool :=
  f == 0 || (m == 11 && f == 2) || (m == 13 && (f == 1 || f == 2)) || (m == 14 && f == 1)

/-- The mode in force of a front-panel port's octet. -/
def State.octMode (s : State) (port : Nat) : Nat := s.rd fPRT_OCT_STATUS_ACTIVE_MODE (port / 32) (port % 32 / 8)

/-- Whether a front-panel port exists (R64). -/
def State.portExists (s : State) (port : Nat) : Bool := decide (port < 256) && decide (port % 8 < modePorts (s.octMode port))

/-- A port's speed in Gb/s. -/
def State.portSpeed (s : State) (port : Nat) : Nat := modeSpeed (s.octMode port)

/-- A field of a front-panel port's registers. -/
def State.prt (s : State) (f : Fld) (port : Nat) : Nat := s.rd f (port / 32) (port % 32)

/-- The state with a field of a front-panel port's registers replaced. -/
def State.setPrt (s : State) (f : Fld) (port v : Nat) : State := s.wr f v (port / 32) (port % 32)

/-- The port states of `PRT_STATE.STATE`. -/
def psDISABLED : Nat := 0
def psDOWN : Nat := 1
def psFLUSH : Nat := 2
def psHOLD_UP : Nat := 3
def psUP : Nat := 4
def psSAFE : Nat := 5

/-- A front-panel port's state. -/
def State.portState (s : State) (port : Nat) : Nat := s.prt fPRT_STATE_STATE port

/-- The member-live bit of a front-panel port (R76). The eight copies never differ at a step's end, so the model keeps one. -/
def State.live (s : State) (port : Nat) : Bool := s.prt fPRT_STATE_LIVE port == 1

/-- The drop code with which the Stable refuses an enqueue to a front-panel port by its state (R73). -/
def State.stateRefusal (s : State) (port : Nat) : Option Nat :=
  if 256 ≤ port then none
  else
    let st := s.portState port
    if st = psUP then none
    else if st = psFLUSH then some 0x80
    else if st = psSAFE then some 0x82
    else some 0x81

/-- The class that a priority stands for at a port (R77): its map's entry in PFC mode, the class of its own number otherwise. -/
def State.prioClass (s : State) (port prio : Nat) : Nat :=
  if s.prt fPRT_FC_CFG_MODE port = 2 then bitsOf (s.prt fPRT_PRIO_MAP_MAP port) (3 * prio + 2) (3 * prio) else prio

/-- Whether a class of a front-panel port is stormed (R80). -/
def State.stormed (s : State) (port cls : Nat) : Bool :=
  decide (port < 256) && (List.range 8).any fun i => bitOf (s.prt fPRT_PFC_STATUS_STORMED port) i && s.prioClass port i == cls

/-- The outer tag's TCI, when the frame carries one: bytes 12 and 13 hold 0x8100 or 0x88A8 (R85). -/
def outerTci (bs : List Byte) : Option Nat :=
  let et := bytesNat ((bs.drop 12).take 2)
  if 16 ≤ bs.length ∧ (et = 0x8100 ∨ et = 0x88A8) then some (bytesNat ((bs.drop 14).take 2)) else none

/-- The PCP of the outer tag, 0 for an untagged frame (R85). -/
def pcpOf (bs : List Byte) : Nat := match outerTci bs with | some t => t / 8192 | none => 0

/-- The DEI of the outer tag (R85). -/
def deiOf (bs : List Byte) : Bool := match outerTci bs with | some t => bitOf t 12 | none => false

/-- The input port's `MAX_FRAME`, 9,600 for a port without the register (R95). -/
def State.maxFrame (s : State) (port : Nat) : Nat := if port < 256 then s.prt fPRT_CFG_MAX_FRAME port else 9600

/-- The size bin of a length (R85), as a counter index from 16; none outside 64 to 9,600. -/
def sizeBin (l : Nat) : Option Nat :=
  if l < 64 then none
  else if l = 64 then some 16
  else if l ≤ 127 then some 17
  else if l ≤ 255 then some 18
  else if l ≤ 511 then some 19
  else if l ≤ 1023 then some 20
  else if l ≤ 1518 then some 21
  else if l ≤ 2047 then some 22
  else if l ≤ 4095 then some 23
  else if l ≤ 8191 then some 24
  else if l ≤ 9216 then some 25
  else if l ≤ 9600 then some 26
  else none

end Sys2Proof.Machine
end

