-- ==== Sys2Proof/Machine/Reader.lean ====
section
/-! DEFINITION. The Reader (R88 to R108): the header window, the select key, the layout, length prediction and checks, the key
vector and metadata, second-pass measurement, and egress extraction. -/
namespace Sys2Proof.Machine

/-- A header in an ingress slot: its pipeline and slot number, the input logical port, the index of its per-port entries (R111,
R469), its bytes so far, whether it is whole with its length L, its times and edition bit, its pass with the values carried from
pass 1, whether it came from a front-panel port on pass 1, its ingress port for charging (R229), its ingress pipeline (R294), the
port it is still being received on, the fence tag of a fence return, and what R82 subtracts from its running count. -/
structure Ing where
  pipe : Nat
  slot : Nat
  inPort : Nat
  lidx : Nat
  bytes : List Byte
  whole : Bool
  len : Nat
  ct : Nat
  rc : Nat
  tstate : Nat
  ed : Bool
  pass : Bool
  shift : Nat
  next : Nat
  fragl : Bool
  front : Bool
  chPort : Nat
  ingPipe : Nat
  rxPort : Option Nat
  fence : Option Nat
  cont : Option Nat
  adj : Int
  deriving DecidableEq, Repr

/-- A byte of the header window (R88): 0 from L − 4 on for a whole frame, and beyond the bytes received or byte 191. -/
def winByte (bs : List Byte) (whole : Bool) (len off : Nat) : Byte :=
  if 192 ≤ off then 0
  else if whole && decide (len ≤ off + 4) then 0
  else bs.getD off 0

/-- The port whose `MAX_FRAME` binds: on pass 2 the recirculation port, which has none of its own (R95). -/
def Ing.lenPort (f : Ing) : Nat := if f.pass then 256 else f.inPort

/-- A byte of an ingress frame's header window. -/
def Ing.win (f : Ing) (off : Nat) : Byte := winByte f.bytes f.whole f.len off

/-- One discriminator (R89): its byte and its DVALID bit, from OFF and REL. -/
def Ing.disc (f : Ing) (off : Nat) (rel : Bool) : Nat × Bool :=
  let o := if rel then off + f.shift else off
  let v := decide (o < 192) && (!f.whole || decide (o + 4 < f.len))
  (if v then (f.win o).toNat else 0, v)

/-- The eight discriminators of the frame's edition slot, as (offset, REL). -/
def State.discs (s : State) (p : Nat) (ed : Bool) : List (Nat × Bool) :=
  (List.range 4).flatMap fun j =>
    if ed then [(s.rd fRDR_DISC_B_OFF_LO p j, s.on fRDR_DISC_B_REL_LO p j), (s.rd fRDR_DISC_B_OFF_HI p j, s.on fRDR_DISC_B_REL_HI p j)]
    else [(s.rd fRDR_DISC_A_OFF_LO p j, s.on fRDR_DISC_A_REL_LO p j), (s.rd fRDR_DISC_A_OFF_HI p j, s.on fRDR_DISC_A_REL_HI p j)]

/-- The input port's profile for the frame's edition slot (R89). -/
def State.rdrProfile (s : State) (f : Ing) : Nat :=
  if f.ed then s.rd fRDR_PROFILE_PROF_B f.pipe f.lidx else s.rd fRDR_PROFILE_PROF_A f.pipe f.lidx

/-- The 86-bit select key of R89, laid out as words 0 to 2 of R90. -/
def State.selectKey (s : State) (f : Ing) : List Nat :=
  let ds := (s.discs f.pipe f.ed).map fun d => f.disc d.1 d.2
  let byte4 := fun (l : List (Nat × Bool)) => l.foldr (fun d a => a * 256 + d.1) 0
  let dv := (ds.zipIdx.map fun d => if d.1.2 then 2 ^ d.2 else 0).sum
  [byte4 (ds.take 4), byte4 (ds.drop 4),
   dv + f.next * 2 ^ 8 + s.rdrProfile f * 2 ^ 16 + b2n f.pass * 2 ^ 20 + b2n f.fragl * 2 ^ 21]

/-- Whether a select entry matches a key for an edition slot (R90). -/
def selMatches (e : List Word) (key : List Nat) (ed : Bool) : Bool :=
  entB e 6 10 && (if ed then entB e 6 9 else entB e 6 8) &&
  (List.range 3).all fun w =>
    ((key.getD w 0 ^^^ (e.getD w 0).toNat) &&& ((e.getD (w + 3) 0).toNat % (if w = 2 then 2 ^ 22 else 2 ^ 32))) == 0

/-- The lowest-numbered select entry that matches (R90). -/
def State.selectEntry (s : State) (p : Nat) (key : List Nat) (ed : Bool) : Option Nat :=
  (List.range 64).find? fun i => selMatches (s.ent 0x01 p i) key ed

/-- Where a layout says that the L4 header starts, for a shift S (R92): none without `L4_V`. No other rule reads it. -/
def l4Start (lay : List Word) (shift : Nat) : Option Nat :=
  if entB lay 32 17 then some (entF lay 32 15 8 + if entB lay 32 18 then shift else 0) else none

/-- The valid extractions of a layout, in ascending order. -/
def layExts (lay : List Word) : List Nat :=
  ((lay.take 32).map BitVec.toNat).filter fun w => bitOf w 31

/-- The largest window byte that the valid window extractions read, plus 1 (R98). -/
def furthestRead (lay : List Word) (shift : Nat) : Nat :=
  (layExts lay).foldl (fun m w =>
    if bitOf w 30 then m else max m (bitsOf w 7 0 + (if bitOf w 29 then shift else 0) + bitsOf w 17 14 + 1)) 0

/-- A key vector with bytes written from a first byte on. -/
def putBytes (kv : List Byte) (dst : Nat) (bs : List Byte) : List Byte :=
  kv.take dst ++ (bs.take (kv.length - dst)) ++ kv.drop (dst + bs.length)

/-- The key vector (R93): extractions applied in ascending order over 64 zero bytes. -/
def keyVector (lay : List Word) (shift : Nat) (win mdata : Nat → Byte) : List Byte :=
  (layExts lay).foldl (fun kv w =>
    let n := bitsOf w 17 14 + 1
    let off := bitsOf w 7 0 + (if bitOf w 29 && !bitOf w 30 then shift else 0)
    putBytes kv (bitsOf w 23 18) ((List.range n).map fun i => if bitOf w 30 then mdata (off + i) else win (off + i)))
    (List.replicate 64 0)

/-- The metadata block of R94. -/
def metaBlock (inPort outPort : Nat) (pass ed whole egress fragl : Bool) (layout p shift next flags cls rMeta : Nat) : List Byte :=
  natBytes 2 inPort ++ natBytes 2 outPort ++
  [byte (b2n pass + 2 * b2n ed + 4 * b2n whole + 8 * b2n egress + 16 * b2n fragl), byte layout] ++ natBytes 2 p ++
  [byte shift, byte next] ++ natBytes 2 flags ++ [byte cls] ++ natBytes 2 rMeta ++ [0]

/-- The length that a layout's length field gives, when `PLEN_SRC` is not 0 (R95). -/
def fieldLen (lay : List Word) (win : Nat → Byte) : Option Nat :=
  let l3 := entF lay 32 7 0
  match entF lay 32 20 19 with
  | 1 => some (l3 + (win (l3 + 2)).toNat * 256 + (win (l3 + 3)).toNat + 4)
  | 2 => some (l3 + 40 + (win (l3 + 4)).toNat * 256 + (win (l3 + 5)).toNat + 4)
  | _ => none

/-- The predicted length P (R95). -/
def State.predicted (s : State) (f : Ing) (lay : List Word) : Nat :=
  if f.whole then f.len
  else match fieldLen lay f.win with
    | some p => p
    | none => let h := entF lay 33 13 0; if h = 0 then s.maxFrame f.lenPort else h

/-- Whether the length bounds of R96 hold for a length L against a field length P′. -/
def lenBounds (l p' trail : Nat) : Bool := decide (p' ≤ l) && decide (l ≤ max p' 64 + trail)

/-- Whether the length checks of R96 fail. -/
def State.lengthFails (s : State) (f : Ing) (lay : List Word) (p : Nat) : Bool :=
  let l3 := entF lay 32 7 0
  decide (s.maxFrame f.lenPort < p) ||
  (entF lay 32 20 19 == 1 && decide ((f.win (l3 + 2)).toNat * 256 + (f.win (l3 + 3)).toNat < 20)) ||
  (entF lay 32 24 23 == 1 && decide ((f.win l3).toNat % 16 < 5)) ||
  (f.whole && match fieldLen lay f.win with
    | some p' => !lenBounds f.len p' (s.rd fRDR_CFG_TRAIL_MAX f.pipe)
    | none => false)

/-- S, NEXT and FRAGL of a second pass (R100). -/
def skipOf (lay : List Word) (win : Nat → Byte) : Nat × Nat × Bool :=
  let l3 := entF lay 32 7 0
  let b := fun i => (win (l3 + i)).toNat
  match entF lay 32 24 23 with
  | 1 => (4 * (b 0 % 16) - 20, b 9, decide ((b 6 * 256 + b 7) % 8192 ≠ 0))
  | 2 => ((b 41 + 1) * 8, b 40, b 6 == 44 && decide ((b 42 * 256 + b 43) / 8 ≠ 0))
  | 3 => (entF lay 33 29 22, 0, false)
  | _ => (0, 0, false)

/-- What the Reader makes of a frame (R98). -/
inductive RdrOut where
  | fail (code : Nat)
  | drop
  | punt
  | parity (table index : Nat)
  | recirc (cls shift next : Nat) (fragl : Bool)
  | fwd (kv : List Byte)
  deriving DecidableEq, Repr

/-- The Reader's decision with the layout number (0 for NO_LAYOUT) and the predicted length (R98). -/
structure RdrRes where
  layout : Nat
  sel : Option Nat
  p : Nat
  out : RdrOut
  deriving DecidableEq, Repr

/-- The Reader's decision on one frame, in the order of R98. A length is predicted even where the order stops before it, for the
Stable (R95). -/
def State.readerDecide (s : State) (f : Ing) : RdrRes :=
  match s.selectEntry f.pipe (s.selectKey f) f.ed with
  | none => ⟨0, none, if f.whole then f.len else s.maxFrame f.lenPort, .fail 0x00⟩
  | some e =>
    let n := entF (s.ent 0x01 f.pipe e) 6 5 0
    let lay := s.ent 0x02 f.pipe n
    let act := entF lay 32 22 21
    let p := s.predicted f lay
    let out :=
      if act = 3 then .drop
      else if act = 2 then .punt
      else if act = 1 ∧ f.pass then .fail 0x03
      else if f.whole ∧ f.len < entF lay 33 21 14 + f.shift + 4 then .fail 0x01
      else if s.lengthFails f lay p then .fail 0x02
      else if 192 < furthestRead lay f.shift then .fail 0x03
      else if act = 1 then
        let k := skipOf lay f.win
        if 128 < k.1 then .fail 0x03 else .recirc (entF lay 32 27 25) k.1 k.2.1 k.2.2
      else
        let md := metaBlock f.inPort 0 f.pass f.ed f.whole false f.fragl n p f.shift f.next (entF lay 34 27 16) 0 0
        .fwd (keyVector lay f.shift f.win fun i => md.getD i 0)
    ⟨n, some e, p, out⟩

/-- The egress key vector (R102): rebuilt from the stored header with the carried layout, all 0 on the direct path. -/
def State.egressKey (s : State) (p : Nat) (x : Slip) (st : Stall) : List Byte :=
  if x.direct then List.replicate 64 0
  else
    let lay := s.ent 0x02 p st.layout
    let md := metaBlock st.inPort x.outPort st.pass st.ed st.whole true st.fragl st.layout st.pktLen st.shift st.nextProto
      (entF lay 34 27 16) x.cls st.rMeta
    keyVector lay st.shift (winByte st.bytes st.whole st.len) fun i => md.getD i 0

/-- The egress pre-filter tag (R102): 0 on the direct path. -/
def State.egressTag (s : State) (p : Nat) (x : Slip) (st : Stall) : Nat :=
  if x.direct then 0 else entF (s.ent 0x02 p st.layout) 34 15 8

/-! ### Parity of the Reader's tables (R105) -/

/-- Reads a replica of a Reader table: a bad replica is read again from a sister and copied over, counting a retry; when the
sister fails too the read is lost. The sister is the next of `n` replicas. Two failed reads of one frame raise RDR_PARITY once, beside
RDR_PARITY_DOUBLE (DESIGN CHOICE, assumption log 49). -/
def State.rdrRead (s : State) (p table rep n ck idx : Nat) : State × Bool :=
  if !s.bad ck p rep idx then (s, true)
  else
    let s := ((s.raise .RDR_PARITY p idx).wr fRDR_PAR_STATUS_TABLE table p).wr fRDR_PAR_STATUS_ENTRY idx p
    if s.bad ck p ((rep + 1) % n) idx then
      ((s.raise .RDR_PARITY_DOUBLE p idx).wr fRDR_PAR_STATUS_DOUBLE 1 p, false)
    else (((s.unmark ck p rep idx).addSat fRDR_PAR_STATUS_RETRIES 1 p).blk p 75, true)

end Sys2Proof.Machine
end

