-- ==== Sys2Proof/Machine/Lookup.lean ====
section
/-! DEFINITION. Lookups and group resolution (R109 to R134): hashed stores, the prefix index, the two phases, the chosen result r,
and the resolution of next hops, ECMP, LAG and multicast groups. -/
namespace Sys2Proof.Machine

/-! ### Entries -/

/-- Fields of the 64-bit result format (R119). -/
def resDt (r : Nat) : Nat := bitsOf r 2 0
def resDest (r : Nat) : Nat := bitsOf r 16 3
def resClsV (r : Nat) : Bool := bitOf r 17
def resCls (r : Nat) : Nat := bitsOf r 20 18
def resRw (r : Nat) : Nat := bitsOf r 36 21
def resMeta (r : Nat) : Nat := bitsOf r 52 37

/-- `DEST_TYPE` codes (R119). -/
def dtPORT : Nat := 0
def dtLAG : Nat := 1
def dtECMP : Nat := 2
def dtMCAST : Nat := 3
def dtNEXTHOP : Nat := 4
def dtDISCARD : Nat := 5
def dtPUNT : Nat := 6
def dtSET_BD : Nat := 7

/-- A read of a store (R118, R128): whether it was made, whether it hit or failed parity, its result, the entry number, whether the
hit was in overflow, and the table it read. -/
structure Rd where
  tried : Bool
  hit : Bool
  failed : Bool
  res : Nat
  idx : Nat
  ovf : Bool
  table : Nat
  deriving DecidableEq, Repr

/-- No read. -/
def Rd.none : Rd := ⟨false, false, false, 0, 0, false, 0⟩

/-- Whether an entry's key parity is bad: an injection inverted it (R417). -/
def State.kparBad (s : State) (ck p rep i : Nat) : Bool :=
  match s.marked ck p rep i with
  | some dbl => dbl || Config.firstParity ck i
  | none => false

/-- Whether an entry's result parity is bad. -/
def State.rparBad (s : State) (ck p rep i : Nat) : Bool :=
  match s.marked ck p rep i with
  | some dbl => dbl || !Config.firstParity ck i
  | none => false

/-- Whether a lookup table's entry fails its parity in the pipeline that reads it. -/
def State.lkBad (s : State) (p t i : Nat) : Bool :=
  match tblInfo t with
  | some x => s.bad x.checker (tblPipe t p) (if x.held = .rep then p else 0) i
  | none => false

/-! ### The bridge store (R114 to R118, R120) -/

/-- The 64-bit key of a bridge entry: BD, zero-extended to 16 bits, then the MAC. -/
def bridgeKey (bd mac : Nat) : Nat := bd * 2 ^ 48 + mac

/-- The bucket of a bridge key (R115). -/
def State.bridgeBucket (s : State) (p bd mac : Nat) : Nat :=
  crc32 (s.rd fBRS_HASH_POLY p) (s.rd fBRS_SEED_SEED p) (natBytes 8 (bridgeKey bd mac)) % 2 ^ 17

/-- Whether a valid bridge entry holds a key. -/
def bridgeIs (e : List Word) (bd mac : Nat) : Bool :=
  entB e 1 30 && entF e 0 31 0 == mac % 2 ^ 32 && entF e 1 15 0 == mac / 2 ^ 32 && entF e 1 29 16 == bd

/-- A bridge entry's result in the format of R119, with its META in the result's META. -/
def bridgeRes (e : List Word) : Nat := entF e 2 16 14 + entF e 2 13 0 * 2 ^ 3 + entF e 2 26 19 * 2 ^ 37

/-- The valid overflow entries of a store that hold a key, by entry number. -/
def State.ovfFind (s : State) (t p first : Nat) (is : List Word → Bool) : List Nat :=
  (s.tables.filter fun x => x.1.1 == t && x.1.2.1 == p && decide (first ≤ x.1.2.2) && is x.2).map (·.1.2.2)

/-- The entry number that holds a bridge key, if any. -/
def State.bridgeFind (s : State) (p bd mac : Nat) : Option Nat :=
  let b := s.bridgeBucket p bd mac
  match (List.range 4).find? fun w => bridgeIs (s.ent 0x0C p (4 * b + w)) bd mac with
  | some w => some (4 * b + w)
  | none => (s.ovfFind 0x0C p 524288 fun e => bridgeIs e bd mac).head?

/-- A lookup in a pipeline's bridge store, with its parity rules (R118, R128). -/
def State.bridgeRead (s : State) (p bd mac : Nat) : Rd :=
  let b := s.bridgeBucket p bd mac
  match (List.range 4).find? fun w => bridgeIs (s.ent 0x0C p (4 * b + w)) bd mac with
  | some w =>
    let i := 4 * b + w
    if s.rparBad 0x07 p 0 i then ⟨true, false, true, 0, i, false, 0x0C⟩
    else ⟨true, true, false, bridgeRes (s.ent 0x0C p i), i, false, 0x0C⟩
  | none =>
    match (s.ovfFind 0x0C p 524288 fun e => bridgeIs e bd mac).head? with
    | some i =>
      if s.bad 0x08 p 0 i then ⟨true, false, true, 0, i, true, 0x0C⟩
      else ⟨true, true, false, bridgeRes (s.ent 0x0C p i), i, true, 0x0C⟩
    | none =>
      match (List.range 4).find? fun w => s.kparBad 0x07 p 0 (4 * b + w) with
      | some w => ⟨true, false, true, 0, 4 * b + w, false, 0x0C⟩
      | none => ⟨true, false, false, 0, 0, false, 0x0C⟩

/-! ### The key store (R114) -/

/-- Whether a key-store type is a double entry. -/
def keyDbl (ty : Nat) : Bool := ty == 3 || ty == 6 || ty == 8 || ty == 9 || ty == 10

/-- The key of a type from the key vector at an offset and a VRF (R114). -/
def keyOf (ty vrf : Nat) (kv : List Byte) (off : Nat) : Nat :=
  let b := fun n => bytesNat ((kv.drop off).take n)
  match ty with
  | 1 => b 3 / 16
  | 2 | 5 | 7 => vrf * 2 ^ 32 + b 4
  | 3 | 6 | 8 => vrf * 2 ^ 148 + b 16
  | 4 => b 3
  | 9 => vrf * 2 ^ 148 + b 13
  | 10 => vrf * 2 ^ 148 + b 3 % 2 ^ 20 * 2 ^ 128 + bytesNat ((kv.drop (off + 3)).take 16)
  | _ => 0

/-- Key-vector bytes that a key type reads (R114), for the check of R110. -/
def keyBytes : Nat → Nat
  | 1 => 3 | 2 => 4 | 3 => 16 | 4 => 3 | 5 => 4 | 6 => 16 | 7 => 4 | 8 => 16 | 9 => 13 | 10 => 19 | _ => 0

/-- The bucket of a key-store key (R115). -/
def State.keyBucket (s : State) (ty key : Nat) : Nat :=
  crc32 (s.rd fKST_HASH_POLY) (s.rd fKST_SEED_SEED) (byte ty :: natBytes (if keyDbl ty then 20 else 10) key) % 2 ^ 18

/-- The 80 key bits of a key-store entry. -/
def kstKey (e : List Word) : Nat := wordsNat (e.take 2) + entF e 2 15 0 * 2 ^ 64

/-- Whether the entry at n (with the next one, for a double entry) holds a valid key of a type. -/
def State.kstIs (s : State) (n ty key : Nat) : Bool :=
  let e := s.ent 0x0D 15 n
  let ok := entB e 2 20 && entF e 2 19 16 == ty
  if keyDbl ty then
    let e2 := s.ent 0x0D 15 (n + 1)
    ok && entB e 2 21 && !entB e 2 22 && kstKey e == key / 2 ^ 80 && entB e2 2 20 && entB e2 2 22 && kstKey e2 == key % 2 ^ 80
  else ok && !entB e 2 21 && kstKey e == key

/-- The overflow entries of the key store that hold a key. -/
def State.kstOvf (s : State) (ty key : Nat) : List Nat :=
  (s.tables.filter fun x => x.1.1 == 0x0D && decide (1048576 ≤ x.1.2.2) && s.kstIs x.1.2.2 ty key).map (·.1.2.2)

/-- The ways of a bucket at which an entry of a type may start. -/
def keyWays (ty : Nat) : List Nat := if keyDbl ty then [0, 2] else [0, 1, 2, 3]

/-- The entry number that holds a key-store key, if any. -/
def State.kstFind (s : State) (ty key : Nat) : Option Nat :=
  let b := s.keyBucket ty key
  match (keyWays ty).find? fun w => s.kstIs (4 * b + w) ty key with
  | some w => some (4 * b + w)
  | none => (s.kstOvf ty key).head?

/-- A lookup in the key-store copy of a pipeline (R21, R118, R128). -/
def State.kstRead (s : State) (p ty key : Nat) : Rd :=
  let cp := p / 4
  let b := s.keyBucket ty key
  let res := fun i => wordsNat ((s.ent 0x0D 15 i).drop 3)
  match (keyWays ty).find? fun w => s.kstIs (4 * b + w) ty key with
  | some w =>
    let i := 4 * b + w
    if s.rparBad 0x09 15 cp i || (keyDbl ty && s.rparBad 0x09 15 cp (i + 1)) then ⟨true, false, true, 0, i, false, 0x0D⟩
    else ⟨true, true, false, res i, i, false, 0x0D⟩
  | none =>
    match (s.kstOvf ty key).head? with
    | some i =>
      if s.bad 0x0A 15 cp i || (keyDbl ty && s.bad 0x0A 15 cp (i + 1)) then ⟨true, false, true, 0, i, true, 0x0D⟩
      else ⟨true, true, false, res i, i, true, 0x0D⟩
    | none =>
      match (List.range 4).find? fun w => s.kparBad 0x09 15 cp (4 * b + w) with
      | some w => ⟨true, false, true, 0, 4 * b + w, false, 0x0D⟩
      | none => ⟨true, false, false, 0, 0, false, 0x0D⟩

/-! ### The prefix index (R121, R122, R364) -/

/-- The prefix of a descriptor, as a number of 32 or 128 bits. -/
def pfxBits (e : List Word) : Nat :=
  let w := fun i => (e.getD i 0).toNat
  if entB e 0 12 then w 1 * 2 ^ 96 + w 2 * 2 ^ 64 + w 3 * 2 ^ 32 + w 4 else w 1

/-- Whether a descriptor covers an address of a VRF and family. -/
def pfxCovers (e : List Word) (vrf : Nat) (v6 : Bool) (addr : Nat) : Bool :=
  let width := if v6 then 128 else 32
  let len := entF e 0 20 13
  entF e 0 11 0 == vrf && entB e 0 12 == v6 && addr / 2 ^ (width - len) == pfxBits e / 2 ^ (width - len)

/-- The prefixes held, as (slot, descriptor). -/
def State.prefixes (s : State) : List (Nat × List Word) :=
  (s.tables.filter fun x => x.1.1 == 0x0E).map fun x => (x.1.2.2, x.2)

/-- The longest prefix that covers an address (R122). -/
def State.pfxFind (s : State) (vrf : Nat) (v6 : Bool) (addr : Nat) : Option (Nat × List Word) :=
  (s.prefixes.filter fun x => pfxCovers x.2 vrf v6 addr).foldl
    (fun best x => match best with
      | some b => if entF b.2 0 20 13 < entF x.2 0 20 13 then some x else best
      | none => some x) none

/-- A prefix lookup in the copy of a pipeline (R128). -/
def State.pfxRead (s : State) (p vrf : Nat) (v6 : Bool) (addr : Nat) : Rd :=
  match s.pfxFind vrf v6 addr with
  | some x =>
    if s.bad 0x0B 15 (p / 4) x.1 then ⟨true, false, true, 0, x.1, false, 0x0E⟩
    else ⟨true, true, false, wordsNat ((x.2.drop 5).take 2), x.1, false, 0x0E⟩
  | none => ⟨true, false, false, 0, 0, false, 0x0E⟩

/-! ### Group resolution (R124 to R127) -/

/-- What group resolution gives: a drop, a parity failure of a decisive read, a multicast group with `RW_IDX`, whose copy set enqueue computes, or
the copies, with the counts of ECMP resolutions, LAG resolutions and LAG remaps. -/
inductive GRes where
  | drop (code : Nat)
  | parity (table index : Nat)
  | mcast (group rw : Nat)
  | ok (copies : List CopyReq) (ecmp lag remap : Nat)
  deriving DecidableEq, Repr

/-- The port and V bit of a LAG member slot (R126). -/
def lagSlot (e : List Word) (i : Nat) : Nat × Bool :=
  if i % 2 = 0 then (entF e (i / 2) 8 0, entB e (i / 2) 9) else (entF e (i / 2) 24 16, entB e (i / 2) 25)

/-- The slot that a LAG bucket names. -/
def lagBucket (e : List Word) (b : Nat) : Nat := bitsOf ((e.getD (32 + b / 4) 0).toNat) (8 * (b % 4) + 5) (8 * (b % 4))

/-- The member of a LAG for a hash, and whether it was remapped to a live bucket (R126). -/
def State.lagPick (s : State) (e : List Word) (h : Nat) : Option (Nat × Bool) :=
  let liveB := fun b => let sl := lagSlot e (lagBucket e b); sl.2 && s.live sl.1
  let b := h % 256
  if liveB b then some ((lagSlot e (lagBucket e b)).1, false)
  else
    let ls := (List.range 256).filter liveB
    if ls.length = 0 then none
    else some ((lagSlot e (lagBucket e (ls.getD (h / 256 % 256 % ls.length) 0))).1, true)

/-- Resolves a LAG for one copy. -/
def State.resolveLag (s : State) (p g h : Nat) (nh : Option Nat) (rw ecmp : Nat) : GRes :=
  if s.lkBad p 0x12 g then .parity 0x12 g
  else
    let e := s.ent 0x12 p g
    if !entB e 96 0 then .drop 0x18
    else match s.lagPick e h with
      | some (port, re) => .ok [⟨port, 0, nh, rw, none, false⟩] ecmp 1 (b2n re)
      | none => .drop 0x17

/-- Resolves a next hop (R125). -/
def State.resolveNh (s : State) (p n h ecmp : Nat) : GRes :=
  if s.lkBad p 0x0F n then .parity 0x0F n
  else
    let e := s.ent 0x0F p n
    if !entB e 1 30 then .drop 0x18
    else
      let rw := entF e 2 26 11
      if entB e 2 10 then s.resolveLag p (entF e 2 9 0) h (some n) rw ecmp
      else .ok [⟨entF e 2 9 0, 0, some n, rw, none, false⟩] ecmp 0 0

/-- The LAG list of a multicast group: eight entries of (LAG, valid) (R127). -/
def mcLags (e : List Word) : List Nat :=
  (List.range 4).flatMap fun i =>
    (if entB e (9 + i) 10 then [entF e (9 + i) 9 0] else []) ++ (if entB e (9 + i) 26 then [entF e (9 + i) 25 16] else [])

/-- The LAGs of a multicast group that a frame from an input port may take (R127). -/
def State.mcTakes (s : State) (p : Nat) (e : List Word) (lidx : Nat) : List Nat :=
  (mcLags e).filter fun l => !(entB e 8 2 && s.rd fBRS_PORT_LAG_V p lidx == 1 && s.rd fBRS_PORT_LAG_ID p lidx == l)

/-- Resolves a multicast group for a frame from an input port (R127): its entry and those of its LAGs are read, and must be good. -/
def State.resolveMc (s : State) (p g rw lidx : Nat) : GRes :=
  if s.lkBad p 0x13 g then .parity 0x13 g
  else if !entB (s.ent 0x13 p g) 8 3 then .drop 0x18
  else match (s.mcTakes p (s.ent 0x13 p g) lidx).find? fun l => s.lkBad p 0x12 l with
    | some l => .parity 0x12 l
    | none => .mcast g rw

/-- The copy set of a multicast group for a frame from an input port (R127), with the counts of LAG resolutions and LAG remaps. -/
def State.mcSet (s : State) (p g h rw inPort lidx : Nat) : List CopyReq × Nat × Nat :=
  let e := s.ent 0x13 p g
  let prune := entB e 8 2
  let ports := ((List.range 256).filter fun n => bitOf ((e.getD (n / 32) 0).toNat) (n % 32) && !(prune && n == inPort)) ++
    (if entB e 8 0 && !(prune && inPort == 264) then [264] else []) ++
    (if entB e 8 1 && !(prune && inPort == 265) then [265] else [])
  let picks := (s.mcTakes p e lidx).filterMap fun l =>
    let le := s.ent 0x12 p l
    if entB le 96 0 then s.lagPick le h else none
  let copies := ports ++ (picks.map (·.1)).filter fun n => !(prune && n == inPort)
  (copies.map fun n => ⟨n, 0, none, rw, none, false⟩, picks.length, (picks.filter (·.2)).length)

/-- Resolves a destination (R125): PORT, LAG, ECMP, MCAST or NEXTHOP; the other types have no copies of their own. -/
def State.resolve (s : State) (p dt dest rw h lidx : Nat) : GRes :=
  match dt with
  | 0 => .ok [⟨dest, 0, none, rw, none, false⟩] 0 0 0
  | 1 => s.resolveLag p dest h none rw 0
  | 2 =>
    if s.lkBad p 0x10 dest then .parity 0x10 dest
    else
      let e := s.ent 0x10 p dest
      if !entB e 0 25 then .drop 0x18
      else
        let m := entF e 0 15 0 + (h / 2 ^ 16 * entF e 0 24 16) / 2 ^ 16
        if s.lkBad p 0x11 m then .parity 0x11 m
        else s.resolveNh p (entF (s.ent 0x11 p m) 0 13 0) h 1
  | 3 => s.resolveMc p dest rw lidx
  | 4 => s.resolveNh p dest h 0
  | _ => .ok [] 0 0 0

/-! ### The two phases (R110 to R113) -/

/-- Phase 1 and the reads of phase 2; `base` are the direct tables' entries read, as (table, index). -/
structure Look where
  prof : List Word
  bd : Nat
  bdE : List Word
  routed : Bool
  ka : Rd
  kb : Rd
  pfx : Rd
  da : Rd
  sa : Rd
  daMac : Nat
  saMac : Nat
  vrf0 : Nat
  vrf : Nat
  hash : Nat
  base : List (Nat × Nat)
  deriving DecidableEq, Repr

/-- How a lookup stage ends before a result: a drop code, or a decisive read that failed. -/
inductive LookStop where
  | drop (code : Nat)
  | parity (table index : Nat)
  deriving DecidableEq, Repr

/-- The group hash of a frame (R124). -/
def State.groupHash (s : State) (p : Nat) (prof : List Word) (kv : List Byte) : Nat :=
  let mask := wordsNat ((prof.drop 2).take 2)
  crc32 (s.rd fBRS_GRP_HASH_POLY p) (s.rd fBRS_GRP_SEED_SEED p) ((kv.zipIdx.filter fun b => bitOf mask b.2).map (·.1))

/-- The address family of a routed frame: IPv6 or not, or none (R112). -/
def famOf (prof : List Word) : Option Bool :=
  match entF prof 0 23 22 with
  | 1 => some false
  | 2 => some true
  | _ => match entF prof 1 13 10 with
    | 2 | 5 | 7 | 9 => some false
    | 3 | 6 | 8 | 10 => some true
    | _ => none

/-- Key B's read: a result SET_BD is acted on from key A only, and from key B counts as a miss (R119). -/
def kbRead (x : Rd) : Rd := if x.hit && resDt x.res == dtSET_BD then { x with hit := false, res := 0 } else x

/-- A bad reading of key A in phase 1 makes it a miss (R113, R128). -/
def kaBd (ka : Rd) (bd0 : Nat) : Nat := if ka.hit && resDt ka.res == dtSET_BD then resDest ka.res % 2 ^ 14 else bd0

/-- The reads of both phases for a frame with lookup profile number `lp` (R110 to R113). A stop comes with the hashed reads made before
it. -/
def State.lookReads (s : State) (f : Ing) (kv : List Byte) (lp : Nat) : (LookStop × List Rd) ⊕ Look :=
  let p := f.pipe
  if s.lkBad p 0x08 lp then .inl (.parity 0x08 lp, [])
  else
    let prof := s.ent 0x08 p lp
    if !entB prof 0 0 then .inl (.drop 0x14, [])
    else
      let tagged := entB prof 0 2
      let vid := bytesNat ((kv.drop (entF prof 0 8 3)).take 2) % 4096
      let vi := f.lidx * 4096 + vid
      if tagged ∧ s.lkBad p 0x09 vi then .inl (.parity 0x09 vi, [])
      else
        let pv := s.ent 0x09 p vi
        let bd0 := if tagged then entF pv 0 13 0 else s.rd fBRS_PORT_UNTAG_BD p f.lidx
        if !(if tagged then entB pv 0 14 else s.on fBRS_PORT_UNTAG_V p f.lidx) then .inl (.drop 0x11, [])
        else if s.lkBad p 0x0A bd0 then .inl (.parity 0x0A bd0, [])
        else
          let e0 := s.ent 0x0A p bd0
          let vrf0 := if entB e0 0 28 then entF e0 1 25 14 else 0
          let kat := entF prof 1 3 0
          let ka := if kat = 0 then Rd.none else s.kstRead p kat (keyOf kat vrf0 kv (entF prof 1 9 4))
          let bd := kaBd ka bd0
          if s.lkBad p 0x0A bd then .inl (.parity 0x0A bd, [ka])
          else
            let e := s.ent 0x0A p bd
            if !entB e 0 28 then .inl (.drop 0x12, [ka])
            else
              let da := bytesNat ((kv.drop (entF prof 0 14 9)).take 6)
              let sa := bytesNat ((kv.drop (entF prof 0 20 15)).take 6)
              let ri := entF e 1 29 26
              let rmac := s.rd fBRS_RMAC_HI_MAC_HI p ri * 2 ^ 32 + (s.rg .BRS_RMAC_LO p ri).toNat
              let routed := entB prof 0 21 && entB e 0 29 && s.on fBRS_RMAC_HI_V p ri && da == rmac
              let vrf := entF e 1 25 14
              let br := entB prof 0 1
              let kbt := entF prof 1 13 10
              let kb := if kbt = 0 ∨ (entB prof 1 20 ∧ !routed) then Rd.none
                else kbRead (s.kstRead p kbt (keyOf kbt vrf kv (entF prof 1 19 14)))
              let po := entF prof 0 29 24
              let pfx := match entF prof 0 23 22 with
                | 1 => s.pfxRead p vrf false (bytesNat ((kv.drop po).take 4))
                | 2 => s.pfxRead p vrf true (bytesNat ((kv.drop po).take 16))
                | _ => Rd.none
              .inr ⟨prof, bd, e, routed, ka, kb, pfx, if br then s.bridgeRead p bd da else Rd.none,
                if br then s.bridgeRead p bd sa else Rd.none, da, sa, vrf0, vrf, s.groupHash p prof kv,
                [(0x08, lp), (0x0A, bd0), (0x0A, bd)] ++ (if tagged then [(0x09, vi)] else []) ++
                  (if routed then [(0x0B, vrf)] else [])⟩

/-- The chosen result (R123): r, the BUM rein of the flood group it chose, and which rule gave it (0 other, 1 broadcast, 2 unknown
multicast, 3 unknown unicast, 4 MISS_RESULT, 5 FLOW, 6 destination bridge hit). -/
structure Chosen where
  r : Nat
  rein : Option Nat
  rule : Nat
  deriving DecidableEq, Repr

/-- A BUM rein of a BD entry, when its enable bit is set (R112, R123). -/
def bumRein (e : List Word) (w sh : Nat) : Option Nat := if entB e w (sh + 15) then some (entF e w (sh + 14) sh) else none

/-- The result of a flood to a multicast group. -/
def mcRes (g : Nat) : Nat := dtMCAST + g * 2 ^ 3

/-- The VRF's verdict on a routed frame (R112): parity, drop, or the MISS_RESULT. -/
def State.vrfCheck (s : State) (p : Nat) (l : Look) : LookStop ⊕ Nat :=
  if s.lkBad p 0x0B l.vrf then .inl (.parity 0x0B l.vrf)
  else
    let e := s.ent 0x0B p l.vrf
    let famOk := match famOf l.prof with
      | some false => entB e 2 1
      | some true => entB e 2 2
      | none => true
    if entB e 2 0 && famOk then .inr (wordsNat (e.take 2)) else .inl (.drop 0x13)

/-- The bridged rules of R123. -/
def chooseBridged (l : Look) : LookStop ⊕ Chosen :=
  let e := l.bdE
  if l.daMac = 2 ^ 48 - 1 then .inr ⟨mcRes (entF e 0 27 14), bumRein e 2 0, 1⟩
  else if l.da.failed then .inl (.parity l.da.table l.da.idx)
  else if l.da.hit then .inr ⟨l.da.res, none, 6⟩
  else if bitOf l.daMac 40 then .inr ⟨mcRes (entF e 1 13 0), bumRein e 3 0, 2⟩
  else .inr ⟨mcRes (entF e 0 13 0), bumRein e 2 16, 3⟩

/-- The routed rules of R123. -/
def chooseRouted (l : Look) (miss : Nat) : LookStop ⊕ Chosen :=
  let kbt := entF l.prof 1 13 10
  let flow := kbt == 9 || kbt == 10
  if l.kb.failed && !flow then .inl (.parity l.kb.table l.kb.idx)
  else if l.kb.hit && !flow then .inr ⟨l.kb.res, none, 0⟩
  else if l.pfx.failed then .inl (.parity l.pfx.table l.pfx.idx)
  else if l.pfx.hit then .inr ⟨l.pfx.res, none, 0⟩
  else .inr ⟨miss, none, 4⟩

/-- The chosen result of a frame, by the first rule of R123 that applies, once the VRF of a routed frame allows it (R112); a failed read
that a rule consults makes the frame a PARITY_MISS (R128). -/
def State.choose (s : State) (p : Nat) (l : Look) : LookStop ⊕ Chosen :=
  let kat := entF l.prof 1 3 0
  let kbt := entF l.prof 1 13 10
  let rest := fun (miss : Nat) => if l.routed then chooseRouted l miss else chooseBridged l
  let flowB := fun (miss : Nat) =>
    if (kbt = 9 ∨ kbt = 10) ∧ l.kb.failed then .inl (LookStop.parity l.kb.table l.kb.idx)
    else if (kbt = 9 ∨ kbt = 10) ∧ l.kb.hit then .inr ⟨l.kb.res, none, 5⟩
    else if kat = 1 then
      if l.ka.failed then .inl (.parity l.ka.table l.ka.idx)
      else if !l.ka.hit then .inl (.drop 0x15)
      else if resDt l.ka.res ≠ dtSET_BD then .inr ⟨l.ka.res, none, 0⟩
      else rest miss
    else rest miss
  match (if l.routed then s.vrfCheck p l else .inr 0) with
  | .inl x => .inl x
  | .inr miss =>
    if (kat = 9 ∨ kat = 10) ∧ l.ka.failed then .inl (.parity l.ka.table l.ka.idx)
    else if (kat = 9 ∨ kat = 10) ∧ l.ka.hit then .inr ⟨l.ka.res, none, 5⟩
    else flowB miss

/-- The lookup block for the Catalogue (R158). -/
def lookBlock (l : Look) (r : Nat) : List Byte :=
  let h := fun (x : Rd) => if x.hit then 128 else 0
  let m := fun (x : Rd) => if x.hit then resMeta x.res else 0
  [byte (h l.ka + entF l.prof 1 3 0)] ++ natBytes 2 (m l.ka) ++ [byte (h l.kb + entF l.prof 1 13 10)] ++ natBytes 2 (m l.kb) ++
  [byte (h l.pfx)] ++ natBytes 2 (m l.pfx) ++ [byte (m l.da), byte (m l.sa), byte (entF l.bdE 3 23 16)] ++ natBytes 2 l.bd ++
  [byte ((if l.routed then 128 else 0) + resDt r), 0]

/-! ### Counting and reporting -/

/-- The TABLE code of `BRS_PAR_STATUS` for a table and index. -/
def brsTable (t i : Nat) : Nat :=
  match t with
  | 0x0C => if i < 524288 then 0 else 1
  | 0x08 => 2 | 0x09 => 3 | 0x0A => 4 | 0x0B => 5 | 0x0F => 6 | 0x10 => 7 | 0x11 => 8 | 0x12 => 9 | _ => 10

/-- Reports a failed read of a lookup table (R128, R134) and captures it in the status register of its block. -/
def State.lkReport (s : State) (p t i : Nat) : State :=
  if t = 0x0D ∨ t = 0x0E then
    let s := if t = 0x0D then s.raise .KST_PARITY 0 i else s.raise .PFX_PARITY 0 i
    if s.on fKST_PAR_STATUS_VALID then s
    else (((s.wr fKST_PAR_STATUS_VALID 1).wr fKST_PAR_STATUS_COPY (p / 4)).wr fKST_PAR_STATUS_TABLE
      (if t = 0x0E then 2 else if i < 1048576 then 0 else 1)).wr fKST_PAR_STATUS_INDEX i
  else
    let s := if t = 0x0C then s.raise .BRS_PARITY p i else s.raise .GRP_PARITY p i
    if s.on fBRS_PAR_STATUS_VALID p then s
    else ((s.wr fBRS_PAR_STATUS_VALID 1 p).wr fBRS_PAR_STATUS_TABLE (brsTable t i) p).wr fBRS_PAR_STATUS_INDEX i p

/-- The reads of a frame that failed. -/
def Look.failedReads (l : Look) : List Rd := [l.ka, l.kb, l.pfx, l.da, l.sa].filter (·.failed)

/-- Counts key A's read (R132). -/
def State.countKa (s : State) (p : Nat) (ka : Rd) : State :=
  if !ka.tried then s
  else
    let s := s.blk p (128 + (if ka.hit then 7 else 8))
    if ka.hit && ka.ovf then s.blk p (128 + 14) else s

/-- Counts the lookups of a frame (R132, BLOCK base 128) and its BD counters (R288). -/
def State.countLook (s : State) (f : Ing) (l : Look) : State :=
  let p := f.pipe
  let c := fun (s : State) (b : Bool) (i : Nat) => if b then s.blk p (128 + i) else s
  let s := c s l.da.hit 0
  let s := c (c s (l.sa.tried && l.sa.hit) 4) (l.sa.tried && !l.sa.hit) 5
  let s := c s l.routed 6
  let s := s.countKa p l.ka
  let s := c (c s l.kb.hit 9) (l.kb.tried && !l.kb.hit) 10
  let s := c s l.pfx.hit 11
  let ovf := ([l.kb, l.da, l.sa].filter fun x => x.hit && x.ovf).length
  let s := if ovf = 0 then s else s.blk p (128 + 14) ovf
  let s := s.count 13 l.bd 0 1
  if l.routed then s.count 13 l.bd 3 1 else s

end Sys2Proof.Machine
end

