-- ==== Sys2Proof/Machine/Learning.lean ====
section
/-! DEFINITION. Learning, ageing and the table mirror (R135 to R153): mirror records, writes of mirrored tables, hit bits, the source
check, learn limits and the learn queue, deletion of bridge entries, repairs and the repair fence. -/
namespace Sys2Proof.Machine

/-! ### The table mirror (R144 to R148) -/

/-- The mirrored tables, in ascending identifier. -/
def mirroredTables : List Nat :=
  [0x01, 0x02, 0x08, 0x09, 0x0A, 0x0B, 0x0C, 0x0D, 0x0E, 0x0F, 0x10, 0x11, 0x12, 0x13, 0x18, 0x19, 0x1A, 0x1B, 0x20, 0x21, 0x22,
   0x28, 0x29, 0x2A, 0x2B, 0x2C, 0x2D, 0x2E, 0x2F]

/-- RSZ of a table: its record is the smallest power of two from 32 to 512 bytes that holds 16 bytes and the entry (R145). -/
def recLog (t : Nat) : Nat :=
  let n := 16 + 4 * (match tblInfo t with | some x => x.words | none => 0)
  if n ≤ 32 then 5 else if n ≤ 64 then 6 else if n ≤ 128 then 7 else if n ≤ 256 then 8 else 9

/-- The number of entries of a table. -/
def tblEntries (t : Nat) : Nat := match tblInfo t with | some x => x.entries | none => 0

/-- The number of words of an entry of a table. -/
def tblWords (t : Nat) : Nat := match tblInfo t with | some x => x.words | none => 0

/-- Whether a table is held per pipeline. -/
def tblPerPipe (t : Nat) : Bool := match tblInfo t with | some x => x.held == .pipe | none => false

/-- The bytes of one region of a table, rounded up to 4 KiB (R145). -/
def regionBytes (t : Nat) : Nat := (tblEntries t * 2 ^ recLog t + 4095) / 4096 * 4096

/-- The byte offset of a table's region for a pipeline from the mirror base (R145). -/
def regionOff (t p : Nat) : Nat :=
  4096 + ((mirroredTables.filter (· < t)).map fun u => regionBytes u * (if tblPerPipe u then 8 else 1)).sum +
    (if tblPerPipe t then p * regionBytes t else 0)

/-- The smallest mirror, in MiB (`CLE_MIRROR_NEED`). -/
def mirrorNeed : Nat :=
  (4096 + (mirroredTables.map fun u => regionBytes u * (if tblPerPipe u then 8 else 1)).sum + 2 ^ 20 - 1) / 2 ^ 20

/-- The words a to b of an entry, whole, as parts (word, hi, lo). -/
def wholeWords (a b : Nat) : List (Nat × Nat × Nat) := (List.range (b + 1 - a)).map fun i => (a + i, 31, 0)

/-- The parity bits of an entry that the EF9 keeps, each with the parts that it covers (R90, R92, R110 to R127, R157, R160, R180, R190,
R191): the word and bit, then the parts as (word, hi, lo). -/
def parityFields (t : Nat) : List ((Nat × Nat) × List (Nat × Nat × Nat)) :=
  match t with
  | 0x01 => [((7, 0), wholeWords 0 5), ((7, 1), wholeWords 6 6)]
  | 0x02 => [((36, 0), wholeWords 0 31), ((36, 1), wholeWords 32 35)]
  | 0x08 => [((4, 0), wholeWords 0 3)]
  | 0x09 => [((0, 15), [(0, 14, 0)])]
  | 0x0A => [((3, 31), wholeWords 0 2 ++ [(3, 30, 0)])]
  | 0x0B => [((2, 31), wholeWords 0 1 ++ [(2, 30, 0)])]
  | 0x0C => [((1, 31), [(0, 31, 0), (1, 30, 0)]), ((2, 31), [(2, 30, 0)])]
  | 0x0D => [((2, 23), wholeWords 0 1 ++ [(2, 22, 0)]), ((2, 24), wholeWords 3 4)]
  | 0x0F => [((3, 0), wholeWords 0 2)]
  | 0x10 => [((0, 26), [(0, 25, 0)])]
  | 0x11 => [((0, 14), [(0, 13, 0)])]
  | 0x12 => [((96, 1), wholeWords 0 95 ++ [(96, 0, 0)])]
  | 0x13 => [((13, 0), wholeWords 0 12)]
  | 0x18 | 0x19 => [((17, 0), wholeWords 0 16)]
  | 0x1A | 0x1B => [((20, 8), wholeWords 0 9), ((20, 9), wholeWords 10 19), ((20, 10), [(21, 31, 0), (22, 31, 0), (20, 2, 0)])]
  | 0x20 => [((7, 16), wholeWords 0 6), ((7, 17), [(7, 15, 0)])]
  | 0x21 => [((16, 0), wholeWords 0 15)]
  | 0x22 => [((0, 13), [(0, 12, 0)])]
  | _ => []

/-- The check codes of the Harness's tables, as (word, hi, lo) (R246 to R261). Their values are not stated. -/
def codeFields (t : Nat) : List (Nat × Nat × Nat) :=
  match t with
  | 0x28 => [(0, 31, 24)]
  | 0x29 | 0x2A | 0x2B | 0x2C | 0x2D | 0x2E => [(7, 15, 0)]
  | 0x2F => [(1, 15, 8)]
  | _ => []

/-- The fields of an entry that the EF9 keeps as check bits, as (word, hi, lo). -/
def checkFields (t : Nat) : List (Nat × Nat × Nat) := ((parityFields t).map fun f => (f.1.1, f.1.2, f.1.2)) ++ codeFields t

/-- The parity of parts of an entry: 1 when they hold an odd number of ones, so that an entry of zeros has good parity (R149, R171; DEDUCED,
assumption log 41). -/
def parityOf (e : List Word) (parts : List (Nat × Nat × Nat)) : Nat :=
  (parts.map fun f => ((List.range 32).filter fun i => bitOf (entF e f.1 f.2.1 f.2.2) i).length).sum % 2

/-- An entry as stored, its check bits included: its parity bits, and of a check code a free value of the entry's content (assumption log
3). -/
def asStored (t : Nat) (e : List Word) : List Word :=
  let e' := (parityFields t).foldl (fun x f => entSet x f.1.1 f.1.2 f.1.2 (parityOf e f.2)) e
  (codeFields t).foldl (fun x f => entSet x f.1 f.2.1 f.2.2 (Config.checkBits (wordsNat x)).toNat) e'

/-- One mirror record as words (R146), its CRC over bytes 0 to 11 and the entry words, padded to the record size (the
padding is not in the CRC: DEDUCED, assumption log 22). -/
def mirrorWords (seq t p origin i : Nat) (e : List Word) : List Word :=
  let e := e.take (tblWords t)
  let head := [word seq, word (t + p * 2 ^ 8 + origin * 2 ^ 12 + e.length * 2 ^ 16), word (i % 2 ^ 24)]
  head ++ [word (crc16 (((head ++ e).map wordBytes).flatten))] ++ e ++ zeros (2 ^ recLog t / 4 - 4 - e.length)

/-- A host's mirror queue. -/
def State.mirQ (s : State) (h : HostId) : MirQ := AMap.getD s.lrn.mirrors h ⟨0, [], false, 0⟩

/-- The state with a host's mirror queue replaced. -/
def State.setMirQ (s : State) (h : HostId) (q : MirQ) : State := { s with lrn := { s.lrn with mirrors := AMap.set s.lrn.mirrors h q } }

/-- Queues one record on a host's running mirror; progress is measured from the first record of an idle queue (R147). -/
def State.mirPush (s : State) (h : HostId) (t p origin i : Nat) (e : List Word) : State :=
  let q := s.mirQ h
  if q.running then
    s.setMirQ h ⟨q.seq + 1, q.queue ++ [(regionOff t p + i * 2 ^ recLog t, mirrorWords q.seq t (if tblPerPipe t then p else 15) origin i e)],
      true, if q.queue.isEmpty then s.tim.rc else q.progress⟩
  else s

/-- Queues the record of a change on both mirrors (R147). -/
def State.mirrored (s : State) (t p origin i : Nat) (e : List Word) : State :=
  if t ∈ mirroredTables then (s.mirPush .a t p origin i e).mirPush .b t p origin i e else s

/-- Whether a mirror queue has no room for n records, so that the write of an entry of n words' records waits (R147). -/
def State.mirShort (s : State) (n : Nat) : Bool :=
  [HostId.a, .b].any fun h => (s.mirQ h).running && decide (4096 < (s.mirQ h).queue.length + n)

/-- Whether a writer of mirrored tables must hold its next write (R147). -/
def State.mirFull (s : State) : Bool := s.mirShort 1

/-- Writes a table entry whole and queues its mirror record with an origin (R130, R147). The record of an entry of zeros, a delete, is zeros
(R146). -/
def State.writeEnt (s : State) (t p i origin : Nat) (e : List Word) : State :=
  (s.setEnt t p i e).mirrored t p origin i (if e.all (· == 0) then e else asStored t e)

/-- Deletes an entry: every word 0, and a record of zeros (R146). -/
def State.zeroEnt (s : State) (t p i origin : Nat) : State :=
  let s := if t = 0x0E then s.clearEnt t p i else s.setEnt t p i (zeros (tblWords t))
  s.mirrored t p origin i (zeros (tblWords t))

/-! ### Hit bits (R140) -/

/-- Sets the hit bit of a bridge entry. -/
def State.setHit (s : State) (p i : Nat) : State :=
  { s with lrn := { s.lrn with hits := (p, i) :: s.lrn.hits.filter (· != (p, i)) } }

/-- Clears the hit bit of a bridge entry. -/
def State.clearHit (s : State) (p i : Nat) : State := { s with lrn := { s.lrn with hits := s.lrn.hits.filter (· != (p, i)) } }

/-- Whether a bridge entry's hit bit is 1. -/
def State.hitBit (s : State) (p i : Nat) : Bool := (p, i) ∈ s.lrn.hits

/-! ### Learn counts (R138) -/

/-- The dynamic entries of a BD in a pipeline's store, those accepted into the learn queue included. -/
def State.bdCount (s : State) (p bd : Nat) : Nat := AMap.getD s.lrn.bdCnt (p, bd) 0

/-- Changes the count of a BD; its register saturates at 65,535. -/
def State.bdBump (s : State) (p bd : Nat) (up : Bool) : State :=
  let n := if up then s.bdCount p bd + 1 else s.bdCount p bd - 1
  { s.wr fBRS_BD_LEARN_COUNT (min 65535 n) p bd with lrn := { s.lrn with bdCnt := AMap.set s.lrn.bdCnt (p, bd) n } }

/-- Changes the counts of a dynamic entry: its BD, and its port when the destination is a front-panel port. -/
def State.learnCount (s : State) (p bd dt dest : Nat) (up : Bool) : State :=
  let s := s.bdBump p bd up
  if dt = dtPORT ∧ dest / 32 = p then
    (if up then s.addSat fBRS_LEARN_COUNT_COUNT 1 p (dest % 32) else s.sub fBRS_LEARN_COUNT_COUNT 1 p (dest % 32))
  else s

/-- Changes only the port count of a destination. -/
def State.portCount (s : State) (p dt dest : Nat) (up : Bool) : State :=
  if dt = dtPORT ∧ dest / 32 = p then
    (if up then s.addSat fBRS_LEARN_COUNT_COUNT 1 p (dest % 32) else s.sub fBRS_LEARN_COUNT_COUNT 1 p (dest % 32))
  else s

/-- The BD and MAC of a bridge entry. -/
def bridgeBd (e : List Word) : Nat := entF e 1 29 16
def bridgeMac (e : List Word) : Nat := entF e 0 31 0 + entF e 1 15 0 * 2 ^ 32

/-- Whether a bridge entry is dynamic: neither static nor locked entries are written by learning (R136, R137). -/
def bridgeStatic (e : List Word) : Bool := entB e 2 17

/-- Whether a bridge entry is valid. -/
def bridgeV (e : List Word) : Bool := entB e 1 30

/-- Counts a bridge store's valid entries up or down (`BRS_COUNT`, `BRS_OVF_COUNT` with its high-water mark). -/
def State.bridgeUse (s : State) (p i : Nat) (up : Bool) : State :=
  if i < 524288 then (if up then s.addSat fBRS_COUNT_ENTRIES 1 p else s.sub fBRS_COUNT_ENTRIES 1 p)
  else
    let s := if up then s.addSat fBRS_OVF_COUNT_OVF_ENTRIES 1 p else s.sub fBRS_OVF_COUNT_OVF_ENTRIES 1 p
    let n := s.rd fBRS_OVF_COUNT_OVF_ENTRIES p
    if s.rd fBRS_OVF_COUNT_OVF_HIGH p < n then s.wr fBRS_OVF_COUNT_OVF_HIGH n p else s

/-- The words of a bridge entry. -/
def bridgeWords (bd mac dt dest : Nat) (static locked : Bool) (mt : Nat) : List Word :=
  [word mac, word (mac / 2 ^ 32 + bd * 2 ^ 16 + 2 ^ 30),
   word (dest + dt * 2 ^ 14 + b2n static * 2 ^ 17 + b2n locked * 2 ^ 18 + mt * 2 ^ 19)]

/-- A bridge entry moved in place (R137): its destination and META are rewritten, and nothing else. -/
def bridgeMoved (e : List Word) (dt dest mt : Nat) : List Word := entSet (entSet (entSet e 2 13 0 dest) 2 16 14 dt) 2 26 19 mt

/-- The free place for a bridge key (R117): the lowest invalid way of its bucket, otherwise the lowest free overflow entry. -/
def State.bridgePlace (s : State) (p bd mac : Nat) : Option Nat :=
  let b := s.bridgeBucket p bd mac
  match (List.range 4).find? fun w => !bridgeV (s.ent 0x0C p (4 * b + w)) with
  | some w => some (4 * b + w)
  | none =>
    let used := (s.tables.filter fun x => x.1.1 == 0x0C && x.1.2.1 == p && decide (524288 ≤ x.1.2.2) && bridgeV x.2).map (·.1.2.2)
    (List.range (used.length + 1)).find? (fun k => !(524288 + k ∈ used) && decide (k < 8192)) |>.map (524288 + ·)

/-- Deletes a valid bridge entry with its counts, hit bit and mirror record. -/
def State.bridgeDelete (s : State) (p i origin : Nat) : State :=
  let e := s.ent 0x0C p i
  if bridgeV e then
    let s := if bridgeStatic e then s else s.learnCount p (bridgeBd e) (entF e 2 16 14) (entF e 2 13 0) false
    ((s.bridgeUse p i false).clearHit p i).zeroEnt 0x0C p i origin
  else s.zeroEnt 0x0C p i origin

/-- Places a new bridge entry at a free place, counting it. `cntd` says that its learn counts were taken already (R138). -/
def State.bridgePut (s : State) (p i origin : Nat) (e : List Word) (cntd : Bool) : State :=
  let s := if cntd || bridgeStatic e then s else s.learnCount p (bridgeBd e) (entF e 2 16 14) (entF e 2 13 0) true
  ((s.bridgeUse p i true).clearHit p i).writeEnt 0x0C p i origin e

/-- Rewrites a bridge entry in place, with the counts of the destination it leaves and the one it takes. -/
def State.bridgeRewrite (s : State) (p i origin : Nat) (e : List Word) : State :=
  let o := s.ent 0x0C p i
  let s := if bridgeStatic o then s else s.learnCount p (bridgeBd o) (entF o 2 16 14) (entF o 2 13 0) false
  let s := if bridgeStatic e then s else s.learnCount p (bridgeBd e) (entF e 2 16 14) (entF e 2 13 0) true
  s.writeEnt 0x0C p i origin e

/-! ### Events (R143) -/

/-- A learning event: type, pipeline, key, new and old destination. -/
def State.learnEvent (s : State) (ty p bd mac dt dest odt odest : Nat) : State :=
  s.event ty p mac (mac / 2 ^ 32 + bd * 2 ^ 16) (dt + dest * 2 ^ 3) (odt + odest * 2 ^ 3)

/-- A LIMIT_REACHED or LOCK_VIOLATION event, at most once per port and type per 1 ms (R143). -/
def State.rateEvent (s : State) (ty p port bd mac dt dest odt odest : Nat) : State :=
  match AMap.get? s.lrn.evtAt (p, port, ty) with
  | some t =>
    if s.tim.rc < t + ns 1000000 then s
    else { (s.learnEvent ty p bd mac dt dest odt odest) with
            lrn := { s.lrn with evtAt := AMap.set s.lrn.evtAt (p, port, ty) s.tim.rc } }
  | none => { (s.learnEvent ty p bd mac dt dest odt odest) with
            lrn := { s.lrn with evtAt := AMap.set s.lrn.evtAt (p, port, ty) s.tim.rc } }

/-! ### The learn queue (R138, R139) -/

/-- A pipeline's learn queue. -/
def State.learnQ (s : State) (p : Nat) : List LearnReq := AMap.getD s.lrn.queues p []

/-- The state with a pipeline's learn queue replaced, `QUEUE` and `QUEUE_HIGH` following. -/
def State.setLearnQ (s : State) (p : Nat) (q : List LearnReq) : State :=
  let s := { s with lrn := { s.lrn with queues := AMap.set s.lrn.queues p q } }
  let s := s.wr fBRS_LEARN_STATUS_QUEUE q.length p
  if s.rd fBRS_LEARN_STATUS_QUEUE_HIGH p < q.length then s.wr fBRS_LEARN_STATUS_QUEUE_HIGH q.length p else s

/-- The learning source S of an input (R135): its LAG, or the input port itself. -/
def State.learnSource (s : State) (p lidx inPort : Nat) : Nat × Nat :=
  if s.on fBRS_PORT_LAG_V p lidx then (dtLAG, s.rd fBRS_PORT_LAG_ID p lidx) else (dtPORT, inPort)

/-- A learn or move request (R138, R139): the limits first, then absorption, then the queue. The Bool says that the frame is dropped
under LEARN_LIMIT. -/
def State.learnRequest (s : State) (f : Ing) (bd mac : Nat) (src : Nat × Nat) (move : Bool) : State × Bool :=
  let p := f.pipe
  let port := f.inPort % 32
  let portFull := src.1 == dtPORT && s.on fBRS_LEARN_PORT_LIMIT_EN p port &&
    decide (s.rd fBRS_LEARN_PORT_LIMIT p port ≤ s.rd fBRS_LEARN_COUNT_COUNT p port)
  let bdFull := !move && bitOf (s.rd fBRS_BD_LIMIT_EN_EN p (bd / 32)) (bd % 32) &&
    decide (s.rd fBRS_BD_LEARN_LIMIT p bd ≤ s.bdCount p bd)
  if portFull then
    ((s.blk p (160 + 5)).rateEvent 0x14 p port bd mac src.1 src.2 0 0, s.on fBRS_LEARN_PORT_LIMIT_DROP p port)
  else if bdFull then
    ((s.blk p (160 + 6)).rateEvent 0x14 p port bd mac src.1 src.2 0 0, s.on fBRS_LEARN_CFG_BD_LIMIT_DROP p)
  else if (s.learnQ p).any fun r => r.bd == bd && r.mac == mac then (s.blk p (160 + 2), false)
  else if 1024 ≤ (s.learnQ p).length then (s.blk p (160 + 3), false)
  else
    let s := if move then s.portCount p src.1 src.2 true else s.learnCount p bd src.1 src.2 true
    (s.setLearnQ p (s.learnQ p ++ [⟨bd, mac, src.1, src.2, s.rd fBRS_LEARN_PORT_META p port, move, port, f.inPort⟩]), false)

/-- The source check (R135, R136) of a frame: the new state and the drop code, if it drops the frame. -/
def State.sourceCheck (s : State) (f : Ing) (l : Look) : State × Option Nat :=
  let p := f.pipe
  if !(entB l.prof 0 1 && f.front && decide (f.inPort < 256)) then (s, none)
  else
    let src := s.learnSource p f.lidx f.inPort
    let learns := entB l.bdE 0 30 && s.on fBRS_LEARN_PORT_LEARN_EN p (f.inPort % 32) && s.on fBRS_LEARN_CFG_EN p && f.fence.isNone
    if s.on fBRS_LEARN_CFG_SA_CHECK p && (bitOf l.saMac 40 || l.saMac == 0) then (s.blk p (160 + 9), some 0x22)
    else if l.sa.failed then (s, none)
    else if l.sa.hit then
      let e := s.ent 0x0C p l.sa.idx
      let odt := entF e 2 16 14
      let odest := entF e 2 13 0
      if odt = src.1 ∧ odest = src.2 then (s.setHit p l.sa.idx, none)
      else if entB e 2 18 then
        (((s.setHit p l.sa.idx).blk p (160 + 7)).rateEvent 0x15 p (f.inPort % 32) l.bd l.saMac src.1 src.2 odt odest, some 0x20)
      else if entB e 2 17 then (s.blk p (160 + 8), none)
      else if learns then
        let r := s.learnRequest f l.bd l.saMac src true
        (r.1, if r.2 then some 0x21 else none)
      else (s, none)
    else if learns then
      let r := s.learnRequest f l.bd l.saMac src false
      (r.1, if r.2 then some 0x21 else none)
    else (s, none)

/-- The next queued request is inserted, or applied as a move (R139). A full mirror queue holds it (R147). -/
def State.learnInsert (s : State) (p : Nat) : State :=
  match s.learnQ p with
  | [] => s
  | r :: rest =>
    if s.mirFull then s
    else
      let s := s.setLearnQ p rest
      let ev := s.on fBRS_LEARN_CFG_EVT_LEARN p
      match s.bridgeFind p r.bd r.mac with
      | some i =>
        let e := s.ent 0x0C p i
        let odt := entF e 2 16 14
        let odest := entF e 2 13 0
        if r.move && !bridgeStatic e && !(odt == r.dt && odest == r.dest) then
          let s := (s.portCount p odt odest false).writeEnt 0x0C p i 3 (bridgeMoved e r.dt r.dest r.metaV)
          let s := (s.setHit p i).blk p (160 + 1)
          if ev then s.learnEvent 0x11 p r.bd r.mac r.dt r.dest odt odest else s
        else
          let s := if r.move then s.portCount p r.dt r.dest false else s.learnCount p r.bd r.dt r.dest false
          s.blk p (160 + 2)
      | none =>
        match s.bridgePlace p r.bd r.mac with
        | some i =>
          let s := if r.move then s.bdBump p r.bd true else s
          let s := (s.bridgePut p i 2 (bridgeWords r.bd r.mac r.dt r.dest false false r.metaV) true).blk p 160
          if ev then s.learnEvent 0x10 p r.bd r.mac r.dt r.dest 0 0 else s
        | none =>
          let s := if r.move then s.portCount p r.dt r.dest false else s.learnCount p r.bd r.dt r.dest false
          (s.blk p (160 + 4)).learnEvent 0x16 p r.bd r.mac r.dt r.dest 0 0

/-! ### Repairs and fences (R149, R150) -/

/-- The pipeline of a repair's key: 15 for a replicated or chip table. -/
def repPipe (t p : Nat) : Nat := tblPipe t p

/-- Whether some replica of a Catalogue row has a good row and result (R174): checkers 0x12 to 0x15. -/
def State.catSister (s : State) (t p i : Nat) : Bool :=
  (t == 0x1A || t == 0x1B) && [0, 1, 2].any fun k => !s.bad (t - 0x1A + 0x12) p k i && !s.bad (t - 0x1A + 0x14) p k i

/-- Opens a repair for a bad entry, or finds the one already open. Catalogue counter 17 counts the repairs that take a row from the mirror. With eight
open none opens yet: the entry waits until one closes (R149). -/
def State.repairOpen (s : State) (t p i : Nat) : State × Option Nat :=
  match s.lrn.repairs.find? fun r => r.table == t && r.pipe == repPipe t p && r.index == i with
  | some r => (s, some r.tag)
  | none =>
    match (List.range 8).find? fun k => !s.lrn.repairs.any (·.tag == k) with
    | some k =>
      let r : Repair := ⟨k, t, repPipe t p, i, 0, .a, none, [], [], [], 0, 0⟩
      let s := if (t = 0x1A ∨ t = 0x1B) ∧ !s.catSister t p i then s.blk p (192 + 17) else s
      ({ s with lrn := { s.lrn with repairs := s.lrn.repairs ++ [r] } }.addSat fCLE_REPAIR_STATUS_OPEN 1, some k)
    | none =>
      let x := (t, repPipe t p, i)
      (if x ∈ s.lrn.waiting then s else { s with lrn := { s.lrn with waiting := s.lrn.waiting ++ [x] } }, none)

/-- A repair closes, and the first bad entry that waits takes its place (R149, R150). -/
def State.repairClose (s : State) (tag : Nat) : State :=
  let s := ({ s with lrn := { s.lrn with repairs := s.lrn.repairs.filter (·.tag != tag) } }).sub fCLE_REPAIR_STATUS_OPEN 1
  match s.lrn.waiting with
  | [] => s
  | x :: t => (({ s with lrn := { s.lrn with waiting := t } }).repairOpen x.1 x.2.1 x.2.2).1

/-- The open repair of a tag. -/
def State.repair? (s : State) (tag : Nat) : Option Repair := s.lrn.repairs.find? (·.tag == tag)

/-- The state with a repair replaced. -/
def State.setRepair (s : State) (r : Repair) : State :=
  { s with lrn := { s.lrn with repairs := s.lrn.repairs.map fun x => if x.tag = r.tag then r else x } }

/-- Counts a frame punted under a repair's tag, per pipeline. -/
def State.repairPunt (s : State) (tag p : Nat) : State :=
  match s.repair? tag with
  | some r => s.setRepair { r with punted := AMap.adjust r.punted p 0 (· + 1) }
  | none => s

/-- Whether a pipeline's fence of a tag is open. -/
def State.fenceIsOpen (s : State) (tag p : Nat) : Bool :=
  match s.repair? tag with
  | some r => p ∈ r.fences
  | none => false

/-- The tags of the open fences of pipeline p, other than a frame's own, over the entries that the frame read, given as (table, index). -/
def State.fenceOver (s : State) (p : Nat) (own : List Nat) (reads : List (Nat × Nat)) : List Nat :=
  (s.lrn.repairs.filter fun r => p ∈ r.fences && !(r.tag ∈ own) && (r.pipe == 15 || r.pipe == p) &&
    reads.any fun x => x.1 == r.table && x.2 == r.index).map (·.tag)

/-- The frames a pipeline's fence queue holds. -/
def State.heldOf (s : State) (p : Nat) : List (List Nat × Adm × Nat × Nat) := AMap.getD s.lrn.held p []

/-- The egress copies that a pipeline's fences hold, and those released that have not gone on yet. -/
def State.heldEgOf (s : State) (p : Nat) : List (List Nat × HeldEg) := AMap.getD s.lrn.heldEg p []

/-- Whether a pipeline's fence queue is full (R150): frames before admission and egress copies share it. -/
def State.fenceFull (s : State) (p : Nat) : Bool :=
  decide (s.rd fCLE_REPAIR_CFG_FENCE_LIMIT ≤ (s.heldOf p).length + ((s.heldEgOf p).filter fun h => !h.1.isEmpty).length)

/-- Entries of the buckets that a frame's hashed lookups read, and the entries they matched, as (table, index). -/
def State.hashReads (s : State) (p : Nat) (l : Look) (kv : List Byte) : List (Nat × Nat) :=
  let ways : Nat → Nat → List (Nat × Nat) := fun t b => (List.range 4).map fun w => (t, 4 * b + w)
  let br : Rd → Nat → List (Nat × Nat) := fun x mac =>
    if x.tried then ways 0x0C (s.bridgeBucket p l.bd mac) ++ (if x.hit || x.ovf then [(0x0C, x.idx)] else []) else []
  let ks : Rd → Nat → Nat → Nat → List (Nat × Nat) := fun x ty off vrf =>
    if x.tried then ways 0x0D (s.keyBucket ty (keyOf ty vrf kv off)) ++ (if x.hit || x.ovf then [(0x0D, x.idx)] else []) else []
  br l.da l.daMac ++ br l.sa l.saMac ++ ks l.ka (entF l.prof 1 3 0) (entF l.prof 1 9 4) l.vrf0 ++
    ks l.kb (entF l.prof 1 13 10) (entF l.prof 1 19 14) l.vrf ++ (if l.pfx.hit then [(0x0E, l.pfx.idx)] else [])

/-- Entries of the group tables that a destination's resolution read, as (table, index). -/
def State.groupReads (s : State) (p dt dest h : Nat) : List (Nat × Nat) :=
  let nh := fun n => (0x0F, n) :: (if entB (s.ent 0x0F p n) 2 10 then [(0x12, entF (s.ent 0x0F p n) 2 9 0)] else [])
  match dt with
  | 1 => [(0x12, dest)]
  | 2 =>
    let e := s.ent 0x10 p dest
    let m := entF e 0 15 0 + (h / 2 ^ 16 * entF e 0 24 16) / 2 ^ 16
    [(0x10, dest), (0x11, m)] ++ nh (entF (s.ent 0x11 p m) 0 13 0)
  | 3 => (0x13, dest) :: (mcLags (s.ent 0x13 p dest)).map fun l => (0x12, l)
  | 4 => nh dest
  | _ => []

end Sys2Proof.Machine
end

