-- ==== Sys2Proof/Machine/Reins.lean ====
section
/-! DEFINITION. Reins (R255 to R260): the overhead, refilling and charging of a rein's two buckets, its colours, its drop flags and
its counters. -/
namespace Sys2Proof.Machine

/-- A signed overhead `HAR_OVH[i]` of a pipeline (R255). -/
def State.overhead (s : State) (p i : Nat) : Int := signedOf 7 (s.rd fHAR_OVH_OVERHEAD p i)

/-- A length charged with an overhead, never less than 1 byte (R255). -/
def charged (len : Nat) (ovh : Int) : Nat := (max 1 ((len : Int) + ovh)).toNat

/-- Bucket units per byte: a rate in b/s over a time in 2^-48 ns gives exact units (R253). -/
def byteU : Nat := 8000000000 * 2 ^ 48

/-- Bucket units per frame: a rate in frames per second over a time in 2^-48 ns. -/
def frameU : Nat := 1000000000 * 2 ^ 48

/-- The fields of a rein entry (R256). -/
structure Rein where
  mode : Nat
  aware : Bool
  frames : Bool
  ovhSel : Nat
  yDrop : Bool
  rDrop : Bool
  cir : Nat
  eir : Nat
  cbs : Nat
  ebs : Nat
  deriving DecidableEq, Repr

/-- A rein from its entry. -/
def reinOf (e : List Word) : Rein :=
  ⟨entF e 0 1 0, entB e 0 2, entB e 0 3, entF e 0 5 4, entB e 0 6, entB e 0 7,
   entF e 1 31 0 + entF e 2 9 0 * 2 ^ 32, entF e 3 31 0 + entF e 4 9 0 * 2 ^ 32, entF e 5 23 0, entF e 6 23 0⟩

/-- Units of one byte or frame of a rein. -/
def Rein.unit (r : Rein) : Nat := if r.frames then frameU else byteU

/-- The full buckets of a rein. -/
def Rein.full (r : Rein) : Int × Int := ((r.cbs * r.unit : Nat), (r.ebs * r.unit : Nat))

/-- The buckets refilled over an advance of the running count (R257): Te fills with what Tc cannot take under RFC 2697, and at EIR
under RFC 4115. -/
def Rein.refill (r : Rein) (tc te : Int) (d : Nat) : Int × Int :=
  let cap := (r.cbs * r.unit : Nat)
  let ecap := (r.ebs * r.unit : Nat)
  let add := ((r.cir * d : Nat) : Int)
  let tc' := min (cap : Int) (tc + add)
  if r.mode = 1 then (tc', min (ecap : Int) (te + (tc + add - tc')))
  else (tc', min (ecap : Int) (te + ((r.eir * d : Nat) : Int)))

/-- The colour of a frame and the buckets after it (R257): 0 green, 1 yellow, 2 red. -/
def Rein.colour (r : Rein) (tc te : Int) (inCol : Nat) (b : Int) : Nat × Int × Int :=
  if inCol = 0 ∨ !r.aware then
    if b ≤ tc then (0, tc - b, te) else if b ≤ te then (1, tc, te - b) else (2, tc, te)
  else if inCol = 1 then (if b ≤ te then (1, tc, te - b) else (2, tc, te))
  else (2, tc, te)

/-- The counter set of a rein table: REIN_IN, REIN_EG, REIN_PUNT (R287). -/
def reinSet (t : Nat) : Nat := if t = 0x2C then 10 else if t = 0x2D then 11 else 12

/-- The element of a rein in its counter set. -/
def reinElem (t p i : Nat) : Nat := p * (if t = 0x2C then 32768 else if t = 0x2D then 8192 else 32) + i

/-- A read of a Harness entry with its check code (R270, R273): a correctable error only counts, an uncorrectable one opens a repair
with a punted count of 0 and leaves the entry unusable (false). -/
def State.harRead (s : State) (t p i : Nat) : State × Bool :=
  match (entChecks t i).head? with
  | none => (s, true)
  | some c =>
    match s.marked c.1 p 0 c.2 with
    | none => (s, true)
    | some false => ((s.raise .HAR_ECC_CORR p i).blk p (288 + 17), true)
    | some true =>
      let s := (s.raise .HAR_ECC_UNCORR p i).blk p (288 + 18)
      let s := if s.on fHAR_ERR_LAST_VALID p then s
        else ((s.wr fHAR_ERR_LAST_VALID 1 p).wr fHAR_ERR_LAST_TABLE (t - 0x28) p).wr fHAR_ERR_LAST_INDEX i p
      ((s.repairOpen t p i).1, false)

/-- The index of a node among the nodes of its pipeline's check code (R417). -/
def nodeNo (t i : Nat) : Nat := if t = 0x29 then i else if t = 0x2A then 8192 + i else 10240 + i

/-- The index of an entry's token and deficit state in its checker: the nodes, then the ingress, egress and punt reins (DESIGN CHOICE,
assumption log 9). -/
def tokenNo (t i : Nat) : Nat :=
  if t = 0x2C then 10273 + i else if t = 0x2D then 43041 + i else if t = 0x2E then 51233 + i else nodeNo t i

/-- Reads an entry's token and deficit state with its check code, which is good again afterwards; the Bool says that it was uncorrectable
(R270). -/
def State.tokenCheck (s : State) (t p i : Nat) : State × Bool :=
  match s.marked 0x22 p 0 (tokenNo t i) with
  | none => (s, false)
  | some false => (((s.raise .HAR_ECC_CORR p i).blk p (288 + 17)).unmark 0x22 p 0 (tokenNo t i), false)
  | some true => (((s.raise .HAR_ECC_UNCORR p i).blk p (288 + 18)).unmark 0x22 p 0 (tokenNo t i), true)

/-- Meters a frame of a length with a rein: the new state, the output colour, and whether the rein's drop flags refuse it. -/
def State.meter (s : State) (t p i inCol len : Nat) : State × Nat × Bool :=
  let rd := s.harRead t p i
  let s := rd.1
  let r := reinOf (s.ent t p i)
  if r.mode = 0 ∨ r.mode = 3 ∨ rd.2 = false then (s, inCol, false)
  else
    let tk := s.tokenCheck t p i
    let s := tk.1
    let cur := if tk.2 then (r.full.1, r.full.2, s.tim.rc) else AMap.getD s.fwd.reins (t, p, i) (r.full.1, r.full.2, s.tim.rc)
    let f := r.refill cur.1 cur.2.1 (s.tim.rc - cur.2.2)
    let bytes := if r.frames then len else charged len (s.overhead p r.ovhSel)
    let b : Int := if r.frames then (frameU : Nat) else ((bytes * byteU : Nat) : Int)
    let c := r.colour f.1 f.2 inCol b
    let s := { s with fwd := { s.fwd with reins := AMap.set s.fwd.reins (t, p, i) (c.2.1, c.2.2, s.tim.rc) } }
    let refuse := (c.1 == 1 && r.yDrop) || (c.1 == 2 && r.rDrop)
    let el := reinElem t p i
    let s := (s.count (reinSet t) el (2 * c.1) 1).count (reinSet t) el (2 * c.1 + 1) bytes
    let s := if refuse then (s.count (reinSet t) el 6 1).count (reinSet t) el 7 bytes else s
    (s, c.1, refuse)

/-- A write of a rein entry: the buckets fill when MODE changes, and are clamped to the new bursts when it does not (R256). -/
def State.reinWritten (s : State) (t p i : Nat) (old new : List Word) : State :=
  let r := reinOf new
  if entF old 0 1 0 ≠ entF new 0 1 0 then
    { s with fwd := { s.fwd with reins := AMap.set s.fwd.reins (t, p, i) (r.full.1, r.full.2, s.tim.rc) } }
  else
    let o := reinOf old
    let cur := AMap.getD s.fwd.reins (t, p, i) (o.full.1, o.full.2, s.tim.rc)
    { s with fwd := { s.fwd with reins := AMap.set s.fwd.reins (t, p, i) (min cur.1 r.full.1, min cur.2.1 r.full.2, cur.2.2) } }

end Sys2Proof.Machine
end

