-- ==== Sys2Proof/Machine/Catalogue.lean ====
section
/-! DEFINITION. The Catalogue (R154 to R178): the search key, matching, the pre-filter, the two shelves with their parity rules, and
the row operations of the Clerk. -/
namespace Sys2Proof.Machine

/-- The ingress or egress Catalogue's table identifiers and geometry: rows table, profile table, row checker, result checker, slices. -/
def catRows (eg : Bool) : Nat := if eg then 0x1B else 0x1A
def catProf (eg : Bool) : Nat := if eg then 0x19 else 0x18
def catRowCk (eg : Bool) : Nat := if eg then 0x13 else 0x12
def catResCk (eg : Bool) : Nat := if eg then 0x15 else 0x14
def catSlices (eg : Bool) : Nat := if eg then 8 else 24

/-- Fields of a slice's register. -/
def State.sliceWide (s : State) (eg : Bool) (p sl : Nat) : Bool :=
  if eg then s.on fCAT_SLICE_E_WIDE p sl else s.on fCAT_SLICE_I_WIDE p sl
def State.sliceEn (s : State) (eg : Bool) (p sl : Nat) : Bool := if eg then s.on fCAT_SLICE_E_EN p sl else s.on fCAT_SLICE_I_EN p sl
def State.sliceTag (s : State) (eg : Bool) (p sl : Nat) : Nat := if eg then s.rd fCAT_SLICE_E_TAG p sl else s.rd fCAT_SLICE_I_TAG p sl
def State.sliceMask (s : State) (eg : Bool) (p sl : Nat) : Nat :=
  if eg then s.rd fCAT_SLICE_E_TAG_MASK p sl else s.rd fCAT_SLICE_I_TAG_MASK p sl

/-- The shelf boundary of a direction (R156). -/
def State.split (s : State) (eg : Bool) (p : Nat) : Nat := if eg then s.rd fCAT_CFG_SPLIT_E p else s.rd fCAT_CFG_SPLIT_I p

/-- Whether a slice takes part in a search (R163). -/
def State.sliceTakes (s : State) (eg : Bool) (p sl tag : Nat) (wide : Bool) : Bool :=
  s.sliceEn eg p sl && s.sliceWide eg p sl == wide && ((tag ^^^ s.sliceTag eg p sl) &&& s.sliceMask eg p sl) == 0

/-- The 320- or 640-bit key of a profile (R157): selectors over key vector and lookup block, and the fixed field. -/
def catKey (prof : List Word) (kv look : List Byte) (fixed : Nat) : Nat :=
  let sel := fun i =>
    let x := bitsOf ((prof.getD (i / 4) 0).toNat) (8 * (i % 4) + 7) (8 * (i % 4))
    if x < 128 then 0
    else
      let src := x % 128
      if src < 64 then (kv.getD src 0).toNat else (look.getD (src - 64) 0).toNat
  let part := fun (a n : Nat) => ((List.range n).map fun i => sel (a + i) * 2 ^ (8 * i)).sum
  part 0 32 + fixed * 2 ^ 256 + (if entB prof 16 0 then part 32 32 * 2 ^ 320 else 0)

/-- Whether one row matches 320 key bits for an edition slot (R161). -/
def rowMatches (e : List Word) (key : Nat) (ed : Bool) : Bool :=
  entB e 20 0 && (if ed then entB e 20 2 else entB e 20 1) &&
  ((key ^^^ wordsNat (e.take 10)) &&& wordsNat ((e.drop 10).take 10)) == 0

/-- The valid rows of a direction and pipeline, by address. -/
def State.validRows (s : State) (eg : Bool) (p : Nat) : List (Nat × List Word) :=
  (s.tables.filter fun x => x.1.1 == catRows eg && x.1.2.1 == p && entB x.2 20 0).map fun x => (x.1.2.2, x.2)

/-- The lowest matching address of each shelf (R156, R161). -/
def State.catSearch (s : State) (eg : Bool) (p tag : Nat) (wide ed : Bool) (key : Nat) : Option Nat × Option Nat :=
  let hit := fun (x : Nat × List Word) =>
    let sl := x.1 / 512
    s.sliceTakes eg p sl tag wide &&
      (if wide then x.1 % 2 == 0 && rowMatches x.2 (key % 2 ^ 320) ed && rowMatches (s.ent (catRows eg) p (x.1 + 1)) (key / 2 ^ 320) ed
       else rowMatches x.2 key ed)
  let hits := ((s.validRows eg p).filter hit).map (·.1)
  let lowest := fun (l : List Nat) => l.foldl (fun m a => match m with | some b => some (min a b) | none => some a) none
  let b := s.split eg p * 512
  (lowest (hits.filter (· < b)), lowest (hits.filter (b ≤ ·)))

/-- The slices that take part in a search (R163). -/
def State.takingPart (s : State) (eg : Bool) (p tag : Nat) (wide : Bool) : Nat :=
  ((List.range (catSlices eg)).filter fun sl => s.sliceTakes eg p sl tag wide).length

/-- The result of a row (R164). -/
def rowRes (e : List Word) : Nat := wordsNat ((e.drop 21).take 2)

/-- Fields of a result (R164). -/
def rAct (r : Nat) : Nat := bitsOf r 2 0
def rArg (r : Nat) : Nat := bitsOf r 19 3
def rClsV (r : Nat) : Bool := bitOf r 20
def rCls (r : Nat) : Nat := bitsOf r 23 21
def rCntV (r : Nat) : Bool := bitOf r 24
def rCnt (r : Nat) : Nat := bitsOf r 38 25
def rReinV (r : Nat) : Bool := bitOf r 40
def rRein (r : Nat) : Nat := bitsOf r 55 41
def rMirV (r : Nat) : Bool := bitOf r 56
def rMir (r : Nat) : Nat := bitsOf r 59 57
def rCapture (r : Nat) : Bool := bitOf r 60

/-- Records the first Catalogue parity failure since the last clear (`CAT_PAR_STATUS`). -/
def State.catPar (s : State) (eg : Bool) (p rep kind addr : Nat) : State :=
  if s.on fCAT_PAR_STATUS_VALID p then s
  else ((((s.wr fCAT_PAR_STATUS_VALID 1 p).wr fCAT_PAR_STATUS_DIR (b2n eg) p).wr fCAT_PAR_STATUS_REPLICA rep p).wr
    fCAT_PAR_STATUS_KIND kind p).wr fCAT_PAR_STATUS_ADDR addr p

/-- Reads a winning row back in a replica (R174): a bad one makes the frame a PARITY_MISS (false). -/
def State.catRow (s : State) (eg : Bool) (p rep addr : Nat) : State × Bool :=
  if s.bad (catRowCk eg) p rep addr then
    let s := (s.catPar eg p rep 0 addr).raise .CAT_ROW_PARITY p addr
    (if [0, 1, 2].all fun o => s.bad (catRowCk eg) p o addr then s.raise .CAT_ROW_LOST p addr else s, false)
  else (s, true)

/-- Reads a winner's result in a replica (R174): a bad one is copied from a sister and counted; without a good one the frame is a
PARITY_MISS (false). -/
def State.catRes (s : State) (eg : Bool) (p rep addr : Nat) : State × Bool :=
  if s.bad (catResCk eg) p rep addr then
    let s := (s.catPar eg p rep 1 addr).raise .CAT_RES_PARITY p addr
    if [0, 1, 2].all fun o => s.bad (catResCk eg) p o addr then (s.raise .CAT_ROW_LOST p addr, false)
    else ((s.unmark (catResCk eg) p rep addr).blk p (192 + 14), true)
  else (s, true)

/-- Reads a shelf's winner in a replica: its row, or both rows of a wide one, and its result. What comes back is the address that failed. -/
def State.catRead (s : State) (eg : Bool) (p rep addr : Nat) (wide : Bool) : State × Option Nat :=
  let r := s.catRow eg p rep addr
  let r2 := if wide then r.1.catRow eg p rep (addr + 1) else (r.1, true)
  let x := r2.1.catRes eg p rep addr
  (x.1, if !r.2 then some addr else if !r2.2 then some (addr + 1) else if !x.2 then some addr else none)

/-- What a search gives: the shelf results with the rows that won, or the table and address whose parity failed with the results that were
read good and the rows that won. -/
inductive CatOut where
  | parity (table index : Nat) (a b : Option Nat) (rows : List Nat)
  | ok (a b : Option Nat) (rows : List Nat)
  deriving DecidableEq, Repr

/-- One Catalogue search with its counters (R155 to R163, R174, R176). -/
def State.catalogue (s : State) (eg : Bool) (p slot pn tag : Nat) (ed : Bool) (kv look : List Byte) (fixed : Nat) : State × CatOut :=
  let pt := catProf eg
  if s.bad 0x11 p (slot / 2) (pn + (if eg then 16 else 0)) then
    (((s.catPar eg p (slot / 2) 2 pn).raise .GRP_PARITY p pn), .parity pt pn none none [])
  else
    let prof := s.ent pt p pn
    let wide := entB prof 16 0
    let r := s.catSearch eg p tag wide ed (catKey prof kv look fixed)
    let s := s.blk p (192 + b2n eg)
    let tp := s.takingPart eg p tag wide
    let s := if tp = 0 then s else s.blk p (192 + 8 + b2n eg) tp
    let s :=
      if eg then
        let s := if r.1.isSome then s.blk p (192 + 6) else s
        if r.2.isSome then s.blk p (192 + 7) else s
      else s.blk p (192 + (match r.1, r.2 with | some _, none => 2 | none, some _ => 3 | some _, some _ => 4 | none, none => 5))
    let rdOne := fun (s : State) (x : Option Nat) => match x with | some a => s.catRead eg p (slot / 2) a wide | none => (s, none)
    let ra := rdOne s r.1
    let rb := rdOne ra.1 r.2
    let res := fun (x bad : Option Nat) => if bad.isSome then none else x.map fun a => rowRes (s.ent (catRows eg) p a)
    let rows := (r.1.toList ++ r.2.toList).flatMap fun a => if wide then [a, a + 1] else [a]
    match ra.2, rb.2 with
    | some i, _ => (rb.1, .parity (catRows eg) i none (res r.2 rb.2) rows)
    | none, some i => (rb.1, .parity (catRows eg) i (res r.1 none) none rows)
    | none, none => (rb.1, .ok (res r.1 none) (res r.2 none) rows)

/-- The fixed field at ingress (R159). -/
def fixedIn (inPort : Nat) (pass : Bool) (bd : Nat) (routed da ka kb px : Bool) (dt pn cls : Nat) (clsV : Bool) : Nat :=
  inPort + b2n pass * 2 ^ 9 + bd * 2 ^ 10 + b2n routed * 2 ^ 24 + b2n da * 2 ^ 25 + b2n ka * 2 ^ 26 + b2n kb * 2 ^ 27 +
  b2n px * 2 ^ 28 + dt * 2 ^ 29 + pn * 2 ^ 56 + cls * 2 ^ 60 + b2n clsV * 2 ^ 63

/-- The fixed field at egress (R159). -/
def fixedEg (x : Slip) (st : Stall) (pn : Nat) : Nat :=
  x.outPort + b2n st.pass * 2 ^ 9 + x.finalBd * 2 ^ 10 + b2n st.routed * 2 ^ 24 + x.colour * 2 ^ 32 + b2n x.copy * 2 ^ 34 +
  b2n x.mirror * 2 ^ 35 + st.inPort * 2 ^ 40 + pn * 2 ^ 56 + x.cls * 2 ^ 60 + 2 ^ 63

/-- Counts a frame in a rule counter (R288): the frame now, its bytes once L is known. -/
def State.ruleCount (s : State) (eg : Bool) (p c len : Nat) (known : Bool) : State :=
  let st := if eg then 9 else 8
  let el := p * (if eg then 4096 else 16384) + c
  let s := s.count st el 0 1
  if known then s.count st el 1 len else s

/-! ### Row operations (R168 to R173) -/

/-- Whether an edition slot has not retired: OPEN to EXPIRING (R208, R209). -/
def State.edUnretired (s : State) (slot : Bool) : Bool :=
  let st := s.edState slot
  decide (1 ≤ st) && decide (st ≤ 5)

/-- Whether an edition slot is in force or retiring. -/
def State.edBusy (s : State) (slot : Bool) : Bool :=
  let st := s.edState slot
  st == 3 || st == 4 || st == 5

/-- Whether a change of the edition bits of an edition-scoped entry is allowed (R104, R169, R202): with old and new bits for each slot,
and whether anything else of the entry changes. An entry that a slot which has not retired
holds may change nothing but the bit of a slot that is neither in force nor retiring; another entry is bound by nothing. -/
def State.edRule (s : State) (oldA oldB newA newB changed : Bool) : Bool :=
  let bit := fun (slot o n : Bool) => o == n || !s.edBusy slot
  let held := (oldA && s.edUnretired false) || (oldB && s.edUnretired true)
  !held || (bit false oldA newA && bit true oldB newB && !changed)

/-- Writes one Catalogue row, keeping `CAT_USE` and the HALF bit (R160). A row of zeros is a removal: every field is 0 (R146, R171). -/
def State.putRow (s : State) (eg : Bool) (p a origin : Nat) (e : List Word) : State :=
  let old := s.ent (catRows eg) p a
  let wide := s.sliceWide eg p (a / 512)
  let s := if e.all (· == 0) then s.zeroEnt (catRows eg) p a origin
    else s.writeEnt (catRows eg) p a origin (entSet e 20 3 3 (if wide && a % 2 == 1 then 1 else 0))
  let f := if eg then fCAT_USE_VALID_E else fCAT_USE_VALID_I
  match entB old 20 0, entB e 20 0 with
  | false, true => s.addSat f 1 p
  | true, false => s.sub f 1 p
  | _, _ => s

/-- One move step: writes a row, or a pair in a wide slice (R170). -/
def State.putStep (s : State) (eg : Bool) (p a origin : Nat) (e : List Word) : State :=
  let s := s.blk p (192 + 13)
  if s.sliceWide eg p (a / 512) then (s.putRow eg p a origin (e.take 23)).putRow eg p (a + 1) origin (e.drop 23)
  else s.putRow eg p a origin (e.take 23)

/-- The words of the row or pair at an address. -/
def State.rowAt (s : State) (eg : Bool) (p a : Nat) : List Word :=
  if s.sliceWide eg p (a / 512) then s.ent (catRows eg) p a ++ s.ent (catRows eg) p (a + 1) else s.ent (catRows eg) p a

/-- Whether the row at an address is free. -/
def State.rowFree (s : State) (eg : Bool) (p a : Nat) : Bool := !entB (s.ent (catRows eg) p a) 20 0

/-- The address after the last of the run that holds a slice (R170): consecutive slices of one shelf with equal settings. -/
def State.runEnd (s : State) (eg : Bool) (p sl : Nat) : Nat → Nat
  | 0 => sl + 1
  | fuel + 1 =>
    let t := sl + 1
    if t < catSlices eg ∧ t ≠ s.split eg p ∧ s.sliceEn eg p t = s.sliceEn eg p sl ∧ s.sliceWide eg p t = s.sliceWide eg p sl ∧
        s.sliceTag eg p t = s.sliceTag eg p sl ∧ s.sliceMask eg p t = s.sliceMask eg p sl
    then s.runEnd eg p t fuel else t

/-- The lowest free address after a in its run, in steps of `st`, up to `hi` (R171). -/
def State.nextFree (s : State) (eg : Bool) (p st hi : Nat) (a : Nat) : Nat → Option Nat
  | 0 => none
  | fuel + 1 => if hi ≤ a + st then none else if s.rowFree eg p (a + st) then some (a + st) else s.nextFree eg p st hi (a + st) fuel

end Sys2Proof.Machine
end

