-- ==== Sys2Proof/Machine/Stable.lean ====
section
/-! DEFINITION. The Stable's admission (R221 to R237): pools, the copy list and its refusals, slips, usage, cut-through, the queue a
copy is placed on (R246), and the frames that skip the Stable. -/
namespace Sys2Proof.Machine

/-- The stall size of a pool (R221). -/
def stallSize : Nat → Nat
  | 0 => 128 | 1 => 384 | 2 => 1600 | _ => 9728

/-- The charge units of a pool's stall: 64 bytes each (R229). -/
def poolUnits (k : Nat) : Nat := stallSize k / 64

/-- COUNT of a pool with a number of bays (R221). -/
def poolCount (k bays : Nat) : Nat := bays * 65536 / stallSize k

/-- The smallest pool whose stalls hold a stored length (R223). -/
def firstPool (n : Nat) : Option Nat := (List.range 4).find? fun k => decide (n ≤ stallSize k)

/-- The pool a frame takes its stall from (R223), by its stored length and whether it is ordinary. -/
def State.choosePool (s : State) (n : Nat) (ordinary : Bool) : Option Nat :=
  match firstPool n with
  | none => none
  | some k0 => (List.range 4).find? fun k =>
      decide (k0 ≤ k) && decide ((if ordinary then s.rd fSTB_POOL_RSV_RSV 0 k else 0) < s.rd fSTB_POOL_FREE_FREE 0 k)

/-- The lowest number not in a list (which of the free stalls or slips is given out is not stated: assumption log 7). -/
def lowestFree (used : List Nat) : Nat := ((List.range (used.length + 1)).find? fun k => !(k ∈ used)).getD 0

/-- Whether an output port has a frame in transmission or selected (R234). -/
def State.portBusy (s : State) (port : Nat) : Bool :=
  (AMap.get? s.ports.txNow port).isSome || !(AMap.getD s.ports.txWait port []).isEmpty ||
  (AMap.getD s.fwd.sel (egPipe port) []).any fun c => c.slip.outPort == port

/-- The queue of a copy, as a number of the QUEUE set (R245, R246, R287): through the queue map of its port, or a host queue. -/
def State.queueOf (s : State) (port cls nh : Nat) (nhV : Bool) (finalBd rwIdx : Nat) : Nat :=
  if port < 264 then
    let p := egPipe port
    let e := s.ent 0x28 p (egLocal port * 8 + cls)
    let x := match entF e 0 14 13 with | 0 => 0 | 1 => (if nhV then nh else 0) | 2 => finalBd | _ => rwIdx
    p * 8192 + entF e 0 12 0 + x % 2 ^ entF e 0 18 15
  else hostQueue port cls

/-- The queue a copy is placed on, with the queue map's check code (R270): an uncorrectable entry gives the basic service 8k + c. -/
def State.place (s : State) (port cls nh : Nat) (nhV : Bool) (finalBd rwIdx : Nat) : State × Nat :=
  if port < 264 then
    let rd := s.harRead 0x28 (egPipe port) (egLocal port * 8 + cls)
    (rd.1, if rd.2 then s.queueOf port cls nh nhV finalBd rwIdx else egPipe port * 8192 + egLocal port * 8 + cls)
  else (s, hostQueue port cls)

/-- The slips of a queue, head first. -/
def State.queue (s : State) (q : Nat) : List Nat := AMap.getD s.fwd.queues q []

/-- The state with a queue replaced. -/
def State.setQueue (s : State) (q : Nat) (l : List Nat) : State := { s with fwd := { s.fwd with queues := AMap.set s.fwd.queues q l } }

/-- The link FIFO of an egress pipeline. -/
def State.link (s : State) (p : Nat) : List Nat := AMap.getD s.fwd.linkFifo p []

/-- The state with a link FIFO replaced. -/
def State.setLink (s : State) (p : Nat) (l : List Nat) : State :=
  { s with fwd := { s.fwd with linkFifo := AMap.set s.fwd.linkFifo p l } }

/-- Cut-through eligibility of a copy at its admission (R234). -/
def State.ctOk (s : State) (a : Adm) (port q : Nat) : Bool :=
  s.on fSTB_CFG_CT_EN && !s.on fSTB_EG_PORT_SAF 0 port && decide (a.inPort < 256) && decide (port < 256) && !a.pass && !a.whole &&
  a.rxPort.isSome && decide (s.portSpeed port ≤ s.portSpeed a.inPort) && (s.queue q).isEmpty &&
  !((s.link (egPipe port)).any fun id => match s.slip? id with | some x => x.svc == q | none => false) && !s.portBusy port

/-- What a capture record says of a frame at admission. -/
def Adm.capInfo (a : Adm) (now : Nat) : CapInfo :=
  ⟨2, a.pass, a.ed, a.inPort, 0x1FF, 0, a.cls, a.layout, a.len, a.whole, a.ct, now⟩

/-- What a record of a frame's drop may hold without its FCS (R301): its header window, or what its stall holds. -/
def Adm.head (a : Adm) : List Byte :=
  (if a.whole then a.bytes.take (a.bytes.length - 4) else a.bytes).take (if a.stored then 256 else 192)

/-- Links a slip at the tail of a queue (R232): `NEXT_SLIP` of the slip before it is written, in both its memories (R228). -/
def State.linkTo (s : State) (q id : Nat) : State :=
  let s := match (s.queue q).getLast? with
    | some t => (s.wroteWord 0x1C 15 t).wroteWord 0x1D 15 t
    | none => s
  s.setQueue q (s.queue q ++ [id])

/-- Refuses or drops one copy of a frame at the Stable (R230). -/
def State.refuse (s : State) (a : Adm) (c : CopyReq) (code : Nat) : State :=
  let s := if code = 0x46 then s.blk a.pipe (256 + 12) else s
  let s := if code = 0x98 then s.blk a.pipe (352 + 2) else s
  let s := if code = 0x42 then s.blk a.pipe (256 + 10) else s
  let s := if code = 0x90 then s.blk a.pipe (224 + 7) else s
  let p := cntPipe c.port a.pipe
  let s := match code with | 0x44 => s.blk p (256 + 15) | 0x41 => s.blk p (256 + 16) | 0x45 => s.blk p (256 + 17) | _ => s
  s.dropOut c.port code a.ingPipe a.ed (a.capInfo s.tim.ct) a.head

/-- The refusal of a copy before any limit (R230): an invalid mirror session, the port's state, a stormed class, or the
recirculation port on pass 2 (R200). -/
def State.preRefusal (s : State) (a : Adm) (c : CopyReq) : Option Nat :=
  let mir := match c.session with | some m => !s.on fSTB_MIRROR_V 0 m | none => false
  if mir then some 0x46
  else match s.stateRefusal c.port with
    | some r => some r
    | none =>
      if s.stormed c.port c.cls then some 0x83
      else if a.pass ∧ 256 ≤ c.port ∧ c.port < 264 then some 0x90
      else none

/-- Admits one remaining copy into a stall of pool k (R230): egress limit, link FIFO, slip. The code is that of a refusal. -/
def State.admitCopy (s : State) (a : Adm) (k idx : Nat) (c : CopyReq) (first : Bool) : State × Option Nat :=
  let u := poolUnits k
  let j := pc c.port c.cls
  if s.rd fSTB_EG_LIMIT_LIMIT 0 j < s.rd fSTB_EG_USED_USED 0 j + u then (s.refuse a c 0x44, some 0x44)
  else if c.port < 264 ∧ 16384 ≤ (s.link (egPipe c.port)).length then (s.refuse a c 0x45, some 0x45)
  else if s.rd fSTB_SLIP_FREE = 0 then (s.refuse a c 0x41, some 0x41)
  else
    let nhV := c.nh.isSome
    let nh := c.nh.getD 0
    let pl := s.place c.port c.cls nh nhV a.finalBd c.rwIdx
    let s := pl.1
    let q := pl.2
    let special := c.session.isSome || c.capture
    let ct := s.ctOk a c.port q
    let x : Slip := { id := lowestFree (s.fwd.slips.map (·.id)), pool := k, stall := idx, cls := c.cls, colour := a.colour,
                      copy := special || !first, mirror := c.session.isSome, ct := ct, outPort := c.port, nh := nh, nhV := nhV,
                      rwIdx := c.rwIdx, finalBd := a.finalBd, far := a.far, punt := a.punt, repair := a.repair,
                      capture := c.capture, direct := a.direct, skip := a.skip, svc := q, units := u }
    let s := ((s.putSlip x).wroteWord 0x1B 15 x.id).sub fSTB_SLIP_FREE 1
    let s := s.wr fSTB_SLIP_LOW_LOW (min (s.rd fSTB_SLIP_LOW_LOW) (s.rd fSTB_SLIP_FREE))
    let s := s.addSat fSTB_EG_USED_USED u 0 j
    let s := if ct then s.blk (egPipe c.port) (256 + 14) else s
    if c.port < 264 then (s.setLink (egPipe c.port) (s.link (egPipe c.port) ++ [x.id]), none)
    else (((s.linkTo q x.id).count 6 q 0 1).blk a.pipe (256 + 13), none)

/-- Admits the remaining copies in copy-set order: the new state, how many were admitted, and the last refusal. -/
def State.admitCopies (s : State) (a : Adm) (k idx : Nat) : List CopyReq → Nat → Bool → Nat → State × Nat × Nat
  | [], n, _, last => (s, n, last)
  | c :: t, n, seen, last =>
    let r := s.admitCopy a k idx c !seen
    State.admitCopies r.1 a k idx t (if r.2.isNone then n + 1 else n) (seen || (r.2.isNone && c.session.isNone && !c.capture))
      (r.2.getD last)

/-- The frame record and stall of a frame given to pool k (R226). -/
def Adm.stall (a : Adm) (k idx refs : Nat) : Stall :=
  { pool := k, idx := idx, bytes := a.bytes, len := a.len, known := a.known, done := a.whole, bad := false, reason := 0,
    layout := a.layout, shift := a.shift, ed := a.ed, nextProto := a.nextProto, fragl := a.fragl, pass := a.pass,
    inPort := a.inPort, whole := a.whole, routed := a.routed, tstate := a.tstate, refs := refs, ct := a.ct, rc := a.rc,
    cont := a.cont, rMeta := a.rMeta, hash := a.hash % 65536, pktLen := a.len, chPort := a.chPort, inCls := a.icls,
    ingPipe := a.ingPipe, rxPort := a.rxPort, units := poolUnits k, adj := a.adj, chkLen := a.chkLen }

/-- Drops every one of a list of copies under one code. -/
def State.refuseAll (s : State) (a : Adm) (l : List CopyReq) (code : Nat) : State := l.foldl (fun s c => s.refuse a c code) s

/-- A copy list whose frame is an injected one is also counted in DROP_IN when none of it was admitted (R347). -/
def State.injectedDrop (s : State) (a : Adm) (code : Nat) : State :=
  if a.chPort = 264 ∨ a.chPort = 265 then s.count 4 (a.chPort * 256 + code) 0 1 else s

/-- Takes a stall from pool k for a frame (R224), with its ingress charge and the pool's low-water marks. -/
def State.takeStall (s : State) (a : Adm) (k idx refs : Nat) (fallback : Bool) : State :=
  let s := ((s.putStall (a.stall k idx refs)).wroteWord 0x19 15 (s.stallNo k idx)).wroteWord 0x1A 15 (s.stallNo k idx)
  let s := s.sub fSTB_POOL_FREE_FREE 1 0 k
  let free := s.rd fSTB_POOL_FREE_FREE 0 k
  let s := s.wr fSTB_POOL_LOW_LOW (min (s.rd fSTB_POOL_LOW_LOW 0 k) free) 0 k
  let s := if free = s.rd fSTB_POOL_RSV_RSV 0 k then s.raise .STB_POOL_LOW 0 k else s
  let s := s.ingUse a.chPort a.icls true (poolUnits k)
  let s := (s.blk a.pipe 256).blk a.pipe (256 + 3 + k)
  if fallback then s.blk a.pipe (256 + 7) else s

/-- Counts admitted copies (R242). -/
def State.countAdm (s : State) (p n : Nat) : State :=
  let s := s.blk p (256 + 1) n
  if n = 1 then s else s.blk p (256 + 2) (n - 1)

/-- Takes a stall from pool k and admits the copies to it. -/
def State.admitTo (s : State) (a : Adm) (k : Nat) (fallback : Bool) (rem : List CopyReq) : State × Option (Nat × Nat) :=
  let idx := lowestFree ((s.fwd.stalls.filter (·.pool == k)).map (·.idx))
  let r := s.admitCopies a k idx rem 0 false 0x44
  if r.2.1 = 0 then (r.1.injectedDrop a r.2.2, none)
  else ((r.1.takeStall a k idx r.2.1 fallback).countAdm a.pipe r.2.1, some (k, idx))

/-- The copy list of a frame enters the Stable: its X tally and its resident copies (R213, R294). -/
def State.formed (s : State) (a : Adm) : State :=
  let n := a.copies.length
  let s := s.tally a.ingPipe 1 (n - 1) s.tim.ct
  if n = 1 then s else s.edUp a.ed (n - 1)

/-- The copies that no early refusal takes, with the others refused (R230). -/
def State.remaining (s : State) (a : Adm) : State × List CopyReq :=
  (a.copies.foldl (fun s c => match s.preRefusal a c with | some r => s.refuse a c r | none => s) s,
   a.copies.filter fun c => (s.preRefusal a c).isNone)

/-- The pool of a frame for a copy list, none before the free lists are built (R222, R223). -/
def State.poolFor (s : State) (a : Adm) (rem : List CopyReq) : Option Nat :=
  if s.on fSTB_STATUS_READY then s.choosePool (a.len + 64) (rem.any fun c => decide (c.port < 264) && c.session.isNone) else none

/-- Whether a frame would exceed its ingress limit with a stall of pool k. The usage read here and in `admitCopy` is the present one, of the
ages to 4 CCLK cycles that R22 and R230 allow (DESIGN CHOICE, assumption log 42). -/
def State.ingFull (s : State) (a : Adm) (k : Nat) : Bool :=
  let j := pc a.chPort a.icls
  decide (s.rd fSTB_ING_LIMIT_LIMIT 0 j < s.rd fSTB_ING_USED_USED 0 j + poolUnits k)

/-- A returned fence frame dropped under EDITION_EXPIRED counts beside the drops of its copies (R218). -/
def State.backExpired (s : State) (a : Adm) : State := if a.back then s.blk a.pipe (352 + 3) else s

/-- Admission of one frame (R230): the new state, and the stall it was given. -/
def State.enterStable (s : State) (a : Adm) : State × Option (Nat × Nat) :=
  let s := s.formed a
  if s.edState a.ed = 5 then (((s.refuseAll a a.copies 0x98).backExpired a).injectedDrop a 0x98, none)
  else
    let r := s.remaining a
    if r.2.isEmpty then (r.1.injectedDrop a ((a.copies.getLast?.bind (s.preRefusal a)).getD 0x81), none)
    else match r.1.poolFor a r.2 with
      | none => (((r.1.refuseAll a r.2 0x40).blk a.pipe (256 + 8)).injectedDrop a 0x40, none)
      | some k =>
        if r.1.ingFull a k then (((r.1.refuseAll a r.2 0x43).blk a.pipe (256 + 9)).injectedDrop a 0x43, none)
        else r.1.admitTo a k (firstPool (a.len + 64) != some k) r.2

/-! ### Fence queues (R150) -/

/-- Drops a frame whose copy list is not formed, at the Stable. -/
def State.admDrop (s : State) (a : Adm) (code : Nat) : State :=
  s.dropIn a.inPort code a.ingPipe (some a.ed) (a.capInfo s.tim.ct) a.head

/-- The copy set of a frame's multicast group as it stands at enqueue, before the copies the frame has beside it (R127): the state with its LAG
resolutions counted, and the frame, or none when the set is empty. -/
def State.mcFill (s : State) (a : Adm) : State × Option Adm :=
  match a.mc with
  | none => (s, some a)
  | some (g, rw, lidx) =>
    let x := s.mcSet a.pipe g a.hash rw a.inPort lidx
    let s := if x.2.1 = 0 then s else s.blk a.pipe (128 + 16) x.2.1
    let s := if x.2.2 = 0 then s else s.blk a.pipe (128 + 17) x.2.2
    (s, if x.1.isEmpty then none else some { a with mc := none, copies := (x.1.map fun c => { c with cls := a.cls }) ++ a.copies })

/-- Enqueue of one frame: its multicast copy set, then admission. An empty set drops the frame under MCAST_EMPTY. -/
def State.enterFilled (s : State) (a : Adm) : State × Option (Nat × Nat) :=
  let r := s.mcFill a
  match r.2 with
  | some a => r.1.enterStable a
  | none => (r.1.admDrop a 0x1B, none)

/-- Holds a frame in its pipeline's fence queue until the fences of all the tags close, in a stall charged to its ingress usage
(R150, R240). -/
def State.hold (s : State) (a : Adm) (tags : List Nat) : State × Option (Nat × Nat) :=
  if s.fenceFull a.pipe then ((s.blk a.pipe (160 + 18)).admDrop a 0x23, none)
  else match s.poolFor a ((s.mcFill a).2.getD a).copies with
    | none => ((s.blk a.pipe (256 + 8)).admDrop a 0x40, none)
    | some k =>
      if s.ingFull a k then ((s.blk a.pipe (256 + 9)).admDrop a 0x43, none)
      else
        let idx := lowestFree ((s.fwd.stalls.filter (·.pool == k)).map (·.idx))
        let s := s.takeStall a k idx 0 (firstPool (a.len + 64) != some k)
        ({ s with lrn := { s.lrn with held := AMap.set s.lrn.held a.pipe (s.heldOf a.pipe ++ [(tags, a, k, idx)]) } }.blk a.pipe (160 + 16),
          some (k, idx))

/-- A held frame as its stall holds it by now. -/
def Adm.live (a : Adm) (st : Stall) : Adm :=
  { a with bytes := st.bytes, whole := st.done, len := st.len, known := st.known, rxPort := st.rxPort, stored := true }

/-- Admits a held frame's copies to the stall it holds, or drops them when its edition expires or the frame ended bad. -/
def State.unholdFull (s : State) (a : Adm) (st : Stall) : State :=
  let s := s.formed a
  if s.edState a.ed = 5 then ((s.refuseAll a a.copies 0x98).backExpired a).freeStall st
  else if st.bad then (s.refuseAll a a.copies st.reason).freeStall st
  else
    let r := s.remaining a
    let c := r.1.admitCopies a st.pool st.idx r.2 0 false 0x44
    if c.2.1 = 0 then c.1.freeStall st else (c.1.putStall { st with refs := c.2.1 }).countAdm a.pipe c.2.1

/-- Enqueues a held frame whose fences have closed: its multicast copy set is computed now (R127). -/
def State.unholdTo (s : State) (a : Adm) (st : Stall) : State :=
  let r := s.mcFill a
  match r.2 with
  | some a => r.1.unholdFull a st
  | none => (r.1.admDrop a 0x1B).freeStall st

/-- Releases a held frame (R150). -/
def State.unhold (s : State) (a : Adm) (k idx : Nat) : State :=
  match s.stall? k idx with
  | some st => s.unholdTo (a.live st) st
  | none => s

/-- A pipeline's fence of a tag closes: the frames it held and no other fence holds are enqueued in arrival order, and its egress copies
go on. -/
def State.fenceRelease (s : State) (tag p : Nat) : State :=
  let held := (s.heldOf p).map fun h => (h.1.filter (· != tag), h.2)
  let eg := (s.heldEgOf p).map fun h => (h.1.filter (· != tag), h.2)
  let s := { s with lrn := { s.lrn with held := AMap.set s.lrn.held p (held.filter fun h => !h.1.isEmpty),
                                        heldEg := AMap.set s.lrn.heldEg p eg } }
  (held.filter fun h => h.1.isEmpty).foldl (fun s h => s.unhold h.2.1 h.2.2.1 h.2.2.2) s

end Sys2Proof.Machine
end

