-- ==== Sys2Proof/Machine/Ingress.lean ====
section
/-! DEFINITION. The ingress half (R13 to R18): the order in which headers take slots (R14), and the course of one header through the
Reader, the lookups, the Catalogue, the reins and admission. -/
namespace Sys2Proof.Machine

/-- The bytes of an ingress frame without its FCS. -/
def Ing.body (f : Ing) : List Byte := if f.whole then f.bytes.take (f.bytes.length - 4) else f.bytes

/-- What a capture record says of a frame in the ingress half. -/
def Ing.capInfo (f : Ing) (cls layout len : Nat) : CapInfo :=
  ⟨2, f.pass, f.ed, f.inPort, 0x1FF, 0, cls, layout, len, f.whole, f.ct, 0⟩

/-- Drops a frame in the ingress half, before its copy list is formed. The class is 0 until action resolution has given one (R303). -/
def State.ingDrop (s : State) (f : Ing) (r : RdrRes) (code : Nat) (cls : Nat := 0) : State :=
  s.dropIn f.inPort code f.ingPipe (some f.ed) (f.capInfo cls r.layout r.p) (f.body.take 192)

/-- The ingress class of a frame (R229). -/
def State.ingClass (s : State) (f : Ing) (cls : Nat) : Nat :=
  if f.chPort < 256 ∧ s.prt fPRT_FC_CFG_MODE f.chPort = 2 then
    let q := pcpOf f.bytes
    bitsOf (s.prt fPRT_PRIO_MAP_MAP f.chPort) (3 * q + 2) (3 * q)
  else cls

/-- The frame's starting colour (R258). -/
def State.startColour (s : State) (f : Ing) : Nat :=
  if s.on fHAR_PORT_COL_DEI_YELLOW f.pipe f.lidx && deiOf f.bytes then 1 else 0

/-- The frame's default class (R166). -/
def State.defClass (s : State) (f : Ing) : Nat :=
  if s.on fHAR_PORT_COL_PCP_CLASS f.pipe f.lidx then
    match outerTci f.bytes with
    | some t => t / 8192
    | none => s.rd fHAR_PORT_COL_DEF_CLASS f.pipe f.lidx
  else s.rd fHAR_PORT_COL_DEF_CLASS f.pipe f.lidx

/-- The admission request of a frame with a class and copies. The check of R97 is asked for by its layout; a frame that the Reader itself fails is
counted under that failure and under no other (R98), and is not checked again (DEDUCED, assumption log 49). -/
def State.admOf (s : State) (f : Ing) (r : RdrRes) (cls colour : Nat) (copies : List CopyReq) : Adm :=
  { pipe := f.pipe, inPort := f.inPort, chPort := f.chPort, ingPipe := f.ingPipe, bytes := f.bytes, whole := f.whole, len := r.p,
    known := f.whole || (r.sel.isSome && (fieldLen (s.ent 0x02 f.pipe r.layout) f.win).isSome), layout := r.layout, shift := f.shift, ed := f.ed,
    nextProto := f.next, fragl := f.fragl, pass := f.pass, routed := false,
    tstate := f.tstate, ct := f.ct, rc := f.rc, cont := f.cont, rMeta := 0, hash := 0, finalBd := 0, cls := cls,
    icls := s.ingClass f cls, colour := colour, far := none, punt := none, repair := none, direct := false, skip := false,
    rxPort := f.rxPort, copies := copies, mc := none, back := f.fence.isSome, adj := f.adj, stored := false,
    chkLen := !f.whole && r.sel.isSome && (match r.out with | .fail _ => false | _ => true) && entF (s.ent 0x02 f.pipe r.layout) 32 20 19 != 0 &&
      decide (entF (s.ent 0x02 f.pipe r.layout) 32 22 21 ≤ 1) }

/-- Counts an ingress rein's outcome at orders 1 to 3 of R258 (R271). -/
def State.countRein (s : State) (p col : Nat) (refused : Bool) : State :=
  let s := s.blk p (288 + 8 + col)
  if refused then s.blk p (288 + 11) else s

/-- Hands a frame to the Stable, or holds it when it read entries whose fences are open (R150). A frame passes its own fence: that of a
fence return, and that of the repair it is punted for. A return whose tag has no open fence is ordered against no held frame (R348). -/
def State.enqueue (s : State) (f : Ing) (a : Adm) (reads : List (Nat × Nat)) : State × Option (Nat × Nat) :=
  let late := match f.fence with | some t => !s.fenceIsOpen t f.pipe | none => false
  let tags := s.fenceOver f.pipe (f.fence.toList ++ a.repair.toList) reads
  if late || tags.isEmpty then s.enterFilled a else s.hold a tags

/-- Punts a frame (R99, R128, R165, R344): the punt rein, then one copy to the host of the reason in the class of the reason. `code` is
the punt's drop code, `tag` the repair it carries (R149), `cl` the class that action resolution gave it, if it came so far (R229). -/
def State.puntFrame (s : State) (f : Ing) (r : RdrRes) (reason code colour : Nat) (base : Adm) (tag cl : Option Nat)
    (reads : List (Nat × Nat)) : State × Option (Nat × Nat) :=
  let m := s.meter 0x2E f.pipe reason colour r.p
  let cls := s.rd fHST_PUNT_MAP_CLASS 0 reason
  if m.2.2 then ((m.1.blk f.pipe (288 + 16)).ingDrop f r code cls, none)
  else
    let s := match tag with | some t => m.1.repairPunt t f.pipe | none => m.1
    let host := if reason < 5 then s.rd fRDR_CFG_FAIL_HOST f.ingPipe else s.rd fHST_PUNT_MAP_HOST 0 reason
    s.enqueue f { base with cls := cls, icls := s.ingClass f (cl.getD cls), colour := m.2.1, punt := some reason, repair := tag,
                            copies := [⟨264 + host, cls, none, 0, none, false⟩] } reads

/-- Punts a frame under PARITY_MISS for a bad entry: its repair is opened (R128, R149). -/
def State.puntParity (s : State) (f : Ing) (r : RdrRes) (base : Adm) (colour t i : Nat) (cl : Option Nat) (reads : List (Nat × Nat)) :
    State × Option (Nat × Nat) :=
  let o := s.repairOpen t f.pipe i
  o.1.puntFrame f r 5 0x10 colour base o.2 cl reads

/-- Records the first Reader failure since the last clear (`RDR_FAIL_LAST`, `RDR_FAIL_TIME`). -/
def State.rdrFail (s : State) (f : Ing) (layout code : Nat) : State :=
  if s.on fRDR_FAIL_LAST_VALID f.pipe then s
  else
    let s := ((((s.wr fRDR_FAIL_LAST_VALID 1 f.pipe).wr fRDR_FAIL_LAST_LAYOUT layout f.pipe).wr fRDR_FAIL_LAST_PORT f.inPort f.pipe).wr
      fRDR_FAIL_LAST_PASS (b2n f.pass) f.pipe).wr fRDR_FAIL_LAST_CODE code f.pipe
    ((ctWords f.ct).zipIdx).foldl (fun s w => s.setRg .RDR_FAIL_TIME w.1 f.pipe w.2) s

/-- The forwarding fields that lookups and the Catalogue settle for a frame. -/
structure Fate where
  dt : Nat
  dest : Nat
  cls : Nat
  act : Nat
  deriving DecidableEq, Repr

/-- The action of the first shelf whose result is not CONTINUE (R165). -/
def actOf (a b : Option Nat) : Option Nat :=
  match a with
  | some x => if rAct x ≠ 0 then some x else (match b with | some y => if rAct y ≠ 0 then some y else none | none => none)
  | none => match b with | some y => if rAct y ≠ 0 then some y else none | none => none

/-- The class of a frame (R165). -/
def State.classOf (s : State) (f : Ing) (a b : Option Nat) (r : Nat) : Nat :=
  let offer := fun (x : Option Nat) => match x with | some y => if rClsV y then some (rCls y) else none | none => none
  match offer a with
  | some c => c
  | none => match offer b with
    | some c => c
    | none => if resClsV r then resCls r else s.defClass f

/-- Meters a frame with a rule's rein, when the rule has one (R165, R258): the state, the colour and whether it is refused. -/
def State.ruleRein (s : State) (f : Ing) (x : Option Nat) (colour len : Nat) : State × Nat × Bool :=
  match x with
  | some y =>
    if rReinV y then
      let m := s.meter 0x2C f.pipe (rRein y) colour len
      (m.1.countRein f.pipe m.2.1 m.2.2, m.2.1, m.2.2)
    else (s, colour, false)
  | none => (s, colour, false)

/-- The reins of step 5 at orders 1 to 3 (R258): the state, the colour, and the drop code of the rein that refused. -/
def State.reinChain (s : State) (f : Ing) (bum : Option Nat) (a b : Option Nat) (len code : Nat) : State × Nat × Option Nat :=
  let c0 := s.startColour f
  let m0 := match bum with
    | some i => let m := s.meter 0x2C f.pipe i c0 len; (m.1.countRein f.pipe m.2.1 m.2.2, m.2.1, m.2.2)
    | none => (s, c0, false)
  if m0.2.2 then (m0.1, m0.2.1, some 0x19)
  else
    let m1 := m0.1.ruleRein f a m0.2.1 len
    if m1.2.2 then (m1.1, m1.2.1, some code)
    else
      let m2 := m1.1.ruleRein f b m1.2.1 len
      (m2.1, m2.2.1, if m2.2.2 then some code else none)

/-- Mirror and capture copies of action resolution (R165, R230): sessions in ascending number, then the capture copy. A mirror copy has the next
hop and `RW_IDX` that resolution gave its frame, which META names for each frame (R189; DEDUCED, assumption log 20). A capture trigger while the
Archive's capture is off is a lost record (R301). -/
def State.extraCopies (s : State) (f : Ing) (a b : Option Nat) (cls : Nat) (nh : Option Nat) (rw : Nat) : State × List CopyReq :=
  let ses := fun (x : Option Nat) => match x with | some y => if rMirV y then [rMir y] else [] | none => []
  let ms := (List.range 8).filter fun m => (ses a ++ ses b).any (· == m)
  let mir := ms.map fun m => (⟨s.rd fSTB_MIRROR_DEST 0 m, s.rd fSTB_MIRROR_CLASS 0 m, nh, rw, some m, false⟩ : CopyReq)
  let trig := fun (x : Option Nat) => match x with | some y => rCapture y | none => false
  if trig a || trig b then
    if s.on fARC_CFG_CAP_EN then (s, mir ++ [⟨266, cls, none, 0, none, true⟩]) else (s.capLost f.pipe false, mir)
  else (s, mir)

/-- Byte counters that add L once it is known, as (set, element, counter): the BD's and the rules' (R288). -/
def lateCounters (f : Ing) (bd : Option Nat) (a b : Option Nat) : List (Nat × Nat × Nat) :=
  let rule := fun (x : Option Nat) => match x with
    | some y => if rCntV y then [(8, f.pipe * 16384 + rCnt y, 1)] else []
    | none => []
  (match bd with | some d => [(13, d, 1)] | none => []) ++ rule a ++ rule b

/-- What the ingress half gives back for a frame: the new state, the stall it was given, and the byte counters that wait for L. -/
abbrev IngRes := State × Option (Nat × Nat) × List (Nat × Nat × Nat)

/-- What a dropping, punting or redirecting action, or none, makes of a frame's destination (R165): type and destination. -/
def actDest (kind arg r : Nat) : Nat × Nat :=
  if kind = 2 then (dtPUNT, bitsOf arg 4 0) else if kind = 3 then (bitsOf arg 2 0, bitsOf arg 16 3) else (resDt r, resDest r)

/-- Counts ECMP resolutions, LAG resolutions and LAG remaps (R132). -/
def State.countRes (s : State) (p e lg rm : Nat) : State :=
  let s := if e = 0 then s else s.blk p (128 + 15) e
  let s := if lg = 0 then s else s.blk p (128 + 16) lg
  if rm = 0 then s else s.blk p (128 + 17) rm

/-- A frame that the reins have passed is enqueued with its copies and those of mirrors and capture (R165, R230). -/
def State.ingEnqueue (s : State) (f : Ing) (base : Adm) (a b : Option Nat) (cls colour : Nat) (copies : List CopyReq)
    (mc : Option (Nat × Nat × Nat)) (rw : Nat) (reads : List (Nat × Nat)) : State × Option (Nat × Nat) :=
  let ex := s.extraCopies f a b cls (copies.head?.bind (·.nh)) ((copies.head?.map (·.rwIdx)).getD rw)
  ex.1.enqueue f { base with cls := cls, icls := ex.1.ingClass f cls, colour := colour, mc := mc,
                             copies := (copies.map fun c => { c with cls := cls }) ++ ex.2 } reads

/-- Steps 4 to 6 of a frame's course after its lookups (R165, R258, R230): r is the chosen result, `bum` the rein of the flood group it
chose, `res` the resolution of r. A REDIRECT is resolved before the reins, which meter no frame that resolution has dropped. -/
def State.ingResolve (s : State) (f : Ing) (r : RdrRes) (kv : List Byte) (l : Look) (ch : Chosen) (res : GRes)
    (reads : List (Nat × Nat)) : IngRes :=
  let p := f.pipe
  let lay := s.ent 0x02 p r.layout
  let pn := entF lay 35 8 5
  let fixed := fixedIn f.inPort f.pass l.bd l.routed l.da.hit l.ka.hit l.kb.hit l.pfx.hit (resDt ch.r) pn (resCls ch.r) (resClsV ch.r)
  let q := s.catalogue false p f.slot pn (entF lay 34 7 0) f.ed kv (lookBlock l ch.r) fixed
  let s := q.1
  let base := { s.admOf f r 0 (s.startColour f) [] with
    routed := l.routed, rMeta := resMeta ch.r, hash := l.hash, finalBd := l.bd }
  let cnt := fun (s : State) (x : Option Nat) => match x with
    | some y => if rCntV y then s.count 8 (p * 16384 + rCnt y) 0 1 else s
    | none => s
  let won := fun (rows : List Nat) => reads ++ [(0x18, pn)] ++ rows.map fun x => (0x1A, x)
  match q.2 with
  | .parity t i a b rows =>
    let x := ((cnt (cnt s a) b).blk p (192 + 15)).puntParity f r base (s.startColour f) t i none (won rows)
    (x.1, x.2, lateCounters f (some l.bd) a b)
  | .ok a b rows =>
    let late := lateCounters f (some l.bd) a b
    let s := cnt (cnt s a) b
    let act := actOf a b
    let kind := match act with | some x => rAct x | none => 0
    let arg := match act with | some x => rArg x | none => 0
    let s := if kind = 0 then s else s.blk p (192 + 9 + kind)
    let d := actDest kind arg ch.r
    let punted := d.1 == dtPUNT
    let pcode := if kind = 2 || (kind = 3 && punted) then 0x28 else 0x1A
    if kind = 1 then (s.ingDrop f r (0xC0 + bitsOf arg 5 0), none, late)
    else if d.1 = dtDISCARD then (s.ingDrop f r 0x16, none, late)
    else if d.1 = dtPORT ∧ d.2 < 256 ∧ !s.portExists d.2 then (s.ingDrop f r 0x29, none, late)
    else
      let rd := won rows ++ (if kind = 3 then s.groupReads p d.1 d.2 l.hash else [])
      let cls := s.classOf f a b ch.r
      let reins := fun (s : State) (code : Nat) => s.reinChain f (if kind = 0 then ch.rein else none) a b r.p code
      let stop := fun (s : State) (code : Nat) => ((s.ingDrop f r code cls, none, late) : IngRes)
      if punted then
        let m := reins s pcode
        match m.2.2 with
        | some code => stop m.1 code
        | none => let x := m.1.puntFrame f r (d.2 % 32) pcode m.2.1 base none (some cls) (won rows); (x.1, x.2, late)
      else
        match (if kind = 3 then s.resolve p d.1 d.2 (resRw ch.r) l.hash f.lidx else res) with
        | .drop code => (s.ingDrop f r code, none, late)
        | .parity t i =>
          let m := reins (((s.lkReport p t i).blk p (128 + 18)).repairOpen t p i).1 0x10
          match m.2.2 with
          | some code => stop m.1 code
          | none => let x := m.1.puntParity f r base m.2.1 t i (some cls) (won rows); (x.1, x.2, late)
        | .mcast g rw =>
          let m := reins s 0xA0
          match m.2.2 with
          | some code => stop m.1 code
          | none => let x := m.1.ingEnqueue f base a b cls m.2.1 [] (some (g, rw, f.lidx)) rw rd; (x.1, x.2, late)
        | .ok copies e lg rm =>
          let m := reins (s.countRes p e lg rm) 0xA0
          match m.2.2 with
          | some code => stop m.1 code
          | none => let x := m.1.ingEnqueue f base a b cls m.2.1 copies none (resRw ch.r) rd; (x.1, x.2, late)

/-- The entries of the Reader's tables that a frame read, as (table, index). -/
def Ing.rdrReads (_ : Ing) (r : RdrRes) : List (Nat × Nat) :=
  match r.sel with | some e => [(0x01, e), (0x02, r.layout)] | none => []

/-- Failed reads that decide nothing are counted, reported and repaired all the same (R128). -/
def State.lkOther (s : State) (p : Nat) (l : List Rd) : State :=
  (l.filter (·.failed)).foldl (fun s x => (((s.lkReport p x.table x.idx).blk p (128 + 19)).repairOpen x.table p x.idx).1) s

/-- Step 3 of a frame's course (R109 to R136): lookups, source check, the chosen result and its resolution. -/
def State.ingLookup (s : State) (f : Ing) (r : RdrRes) (kv : List Byte) : IngRes :=
  let p := f.pipe
  let lay := s.ent 0x02 p r.layout
  let base := s.admOf f r 0 (s.startColour f) []
  let stop := fun (s : State) (x : LookStop) (late : List (Nat × Nat × Nat)) (reads : List (Nat × Nat)) => match x with
    | .drop code => ((s.ingDrop f r code, none, late) : IngRes)
    | .parity t i =>
      let y := ((s.lkReport p t i).blk p (128 + 18)).puntParity f r base (s.startColour f) t i none reads
      (y.1, y.2, late)
  match s.lookReads f kv (entF lay 35 4 0) with
  | .inl x => stop ((x.2.foldl (fun s k => s.countKa p k) s).lkOther p x.2) x.1 [] (f.rdrReads r)
  | .inr l =>
    let s := s.countLook f l
    let late := lateCounters f (some l.bd) none none
    let s := if l.da.hit && s.on fBRS_AGE_CFG_DA_HIT p then s.setHit p l.da.idx else s
    let sc := s.sourceCheck f l
    let s := sc.1
    let reads := f.rdrReads r ++ l.base ++ s.hashReads p l kv
    match sc.2 with
    | some code => ((s.lkOther p l.failedReads).ingDrop f r code, none, late)
    | none =>
      let ch := s.choose p l
      let other := match ch with
        | .inl (.parity t i) => l.failedReads.eraseP fun x => x.table == t && x.idx == i
        | _ => l.failedReads
      let s := s.lkOther p other
      match ch with
      | .inl x => stop s x late reads
      | .inr c =>
        let s := if c.rule = 1 then s.blk p (128 + 2) else if c.rule = 2 then s.blk p (128 + 3)
          else if c.rule = 3 then s.blk p (128 + 1) else if c.rule = 4 then s.blk p (128 + 12)
          else if c.rule = 5 then s.blk p (128 + 13) else s
        let s := if c.rule = 1 ∨ c.rule = 2 ∨ c.rule = 3 then s.count 13 l.bd 2 1 else s
        let go := fun (s : State) (g : GRes) => s.ingResolve f r kv l c g (reads ++ s.groupReads p (resDt c.r) (resDest c.r) l.hash)
        match s.resolve p (resDt c.r) (resDest c.r) (resRw c.r) l.hash f.lidx with
        | .drop code => (s.ingDrop f r code, none, late)
        | .parity t i => stop s (.parity t i) late reads
        | .mcast g rw => go s (.mcast g rw)
        | .ok copies e lg rm => go (s.countRes p e lg rm) (.ok copies 0 0 0)

/-- The punt reason and drop code of a Reader failure code (R99). -/
def rdrReason : Nat → Nat
  | 0x00 => 0 | 0x01 => 1 | 0x02 => 2 | _ => 3

/-- Steps 2 to 6 of a frame's course: the Reader's decision with its parity, stamping and counters (R98 to R106), then lookups. The parity of the
select entry that wins is checked; a frame that cannot read its select entry or layout is punted with the fields that the stored entries give and
counts under no layout; and counter 72 counts every frame of an `ACTION` 2 layout, whether or not its rein lets it through (all DESIGN CHOICE,
assumption log 49). -/
def State.ingressFrame (s : State) (f : Ing) : IngRes :=
  let p := f.pipe
  let s := if f.pass ∨ f.fence.isSome then s else (s.edUp f.ed).blk p (352 + b2n f.ed)
  let r := s.readerDecide f
  if f.pass ∧ s.edState f.ed = 5 then ((s.blk p (352 + 2)).ingDrop f r 0x98, none, [])
  else
    let s := s.blk p (if f.pass then 65 else 64)
    let base := s.admOf f r 0 (s.startColour f) []
    let col := s.startColour f
    let q1 := match r.sel with | some e => s.rdrRead p 0 f.slot 6 0x01 e | none => (s, true)
    let q2 := if q1.2 then (match r.sel with | some _ => q1.1.rdrRead p 1 f.slot 12 0x02 r.layout | none => (q1.1, true)) else q1
    if !q2.2 then
      let t := if q1.2 then 0x02 else 0x01
      let i := if q1.2 then r.layout else r.sel.getD 0
      let x := ((q2.1.blk p 76).blk p 74).puntParity f r base col t i none (f.rdrReads r)
      (x.1, x.2, [])
    else
      let s := match r.sel with | some _ => q2.1.blk p r.layout | none => q2.1
      match r.out with
      | .drop => ((s.blk p 71).ingDrop f r 0x04, none, [])
      | .punt =>
        let x := ((s.blk p 72).blk p 74).puntFrame f r 4 0x05 col base none none (f.rdrReads r)
        (x.1, x.2, [])
      | .parity t i => let x := s.puntParity f r base col t i none (f.rdrReads r); (x.1, x.2, [])
      | .fail code =>
        let s := (s.blk p (67 + code)).rdrFail f r.layout code
        if bitOf (s.rd fRDR_CFG_FAIL_DROP p) code then (s.ingDrop f r code, none, [])
        else
          let x := (s.blk p 74).puntFrame f r (rdrReason code) code col base none none (f.rdrReads r)
          (x.1, x.2, [])
      | .recirc cls sh nx fr =>
        let x := (s.blk p 66).enqueue f { base with cls := cls, icls := s.ingClass f cls, shift := sh, nextProto := nx, fragl := fr,
                                                    skip := true, copies := [⟨256 + p, cls, none, 0, none, false⟩] } (f.rdrReads r)
        (x.1, x.2, [])
      | .fwd kv => s.ingLookup f r kv

/-! ### Slots (R14) -/

/-- Whether a received header is ready for the Reader: its window is complete, or the frame has ended (R88). A MAC Control frame is
consumed by the MAC and never ready (R77). -/
def RxFrame.ready (x : RxFrame) : Bool :=
  x.fate == .waiting && (x.ended || decide (192 ≤ x.bytes.length)) && bytesNat ((x.bytes.drop 12).take 2) != 0x8808 && !x.notUp

/-- A front-panel frame as its ingress slot sees it. -/
def RxFrame.ing (x : RxFrame) (slot : Nat) : Ing :=
  { pipe := x.port / 32, slot := slot, inPort := x.port, lidx := x.port % 32, bytes := x.bytes, whole := x.ended, len := x.bytes.length,
    ct := x.ct, rc := x.rc, tstate := x.tstate, ed := x.ed, pass := false, shift := 0, next := 0, fragl := false, front := true,
    chPort := x.port, ingPipe := x.port / 32, rxPort := if x.ended then none else some x.port, fence := none, cont := none,
    adj := x.adj }

/-- A pass-2 frame as its ingress slot sees it (R199, R469). -/
def LoopFrame.ing (x : LoopFrame) (p slot : Nat) : Ing :=
  let bytes := x.bytes ++ fcsBytes x.bytes
  { pipe := p, slot := slot, inPort := x.inPort, lidx := if x.inPort < 256 ∧ x.inPort / 32 = p then x.inPort % 32 else 32,
    bytes := bytes, whole := true, len := bytes.length, ct := x.ct, rc := x.rc, tstate := x.tstate, ed := x.ed, pass := true,
    shift := x.shift, next := x.nextProto, fragl := x.fragl, front := false, chPort := 256 + p, ingPipe := x.ingPipe,
    rxPort := none, fence := none, cont := x.cont, adj := x.adj }

/-- An injected frame as its ingress slot sees it (R13, R150, R347): a fence return is received on its input port. -/
def InjFrame.ing (x : InjFrame) (slot : Nat) : Ing :=
  let inPort := match x.fence with | some t => t.2 | none => 264 + x.host.num
  { pipe := x.pipe, slot := slot, inPort := inPort,
    lidx := if inPort < 256 then inPort % 32 else if inPort < 264 then 32 else 33 + (inPort - 264),
    bytes := x.bytes, whole := true, len := x.bytes.length, ct := x.ct, rc := x.rc, tstate := x.tstate, ed := x.ed, pass := false,
    shift := 0, next := 0, fragl := false, front := decide (inPort < 256), chPort := inPort, ingPipe := x.pipe, rxPort := none,
    fence := x.fence.map (·.1), cont := none, adj := 0 }

/-- Runs a received frame through the ingress half and records where its later bytes go (R225, R288). -/
def State.ingFront (s : State) (x : RxFrame) (slot : Nat) : State :=
  let s := { s with fwd := { s.fwd with rx := s.fwd.rx.filter (· != x) } }
  let r := s.ingressFrame (x.ing slot)
  let s := r.1
  if x.ended then r.2.2.foldl (fun s c => s.countAt c.1 c.2.1 c.2.2 x.bytes.length s.tim.ct) s
  else
    let fate := match r.2.1 with | some k => RxFate.stalled k.1 k.2 | none => .gone
    { s with fwd := { s.fwd with
        rx := s.fwd.rx ++ [{ x with fate := fate, late := r.2.2.map fun c => (c.1, c.2.1, c.2.2, s.tim.ct, s.tim.rc) }] } }

/-- Runs a frame whose length is known through the ingress half. -/
def State.ingWhole (s : State) (f : Ing) : State :=
  let r := s.ingressFrame f
  r.2.2.foldl (fun s c => s.countAt c.1 c.2.1 c.2.2 f.len s.tim.ct) r.1

/-- A pipeline's fence of a tag closes: its held frames are released, and the repair closes with its last fence (R150). -/
def State.fenceClose (s : State) (tag p : Nat) : State :=
  let s := s.fenceRelease tag p
  match s.repair? tag with
  | none => s
  | some r =>
    let left := r.fences.filter (· != p)
    if left.isEmpty then s.repairClose tag else s.setRepair { r with fences := left }

/-- A returned frame of a tag has been processed: it counts, and closes its pipeline's fence when every punted frame has returned
(R150). A return before the rewrite counts too (DEDUCED, assumption log 22). -/
def State.fenceReturned (s : State) (tag p : Nat) : State :=
  match s.repair? tag with
  | none => s
  | some r =>
    let n := AMap.getD r.returned p 0 + 1
    let s := s.setRepair { r with returned := AMap.set r.returned p n }
    if p ∈ r.fences ∧ AMap.getD r.punted p 0 ≤ n then s.fenceClose tag p else s

/-- Runs an injected frame through the ingress half: it takes its time and the edition bit in force as it enters (R212). A fence return
keeps those it carries, has the residence adjustment of its input port (R82), and counts toward its fence once processed (R150, R348). -/
def State.ingInjected (s : State) (y : InjFrame) (slot : Nat) : State :=
  match y.fence with
  | some t =>
    let adj := if t.2 < 256 then signedOf 24 (s.prt fPRT_PTP_RX_ADJ_ADJ t.2) else 0
    (s.ingWhole { y.ing slot with adj := adj }).fenceReturned t.1 y.pipe
  | none => s.ingWhole (({ y with ct := stamp s.tim.ct, rc := s.tim.rc, tstate := s.tstate, ed := s.edNow } : InjFrame).ing slot)

/-- The loop FIFO and frames on the loop of a pipeline. -/
def State.loop (s : State) (p : Nat) : List LoopFrame := AMap.getD s.fwd.loops p []

/-- The injected frames that wait for a pipeline. -/
def State.injq (s : State) (p : Nat) : List InjFrame := AMap.getD s.fwd.inject p []

/-- Recirculation credit of one frame, in units of 1/875 of a credit: 0.9/1.75 accrues as 450 per cycle (R14). -/
def creditU : Nat := 875

/-- Assigns one slot in the order of R14: front-panel headers oldest first, recirculation with credit, injected frames, recirculation
without credit. The Bool says that a header was assigned. -/
def State.slotOne (s : State) (p slot : Nat) : State × Bool :=
  match s.fwd.rx.find? fun x => x.port / 32 == p && x.ready with
  | some x => (s.ingFront x slot, true)
  | none =>
    let cred := AMap.getD s.fwd.credit p 0
    let takeLoop := fun (s : State) (x : LoopFrame) (t : List LoopFrame) =>
      let s := (s.blk p (224 + 15)).blk p (224 + 16) (x.bytes.length + 4)
      let s := { s with fwd := { s.fwd with loops := AMap.set s.fwd.loops p t } }
      let s := s.wr fFAR_STATUS_LOOP_LEVEL (min 1024 (((t.map fun x => x.bytes.length + 4).sum + 63) / 64)) p
      (s.ingWhole (x.ing p slot), true)
    match s.loop p with
    | x :: t =>
      if x.entered ∧ creditU ≤ cred then
        takeLoop { s with fwd := { s.fwd with credit := AMap.set s.fwd.credit p (cred - creditU) } } x t
      else match s.injq p with
        | y :: u => ({ s with fwd := { s.fwd with inject := AMap.set s.fwd.inject p u } }.ingInjected y slot, true)
        | [] => if x.entered then takeLoop s x t else (s, false)
    | [] => match s.injq p with
      | y :: u => ({ s with fwd := { s.fwd with inject := AMap.set s.fwd.inject p u } }.ingInjected y slot, true)
      | [] => (s, false)

/-- Assigns the slots from `slot` on, at most `n` of them. -/
def State.slots (s : State) (p slot : Nat) : Nat → State
  | 0 => s
  | n + 1 => let r := s.slotOne p slot; if r.2 then State.slots r.1 p (slot + 1) n else r.1

/-- One CCLK cycle of an ingress half (R14): up to six headers, then the recirculation credit accrues. -/
def ingressSlots (p : Nat) (s : State) : State :=
  let s := s.slots p 0 6
  { s with fwd := { s.fwd with credit := AMap.set s.fwd.credit p (min (8 * creditU) (AMap.getD s.fwd.credit p 0 + 450)) } }

/-- INGRESS_SLOT_ASSIGN: one CCLK cycle of the ingress half of pipeline p. -/
def execIngressSlotAssign (p : Nat) (s : State) : Out := .next (ingressSlots p s)

end Sys2Proof.Machine
end

