-- ==== Sys2Proof/Machine/Farrier.lean ====
section
/-! DEFINITION. The Farrier (R179 to R207): rewrite words and their micro-operations, the program a copy runs, its faults and limits,
turns and continuations. -/
namespace Sys2Proof.Machine

/-- A byte of the working header with the offset it had at stage 0, none for a pushed byte (R192). -/
abbrev HByte := Byte × Option Nat

/-- What a program reads beside the header (R189, R190, R184): the header at stage 0, META, ARG and Lf when known. -/
structure FarEnv where
  orig : List Byte
  metaB : List Byte
  arg : List Byte
  lf : Option Nat
  deriving DecidableEq, Repr

/-- The state of one pass of a program: the working header, the net change D (R185), where bytes were pushed or popped (R192),
the marks for the MAC, whether a TSTAMP was executed (R193), whether MARK CAPTURE was, and how often MARK RECIRC was. A change is a pair of stage-0
offsets: those of the last byte before and of the first byte after a push, or a popped byte's own twice. -/
structure Prog where
  hdr : List HByte
  d : Int
  cuts : List (Nat × Nat)
  marks : TsMarks
  stamped : Bool
  capture : Bool
  recirc : Nat
  deriving DecidableEq, Repr

/-- How an operation ends a frame: a program fault with its cause (R194), or a drop with its code. -/
inductive FarStop where
  | fault (cause : Nat)
  | drop (code : Nat)
  deriving DecidableEq, Repr

/-- Micro-operation k of a rewrite word: OPS bits [56k+55:56k] (R180). -/
def opOf (w : List Word) (k : Nat) : Nat := bitsOf (wordsNat (w.take 7)) (56 * k + 55) (56 * k)

/-- The working header with bytes written from an offset on. -/
def putHdr (h : List HByte) (off : Nat) (bs : List Byte) : List HByte :=
  h.zipIdx.map fun x => if off ≤ x.2 ∧ x.2 < off + bs.length then (bs.getD (x.2 - off) 0, x.1.2) else x.1

/-- The bytes of a working header. -/
def hdrBytes (h : List HByte) : List Byte := h.map (·.1)

/-- n bytes of a working header from an offset. -/
def hdrAt (h : List HByte) (off n : Nat) : List Byte := ((h.drop off).take n).map (·.1)

/-- Bytes of META (1) or ARG (2). -/
def FarEnv.src (e : FarEnv) (src off n : Nat) : List Byte := ((if src = 1 then e.metaB else e.arg).drop off).take n

/-- The program with bytes written at an offset, or a RANGE fault when a byte lies at or beyond H (R185). -/
def Prog.write (g : Prog) (off : Nat) (bs : List Byte) : FarStop ⊕ Prog :=
  if g.hdr.length < off + bs.length then .inl (.fault 0) else .inr { g with hdr := putHdr g.hdr off bs }

/-- SET (R187). -/
def opSet (e : FarEnv) (g : Prog) (o : Nat) : FarStop ⊕ Prog :=
  let n := bitsOf o 43 40 + 1
  let src := bitsOf o 39 38
  g.write (bitsOf o 51 44) (if src = 0 then natBytes n (bitsOf o 31 0) else e.src src (bitsOf o 37 32) n)

/-- SETM (R187). -/
def opSetm (e : FarEnv) (g : Prog) (o : Nat) : FarStop ⊕ Prog :=
  let off := bitsOf o 51 44
  let src := bitsOf o 39 38
  let v := if src = 0 then bitsOf o 31 16 else bytesNat (e.src src (bitsOf o 37 32) 2)
  let m := bitsOf o 15 0
  let old := bytesNat (hdrAt g.hdr off 2)
  g.write off (natBytes 2 ((old &&& (65535 - m)) ||| (v &&& m)))

/-- COPY (R187). -/
def opCopy (g : Prog) (o : Nat) : FarStop ⊕ Prog :=
  let n := bitsOf o 43 40 + 1
  let sf := bitsOf o 39 32
  if g.hdr.length < sf + n then .inl (.fault 0) else g.write (bitsOf o 51 44) (hdrAt g.hdr sf n)

/-- ADD (R187). -/
def opAdd (g : Prog) (o : Nat) : FarStop ⊕ Prog :=
  let off := bitsOf o 51 44
  let n := 2 ^ bitsOf o 43 42
  let old := bytesNat (hdrAt g.hdr off n)
  let sum := (old : Int) + signedOf 32 (bitsOf o 31 0)
  let v := if bitOf o 41 then (min (2 ^ (8 * n) - 1 : Int) (max 0 sum)).toNat else (sum % (2 ^ (8 * n) : Int)).toNat
  match g.write off (natBytes n v) with
  | .inl f => .inl f
  | .inr g' => if bitOf o 40 && v == 0 then .inl (.drop 0x92) else .inr g'

/-- PUSH (R187), with the faults of R194 in their order. -/
def opPush (e : FarEnv) (g : Prog) (o : Nat) : FarStop ⊕ Prog :=
  let off := bitsOf o 51 44
  let n := bitsOf o 43 38 + 1
  let src := bitsOf o 37 36
  let bs := if src = 0 then List.replicate n 0 else e.src src (bitsOf o 35 30) n
  if g.stamped then .inl (.fault 3)
  else if g.hdr.length < off then .inl (.fault 0)
  else if 64 < g.d + n then .inl (.fault 1)
  else .inr { g with hdr := g.hdr.take off ++ bs.map (fun b => (b, none)) ++ g.hdr.drop off, d := g.d + n,
                     cuts := g.cuts ++ (((g.hdr.take off).filterMap (·.2)).getLast?.map fun a =>
                       (a, ((g.hdr.drop off).filterMap (·.2)).headD e.orig.length)).toList }

/-- POP (R187), with the faults of R194 in their order. -/
def opPop (g : Prog) (o : Nat) : FarStop ⊕ Prog :=
  let off := bitsOf o 51 44
  let n := bitsOf o 43 37 + 1
  if g.stamped then .inl (.fault 3)
  else if g.hdr.length < off + n then .inl (.fault 0)
  else if g.d - n < -128 then .inl (.fault 2)
  else .inr { g with hdr := g.hdr.take off ++ g.hdr.drop (off + n), d := g.d - n,
                     cuts := g.cuts ++ (((g.hdr.drop off).take n).filterMap (·.2)).map fun a => (a, a) }

/-- LEN (R187). -/
def opLen (e : FarEnv) (g : Prog) (o : Nat) : FarStop ⊕ Prog :=
  match e.lf with
  | none => .inl (.fault 6)
  | some lf =>
    let v := (lf : Int) + g.d - 4 - (bitsOf o 43 36 : Nat) + signedOf 16 (bitsOf o 15 0)
    g.write (bitsOf o 51 44) (natBytes 2 (v % 65536).toNat)

/-- The length of the IPv4 header whose first byte is given. -/
def ihlLen (b : Byte) : Nat := 4 * b.toNat % 64

/-- The IPv4 header at an offset of the working header as it stood at stage 0 (R192): its place there and its length; none when bytes were pushed
into it or popped from it in this pass, by its length then or by its length now, or it was pushed itself. -/
def headerAtStart (orig : List Byte) (g : Prog) (off : Nat) : Option (Nat × Nat) :=
  match g.hdr.drop off with
  | (b, some z) :: _ =>
    let n := ihlLen (orig.getD z 0)
    if g.cuts.any fun c => decide (z ≤ c.1) && decide (c.2 < z + max (max n (ihlLen b)) 12) then none else some (z, n)
  | _ => none

/-- The IPv4 header checksum over bytes, their own checksum field taken as 0. -/
def ipSum (bs : List Byte) : Nat := inetSum (bs.take 10 ++ [0, 0] ++ bs.drop 12)

/-- CSUM (R192). The difference that IPV4_INCR applies is the whole header's, its checksum field included. -/
def opCsum (e : FarEnv) (g : Prog) (o : Nat) : FarStop ⊕ Prog :=
  let off := bitsOf o 51 44
  let n := ihlLen ((hdrAt g.hdr off 1).headD 0)
  match bitsOf o 43 42 with
  | 0 =>
    if g.hdr.length < off + max n 12 then .inl (.fault 0)
    else g.write (off + 10) (natBytes 2 (ipSum (hdrAt g.hdr off n)))
  | 1 =>
    match headerAtStart e.orig g off with
    | none => if off < g.hdr.length then .inl (.fault 4) else .inl (.fault 0)
    | some (z, n0) =>
      if g.hdr.length < off + max n 12 then .inl (.fault 0)
      else g.write (off + 10) (natBytes 2 (rfc1624 (bytesNat (hdrAt g.hdr (off + 10) 2)) ((e.orig.drop z).take n0) (hdrAt g.hdr off n)))
  | _ => g.write (off + 6) [0, 0]

/-- TSTAMP (R193). The extent that must lie below H is the marked field's and, for TWO_STEP, the bytes the MAC reads (DEDUCED,
assumption log 20). -/
def opTstamp (e : FarEnv) (g : Prog) (o : Nat) : FarStop ⊕ Prog :=
  let off := bitsOf o 51 44
  let udp := if bitOf o 40 then some (bitsOf o 39 32 + 6) else none
  let h := g.hdr.length
  let udpBad := match udp with | some u => decide (h < u + 2) | none => false
  let g := { g with stamped := true }
  match bitsOf o 43 41 with
  | 0 => if decide (h < off + 16) || udpBad then .inl (.fault 0) else .inr { g with marks := { g.marks with oneStep := some (off + 8, udp) } }
  | 1 => if h < off + 32 then .inl (.fault 0) else .inr { g with marks := { g.marks with twoStep := some off } }
  | 2 => g.write off ((e.metaB.drop 36).take 10)
  | _ => if decide (h < off + 10) || udpBad then .inl (.fault 0) else .inr { g with marks := { g.marks with insertTx := some (off, udp) } }

/-- MARK (R187). -/
def opMark (g : Prog) (o : Nat) : FarStop ⊕ Prog :=
  match bitsOf o 51 48 with
  | 0 => .inl (.drop (bitsOf o 47 40))
  | 1 => .inr { g with capture := true }
  | _ => .inr { g with recirc := g.recirc + 1 }

/-- One micro-operation (R186, R187). An opcode above 0xA cannot stand in the store (R188). -/
def farOp (e : FarEnv) (g : Prog) (o : Nat) : FarStop ⊕ Prog :=
  match bitsOf o 55 52 with
  | 0 => .inr g
  | 1 => opSet e g o
  | 2 => opSetm e g o
  | 3 => opCopy g o
  | 4 => opAdd g o
  | 5 => opPush e g o
  | 6 => opPop g o
  | 7 => opLen e g o
  | 8 => opCsum e g o
  | 9 => opTstamp e g o
  | 10 => opMark g o
  | _ => .inr g

/-- The four micro-operations of a word from operation k on: the operation that stopped with its reason and the program before it, or the
program after them. -/
def farWord (e : FarEnv) (w : List Word) (g : Prog) : List Nat → (Nat × FarStop × Prog) ⊕ Prog
  | [] => .inr g
  | k :: t => match farOp e g (opOf w k) with
    | .inl f => .inl (k, f, g)
    | .inr g' => farWord e w g' t

/-- A read of a Farrier memory with its parity (R204): a bad replica is copied from a good sister; without one the entry is repaired
from the mirror and the read is lost (false). `key` is the pipeline under which the memory's marks stand and `base` its first
replica there. -/
def State.farRead (s : State) (p t ck key base rep idx : Nat) : State × Bool :=
  if !s.bad ck key (base + rep) idx then (s, true)
  else
    let s := s.raise .FAR_PARITY p idx
    let s := if s.on fFAR_PAR_STATUS_VALID p then s
      else (((s.wr fFAR_PAR_STATUS_VALID 1 p).wr fFAR_PAR_STATUS_TABLE (t - 0x20) p).wr fFAR_PAR_STATUS_REPLICA rep p).wr
        fFAR_PAR_STATUS_INDEX idx p
    if ([0, 1, 2].filter (· != rep)).all fun o => s.bad ck key (base + o) idx then
      (((s.raise .FAR_PARITY_LOST p idx).repairOpen t p idx).1, false)
    else ((s.unmark ck key (base + rep) idx).blk p (224 + 12), true)

/-- How a program ended: lost to parity; stopped at a stage, operation and address; ended; or at stage 7 with a continuation. The first two
say how often MARK RECIRC was executed. -/
inductive FarEnd where
  | parity (recs : Nat)
  | stop (stage op addr : Nat) (why : FarStop) (recs : Nat)
  | done (g : Prog)
  | cont (g : Prog) (next : Nat)
  deriving DecidableEq, Repr

/-- Runs a program from a stage and an address (R181, R183): the state after the reads, and how it ended. The last argument is how many
stages are left. -/
def State.farRun (s : State) (p rep : Nat) (ed : Bool) (e : FarEnv) (g : Prog) (addr : Nat) : Nat → State × FarEnd
  | 0 => (s, .cont g addr)
  | n + 1 =>
    let rd := s.farRead p 0x20 0x16 p 0 rep addr
    let s := rd.1
    if !rd.2 then (s, .parity g.recirc)
    else
      let w := s.ent 0x20 p addr
      if !entB w 7 (if ed then 15 else 14) then (s, .stop (7 - n) 0 addr (.fault 5) g.recirc)
      else
        let s := s.blk p (224 + 1)
        match farWord e w g [0, 1, 2, 3] with
        | .inl f => (s, .stop (7 - n) f.1 addr f.2.1 f.2.2.recirc)
        | .inr g' => if entB w 7 13 then (s, .done g') else s.farRun p rep ed e g' (entF w 7 12 0) n

/-- Lf of a copy, when it is known (R184). -/
def Stall.lf (st : Stall) : Option Nat := if st.known || st.done then some st.len else none

/-- The META block of a copy (R189). -/
def State.farMeta (s : State) (p : Nat) (x : Slip) (st : Stall) : List Byte :=
  let lay := s.ent 0x02 p st.layout
  let egMeta := if x.direct then metaBlock st.inPort x.outPort false st.ed false true false 0 0 0 0 0 x.cls 0
    else metaBlock st.inPort x.outPort st.pass st.ed st.whole true st.fragl st.layout st.pktLen st.shift st.nextProto
      (entF lay 34 27 16) x.cls st.rMeta
  let nh := s.ent 0x0F p x.nh
  let bd := if x.nhV then entF nh 1 29 16 else x.finalBd
  let ri := entF (s.ent 0x0A p bd) 1 29 26
  let vl := s.ent 0x22 p bd
  egMeta ++
  (if x.nhV then natBytes 6 (entF nh 0 31 0 + entF nh 1 15 0 * 2 ^ 32) else List.replicate 6 0) ++
  natBytes 2 bd ++ natBytes 2 x.rwIdx ++
  (if s.on fBRS_RMAC_HI_V p ri then natBytes 6 (s.rd fBRS_RMAC_HI_MAC_HI p ri * 2 ^ 32 + (s.rg .BRS_RMAC_LO p ri).toNat)
   else List.replicate 6 0) ++
  natBytes 2 st.rMeta ++ [byte (x.cls + x.colour * 16 + b2n x.copy * 64 + b2n x.mirror * 128), 0] ++
  natBytes 6 (ctSec st.ct) ++ natBytes 4 (ctNs st.ct) ++ natBytes 2 (st.lf.getD 0) ++
  natBytes 2 (entF vl 0 11 0 + entF vl 0 12 12 * 2 ^ 15) ++ natBytes 2 st.hash ++ List.replicate 12 0

/-- The egress BD whose egress VLAN entry a copy reads. -/
def State.egressBd (s : State) (p : Nat) (x : Slip) : Nat := if x.nhV then entF (s.ent 0x0F p x.nh) 1 29 16 else x.finalBd

/-- The bytes of an argument entry (R190). -/
def argBytes (e : List Word) : List Byte := ((e.take 16).map fun w => natBytes 4 w.toNat).flatten

/-- The length of the working header at stage 0 (R184). -/
def Stall.h0 (st : Stall) : Nat := match st.lf with | some l => min 192 (l - 4) | none => 192

/-- The entry address of a copy's program, from the first source of R182 that supplies one. -/
def State.farEntry (s : State) (p : Nat) (x : Slip) (st : Stall) (eg : Option Nat) : Option Nat :=
  match st.cont with
  | some a => some a
  | none => match eg with
    | some a => some a
    | none => match x.far with
      | some a => some a
      | none =>
        let k := egLocal x.outPort
        if st.ed then (if s.on fFAR_PORT_DEF_B_V p k then some (s.rd fFAR_PORT_DEF_B p k) else none)
        else (if s.on fFAR_PORT_DEF_A_V p k then some (s.rd fFAR_PORT_DEF_A p k) else none)

/-- Bytes of a pipeline's loop FIFO that frames on the loop, and copies on their way to it, take (R196). -/
def State.loopUsed (s : State) (p : Nat) : Nat :=
  ((s.loop p).map fun x => x.bytes.length + 4).sum +
  ((AMap.getD s.ports.txWait (256 + p) []).map fun c => c.hdr.length + ((s.frameOf c.slip).map (·.len)).getD 0 - c.hlen).sum

/-- The loop FIFO's level and high-water mark in units of 64 bytes (`FAR_STATUS`). -/
def State.loopLevel (s : State) (p : Nat) : State :=
  let n := min 1024 ((((s.loop p).map fun x => x.bytes.length + 4).sum + 63) / 64)
  let s := s.wr fFAR_STATUS_LOOP_LEVEL n p
  if s.rd fFAR_STATUS_LOOP_HIGH p < n then s.wr fFAR_STATUS_LOOP_HIGH n p else s

/-- Records the first program fault since the last clear (R194). -/
def State.farFault (s : State) (p : Nat) (x : Slip) (st : Stall) (cause stage op addr : Nat) : State :=
  if s.on fFAR_FAULT_LAST_VALID p then s
  else ((((((s.wr fFAR_FAULT_LAST_VALID 1 p).wr fFAR_FAULT_LAST_CAUSE cause p).wr fFAR_FAULT_LAST_OP op p).wr
    fFAR_FAULT_LAST_STAGE stage p).wr fFAR_FAULT_LAST_PASS (b2n st.pass) p).wr fFAR_FAULT_LAST_PORT x.outPort p).wr
    fFAR_FAULT_LAST_ADDR addr p

/-- What the Farrier makes of a copy: a drop with its code, or the copy as rewritten. -/
inductive FarOut where
  | drop (code : Nat)
  | ok (g : Prog) (cont : Option Nat)
  deriving DecidableEq, Repr

/-- A copy's program with its counters and reports (R182 to R195, R204, R205). -/
def State.farrier (s : State) (p slot : Nat) (x : Slip) (st : Stall) (eg : Option Nat) : State × FarOut :=
  let h0 := st.bytes.take st.h0
  let g0 : Prog := ⟨h0.zipIdx.map fun b => (b.1, some b.2), 0, [], ⟨none, none, none⟩, false, false, 0⟩
  match s.farEntry p x st eg with
  | none => (s.blk p (224 + 2), .ok g0 none)
  | some a =>
    let s := s.blk p 224
    let ai := x.rwIdx % 2 ^ 15
    let bd := s.egressBd p x
    let r1 := s.farRead p 0x21 0x17 15 (3 * p) (slot / 2) ai
    let r2 := r1.1.farRead p 0x22 0x18 15 (3 * p) (slot / 2) bd
    let s := r2.1
    if !(r1.2 && r2.2) then (s.blk p (224 + 13), .drop 0x95)
    else
      let e : FarEnv := ⟨h0, s.farMeta p x st, argBytes (s.ent 0x21 p ai), st.lf⟩
      let r := s.farRun p (slot / 2) st.ed e g0 a 8
      let recs := fun (s : State) (n : Nat) => if n = 0 then s else s.blk p (224 + 5) n
      let s := r.1
      match r.2 with
      | .parity k => ((recs s k).blk p (224 + 13), .drop 0x95)
      | .stop stage op addr (.fault c) k =>
        ((((recs s k).farFault p x st c stage op addr).raise .FAR_PROG_FAULT p addr).blk p (224 + 8), .drop 0x91)
      | .stop _ _ _ (.drop c) k => ((recs s k).blk p (if c = 0x92 then 224 + 10 else 224 + 9), .drop c)
      | .done g => (recs s g.recirc, .ok g none)
      | .cont g n => (recs s g.recirc, .ok g (some n))

end Sys2Proof.Machine
end

