-- ==== Sys2Proof/Machine/Gates.lean ====
section
/-! DEFINITION. Cadence lists (R261 to R267): the gates of a port at a course time, the lead times of R265, the guard-band test, the
longest window of a class, and the gate change at the MAC. -/
namespace Sys2Proof.Machine

/-- The table index of a cadence entry (R261). -/
def cadIndex (k bank i : Nat) : Nat := (k * 2 + bank) * 256 + i

/-- The base time of a bank. -/
def State.cadBase (s : State) (p k bank : Nat) : Nat :=
  (ctOfWords (s.rg .HAR_CAD_BASE p k bank 0) (s.rg .HAR_CAD_BASE p k bank 1) (s.rg .HAR_CAD_BASE p k bank 2)).getD 0

/-- The gates of a cadence entry; an uncorrectable entry closes every class (R270). -/
def State.cadGates (s : State) (p k bank i : Nat) : Nat :=
  if s.marked 0x21 p 0 (cadIndex k bank i) = some true then 0 else entF (s.ent 0x2F p (cadIndex k bank i)) 1 7 0

/-- The entry in force at an offset into the cycle: its number and the offset at which it ends; the last entry lasts to the cycle's end
(R262). `i` is the entry tried, `acc` the sum of the intervals before it. -/
def State.cadFind (s : State) (p k bank off len cycle : Nat) : Nat → Nat → Nat → Nat × Nat
  | 0, i, _ => (i, cycle)
  | n + 1, i, acc =>
    let e := acc + ns (entF (s.ent 0x2F p (cadIndex k bank i)) 0 29 0)
    if len ≤ i + 1 then (i, cycle)
    else if off < e then (i, min e cycle)
    else s.cadFind p k bank off len cycle n (i + 1) e

/-- The gates of a bank at a course time, and the instant up to which they hold (R262). -/
def State.cadSeg (s : State) (p k bank t : Nat) : Nat × Nat :=
  let base := s.cadBase p k bank
  let cycle := ns (s.rd fHAR_CAD_CYCLE_CYCLE_NS p k bank)
  let len := s.rd fHAR_CAD_LEN_LEN p k bank
  if t < base then (0xFF, base)
  else
    let off := (t - base) % cycle
    if len = 0 then ((Config.emptyGates (32 * p + k) bank).toNat, t - off + cycle)
    else
      let f := s.cadFind p k bank off len cycle 256 0 0
      (s.cadGates p k bank f.1, t - off + f.2)

/-- The entry of a bank in force at a course time, if an entry is. -/
def State.cadAt (s : State) (p k bank t : Nat) : Option Nat :=
  let base := s.cadBase p k bank
  let len := s.rd fHAR_CAD_LEN_LEN p k bank
  let cycle := ns (s.rd fHAR_CAD_CYCLE_CYCLE_NS p k bank)
  if t < base ∨ len = 0 then none else some (cadIndex k bank (s.cadFind p k bank ((t - base) % cycle) len cycle 256 0 0).1)

/-- The armed swap's time of a port, when a CADENCE trigger is armed for it: the earliest of those armed (R263). -/
def State.swapAt (s : State) (p k : Nat) : Option Nat :=
  if s.on fHAR_GATE_CFG_SWAP_ARMED p k then ((s.tim.trigs.filter (·.kind == TrigKind.cadence)).map (·.at_)).min? else none

/-- The gates of a port at a course time, and up to when they hold: the active bank, and from an armed swap's time the pending one. -/
def State.gateSeg (s : State) (p k t : Nat) : Nat × Nat :=
  let b := s.rd fHAR_GATE_CFG_ACTIVE p k
  match s.swapAt p k with
  | none => s.cadSeg p k b t
  | some sw =>
    if sw ≤ t then s.cadSeg p k (1 - b) t
    else let g := s.cadSeg p k b t; (g.1, min g.2 sw)

/-- The bank in force of a port at a course time. -/
def State.bankAt (s : State) (p k t : Nat) : Nat :=
  let b := s.rd fHAR_GATE_CFG_ACTIVE p k
  match s.swapAt p k with
  | some sw => if sw ≤ t then 1 - b else b
  | none => b

/-- The cadence entries in force at some instants are read with their check codes (R270, R271). -/
def State.cadRead (s : State) (p k : Nat) (ts : List Nat) : State :=
  ((ts.filterMap fun t => s.cadAt p k (s.bankAt p k t) t).eraseDups).foldl (fun s i => (s.harRead 0x2F p i).1) s

/-- The class gates of a port at a course time: all open while `EN` = 0 (R262). -/
def State.gatesAt (s : State) (port t : Nat) : Nat :=
  if s.on fHAR_GATE_CFG_EN (port / 32) (port % 32) then (s.gateSeg (port / 32) (port % 32) t).1 else 0xFF

/-- The first instant from t on at which a class is closed, looking at most `n` entries beyond the one in force at t (R264). -/
def gateClose (seg : Nat → Nat × Nat) (c : Nat) : Nat → Nat → Nat
  | 0, t => let g := seg t; if bitOf g.1 c then g.2 else t
  | n + 1, t => let g := seg t; if bitOf g.1 c then gateClose seg c n g.2 else t

/-- The instants at which that search looks. -/
def gateTimes (seg : Nat → Nat × Nat) (c : Nat) : Nat → Nat → List Nat
  | 0, t => [t]
  | n + 1, t => let g := seg t; if bitOf g.1 c then t :: gateTimes seg c n g.2 else [t]

/-- `LEAD_MIN_NS` and `LEAD_MAX_NS` of an octet mode and FEC code (R265, R63); 0 for an octet that is off. -/
def leadOf (mode fec : Nat) : Nat × Nat :=
  match modeSpeed mode with
  | 0 => (0, 0)
  | 200 => (57, 70)
  | 100 => if mode = 11 then (60, 112) else (58, 84)
  | 50 => (62, 166)
  | 25 => if fec = 1 then (58, 66) else (64, 250)
  | 10 => (60, 80)
  | _ => (56, 62)

/-- The FEC code in force in a port's octet. -/
def State.octFec (s : State) (port : Nat) : Nat := AMap.getD s.ports.octFec (port / 8) 0

/-- The lead times of a port. -/
def State.lead (s : State) (port : Nat) : Nat × Nat := leadOf (s.octMode port) (s.octFec port)

/-- The bytes of a copy's wire time under R264, from its length when known. -/
def State.guardBytes (s : State) (port : Nat) (lf : Option Nat) : Nat :=
  let mx := s.prt fPRT_CFG_MAX_FRAME port
  (match lf with | some l => min (l + 64) mx | none => mx) + 20 + (if s.prt fPRT_FC_CFG_MODE port ≠ 0 then 84 else 0)

/-- The guard-band test of R264 for a head copy of class c on a front-panel port. -/
def State.guardPass (s : State) (port c : Nat) (lf : Option Nat) : Bool :=
  let p := port / 32
  let k := port % 32
  if !s.on fHAR_GATE_CFG_EN p k then true
  else
    let l := s.lead port
    let t0 := s.tim.ct + ns l.1
    let seg := s.gateSeg p k
    let extra := match lf with | some _ => 0 | none => ns (s.rd fHAR_GATE_CFG_MARGIN_NS p k)
    bitOf (seg t0).1 c &&
      decide ((s.tim.ct + ns l.2 + extra) * s.portSpeed port + s.guardBytes port lf * 8 * nsU ≤ gateClose seg c 16 t0 * s.portSpeed port)

/-- The cadence entries that the guard-band test reads. -/
def State.guardRead (s : State) (port c : Nat) : State :=
  let p := port / 32
  let k := port % 32
  if s.on fHAR_GATE_CFG_EN p k then s.cadRead p k (gateTimes (s.gateSeg p k) c 16 (s.tim.ct + ns (s.lead port).1)) else s

/-- The instants at which the entries of the active bank begin in its second cycle. -/
def State.cadStarts (s : State) (p k bank : Nat) : List Nat :=
  let base := s.cadBase p k bank + ns (s.rd fHAR_CAD_CYCLE_CYCLE_NS p k bank)
  let r := (List.range (s.rd fHAR_CAD_LEN_LEN p k bank)).foldl
    (fun (a : List Nat × Nat) i => (a.1 ++ [a.2], a.2 + ns (entF (s.ent 0x2F p (cadIndex k bank i)) 0 29 0))) ([], base)
  r.1

/-- The longest window of a class in the active bank (R266); 0 when it has no open interval. -/
def State.longest (s : State) (port c : Nat) : Nat :=
  let p := port / 32
  let k := port % 32
  let b := s.rd fHAR_GATE_CFG_ACTIVE p k
  ((s.cadStarts p k b).map fun t => gateClose (s.cadSeg p k b) c 16 t - t).foldl max 0

/-- Whether a length cannot fit in a class's longest window (R266). -/
def State.overlong (s : State) (port c : Nat) (lf : Option Nat) : Bool :=
  let l := s.lead port
  decide (s.longest port c * s.portSpeed port < s.guardBytes port lf * 8 * nsU + ns (l.2 - l.1) * s.portSpeed port)

/-- Whether a head copy is dropped under GATE_TOO_LONG (R266). -/
def State.tooLong (s : State) (port c : Nat) (lf : Option Nat) : Bool :=
  s.on fHAR_GATE_CFG_EN (port / 32) (port % 32) && lf.isSome && decide (0 < s.longest port c) && s.overlong port c lf

/-- `HAR_GATE_STAT` of a port, as read (R265, R266). -/
def State.gateStat (s : State) (port : Nat) : Nat :=
  let l := s.lead port
  let tl := if s.on fHAR_GATE_CFG_EN (port / 32) (port % 32) then
      ((List.range 8).map fun c => if s.overlong port c none then 2 ^ c else 0).sum
    else 0
  tl * 2 ^ 24 + l.2 * 2 ^ 8 + l.1

/-- The gates of a port's MAC follow course time (R262). -/
def State.gateRefresh (s : State) (port : Nat) : State :=
  let s := if s.on fHAR_GATE_CFG_EN (port / 32) (port % 32) then s.cadRead (port / 32) (port % 32) [s.tim.ct] else s
  { s with ports := { s.ports with gates := AMap.set s.ports.gates port (s.gatesAt port s.tim.ct) } }

/-- A CADENCE trigger fires: every port with `SWAP_ARMED` swaps its banks (R263). -/
def State.cadenceFire (s : State) : State :=
  (List.range 256).foldl (fun s port =>
    let p := port / 32
    let k := port % 32
    if s.on fHAR_GATE_CFG_SWAP_ARMED p k then
      ((s.wr fHAR_GATE_CFG_ACTIVE (1 - s.rd fHAR_GATE_CFG_ACTIVE p k) p k).wr fHAR_GATE_CFG_SWAP_ARMED 0 p k).addWrap
        fHAR_GATE_SWAPS_SWAPS 1 p k
    else s) s

/-- GATE_TRANSITION (R262): the port's class gates change at the MAC. -/
def execGateTransition (port : Nat) (s : State) : Out := .next (s.gateRefresh port)

end Sys2Proof.Machine
end

