-- ==== Sys2Proof/Machine/Ration.lean ====
section
/-! DEFINITION. Ration (R274 to R286): deferral and work at a selection, power samples, the allowance of the next period with the
thermal scales, its load, and the failure of the power monitors. -/
namespace Sys2Proof.Machine

/-! ### Deferral and work (R276, R279, R280) -/

/-- The remaining count R_p of a pipeline (R279). No value is stated before the first load: 0 (DESIGN CHOICE, assumption log 8). -/
def State.ratRemain (s : State) (p : Nat) : Int := AMap.getD s.rat.remain p 0

/-- The threshold of a kind: 0 yielders, 1 to 3 the classes D1 to D3 (R280), as `RAT_SHED` stood at the last load (R393). -/
def State.ratThreshold (s : State) (kind : Nat) : Nat :=
  let f := match kind with
    | 0 => fRAT_SHED_YIELD
    | 1 => fRAT_SHED_D1
    | 2 => fRAT_SHED_D2
    | _ => fRAT_SHED_D3
  bitsOf s.rat.shed f.hi f.lo

/-- Whether a kind is deferred in a pipeline now (R280); kind 4 is G, never deferred. -/
def State.ratDefers (s : State) (p kind : Nat) : Bool :=
  s.on fRAT_CFG_EN && decide (kind < 4) &&
    decide (s.ratRemain p * 256 ≤ ((s.ratThreshold kind * s.rd fRAT_PIPE_ALLOW_ALLOW 0 p : Nat) : Int))

/-- The kind of a service: those of the recirculation port are yielders, the others go by their `RCLASS` (R280). -/
def ratKind (recirc : Bool) (rclass : Nat) : Nat := if recirc then 0 else if rclass = 0 then 4 else rclass

/-- The work of a copy of an estimated length (R276). -/
def State.ratWork (s : State) (len : Nat) : Nat := s.rd fRAT_WORK_A + s.rd fRAT_WORK_B * ((len + 63) / 64)

/-- A kind is deferred in a pipeline: noted for the period (R286). -/
def State.ratKindNote (s : State) (p kind : Nat) : State :=
  let ks := AMap.getD s.rat.kinds p []
  if kind ∈ ks then s else { s with rat := { s.rat with kinds := AMap.set s.rat.kinds p (kind :: ks) } }

/-- A candidate is deferred: its kind and, once, the work of its head copy are noted for the period (R278, R286). A copy is known by its
slip with its frame's ingress running count and pass, so that a slip used again is another copy. -/
def State.ratNote (s : State) (p kind : Nat) (copy : Nat × Nat × Bool) (work : Nat) : State :=
  let ds := AMap.getD s.rat.deferred p []
  let s := s.ratKindNote p kind
  let s := { s with rat := { s.rat with
    deferred := AMap.set s.rat.deferred p (if ds.any (·.1 == copy) then ds else (copy, work) :: ds) } }
  s.blk p (320 + 8)

/-- A selection's work is subtracted and counted (R279, R286). -/
def State.ratSpend (s : State) (p work : Nat) (g : Bool) : State :=
  let r := s.ratRemain p
  let s := { s with rat := { s.rat with
    remain := AMap.set s.rat.remain p (max (-(2 ^ 31 : Int)) (r - work)),
    work := AMap.adjust s.rat.work p 0 (· + work),
    gWork := if g then AMap.adjust s.rat.gWork p 0 (· + work) else s.rat.gWork } }
  let s := s.blk p (320 + 1) work
  if g then (if r ≤ 0 then (s.blk p (320 + 2) work).blk p (320 + 3) work else s.blk p (320 + 2) work) else s

/-! ### The period (R274 to R284) -/

/-- The length of a period on the running count. -/
def ratPeriod : Nat := ns 10000

/-- One sample of every rail's power in mW (R274), due once per 1 µs. -/
def State.powerSample (s : State) (rails : List Nat) : State :=
  if s.tim.rc < s.rat.sampleAt + ns 1000 then s
  else { s with rat := { s.rat with sum := s.rat.sum + rails.sum, samples := s.rat.samples + 1, sampleAt := s.rat.sampleAt + ns 1000 } }

/-- The power of the period that ends, in mW: the mean of its samples, or the last period's where there was none. -/
def State.ratPower (s : State) : Nat :=
  if s.rat.samples = 0 then s.rd fRAT_POWER_LAST * 125 else s.rat.sum / s.rat.samples

/-- The cap C in W (R275). -/
def State.ratCap (s : State) : Nat := min (s.rd fRAT_CAP_HOST_CAP_W) (s.rd fRAT_CAP_BOARD_CAP_W)

/-- Work of all pipelines in the period. -/
def State.ratW (s : State) : Nat := (s.rat.work.map (·.2)).sum

/-- The chip allowance (R277, R284). A fraction is rounded down, as the example of R284 has it. -/
def State.ratA (s : State) (mw : Nat) : Nat :=
  if s.rat.failed then
    (if s.rat.good.isEmpty then 0 else s.rd fRAT_LOOP_FAIL_ALLOW * s.rat.good.sum / (256 * s.rat.good.length))
  else
    let err : Int := (s.ratCap : Int) * 1000 - (s.rd fRAT_LOOP_MARGIN_W : Nat) * 1000 - mw
    let a : Int := (s.ratW : Int) + (s.rd fRAT_LOOP_GAIN : Nat) * err * 10000 / (16 * (s.rd fRAT_LOOP_E_PJ : Nat))
    (min (2 ^ 32 - 1) (max 0 a)).toNat

/-- The thermal scale of a pipeline times 256, from its hottest valid reading in quarter degrees (R281). -/
def State.ratScale (s : State) : Option Int → Nat
  | none => 0
  | some t =>
    let soft : Int := 4 * (s.rd fRAT_THERM_T_SOFT : Nat)
    let hard : Int := 4 * (s.rd fRAT_THERM_T_HARD : Nat)
    if t ≤ soft then 256 else if hard ≤ t then 0 else (256 * (hard - t) / (hard - soft)).toNat

/-- A reading that lies from −40 to +150 °C, in quarter degrees (R281). -/
def tempOk (t : Int) : Bool := decide (-160 ≤ t) && decide (t ≤ 600)

/-- An 11-bit signed field. -/
def to11 (t : Int) : Nat := (t % 2048).toNat

/-- Stores one sensor reading (R281). -/
def State.ratSensor (s : State) (i : Nat) (t : Int) : State :=
  let s := (s.wr fRAT_SENSOR_VALID (b2n (tempOk t)) 0 i).wr fRAT_SENSOR_TEMP (to11 t) 0 i
  if tempOk t then s else s.raise .RAT_SENSOR (i / 8) i

/-- The valid readings of a pipeline. -/
def pipeTemps (temps : List Int) (p : Nat) : List Int := ((temps.drop (8 * p)).take 8).filter tempOk

/-- The hottest of a list of readings. -/
def hottest (l : List Int) : Option Int := l.foldl (fun m t => match m with | some x => some (max x t) | none => some t) none

/-- Reads the sensors of a pipeline: its temperature and scale, and the level source RAT_TCRIT (R281, R285). -/
def State.ratPipe (s : State) (temps : List Int) (p : Nat) : State :=
  let hot := hottest (pipeTemps temps p)
  let sc := s.ratScale hot
  let s := s.wr fRAT_PIPE_STAT_SCALE sc 0 p
  let s := match hot with | some t => s.wr fRAT_PIPE_STAT_HOT (to11 t) 0 p | none => s
  let s := if sc < 256 then s.blk p (320 + 9) else s
  let crit := (pipeTemps temps p).any fun t => decide (4 * (s.rd fRAT_THERM_T_CRIT : Nat) < t)
  if crit then s.levelOn .RAT_TCRIT p else s.levelOff .RAT_TCRIT p

/-- Demand of a pipeline (R278). -/
def State.ratDemand (s : State) (p : Nat) : Nat :=
  AMap.getD s.rat.work p 0 + ((AMap.getD s.rat.deferred p []).map (·.2)).sum

/-- The allowance of a pipeline (R278). -/
def State.ratShare (s : State) (a p : Nat) : Nat :=
  let tot := ((List.range 8).map s.ratDemand).sum
  let sc := s.rd fRAT_PIPE_STAT_SCALE 0 p
  if tot = 0 then sc * a / 2048 else sc * a * s.ratDemand p / (256 * tot)

/-- The condition of R282 for one period: every pipeline deferred every kind but G, and the power less the energy of the work of the other
kinds, at `E_PJ` per unit, is above the cap, so that G alone holds it there (DEDUCED, assumption log 43). A kind is deferred where R_p was at
or below its threshold, whether or not one of its copies waited. -/
def State.ratOver (s : State) (mw : Nat) : Bool :=
  let other := s.ratW - (s.rat.gWork.map (·.2)).sum
  decide (s.ratCap * 1000 * 10000 + other * s.rd fRAT_LOOP_E_PJ < mw * 10000) &&
    (List.range 8).all fun p => (List.range 4).all fun k => k ∈ AMap.getD s.rat.kinds p [] || s.ratDefers p k

/-- The end of a 10 µs period with the 64 sensor readings (R274 to R284): the power and temperatures, R282, and the allowances that
wait for their load. -/
def State.ratEnd (s : State) (temps : List Int) : State :=
  if s.tim.rc < s.rat.endAt + ratPeriod then s
  else
    let mw := s.ratPower
    let last := min 8191 (mw * 8 / 1000)
    let s := s.wr fRAT_POWER_LAST last
    let s := if s.rd fRAT_POWER_PEAK < last then s.wr fRAT_POWER_PEAK last else s
    let s := (temps.take 64).zipIdx.foldl (fun s t => s.ratSensor t.2 t.1) s
    let s := (List.range 8).foldl (fun s p => s.ratPipe temps p) s
    let a := s.ratA mw
    let shares := (List.range 8).map fun p => s.ratShare a p
    let over_ := if s.ratOver mw then s.rat.overRun + 1 else 0
    let is := decide (s.rd fRAT_OVER_PERIODS ≤ over_)
    let s := s.wr fRAT_OVER_OVER (b2n is)
    let s := if is then s.levelOn .RAT_OVER_CAP else s.levelOff .RAT_OVER_CAP
    let s := (List.range 8).foldl (fun s p =>
      (List.range 4).foldl (fun s k => if k ∈ AMap.getD s.rat.kinds p [] then s.blk p (320 + 4 + k) else s) s) s
    let w := s.ratW
    { s with rat := { s.rat with
        sum := 0, samples := 0, endAt := s.rat.endAt + ratPeriod, work := [], gWork := [], deferred := [], kinds := [],
        next := some (s.rat.endAt + ratPeriod + ns 1000, shares),
        good := if s.rat.failed then s.rat.good else (w :: s.rat.good).take 16, overRun := over_ } }

/-- All Harnesses load their allowances, 1 µs after the period's end (R279), and a change of the thresholds takes effect (R393). -/
def State.ratLoad (s : State) : State :=
  match s.rat.next with
  | none => s
  | some (t, shares) =>
    if s.tim.rc < t then s
    else
      let s := shares.zipIdx.foldl (fun s a => (s.wr fRAT_PIPE_ALLOW_ALLOW a.1 0 a.2).blk a.2 320 a.1) s
      { s with rat := { s.rat with next := none, remain := shares.zipIdx.map fun a => (a.2, (a.1 : Int)), shed := (s.rg .RAT_SHED).toNat } }

/-! ### Commands -/

/-- POWER_SAMPLE (R274): the power of every core and SerDes rail in mW. -/
def execPowerSample (rails : List Nat) (s : State) : Out := .next (s.powerSample rails)

/-- RATION_PERIOD_END (R277) with the 64 junction temperatures in units of 0.25 °C. -/
def execRationPeriodEnd (temps : List Int) (s : State) : Out := .next (s.ratEnd temps)

/-- ALLOWANCE_LOAD (R279). -/
def execAllowanceLoad (s : State) : Out := .next s.ratLoad

/-- MONITOR_FAIL (R284). -/
def execMonitorFail (s : State) : Out :=
  .next (({ s with rat := { s.rat with failed := true } }).levelOn .RAT_MON_FAIL)

/-- MONITOR_RECOVER (R284). -/
def execMonitorRecover (s : State) : Out :=
  .next (({ s with rat := { s.rat with failed := false } }).levelOff .RAT_MON_FAIL)

end Sys2Proof.Machine
end

