-- ==== Sys2Proof/Machine/Harness.lean ====
section
/-! DEFINITION. The Harness (R245 to R272): nodes, curbs, DWRR rounds, candidates and selection; queues as linked lists with their
check codes (R228, R243); and the link unit (R232). -/
namespace Sys2Proof.Machine

/-! ### Stable memories that a copy reads (R228, R243, R244) -/

/-- The check codes of a copy's slip, and of its frame record and stall (R243). -/
def State.slipMark (s : State) (x : Slip) : Option Bool := s.marked 0x1B 15 0 x.id
def State.stallMarks (s : State) (x : Slip) : List (Option Bool) :=
  [s.marked 0x19 15 0 (s.stallNo x.pool x.stall), s.marked 0x1A 15 0 (s.stallNo x.pool x.stall)]

/-- Whether a copy has an uncorrectable stall, frame record or slip word (R243). -/
def State.stbLost (s : State) (x : Slip) : Bool := s.slipMark x == some true || (s.stallMarks x).any (· == some true)

/-- An uncorrectable word of a copy is recorded and raises STB_ECC_UNCORR in the copy's pipeline (R243). -/
def State.stbFault (s : State) (x : Slip) (p : Nat) : State :=
  let s := if s.slipMark x == some true then s.stbErr 3 0 p x.id else s.stbErr 2 x.pool p x.stall
  s.raise .STB_ECC_UNCORR p (s.stallNo x.pool x.stall)

/-- Reads a copy's slip, frame record and stall with their check codes: a correctable error only counts; an uncorrectable one loses the
copy (false). -/
def State.stbRead (s : State) (x : Slip) (p : Nat) : State × Bool :=
  if s.stbLost x then (s.stbFault x p, false)
  else if s.slipMark x == some false || (s.stallMarks x).any (· == some false) then (s.raise .STB_ECC_CORR 0 (s.stallNo x.pool x.stall), true)
  else (s, true)

/-- Whether both copies of a slip's `NEXT_SLIP` are uncorrectable. -/
def State.nextLost (s : State) (id : Nat) : Bool := s.marked 0x1C 15 0 id == some true && s.marked 0x1D 15 0 id == some true

/-- Reads a `NEXT_SLIP` of which one copy is good at least: an error in either copy counts as corrected (R228). -/
def State.nextRead (s : State) (id : Nat) : State :=
  if (s.marked 0x1C 15 0 id).isSome || (s.marked 0x1D 15 0 id).isSome then s.raise .STB_ECC_CORR 0 id else s

/-- A queue's list breaks at the lost `NEXT_SLIP` of a slip: what stands before the break is left, the slips beyond it stay out of use until
warm reset (R228, R244). -/
def State.breakQueue (s : State) (q port id : Nat) (left : List Nat) : State :=
  let s := (s.setQueue q left).stbErr 4 0 (if q < 65536 then q / 8192 else 0) id
  let s := { s with fwd := { s.fwd with broken := q :: s.fwd.broken } }
  if port < 256 then s.levelOn .STB_LIST_BROKEN port else s

/-- Takes a slip out of a queue: the `NEXT_SLIP` of every slip before it is read on the way, its own gives the rest of the list, and that of the
slip before it is rewritten (R228). The Bool says that it was reached: a break before it leaves it beyond the break. -/
def State.takeQueue (s : State) (q port id : Nat) : State × Bool :=
  let l := s.queue q
  let pre := l.takeWhile (· != id)
  let rest := (l.dropWhile (· != id)).drop 1
  match pre.find? s.nextLost with
  | some y => (s.breakQueue q port y (l.takeWhile (· != y) ++ [y]), false)
  | none =>
    let s := pre.foldl (fun s y => s.nextRead y) s
    if rest.isEmpty then (s.setQueue q pre, true)
    else if s.nextLost id then (s.breakQueue q port id pre, true)
    else
      let s := s.nextRead id
      let s := match pre.getLast? with | some t => (s.wroteWord 0x1C 15 t).wroteWord 0x1D 15 t | none => s
      (s.setQueue q (pre ++ rest), true)

/-- Removes the head of a queue. -/
def State.popQueue (s : State) (q port : Nat) : State :=
  match s.queue q with
  | [] => s
  | id :: _ => (s.takeQueue q port id).1

/-! ### The link unit (R232) -/

/-- The head of an egress pipeline's link FIFO is linked to its queue, or dropped for a port that now refuses it. -/
def State.linkOne (s : State) (p : Nat) : State :=
  match s.link p with
  | [] => s
  | id :: t =>
    let s := s.setLink p t
    match s.slip? id with
    | none => s
    | some x =>
      match s.stateRefusal x.outPort with
      | some code => s.dropCopy x code (some x.svc)
      | none =>
        if s.stormed x.outPort x.cls then (s.dropCopy x 0x83 (some x.svc))
        else ((s.linkTo x.svc id).count 6 x.svc 0 1).blk p (256 + 13)

/-- Links n slips. -/
def State.linkN (s : State) (p : Nat) : Nat → State
  | 0 => s
  | n + 1 => (s.linkOne p).linkN p n

/-- SLIP_LINK (R232): one CCLK cycle of a link unit, up to 48 slips in admission order. -/
def execSlipLink (p : Nat) (s : State) : Out := .next (s.linkN p 48)

/-! ### Curbs (R253) -/

/-- A curb of a node entry: its rate, burst and whether it is enabled; the peak curb or the committed one (R247). -/
def curbOf (e : List Word) (peak : Bool) : Nat × Nat × Bool :=
  if peak then (entF e 1 31 0 + entF e 2 9 0 * 2 ^ 32, entF e 5 23 0, entB e 2 10)
  else (entF e 3 31 0 + entF e 4 9 0 * 2 ^ 32, entF e 6 23 0, entB e 2 11)

/-- The bucket of a curb now, refilled from the running count up to its burst. -/
def State.curbNow (s : State) (t p i : Nat) (peak : Bool) : Int :=
  let c := curbOf (s.ent t p i) peak
  let cap : Int := ((c.2.1 * byteU : Nat) : Int)
  match AMap.get? s.fwd.curbs (t, p, i, peak) with
  | none => cap
  | some (v, rc) => min cap (v + ((c.1 * (s.tim.rc - rc) : Nat) : Int))

/-- Whether a curb is satisfied: disabled, or holding more than 0 bytes. -/
def State.curbOk (s : State) (t p i : Nat) (peak : Bool) : Bool :=
  !(curbOf (s.ent t p i) peak).2.2 || decide (0 < s.curbNow t p i peak)

/-- The state with a curb's bucket set. -/
def State.setCurb (s : State) (t p i : Nat) (peak : Bool) (v : Int) : State :=
  { s with fwd := { s.fwd with curbs := AMap.set s.fwd.curbs (t, p, i, peak) (v, s.tim.rc) } }

/-- Reads a node's token and deficit state (R270): uncorrectable, its buckets are full again and its deficits one quantum. -/
def State.tokenRead (s : State) (t p i : Nat) : State :=
  let r := s.tokenCheck t p i
  if !r.2 then r.1
  else
    let full := fun (peak : Bool) => (((curbOf (s.ent t p i) peak).2.1 * byteU : Nat) : Int)
    let q : Int := ((entF (s.ent t p i) 0 31 16 * 64 : Nat) : Int)
    let s := (r.1.setCurb t p i true (full true)).setCurb t p i false (full false)
    { s with fwd := { s.fwd with rounds := s.fwd.rounds.map fun x =>
      if t ≠ 0x2B ∧ x.1.1 = p ∧ x.1.2.1 = (t == 0x29) then (x.1, x.2.map fun m => if m.1 = i then (i, q) else m) else x } }

/-- Charges both curbs of a node, or gives bytes back (a negative charge). -/
def State.chargeNode (s : State) (t p i : Nat) (bytes : Int) : State :=
  let one := fun (s : State) (peak : Bool) => s.setCurb t p i peak (s.curbNow t p i peak - bytes * (byteU : Nat))
  one (one (s.tokenRead t p i) true) false

/-- The subscriber of a service, and the local port of a subscriber (R247). -/
def State.parentOf (s : State) (p sv : Nat) : Nat := entF (s.ent 0x29 p sv) 0 10 0
def State.subPort (s : State) (p u : Nat) : Nat := entF (s.ent 0x2A p u) 0 5 0

/-- Charges every curb of a service's path. -/
def State.chargePath (s : State) (p sv k : Nat) (bytes : Int) : State :=
  ((s.chargeNode 0x29 p sv bytes).chargeNode 0x2A p (s.parentOf p sv) bytes).chargeNode 0x2B p k bytes

/-- The correction of a copy's charge once it has left (R253): the estimate less the bytes transmitted, 0 for a dropped copy. -/
def State.correct (s : State) (x : Slip) (svc est actual : Nat) : State :=
  if x.outPort < 264 then s.chargePath (egPipe x.outPort) (svc % 8192) (egLocal x.outPort) ((actual : Int) - est) else s

/-- The overhead of every curb under a port (R247, R255). -/
def State.portOvh (s : State) (p k : Nat) : Int := s.overhead p (entF (s.ent 0x2B p k) 0 1 0)

/-! ### DWRR (R252) -/

/-- A round brought to its eligible members: those that stay keep their place and deficit, the others join at the tail with a quantum. -/
def roundOf (old : List (Nat × Int)) (elig : List Nat) (quantum : Nat → Int) : List (Nat × Int) :=
  let stay := old.filter fun m => m.1 ∈ elig
  stay ++ (elig.filter fun m => !stay.any (·.1 == m)).map fun m => (m, quantum m)

/-- The round after its head was picked and charged. -/
def roundCharge (r : List (Nat × Int)) (bytes : Nat) (quantum : Nat → Int) : List (Nat × Int) :=
  match r with
  | [] => []
  | (m, d) :: t => let d' := d - bytes; if d' ≤ 0 then t ++ [(m, d' + quantum m)] else (m, d') :: t

/-- The quantum of a node: `WEIGHT` × 64 bytes. -/
def State.quantum (s : State) (t p i : Nat) : Int := ((entF (s.ent t p i) 0 31 16 * 64 : Nat) : Int)

/-! ### Candidates (R251) -/

/-- Inserts a number into an ascending list. -/
def insertNat (n : Nat) : List Nat → List Nat
  | [] => [n]
  | a :: t => if n ≤ a then n :: a :: t else a :: insertNat n t

/-- A list in ascending order. -/
def sortNat (l : List Nat) : List Nat := l.foldr insertNat []

/-- The services of a port that hold a copy, in ascending order. -/
def State.busyServices (s : State) (p k : Nat) : List Nat :=
  sortNat ((s.fwd.queues.filter fun q => decide (q.1 / 8192 = p) && !q.2.isEmpty && s.subPort p (s.parentOf p (q.1 % 8192)) == k).map
    fun q => q.1 % 8192)

/-- Whether a class of a front-panel port is paused (R77): the priorities held, mapped to classes by the port's mode. -/
def State.pausedClass (s : State) (port cls : Nat) : Bool :=
  decide (port < 256) && s.ports.pause.any fun x => x.1.1 == port &&
    match s.prt fPRT_FC_CFG_MODE port with
    | 1 => x.1.2 == cls
    | 2 => bitsOf (s.prt fPRT_PRIO_MAP_MAP port) (3 * x.1.2 + 2) (3 * x.1.2) == cls
    | _ => false

/-- A candidate: its service, subscriber, head slip, level, whether its band is committed, its kind for Ration and its estimate. -/
structure Cand where
  sv : Nat
  sub : Nat
  slip : Slip
  prio : Nat
  committed : Bool
  kind : Nat
  est : Nat
  deriving DecidableEq, Repr

/-- Whether a node's entry can be read (R270). -/
def State.nodeOk (s : State) (t p i : Nat) : Bool := s.marked 0x1F p 0 (nodeNo t i) != some true

/-- Evaluates the head copy of a service (R251): the state with its guard-band hold or deferral counted, and the candidate. -/
def State.candidate (s : State) (p k sv : Nat) : State × Option Cand :=
  let port := if k < 32 then 32 * p + k else 256 + p
  let u := s.parentOf p sv
  let rd := ((((s.harRead 0x29 p sv).1).harRead 0x2A p u).1.harRead 0x2B p k).1
  let e := s.ent 0x29 p sv
  match (s.queue (p * 8192 + sv)).head?.bind s.slip? with
  | none => (s, none)
  | some x => match s.frameOf x with
    | none => (s, none)
    | some st =>
      if !(s.nodeOk 0x29 p sv && s.nodeOk 0x2A p u && s.nodeOk 0x2B p k) then (rd, none)
      else if !entB e 0 14 || !(x.ct || st.done) || s.pausedClass port x.cls || s.stormed port x.cls then (rd, none)
      else
        let rd := if k < 32 then rd.guardRead port x.cls else rd
        if k < 32 ∧ !s.guardPass port x.cls st.lf then (rd.blk p (288 + 4), none)
        else
          let tk := ((rd.tokenRead 0x29 p sv).tokenRead 0x2A p u).tokenRead 0x2B p k
          let kind := ratKind (k == 32) (entF e 2 13 12)
          if !(tk.curbOk 0x29 p sv true && tk.curbOk 0x2A p u true && tk.curbOk 0x2B p k true) then (tk, none)
          else if s.ratDefers p kind then (tk.ratNote p kind (x.id, st.rc, st.pass) (s.ratWork st.len), none)
          else (tk, some ⟨sv, u, x, entF e 0 13 11,
            tk.curbOk 0x29 p sv false && tk.curbOk 0x2A p u false && tk.curbOk 0x2B p k false, kind, st.len⟩)

/-- Evaluates the services of a list. -/
def State.candidates (s : State) (p k : Nat) : List Nat → State × List Cand
  | [] => (s, [])
  | sv :: t =>
    let a := s.candidate p k sv
    let b := a.1.candidates p k t
    (b.1, (match a.2 with | some c => [c] | none => []) ++ b.2)

/-! ### Selection (R250, R251) -/

/-- Drops the head copies that can never fit in their class's windows (R266). -/
def State.dropTooLong (s : State) (p k : Nat) (svs : List Nat) : State :=
  let port := 32 * p + k
  svs.foldl (fun s sv =>
    let q := p * 8192 + sv
    match (s.queue q).head?.bind s.slip? with
    | none => s
    | some x => match s.frameOf x with
      | none => s
      | some st =>
        if s.tooLong port x.cls st.lf then
          (((s.popQueue q port).raise .HAR_GATE_TOO_LONG p port).blk p (288 + 5)).dropCopy x 0xA2 (some q)
        else s) s

/-- Whether a port's transmitter can take a selection: a front-panel port is UP with nothing selected and waiting (R250), the
recirculation port has an egress slot and its pipeline is not in the safe state (R404). -/
def State.canSelect (s : State) (p k : Nat) : Bool :=
  let port := if k < 32 then 32 * p + k else 256 + p
  let sel := AMap.getD s.fwd.sel p []
  !(sel.any fun c => c.slip.outPort == port) &&
    (if k < 32 then s.portState port == psUP && (AMap.getD s.ports.txWait port []).isEmpty else decide (sel.length < 6) && !s.pipeSafe p)

/-- Whether the loop FIFO has room for a candidate of the recirculation port (R196). -/
def State.loopRoom (s : State) (p : Nat) (c : Cand) : Bool := decide (s.loopUsed p + c.est ≤ 65536)

/-- The copy a selection hands to its egress half. -/
def Cand.copy (c : Cand) (q : Nat) : EgCopy :=
  { slip := c.slip, svc := q, est := c.est, hdr := [], hlen := 0, marks := ⟨none, none, none⟩, kv := [], capture := false,
    turned := false, cont := none, unk := false, late := false, flow := none, ct := 0, rc := 0 }

/-- Selects a candidate: its queue, curbs, DWRR rounds, Ration work and counters (R251 to R253, R276). `r1` and `r2` are the rounds of
subscribers and of services it was picked from. -/
def State.selectCopy (s : State) (p k : Nat) (c : Cand) (r1 r2 : List (Nat × Int)) : State :=
  let q := p * 8192 + c.sv
  let b := charged c.est (s.portOvh p k)
  let s := s.popQueue q (if k < 32 then 32 * p + k else 256 + p)
  let s := { s with fwd := { s.fwd with
    sel := AMap.set s.fwd.sel p (AMap.getD s.fwd.sel p [] ++ [c.copy q]),
    rounds := AMap.set (AMap.set s.fwd.rounds (p, false, k, c.committed, c.prio) (roundCharge r1 b (s.quantum 0x2A p)))
      (p, true, c.sub, c.committed, c.prio) (roundCharge r2 b (s.quantum 0x29 p)) } }
  let s := s.chargePath p c.sv k b
  let s := ((s.blk p 288).blk p (288 + 1) b).blk p (288 + (if c.committed then 2 else 3))
  s.ratSpend p (s.ratWork c.est) (c.kind == 4)

/-- The drop code a copy meets at its selection, if any: an expired edition (R214) or a frame that ended bad (R233). -/
def State.selectDrop (s : State) (x : Slip) : Option Nat :=
  match s.frameOf x with
  | some st => if s.edState st.ed = 5 then some 0x98 else if st.bad then some st.reason else none
  | none => none

/-- One selection of a port (R251): the state after one CCLK cycle of its Harness. -/
def State.harness (s : State) (p k : Nat) : State :=
  if !s.canSelect p k then s
  else
    let s := if k < 32 then s.dropTooLong p k (s.busyServices p k) else s
    let r := s.candidates p k (s.busyServices p k)
    let s := r.1
    let cs := if k < 32 then r.2 else r.2.filter (s.loopRoom p)
    if cs.isEmpty then s
    else
      let band := cs.any (·.committed)
      let cs := cs.filter (·.committed == band)
      let l := (cs.map (·.prio)).foldl max 0
      let cs := cs.filter (·.prio == l)
      let r1 := roundOf (AMap.getD s.fwd.rounds (p, false, k, band, l) []) (sortNat (cs.map (·.sub)).eraseDups) (s.quantum 0x2A p)
      let u := (r1.head?.map (·.1)).getD 0
      let mine := cs.filter (·.sub == u)
      let r2 := roundOf (AMap.getD s.fwd.rounds (p, true, u, band, l) []) (mine.map (·.sv)) (s.quantum 0x29 p)
      let sv := (r2.head?.map (·.1)).getD 0
      match mine.find? (·.sv == sv) with
      | none => s
      | some c =>
        let port := if k < 32 then 32 * p + k else 256 + p
        let q := p * 8192 + sv
        match s.selectDrop c.slip with
        | some code =>
          let ip := match s.frameOf c.slip with | some st => st.ingPipe | none => p
          let s := if code = 0x98 then s.blk p (352 + 2) else if code = 0x42 then s.blk ip (256 + 10) else s
          (s.popQueue q port).dropCopy c.slip code (some q)
        | none =>
          let m := s.stbRead c.slip p
          if m.2 then m.1.selectCopy p k c r1 r2
          else ((m.1.popQueue q port).blk p (256 + 19)).dropCopy c.slip 0x47 (some q)

/-- HARNESS_SELECT (R251) of a port from 0 to 263. -/
def execHarnessSelect (port : Nat) (s : State) : Out := .next (s.harness (egPipe port) (egLocal port))

end Sys2Proof.Machine
end

