-- ==== Sys2Proof/Machine/Egress.lean ====
section
/-! DEFINITION. The egress half (R17, R18 steps 8 and 9): extraction, the egress Catalogue with its reins, the Farrier, turns onto the
loop, and the copies handed to the MACs. -/
namespace Sys2Proof.Machine

/-- Drops a selected copy before it has left the Farrier: its charge is given back (R253) and it is released (R238). -/
def State.dropSel (s : State) (c : EgCopy) (code : Nat) : State :=
  (s.correct c.slip c.svc c.est 0).dropCopy c.slip code (some c.svc)

/-- A PARITY_MISS in the egress half (R174): the repair is opened and the copy goes to a host as a punt of reason 5, or is dropped by
the punt rein. That the copy itself becomes the punt is DEDUCED (assumption log 10). -/
def State.egParity (s : State) (p : Nat) (c : EgCopy) (len t i : Nat) : State :=
  let o := s.repairOpen t p i
  let m := o.1.meter 0x2E p 5 c.slip.colour len
  let s := m.1
  if m.2.2 then (s.blk p (288 + 16)).dropSel c 0x10
  else
    let s := match o.2 with | some tag => s.repairPunt tag p | none => s
    let x := c.slip
    let port := 264 + s.rd fHST_PUNT_MAP_HOST 0 5
    let cls := s.rd fHST_PUNT_MAP_CLASS 0 5
    let q := hostQueue port cls
    let s := ((s.correct x c.svc c.est 0).count 6 c.svc 3 1).count 6 q 0 1
    let s := (s.sub fSTB_EG_USED_USED x.units 0 (pc x.outPort x.cls)).addSat fSTB_EG_USED_USED x.units 0 (pc port cls)
    let s := s.putSlip { x with outPort := port, cls := cls, colour := m.2.1, punt := some 5, repair := o.2, svc := q, ct := false }
    s.linkTo q x.id

/-- A byte counter that waits for the length of a frame still being received (R288). -/
def State.rxLate (s : State) (st : Stall) (c : Nat × Nat × Nat × Nat × Nat) : State :=
  let upd := fun (x : RxFrame) =>
    if st.rxPort = some x.port ∧ x.fate = RxFate.stalled st.pool st.idx then { x with late := x.late ++ [c] } else x
  { s with fwd := { s.fwd with rx := s.fwd.rx.map upd } }

/-- Counts a copy in an egress rule counter: the frame now, its bytes L now or when L is known (R288). -/
def State.egRule (s : State) (p : Nat) (r : Option Nat) (st : Stall) : State :=
  match r with
  | none => s
  | some y =>
    if !rCntV y then s
    else
      let el := p * 4096 + rCnt y
      let s := s.count 9 el 0 1
      if st.done then s.count 9 el 1 st.len
      else s.rxLate st (9, el, 1, s.tim.ct, s.tim.rc)

/-- An egress rein of one shelf's result (R260): the state, the colour, and whether it refuses. -/
def State.egRein (s : State) (p : Nat) (r : Option Nat) (col len : Nat) : State × Nat × Bool :=
  match r with
  | none => (s, col, false)
  | some y =>
    if !rReinV y then (s, col, false)
    else
      let m := s.meter 0x2D p (rRein y) col len
      let s := m.1.blk p (288 + 12 + m.2.1)
      (if m.2.2 then s.blk p (288 + 15) else s, m.2.1, m.2.2)

/-- The Farrier entry of a search: that of the first shelf whose result has `FAR_V` (R165, R182). -/
def farOf (a b : Option Nat) : Option Nat :=
  let one := fun (x : Option Nat) => match x with
    | some y => if rAct y = 0 ∧ bitOf (rArg y) 0 then some (bitsOf (rArg y) 13 1) else none
    | none => none
  match one a with | some z => some z | none => one b

/-- The copies that wait for their first bit on a wire: a front-panel port or a loop (256 + p). -/
def State.addTx (s : State) (wire : Nat) (c : EgCopy) : State :=
  { s with ports := { s.ports with txWait := AMap.set s.ports.txWait wire (AMap.getD s.ports.txWait wire [] ++ [c]) } }

/-- The copy as its program left it. -/
def EgCopy.done (c : EgCopy) (g : Prog) (st : Stall) (kv : List Byte) (turned : Bool) (cont : Option Nat) : EgCopy :=
  { c with hdr := hdrBytes g.hdr, hlen := st.h0, unk := st.lf.isNone, kv := kv, capture := g.capture,
           marks := if turned then ⟨none, none, none⟩ else g.marks, turned := turned, cont := cont }

/-- What follows the Farrier (R195, R198, R200): the length limit, second passes, and the wire the copy goes to. -/
def State.afterFarrier (s : State) (p : Nat) (c : EgCopy) (st : Stall) (kv : List Byte) (g : Prog) (cont : Option Nat) : State :=
  let x := c.slip
  let front := decide (x.outPort < 256)
  let again := cont.isSome || g.recirc != 0
  let turns := front && again
  let lim := if front && !turns then s.prt fPRT_CFG_MAX_FRAME x.outPort else 9600
  let newLen := st.lf.map fun l => ((l : Int) + g.d).toNat
  if (match newLen with | some l => decide (lim < l) | none => false) then (s.blk p (224 + 11)).dropSel c 0x93
  else if st.pass && again then (s.blk p (224 + 7)).dropSel c 0x90
  else if turns then
    if !s.on fFAR_CFG_TURN_EN p then (s.blk p (224 + 7)).dropSel c 0x90
    else if 65536 < s.loopUsed p + newLen.getD 9664 then (s.blk p (224 + 6)).dropSel c 0x94
    else
      let s := s.blk p (224 + 3)
      let s := if cont.isSome then s.blk p (224 + 4) else s
      s.addTx (256 + p) (c.done g st kv true cont)
  else if front then (s.edDown st.ed).addTx x.outPort (c.done g st kv false none)
  else
    let s := if cont.isSome then s.blk p (224 + 4) else s
    s.addTx (256 + p) (c.done g st kv true cont)

/-- A copy after its search (R165, R260, R182): the action, the reins and the Farrier. -/
def State.egressActs (s : State) (p slot : Nat) (c : EgCopy) (st : Stall) (kv : List Byte) (a b : Option Nat) : State :=
  let x := c.slip
  match actOf a b with
  | some y => (s.blk p (192 + 10)).dropSel c (0xC0 + bitsOf (rArg y) 5 0)
  | none =>
    let m1 := s.egRein p a x.colour st.len
    if m1.2.2 then m1.1.dropSel c 0xA1
    else
      let m2 := m1.1.egRein p b m1.2.1 st.len
      if m2.2.2 then m2.1.dropSel c 0xA1
      else
        let f := m2.1.farrier p slot x st (farOf a b)
        match f.2 with
        | .drop code => f.1.dropSel c code
        | .ok g cont => f.1.afterFarrier p c st kv g cont

/-- A fence holds a copy whose search won a fenced row (R150, R174), in the fence queue of the pipeline. -/
def State.holdEg (s : State) (p : Nat) (tags : List Nat) (h : HeldEg) : State :=
  if s.fenceFull p then (s.blk p (160 + 18)).dropSel h.copy 0x23
  else { s with lrn := { s.lrn with heldEg := AMap.set s.lrn.heldEg p (s.heldEgOf p ++ [(tags, h)]) } }.blk p (160 + 16)

/-- A copy that a fence has released goes on, unless its edition expires (R214). -/
def State.unholdEg (s : State) (p slot : Nat) (h : HeldEg) : State :=
  match s.frameOf h.copy.slip with
  | none => s.release h.copy.slip p
  | some st =>
    if s.edState st.ed = 5 then (s.blk p (352 + 2)).dropSel h.copy 0x98
    else match h.lost with
      | some x => s.egParity p h.copy st.len x.1 x.2
      | none => s.egressActs p slot h.copy st h.kv h.a h.b

/-- A copy whose search is done (R150, R174): a fence on anything it read, or on a row that it won, holds it; its own repairs do not. `lost` is the
table and index of a winner that failed its parity. -/
def State.egressWon (s : State) (p slot : Nat) (h : HeldEg) (st : Stall) (reads : List (Nat × Nat)) : State :=
  let own := match h.lost with
    | some x => (s.lrn.repairs.filter fun r => r.table == x.1 && r.pipe == repPipe x.1 p && r.index == x.2).map (·.tag)
    | none => []
  let tags := s.fenceOver p (h.copy.slip.repair.toList ++ own) reads
  if tags.isEmpty then
    match h.lost with
    | some x => s.egParity p h.copy st.len x.1 x.2
    | none => s.egressActs p slot h.copy st h.kv h.a h.b
  else s.holdEg p tags h

/-- One copy through the egress stages (R102, R165, R260, R182). -/
def State.egressOne (s : State) (p slot : Nat) (c : EgCopy) : State :=
  let x := c.slip
  match s.frameOf x with
  | none => s.release x p
  | some st =>
    if x.skip then s.addTx (256 + p) { c with turned := true }
    else
      let rd := if x.direct then (s, true) else s.rdrRead p 1 (6 + slot) 12 0x02 st.layout
      if !rd.2 then ((rd.1.blk p 76).blk p 74).egParity p c st.len 0x02 st.layout
      else
        let s := rd.1
        let kv := s.egressKey p x st
        let pn := if x.direct then 0 else entF (s.ent 0x02 p st.layout) 35 8 5
        let q := s.catalogue true p slot pn (s.egressTag p x st) st.ed kv [] (fixedEg x st pn)
        let s := q.1
        let rules := fun (s : State) (a b : Option Nat) => (s.egRule p a st).egRule p b st
        let reads := fun (rows : List Nat) => (if x.direct then [] else [(0x02, st.layout)]) ++ [(0x19, pn)] ++ rows.map fun r => (0x1B, r)
        match q.2 with
        | .parity t i a b rows => ((rules s a b).blk p (192 + 15)).egressWon p slot ⟨c, kv, a, b, some (t, i)⟩ st (reads rows)
        | .ok a b rows => (rules s a b).egressWon p slot ⟨c, kv, a, b, none⟩ st (reads rows)

/-- Whether the egress half may take a copy: its length is known, or 196 bytes of it have arrived (R184). -/
def State.egReady (s : State) (c : EgCopy) : Bool :=
  match s.frameOf c.slip with
  | some st => st.lf.isSome || decide (196 ≤ st.bytes.length)
  | none => true

/-- Takes copies into the slots from `slot` on (R17): those that a fence has released first (R150). -/
def State.egSlots (s : State) (p slot : Nat) : Nat → State
  | 0 => s
  | n + 1 =>
    match (s.heldEgOf p).find? (·.1.isEmpty) with
    | some h =>
      let left := (s.heldEgOf p).filter fun y => y.2.copy.slip.id != h.2.copy.slip.id
      let s := { s with lrn := { s.lrn with heldEg := AMap.set s.lrn.heldEg p left } }
      (s.unholdEg p slot h.2).egSlots p (slot + 1) n
    | none =>
      let l := AMap.getD s.fwd.sel p []
      match l.find? s.egReady with
      | none => s
      | some c =>
        let s := { s with fwd := { s.fwd with sel := AMap.set s.fwd.sel p (l.filter fun y => y.slip.id != c.slip.id) } }
        (s.egressOne p slot c).egSlots p (slot + 1) n

/-- EGRESS_SLOT_ASSIGN (R17): one CCLK cycle of an egress half, up to six copies. -/
def execEgressSlotAssign (p : Nat) (s : State) : Out := .next (s.egSlots p 0 6)

end Sys2Proof.Machine
end

