-- ==== Sys2Proof/Machine/Flow.lean ====
section
/-! DEFINITION. The flow cache and its ledger records (R297 to R300): keys, insertion, update, eviction, the sweep and the flush. -/
namespace Sys2Proof.Machine

/-- The 32 key bytes of a flow (R297): the masked key-vector bytes in ascending order, padded with zeros. -/
def State.flowBytes (s : State) (p lay : Nat) (kv : List Byte) : List Byte :=
  let mask := s.rd fPAR_FLOW_MASK_LO_MASK p lay + s.rd fPAR_FLOW_MASK_HI_MASK p lay * 2 ^ 32
  let bs := ((kv.zipIdx.filter fun b => bitOf mask b.2).map (·.1)).take 32
  bs ++ List.replicate (32 - bs.length) 0

/-- The bucket of a flow key (R297). -/
def State.flowBucket (s : State) (p : Nat) (key : List Byte) (inPort lay : Nat) (out : Option Nat) : Nat :=
  crc32 (s.rd fPAR_FLOW_CFG_POLY p) (s.rg .PAR_FLOW_SEED p).toNat (key ++ Config.flowKeyTail inPort lay out) % 2 ^ 14

/-- Writes a flow's key record to the ledger (R300). -/
def State.keyRecord (s : State) (p : Nat) (f : Flow) : State :=
  let w0 := 2 + p * 2 ^ 8 + f.inPort * 2 ^ 11 + f.layout * 2 ^ 20 + b2n f.outPort.isSome * 2 ^ 26 + f.firstState * 2 ^ 27
  (s.ledWrite ([word w0, word f.flow, word (f.outPort.getD 0), word (ctNs f.first), word (ctSec f.first),
    word (ctSec f.first / 2 ^ 32 % 2 ^ 16), 0, 0] ++ bytesWords 8 f.key)).blk p (384 + 6)

/-- Writes a flow's use record with a reason: 0 IDLE, 1 ACTIVE, 2 PRESSURE, 3 FLUSH (R300). -/
def State.useRecord (s : State) (p reason : Nat) (f : Flow) : State :=
  let w0 := 4 + p * 2 ^ 8 + reason * 2 ^ 11 + f.firstState * 2 ^ 13 + f.lastState * 2 ^ 15
  let s := s.ledWrite ([word w0, word f.flow, word f.frames, word (f.frames / 2 ^ 32), word f.bytes, word (f.bytes / 2 ^ 32),
    word (min (2 ^ 32 - 1) f.latMin), 0] ++ ctWords f.first ++ ctWords f.last ++ [word (min (2 ^ 32 - 1) f.latMax), 0])
  let s := s.blk p (384 + 7)
  if reason = 0 then s.blk p (384 + 1) else if reason = 1 then s.blk p (384 + 2) else if reason = 2 then s.blk p (384 + 3) else s

/-- The state with the flow cache changed. -/
def State.setFlows (s : State) (f : AMap (Nat × Nat × Nat) Flow) : State := { s with arc := { s.arc with flows := f } }

/-- The way of a bucket that holds a flow. -/
def State.flowWay (s : State) (p b : Nat) (key : List Byte) (inPort lay : Nat) (out : Option Nat) : Option Nat :=
  (List.range 4).find? fun w => match AMap.get? s.arc.flows (p, b, w) with
    | some f => f.key == key && f.inPort == inPort && f.layout == lay && f.outPort == out
    | none => false

/-- The way whose last seen is oldest, of a full bucket. -/
def State.flowOldest (s : State) (p b : Nat) : Nat :=
  let last := fun w => match AMap.get? s.arc.flows (p, b, w) with | some f => f.last | none => 0
  (List.range 4).foldl (fun m w => if last w < last m then w else m) 0

/-- Least spacing of two inserts of one pipeline: 50 million per second (R298; the form of the limit is a DESIGN CHOICE, assumption
log 11). -/
def flowSpace : Nat := ns 20

/-- Inserts a new flow at a way of its bucket with its key record (R298). -/
def State.flowInsert (s : State) (p b w : Nat) (f : Flow) : State :=
  let n := AMap.getD s.arc.flowNext p 0
  let f := { f with flow := n }
  let s := s.setFlows (AMap.set s.arc.flows (p, b, w) f)
  let s := { s with arc := { s.arc with flowNext := AMap.set s.arc.flowNext p ((n + 1) % 2 ^ 32),
                                        flowTok := AMap.set s.arc.flowTok p s.tim.rc } }
  (s.keyRecord p f).blk p 384

/-- A flow's entry with one more copy (R298). -/
def Flow.add (f : Flow) (bytes ct tstate lat : Nat) : Flow :=
  { f with frames := f.frames + 1, bytes := f.bytes + bytes, last := ct, lastState := tstate,
           latMin := if f.frames = 0 then lat else min f.latMin lat, latMax := max f.latMax lat }

/-- An untracked copy counts at its first bit; its bytes count when it ends (`flowBytesLate`). -/
def State.untrackedCopy (s : State) (p : Nat) : State × Option (Option Nat) := (s.blk p (384 + 4), some none)

/-- A copy's turn at the flow cache as its first bit leaves (R297, R298), with its bytes when they are known then: the state, and what the cache
made of the copy: none when it keeps no flows for it, the flow it was added to, or untracked. -/
def State.flowTrack (s : State) (p : Nat) (x : Slip) (st : Stall) (kv : List Byte) (ct lat bytes : Nat) : State × Option (Option Nat) :=
  if x.direct || !s.on fPAR_FLOW_CFG_EN p || !s.on fPAR_FLOW_PROF_EN p st.layout then (s, none)
  else
    let key := s.flowBytes p st.layout kv
    let out := if s.on fPAR_FLOW_PROF_OUT_PORT p st.layout then some x.outPort else none
    let b := s.flowBucket p key st.inPort st.layout out
    match (s.flowWay p b key st.inPort st.layout out).bind fun w => (AMap.get? s.arc.flows (p, b, w)).map fun f => (w, f) with
    | some (w, f) => (s.setFlows (AMap.set s.arc.flows (p, b, w) (f.add bytes ct s.tstate lat)), some (some f.flow))
    | none =>
      let new : Flow := ⟨key, 0, st.inPort, st.layout, out, 1, bytes, ct, s.tstate, ct, s.tstate, lat, lat⟩
      let free := (List.range 4).find? fun w => (AMap.get? s.arc.flows (p, b, w)).isNone
      let slow := match AMap.get? s.arc.flowTok p with | some t => decide (s.tim.rc < t + flowSpace) | none => false
      let n := if free.isSome then 1 else 2
      if !s.on fARC_CFG_LEDGER_EN || slow || !s.ledBuffer n then s.untrackedCopy p
      else if !s.ledRoom n then ((s.untrackedCopy p).1.raise .ARC_LEDGER_FULL 0 p, some none)
      else
        let w := free.getD (s.flowOldest p b)
        let s := match AMap.get? s.arc.flows (p, b, w) with | some f => s.useRecord p 2 f | none => s
        (s.flowInsert p b w new, some (some (AMap.getD s.arc.flowNext p 0)))

/-- The bytes of a copy of n bytes at its end (R298), of which `given` were added at its first bit: a tracked copy's flow gets what is missing, or
loses what a transmission that ended early or was cut did not send; an untracked copy's bytes count as untracked, and so do those of a flow that
has left the cache (DESIGN CHOICE, assumption log 11). -/
def State.flowBytesLate (s : State) (p : Nat) (flow : Option (Option Nat)) (n given : Nat) : State :=
  match flow with
  | none => s
  | some none => s.blk p (384 + 5) n
  | some (some k) =>
    match s.arc.flows.find? fun e => e.1.1 == p && e.2.flow == k with
    | some e => s.setFlows (AMap.set s.arc.flows e.1 { e.2 with bytes := e.2.bytes + n - given })
    | none => s.blk p (384 + 5) (n - given)

/-- Evicts one flow with a reason when the ledger has room; otherwise it stays (R300). -/
def State.flowEvict (s : State) (k : Nat × Nat × Nat) (reason : Nat) (f : Flow) : State :=
  if s.ledRoom 1 && s.ledBuffer 1 then (s.setFlows (AMap.erase s.arc.flows k)).useRecord k.1 reason f else s

/-- The sweeper's visit of one entry (R299): a flow left by a flush, an idle flow, an active one. -/
def State.flowVisit (s : State) (k : Nat × Nat × Nat) (f : Flow) : State :=
  if !s.on fPAR_FLOW_CFG_EN k.1 then s.flowEvict k 3 f
  else if f.last + ns (s.rd fARC_FLOW_TIMERS_IDLE_MS * 1000000) ≤ s.tim.ct then s.flowEvict k 0 f
  else if f.first + ns (s.rd fARC_FLOW_TIMERS_ACTIVE_S * nsPerSec) ≤ s.tim.ct then
    if s.ledRoom 1 && s.ledBuffer 1 then
      (s.setFlows (AMap.set s.arc.flows k { f with frames := 0, bytes := 0, first := s.tim.ct, firstState := s.tstate,
                                                   latMin := 0, latMax := 0 })).useRecord k.1 1 f
    else s
  else s

/-- Visits every entry of a pipeline's flow cache. -/
def State.flowSweep (s : State) (p : Nat) : State :=
  (s.arc.flows.filter (·.1.1 == p)).foldl (fun s e => s.flowVisit e.1 e.2) s

/-- The entries in use in a pipeline (`PAR_FLOW_STATUS.ENTRIES`). -/
def State.flowCount (s : State) (p : Nat) : Nat := (s.arc.flows.filter (·.1.1 == p)).length

/-- FLOW_SWEEP (R299): the sweeper's visit of a pipeline's cache, once per 1 ms. Before that nothing happens. -/
def execFlowSweep (p : Nat) (s : State) : Out := .next (s.periodic .flowSweep p (ns 1000000) fun s => s.flowSweep p)

end Sys2Proof.Machine
end

