-- ==== Sys2Proof/Machine/MacRx.lean ====
section
/-! DEFINITION. The receive MAC (R19, R69, R77 to R80, R85, R97, R225): the counting point, the end of a frame with its checks and
counters, MAC Control frames, pauses and PFC storms. The layout of MAC Control frames is 802.3's (PRESUMED, assumption log 12). -/
namespace Sys2Proof.Machine

/-! ### Pauses (R77, R78) -/

/-- Sets or clears one bit of a port's pause status field. -/
def State.prtBit (s : State) (f : Fld) (port i : Nat) (on : Bool) : State := s.setPrt f port (setBits (s.prt f port) i i (b2n on))

/-- A time in ms as running-count units. -/
def ms (n : Nat) : Nat := ns (n * 1000000)

/-- A priority of a port is unpaused: its paused time is counted, and its restore time starts, of the `RESTORE_MS` in force now (R80, R393). -/
def State.unpause (s : State) (port prio : Nat) : State :=
  let k := (port, prio)
  match AMap.get? s.ports.pause k with
  | none => s
  | some _ =>
    let d := timeSpan s.ports.pauseAcc k s.tim.rc
    let s := s.countTime 1 port (48 + prio) d
    let s := { s with ports := { s.ports with
      pause := AMap.erase s.ports.pause k, stormAt := AMap.erase s.ports.stormAt k,
      pauseAcc := AMap.set s.ports.pauseAcc k (d % nsU),
      restoreAt := AMap.set s.ports.restoreAt k (s.tim.rc + ms (s.prt fPRT_PFC_WD_RESTORE_MS port)) } }
    s.prtBit fPRT_PFC_STATUS_PAUSED port prio false

/-- A received quanta pauses a priority for quanta × 512 bit times at the port's speed; 0 ends its pause (R77). A new pause starts the watchdog, of
the `WD_MS` in force now (R80, R393). -/
def State.pauseFor (s : State) (port prio quanta : Nat) : State :=
  if quanta = 0 then s.unpause port prio
  else
    let k := (port, prio)
    let till := s.tim.rc + quanta * 512 * nsU / s.portSpeed port
    let new := (AMap.get? s.ports.pause k).isNone
    let s := { s with ports := { s.ports with
      pause := AMap.set s.ports.pause k till,
      stormAt := if new then AMap.set s.ports.stormAt k (s.tim.rc + ms (s.prt fPRT_PFC_WD_WD_MS port)) else s.ports.stormAt,
      pauseAcc := if new then timeStart s.ports.pauseAcc k s.tim.rc else s.ports.pauseAcc,
      restoreAt := AMap.erase s.ports.restoreAt k } }
    s.prtBit fPRT_PFC_STATUS_PAUSED port prio true

/-- What the MAC does with a valid MAC Control frame (R77): counts it, and acts on it in the port's mode. -/
def State.macControl (s : State) (port t rc : Nat) (bs : List Byte) : State :=
  let at2 := fun (i : Nat) => bytesNat ((bs.drop i).take 2)
  let mode := s.prt fPRT_FC_CFG_MODE port
  let s := s.countAt 1 port 7 1 t rc
  if at2 14 = 0x0001 then
    let s := s.countAt 1 port 56 1 t rc
    if mode = 1 then (List.range 8).foldl (fun s i => s.pauseFor port i (at2 16)) s else s
  else if at2 14 = 0x0101 then
    (List.range 8).foldl (fun s i =>
      if bitOf (at2 16) i then
        let q := at2 (18 + 2 * i)
        let s := if q = 0 then s else s.countAt 1 port (40 + i) 1 t rc
        if mode = 2 ∧ bitOf (s.prt fPRT_FC_CFG_PRIO_EN port) i then s.pauseFor port i q else s
      else s) s
  else s

/-- PAUSE_EXPIRE (R77): the quanta of a priority's pause run out. Before that the event changes nothing. -/
def execPauseExpire (port prio : Nat) (s : State) : Out :=
  match AMap.get? s.ports.pause (port, prio) with
  | some till => .next (if till ≤ s.tim.rc then s.unpause port prio else s)
  | none => .next s

/-! ### PFC storms (R80) -/

/-- The priorities of a port that share one watchdog: one in PFC mode, all in PAUSE mode. -/
def State.stormSet (s : State) (port prio : Nat) : List Nat := if s.prt fPRT_FC_CFG_MODE port = 1 then List.range 8 else [prio]

/-- `STORM_ANY` follows `STORMED`. -/
def State.stormAny (s : State) (port : Nat) : State :=
  s.setPrt fPRT_STATE_STORM_ANY port (b2n (s.prt fPRT_PFC_STATUS_STORMED port != 0))

/-- Starts a walk of a port, of all its queues or of one class, unless the same walk runs already. -/
def State.startWalk (s : State) (port : Nat) (cls : Option Nat) : State :=
  if s.ports.walks.any (fun w => w.1 == port && w.2 == cls) then s
  else { s with ports := { s.ports with walks := s.ports.walks ++ [(port, cls)] } }

/-- Whether a priority's storm is due: the watchdog is on and the pause has lasted `WD_MS` without a break. -/
def State.stormDue (s : State) (port prio : Nat) : Bool :=
  s.prt fPRT_PFC_WD_EN port == 1 && !bitOf (s.prt fPRT_PFC_STATUS_STORMED port) prio &&
  match AMap.get? s.ports.stormAt (port, prio) with
  | some t => decide (t ≤ s.tim.rc)
  | none => false

/-- Declares priorities of a port stormed: their classes are walked, and the declaration is one event of PRT_PFC_STORM. -/
def State.declareStorm (s : State) (port prio : Nat) : State :=
  let l := s.stormSet port prio
  let s := l.foldl (fun s i =>
    ((s.prtBit fPRT_PFC_STATUS_STORMED port i true).prtBit fPRT_PFC_STATUS_STORM_EVT port i true).startWalk port (some (s.prioClass port i))) s
  (s.stormAny port).raise .PRT_PFC_STORM port

/-- PFC_STORM_DECLARE (R80). Before the watchdog's time the event changes nothing. -/
def execPfcStormDeclare (port prio : Nat) (s : State) : Out := .next (if s.stormDue port prio then s.declareStorm port prio else s)

/-- Whether a storm ends: the priority has stayed unpaused for `RESTORE_MS`. -/
def State.stormOver (s : State) (port prio : Nat) : Bool :=
  bitOf (s.prt fPRT_PFC_STATUS_STORMED port) prio && (AMap.get? s.ports.pause (port, prio)).isNone &&
  match AMap.get? s.ports.restoreAt (port, prio) with
  | some t => decide (t ≤ s.tim.rc)
  | none => false

/-- PFC_STORM_END (R80). Before `RESTORE_MS` has passed the event changes nothing. -/
def execPfcStormEnd (port prio : Nat) (s : State) : Out :=
  .next (if s.stormOver port prio then
    ((s.stormSet port prio).foldl (fun s i => s.prtBit fPRT_PFC_STATUS_STORMED port i false) s).stormAny port else s)

/-! ### Timestamps (R50, R51) -/

/-- A port's lowest lane (R64). -/
def State.lowLane (s : State) (port : Nat) : Nat := port / 8 * 8 + port % 8 * modeLanes (s.octMode port)

/-- A time less (or plus) a lane's signed delay. -/
def shiftTime (t : Nat) (d : Int) : Nat := ((t : Int) + d).toNat

/-- The ingress stamps of an event `phase` sixteenths of a TCLK cycle from now: course time and running count (R50, R51). -/
def State.rxStamp (s : State) (port phase : Nat) : Nat × Nat :=
  let d := - AMap.getD s.tim.rxDly (s.lowLane port) 0
  (shiftTime (stamp (s.tim.ct + phase % 16 * 2 ^ 44)) d, shiftTime (stamp (s.tim.rc + phase % 16 * 2 ^ 44)) d)

/-- The egress stamps of an event. -/
def State.txStamp (s : State) (port phase : Nat) : Nat × Nat :=
  let d := AMap.getD s.tim.txDly (s.lowLane port) 0
  (shiftTime (stamp (s.tim.ct + phase % 16 * 2 ^ 44)) d, shiftTime (stamp (s.tim.rc + phase % 16 * 2 ^ 44)) d)

/-! ### The ingress counting point (R19, R212) -/

/-- The time of an armed edition switch that has not fired. -/
def State.edSwitchAt (s : State) : Option Nat :=
  match s.ed.imm with
  | some x => some x.1
  | none => (s.tim.trigs.find? (·.kind == TrigKind.edition)).map (·.at_)

/-- The edition bit of a frame with an ingress timestamp (R212): the new bit from an armed T on. -/
def State.edMark (s : State) (t : Nat) : Bool :=
  match s.edSwitchAt with
  | some T => if T ≤ t then !s.edNow else s.edNow
  | none => s.edNow

/-- A frame's first bit at a port: its record in the MAC, RX counter 2 and the tally IN (R19, R69, R294). Whether the port is UP is judged here
for the whole frame (DESIGN CHOICE, assumption log 44). -/
def State.rxStart (s : State) (port phase : Nat) (head : List Byte) : State :=
  let t := s.rxStamp port phase
  let x : RxFrame := { port := port, bytes := head, ended := false, bad := false, trunc := false, ct := t.1, rc := t.2,
                       tstate := s.tstate, ed := s.edMark t.1, notUp := s.portState port != psUP, late := [], fate := .waiting,
                       adj := signedOf 24 (s.prt fPRT_PTP_RX_ADJ_ADJ port) }
  let s := (s.countAt 1 port 2 1 t.1 t.2).tally (port / 32) 0 1 t.1 t.2
  { s with fwd := { s.fwd with rx := s.fwd.rx ++ [x] } }

/-- The frame that a port is receiving. -/
def State.rxOpen (s : State) (port : Nat) : Option RxFrame := s.fwd.rx.find? fun x => x.port == port && !x.ended

/-- Whether a port's receive path works: the port exists and is not DISABLED, where it is held idle (R71). -/
def State.rxOn (s : State) (port : Nat) : Bool := s.portExists port && s.portState port != psDISABLED

/-- FRAME_RX_START (R19). A port whose receive path does not work, or that is already receiving, has no first bit. -/
def execFrameRxStart (port phase : Nat) (head : List Byte) (s : State) : Out :=
  .next (if s.rxOn port && (s.rxOpen port).isNone then s.rxStart port phase head else s)

/-! ### A frame's end (R69, R85, R97, R225) -/

/-- The PCP counter, size bin and RX counters 3, 14 and 15 of a frame of length L. -/
def State.rxSizes (s : State) (x : RxFrame) (l : Nat) (pcsErr : Bool) : State :=
  let c := fun (s : State) (i n : Nat) => s.countAt 1 x.port i n x.ct x.rc
  let s := c (c s 3 l) (32 + pcpOf x.bytes) 1
  let s := match sizeBin l with | some b => c s b 1 | none => s
  let s := if pcsErr then c s 14 1 else s
  if x.notUp then c s 15 1 else s

/-- RX counters 8 to 13 of a frame (R85). -/
def State.rxErrors (s : State) (x : RxFrame) (l : Nat) (good : Bool) : State :=
  let c := fun (i : Nat) => s.countAt 1 x.port i 1 x.ct x.rc
  if x.trunc then c 13
  else if l < 64 then c (if good then 9 else 10)
  else if s.prt fPRT_CFG_MAX_FRAME x.port < l then c (if good then 11 else 12)
  else if good then s else c 8

/-- RX counters 4 to 6 of a frame with valid FCS, by its destination address. -/
def State.rxCast (s : State) (x : RxFrame) : State :=
  let da := x.bytes.take 6
  s.countAt 1 x.port (if da.all (· == 0xFF) then 6 else if bitOf (da.headD 0).toNat 0 then 5 else 4) 1 x.ct x.rc

/-- The drop code of a frame that the MAC does not pass on (R69), in the order of its table after the port's state; RX_TRUNCATED stands before
the lengths (DESIGN CHOICE, assumption log 44). -/
def State.rxReason (s : State) (x : RxFrame) (l : Nat) (good : Bool) : Option Nat :=
  if x.notUp then some 0x81
  else if x.trunc then some 0x87
  else if l < 64 then some 0x85
  else if s.prt fPRT_CFG_MAX_FRAME x.port < l then some 0x86
  else if !good then some 0x84
  else if bytesNat ((x.bytes.drop 12).take 2) = 0x8808 then some 0x88
  else none

/-- Whether the check of R97 fails for a stored frame of received length L. That the check applies was settled with its layout. -/
def State.lateLength (s : State) (st : Stall) (l : Nat) : Bool :=
  st.chkLen && !lenBounds l st.pktLen (s.rd fRDR_CFG_TRAIL_MAX st.ingPipe)

/-- The first limit that a stored frame of received length L breaks, if any (R69, R97, R225). A frame both cut short and longer than
`MAX_FRAME` is RX_TRUNCATED, as in `rxReason` (DESIGN CHOICE, assumption log 44). -/
def State.stallReason (s : State) (x : RxFrame) (st : Stall) (l : Nat) (good : Bool) : Option Nat :=
  let mx := s.prt fPRT_CFG_MAX_FRAME x.port
  if st.bad then some st.reason
  else if stallSize st.pool < mx ∧ stallSize st.pool < l then some 0x42
  else if x.trunc then some 0x87
  else if mx < l then some 0x86
  else if !good then some 0x84
  else if s.lateLength st l then some 0x02
  else none

/-- The stall that holds the bytes of a frame still being received. -/
def State.rxStall (s : State) (x : RxFrame) : Option Stall :=
  match x.fate with
  | .stalled pool idx => match s.stall? pool idx with
    | some st => if st.rxPort = some x.port ∧ !st.done then some st else none
    | none => none
  | _ => none

/-- Completes a stall's frame record at the frame's last bit (R226): no byte beyond the stall or `MAX_FRAME` is stored. A copy in
transmission whose input has stopped mid-frame raises PRT_CT_UNDERRUN at its port (R87, R234). -/
def State.endStall (s : State) (x : RxFrame) (st : Stall) (good : Bool) : State :=
  let l := x.bytes.length
  let r := s.stallReason x st l good
  let keep := min (stallSize st.pool) (s.prt fPRT_CFG_MAX_FRAME x.port)
  let s := if r = some 0x02 then s.blk st.ingPipe 73 else s
  let s := if x.trunc then
      (s.ports.txNow.filter fun c => c.2.slip.pool == st.pool && c.2.slip.stall == st.idx && decide (c.1 < 256)).foldl
        (fun s c => s.raise .PRT_CT_UNDERRUN (c.1 / 32) c.1) s
    else s
  s.putStall { st with bytes := x.bytes.take keep, len := l, known := true, done := true, bad := r.isSome, reason := r.getD 0,
                       rxPort := none }

/-- A header is ready for the Reader when its window is complete (R88); frames wait in the order in which they became ready (R14). -/
def RxFrame.windowed (x : RxFrame) : Bool := decide (192 ≤ x.bytes.length)

/-- The state with the frame that a port receives taken out of the MAC. -/
def State.rxClose (s : State) (port : Nat) : State :=
  { s with fwd := { s.fwd with rx := s.fwd.rx.filter fun y => !(y.port == port && !y.ended) } }

/-- A frame that waits in the MAC is replaced by what has come of it: in its place if it was ready, otherwise behind those that are. -/
def State.rxWaits (s : State) (port : Nat) (new : RxFrame) : State :=
  match s.rxOpen port with
  | some old =>
    if old.windowed || !(new.windowed || new.ended) then
      { s with fwd := { s.fwd with rx := s.fwd.rx.map fun y => if y.port == port && !y.ended then new else y } }
    else { s.rxClose port with fwd := { (s.rxClose port).fwd with rx := (s.rxClose port).fwd.rx ++ [new] } }
  | none => s

/-- The end of a frame in the receive MAC: counters, late byte counters, and where the frame goes. `x` holds all its bytes. A frame cut short, or
one that an uncorrectable flit spoiled (R431), has an invalid FCS. -/
def State.rxFinish (s : State) (x : RxFrame) (good pcsErr : Bool) : State :=
  let l := x.bytes.length
  let good := good && !x.trunc && !x.bad
  let s := (s.rxSizes x l pcsErr).rxErrors x l good
  let s := if good then s.rxCast x else s
  let s := x.late.foldl (fun s c => s.countAt c.1 c.2.1 c.2.2.1 l c.2.2.2.1 c.2.2.2.2) s
  let why := s.rxReason x l good
  let s := if why.isNone then (s.countAt 1 x.port 0 1 x.ct x.rc).countAt 1 x.port 1 l x.ct x.rc else s
  let s := if why = some 0x88 then s.macControl x.port x.ct x.rc x.bytes else s
  match x.fate with
  | .gone => s.rxClose x.port
  | .stalled _ _ => match s.rxStall x with | some st => (s.rxClose x.port).endStall x st good | none => s.rxClose x.port
  | .waiting => match why with
    | some code =>
      (s.rxClose x.port).dropIn x.port code (x.port / 32) none
        ⟨2, false, x.ed, x.port, 0x1FF, 0, 0, 0, l, true, x.ct, 0⟩ ((x.bytes.take (l - 4)).take 192)
    | none => s.rxWaits x.port { x with ended := true }

/-- A frame that a port is receiving is cut short (R69). -/
def State.truncate (s : State) (port : Nat) : State :=
  match s.rxOpen port with
  | some x => s.rxFinish { x with trunc := true } false false
  | none => s

/-- FRAME_RX_END (R69): the last bytes of the frame that a port receives, FCS included. `fecBad` says that it held an uncorrectable
codeword, `pcsErr` that it held a PCS error block. -/
def execFrameRxEnd (port : Nat) (tail : List Byte) (fecBad pcsErr : Bool) (s : State) : Out :=
  match s.rxOpen port with
  | none => .next s
  | some x =>
    let x := { x with bytes := x.bytes ++ tail }
    .next (s.rxFinish x (fcsGood x.bytes && !fecBad) pcsErr)

/-- STALL_OVERRUN (R225): more bytes of a frame arrive than its stall holds. A frame that still fits, or reaches `MAX_FRAME` first, is
only received further. -/
def execStallOverrun (port : Nat) (bytes : List Byte) (s : State) : Out :=
  match s.rxOpen port with
  | none => .next s
  | some x =>
    let y := { x with bytes := x.bytes ++ bytes }
    let s1 := s.rxWaits port y
    match s.rxStall x with
    | none => .next s1
    | some st =>
      let z := stallSize st.pool
      if z < y.bytes.length ∧ z < s.prt fPRT_CFG_MAX_FRAME port ∧ !st.bad then
        .next (s1.putStall { st with bytes := y.bytes.take z, bad := true, reason := 0x42 })
      else .next s1

/-- PAUSE_FRAME_RX (R77): a whole MAC Control frame is received on a port, its first bit `phase` sixteenths of a cycle from now. -/
def execPauseFrameRx (port phase : Nat) (frame : List Byte) (fecBad : Bool) (s : State) : Out :=
  if s.rxOn port && (s.rxOpen port).isNone && bytesNat ((frame.drop 12).take 2) == 0x8808 then
    let s := s.rxStart port phase frame
    match s.rxOpen port with
    | some x => .next (s.rxFinish x (fcsGood frame && !fecBad) false)
    | none => .next s
  else .next s

/-- An uncorrectable FEC codeword on a port: RX counter 65 and an event of PRT_FEC_UNCORR (R85, R87). -/
def State.fecLost (s : State) (port : Nat) : State := (s.count 1 port 65 1).raise .PRT_FEC_UNCORR port

/-- FEC_CODEWORD_DECODE (R85): a codeword with its corrected symbols per lane of the port, or an uncorrectable one. -/
def execFecCodewordDecode (port : Nat) (syms : List Nat) (uncorr : Bool) (s : State) : Out :=
  if !s.rxOn port then .next s
  else if uncorr then .next (s.fecLost port)
  else
    let n := syms.sum
    let s := if n = 0 then s else (s.count 1 port 64 1).count 1 port 66 n
    let s := if n ≤ 15 then s.count 1 port (67 + n) 1 else s
    .next (((syms.take 8).zipIdx).foldl (fun s x => if x.1 = 0 then s else s.count 1 port (96 + x.2) x.1) s)

end Sys2Proof.Machine
end

