-- ==== Sys2Proof/Machine/MacTx.lean ====
section
/-! DEFINITION. The transmit MAC (R19, R70, R74, R79, R81 to R83, R85, R268): the egress counting point with PTP completion, the end
of a transmission on a wire or onto the loop, and generated pause frames. -/
namespace Sys2Proof.Machine

/-! ### Bytes on the wire -/

/-- The bytes a copy sends, without padding and FCS: its header as rewritten, then the stored bytes beyond it. -/
def EgCopy.body (c : EgCopy) (st : Stall) : List Byte := c.hdr ++ st.body.drop c.hlen

/-- Padding to 60 bytes before the FCS (R70). -/
def padded (bs : List Byte) : List Byte := bs ++ List.replicate (60 - bs.length) 0

/-- The header with bytes at an offset replaced. -/
def putAt (h : List Byte) (off : Nat) (bs : List Byte) : List Byte := h.take off ++ bs ++ h.drop (off + bs.length)

/-- The header with bytes at an offset replaced, and the UDP checksum at `u` updated in the manner of RFC 1624 over the aligned 16-bit
words that hold them (R81). -/
def putSum (h : List Byte) (off : Nat) (bs : List Byte) (u : Option Nat) : List Byte :=
  let h' := putAt h off bs
  match u with
  | none => h'
  | some u =>
    let a := off - (off + u) % 2
    let n := (bs.length + (off + u) % 2 + 1) / 2 * 2
    putAt h' u (natBytes 2 (rfc1624 (bytesNat ((h.drop u).take 2)) ((h.drop a).take n) ((h'.drop a).take n)))

/-! ### PTP (R81 to R83) -/

/-- The residence time of a copy in units of 2^-16 ns (R81, R82): its running counts differ by a multiple of 62.5 ps, and the ingress MAC
subtracted its `PRT_PTP_RX_ADJ` from the first of them. -/
def Stall.residence (st : Stall) (rc : Nat) : Int := ((rc : Int) - st.rc) / (2 ^ 32 : Nat) + st.adj * 4096

/-- One-step completion (R81): the residence time is added to the marked correctionField. -/
def State.oneStep (s : State) (port : Nat) (c : EgCopy) (st : Stall) (t : Nat × Nat) : State × EgCopy :=
  match c.marks.oneStep with
  | none => (s, c)
  | some (off, u) =>
    if s.prt fPRT_PTP_CFG_ONE_STEP_EN port ≠ 1 then (s, c)
    else
      let old := signedOf 64 (bytesNat ((c.hdr.drop off).take 8))
      let new := ((old + st.residence t.2) % (2 ^ 64 : Nat)).toNat
      (s.countAt 2 port 59 1 t.1 t.2, { c with hdr := putSum c.hdr off (natBytes 8 new) u })

/-- Insertion of the egress course time (R193). -/
def EgCopy.insertTime (c : EgCopy) (ct : Nat) : EgCopy :=
  match c.marks.insertTx with
  | none => c
  | some (off, u) => { c with hdr := putSum c.hdr off (natBytes 6 (ctSec ct) ++ natBytes 4 (ctNs ct)) u }

/-- The timestamp FIFO of a port. -/
def State.tsFifo (s : State) (port : Nat) : List (List Word) := AMap.getD s.ports.tsFifo port []

/-- Two-step storage (R83): an entry of the port's FIFO and an event, or a discard that the next entry stored reports. A discarded entry sends
no event (DESIGN CHOICE, assumption log 44). -/
def State.twoStep (s : State) (port : Nat) (c : EgCopy) (t : Nat × Nat) : State :=
  match c.marks.twoStep with
  | none => s
  | some off =>
    if s.prt fPRT_PTP_CFG_TWO_STEP_EN port ≠ 1 then s
    else
      let b := fun i => (c.hdr.getD (off + i) 0).toNat
      let q := s.tsFifo port
      let ovf := decide (port ∈ s.ports.tsOvf)
      let w3 := 2 ^ 31 + b2n ovf * 2 ^ 30 + s.tstate * 2 ^ 28 + b 0 % 16 * 2 ^ 24 + b 4 * 2 ^ 16 + b 30 * 256 + b 31
      if 64 ≤ q.length then
        let s := { s.countAt 2 port 58 1 t.1 t.2 with ports := { s.ports with tsOvf := if ovf then s.ports.tsOvf else port :: s.ports.tsOvf } }
        (s.setPrt fPRT_EVENTS_TS_OVERFLOW port 1).raise .PRT_TS_OVERFLOW (port / 32) port
      else
        let s := { s.countAt 2 port 57 1 t.1 t.2 with ports := { s.ports with
          tsFifo := AMap.set s.ports.tsFifo port (q ++ [ctWords t.1 ++ [word w3]]), tsOvf := s.ports.tsOvf.filter (· != port) } }
        s.eventAt 0x0A (port / 32) port w3 t.1

/-! ### Latency histograms (R268) -/

/-- The bin of a latency of x ns. -/
def histBin (x : Nat) : Nat :=
  if x < 16 then 0
  else
    let e := Nat.log2 x
    if e < 14 then 1 + 4 * (e - 4) + bitsOf x (e - 1) (e - 2)
    else if e < 20 then 41 + 2 * (e - 14) + bitsOf x (e - 1) (e - 1)
    else if e < 30 then 53 + (e - 20)
    else 63

/-! ### The egress counting point (R19) -/

/-- The element of the traffic matrix of a copy (R287). -/
def matrixAt (out inp cls : Nat) : Nat := (out * 256 + inp) * 8 + cls

/-- Drops a copy that waits for its first bit at a front-panel port: it had left its edition's residents at the Farrier (R213). -/
def State.dropWaiting (s : State) (c : EgCopy) (code : Nat) : State :=
  match s.frameOf c.slip with
  | some st => (s.edUp st.ed).dropSel c code
  | none => s.release c.slip (egPipe c.slip.outPort)

/-- The counters of a copy's first bit: TX 2, 4 to 6 and 32 to 39, MATRIX, HIST and the tally OUT (R85, R268, R288, R294). -/
def State.txCounts (s : State) (port : Nat) (c : EgCopy) (st : Stall) : State :=
  let n := fun (s : State) (i : Nat) => s.countAt 2 port i 1 c.ct c.rc
  let da := (c.body st).take 6
  let s := n (n s 2) (32 + c.slip.cls)
  let s := n s (if da.all (· == 0xFF) then 6 else if bitOf (da.headD 0).toNat 0 then 5 else 4)
  let s := if st.inPort < 256 then s.countAt 3 (matrixAt port st.inPort c.slip.cls) 0 1 c.ct c.rc else s
  let s := s.countAt 7 (c.svc * 64 + histBin ((c.rc - st.rc) / nsU)) 0 1 c.ct c.rc
  s.tally st.ingPipe 2 1 c.ct c.rc

/-- A copy's first bit leaves a front-panel port. -/
def State.txBegin (s : State) (port phase : Nat) (c : EgCopy) (st : Stall) : State :=
  let t := s.txStamp port phase
  let r := s.oneStep port c st t
  let s := r.1
  let c0 := c
  let c := { r.2.insertTime t.1 with late := !st.done, ct := t.1, rc := t.2 }
  let s := (s.twoStep port c t).txCounts port c st
  let len := if st.done then (padded (c.body st)).length + 4 else 0
  let fl := s.flowTrack (port / 32) c.slip st c.kv c.ct ((c.rc - st.rc) / nsU) len
  let s := fl.1
  let s := if c.capture then
      s.capture (port / 32) { st.capInfo port c.slip.cls c.ct with source := 1 } (c0.body st)
    else s
  { s with ports := { s.ports with txNow := AMap.set s.ports.txNow port { c with flow := fl.2 } } }

/-- Whether a port's MAC generates frames for a class: PAUSE mode, or PFC mode with the class's priority enabled. -/
def State.generates (s : State) (port prio : Nat) : Bool :=
  s.prt fPRT_FC_CFG_MODE port == 1 || (s.prt fPRT_FC_CFG_MODE port == 2 && bitOf (s.prt fPRT_FC_CFG_PRIO_EN port) prio)

/-- The key under which a port's repeats are timed: the priority in PFC mode, 0 in PAUSE mode. -/
def State.pauseKey (s : State) (port prio : Nat) : Nat × Nat := (port, if s.prt fPRT_FC_CFG_MODE port = 1 then 0 else prio)

/-- Whether a port still signals XOFF for a priority: the class's own state, or any class's in PAUSE mode. -/
def State.xoffNow (s : State) (port prio : Nat) : Bool :=
  if s.prt fPRT_FC_CFG_MODE port = 1 then (List.range 8).any fun c => s.on fSTB_ING_USED_XOFF_STATE 0 (pc port c)
  else s.on fSTB_ING_USED_XOFF_STATE 0 (pc port (s.prioClass port prio))

/-- Whether an XOFF or XON change of a port calls for a frame: in PAUSE mode an XON does when no class is left in XOFF. -/
def State.pauseCalls (s : State) (port : Nat) (d : Nat × Nat × Bool) : Bool :=
  let prio := s.fcPrio port d.2.1
  s.generates port prio && !(s.prt fPRT_FC_CFG_MODE port == 1 && !d.2.2 && s.xoffNow port prio)

/-- Whether a repeat of a priority's pause frame is due at a port (R79). -/
def State.repeatDue (s : State) (port prio : Nat) : Bool :=
  match AMap.get? s.ports.pfcRepeat (s.pauseKey port prio) with
  | some t => decide (t ≤ s.tim.rc) && s.generates port prio && s.xoffNow port prio
  | none => false

/-- Whether a generated pause frame is due at a port: it goes ahead of queued data (R79). -/
def State.pauseFirst (s : State) (port : Nat) : Bool :=
  s.ports.pfcDue.any (fun d => d.1 == port && s.pauseCalls port d) || (List.range 8).any (s.repeatDue port)

/-- FRAME_TX_START (R19): the first bit of the copy that waits at a port passes the egress counting point, behind any pause frame that is
due. A copy that ended bad before it is dropped (R69), and so is one with an uncorrectable word (R243) and one that finds its class's gate
closed (R267). -/
def execFrameTxStart (port phase : Nat) (s : State) : Out :=
  match AMap.getD s.ports.txWait port [] with
  | [] => .next s
  | c :: t =>
    if 256 ≤ port ∨ s.portState port ≠ psUP ∨ (AMap.get? s.ports.txNow port).isSome ∨ s.pauseFirst port then .next s
    else
      let s := { s with ports := { s.ports with txWait := AMap.set s.ports.txWait port t } }.gateRefresh port
      match s.frameOf c.slip with
      | none => .next (s.release c.slip (port / 32))
      | some st =>
        if st.bad then
          .next ((if st.reason = 0x42 then s.blk st.ingPipe (256 + 10) else s).dropWaiting c st.reason)
        else if s.stbLost c.slip then .next (((s.stbFault c.slip (port / 32)).blk (port / 32) (256 + 19)).dropWaiting c 0x47)
        else if !bitOf (AMap.getD s.ports.gates port 0xFF) c.slip.cls then
          .next (((s.raise .HAR_GATE_CLOSED port).blk (port / 32) (288 + 6)).dropWaiting c 0xA3)
        else .next (s.txBegin port phase c st)

/-! ### The end of a transmission (R69, R70, R74, R195, R238) -/

/-- How a transmission ended: complete with a correct FCS, complete with a stomped FCS, or ended early (R74), stomped or not. -/
inductive TxEnd where
  | good
  | stomped
  | early (stomp : Bool)
  deriving DecidableEq, Repr

/-- The last bit of a copy leaves a front-panel port: `n` bytes in all, FCS included. Counters, the correction of its charge, and its
release. -/
def State.txClose (s : State) (port : Nat) (c : EgCopy) (st : Stall) (n : Nat) (how : TxEnd) (sent : List Byte) : State :=
  let k := fun (s : State) (i m : Nat) => s.countAt 2 port i m c.ct c.rc
  let s := k s 3 n
  let s := match sizeBin n with | some b => k s b 1 | none => s
  let s := match how with
    | .good => k (k s 0 1) 1 n
    | .stomped => k s 8 1
    | .early x => if x then k (k s 9 1) 8 1 else k s 9 1
  let s := if st.inPort < 256 then s.countAt 3 (matrixAt port st.inPort c.slip.cls) 1 n c.ct c.rc else s
  let s := s.flowBytesLate (port / 32) c.flow n (if c.late then 0 else (padded (c.body st)).length + 4)
  let s := { s with ports := { s.ports with txNow := AMap.erase s.ports.txNow port, lastTx := AMap.set s.ports.lastTx port sent } }
  (s.correct c.slip c.svc c.est n).depart c.slip c.svc st.ingPipe n

/-- The end of the transmission of a copy whose frame has wholly arrived or ended bad: padding, FCS or stomp, and the length limit of a
copy whose length the Farrier did not know (R195). -/
def State.txDone (s : State) (port : Nat) (c : EgCopy) (st : Stall) : State :=
  let body := c.body st
  let mx := s.prt fPRT_CFG_MAX_FRAME port
  let tooLong := c.unk && decide (mx < body.length + 4)
  let ecc := s.stbLost c.slip
  let body := if tooLong then body.take (mx - 4) else body
  let pad := padded body
  let s := if body.length < 60 then s.countAt 2 port 10 1 c.ct c.rc else s
  let s := if tooLong then s.blk (port / 32) (224 + 11) else s
  let s := if st.bad ∧ st.reason = 0x42 then s.blk st.ingPipe (256 + 11) else s
  let s := if ecc then s.stbFault c.slip (port / 32) else s
  if st.bad || tooLong || ecc then s.txClose port c st (pad.length + 4) .stomped (pad ++ stompBytes pad)
  else s.txClose port c st (pad.length + 4) .good (pad ++ fcsBytes pad)

/-- A stored frame that is still arriving, with the bytes it has so far; the last four may yet prove to be its FCS. -/
def State.sofar (s : State) (st : Stall) : Stall :=
  match s.fwd.rx.find? fun x => !x.ended && x.fate == RxFate.stalled st.pool st.idx with
  | some x => { st with bytes := x.bytes.take (x.bytes.length - 4) }
  | none => st

/-- A copy that has been read onto a loop, as a pass-2 frame (R198, R199). -/
def EgCopy.loopFrame (c : EgCopy) (st : Stall) : LoopFrame :=
  { bytes := c.body st, entered := false, inPort := st.inPort, ct := st.ct, rc := st.rc, tstate := st.tstate, ed := st.ed,
    shift := if c.slip.skip then st.shift else 0, nextProto := if c.slip.skip then st.nextProto else 0,
    fragl := c.slip.skip && st.fragl, cont := c.cont, ingPipe := st.ingPipe, adj := st.adj }

/-- A loop takes a copy whole: the copy is released, its charge corrected to the bytes read onto the loop (R253), and its frame goes round
(R198). -/
def State.loopTake (s : State) (p : Nat) (c : EgCopy) (st : Stall) : State :=
  let f := c.loopFrame st
  let n := f.bytes.length + 4
  let s := s.correct c.slip c.svc c.est n
  let s := if c.capture then
      s.capture p { st.capInfo c.slip.outPort c.slip.cls s.tim.ct with source := 1 } (c.body st)
    else s
  let s := { s with fwd := { s.fwd with loops := AMap.set s.fwd.loops p (s.loop p ++ [f]) } }
  (s.depart c.slip c.svc st.ingPipe n).loopLevel p

/-- FRAME_TX_END (R238): the last byte of the copy in transmission on a front-panel port is read by its MAC, or the first copy bound
for a loop (ports 256 to 263) has wholly been read onto it. A frame that is still arriving has no last byte, but a copy whose length the Farrier did
not know ends when it reaches the limit (R195). -/
def execFrameTxEnd (port : Nat) (s : State) : Out :=
  if port < 256 then
    match AMap.get? s.ports.txNow port with
    | none => .next s
    | some c => match s.frameOf c.slip with
      | none => .next ({ s with ports := { s.ports with txNow := AMap.erase s.ports.txNow port } }.release c.slip (port / 32))
      | some st => .next (if st.done || st.bad then s.txDone port c st
          else if c.unk && decide (s.prt fPRT_CFG_MAX_FRAME port < (c.body (s.sofar st)).length + 4) then s.txDone port c (s.sofar st) else s)
  else
    match AMap.getD s.ports.txWait port [] with
    | [] => .next s
    | c :: t =>
      match s.frameOf c.slip with
      | none => .next ({ s with ports := { s.ports with txWait := AMap.set s.ports.txWait port t } }.release c.slip (port - 256))
      | some st =>
        let s' := { s with ports := { s.ports with txWait := AMap.set s.ports.txWait port t } }
        if !(st.done || st.bad) then .next s
        else if st.bad then
          .next ((if st.reason = 0x42 then s'.blk st.ingPipe (256 + 10) else s').dropSel c st.reason)
        else if s.stbLost c.slip then .next (((s'.stbFault c.slip (port - 256)).blk (port - 256) (256 + 19)).dropSel c 0x47)
        else .next (s'.loopTake (port - 256) c st)

/-- RECIRC_FIFO_ENTER (R196): the oldest frame on a loop has wholly entered the FIFO. -/
def execRecircFifoEnter (p : Nat) (s : State) : Out :=
  match (s.loop p).find? (!·.entered) with
  | none => .next s
  | some x =>
    let i := (s.loop p).findIdx (!·.entered)
    .next { s with fwd := { s.fwd with loops := AMap.set s.fwd.loops p ((s.loop p).set i { x with entered := true }) } }

/-- Ends the frame in transmission on a port at once (R74): it counts as transmitted with the bytes sent so far, found from the time
since its first bit (DEDUCED, assumption log 13), and with the stomped FCS that follows them. In SAFE the fault's ordered sets end it. -/
def State.endEarly (s : State) (port : Nat) (stomp : Bool) : State :=
  match AMap.get? s.ports.txNow port with
  | none => s
  | some c => match s.frameOf c.slip with
    | none => { s with ports := { s.ports with txNow := AMap.erase s.ports.txNow port } }.release c.slip (port / 32)
    | some st =>
      let pad := padded (c.body st)
      let m := (s.tim.rc - c.rc) * s.portSpeed port / (8 * nsU)
      let sent := if stomp then pad.take m ++ stompBytes (pad.take m) else (pad ++ fcsBytes pad).take m
      s.txClose port c st sent.length (.early stomp) sent

/-! ### Generated pause frames (R79) -/

/-- A MAC Control frame of a port with a time for each priority of a set, without FCS: PFC in PFC mode, PAUSE otherwise. -/
def State.pauseBytes (s : State) (port prio quanta : Nat) : List Byte :=
  let sa := natBytes 6 (s.prt fPRT_SA_HI_SA port * 2 ^ 32 + (s.rg .PRT_SA_LO (port / 32) (port % 32)).toNat)
  let head := natBytes 6 0x0180C2000001 ++ sa ++ natBytes 2 0x8808
  padded (if s.prt fPRT_FC_CFG_MODE port = 2 then
      head ++ natBytes 2 0x0101 ++ natBytes 2 (2 ^ prio) ++ ((List.range 8).map fun i => natBytes 2 (if i = prio then quanta else 0)).flatten
    else head ++ natBytes 2 0x0001 ++ natBytes 2 quanta)

/-- Sends a generated frame with its counters (R70, R85). -/
def State.sendPause (s : State) (port prio quanta : Nat) : State :=
  let bs := s.pauseBytes port prio quanta
  let s := s.count 2 port 7 1
  let s := if s.prt fPRT_FC_CFG_MODE port = 1 then s.count 2 port 56 1
    else if quanta ≠ 0 then s.count 2 port (40 + prio) 1 else s
  { s with ports := { s.ports with lastTx := AMap.set s.ports.lastTx port (bs ++ fcsBytes bs) } }

/-- Half of `TX_QUANTA` × 512 bit times of a port (R79). -/
def State.repeatTime (s : State) (port : Nat) : Nat := s.prt fPRT_FC_CFG_TX_QUANTA port * 256 * nsU / s.portSpeed port

/-- Sends the pause frame that a port's present state calls for, and times its repeat while XOFF persists. -/
def State.signal (s : State) (port prio : Nat) (on : Bool) : State :=
  let s := s.sendPause port prio (if on then s.prt fPRT_FC_CFG_TX_QUANTA port else 0)
  let k := s.pauseKey port prio
  { s with ports := { s.ports with
      pfcRepeat := if on then AMap.set s.ports.pfcRepeat k (s.tim.rc + s.repeatTime port) else AMap.erase s.ports.pfcRepeat k } }

/-- PAUSE_FRAME_TX (R79): the oldest XOFF or XON change of a port is sent at the next frame boundary, once the port is UP; a change that
calls for no frame is passed over. -/
def execPauseFrameTx (port : Nat) (s : State) : Out :=
  match s.ports.pfcDue.find? (·.1 == port) with
  | none => .next s
  | some d =>
    if s.portState port ≠ psUP ∨ (AMap.get? s.ports.txNow port).isSome then .next s
    else
      let left := { s with ports := { s.ports with pfcDue := s.ports.pfcDue.filter (· != d) } }
      .next (if s.pauseCalls port d then left.signal port (s.fcPrio port d.2.1) d.2.2 else left)

/-- PAUSE_REPEAT (R79): half of `TX_QUANTA` has passed and XOFF persists. Before that, and while the port is not UP, the event changes
nothing. -/
def execPauseRepeat (port prio : Nat) (s : State) : Out :=
  match AMap.get? s.ports.pfcRepeat (s.pauseKey port prio) with
  | none => .next s
  | some t =>
    if s.portState port ≠ psUP ∨ s.tim.rc < t ∨ (AMap.get? s.ports.txNow port).isSome then .next s
    else if s.generates port prio && s.xoffNow port prio then .next (s.signal port prio true)
    else .next { s with ports := { s.ports with pfcRepeat := AMap.erase s.ports.pfcRepeat (s.pauseKey port prio) } }

end Sys2Proof.Machine
end

