-- ==== Sys2Proof/Machine/Links.lean ====
section
/-! DEFINITION. Links (R63 to R76, R84): the port state machine, walks, member-live, the safe state, octets and auto-negotiation. -/
namespace Sys2Proof.Machine

/-! ### Member-live and copies at a port -/

/-- Clears a port's member-live bit and counts the clear of a bit that was 1 (R76). -/
def State.clearLive (s : State) (port : Nat) : State :=
  if s.live port then (s.setPrt fPRT_STATE_LIVE port 0).count 1 port 85 1 else s

/-- Drops the copies of a port that are selected and whose first bit has not left (R74); each counts as freed by the walk. -/
def State.dropSelected (s : State) (port code : Nat) : State :=
  let p := port / 32
  let sel := AMap.getD s.fwd.sel p []
  let wait := AMap.getD s.ports.txWait port []
  let held := s.heldEgOf p
  let s := { s with fwd := { s.fwd with sel := AMap.set s.fwd.sel p (sel.filter fun c => c.slip.outPort != port) },
                    ports := { s.ports with txWait := AMap.erase s.ports.txWait port },
                    lrn := { s.lrn with heldEg := AMap.set s.lrn.heldEg p (held.filter fun h => h.2.copy.slip.outPort != port) } }
  let s := (held.filter fun h => h.2.copy.slip.outPort == port).foldl (fun s h => (s.blk p (256 + 18)).dropSel h.2.copy code) s
  let s := (sel.filter fun c => c.slip.outPort == port).foldl (fun s c => (s.blk p (256 + 18)).dropSel c code) s
  wait.foldl (fun s c => (s.blk p (256 + 18)).dropWaiting c code) s

/-- Whether a slip is queued for a port, in one class when a class is named. -/
def State.isFor (s : State) (port : Nat) (cls : Option Nat) (id : Nat) : Bool :=
  match s.slip? id with
  | some x => x.outPort == port && (match cls with | some c => x.cls == c | none => true)
  | none => false

/-- The first slip, in queue order, that a walk of a port frees: its queue and its number. -/
def State.walkHead (s : State) (port : Nat) (cls : Option Nat) : Option (Nat × Nat) :=
  (sortNat ((s.fwd.queues.filter fun q => decide (q.1 / 8192 = port / 32) && q.2.any (s.isFor port cls)).map (·.1))).head?.bind
    fun q => ((s.queue q).find? (s.isFor port cls)).map fun id => (q, id)

/-- Whether a port has queued slips. -/
def State.queued (s : State) (port : Nat) : Bool := (s.walkHead port none).isSome

/-! ### Timers -/

/-- Stops a port's hold-up timer. -/
def State.stopHold (s : State) (port : Nat) : State :=
  { s.setPrt fPRT_STATE_HOLD_TIMER port 0 with ports := { s.ports with holdUp := AMap.erase s.ports.holdUp port } }

/-- Starts a port's hold-up timer. -/
def State.startHold (s : State) (port : Nat) : State :=
  { s.setPrt fPRT_STATE_HOLD_TIMER port 1 with
    ports := { s.ports with holdUp := AMap.set s.ports.holdUp port (s.tim.rc + ms (s.prt fPRT_TIMERS_HOLD_UP_MS port)) } }

/-- Stops a port's down-hold timer. -/
def State.stopDown (s : State) (port : Nat) : State :=
  { s with ports := { s.ports with downHold := AMap.erase s.ports.downHold port } }

/-! ### The state machine (R72) -/

/-- A port enters UP: member-live, the event LINK_UP. -/
def State.enterUp (s : State) (port : Nat) : State :=
  let s := (s.stopHold port).setPrt fPRT_STATE_STATE port psUP
  let s := (s.setPrt fPRT_STATE_LIVE port 1).setPrt fPRT_EVENTS_LINK_UP port 1
  s.event 0x08 (port / 32) port

/-- What a rise of LINK_RAW does in DOWN. -/
def State.riseDown (s : State) (port : Nat) : State :=
  if s.prt fPRT_TIMERS_HOLD_UP_MS port = 0 then s.enterUp port
  else (s.startHold port).setPrt fPRT_STATE_STATE port psHOLD_UP

/-- A port enters DISABLED: timers are cancelled, the receive path is held idle, so that a frame in reception is cut short, and LINK_RAW is
forced to 0 (R71). Its transmitter is squelched (`State.txLine`). -/
def State.disable (s : State) (port : Nat) : State :=
  let s := (((s.stopHold port).stopDown port).truncate port).setPrt fPRT_STATE_LINK_RAW port 0
  let s := (s.setPrt fPRT_STATE_ALIGNED port 0).setPrt fPRT_STATE_AN_DONE port 0
  s.setPrt fPRT_STATE_STATE port psDISABLED

/-- A port leaves UP for FLUSH: its transmission ends, its selected copies are dropped and the walk starts (R72, R74). -/
def State.toFlush (s : State) (port : Nat) : State :=
  let s := (s.stopDown port).endEarly port true
  let s := (s.setPrt fPRT_STATE_STATE port psFLUSH).setPrt fPRT_EVENTS_LINK_DOWN port 1
  (s.dropSelected port 0x80).startWalk port none

/-- The link is down: FLUSH, forget if flagged (R75), and the event LINK_DOWN. -/
def State.linkDown (s : State) (port : Nat) : State :=
  let s := s.toFlush port
  let s := if s.prt fPRT_CFG_FORGET_ON_DOWN port = 1 then
      { s with clerk := { s.clerk with forgets := s.clerk.forgets ++ [(port, 0)] } }
    else s
  s.event 0x09 (port / 32) port

/-- A port enters SAFE (R72, R84): transmission ends by the fault's ordered sets, member-live is cleared, and the walk starts when
its queues are not empty. A DISABLED port stays DISABLED. -/
def State.enterSafe (s : State) (port : Nat) : State :=
  let st := s.portState port
  let s := { s with ports := { s.ports with safe := port :: s.ports.safe.filter (· != port) } }
  if st = psDISABLED ∨ st = psSAFE then s
  else
    let s := (s.endEarly port false).setPrt fPRT_STATE_STATE port psSAFE
    let s := (s.setPrt fPRT_EVENTS_SAFE_ENTERED port 1).clearLive port
    let s := s.dropSelected port 0x82
    if s.queued port then s.startWalk port none else s

/-- Whether a walk of all of a port's queues runs. -/
def State.walking (s : State) (port : Nat) : Bool := s.ports.walks.any fun w => w.1 == port && w.2 == none

/-- A port leaves SAFE once the reaction has lifted and the walk has ended (R72). -/
def State.leaveSafe (s : State) (port : Nat) : State :=
  if s.portState port ≠ psSAFE ∨ port ∈ s.ports.safe ∨ s.walking port then s
  else if s.prt fPRT_CFG_ADMIN port = 0 then s.disable port
  else
    let s := ((s.stopHold port).stopDown port).setPrt fPRT_STATE_STATE port psDOWN
    if s.prt fPRT_STATE_LINK_RAW port = 1 then s.riseDown port else s

/-- The SAFE reaction of a port's domain has lifted. -/
def State.liftSafe (s : State) (port : Nat) : State :=
  ({ s with ports := { s.ports with safe := s.ports.safe.filter (· != port) } }).leaveSafe port

/-- `ADMIN` is written (R72): the register field already holds the new value. -/
def State.adminSet (s : State) (port : Nat) (on : Bool) : State :=
  let st := s.portState port
  if on then
    (if st = psDISABLED then
      let s := s.setPrt fPRT_STATE_STATE port psDOWN
      if port ∈ s.ports.safe then s.enterSafe port else s
    else s)
  else if st = psDOWN ∨ st = psHOLD_UP then s.disable port
  else if st = psUP then (s.clearLive port).toFlush port
  else s

/-- A port in FLUSH moves on when its walk has ended (R72). With LINK_RAW 1 and a hold-up timer that never started, for which the table has no
row, it enters UP (DESIGN CHOICE, assumption log 44). -/
def State.afterFlush (s : State) (port : Nat) : State :=
  if s.portState port ≠ psFLUSH then s
  else if s.prt fPRT_CFG_ADMIN port = 0 then s.disable port
  else if s.prt fPRT_STATE_LINK_RAW port = 0 then s.setPrt fPRT_STATE_STATE port psDOWN
  else if s.prt fPRT_STATE_HOLD_TIMER port = 1 then s.setPrt fPRT_STATE_STATE port psHOLD_UP
  else s.enterUp port

/-! ### Lane events (R71, R72, R76) -/

/-- Where the board takes a transmit lane of an octet, and whether it is inverted (R65, R441): `PRT_OCT_TXMAP` gives the lane at the balls of each
logical lane. The lanes of `PRT_LANE_CFG` are taken as logical lanes (DESIGN CHOICE, assumption log 44). -/
def State.txRoute (s : State) (lane : Nat) : Nat × Bool :=
  let w := (s.rg .PRT_OCT_TXMAP (lane / 32) (lane % 32 / 8)).toNat
  (lane / 8 * 8 + bitsOf w (3 * (lane % 8) + 2) (3 * (lane % 8)), s.on fPRT_LANE_CFG_TX_INVERT (lane / 32) (lane % 32))

/-- The lane at the balls from which a logical lane receives (R65, R441). -/
def State.rxRoute (s : State) (lane : Nat) : Nat :=
  let w := (s.rg .PRT_OCT_RXMAP (lane / 32) (lane % 32 / 8)).toNat
  lane / 8 * 8 + bitsOf w (3 * (lane % 8) + 2) (3 * (lane % 8))

/-- The lanes of a port (R64). -/
def State.portLanes (s : State) (port : Nat) : List Nat :=
  (List.range (modeLanes (s.octMode port))).map fun i => s.lowLane port + i

/-- Sets the lock bits of a lane. -/
def State.laneLock (s : State) (lane : Nat) (on : Bool) : State :=
  let p := lane / 32
  let l := lane % 32
  ((s.wr fPRT_LANE_STATUS_SIG_DET (b2n on) p l).wr fPRT_LANE_STATUS_CDR_LOCK (b2n on) p l).wr fPRT_LANE_STATUS_BLOCK_LOCK (b2n on) p l

/-- Whether auto-negotiation and training are complete where they are enabled. -/
def State.anOk (s : State) (port : Nat) : Bool :=
  let p := port / 32
  let q := port % 32 / 8
  s.prt fPRT_STATE_AN_DONE port == 1 || !(s.on fPRT_OCT_MODE_AN_EN p q || s.on fPRT_OCT_MODE_TRAIN_EN p q)

/-- Whether LINK_RAW can rise on a port when its lanes lock (R71); it is 0 while the chiplet's die-to-die link is down (R431). -/
def State.canRise (s : State) (port : Nat) : Bool :=
  s.portExists port && s.portState port != psDISABLED && s.prt fPRT_STATE_LINK_RAW port == 0 &&
  s.on fPRT_OCT_STATUS_READY (port / 32) (port % 32 / 8) && s.on fCKR_D2D_STATUS_UP 0 (port / 32) && s.anOk port

/-- The recovered clock that a SyncE output carries (R61): its lane's while that lane's CDR is locked, in mode 1 the backup lane's
otherwise, or none (squelched low). A disabled output is squelched. -/
def State.synceUpdate (s : State) (j : Nat) : State :=
  let locked := fun (l : Nat) => s.on fPRT_LANE_STATUS_CDR_LOCK (l / 32) (l % 32)
  let lane := s.rd fTIM_SYNCE_LANE 0 j
  let back := s.rd fTIM_SYNCE_BACKUP 0 j
  if !bitOf (s.rd fTIM_SYNCE_EN_EN) j then s.wr fTIM_SYNCE_SQUELCHED 1 0 j
  else if locked lane then (s.wr fTIM_SYNCE_ACTIVE lane 0 j).wr fTIM_SYNCE_SQUELCHED 0 0 j
  else if s.on fTIM_SYNCE_MODE 0 j && locked back then (s.wr fTIM_SYNCE_ACTIVE back 0 j).wr fTIM_SYNCE_SQUELCHED 0 0 j
  else s.wr fTIM_SYNCE_SQUELCHED 1 0 j

/-- LINK_RAW rises (R72). The lanes of `PRT_LANE_STATUS` and `PRT_LANE_TXEQ` are taken as the port's logical lanes, and a damped flap leaves the
member-live bit that the fall cleared at 0, since R76 sets it only when the port enters UP (both DESIGN CHOICE, assumption log 44). -/
def State.linkRise (s : State) (port : Nat) : State :=
  let s := (s.portLanes port).foldl (fun s l => s.laneLock l true) s
  let s := (s.synceUpdate 0).synceUpdate 1
  let s := (s.setPrt fPRT_STATE_LINK_RAW port 1).setPrt fPRT_STATE_ALIGNED port 1
  let s := (s.setPrt fPRT_STATE_LF port 0).setPrt fPRT_STATE_RF port 0
  let st := s.portState port
  if st = psDOWN then s.riseDown port
  else if st = psUP then ((s.stopDown port).count 1 port 84 1).setPrt fPRT_EVENTS_DAMPED port 1
  else if st = psFLUSH then s.startHold port
  else s

/-- LINK_RAW_RISE (R72): the last condition of R71 comes to hold on a port. -/
def execLinkRawRise (port : Nat) (s : State) : Out := .next (if s.canRise port then s.linkRise port else s)

/-- What a lane event leaves in the status registers: 0 a lane loses its signal, 1 alignment or FEC synchronisation is lost, 2 a Local
Fault is received, 3 a Remote Fault. -/
def State.laneEvent (s : State) (port lane cause : Nat) : State :=
  match cause with
  | 0 => (((s.laneLock lane false).synceUpdate 0).synceUpdate 1).setPrt fPRT_STATE_ALIGNED port 0
  | 1 => s.setPrt fPRT_STATE_ALIGNED port 0
  | 2 => s.setPrt fPRT_STATE_LF port 1
  | _ => s.setPrt fPRT_STATE_RF port 1

/-- LINK_RAW goes to 0 (R71, R72, R76): the frame in reception is cut short, member-live is cleared, and the state machine moves. -/
def State.linkDrop (s : State) (port : Nat) : State :=
  let s := (s.setPrt fPRT_STATE_LINK_RAW port 0).truncate port
  let s := s.clearLive port
  let st := s.portState port
  if st = psHOLD_UP then (s.stopHold port).setPrt fPRT_STATE_STATE port psDOWN
  else if st = psFLUSH then s.stopHold port
  else if st = psUP then
    if s.prt fPRT_TIMERS_DOWN_HOLD_MS port = 0 then s.linkDown port
    else { s with ports := { s.ports with
      downHold := AMap.set s.ports.downHold port (s.tim.rc + ms (s.prt fPRT_TIMERS_DOWN_HOLD_MS port)) } }
  else s

/-- LINK_RAW falls by a lane event, which RX counter 83 counts (R85). -/
def State.linkFall (s : State) (port : Nat) : State := (s.count 1 port 83 1).linkDrop port

/-- LINK_RAW_FALL (R71): a lane event breaks a condition of R71 on a port whose LINK_RAW is 1. -/
def execLinkRawFall (port lane cause : Nat) (s : State) : Out :=
  .next (if s.portExists port && s.prt fPRT_STATE_LINK_RAW port == 1 then (s.laneEvent port lane cause).linkFall port else s)

/-- HOLD_UP_EXPIRE (R72). Before the timer's time the event changes nothing. -/
def execHoldUpExpire (port : Nat) (s : State) : Out :=
  match AMap.get? s.ports.holdUp port with
  | none => .next s
  | some t =>
    if s.tim.rc < t then .next s
    else
      let s := s.stopHold port
      .next (if s.portState port = psHOLD_UP then s.enterUp port else s)

/-- DOWN_HOLD_EXPIRE (R72). Before the timer's time the event changes nothing. -/
def execDownHoldExpire (port : Nat) (s : State) : Out :=
  match AMap.get? s.ports.downHold port with
  | none => .next s
  | some t =>
    if s.tim.rc < t then .next s
    else
      let s := s.stopDown port
      .next (if s.portState port = psUP then s.linkDown port else s)

/-! ### Walks (R73, R240) -/

/-- Frees one slip for a walk of a port: PORT_FLUSH, or PFC_STORM for a storm walk of a class. -/
def State.walkOne (s : State) (port : Nat) (cls : Option Nat) : State :=
  match s.walkHead port cls with
  | none => s
  | some (q, id) =>
    match s.slip? id with
    | none => s
    | some x =>
      let r := s.takeQueue q port id
      if r.2 then (r.1.blk (port / 32) (256 + 18)).dropCopy x (if cls.isSome then 0x83 else 0x80) (some q) else r.1

/-- Frees up to n slips for a walk. -/
def State.walkN (s : State) (port : Nat) (cls : Option Nat) : Nat → State
  | 0 => s
  | n + 1 => (s.walkOne port cls).walkN port cls n

/-- WALK_FREE (R73): the walker of a port frees up to n slips for the oldest walk it runs. -/
def execWalkFree (port n : Nat) (s : State) : Out :=
  match s.ports.walks.find? (·.1 == port) with
  | none => .next s
  | some w => .next (s.walkN port w.2 n)

/-- Whether a walk has nothing left to free (R240): the queues and the link FIFO hold no copy for it. -/
def State.walkDone (s : State) (port : Nat) (cls : Option Nat) : Bool :=
  (s.walkHead port cls).isNone && !(s.link (port / 32)).any (s.isFor port cls)

/-- WALK_END (R240): the port's walks that have nothing left end, and a port in FLUSH or SAFE moves on. -/
def execWalkEnd (port : Nat) (s : State) : Out :=
  let gone := s.ports.walks.filter fun w => w.1 == port && s.walkDone port w.2
  if gone.isEmpty then .next s
  else
    let s := { s with ports := { s.ports with walks := s.ports.walks.filter fun w => !(w ∈ gone) } }
    if s.walking port then .next s
    else .next ((s.afterFlush port).leaveSafe port)

/-! ### Octets (R63 to R68) -/

/-- The existing ports of an octet. -/
def State.octPorts (s : State) (o : Nat) : List Nat := ((List.range 8).map (8 * o + ·)).filter s.portExists

/-- Whether every existing port of an octet is DISABLED (R66). -/
def State.octIdle (s : State) (o : Nat) : Bool := (s.octPorts o).all fun k => s.portState k == psDISABLED

/-- The FEC code in force for a mode's setting: 0, or the alternative the mode lists (R63). -/
def fecInForce (mode fec : Nat) : Nat := if mode = 13 ∧ fec = 1 then 1 else 0

/-- Applies an octet's mode and FEC (R66): the lanes relock. -/
def State.octApply (s : State) (o mode fec : Nat) : State :=
  let p := o / 4
  let q := o % 4
  let s := (s.wr fPRT_OCT_STATUS_ACTIVE_MODE mode p q).wr fPRT_OCT_STATUS_READY 0 p q
  { s with ports := { s.ports with octAt := AMap.set s.ports.octAt o s.tim.rc, octFec := AMap.set s.ports.octFec o (fecInForce mode fec) } }

/-- OCTET_READY (R66): the lanes of an octet that relocks are locked. -/
def execOctetReady (o : Nat) (s : State) : Out :=
  match AMap.get? s.ports.octAt o with
  | none => .next s
  | some _ => .next { s.wr fPRT_OCT_STATUS_READY (b2n (s.rd fPRT_OCT_STATUS_ACTIVE_MODE (o / 4) (o % 4) != 0)) (o / 4) (o % 4) with
      ports := { s.ports with octAt := AMap.erase s.ports.octAt o } }

/-- The taps that training leaves on a port's lanes (`PRT_LANE_TXEQ`), while `TRAIN_EN` = 1. -/
def State.trained (s : State) (port : Nat) (taps : List Word) : State :=
  if s.on fPRT_OCT_MODE_TRAIN_EN (port / 32) (port % 32 / 8) then
    ((s.portLanes port).zip taps).foldl (fun s x =>
      (s.setRg .PRT_LANE_TXEQ (word (x.2.toNat % 2 ^ 24)) (x.1 / 32) (x.1 % 32)).wr fPRT_LANE_STATUS_TRAIN_DONE 1 (x.1 / 32) (x.1 % 32)) s
  else s

/-- A negotiation or training has not completed: the condition of R71 no longer holds, and LINK_RAW falls if it was 1 (DEDUCED, assumption
log 44: it counts as a lane event). -/
def State.anLost (s : State) (port : Nat) : State :=
  let s := s.setPrt fPRT_STATE_AN_DONE port 0
  if s.prt fPRT_STATE_LINK_RAW port = 1 then s.linkFall port else s

/-- A write of `PRT_OCT_MODE` may ask for a negotiation or a training that has not completed: the condition of R71 no longer holds on the octet's
ports, and LINK_RAW falls (DEDUCED, assumption log 44). -/
def State.octAn (s : State) (o : Nat) : State :=
  (s.octPorts o).foldl (fun s k => if s.prt fPRT_STATE_LINK_RAW k == 1 && !s.anOk k then s.linkFall k else s) s

/-- The only ability that a port advertises (R68): its octet's mode, with the FEC in force for it. -/
def State.advertised (s : State) (port : Nat) : Nat × Nat := (s.octMode port, AMap.getD s.ports.octFec (port / 8) 0)

/-- AN_RESOLVE (R68): auto-negotiation or training of a port completes or fails. With `AN_EN` = 1 the highest common ability that it resolved to must
be the one advertised; with `AN_EN` = 0 only training was run, which resolves nothing. -/
def execAnResolve (port : Nat) (outcome : AnOutcome) (taps : List Word) (s : State) : Out :=
  let p := port / 32
  let q := port % 32 / 8
  if !s.portExists port || s.portState port == psDISABLED ||
      !(s.on fPRT_OCT_MODE_AN_EN p q || s.on fPRT_OCT_MODE_TRAIN_EN p q) then .next s
  else
    .next (match outcome with
      | .failed => ((s.anLost port).setPrt fPRT_EVENTS_AN_FAIL port 1).raise .PRT_AN_FAIL p port
      | .resolved mode fec =>
        if s.on fPRT_OCT_MODE_AN_EN p q && (mode, fec) != s.advertised port then
          ((s.anLost port).setPrt fPRT_EVENTS_AN_MISMATCH port 1).raise .PRT_AN_FAIL p port
        else (s.trained port taps).setPrt fPRT_STATE_AN_DONE port 1)

/-! ### The transmitter's line (R72, R84) -/

/-- What a port's transmitter sends: nothing, Local Fault ordered sets without pause, what 802.3 prescribes for a link that is not up, or
frames and idles. -/
inductive TxLine where
  | squelched
  | localFault
  | notUp
  | frames
  deriving DecidableEq, Repr

/-- What a port's transmitter sends (R72, R84, R404): squelched while the port does not exist, in DISABLED, under a reset, and where a
reaction squelches its chiplet; in SAFE as `SAFE_MODE` says. -/
def State.txLine (s : State) (port : Nat) : TxLine :=
  if !s.portExists port || s.pin.squelch || port / 32 ∈ s.pin.chipSafe then .squelched
  else
    let st := s.portState port
    if st = psDISABLED then .squelched
    else if st = psSAFE then (if s.prt fPRT_CFG_SAFE_MODE port = 1 then .squelched else .localFault)
    else if st = psUP then .frames
    else .notUp

/-- What one lane of a port sends (R404): its port's line, but that a reaction at the lane's own level, or its `TX_DISABLE`, squelches that lane
alone. -/
def State.laneLine (s : State) (port lane : Nat) : TxLine :=
  if lane ∈ s.pin.laneSafe || s.on fPRT_LANE_CFG_TX_DISABLE (lane / 32) (lane % 32) then .squelched else s.txLine port

end Sys2Proof.Machine
end

