-- ==== Sys2Proof/Machine/Snapshot.lean ====
section
/-! DEFINITION. Counter sets, snapshots and conservation (R287 to R296). -/
namespace Sys2Proof.Machine

/-! ### Counter sets (R287) -/

/-- The elements of a set and the counters in one element. -/
def setInfo : Nat → Nat × Nat
  | 1 => (256, 128)
  | 2 => (256, 128)
  | 3 => (524288, 2)
  | 4 => (68352, 1)
  | 5 => (68352, 1)
  | 6 => (65560, 4)
  | 7 => (4194304, 1)
  | 8 => (131072, 2)
  | 9 => (32768, 2)
  | 10 => (262144, 8)
  | 11 => (65536, 8)
  | 12 => (256, 8)
  | 13 => (16384, 4)
  | 14 => (8192, 1)
  | 15 => (8, 8)
  | _ => (0, 0)

/-- The port of a counter of a set that is kept by port. -/
def setPort (set elem : Nat) : Option Nat :=
  if set = 1 ∨ set = 2 then some elem
  else if set = 3 then some (elem / 2048)
  else if set = 4 ∨ set = 5 then some (elem / 256)
  else none

/-- Whether a counter reads 0 because its port does not exist (R64, R287). -/
def State.cntHidden (s : State) (set elem : Nat) : Bool :=
  match setPort set elem with
  | some p => decide (p < 256) && !s.portExists p
  | none => false

/-- The pipeline whose Archive counters count events of a counter word: that of its port or element, pipeline 0 where it has none. -/
def cntHome (set elem : Nat) : Nat :=
  match set with
  | 1 => elem / 32
  | 2 => elem / 32
  | 3 => elem / 65536
  | 4 => if elem / 256 < 264 then egPipe (elem / 256) else 0
  | 5 => if elem / 256 < 264 then egPipe (elem / 256) else 0
  | 6 => if elem < 65536 then elem / 8192 else 0
  | 7 => elem / 524288
  | 8 => elem / 16384
  | 9 => elem / 4096
  | 10 => elem / 32768
  | 11 => elem / 8192
  | 12 => elem / 32
  | 14 => elem / 1024
  | 15 => elem
  | _ => 0

/-- The number of an element over all sets in ID order: the index by which the injector names it (R417; which set an index falls in is
not stated, DESIGN CHOICE, assumption log 15). -/
def cntIndex (set elem : Nat) : Nat := ((List.range set).map fun i => (setInfo i).1).sum + elem

/-- The value of a counter that a snapshot at the present epoch takes: the saved one where it exists, the live one otherwise (R292). -/
def State.captured (s : State) (set elem idx : Nat) : Nat :=
  if s.cntHidden set elem then 0 else (AMap.get? s.saved (set, elem, idx)).getD (s.cnt set elem idx)

/-- The live value that software reads. -/
def State.cntRead (s : State) (set elem idx : Nat) : Nat := if s.cntHidden set elem then 0 else s.cnt set elem idx

/-- Restores a counter word whose check code is uncorrectable (R296): from the last complete snapshot that held its set, otherwise to
0. The conservation tallies are held twice and lose nothing. -/
def State.restoreCnt (s : State) (set elem idx : Nat) : State :=
  if set = 15 then s
  else
    let v := if bitOf s.arc.lastMask set then AMap.getD s.arc.lastSnap (set, elem, idx) 0 else 0
    let s := { s with cnts := AMap.set s.cnts (set, elem, idx) v }
    let s := { s with arc := { s.arc with restored := s.arc.restored ||| 2 ^ set } }
    let s := (s.unmark 0x23 15 0 (cntIndex set elem)).blk (cntHome set elem) (384 + 11)
    s.raise .ARC_CNT_LOST 0 (set * 2 ^ 24 + elem)

/-- COUNTER_RESTORE (R296) of a counter of the fifteen sets. -/
def execCounterRestore (set elem idx : Nat) (s : State) : Out :=
  .next (if elem < (setInfo set).1 ∧ idx < (setInfo set).2 then s.restoreCnt set elem idx else s)

/-- A corrected read of a counter word or a tally (R296, R306). -/
def State.cntCorrected (s : State) (p index : Nat) : State := (s.blk p (384 + 10)).raise .ARC_ECC_CORR 0 index

/-- A read of a pipeline's tallies finds their check codes: each is held twice, so that every bad copy is corrected from the other. -/
def State.tallyCheck (s : State) (p : Nat) : State :=
  let bad := (s.flt.marks.filter fun m => m.1 == 0x24 && m.2.1 == p).map fun m => (m.2.2.1, m.2.2.2.1)
  bad.foldl (fun s m => (s.unmark 0x24 p m.1 m.2).cntCorrected p m.2) s

/-- A read of a counter word finds its check code: a correctable error is corrected and counted, an uncorrectable one restored. -/
def State.cntCheck (s : State) (set elem idx : Nat) : State :=
  if set = 15 then s.tallyCheck elem
  else match s.marked 0x23 15 0 (cntIndex set elem) with
    | some true => s.restoreCnt set elem idx
    | some false => (s.unmark 0x23 15 0 (cntIndex set elem)).cntCorrected (cntHome set elem) (cntIndex set elem)
    | none => s

/-- The set and element of an index over all sets, if there is one. -/
def cntOf (index : Nat) : Option (Nat × Nat) :=
  ((List.range 16).find? fun i => decide (cntIndex i 0 ≤ index) && decide (index < cntIndex i 0 + (setInfo i).1)).map
    fun i => (i, index - cntIndex i 0)

/-- The scan of a snapshot reads every word of its sets (R292), the first word of an element whose check code is bad among them (DESIGN
CHOICE, assumption log 15), and the tallies. -/
def State.scanCheck (s : State) (mask : Nat) : State :=
  let bad := (s.flt.marks.filter fun m => m.1 == 0x23).filterMap fun m => cntOf m.2.2.2.1
  let s := (bad.filter fun k => bitOf mask k.1).foldl (fun s k => s.cntCheck k.1 k.2 0) s
  (List.range 8).foldl (fun s p => s.tallyCheck p) s

/-! ### Times that accumulate (R288) -/

/-- Paused and XOFF times are split exactly at an instant at which they are captured: what has run up to a running count is counted before a
course time, below 1 ns apart, which is kept. -/
def State.settleAt (s : State) (rc t : Nat) : State :=
  let s := (s.ports.pause.map (·.1)).foldl (fun s k =>
    let d := rc - AMap.getD s.ports.pauseAcc k rc
    if d = 0 then s
    else { s.countAt 1 k.1 (48 + k.2) (d / nsU) t with ports := { s.ports with pauseAcc := AMap.set s.ports.pauseAcc k (rc - d % nsU) } }) s
  s.ports.xoffAt.foldl (fun s x =>
    let k := (x.1.1, s.fcPrio x.1.1 x.1.2)
    if rc ≤ x.2 then s
    else
      let d := rc - x.2 + AMap.getD s.ports.xoffRem k 0
      { s.countAt 2 k.1 (48 + k.2) (d / nsU) t with ports := { s.ports with
          xoffAt := AMap.set s.ports.xoffAt x.1 rc, xoffRem := AMap.set s.ports.xoffRem k (d % nsU) } }) s

/-- The accumulated times are brought up to date, as a read of their counters sees them. -/
def State.settle (s : State) : State := s.settleAt s.tim.rc s.tim.ct

/-! ### Conservation (R294, R295) -/

/-- The copies of a pipeline that are inside the EF9 now: their entry has been counted and their leaving has not (R294). -/
def State.inside (s : State) (p : Nat) : Nat :=
  let ingOf := fun (x : Slip) => match s.frameOf x with | some st => st.ingPipe | none => egPipe x.outPort
  let slips := (s.fwd.slips.filter fun x => ingOf x == p).length
  let gone := (s.ports.txNow.filter fun c => ingOf c.2.slip == p).length
  let rx := (s.fwd.rx.filter fun x => x.port / 32 == p && x.fate == .waiting).length
  let loops := (s.fwd.loops.map fun l => (l.2.filter (·.ingPipe == p)).length).sum
  let inj := (s.fwd.inject.map fun l => (l.2.filter (·.pipe == p)).length).sum
  let held := (s.lrn.held.map fun l => (l.2.filter (·.2.1.ingPipe == p)).length).sum
  slips - gone + rx + loops + inj + held

/-- The census of a pipeline at the T of a snapshot that fires: the copies inside now, without those whose entry and with those whose leaving
was counted at T or later (R294). -/
def State.census (s : State) (p : Nat) : Nat :=
  let after := fun (i : Nat) => s.cnt 15 p i - AMap.getD s.saved (15, p, i) (s.cnt 15 p i)
  s.inside p + (after 2 + after 3 + after 4) - (after 0 + after 1)

/-- The residual of a pipeline in the present epoch (R295). -/
def State.residual (s : State) (p res : Nat) : Int :=
  let t := fun (i : Nat) => ((s.captured 15 p i : Nat) : Int)
  t 0 + t 1 - t 2 - t 3 - t 4 - res

/-! ### Snapshots (R290 to R293) -/

/-- The sets of a mask, in ascending ID order. -/
def maskSets (mask : Nat) : List Nat := (List.range 16).filter fun i => decide (1 ≤ i) && bitOf mask i

/-- The bytes of a set's section without its header. -/
def setBytes (i : Nat) : Nat := (setInfo i).1 * (setInfo i).2 * 8

/-- The length of a snapshot of a mask (R292, R293). -/
def snapLen (mask : Nat) : Nat := 64 + ((maskSets mask).map fun i => 16 + setBytes i).sum

/-- The bytes of whole bursts that a snapshot takes up in its region: the scan only writes (R320), so it never shares a burst with another
(DESIGN CHOICE, assumption log 14). -/
def snapSpan (mask : Nat) : Nat := (snapLen mask + 63) / 64 * 64

/-- The size of the snapshot region, 0 when none is defined. -/
def State.snapSize (s : State) : Nat := if s.rd fARC_SNAP_SIZE_LOG2 = 0 then 0 else 2 ^ s.rd fARC_SNAP_SIZE_LOG2

/-- A SNAPSHOT trigger fires at T (R291, R292): a new epoch, which keeps the values saved by updates counted at T or later, or a skip while a
scan runs or the region lacks room. -/
def State.snapFire (s : State) (t : Nat) (late : Bool) (mask : Nat) : State :=
  let mask := mask ||| 2 ^ 15
  if s.arc.scan.isSome || decide (s.snapSize < s.arc.snapUsed + snapSpan mask) then
    let s := s.addSat fARC_SNAP_STATUS_OVERRUN 1
    let s := { s with arc := { s.arc with snapSkipped := min 65535 (s.arc.snapSkipped + 1) } }
    { s with saved := if s.epoch.isNone then [] else s.saved }.raise .ARC_SNAP_OVERRUN
  else
    let s := s.settleAt (if t ≤ s.tim.ct then s.tim.rc - (s.tim.ct - t) else s.tim.rc) (t - 1)
    let res := (List.range 8).map s.census
    { s with epoch := some t, arc := { s.arc with scan := some ⟨t, s.tstate, late, mask, s.tim.rc, false, res, none⟩ } }

/-- SNAPSHOT_SCAN_START (R291): 10 µs after the firing the scan starts. Before that the event changes nothing. -/
def execSnapshotScanStart (s : State) : Out :=
  match s.arc.scan with
  | none => .next s
  | some x =>
    if x.started || decide (s.tim.rc < x.rc + ns 10000) then .next s
    else .next { s.wr fARC_SNAP_STATUS_SCANNING 1 with arc := { s.arc with scan := some { x with started := true } } }

/-- Abandons a scan in progress (R290): its header is never written. -/
def State.dropScan (s : State) : State :=
  match s.arc.scan with
  | none => s
  | some _ => { s.wr fARC_SNAP_STATUS_SCANNING 0 with epoch := none, saved := [], arc := { s.arc with scan := none } }

/-- A 64-bit counter's bytes, low word first. -/
def cntBytes (v : Nat) : List Byte := wordBytes (word v) ++ wordBytes (word (v / 2 ^ 32))

/-- The value at a place of a section: a captured counter, or an element of CONSERVE (R295). -/
def State.snapValue (s : State) (x : Scan) (set elem idx : Nat) : Nat :=
  if set = 15 then
    if idx < 5 then s.captured 15 elem idx
    else if idx = 5 then x.res.getD elem 0
    else if idx = 6 then (s.residual elem (x.res.getD elem 0) % (2 ^ 64 : Nat)).toNat
    else 0
  else s.captured set elem idx

/-- A section with its header (R293). -/
def State.section_ (s : State) (x : Scan) (i : Nat) : List Byte :=
  let n := setInfo i
  ([word i, word (n.2 * 8), word n.1, 0].map wordBytes).flatten ++
  ((List.range n.1).map fun e => ((List.range n.2).map fun k => cntBytes (s.snapValue x i e k)).flatten).flatten

/-- Writes bytes to a ring region of archive memory, wrapping at its end (where in its region a record lies is not stated: DESIGN
CHOICE, assumption log 14). -/
def State.ringWrite (s : State) (base size off : Nat) (bs : List Byte) : State :=
  let o := off % size
  let n := size - o
  (s.memWrite 0 (base + o) (bs.take n)).memWrite 0 base (bs.drop n)

/-- The snapshot header (R293). -/
def State.snapHeader (s : State) (x : Scan) (fails crc : Nat) : List Byte :=
  let n := snapLen x.mask
  let ws := [word (1 + 1 * 2 ^ 8 + x.tstate * 2 ^ 16 + b2n x.late * 2 ^ 18), word (s.arc.snapSeq + 1),
    word (s.arc.snapSkipped + (maskSets x.mask).length * 2 ^ 16)] ++ ctWords x.t ++
    [word n, word (n / 2 ^ 32), word x.mask, word (s.arc.restored &&& x.mask), word fails, 0, 0, 0, 0, word crc]
  (ws.map wordBytes).flatten

/-- The pipelines whose residual has changed since the last complete snapshot. -/
def State.consFails (s : State) (x : Scan) : List Nat :=
  (List.range 8).filter fun p => s.residual p (x.res.getD p 0) != (s.arc.resid.getD p 0)

/-- Reports the pipelines that failed conservation (R295). -/
def State.consReport (s : State) (fails : List Nat) (seq : Nat) : State :=
  let s := match fails with
    | [] => s
    | p :: _ => if s.on fARC_CONS_LAST_VALID then s
      else ((s.wr fARC_CONS_LAST_VALID 1).wr fARC_CONS_LAST_PIPE p).wr fARC_CONS_LAST_SEQ seq
  fails.foldl (fun s p => s.raise .ARC_CONSERVE p seq) s

/-- The scan has written every section and writes the header: the snapshot is complete (R292 to R296). -/
def State.snapComplete (s : State) (x : Scan) : State :=
  let secs := ((maskSets x.mask).map (s.section_ x)).flatten
  let fails := s.consFails x
  let seq := (s.arc.snapSeq + 1) % 2 ^ 32
  let head := s.snapHeader x ((fails.map (2 ^ ·)).sum) (crc32 0 0xFFFFFFFF secs)
  let resid := (List.range 8).map fun p => s.residual p (x.res.getD p 0)
  let inMask := fun (k : Nat × Nat × Nat) => bitOf x.mask k.1
  let now := (s.cnts.filter fun (c : (Nat × Nat × Nat) × Nat) => inMask c.1).map
    fun (c : (Nat × Nat × Nat) × Nat) => (c.1, s.captured c.1.1 c.1.2.1 c.1.2.2)
  let n := snapLen x.mask
  let span := snapSpan x.mask
  let s' := s.ringWrite s.snapBase s.snapSize s.arc.snapHead (head ++ secs ++ List.replicate (span - n) 0)
  let s' := { s' with epoch := none, saved := [], arc := { s'.arc with
    scan := none, snapSeq := seq, snapSkipped := 0, resid := resid, restored := s'.arc.restored &&& (65535 - x.mask),
    lastSnap := now ++ s'.arc.lastSnap.filter (fun (c : (Nat × Nat × Nat) × Nat) => !inMask c.1), lastMask := s'.arc.lastMask ||| x.mask,
    snaps := s'.arc.snaps ++ [(⟨s'.arc.snapHead % s.snapSize, n, seq⟩ : Snap)], snapHead := (s'.arc.snapHead + span) % s.snapSize,
    snapUsed := s'.arc.snapUsed + span } }
  (s'.wr fARC_SNAP_STATUS_SCANNING 0).consReport fails seq

/-- The scan's bytes per ns: 64 with all four channels, 32 with two and 16 with one (R292, R314). -/
def State.scanRate (s : State) : Nat := 8 * s.dramN

/-- SNAPSHOT_COMPLETE (R292): the scan has reached its end at its rate. Before that the event changes nothing. -/
def execSnapshotComplete (s : State) : Out :=
  match s.arc.scan with
  | none => .next s
  | some x =>
    if !x.started || decide (s.tim.rc < x.rc + ns 10000 + snapLen x.mask * nsU / s.scanRate) then .next s
    else .next (s.archUnit 0 fun s => (s.scanCheck x.mask).snapComplete x)

end Sys2Proof.Machine
end

