-- ==== Sys2Proof/Machine/RegRules.lean ====
section
/-! DEFINITION. The value and state rules of the registers: which word a register refuses, and with which cause (R32, R54, R63 to R66,
R77, R104, R116, R144, R202, R222, R261, R263, R275, R297, R302, R308, R330, R341, R383, R414, R422 and the register tables).
Where a table gives a range or a reserved code without the word "refused", a value outside it is refused as the other ranges are
(DEDUCED, assumption log 16). -/
namespace Sys2Proof.Machine

/-- The causes of `HST_REJECT_LOG.CAUSE`, in the order of their codes. -/
inductive Cause where
  | notOwner | sameRound | expertClosed | badValue | badState | badAccess | guarded
  deriving DecidableEq, Repr

/-- The code of a cause. -/
def Cause.code : Cause → Nat
  | .notOwner => 0
  | .sameRound => 1
  | .expertClosed => 2
  | .badValue => 3
  | .badState => 4
  | .badAccess => 5
  | .guarded => 6

/-- Fields with one range of values that does not depend on other fields: field, least and greatest value. -/
def fldRanges : Reg → List (Fld × Nat × Nat)
  | .TIM_CFG => [(fTIM_CFG_REF_FREQ, 0, 2)]
  | .TIM_PPS_WIN => [(fTIM_PPS_WIN_WINDOW_NS, 10, 100000)]
  | .TIM_TOD_CFG => [(fTIM_TOD_CFG_RX_MODE, 0, 1)]
  | .TIM_PPS_OUT => [(fTIM_PPS_OUT_WIDTH_US, 1, 500000)]
  | .TIM_CAL_CTRL => [(fTIM_CAL_CTRL_PERIOD_MS, 100, 10000)]
  | .TIM_SYNCE => [(fTIM_SYNCE_FREQ_SEL, 0, 2)]
  | .TIM_GPIO_CFG => [(fTIM_GPIO_CFG_MODE, 0, 2)]
  | .CLE_MIRROR_CFG => [(fCLE_MIRROR_CFG_STALL_US, 100, 10000)]
  | .CLE_REPAIR_CFG => [(fCLE_REPAIR_CFG_FENCE_LIMIT, 1, 65535), (fCLE_REPAIR_CFG_FENCE_TIMEOUT_US, 10, 10000)]
  | .CLE_ED_TIMEOUT => [(fCLE_ED_TIMEOUT_TIMEOUT_US, 10, 100000)]
  | .FLT_SCOPE_CFG => [(fFLT_SCOPE_CFG_Q_MS, 1, 60000)]
  | .FLT_SCOPE_WIN => [(fFLT_SCOPE_WIN_REC_WINDOW_S, 1, 65535)]
  | .FLT_INJECT => [(fFLT_INJECT_CHECKER, 0x01, 0x27), (fFLT_INJECT_REPLICA, 0, 2)]
  | .FOL_FL_CTRL => [(fFOL_FL_CTRL_OP, 0, 2)]
  | .RAT_CAP_HOST => [(fRAT_CAP_HOST_CAP_W, 100, 800)]
  | .RAT_CAP_BOARD => [(fRAT_CAP_BOARD_CAP_W, 100, 800)]
  | .RAT_LOOP => [(fRAT_LOOP_GAIN, 1, 15), (fRAT_LOOP_E_PJ, 1, 65535)]
  | .RAT_OVER => [(fRAT_OVER_PERIODS, 1, 65535)]
  | .DRM_SCHED => [(fDRM_SCHED_AGE_NS, 100, 65535), (fDRM_SCHED_WR_HI, 0, 48)]
  | .DRM_ARB => [(fDRM_ARB_SCRUB, 1, 15), (fDRM_ARB_HOST, 1, 15), (fDRM_ARB_EXPORT, 1, 15), (fDRM_ARB_CAPTURE, 1, 15),
      (fDRM_ARB_LEDGER, 1, 15), (fDRM_ARB_SCAN, 1, 15)]
  | .DRM_REF => [(fDRM_REF_POSTPONE, 0, 4)]
  | .DRM_TRAIN => [(fDRM_TRAIN_ZQ_MS, 1, 1000)]
  | .DRM_SCRUB => [(fDRM_SCRUB_PERIOD_H, 1, 255)]
  | .ARC_LEDGER_CFG => [(fARC_LEDGER_CFG_LOG2_RECS, 16, 26)]
  | .ARC_FLOW_TIMERS => [(fARC_FLOW_TIMERS_ACTIVE_S, 1, 3600), (fARC_FLOW_TIMERS_IDLE_MS, 1, 60000)]
  | .ARC_CAP_CFG => [(fARC_CAP_CFG_LOG2_RECS, 10, 24)]
  | .ARC_CAP_RATE => [(fARC_CAP_RATE_RATE, 1, 100000000)]
  | .KST_SCRUB => [(fKST_SCRUB_BUCKET_PERIOD_MS, 10, 1000), (fKST_SCRUB_OVF_PERIOD_US, 10, 1000)]
  | .BRS_SCRUB => [(fBRS_SCRUB_BUCKET_PERIOD_MS, 10, 1000), (fBRS_SCRUB_OVF_PERIOD_US, 10, 1000)]
  | .BRS_AGE_CFG => [(fBRS_AGE_CFG_PERIOD_S, 0, 3600)]
  | .STB_MIRROR => [(fSTB_MIRROR_DEST, 0, 266)]
  | .PRT_OCT_MODE => [(fPRT_OCT_MODE_MODE, 0, 14)]
  | .PRT_CFG => [(fPRT_CFG_LOOPBACK, 0, 2), (fPRT_CFG_MAX_FRAME, 1518, 9600)]
  | .PRT_TIMERS => [(fPRT_TIMERS_HOLD_UP_MS, 0, 10000), (fPRT_TIMERS_DOWN_HOLD_MS, 0, 10000)]
  | .PRT_FC_CFG => [(fPRT_FC_CFG_MODE, 0, 2)]
  | .PRT_PFC_WD => [(fPRT_PFC_WD_RESTORE_MS, 1, 1000), (fPRT_PFC_WD_WD_MS, 1, 1000)]
  | .PRT_LANE_CFG => [(fPRT_LANE_CFG_PRBS, 0, 5)]
  | .RDR_CFG => [(fRDR_CFG_TRAIL_MAX, 0, 32)]
  | .RDR_DISC_A => [(fRDR_DISC_A_OFF_HI, 0, 191), (fRDR_DISC_A_OFF_LO, 0, 191)]
  | .RDR_DISC_B => [(fRDR_DISC_B_OFF_HI, 0, 191), (fRDR_DISC_B_OFF_LO, 0, 191)]
  | .RDR_SCRUB => [(fRDR_SCRUB_PERIOD_US, 100, 10000)]
  | .CAT_CFG => [(fCAT_CFG_SPLIT_E, 0, 8), (fCAT_CFG_SPLIT_I, 0, 24)]
  | .CAT_SCRUB => [(fCAT_SCRUB_PERIOD_US, 100, 1000)]
  | .FAR_SCRUB => [(fFAR_SCRUB_PERIOD_US, 100, 1000)]
  | .HAR_CAD_CYCLE => [(fHAR_CAD_CYCLE_CYCLE_NS, 1000, 1000000000)]
  | .HAR_CAD_LEN => [(fHAR_CAD_LEN_LEN, 0, 256)]
  | _ => []

/-- A field of a word. -/
def inW (f : Fld) (w : Nat) : Nat := bitsOf w f.hi f.lo

/-- Whether a 24-bit map of eight 3-bit entries is a permutation (R65, R77). -/
def isPerm (w : Nat) : Bool := (List.range 8).all fun v => (List.range 8).any fun i => bitsOf w (3 * i + 2) (3 * i) == v

/-- Whether a domain value is one of R400: a level up to 4, an instance in range and no other bit (R414). -/
def domainOk (d : Nat) : Bool :=
  let i := bitsOf d 8 0
  bitsOf d 12 9 == 0 &&
    match bitsOf d 15 13 with
    | 0 => decide (i < 256)
    | 1 => decide (i < 256)
    | 2 => decide (i < 8)
    | 3 => decide (i < 8)
    | 4 => i == 0
    | _ => false

/-- The stalls of a pool with a number of bays (R221, R222). -/
def bayCount (k bays : Nat) : Nat := poolCount k bays

/-- The archive memory in GiB that a `DRM_CFG` word describes (R308). -/
def drmGib (w : Nat) : Nat :=
  let width := [16, 8, 4].getD (inW fDRM_CFG_WIDTH w) 0
  let ch := (List.range 4).countP fun i => bitOf w i
  width * (if bitOf w 11 then 2 else 1) * (if bitOf w 12 then 2 else 1) * 2 * ch

/-- The installed archive memory in bytes. -/
def State.drmBytes (s : State) : Nat := drmGib (s.rg .DRM_CFG).toNat * 2 ^ 30

/-- The rules of `DRM_CFG` (R308, R309). -/
def State.drmRefuse (s : State) (new : Nat) : Option Cause :=
  let old := (s.rg .DRM_CFG).toNat
  let ch := inW fDRM_CFG_CH_EN new
  if bitOf old 31 ∧ new % 2 ^ 31 ≠ old % 2 ^ 31 then some .badState
  else if !(ch ∈ [0, 1, 3, 15]) || inW fDRM_CFG_WIDTH new == 3 || inW fDRM_CFG_SPEED new == 3 ||
      decide (inW fDRM_CFG_GRAIN_LOG2 new < 8) || decide (16 < inW fDRM_CFG_GRAIN_LOG2 new) then some .badValue
  else if ch ≠ 0 ∧ (drmGib new < 8 ∨ 128 < drmGib new) then some .badValue
  else if bitOf new 31 && ch == 0 then some .badValue
  else none

/-! ### Archive regions (R290, R300, R302) -/

/-- The three regions, as (base, size): 0 snapshots, 1 ledger, 2 capture. -/
def State.region (s : State) (i : Nat) : Nat × Nat :=
  match i with
  | 0 => (s.snapBase, s.snapSize)
  | 1 => (s.ledBase, s.ledSize * 64)
  | _ => (s.capBase, 2 ^ s.rd fARC_CAP_CFG_LOG2_RECS * 320)

/-- Whether a region's enable bit is 1. -/
def State.regionOn (s : State) (i : Nat) : Bool := bitOf (s.rg .ARC_CFG).toNat i

/-- Whether two ranges overlap. -/
def overlap (a b : Nat × Nat) : Bool :=
  decide (a.1 < b.1 + b.2) && decide (b.1 < a.1 + a.2)

/-- Whether a region is valid: defined, inside the installed memory, and clear of every other enabled region. -/
def State.regionValid (s : State) (i : Nat) : Bool :=
  let r := s.region i
  r.2 != 0 && decide (r.1 + r.2 ≤ s.drmBytes) &&
    (List.range 3).all fun j => j == i || !s.regionOn j || !overlap r (s.region j)

/-- A write to a region's base or size: refused while the region is enabled, or when the region it would make is not permitted. A
snapshot region of size 0 is no region. -/
def State.regionRefuse (s : State) (i : Nat) (a : RegAt) (new : Nat) : Option Cause :=
  if s.regionOn i then some .badState
  else
    let s := s.setRg a.reg (word new) a.p a.i a.j a.k
    if i = 0 ∧ s.rd fARC_SNAP_SIZE_LOG2 = 0 then none
    else if i = 0 ∧ (s.rd fARC_SNAP_SIZE_LOG2 < 24 ∨ 36 < s.rd fARC_SNAP_SIZE_LOG2) then some .badValue
    else if s.regionValid i then none else some .badValue

/-- A write of `ARC_CFG`: an enable is refused while archive memory is not ready (R316) or its region is not valid. -/
def State.arcCfgRefuse (s : State) (new : Nat) : Option Cause :=
  let rising := (List.range 3).filter fun i => bitOf new i && !s.regionOn i
  if rising.isEmpty then none
  else if !s.on fDRM_STATUS_READY then some .badState
  else
    let s := s.setRg .ARC_CFG (word new)
    if rising.all s.regionValid then none else some .badValue

/-! ### Stores, editions and classifiers -/

/-- Whether a bridge store holds any entry, in a bucket or in overflow. -/
def State.brsUsed (s : State) (p : Nat) : Bool := s.rd fBRS_COUNT_ENTRIES p + s.rd fBRS_OVF_COUNT_OVF_ENTRIES p != 0

/-- Whether the key store holds any entry. -/
def State.kstUsed (s : State) : Bool := s.rd fKST_COUNT_ENTRIES + s.rd fKST_OVF_COUNT_OVF_ENTRIES != 0

/-- Whether a Catalogue slice holds a valid row. -/
def State.sliceUsed (s : State) (eg : Bool) (p sl : Nat) : Bool := (s.validRows eg p).any fun r => r.1 / 512 == sl

/-- Whether a change of a shelf boundary would move a slice that holds a valid row to the other shelf (R156). -/
def State.splitMoves (s : State) (eg : Bool) (p old new : Nat) : Bool :=
  (s.validRows eg p).any fun r => decide (r.1 / 512 < old) != decide (r.1 / 512 < new)

/-- A change of two fields of a word. -/
def changes (old new : Nat) (fs : List Fld) : Bool := fs.any fun f => inW f old != inW f new

/-! ### Host rings and pools (R330, R341) -/

/-- The host of a global channel number, and its local channel (R329). -/
def chanHost (c : Nat) : HostId × Nat := (if c / 8 % 2 = 0 then .a else .b, c / 16 + 4 * (c % 8))

/-- The host that alone writes a register (R327, R352): channels and pools. -/
def hostOf (a : RegAt) : Option HostId :=
  match a.reg with
  | .HST_CH_BASE_LO | .HST_CH_BASE_HI | .HST_CH_CFG | .HST_CH_MOD | .HST_CH_WB_LO | .HST_CH_WB_HI | .HST_CH_DEV_IDX | .HST_CH_HOST_IDX
  | .HST_CH_STAT => some (chanHost a.i).1
  | .HST_POOL_LO | .HST_POOL_HI | .HST_POOL_CFG | .HST_POOL_STAT => some (if a.i / 4 = 0 then .a else .b)
  | _ => none

/-- The rules of a channel's configuration word: the size's range, `MOD_COUNT`, and no change of size while it runs. -/
def State.chRefuse (s : State) (c new : Nat) : Option Cause :=
  let l := (chanHost c).2
  let sz := inW fHST_CH_CFG_LOG2_SIZE new
  if s.on fHST_CH_CFG_EN 0 c ∧ sz ≠ s.rd fHST_CH_CFG_LOG2_SIZE 0 c then some .badState
  else if inW fHST_CH_CFG_MOD_COUNT new = 0 then some .badValue
  else if l = 15 ∨ l = 16 then (if 12 ≤ sz ∧ sz ≤ 34 then none else some .badValue)
  else if 6 ≤ sz ∧ sz ≤ 20 then none else some .badValue

/-- The rules of a pool's configuration word: sizes from 1 to 64 rise strictly over the enabled pools (R341), and while the pool is
enabled nothing but `EN` is written. -/
def State.poolRefuse (s : State) (i new : Nat) : Option Cause :=
  let h := i / 4
  let k := i % 4
  let sz := inW fHST_POOL_CFG_SIZE_256 new
  if s.on fHST_POOL_CFG_EN 0 i then (if bitOf new 31 then some .badState else none)
  else if bitOf new 31 then
    if sz = 0 ∨ 64 < sz then some .badValue
    else if (List.range 4).all fun j => j == k || !s.on fHST_POOL_CFG_EN 0 (4 * h + j) ||
        (if j < k then decide (s.rd fHST_POOL_CFG_SIZE_256 0 (4 * h + j) < sz)
         else decide (sz < s.rd fHST_POOL_CFG_SIZE_256 0 (4 * h + j))) then none
    else some .badValue
  else if 64 < sz then some .badValue
  else none

/-! ### Clocks (R422) -/

/-- Whether an octet of a chiplet has a mode in force. -/
def State.chipletBusy (s : State) (p : Nat) : Bool :=
  (List.range 4).any fun o => s.rd fPRT_OCT_STATUS_ACTIVE_MODE p o != 0

/-- A stop is refused while the clock's users are active. -/
def State.stopRefuse (s : State) (new : Nat) : Option Cause :=
  let old := (s.rg .CKR_STOP).toNat
  let st := s.rd fFOL_BOOT_STATUS_STATE
  let dclk := bitOf new 0 && !bitOf old 0 && s.on fDRM_CFG_EN
  let fclk := bitOf new 1 && !bitOf old 1 && (s.on fFOL_FL_CTRL_BUSY || !(st == 5 || st == 6))
  let chip := (List.range 8).any fun p => bitOf new (8 + p) && !bitOf old (8 + p) && s.chipletBusy p
  if dclk || fclk || chip then some .badState else none

/-! ### All registers -/

/-- Whether a register belongs to a port number that does not exist (R64). -/
def State.absentPort (s : State) (a : RegAt) : Bool :=
  match a.reg with
  | .PRT_CFG | .PRT_TIMERS | .PRT_STATE | .PRT_EVENTS | .PRT_FC_CFG | .PRT_PRIO_MAP | .PRT_PFC_WD | .PRT_PFC_STATUS | .PRT_SA_LO
  | .PRT_SA_HI | .PRT_PTP_CFG | .PRT_PTP_RX_ADJ | .PRT_TS_FIFO => !s.portExists (a.p * 32 + a.i)
  | _ => false

/-- A course time whose word 0 has an NS above 999,999,999 (R32). -/
def nsBad (a : RegAt) (j new : Nat) : Bool := a.j == j && decide (nsPerSec ≤ new)

/-- The rules of a trigger slot's registers (R54, R55): arming fields of slots 0 to 7 belong to the Clerk, an armed slot keeps its
settings, and only the kinds 4 to 6 are written. -/
def State.trigRefuse (s : State) (a : RegAt) (new : Nat) : Option Cause :=
  let armed := s.on fTIM_TRIG_CTRL_ARMED 0 a.i
  match a.reg with
  | .TIM_TRIG_CTRL =>
    let k := inW fTIM_TRIG_CTRL_KIND new
    let k0 := s.rd fTIM_TRIG_CTRL_KIND 0 a.i
    if a.i < 8 then (if bitOf new 8 || k != k0 then some .guarded else none)
    else if bitOf new 8 && armed then some .badState
    else if k = k0 ∨ (4 ≤ k ∧ k ≤ 6) then none else some .badValue
  | _ =>
    if a.i < 8 then some .guarded
    else if armed then some .badState
    else if a.reg = .TIM_TRIG_TIME ∧ nsBad a 0 new then some .badValue
    else none

/-- The rules of the course-time registers. -/
def State.timRefuse (s : State) (a : RegAt) (new : Nat) : Option Cause :=
  match a.reg with
  | .TIM_SET | .TIM_STEP => if a.i = 0 ∧ nsPerSec ≤ new then some .badValue else none
  | .TIM_FREQ_HI =>
    let w := new * 2 ^ 32 + s.rd fTIM_FREQ_LO_VALUE
    if 0x0000FFBE76C8B439 ≤ w ∧ w ≤ 0x0001004189374BC7 then none else some .badValue
  | .TIM_GPIO_CFG =>
    if inW fTIM_GPIO_CFG_MODE new = 2 ∧ inW fTIM_GPIO_CFG_WIDTH_NS new < 8 then some .badValue else none
  | .TIM_TRIG_CTRL | .TIM_TRIG_TIME | .TIM_TRIG_INTERVAL => s.trigRefuse a new
  | _ => none

/-- The rules of the Clerk's registers: mirrors (R144) and windows (R372, R373). -/
def State.cleRefuse (s : State) (m : Option Master) (a : RegAt) (new : Nat) : Option Cause :=
  match a.reg with
  | .CLE_MIRROR_CFG =>
    let bad := fun (h : HostId) =>
      bitOf new h.num && !bitOf (s.rg .CLE_MIRROR_CFG).toNat h.num &&
        (decide (s.rd fCLE_MIRROR_SIZE_SIZE_MIB 0 h.num < mirrorNeed) ||
          bitsOf (s.rg .GEN_OWNER_MAP 0 0).toNat 9 8 != h.master.owner)
    if bad .a || bad .b then some .badValue else none
  | .CLE_MIRROR_BASE_LO | .CLE_MIRROR_BASE_HI | .CLE_MIRROR_SIZE =>
    if bitOf (s.rg .CLE_MIRROR_CFG).toNat a.i then some .badState else none
  | .CLE_TAW_CMD | .CLE_TAW_DATA | .CLE_TAW_CTRL =>
    if m.any (fun x => x.num != a.i) then some .notOwner
    else if s.on fCLE_TAW_CTRL_BUSY 0 a.i && (a.reg != .CLE_TAW_CTRL || bitOf new 0) then some .badState
    else none
  | _ => none

/-- The rules of the pipelines' registers. -/
def State.pipeRefuse (s : State) (a : RegAt) (new : Nat) : Option Cause :=
  let old := (s.rg a.reg a.p a.i a.j a.k).toNat
  match a.reg with
  | .PRT_OCT_MODE => if modeFecOk (inW fPRT_OCT_MODE_MODE new) (inW fPRT_OCT_MODE_FEC new) then
      (if bitOf new 31 && !s.octIdle (a.p * 4 + a.i) then some .badState else none) else some .badValue
  | .PRT_OCT_TXMAP | .PRT_OCT_RXMAP =>
    if !isPerm new then some .badValue else if s.octIdle (a.p * 4 + a.i) then none else some .badState
  | .PRT_PRIO_MAP => if isPerm new then none else some .badValue
  | .RDR_DISC_A => if s.edBusy false then some .badState else none
  | .RDR_DISC_B => if s.edBusy true then some .badState else none
  | .RDR_PROFILE =>
    if (changes old new [fRDR_PROFILE_PROF_A] && s.edBusy false) || (changes old new [fRDR_PROFILE_PROF_B] && s.edBusy true) then
      some .badState else none
  | .BRS_HASH | .BRS_SEED => if s.brsUsed a.p then some .badState else none
  | .BRS_OVF_COUNT => if inW fBRS_OVF_COUNT_OVF_HIGH new = 0 then none else some .badValue
  | .BRS_LEARN_STATUS => if inW fBRS_LEARN_STATUS_QUEUE_HIGH new = 0 then none else some .badValue
  | .CAT_CFG =>
    if s.splitMoves false a.p (inW fCAT_CFG_SPLIT_I old) (inW fCAT_CFG_SPLIT_I new) ||
        s.splitMoves true a.p (inW fCAT_CFG_SPLIT_E old) (inW fCAT_CFG_SPLIT_E new) then some .badState else none
  | .CAT_SLICE_I => if s.sliceUsed false a.p a.i then some .badState else none
  | .CAT_SLICE_E => if s.sliceUsed true a.p a.i then some .badState else none
  | .FAR_STATUS => if inW fFAR_STATUS_LOOP_HIGH new = 0 then none else some .badValue
  | .FAR_PORT =>
    if (changes old new [fFAR_PORT_DEF_A, fFAR_PORT_DEF_A_V] && s.edBusy false) ||
        (changes old new [fFAR_PORT_DEF_B, fFAR_PORT_DEF_B_V] && s.edBusy true) then some .badState else none
  | .HAR_GATE_CFG =>
    if bitOf new 31 && !bitOf old 31 && s.rd fHAR_CAD_LEN_LEN a.p a.i (1 - s.rd fHAR_GATE_CFG_ACTIVE a.p a.i) == 0 then
      some .badValue else none
  | .HAR_CAD_BASE | .HAR_CAD_CYCLE | .HAR_CAD_LEN =>
    if s.rd fHAR_GATE_CFG_ACTIVE a.p a.i = a.j ∨ s.on fHAR_GATE_CFG_SWAP_ARMED a.p a.i then some .badState
    else if a.reg = .HAR_CAD_BASE ∧ a.k = 0 ∧ nsPerSec ≤ new then some .badValue
    else none
  | .PAR_FLOW_CFG => if bitOf old 0 && changes old new [fPAR_FLOW_CFG_POLY] then some .badState else none
  | .PAR_FLOW_SEED => if s.on fPAR_FLOW_CFG_EN a.p then some .badState else none
  | .PAR_FLOW_MASK_LO | .PAR_FLOW_MASK_HI =>
    let s' := s.setRg a.reg (word new) a.p a.i a.j a.k
    if ((List.range 32).countP fun b => bitOf (s'.rg .PAR_FLOW_MASK_LO a.p a.i).toNat b) +
        ((List.range 32).countP fun b => bitOf (s'.rg .PAR_FLOW_MASK_HI a.p a.i).toNat b) ≤ 32 then none else some .badValue
  | _ => none

/-- The rules of the Stable's, Ration's and the Archive's registers. -/
def State.chipRefuse (s : State) (m : Option Master) (a : RegAt) (new : Nat) : Option Cause :=
  match a.reg with
  | .RAT_SHED =>
    if inW fRAT_SHED_D1 new ≤ inW fRAT_SHED_YIELD new ∧ inW fRAT_SHED_D2 new ≤ inW fRAT_SHED_D1 new ∧
        inW fRAT_SHED_D3 new ≤ inW fRAT_SHED_D2 new then none else some .badValue
  | .RAT_THERM =>
    if 60 ≤ inW fRAT_THERM_T_SOFT new ∧ inW fRAT_THERM_T_SOFT new < inW fRAT_THERM_T_HARD new ∧
        inW fRAT_THERM_T_HARD new < inW fRAT_THERM_T_CRIT new ∧ inW fRAT_THERM_T_CRIT new ≤ 115 then none else some .badValue
  | .STB_CFG => if s.on fSTB_CFG_EN && !bitOf new 0 && !s.fwd.stalls.isEmpty then some .badState else none
  | .STB_POOL_CFG =>
    let bays := (List.range 4).map fun k => if k = a.i then inW fSTB_POOL_CFG_BAYS new else s.rd fSTB_POOL_CFG_BAYS 0 k
    let counts := (List.range 4).map fun k => bayCount k (bays.getD k 0)
    if s.on fSTB_CFG_EN then some .badState
    else if 2560 < bays.sum ∨ counts.any (fun c => decide (262144 < c)) ∨ 524288 < counts.sum then some .badValue
    else none
  | .STB_MIRROR =>
    let d := inW fSTB_MIRROR_DEST new
    if d < 256 ∧ !s.portExists d then some .badValue else none
  | .ARC_CFG => s.arcCfgRefuse new
  | .ARC_SNAP_BASE_LO | .ARC_SNAP_BASE_HI | .ARC_SNAP_SIZE => s.regionRefuse 0 a new
  | .ARC_LEDGER_BASE_LO | .ARC_LEDGER_BASE_HI | .ARC_LEDGER_CFG => s.regionRefuse 1 a new
  | .ARC_CAP_BASE_LO | .ARC_CAP_BASE_HI => s.regionRefuse 2 a new
  | .ARC_CAP_CFG =>
    if 2 ^ inW fARC_CAP_CFG_LOG2_RECS new ≤ s.rd fARC_CAP_POST_POST then some .badValue
    else if inW fARC_CAP_CFG_LOG2_RECS new = s.rd fARC_CAP_CFG_LOG2_RECS then none
    else s.regionRefuse 2 a new
  | .ARC_CAP_POST => if new < 2 ^ s.rd fARC_CAP_CFG_LOG2_RECS then none else some .badValue
  | .ARC_EXPORT =>
    let t := inW fARC_EXPORT_STREAM new
    if t ≠ 0 ∧ (List.range 4).any (fun j => j != a.i && s.rd fARC_EXPORT_STREAM 0 j == t) then some .badValue else none
  | .KST_HASH | .KST_SEED => if s.kstUsed then some .badState else none
  | .KST_OVF_COUNT => if inW fKST_OVF_COUNT_OVF_HIGH new = 0 then none else some .badValue
  | .DRM_CFG => s.drmRefuse new
  | .DRM_SCHED => if inW fDRM_SCHED_WR_LO new < inW fDRM_SCHED_WR_HI new then none else some .badValue
  | .DRM_TRAIN =>
    let r := inW fDRM_TRAIN_RETRAIN_MS new
    if r = 0 ∨ (10 ≤ r ∧ r ≤ 10000) then none else some .badValue
  | _ => none

/-- Whether boot has ended, in READY or DEFAULTS (R380). -/
def State.booted (s : State) : Bool := s.rd fFOL_BOOT_STATUS_STATE == 5 || s.rd fFOL_BOOT_STATUS_STATE == 6

/-- The rules of the registers of the always-on domain and of the host interface. A ring's base and write-back address are always aligned: the bits
that could unalign them are reserved, so that data in them is set aside by R6 and refused by no rule (assumption log 27). -/
def State.edgeRefuse (s : State) (a : RegAt) (new : Nat) : Option Cause :=
  match a.reg with
  | .HST_CH_BASE_LO | .HST_CH_BASE_HI | .HST_CH_WB_LO | .HST_CH_WB_HI => if s.on fHST_CH_CFG_EN 0 a.i then some .badState else none
  | .HST_CH_CFG => s.chRefuse a.i new
  | .HST_POOL_LO | .HST_POOL_HI => if s.on fHST_POOL_CFG_EN 0 a.i then some .badState else none
  | .HST_POOL_CFG => s.poolRefuse a.i new
  | .FOL_FL_CTRL => if bitOf new 31 && !s.booted then some .badState else none
  | .FLT_INJECT =>
    if bitOf new 31 && inW fFLT_INJECT_MODE new == 1 && inW fFLT_INJECT_CHECKER new == 0x27 then some .badValue else none
  | .FLT_IN_CFG => if domainOk (inW fFLT_IN_CFG_DOMAIN new) then none else some .badValue
  | .FLT_GPIO_DOM => if domainOk (inW fFLT_GPIO_DOM_DOMAIN new) then none else some .badValue
  | .FLT_SRC_CFG =>
    let cntd := s.on fFLT_SRC_CFG_COUNTED 0 a.i
    if (slotKind a.i).isNone || inW fFLT_SRC_CFG_REACT new == 3 ||
        (cntd && (decide (20 < inW fFLT_SRC_CFG_WIN new) || inW fFLT_SRC_CFG_N new == 0)) then some .badValue else none
  | .CKR_STOP => s.stopRefuse new
  | .CKR_RESET => if inW fCKR_RESET_KEY new = 0x5A then none else some .badValue
  | .CKR_CHIPLET_RESET =>
    if (List.range 8).any fun p => bitOf new p && bitOf (s.rg .CKR_STOP).toNat (8 + p) then some .badState else none
  | _ => none

/-- Which cause refuses a register's word. `m` is the writing master, none for boot and for a tack switch; `new` is the word with the fields
that the write may change. -/
def State.regRefuse (s : State) (m : Option Master) (a : RegAt) (new : Nat) : Option Cause :=
  if s.absentPort a then some .badValue
  else if (fldRanges a.reg).any fun r => decide (inW r.1 new < r.2.1) || decide (r.2.2 < inW r.1 new) then some .badValue
  else
    match s.timRefuse a new with
    | some c => some c
    | none =>
    match s.cleRefuse m a new with
    | some c => some c
    | none =>
    match s.pipeRefuse a new with
    | some c => some c
    | none =>
    match s.chipRefuse m a new with
    | some c => some c
    | none => s.edgeRefuse a new

end Sys2Proof.Machine
end

