-- ==== Sys2Proof/Machine/Editions.lean ====
section
/-! DEFINITION. The edition slots: the switch at T, the drain and its end (R209, R212 to R214, R217, R220). The Clerk's edition commands are in
EditionCmds. -/
namespace Sys2Proof.Machine

/-- The state with an edition slot's state replaced. -/
def State.setEdState (s : State) (slot : Bool) (v : Nat) : State := s.wr (fEdState slot) v

/-- The edition number of a slot. -/
def State.edNum (s : State) (slot : Bool) : Nat := if slot then s.rd fCLE_ED_NUM_NUM_B else s.rd fCLE_ED_NUM_NUM_A

/-- The copies inside that carry a slot's bit. -/
def State.resident (s : State) (slot : Bool) : Nat := s.rd fCLE_ED_RESIDENT_RESIDENT 0 (b2n slot)

/-- An edition event (R217). -/
def State.edEvent (s : State) (ty : Nat) (slot late : Bool) (w2 t : Nat) : State :=
  s.eventAt ty 15 (s.edNum slot + b2n slot * 2 ^ 16 + b2n late * 2 ^ 17) w2 t

/-- The switch (R209, R212): the armed slot enters IN_FORCE, the other starts to drain, and T is recorded. -/
def State.edSwitch (s : State) (t : Nat) (late : Bool) : State :=
  let old := s.edNow
  if s.edState (!old) ≠ 2 then s
  else
    let s := ((s.setEdState (!old) 3).setEdState old 4).wr fCLE_ED_STATUS_IN_FORCE (b2n (!old))
    let w := ctWords t
    let s := ((s.setRg .CLE_ED_SWITCH_TIME (w.getD 0 0) 0 0).setRg .CLE_ED_SWITCH_TIME (w.getD 1 0) 0 1).setRg
      .CLE_ED_SWITCH_TIME (w.getD 2 0) 0 2
    let s := { s with ed := { s.ed with
      drainRc := AMap.set s.ed.drainRc (b2n old) s.tim.rc,
      drainLen := AMap.set s.ed.drainLen (b2n old) (s.rd fCLE_ED_TIMEOUT_TIMEOUT_US) } }
    s.edEvent 0x30 (!old) late 0 t

/-- Whether a frame that its ingress MAC marked with a slot's bit has yet to reach the Reader (R212): it will be counted there. -/
def State.markedAtMac (s : State) (slot : Bool) : Bool := s.fwd.rx.any fun f => f.fate == .waiting && f.ed == slot && !f.notUp

/-- EDITION_DRAINED (R213): the count of a draining or expiring slot has reached 0. While it is above 0 the event changes nothing, nor while a
marked frame is still to be counted, since the count cannot rise once the slot has drained (DEDUCED, assumption log 46). -/
def execEditionDrained (slot : Bool) (s : State) : Out :=
  .next (
    if (s.edState slot = 4 ∨ s.edState slot = 5) ∧ s.resident slot = 0 ∧ s.markedAtMac slot = false then
      let us := (s.tim.rc - AMap.getD s.ed.drainRc (b2n slot) s.tim.rc) / ns 1000
      let s := (s.setEdState slot 6).wr fCLE_ED_DRAIN_LAST_DRAIN_US (min 0xFFFFFF us)
      let s := s.edEvent 0x31 slot false 0 s.tim.ct
      s.levelOff .ED_STUCK
    else s)

/-- DRAIN_TIMEOUT (R214): the drain timer of a slot expires with copies inside. Before its time, or with the count at 0, the event
changes nothing. -/
def execDrainTimeout (slot : Bool) (s : State) : Out :=
  let due := AMap.getD s.ed.drainRc (b2n slot) 0 + ns (1000 * AMap.getD s.ed.drainLen (b2n slot) 0)
  .next (
    if s.edState slot = 4 ∧ due ≤ s.tim.rc ∧ 0 < s.resident slot then
      let s := (s.setEdState slot 5).addSat fCLE_ED_DRAIN_EXPIRIES 1
      let s := { s with ed := { s.ed with expRc := AMap.set s.ed.expRc (b2n slot) s.tim.rc } }
      (s.raise .ED_EXPIRED 0 (s.edNum slot)).edEvent 0x32 slot false (s.resident slot) s.tim.ct
    else s)

/-- ED_STUCK (R220): a slot has stayed EXPIRING for 1 s. Before that the event changes nothing. -/
def execEdStuck (slot : Bool) (s : State) : Out :=
  .next (
    if s.edState slot = 5 ∧ AMap.getD s.ed.expRc (b2n slot) 0 + ns nsPerSec ≤ s.tim.rc then s.levelOn .ED_STUCK 0 (s.edNum slot)
    else s)

end Sys2Proof.Machine
end

