-- ==== Sys2Proof/Machine/Triggers.lean ====
section
/-! DEFINITION. Time triggers (R54 to R58), the live tack switch (R394 to R396), GPIO pulses (R60) and what every entry into UNSET does
(R37, R47, R57). -/
namespace Sys2Proof.Machine

/-! ### Slots -/

/-- The code of a kind in `TIM_TRIG_CTRL.KIND`. -/
def TrigKind.code : TrigKind → Nat
  | .edition => 1
  | .tack => 2
  | .snapshot => 3
  | .cadence => 4
  | .gpio0 => 5
  | .gpio1 => 6

/-- The kind of a code that a register arm may name. -/
def regKind : Nat → Option TrigKind
  | 4 => some .cadence
  | 5 => some .gpio0
  | 6 => some .gpio1
  | _ => none

/-- The armed trigger of a slot. -/
def State.trig? (s : State) (slot : Nat) : Option Trig := s.tim.trigs.find? (·.slot == slot)

/-- Whether a trigger of a kind is armed. -/
def State.kindArmed (s : State) (k : TrigKind) : Bool := s.tim.trigs.any (·.kind == k)

/-- The free Clerk slot that an arm takes (R54): the lowest (DESIGN CHOICE, assumption log 7). -/
def State.freeSlot (s : State) : Option Nat := (List.range 8).find? fun i => (s.trig? i).isNone

/-- Arms a trigger: its registers show it. -/
def State.arm (s : State) (tr : Trig) : State :=
  let w := ctWords tr.at_
  let s := (s.wr fTIM_TRIG_CTRL_ARMED 1 0 tr.slot).wr fTIM_TRIG_CTRL_KIND tr.kind.code 0 tr.slot
  let s := ((s.setRg .TIM_TRIG_TIME (w.getD 0 0) 0 tr.slot 0).setRg .TIM_TRIG_TIME (w.getD 1 0) 0 tr.slot 1).setRg
    .TIM_TRIG_TIME (w.getD 2 0) 0 tr.slot 2
  let s := (s.setRg .TIM_TRIG_INTERVAL (word tr.interval) 0 tr.slot 0).setRg
    .TIM_TRIG_INTERVAL (word (tr.interval / 2 ^ 32)) 0 tr.slot 1
  { s with tim := { s.tim with trigs := tr :: s.tim.trigs.filter (·.slot != tr.slot) } }

/-- Frees a slot: its trigger is no longer armed. -/
def State.unarm (s : State) (tr : Trig) : State :=
  let s := s.wr fTIM_TRIG_CTRL_ARMED 0 0 tr.slot
  let s := match tr.kind with
    | .tack => { (s.wr fFOL_TACK_STATUS_ARMED 0).wr fFOL_TACK_STATUS_LOADED 0 with fol := { s.fol with pend := [] } }
    | .snapshot => { s.wr fARC_SNAP_STATUS_ARMED 0 with saved := if s.epoch.isNone then [] else s.saved }
    | _ => s
  { s with tim := { s.tim with trigs := s.tim.trigs.filter (·.slot != tr.slot) } }

/-- Cancels a trigger (R57): `CANCELLED`, the edition slot back to OPEN (R209), and a waiting command completes with a status. -/
def State.cancelWith (s : State) (tr : Trig) (status : Nat) : State :=
  let s := (s.unarm tr).timBit fTIM_TRIG_CTRL_CANCELLED tr.slot 0
  let s := match tr.kind with
    | .edition => if s.edState (!s.edNow) = 2 then s.setEdState (!s.edNow) 1 else s
    | _ => s
  match tr.cmd with
  | some c => s.complete c status
  | none => s

/-- Cancels a trigger; a waiting command completes with NOT_ARMED. -/
def State.cancelTrig (s : State) (tr : Trig) : State := s.cancelWith tr stNOT_ARMED

/-- Cancels every armed trigger of a kind. -/
def State.cancelKind (s : State) (k : TrigKind) : State :=
  (s.tim.trigs.filter (·.kind == k)).foldl (fun s tr => s.cancelTrig tr) s

/-- Cancels an IMMEDIATE edition switch that has not reached its T (R211). -/
def State.cancelImm (s : State) : State :=
  match s.ed.imm with
  | none => s
  | some (_, c) =>
    let s := { s with ed := { s.ed with imm := none } }
    let s := if s.edState (!s.edNow) = 2 then s.setEdState (!s.edNow) 1 else s
    s.complete c stNOT_ARMED

/-- Whether `PPS_OUT` runs in the present state. -/
def State.ppsOutOn (s : State) : Bool := if s.tstate = 0 then s.on fTIM_PPS_OUT_EN_UNSET else s.on fTIM_PPS_OUT_EN

/-- A pulse that is cut short by a stop of `PPS_OUT` does not come back: the next rise is that of a whole second (R59). -/
def State.ppsOutCut (s : State) : State := if s.ppsOutOn then s else { s with tim := { s.tim with ppsOut := false } }

/-- Entry into UNSET for any cause (R36, R37, R47, R57). -/
def State.unsetEntry (s : State) : State :=
  let s := s.tim.trigs.foldl (fun s tr => s.cancelTrig tr) s
  let s := s.cancelImm
  let s := (((s.wr fTIM_STATUS_STATE 0).wr fTIM_STATUS_TIME_SET 0).wr fTIM_STATUS_REF_SRC
    (if s.on fTIM_STATUS_REF_OK then 0 else 1)).wr fTIM_CHANGE_PENDING 0
  { s with tim := { s.tim with pend := none, holdEdge := none } }.ppsOutCut

/-! ### Live tack switches (R394 to R396) -/

/-- What a field takes from a tack set: its bits that the set names from the set, the others as they are. -/
def TackField.over (f : TackField) (old : Nat) : Nat := (old &&& (2 ^ 32 - 1 - f.mask)) ||| f.value

/-- The state with a live field at a value. -/
def State.setLive (s : State) (f : TackField) : State :=
  let w := (s.rg f.at_.reg f.at_.p f.at_.i f.at_.j f.at_.k).toNat
  s.setRg f.at_.reg (word (setBits w f.hi f.lo (f.over (bitsOf w f.hi f.lo)))) f.at_.p f.at_.i f.at_.j f.at_.k

/-- Whether the pending values obey the refusal rules of their fields, taken together. -/
def State.tackOk (s : State) : Bool :=
  let t := s.fol.pend.foldl (fun s f => s.setLive f) s
  s.fol.pend.all fun f =>
    let w := (t.rg f.at_.reg f.at_.p f.at_.i f.at_.j f.at_.k).toNat
    (s.regRefuse none f.at_ w).isNone

/-- The pending values are loaded: accepted, or the switch is cancelled (R395). -/
def State.tackLoad (s : State) (tr : Trig) : State :=
  if s.tackOk then s.wr fFOL_TACK_STATUS_LOADED 1
  else (s.cancelWith tr stBAD_ARGS).wr fFOL_TACK_STATUS_ERR 1

/-- TACK_PENDING_LOAD (R395): the pending values of the armed switch are loaded. Without one, or once loaded, the event changes nothing. -/
def execTackPendingLoad (s : State) : Out :=
  .next (
    match s.tim.trigs.find? (·.kind == .tack) with
    | some tr => if s.on fFOL_TACK_STATUS_LOADED then s else s.tackLoad tr
    | none => s)

/-- A write of `PERIOD_S` (R141): the sweeps run from now on with the new period, and 0 stops the sweep in progress. -/
def State.ageWritten (s : State) (p : Nat) : State :=
  let n := s.rd fBRS_AGE_CFG_PERIOD_S p
  if n = 0 then
    { s.wr fBRS_AGE_STATUS_SWEEPING 0 p with
      lrn := { s.lrn with ageDue := AMap.erase s.lrn.ageDue p }
      clerk := { s.clerk with sweeps := AMap.erase s.clerk.sweeps p } }
  else { s with lrn := { s.lrn with ageDue := AMap.set s.lrn.ageDue p (s.tim.rc + ns (n * nsPerSec)) } }

/-- At T every live field takes its pending value (R396). -/
def State.tackApply (s : State) : State :=
  let n := s.rd fFOL_TACK_STATUS_TARGET
  let fs := s.fol.pend
  let s := if fs.any fun f => f.at_.reg == .ARC_CAP_RATE then s.capRefill else s
  let s := fs.foldl (fun s f => s.setLive f) s
  let s := fs.foldl (fun s f => if f.at_.reg = .BRS_AGE_CFG then s.ageWritten f.at_.p else s) s
  let s := fs.foldl (fun s f => match f.at_.reg with
    | .STB_ING_XOFF | .STB_ING_XON => s.xoffUpdate (f.at_.i / 8) (f.at_.i % 8)
    | _ => s) s
  (((s.wr fFOL_TACK_STATUS_IN_FORCE n).wr fFOL_WARM_TACK_TACK n).wr fFOL_WARM_TACK_V 1).addWrap fFOL_TACK_STATUS_SWITCHES 1

/-! ### Firing -/

/-- An output `TIME_GPIO` starts its pulse (R60). -/
def State.gpioPulse (s : State) (i : Nat) : State :=
  if s.rd fTIM_GPIO_CFG_MODE 0 i = 2 then
    { s with tim := { s.tim with gpioOut := AMap.set s.tim.gpioOut i (s.tim.rc + ns (s.rd fTIM_GPIO_CFG_WIDTH_NS 0 i)) } }
  else s

/-- GPIO_PULSE_END (R60): before `WIDTH_NS` has passed the event changes nothing. -/
def execGpioPulseEnd (i : Nat) (s : State) : Out :=
  match AMap.get? s.tim.gpioOut i with
  | some t => .next (if t ≤ s.tim.rc then { s with tim := { s.tim with gpioOut := AMap.erase s.tim.gpioOut i } } else s)
  | none => .next s

/-- The action of a trigger at T (R58, R209, R291, R396). -/
def State.trigAct (s : State) (tr : Trig) (late : Bool) : State :=
  match tr.kind with
  | .edition => s.edSwitch tr.at_ late
  | .tack => s.tackApply
  | .snapshot => s.snapFire tr.at_ late tr.arg
  | .cadence => s.cadenceFire
  | .gpio0 => s.gpioPulse 0
  | .gpio1 => s.gpioPulse 1

/-- The result word of the command that waits on a trigger: the edition slot in force, or the trigger slot (R365). -/
def State.trigResult (s : State) (tr : Trig) : Nat := if tr.kind = .edition then b2n s.edNow else tr.slot

/-- A trigger fires for its T: its status bits, its action, the waiting completion, and its next firing, if it has one. -/
def State.fireAt (s : State) (tr : Trig) (late : Bool) (skip : Nat) (next : Option Nat) : State :=
  let s := s.timBit fTIM_TRIG_CTRL_FIRED tr.slot 0
  let s := if late then (s.timBit fTIM_TRIG_CTRL_LATE tr.slot 0).raise .TIM_TRIG_LATE 0 tr.slot else s
  let s := s.addSat fTIM_TRIG_CTRL_SKIPPED skip 0 tr.slot
  let s := s.trigAct tr late
  let s := match next with
    | some t => { s with tim := { s.tim with
        trigs := { tr with at_ := t } :: s.tim.trigs.filter (·.slot != tr.slot) } }
    | none => s.unarm tr
  match tr.cmd with
  | some c => s.complete c stOK (s.trigResult tr)
  | none => s

/-- A trigger fires; a TACK trigger whose pending values have not been loaded loads them first, and may be cancelled by that. -/
def State.fire (s : State) (tr : Trig) (late : Bool) (skip : Nat) (next : Option Nat) : State :=
  if tr.kind = .tack ∧ !s.on fFOL_TACK_STATUS_LOADED then
    if s.tackOk then s.fireAt tr late skip next else s.tackLoad tr
  else s.fireAt tr late skip next

/-- The IMMEDIATE switch takes place (R211). -/
def State.fireImm (s : State) (late : Bool) : State :=
  match s.ed.imm with
  | none => s
  | some (t, c) =>
    let s := ({ s with ed := { s.ed with imm := none } }).edSwitch t late
    let s := if late then s.raise .TIM_TRIG_LATE else s
    s.complete c stOK (b2n s.edNow)

/-- TRIGGER_FIRE (R56): course time has reached T of the trigger in a slot; slot 16 stands for an IMMEDIATE edition switch. Before T the
event changes nothing. -/
def execTriggerFire (slot : Nat) (s : State) : Out :=
  .next (
    if slot = 16 then
      match s.ed.imm with
      | some (t, _) => if t ≤ s.tim.ct then s.fireImm false else s
      | none => s
    else
      match s.trig? slot with
      | some tr =>
        if tr.at_ ≤ s.tim.ct then
          s.fire tr false 0 (if tr.interval = 0 then none else some (tr.at_ + ns tr.interval))
        else s
      | none => s)

/-- The triggers that a forward change from S to a later time passes over, in the order of T (R57). -/
def insTrig (tr : Trig) : List Trig → List Trig
  | [] => [tr]
  | t :: l => if tr.at_ < t.at_ ∨ (tr.at_ = t.at_ ∧ tr.slot < t.slot) then tr :: t :: l else t :: insTrig tr l

/-- Course time moves from S to `e` (R57): the triggers between fire late, and a repeating one skips every repeat up to `e`. -/
def State.passOver (s : State) (from_ e : Nat) : State :=
  let gone := (s.tim.trigs.filter fun tr => decide (from_ < tr.at_) && decide (tr.at_ < e)).foldl (fun l t => insTrig t l) []
  let s := gone.foldl (fun s tr =>
    if tr.interval = 0 then s.fire tr true 0 none
    else
      let n := (e - tr.at_) / ns tr.interval
      s.fire tr true n (some (tr.at_ + ns tr.interval * (n + 1)))) s
  match s.ed.imm with
  | some (t, _) => if from_ < t ∧ t < e then s.fireImm true else s
  | none => s

end Sys2Proof.Machine
end

