-- ==== Sys2Proof/Machine/CourseTime.lean ====
section
/-! DEFINITION. Course time (R31 to R61): references, states, PPS_IN, time-of-day messages, changes of course time, outputs, calibration,
GPIO captures and SyncE. Events that fall due at a time change nothing before it. -/
namespace Sys2Proof.Machine

/-! ### References and states (R35 to R39) -/

/-- `HOLD_SECS`, with 0 treated as 1. -/
def State.holdSecs (s : State) : Nat := max 1 (s.rd fTIM_CFG_HOLD_SECS)

/-- "PPS good" of R37. -/
def State.ppsGood (s : State) : Bool :=
  s.on fTIM_CFG_PPS_MODE ||
    match s.tim.lastAcc with
    | some t => decide (s.tim.rc < t + ns (s.holdSecs * nsPerSec))
    | none => false

/-- Entry into LOCKED: the event, and the end of the level sources of holdover (R37, R399). -/
def State.toLocked (s : State) : State :=
  let s := { s.wr fTIM_STATUS_STATE 2 with tim := { s.tim with holdEdge := none } }.ppsOutCut
  ((s.event 0x01).levelOff .TIM_REF_LOSS).levelOff .TIM_PPS_LOSS

/-- Entry into HOLDOVER: edges accepted before it never count. -/
def State.toHoldover (s : State) : State :=
  { s.wr fTIM_STATUS_STATE 1 with tim := { s.tim with holdEdge := none } }

/-- The transitions of R37 that follow from conditions: UNSET to LOCKED and HOLDOVER to LOCKED. -/
def State.lockCheck (s : State) : State :=
  let ref := s.on fTIM_STATUS_REF_OK
  match s.tstate with
  | 0 => if s.on fTIM_STATUS_TIME_SET && ref && s.ppsGood then s.toLocked else s
  | 1 => if ref && (s.on fTIM_CFG_PPS_MODE || s.tim.holdEdge.any (·.2)) then s.toLocked else s
  | _ => s

/-- REF_QUALIFY (R35, R36). -/
def execRefQualify (s : State) : Out :=
  .next ((s.wr fTIM_STATUS_REF_OK 1).wr fTIM_STATUS_REF_SRC 0).lockCheck

/-- REF_DISQUALIFY (R35 to R37). -/
def execRefDisqualify (s : State) : Out :=
  let s := s.wr fTIM_STATUS_REF_OK 0
  .next (
    match s.tstate with
    | 0 => s.wr fTIM_STATUS_REF_SRC 1
    | 1 => s.levelOn .TIM_REF_LOSS
    | _ => s.toHoldover.levelOn .TIM_REF_LOSS)

/-- PPS_LOSS (R37): no valid edge for `HOLD_SECS` in LOCKED. -/
def execPpsLoss (s : State) : Out :=
  .next (if s.tstate = 2 ∧ !s.ppsGood then s.toHoldover.levelOn .TIM_PPS_LOSS else s)

/-- TCLK_UNLOCK (R37). -/
def execTclkUnlock (s : State) : Out :=
  let s := (s.wr fCKR_PLL_STATUS_TCLK_LOCK 0).levelOn .TIM_TCLK_UNLOCK
  .next (if s.tstate = 0 then s else s.unsetEntry)

/-! ### Changes (R46 to R49) -/

/-- The first whole microsecond of course time that is at least `lead` ns from now (R47, R211). -/
def State.wholeUs (s : State) (lead : Nat) : Nat := (s.tim.ct + ns lead + ns 1000 - 1) / ns 1000 * ns 1000

/-- A request while none is pending becomes pending; a further one is ignored and counted (R47). -/
def State.request (s : State) (c : Change) : State :=
  if s.tim.pend.isSome then s.addSat fTIM_CHANGE_REFUSED 1
  else { s.wr fTIM_CHANGE_PENDING 1 with tim := { s.tim with pend := some ⟨c, s.wholeUs 1000, s.tim.rc⟩ } }

/-- The course time in `TIM_SET`. -/
def State.timSet (s : State) : Nat :=
  (ctOfWords (s.rg .TIM_SET 0 0) (s.rg .TIM_SET 0 1) (s.rg .TIM_SET 0 2)).getD 0

/-- The signed seconds of `TIM_STEP`. -/
def State.stepSec (s : State) : Int :=
  signedOf 48 ((s.rg .TIM_STEP 0 1).toNat + 2 ^ 32 * bitsOf (s.rg .TIM_STEP 0 2).toNat 15 0)

/-- The offset in `TIM_STEP`, in units of course time. -/
def State.timStep (s : State) : Int :=
  s.stepSec * (ns nsPerSec : Nat) + (ns (s.rg .TIM_STEP 0 0).toNat + bitsOf (s.rg .TIM_STEP 0 2).toNat 31 16 * 2 ^ 32 : Nat)

/-- One request of `TIM_CTRL` (bit 0 SET_NOW, 1 SET_AT_PPS, 2 STEP): refused as in R32 where its value breaks R46 or R48. The values of
`TIM_SET` and `TIM_STEP` at the request are those that take effect (DESIGN CHOICE, assumption log 45). -/
def State.ctrlRequest (s : State) (bit : Nat) : State × Option Cause :=
  match bit with
  | 0 => (s.request (.setNow s.timSet), none)
  | 1 =>
    if s.timSet % ns nsPerSec = 0 then (s.request (.setAtPps s.timSet), none)
    else (s.addSat fTIM_CHANGE_REFUSED 1, some .badValue)
  | _ =>
    if -32768 ≤ s.stepSec ∧ s.stepSec ≤ 32767 ∧ 0 ≤ (s.wholeUs 1000 : Int) + s.timStep then (s.request (.step s.timStep), none)
    else (s.addSat fTIM_CHANGE_REFUSED 1, some .badValue)

/-- A write of `TIM_CTRL` (R47): CLEAR first, then the lowest request bit; the later ones are refused and counted. -/
def State.ctrlWrite (s : State) (data : Nat) : State × Option Cause :=
  let s := if bitOf data 3 then s.unsetEntry else s
  match (List.range 3).filter fun i => bitOf data i with
  | [] => (s, none)
  | b :: rest =>
    let r := s.ctrlRequest b
    (r.1.addSat fTIM_CHANGE_REFUSED rest.length, r.2)

/-- What follows a step or a set of course time: counting windows close (R401), values saved for a snapshot that has not fired are given up, frames in
transmission at front-panel ports are counted (R49, R272) and gates recompute their position. -/
def State.stepped (s : State) : State :=
  let s := { s with flt := { s.flt with windows := [] }, saved := if s.epoch.isNone then [] else s.saved }
  let s := s.ports.txNow.foldl (fun s c => if c.1 < 256 then s.blk (c.1 / 32) (288 + 7) else s) s
  ((List.range 256).filter fun k => s.on fHAR_GATE_CFG_EN (k / 32) (k % 32)).foldl (fun s k => s.gateRefresh k) s

/-- Course time moves backward: what is counted from now on comes after the snapshot whose scan runs (`State.beforeT`). -/
def State.movedBack (s : State) : State :=
  { s with arc := { s.arc with scan := s.arc.scan.map fun x => { x with back := x.back.or (some s.tim.rc) } } }

/-- Course time moves by `d` at the instant S (R57), with a change applied. -/
def State.moveTime (s : State) (at_ : Nat) (d : Int) : State :=
  let e := ((at_ : Int) + d).toNat
  let s := if at_ < e then s.passOver at_ e else if e < at_ then s.movedBack else s
  let s := { s.wr fTIM_CHANGE_PENDING 0 with tim := { s.tim with ct := ((s.tim.ct : Int) + d).toNat, pend := none } }
  s.stepped

/-- COURSE_TIME_APPLY (R47): the pending set, step or frequency change takes effect in the cycle that contains its apply instant. -/
def execCourseTimeApply (s : State) : Out :=
  match s.tim.pend with
  | none => .next s
  | some p =>
    if s.tim.ct + s.tim.freq ≤ p.applyAt then .next s
    else
      match p.change with
      | .setAtPps _ => .next s
      | .freq w =>
        .next { (s.wr fTIM_CHANGE_PENDING 0).addWrap fTIM_CHANGE_APPLIED 1 with tim := { s.tim with freq := w, pend := none } }
      | .step d => .next ((s.moveTime p.applyAt d).addWrap fTIM_CHANGE_APPLIED 1)
      | .setNow v =>
        .next (((s.moveTime p.applyAt ((v : Int) - p.applyAt)).addWrap fTIM_CHANGE_APPLIED 1).wr fTIM_STATUS_TIME_SET 1).lockCheck

/-- SET_AT_PPS_TIMEOUT (R47): withdrawn `HOLD_SECS` + 1 s after the request. -/
def execSetAtPpsTimeout (s : State) : Out :=
  .next (
    match s.tim.pend with
    | some ⟨.setAtPps _, _, t⟩ =>
      if t + ns ((s.holdSecs + 1) * nsPerSec) ≤ s.tim.rc then
        { (s.wr fTIM_CHANGE_PENDING 0).addSat fTIM_CHANGE_REFUSED 1 with tim := { s.tim with pend := none } }
      else s
    | _ => s)

/-! ### PPS_IN (R40 to R42) -/

/-- A signed 24-bit count of 62.5 ps in units of course time. -/
def phaseU (w : Nat) : Int := signedOf 24 w * (2 ^ 44 : Nat)

/-- An edge is not accepted (R41). -/
def State.ppsReject (s : State) (e : PpsEdge) : State :=
  let w := ctWords e.ts
  let s := ((s.setRg .TIM_PPS_REJ (w.getD 0 0) 0 0).setRg .TIM_PPS_REJ (w.getD 1 0) 0 1).setRg .TIM_PPS_REJ (w.getD 2 0) 0 2
  (s.addSat fTIM_PPS_COUNTS_REJECTED 1).raise .TIM_PPS_REJECT

/-- PPS_IN_EDGE (R40): an active edge `phase` sixteenths into the cycle. An edge that comes before the last one's decision shows that the
last pulse was too short. -/
def execPpsInEdge (phase : Nat) (s : State) : Out :=
  let s := match s.tim.edge with | some e => s.ppsReject e | none => s
  let ts := ((s.tim.ct + phase * 2 ^ 44 : Nat) : Int) - phaseU (s.rd fTIM_PPS_DELAY_DELAY)
  .next { s with tim := { s.tim with edge := some ⟨stamp ts.toNat, s.tim.rc + phase * 2 ^ 44⟩ } }

/-- The whole second nearest to a course time. -/
def nearSec (t : Nat) : Nat := (t + ns nsPerSec / 2) / ns nsPerSec

/-- The distance of a course time from its nearest whole second. -/
def secDist (t : Nat) : Nat := min (t % ns nsPerSec) (ns nsPerSec - t % ns nsPerSec)

/-- Whether an edge that stayed active for 100 ns is valid (R40). -/
def State.ppsValid (s : State) (e : PpsEdge) : Bool :=
  (s.tstate == 0 || decide (secDist e.ts ≤ ns (s.rd fTIM_PPS_WIN_WINDOW_NS))) &&
    match s.tim.lastAcc with
    | some t => decide (t + ns 500000000 ≤ e.rc)
    | none => true

/-- The good messages that a valid edge answers: it is the first that comes at least 500 ms after them (R45). -/
def State.todNames (s : State) (e : PpsEdge) : List (Nat × Nat) := s.tim.tod.filter fun m => decide (m.2 + ns 500000000 ≤ e.rc)

/-- A valid edge sets course time where a `SET_AT_PPS` waits for it (R46) or, in UNSET, where a good message named it (R45), the last one when there
are several. State and `RX_MODE` are judged at the edge alone, so that a message received while messages are only recorded may set course time at a
later edge (DESIGN CHOICE, assumption log 45). A `SET_AT_PPS` goes ahead of the message (DESIGN CHOICE, assumption log 45). -/
def State.ppsSet (s : State) (e : PpsEdge) : State :=
  let named := (s.todNames e).getLast?
  let s := { s with tim := { s.tim with tod := s.tim.tod.filter fun m => !decide (m.2 + ns 500000000 ≤ e.rc) } }
  match s.tim.pend with
  | some ⟨.setAtPps v, _, _⟩ =>
    ((s.moveTime s.tim.ct ((v : Int) - e.ts)).addWrap fTIM_CHANGE_APPLIED 1).wr fTIM_STATUS_TIME_SET 1
  | p =>
    match named with
    | some m =>
      if s.tstate = 0 ∧ s.rd fTIM_TOD_CFG_RX_MODE = 1 then
        let s := (s.moveTime s.tim.ct (((ns (m.1 * nsPerSec) : Nat) : Int) - e.ts)).wr fTIM_STATUS_TIME_SET 1
        { s.wr fTIM_CHANGE_PENDING (b2n p.isSome) with tim := { s.tim with pend := p } }
      else s
    | none => s

/-- The check of the good messages since the last valid edge against this one (R45). -/
def State.todMatch (s : State) (e : PpsEdge) : State :=
  let wrong := s.tim.todCheck.filter (· != nearSec e.ts)
  let s := { s with tim := { s.tim with todCheck := [] } }
  wrong.foldl (fun s sec => (s.addSat fTIM_TOD_COUNTS_MISMATCH 1).event 0x03 15 (sec % 2 ^ 32)) s

/-- The whole second of an edge accepted in HOLDOVER, and whether the edge before it lay in the second before. -/
def holdNext (before : Option (Nat × Bool)) (sec : Nat) : Nat × Bool :=
  match before with
  | some (b, _) => (sec, decide (b + 1 = sec))
  | none => (sec, false)

/-- The timestamp of an accepted edge is captured, counted and reported (R42). -/
def State.ppsCapture (s : State) (t : Nat) : State :=
  let w := ctWords t
  let s := s.setRg .TIM_PPS_CAP (w.getD 0 0) 0 0
  let s := s.setRg .TIM_PPS_CAP (w.getD 1 0) 0 1
  let s := s.setRg .TIM_PPS_CAP (w.getD 2 0) 0 2
  (s.addWrap fTIM_PPS_COUNTS_VALID 1).eventAt 0x02 15 0 0 t

/-- An accepted edge is noted: for the 0.5 s rule, and in HOLDOVER for R39. -/
def State.ppsNote (s : State) (e : PpsEdge) : State :=
  let h := if s.tstate = 1 then some (holdNext s.tim.holdEdge (nearSec e.ts)) else s.tim.holdEdge
  { s with tim := { s.tim with lastAcc := some e.rc, holdEdge := h } }

/-- An edge is accepted: captured, reported (R42), and taken by what waits for it. -/
def State.ppsAccept (s : State) (e : PpsEdge) : State :=
  ((((s.ppsCapture e.ts).ppsNote e).todMatch e).ppsSet e).lockCheck

/-- PPS_EDGE_VALIDATE (R40): 100 ns after an edge; `stayed` says whether the pin stayed at the active level. -/
def execPpsEdgeValidate (stayed : Bool) (s : State) : Out :=
  match s.tim.edge with
  | none => .next s
  | some e =>
    if s.tim.rc < e.rc + ns 100 then .next s
    else
      let s := { s with tim := { s.tim with edge := none } }
      .next (if stayed && s.ppsValid e then s.ppsAccept e else s.ppsReject e)

/-! ### Time of day (R43 to R45) -/

/-- A message is discarded (R44). -/
def State.todBad (s : State) : State := (s.addSat fTIM_TOD_COUNTS_BAD 1).raise .TIM_TOD_BAD

/-- TOD_MESSAGE_RX (R43, R44): sixteen bytes that begin with the sync pair have been received; other bytes are hunted past. Whether a message
is to be compared is judged as it is received (DESIGN CHOICE, assumption log 45). -/
def execTodMessageRx (bytes : List Byte) (s : State) : Out :=
  if bytes.length ≠ 16 ∨ bytesNat (bytes.take 2) ≠ 0xA55A then .next s
  else
    let flags := (bytes.getD 3 0).toNat
    if crc16 (bytes.take 14) ≠ bytesNat (bytes.drop 14) ∨ (bytes.getD 2 0).toNat ≠ 1 ∨ !bitOf flags 3 then .next s.todBad
    else
      let sec := bytesNat ((bytes.drop 4).take 6)
      let s := (List.range 4).foldl (fun s i => s.setRg .TIM_TOD_RX (word (bytesNat ((bytes.drop (4 * i)).take 4))) 0 i) s
      let s := s.addSat fTIM_TOD_COUNTS_GOOD 1
      let chk := if s.tstate = 2 ∧ 1 ≤ s.rd fTIM_TOD_CFG_RX_MODE then s.tim.todCheck ++ [sec] else s.tim.todCheck
      .next { s with tim := { s.tim with tod := s.tim.tod ++ [(sec, s.tim.rc)], todCheck := chk } }

/-- TOD_RX_TIMEOUT (R44): the sixteen bytes of a message did not arrive within 10 ms. -/
def execTodRxTimeout (s : State) : Out := .next s.todBad

/-! ### PPS_OUT and TOD_TX (R59) -/

/-- The level of `PPS_OUT`: held low while it does not run. -/
def State.ppsOutPin (s : State) : Bool := s.tim.ppsOut && s.ppsOutOn

/-- Course time at the far end of the board's path of `PPS_OUT`, as advanced by `DELAY`. -/
def State.ppsOutTime (s : State) : Nat := ((s.tim.ct : Int) + phaseU (s.rd fTIM_PPS_OUT_DELAY_DELAY)).toNat

/-- PPS_OUT_RISE (R59): in the cycle of a whole second. -/
def execPpsOutRise (s : State) : Out :=
  .next (
    if s.ppsOutOn && decide (s.ppsOutTime % ns nsPerSec < s.tim.freq) && !s.tim.ppsOut then
      { s with tim := { s.tim with ppsOut := true, ppsRc := s.tim.rc, todDue := true } }
    else s)

/-- PPS_OUT_FALL (R59): `WIDTH_US` after the rise. -/
def execPpsOutFall (s : State) : Out :=
  .next (
    if s.tim.ppsOut && decide (s.tim.ppsRc + ns (1000 * s.rd fTIM_PPS_OUT_WIDTH_US) ≤ s.tim.rc) then
      { s with tim := { s.tim with ppsOut := false } }
    else s)

/-- The message that names the next edge (R43, R59). -/
def State.todMessage (s : State) : List Byte :=
  let sec := s.ppsOutTime / ns nsPerSec + 1
  let flags := 4 * s.rd fTIM_TOD_CFG_TRACEABLE + (if s.tstate = 2 then 8 else 0)
  let body := natBytes 2 0xA55A ++ [byte 1, byte flags] ++ natBytes 6 sec ++ natBytes 2 (s.rd fTIM_TOD_CFG_UTC_OFFSET) ++
    [byte (s.rd fTIM_TOD_CFG_CLOCK_CLASS), 0]
  body ++ natBytes 2 (crc16 body)

/-- TOD_TX_SEND (R59): 100 ms after a rise of `PPS_OUT`, once for each rise. -/
def execTodTxSend (s : State) : Out :=
  .next (
    if s.tim.todDue && decide (s.tim.ppsRc + ns 100000000 ≤ s.tim.rc) then
      { s with tim := { s.tim with
        todDue := false, todTx := if s.on fTIM_TOD_CFG_TX_EN then s.todMessage else s.tim.todTx } }
    else s)

/-! ### Calibration (R52, R62) -/

/-- Whether a chiplet is running: not stopped by `CKR_STOP` (R52). -/
def State.chipletRuns (s : State) (p : Nat) : Bool := !bitOf (s.rd fCKR_STOP_CHIPLET) p

/-- Starts a calibration run of a chiplet whose link is up, while TCLK is locked. -/
def State.calStart (s : State) (p : Nat) : State :=
  if s.on fCKR_PLL_STATUS_TCLK_LOCK && s.chipletRuns p && s.on fCKR_D2D_STATUS_UP 0 p && !(s.tim.calRun.any (·.1 == p)) then
    { s.jobRun .calibration p with tim := { (s.jobRun .calibration p).tim with calRun := s.tim.calRun ++ [(p, s.tim.rc)] } }
  else s

/-- Starts a run for every chiplet. -/
def State.calAll (s : State) : State := (List.range 8).foldl (fun s p => s.calStart p) s

/-- CALIBRATION_RUN (R52) of a chiplet, once `PERIOD_MS` has passed since its last run began. Before that the event changes nothing. -/
def execCalibrationRun (p : Nat) (s : State) : Out :=
  .next (if s.jobDue .calibration p (ns (s.rd fTIM_CAL_CTRL_PERIOD_MS * 1000000)) then s.calStart p else s)

/-- The time a calibration run takes at most (R52). -/
def calMax : Nat := ns 20000

/-- The delay that a round trip in ps gives, in half picoseconds: half of it, corrected by `TIM_CHIPLET_ASYM` (R52). -/
def State.calDelay (s : State) (p : Nat) (trip : Int) : Int := trip + 125 * signedOf 16 (s.rg .TIM_CHIPLET_ASYM 0 p).toNat

/-- CALIBRATION_COMPLETE (R52): a run ends within its 20 µs with the round trip of its link in picoseconds. -/
def execCalibrationComplete (p : Nat) (trip : Int) (s : State) : Out :=
  match s.tim.calRun.find? (·.1 == p) with
  | none => .next s
  | some r =>
    if r.2 + calMax < s.tim.rc then .next s
    else
      let new := s.calDelay p trip
      let jump := match AMap.get? s.tim.calRes p with
        | some old => decide (500 < (new - old).natAbs)
        | none => false
      let s := { s with tim := { s.tim with calRun := s.tim.calRun.filter (·.1 != p), calRes := AMap.set s.tim.calRes p new } }
      let s := s.wr fTIM_CAL_STATUS_DONE (s.rd fTIM_CAL_STATUS_DONE ||| 2 ^ p)
      .next (if jump then (s.timBit fTIM_CAL_STATUS_JUMP 0 p).raise .TIM_CAL_JUMP 0 p else s)

/-- CALIBRATION_TIMEOUT (R62): a run has not completed within 20 µs. Before that the event changes nothing. -/
def execCalibrationTimeout (p : Nat) (s : State) : Out :=
  .next (if s.tim.calRun.any fun r => r.1 == p && decide (r.2 + calMax ≤ s.tim.rc) then
    ({ s with tim := { s.tim with calRun := s.tim.calRun.filter (·.1 != p) } }).raise .TIM_CAL_FAIL 0 p else s)

/-- TCLK_PLL_LOCK (R52, R399). -/
def execTclkPllLock (s : State) : Out :=
  .next ((s.wr fCKR_PLL_STATUS_TCLK_LOCK 1).levelOff .TIM_TCLK_UNLOCK).calAll

/-! ### GPIO captures and SyncE (R60, R61) -/

/-- GPIO_CAPTURE (R60): a rising edge of an input, `phase` sixteenths into the cycle, of a pulse of at least 100 ns; at most one is
captured per 1 µs. -/
def execGpioCapture (i phase : Nat) (s : State) : Out :=
  if s.rd fTIM_GPIO_CFG_MODE 0 i ≠ 1 ∨ 2 ≤ i then .next s
  else if (AMap.get? s.tim.gpioLast i).any fun t => decide (s.tim.rc < t + ns 1000) then
    .next (s.addSat (if i = 0 then fTIM_GPIO_STAT_OVERRUN0 else fTIM_GPIO_STAT_OVERRUN1) 1)
  else
    let w := ctWords (stamp (s.tim.ct + phase * 2 ^ 44))
    let s := ((s.setRg .TIM_GPIO_CAP (w.getD 0 0) 0 i 0).setRg .TIM_GPIO_CAP (w.getD 1 0) 0 i 1).setRg .TIM_GPIO_CAP (w.getD 2 0) 0 i 2
    .next { s with tim := { s.tim with gpioLast := AMap.set s.tim.gpioLast i s.tim.rc } }

/-- SYNCE_FAILOVER (R61): the CDR of the lane that an output uses loses lock. -/
def execSynceFailover (j : Nat) (s : State) : Out :=
  let l := s.rd fTIM_SYNCE_ACTIVE 0 j
  .next (if s.on fTIM_SYNCE_SQUELCHED 0 j then s
    else (s.wr fPRT_LANE_STATUS_CDR_LOCK 0 (l / 32) (l % 32)).synceUpdate j)

/-! ### Register arms (R54, R55) -/

/-- The course time in a slot's `TIM_TRIG_TIME`. -/
def State.trigTime (s : State) (k : Nat) : Option Nat :=
  ctOfWords (s.rg .TIM_TRIG_TIME 0 k 0) (s.rg .TIM_TRIG_TIME 0 k 1) (s.rg .TIM_TRIG_TIME 0 k 2)

/-- A slot's `TIM_TRIG_INTERVAL`. -/
def State.trigInterval (s : State) (k : Nat) : Nat :=
  (s.rg .TIM_TRIG_INTERVAL 0 k 0).toNat + 2 ^ 32 * (s.rg .TIM_TRIG_INTERVAL 0 k 1).toNat

/-- A write of `ARM` = 1 to a free slot from 8 to 15 (R55): armed, or refused with `ARM_REFUSED`. -/
def State.regArm (s : State) (k : Nat) : State :=
  let iv := s.trigInterval k
  match regKind (s.rd fTIM_TRIG_CTRL_KIND 0 k), s.trigTime k with
  | some kd, some t =>
    if s.tstate = 0 ∨ t < s.tim.ct + ns 2000 ∨ (kd ≠ .cadence ∧ iv ≠ 0 ∧ iv < 1000) then s.timBit fTIM_STATUS_ARM_REFUSED 0 0
    else s.arm ⟨k, kd, t, iv, none, 0⟩
  | _, _ => s.timBit fTIM_STATUS_ARM_REFUSED 0 0

/-- A write of `TIM_TRIG_CTRL` to a slot from 8 to 15 arms with `ARM` = 1 and cancels an armed trigger with `ARM` = 0. -/
def State.trigCtrl (s : State) (k : Nat) (arm : Bool) : State :=
  if k < 8 then s
  else if arm then s.regArm k
  else match s.trig? k with
    | some tr => s.cancelTrig tr
    | none => s

end Sys2Proof.Machine
end

