-- ==== Sys2Proof/Machine/Dram.lean ====
section
/-! DEFINITION. The DDR5 controller (R311 to R323): requests and their arbiter, the subchannel schedulers, refresh, training, scrub and
replay. A command slot, a refresh that falls due and a device's answer are commands from outside; the JESD79-5 timings that space them
are not modelled (assumption log 19). Requests of the units inside that nothing delays are served within their own commands. -/
namespace Sys2Proof.Machine

/-- DRAM_REQUEST (R311, R314): a requester makes one 64-byte burst request. It enters its bank queue through the arbiter, or waits at its
requester; with DCLK stopped it waits at the crossing (R426). While archive memory is not ready no request is made. -/
def execDramRequest (req : Nat) (write : Bool) (addr : Nat) (data : List Byte) (enables : List Bool) (s : State) : Out :=
  .next (
    if s.on fDRM_STATUS_READY && decide (addr + 64 ≤ s.drmBytes) && addr % 64 == 0 then
      s.dramIssue [⟨req, write, addr, data, enables, s.tim.rc⟩]
    else s)

/-! ### Refresh (R315) -/

/-- The time between two refreshes of a subchannel in units of 0.05 ns: tREFI of 3.9 µs, or 1.95 µs at double rate, with four REFsb in each
(R315). -/
def State.trefi (s : State) (u : Nat) : Nat :=
  (if u ∈ s.drm.doubleRate then 39000 else 78000) / (if s.rd fDRM_REF_MODE = 1 then 4 else 1)

/-- A refresh of subchannel u falls due: it is postponed while requests are queued and the limit is not reached, otherwise it is issued
and those postponed are repaid. -/
def State.refreshDue (s : State) (u : Nat) : State :=
  let s := { s with drm := { s.drm with refDue := AMap.set s.drm.refDue u (s.tim.rc + s.trefi u * nsU / 20) } }
  if !(s.subReqs u).isEmpty && decide (s.owed u < s.rd fDRM_REF_POSTPONE) then
    { s with drm := { s.drm with postponed := AMap.set s.drm.postponed u (s.owed u + 1) } }
  else s.repay u (s.owed u + 1)

/-- DRAM_REFRESH (R315): one refresh interval has passed on subchannel u. Before that the event changes nothing. -/
def execDramRefresh (u : Nat) (s : State) : Out :=
  .next (if !s.on fDRM_STATUS_READY || !s.dclkOn || decide (s.tim.rc < AMap.getD s.drm.refDue u 0) then s else s.refreshDue u)

/-- MR4_POLL (R315): the devices of subchannel u report their refresh rate, once in 1 ms. -/
def execMr4Poll (u : Nat) (twice : Bool) (s : State) : Out :=
  .next (if !s.dclkOn then s else s.periodic .mr4 u (ns 1000000) fun s =>
    let l := s.drm.doubleRate.filter (· != u)
    { s with drm := { s.drm with doubleRate := if twice then u :: l else l } })

/-! ### The scheduler (R313) -/

/-- Whether a subchannel serves writes: from `WR_HI` queued writes, or with no read queued, until `WR_LO` remain. -/
def State.servesWrites (s : State) (u : Nat) : Bool :=
  let l := s.subReqs u
  let w := (l.filter (·.2.write)).length
  let r := l.length - w
  if u ∈ s.drm.writing then decide (s.rd fDRM_SCHED_WR_LO < w) || (r == 0 && decide (0 < w))
  else decide (s.rd fDRM_SCHED_WR_HI ≤ w) || (r == 0 && decide (0 < w))

/-- The row that a bank holds open. -/
def State.rowOpen (s : State) (x : (Nat × Nat) × DramReq) : Bool := AMap.get? s.drm.openRow x.1 == some (s.dramAt x.2.addr).row

/-- The oldest of some requests. -/
def oldest (l : List ((Nat × Nat) × DramReq)) : Option ((Nat × Nat) × DramReq) :=
  l.foldl (fun m x => match m with
    | none => some x
    | some y => if x.2.since < y.2.since then some x else some y) none

/-- The request that needs an activate, from bank groups in rotation after the group last activated. -/
def State.nextActivate (s : State) (u : Nat) (l : List ((Nat × Nat) × DramReq)) : Option ((Nat × Nat) × DramReq) :=
  let last := AMap.getD s.drm.lastBg u 7
  ((List.range 8).filterMap fun i => oldest (l.filter fun x => (s.dramAt x.2.addr).bg == (last + 1 + i) % 8)).head?

/-- The request that the next command of a subchannel is for: one older than `AGE_NS`, oldest first; one whose row is open, in the
direction that the bus serves; one that an activate opens. -/
def State.dramChoose (s : State) (u : Nat) : Option ((Nat × Nat) × DramReq) :=
  let l := s.subReqs u
  let aged := l.filter fun x => decide (x.2.since + ns (s.rd fDRM_SCHED_AGE_NS) < s.tim.rc)
  let dir := l.filter fun x => x.2.write == s.servesWrites u
  match oldest aged with
  | some x => some x
  | none =>
    match oldest (dir.filter s.rowOpen) with
    | some x => some x
    | none => s.nextActivate u dir

/-- The request that is served when one is chosen: a write waits for the reads of its burst that were accepted before it (R312). -/
def State.dramFirst (s : State) (x : (Nat × Nat) × DramReq) : DramReq :=
  if x.2.write then (((s.bank x.1).takeWhile (· != x.2)).find? fun y => !y.write && y.addr == x.2.addr).getD x.2 else x.2

/-- The command for a request: its burst when its row is open, otherwise the activate of its row. -/
def State.dramCommand (s : State) (u : Nat) (x : (Nat × Nat) × DramReq) : State :=
  if s.rowOpen x then
    let s' := s.dramServe x.1 (s.dramFirst x)
    s'.arb (s'.drm.waiting.length)
  else
    let p := s.dramAt x.2.addr
    { s with drm := { s.drm with openRow := AMap.set s.drm.openRow x.1 p.row, lastBg := AMap.set s.drm.lastBg u p.bg } }

/-- DRAM_SCHEDULE (R313): one command slot of subchannel u. `ecc` names the bursts in which the devices now hold an error, each with
the data lines that fail. -/
def execDramSchedule (u : Nat) (ecc : List (Nat × List Nat)) (s : State) : Out :=
  let s := s.eccArrive ecc
  .next (
    if !s.on fDRM_STATUS_READY || !s.dclkOn || s.dramPaused u then s
    else if s.rd fDRM_REF_POSTPONE < s.owed u then s.repay u (s.owed u)
    else
      let s := s.arb s.drm.waiting.length
      let l := s.drm.writing.filter (· != u)
      let s' := { s with drm := { s.drm with writing := if s.servesWrites u then u :: l else l } }
      match s'.dramChoose u with
      | some x => s'.dramCommand u x
      | none => s')

/-! ### Training (R316, R317) -/

/-- The controller is switched on and trains every populated subchannel, or is switched off (R316). Switching it off leaves nothing
ready (DEDUCED, assumption log 19). -/
def State.dramEnable (s : State) (on : Bool) : State :=
  let s := (s.wr fDRM_STATUS_READY 0).wr fDRM_STATUS_CAP_GIB 0
  if on then (s.wr fDRM_STATUS_TRAINING 1).wr fDRM_STATUS_TRAIN_FAIL 0 else s.wr fDRM_STATUS_TRAINING 0

/-- The level of `DDR_Cc_RESET_N` (R318, R437): low from cold reset until the controller of a populated channel is enabled. -/
def State.ddrResetN (s : State) (c : Nat) : Bool := s.on fDRM_CFG_EN && bitOf (s.rd fDRM_CFG_CH_EN) c

/-- DRAM_TRAIN_DONE (R316): the training ends; `fails` has a bit for each subchannel that failed. -/
def execDramTrainDone (fails : Nat) (s : State) : Out :=
  .next (
    if !s.on fDRM_STATUS_TRAINING then s
    else
      let f := fails % 2 ^ s.dramN
      let s := (s.wr fDRM_STATUS_TRAINING 0).wr fDRM_STATUS_TRAIN_FAIL f
      if f = 0 then (s.wr fDRM_STATUS_READY 1).wr fDRM_STATUS_CAP_GIB (drmGib (s.rg .DRM_CFG).toNat)
      else s.raise .DRM_TRAIN 0 f)

/-- Pauses a subchannel for a time in ns, unless another is paused (R317). -/
def State.pauseSub (s : State) (u t : Nat) : State :=
  { s with drm := { s.drm with paused := AMap.set s.drm.paused u (s.tim.rc + ns t) } }

/-- Whether a periodic run may pause a subchannel now: no two pause together. -/
def State.mayPause (s : State) (u : Nat) : Bool :=
  s.on fDRM_STATUS_READY && s.dclkOn && decide (u < s.dramN) && !s.drm.paused.any fun p => decide (s.tim.rc < p.2)

/-- The subchannel whose turn it is: the next one, or the first where that one is no longer populated. -/
def State.runNext (s : State) (next : Nat) : Nat := if next < s.dramN then next else 0

/-- Whether the periodic run of a job may begin on a subchannel: it is that subchannel's turn, and the first of a round comes a period after the
first of the last one. -/
def State.runMay (s : State) (j : Job) (u next ms : Nat) : Bool :=
  s.mayPause u && u == s.runNext next && (u != 0 || s.jobDue j 0 (ns (ms * 1000000)))

/-- The run of a round's first subchannel starts its period. -/
def State.runTaken (s : State) (j : Job) (u : Nat) : State := if u = 0 then s.jobRun j 0 else s

/-- ZQ_CALIBRATION (R317): a round of the subchannels every `ZQ_MS`. -/
def execZqCalibration (u : Nat) (s : State) : Out :=
  .next (
    if s.runMay .zq u s.drm.zqNext (s.rd fDRM_TRAIN_ZQ_MS) then
      let s := (s.runTaken .zq u).pauseSub u 1000
      { s with drm := { s.drm with zqNext := (u + 1) % s.dramN } }
    else s)

/-- What a retrain pauses: 1 µs, or 2 ms with DRM_TRAIN when it moved a delay. -/
def State.retrain (s : State) (u : Nat) (moved : Bool) : State :=
  if moved then (s.pauseSub u 2000000).raise .DRM_TRAIN 0 u else s.pauseSub u 1000

/-- DQS_RETRAIN (R317, R318): a periodic run, in a round of the subchannels every `RETRAIN_MS`, or the run with which a subchannel leaves
self-refresh; `moved` says that it moved a delay by more than a quarter of a unit interval. -/
def execDqsRetrain (u : Nat) (moved : Bool) (s : State) : Out :=
  .next (
    if s.drm.exits.head? = some u then
      if s.mayPause u then
        let s := s.retrain u moved
        { s with drm := { s.drm with exits := s.drm.exits.drop 1 } }
      else s
    else if s.rd fDRM_TRAIN_RETRAIN_MS = 0 ∨ !s.runMay .retrain u s.drm.trNext (s.rd fDRM_TRAIN_RETRAIN_MS) then s
    else
      let s := (s.runTaken .retrain u).retrain u moved
      { s with drm := { s.drm with trNext := (u + 1) % s.dramN } })

/-! ### Scrub and replay (R321, R322) -/

/-- The time between two bursts of the patrol scrub: `PERIOD_H` hours for all of them (R321). -/
def State.patrolTime (s : State) : Nat := ns (s.rd fDRM_SCRUB_PERIOD_H * 3600 * nsPerSec) / (s.drmBytes / 64)

/-- PATROL_SCRUB (R321): the scrub reads its next burst and writes back a corrected one, unless a requester's write to it is queued. Its request is
served at once, or goes through the arbiter and the bank queue (R311, R314). -/
def execPatrolScrub (ecc : List (Nat × List Nat)) (s : State) : Out :=
  let s := s.eccArrive ecc
  .next (
    if !s.on fDRM_STATUS_READY || !s.dclkOn || !s.on fDRM_SCRUB_EN then s
    else s.periodic .patrol 0 s.patrolTime fun s =>
      let b := s.drm.scrubAt
      let s := { s with drm := { s.drm with scrubAt := (b + 1) % (s.drmBytes / 64) } }
      if s.dramClear then (s.dramCheck 2 6 (s.badBursts (b * 64) 64)).1.scrubBack b
      else s.dramIssue [⟨6, false, b * 64, [], [], s.tim.rc⟩])

/-- ALERT_REPLAY (R322): a device of subchannel u asserts `_ALERT_N` for the request at a place of a bank queue, and the controller replays;
`failing` says that the burst still fails. After the fourth replay it completes with an error. -/
def execAlertReplay (u : Nat) (place : BankPlace) (failing : Bool) (s : State) : Out :=
  let n := AMap.getD s.drm.replays u 0 + 1
  let set := fun (s : State) (n : Nat) => { s with drm := { s.drm with replays := AMap.set s.drm.replays u n } }
  .next (
    if !s.dclkOn then s
    else if !failing then set s 0
    else if n < 4 then set s n
    else
      match (s.bank (u, place.bank))[place.pos]? with
      | none => set s 0
      | some r =>
        let s := ((set s 0).setBank (u, place.bank) ((s.bank (u, place.bank)).eraseIdx place.pos)).queuesEmpty u
        let s := s.arb s.drm.waiting.length
        ((s.dramLog 3 r.req r.addr).raise .DRM_ALERT 0 (r.addr / 64)).dramAnswer r 1 [])

end Sys2Proof.Machine
end

