-- ==== Sys2Proof/Machine/EntryOps.lean ====
section
/-! DEFINITION. Entries of the tables as commands write, delete and read them (R362 to R368): the format rules of each table
(R90 to R92, R110 to R127, R157 to R164, R180 to R191, R246 to R261), the edition rules (R104, R169, R202), the rules of the Harness's
nodes (R249), the hashed stores (R117, R118) and the prefix index (R121, R364). An entry's reserved bits must be 0 as a command's must
(DEDUCED, assumption log 21). -/
namespace Sys2Proof.Machine

/-! ### Formats -/

/-- The bits of an entry's word that software writes. -/
def entBits (t w : Nat) : Nat :=
  let full := 0xFFFFFFFF
  match t with
  | 0x01 => [full, full, 0x3FFFFF, full, full, 0x3FFFFF, 0x73F].getD w 0
  | 0x02 => if w < 32 then 0xE0FFC0FF else [0x0FFFFFFF, 0x3FFFFFFF, 0x0FFFFFFF, 0x1FF].getD (w - 32) 0
  | 0x08 => [0x3FFFFFFF, 0x1FFFFF, full, full].getD w 0
  | 0x09 => 0x7FFF
  | 0x0A => [0x7FFFFFFF, 0x3FFFFFFF, full, 0xFFFFFF].getD w 0
  | 0x0B => [full, 0x1FFFFF, 0x7].getD w 0
  | 0x0C => [full, 0x7FFFFFFF, 0x7FFFFFF].getD w 0
  | 0x0D => [full, full, 0x7FFFFF, full, 0x1FFFFF].getD (w % 5) 0
  | 0x0E => [0x1FFFFF, full, full, full, full, full, 0x1FFFFF].getD w 0
  | 0x0F => [full, 0x7FFFFFFF, 0x7FFFFFF].getD w 0
  | 0x10 => 0x3FFFFFF
  | 0x11 => 0x3FFF
  | 0x12 => if w < 32 then 0x03FF03FF else if w < 96 then 0x3F3F3F3F else 1
  | 0x13 => if w < 8 then full else if w = 8 then 0xF else if w < 13 then 0x07FF07FF else 0
  | 0x18 | 0x19 => if w < 16 then full else if w = 16 then 1 else 0
  | 0x1A | 0x1B => if w % 23 < 20 then full else [0x7, full, 0x1FFFFF7F].getD (w % 23 - 20) 0
  | 0x20 => if w < 7 then full else 0xFFFF
  | 0x21 => if w < 16 then full else 0
  | 0x22 => 0x1FFF
  | 0x28 => 0x7FFFF
  | 0x29 => [0xFFFF7FFF, full, 0x3FFF, full, 0x3FF, 0xFFFFFF, 0xFFFFFF].getD w 0
  | 0x2A => [0xFFFF003F, full, 0xFFF, full, 0x3FF, 0xFFFFFF, 0xFFFFFF].getD w 0
  | 0x2B => [0x3, full, 0xFFF, full, 0x3FF, 0xFFFFFF, 0xFFFFFF].getD w 0
  | 0x2C | 0x2D | 0x2E => [0xFF, full, 0x3FF, full, 0x3FF, 0xFFFFFF, 0xFFFFFF].getD w 0
  | 0x2F => [0x3FFFFFFF, 0xFF].getD w 0
  | _ => 0

/-- The bits of an entry's word that the EF9 keeps: its check bits, and a Catalogue row's HALF (R160). -/
def entKept (t w : Nat) : Nat :=
  let n := tblWords t
  let k := ((checkFields t).filter fun f => f.1 == w % n).map fun f => (2 ^ (f.2.1 + 1 - f.2.2) - 1) * 2 ^ f.2.2
  k.sum + (if (t = 0x1A ∨ t = 0x1B) ∧ w % 23 = 20 then 8 else 0)

/-- Whether an entry has a reserved bit set. -/
def entReserved (t : Nat) (e : List Word) : Bool :=
  (e.mapIdx fun w x => x.toNat &&& (0xFFFFFFFF ^^^ (entBits t w ||| entKept t w))).any (· != 0)

/-- An entry with the bits that the EF9 keeps cleared. -/
def entClean (t : Nat) (e : List Word) : List Word := e.mapIdx fun w x => word (x.toNat &&& entBits t w)

/-- Whether a destination is in the range of its type (R119); `bd` says whether SET_BD is allowed. -/
def destOk (dt dest : Nat) (bd : Bool) : Bool :=
  match dt with
  | 0 => decide (dest ≤ 265)
  | 1 => decide (dest < 1024)
  | 2 => decide (dest < 4096)
  | 6 => decide (dest < 32)
  | 7 => bd
  | _ => true

/-- Whether a 64-bit result is allowed (R119). -/
def resOk (r : Nat) (bd : Bool) : Bool := destOk (resDt r) (resDest r) bd

/-- Whether a layout's words are allowed (R91, R92). -/
def layoutOk (e : List Word) : Bool :=
  let ext := fun (w : Nat) =>
    let n := entF e w 17 14 + 1
    let off := entF e w 7 0
    !entB e w 31 || (decide (entF e w 23 18 + n ≤ 64) &&
      (if entB e w 30 then decide (off + n ≤ 16) && !entB e w 29 else decide (off + n ≤ 192)))
  let skip := entF e 32 24 23
  let pl := entF e 32 20 19
  let hint := entF e 33 13 0
  (List.range 32).all ext && !(skip != 0 && entF e 32 22 21 != 1) && !((skip == 1 || skip == 2) && !entB e 32 16) &&
    !(pl != 0 && !entB e 32 16) && pl != 3 && !(decide (1 ≤ hint) && decide (hint ≤ 63)) && decide (hint ≤ 9600) &&
    decide (entF e 33 21 14 ≤ 192) && decide (entF e 33 29 22 ≤ 128)

/-- Whether a lookup profile's words are allowed (R110). The destination MAC is read with BRIDGE = 0 too (R123); a field that the profile
does not use is bound by nothing. -/
def profileOk (e : List Word) : Bool :=
  let fits := fun (off n : Nat) => decide (off + n ≤ 64)
  let pfx := entF e 0 23 22
  let ka := entF e 1 3 0
  let kb := entF e 1 13 10
  decide (ka ≤ 10) && decide (kb ≤ 10) && pfx != 3 &&
    (!entB e 0 2 || fits (entF e 0 8 3) 2) &&
    fits (entF e 0 14 9) 6 && (!entB e 0 1 || fits (entF e 0 20 15) 6) &&
    (pfx == 0 || fits (entF e 0 29 24) (if pfx = 1 then 4 else 16)) &&
    fits (entF e 1 9 4) (keyBytes ka) && fits (entF e 1 19 14) (keyBytes kb)

/-- Whether a Catalogue profile's words are allowed (R157). -/
def catProfileOk (eg : Bool) (e : List Word) : Bool :=
  (List.range 64).all fun i =>
    let v := entF e (i / 4) (8 * (i % 4) + 7) (8 * (i % 4))
    decide (v < 128) || (decide (v % 128 < (if eg then 64 else 80)) && (decide (i < 32) || entB e 16 0))

/-- Whether a Catalogue result is allowed (R164). -/
def catResOk (eg : Bool) (r : Nat) : Bool :=
  let arg := rArg r
  let actOk := match rAct r with
    | 0 => if eg then decide (arg < 2 ^ 14) else arg == 0
    | 1 => decide (arg < 64)
    | 2 => !eg && decide (arg < 32)
    | 3 => !eg && destOk (arg % 8) (arg / 8) false
    | _ => false
  actOk && (!eg || (!rClsV r && decide (rCnt r < 4096) && decide (rRein r < 8192)))

/-- Whether a Catalogue row, or the two rows of a wide pair, are allowed (R160). -/
def catRowOk (eg wide : Bool) (e : List Word) : Bool :=
  catResOk eg (rowRes e) &&
    (!wide || (rowRes (e.drop 23) == 0 && entF e 20 2 0 == entF (e.drop 23) 20 2 0))

/-- Whether a micro-operation is allowed (R186, R188). -/
def microOk (o : Nat) : Bool :=
  let f := fun hi lo => bitsOf o hi lo
  match f 55 52 with
  | 0x0 => f 51 0 == 0
  | 0x1 => f 39 38 != 3 && (if f 39 38 = 0 then decide (f 43 40 ≤ 3) else f 31 0 == 0 && decide (f 37 32 + f 43 40 + 1 ≤ 64))
  | 0x2 => f 43 40 == 0 && f 39 38 != 3 && (f 39 38 == 0 || (f 31 16 == 0 && decide (f 37 32 + 2 ≤ 64)))
  | 0x3 => f 31 0 == 0
  | 0x4 => f 39 32 == 0 && f 43 42 != 3
  | 0x5 => f 29 0 == 0 && f 37 36 != 3 && (f 37 36 == 0 || decide (f 35 30 + f 43 38 + 1 ≤ 64))
  | 0x6 => f 36 0 == 0
  | 0x7 => f 35 16 == 0
  | 0x8 => f 41 0 == 0 && f 43 42 != 3
  | 0x9 => f 31 0 == 0 && decide (f 43 41 ≤ 3)
  | 0xA => f 39 0 == 0 && decide (f 51 48 ≤ 2) && (if f 51 48 = 0 then decide (0xC0 ≤ f 47 40) else f 47 40 == 0)
  | _ => false

/-- Whether a key-store entry's words are allowed (R114, R118, R119, R120): a single entry in 5 words, or both halves in 10. -/
def keyEntryOk (e : List Word) : Bool :=
  let ty := entF e 2 19 16
  let r := wordsNat ((e.drop 3).take 2)
  let e2 := e.drop 5
  let dbl := decide (e.length = 10)
  if !entB e 2 20 then resOk r (ty == 1 || ty == 4) && (!dbl || resOk (wordsNat ((e2.drop 3).take 2)) (ty == 1 || ty == 4))
  else
    (decide (1 ≤ ty) && decide (ty ≤ 10) && keyDbl ty == dbl && entB e 2 21 == dbl && !entB e 2 22 && resOk r (ty == 1 || ty == 4) &&
      (!dbl || (entB e2 2 20 && entB e2 2 21 && entB e2 2 22 && entF e2 2 19 16 == ty && wordsNat ((e2.drop 3).take 2) == 0)))

/-- Whether a bridge entry's destination is allowed (R119). -/
def bridgeOk (e : List Word) : Bool := entF e 2 16 14 ∈ [0, 1, 3, 4, 5] && destOk (entF e 2 16 14) (entF e 2 13 0) false

/-- Whether a node's rates are allowed (R247). -/
def ratesOk (e : List Word) : Bool :=
  decide (entF e 1 31 0 + entF e 2 9 0 * 2 ^ 32 ≤ 1600000000000) && decide (entF e 3 31 0 + entF e 4 9 0 * 2 ^ 32 ≤ 1600000000000)

/-- Whether a rein's words are allowed (R256). -/
def reinOk (e : List Word) : Bool :=
  let lim := if entB e 0 3 then 10500000000 else 1600000000000
  entF e 0 1 0 != 3 && decide (entF e 1 31 0 + entF e 2 9 0 * 2 ^ 32 ≤ lim) && decide (entF e 3 31 0 + entF e 4 9 0 * 2 ^ 32 ≤ lim)

/-- How many services a queue-map entry reaches from its first (R246). -/
def mapSpan (e : List Word) : Nat := if entF e 0 14 13 = 0 then 1 else 2 ^ entF e 0 18 15

/-- Whether a queue-map entry is allowed (R246): its services exist and belong to its port. -/
def State.mapOk (s : State) (p i : Nat) (e : List Word) : Bool :=
  let sv := entF e 0 12 0
  let n := mapSpan e
  decide (entF e 0 18 15 ≤ 8) && decide (sv + n ≤ 8192) && (List.range n).all fun k => s.subPort p (s.parentOf p (sv + k)) == i / 8

/-- Whether an entry's values are allowed; a table without a rule allows every value. -/
def State.entArgs (s : State) (t p i : Nat) (e : List Word) : Bool :=
  match t with
  | 0x02 => layoutOk e
  | 0x08 => profileOk e
  | 0x0B => resOk (wordsNat (e.take 2)) false
  | 0x0C => bridgeOk e
  | 0x0D => keyEntryOk e && (decide (e.length = 5) || i % 2 == 0)
  | 0x0F => entB e 2 10 || decide (entF e 2 9 0 ≤ 265)
  | 0x10 => !entB e 0 25 || (decide (1 ≤ entF e 0 24 16) && decide (entF e 0 24 16 ≤ 256) && decide (entF e 0 15 0 + entF e 0 24 16 ≤ 65536))
  | 0x18 => catProfileOk false e
  | 0x19 => catProfileOk true e
  | 0x1A => catRowOk false (s.sliceWide false p (i / 512)) e && !(s.sliceWide false p (i / 512) && i % 2 == 1)
  | 0x1B => catRowOk true (s.sliceWide true p (i / 512)) e && !(s.sliceWide true p (i / 512) && i % 2 == 1)
  | 0x20 => (List.range 4).all fun k => microOk (opOf e k)
  | 0x28 => s.mapOk p i e
  | 0x29 => entF e 0 31 16 != 0 && ratesOk e
  | 0x2A => entF e 0 31 16 != 0 && decide (entF e 0 5 0 ≤ 32) && ratesOk e
  | 0x2B => ratesOk e
  | 0x2C | 0x2D | 0x2E => reinOk e
  | 0x2F => decide (1 ≤ entF e 0 29 0) && decide (entF e 0 29 0 ≤ 1000000000)
  | _ => true

/-- The words that a command's entry data must have at an index: the table's width, or that of a double or wide entry (R363). -/
def State.entWords (s : State) (t p i n : Nat) : Bool :=
  match t with
  | 0x0D => n == 5 || n == 10
  | 0x1A => n == (if s.sliceWide false p (i / 512) then 46 else 23)
  | 0x1B => n == (if s.sliceWide true p (i / 512) then 46 else 23)
  | _ => n == tblWords t

/-! ### Conflicts -/

/-- Whether a queue-map entry of a pipeline reaches a service. -/
def State.mapReaches (s : State) (p sv : Nat) : Bool :=
  (List.range 264).any fun i =>
    let e := s.ent 0x28 p i
    decide (entF e 0 12 0 ≤ sv) && decide (sv < entF e 0 12 0 + mapSpan e)

/-- Whether a service has a non-empty queue or is reached by the queue map. -/
def State.svcUsed (s : State) (p sv : Nat) : Bool := !(s.queue (p * 8192 + sv)).isEmpty || s.mapReaches p sv

/-- Whether editions allow a change of an entry's bits (R104, R169, R202): `bits` are the word and lower bit of EDA and EDB, `cut` an
entry's part that is bound. -/
def State.edAllows (s : State) (old new : List Word) (w b : Nat) (cut : List Word → List Nat) : Bool :=
  s.edRule (entB old w b) (entB old w (b + 1)) (entB new w b) (entB new w (b + 1)) (cut old != cut new)

/-- The edition-bound part of a select entry: its key, masks and LAYOUT, with the V that an ENTRY_DELETE clears (R104; DEDUCED, assumption log
21). -/
def selCut (e : List Word) : List Nat := (e.take 6).map (·.toNat) ++ [entF e 6 5 0, entF e 6 10 10]

/-- The edition-bound part of a Catalogue row: VALUE, MASK and RESULT (R169). -/
def rowCut (e : List Word) : List Nat := (e.take 20).map (·.toNat) ++ [rowRes e]

/-- The edition-bound part of a rewrite word. -/
def farCut (e : List Word) : List Nat := (e.take 7).map (·.toNat) ++ [entF e 7 13 0]

/-- Whether a write of a table entry is refused with CONFLICT. -/
def State.entConflict (s : State) (t p i : Nat) (new : List Word) : Bool :=
  let old := s.ent t p i
  let row := fun (eg : Bool) =>
    !s.edAllows old (new.take 23) 20 1 rowCut ||
      (s.sliceWide eg p (i / 512) && !s.edAllows (s.ent t p (i + 1)) (new.drop 23) 20 1 rowCut)
  match t with
  | 0x01 => !s.edAllows old new 6 8 selCut
  | 0x02 => (List.range 64).any fun j => let e := s.ent 0x01 p j; entB e 6 10 && entF e 6 5 0 == i
  | 0x1A => row false
  | 0x1B => row true
  | 0x20 => !s.edAllows old new 7 14 farCut
  | 0x29 => entF old 0 10 0 != entF new 0 10 0 && s.svcUsed p i
  | 0x2A => entF old 0 5 0 != entF new 0 5 0 && (List.range 8192).any fun sv => s.parentOf p sv == i && s.svcUsed p sv
  | 0x2F =>
    let k := i / 512
    s.rd fHAR_GATE_CFG_ACTIVE p k == i / 256 % 2 || s.on fHAR_GATE_CFG_SWAP_ARMED p k
  | _ => false

/-! ### Writes -/

/-- Counts a key-store entry's ways in use up or down, with the overflow store's high-water mark. -/
def State.kstUse (s : State) (i : Nat) (up : Bool) : State :=
  if i < 1048576 then (if up then s.addSat fKST_COUNT_ENTRIES 1 else s.sub fKST_COUNT_ENTRIES 1)
  else
    let s := if up then s.addSat fKST_OVF_COUNT_OVF_ENTRIES 1 else s.sub fKST_OVF_COUNT_OVF_ENTRIES 1
    let n := s.rd fKST_OVF_COUNT_OVF_ENTRIES
    if s.rd fKST_OVF_COUNT_OVF_HIGH < n then s.wr fKST_OVF_COUNT_OVF_HIGH n else s

/-- Writes one 5-word entry of the key store. -/
def State.kstSet (s : State) (i origin : Nat) (e : List Word) : State :=
  let s := match entB (s.ent 0x0D 15 i) 2 20, entB e 2 20 with
    | true, false => s.kstUse i false
    | false, true => s.kstUse i true
    | _, _ => s
  s.writeEnt 0x0D 15 i origin e

/-- Writes one entry of a bridge store, with its counts. A hit bit stays with its key. -/
def State.bridgeSet (s : State) (p i origin : Nat) (e : List Word) : State :=
  let o := s.ent 0x0C p i
  let count := fun (s : State) (e : List Word) (up : Bool) =>
    if bridgeV e then
      let s := if bridgeStatic e then s else s.learnCount p (bridgeBd e) (entF e 2 16 14) (entF e 2 13 0) up
      s.bridgeUse p i up
    else s
  let s := count (count s o false) e true
  let s := if bridgeV o && bridgeV e && bridgeBd o == bridgeBd e && bridgeMac o == bridgeMac e then s else s.clearHit p i
  s.writeEnt 0x0C p i origin e

/-- Writes a node: its token state is kept and clamped, and an enable that rises fills its bucket (R249, R253). -/
def State.nodeSet (s : State) (t p i origin : Nat) (e : List Word) : State :=
  let o := s.ent t p i
  let v := fun (peak : Bool) =>
    let n := curbOf e peak
    let cap : Int := ((n.2.1 * byteU : Nat) : Int)
    if n.2.2 && !(curbOf o peak).2.2 then cap else min (s.curbNow t p i peak) cap
  let a := v true
  let b := v false
  ((s.writeEnt t p i origin e).setCurb t p i true a).setCurb t p i false b

/-- Writes an entry that has passed its checks, with what its table keeps beside it. -/
def State.putEntry (s : State) (t p i origin : Nat) (e : List Word) : State :=
  match t with
  | 0x0C => s.bridgeSet p i origin e
  | 0x0D => if e.length = 10 then (s.kstSet i origin (e.take 5)).kstSet (i + 1) origin (e.drop 5) else s.kstSet i origin e
  | 0x1A => if e.length = 46 then (s.putRow false p i origin (e.take 23)).putRow false p (i + 1) origin (e.drop 23) else s.putRow false p i origin e
  | 0x1B => if e.length = 46 then (s.putRow true p i origin (e.take 23)).putRow true p (i + 1) origin (e.drop 23) else s.putRow true p i origin e
  | 0x29 | 0x2A | 0x2B => s.nodeSet t p i origin e
  | 0x2C | 0x2D | 0x2E =>
    let o := s.ent t p i
    (s.writeEnt t p i origin e).reinWritten t p i o e
  | _ => s.writeEnt t p i origin e

/-- An entry with the expert fields of the Harness's tables kept as they were (R11, R247). -/
def keepExpert (t : Nat) (old new : List Word) : List Word :=
  match t with
  | 0x28 => entSet new 0 18 13 (entF old 0 18 13)
  | 0x29 => entSet new 0 10 0 (entF old 0 10 0)
  | 0x2A => entSet new 0 5 0 (entF old 0 5 0)
  | _ => new

/-! ### The prefix index (R121, R364) -/

/-- The units that a prefix costs (R121). -/
def pfxCost (e : List Word) : Nat := if !entB e 0 12 then 1 else if entF e 0 20 13 ≤ 64 then 2 else 4

/-- Whether a descriptor's prefix is allowed (R121): its length, and no bit below it. -/
def pfxOk (e : List Word) : Bool :=
  let n := entF e 0 20 13
  let width := if entB e 0 12 then 128 else 32
  decide (n ≤ width) && pfxBits e % 2 ^ (width - n) == 0 && (entB e 0 12 || ((e.drop 2).take 3).all (· == 0))

/-- Whether two descriptors name the same prefix. -/
def pfxSame (a b : List Word) : Bool := a.take 5 == b.take 5

/-- The slot of a prefix, if it is held. -/
def State.pfxSlot (s : State) (e : List Word) : Option Nat := (s.prefixes.find? fun x => pfxSame x.2 e).map (·.1)

/-- Counts a prefix in or out. -/
def State.pfxUse (s : State) (e : List Word) (up : Bool) : State :=
  let f := if entB e 0 12 then fKST_PFX_COUNT6_V6 else fKST_PFX_COUNT_V4
  if up then (s.addSat fKST_PFX_UNITS_USED (pfxCost e)).addSat f 1 else (s.sub fKST_PFX_UNITS_USED (pfxCost e)).sub f 1

/-- ENTRY_WRITE of a prefix: its status and slot. -/
def State.pfxWrite (s : State) (e : List Word) (origin : Nat) : State × Nat × Nat :=
  match s.pfxSlot e with
  | some n => (s.writeEnt 0x0E 15 n origin e, stOK, n)
  | none =>
    if 1048576 < s.rd fKST_PFX_UNITS_USED + pfxCost e then (s, stFULL, 0)
    else
      let n := lowestFree (s.prefixes.map (·.1))
      ((s.pfxUse e true).writeEnt 0x0E 15 n origin e, stOK, n)

/-- ENTRY_DELETE of a prefix. -/
def State.pfxDelete (s : State) (e : List Word) (origin : Nat) : State × Nat × Nat :=
  match s.pfxSlot e with
  | some n => ((s.pfxUse e false).zeroEnt 0x0E 15 n origin, stOK, n)
  | none => (s, stNOT_FOUND, 0)

/-! ### Commands on entries -/

/-- The checks of R362 and R363 common to the commands that name a table entry. -/
def tableArgs (t p i : Nat) : Bool :=
  match tblInfo t with
  | some x => (x.held != .pipe || decide (p < 8)) && (decide (i < x.entries) || t == 0x0E)
  | none => false

/-- ENTRY_WRITE (R362): the state, the status and the result. `gate` says whether the master's expert gate of the pipeline's HAR block
is open. -/
def State.entryWrite (s : State) (gate : Bool) (t p i origin : Nat) (e : List Word) : State × Nat × Nat :=
  let ro := match tblInfo t with | some x => x.readOnly | none => true
  if ro || !tableArgs t p i || !s.entWords t p i e.length || entReserved t e then (s, stBAD_ARGS, 0)
  else
    let e := entClean t e
    if t = 0x0E then (if pfxOk e && resOk (wordsNat ((e.drop 5).take 2)) false then s.pfxWrite e origin else (s, stBAD_ARGS, 0))
    else
      let e := if gate then e else keepExpert t (s.ent t p i) e
      if !s.entArgs t p i e then (s, stBAD_ARGS, 0)
      else if s.entConflict t p i e then (s, stCONFLICT, 0)
      else (s.putEntry t p i origin e, stOK, i)

/-- Whether the entry at an index of the key store is the first half of a double entry (R114, R120). -/
def State.kstDouble (s : State) (i : Nat) : Bool := entB (s.ent 0x0D 15 i) 2 21 && !entB (s.ent 0x0D 15 i) 2 22

/-- ENTRY_DELETE (R103, R171, R365): a select entry loses its V, every other entry becomes all 0. -/
def State.entryDelete (s : State) (t p i origin : Nat) (e : List Word) : State × Nat × Nat :=
  let ro := match tblInfo t with | some x => x.readOnly | none => true
  if ro || !tableArgs t p i || !s.entWords t p i e.length then (s, stBAD_ARGS, 0)
  else if t = 0x0E then
    (if entReserved t e = false ∧ pfxOk (entClean t e) then s.pfxDelete (entClean t e) origin else (s, stBAD_ARGS, 0))
  else
    let wide := (t = 0x1A ∧ s.sliceWide false p (i / 512)) ∨ (t = 0x1B ∧ s.sliceWide true p (i / 512))
    if wide ∧ i % 2 = 1 then (s, stBAD_ARGS, 0)
    else
      let new := if t = 0x01 then entSet (s.ent t p i) 6 10 10 0 else zeros (if wide then 46 else tblWords t)
      if s.entConflict t p i new then (s, stCONFLICT, 0)
      else if t = 0x01 then ((s.setEnt t p i new).mirrored t p origin i (zeros 8), stOK, i)
      else if t = 0x0D ∧ s.kstDouble i then
        (s.putEntry t p i origin (zeros 10), stOK, i)
      else (s.putEntry t p i origin new, stOK, i)

/-! ### Hashed stores (R117, R118) -/

/-- The lowest free place for a key-store key (R117). -/
def State.kstPlace (s : State) (ty key : Nat) : Option Nat :=
  let b := s.keyBucket ty key
  let free := fun (n : Nat) => !entB (s.ent 0x0D 15 n) 2 20
  let fits := fun (n : Nat) => free n && (!keyDbl ty || free (n + 1))
  match (keyWays ty).find? fun w => fits (4 * b + w) with
  | some w => some (4 * b + w)
  | none =>
    let used := (s.tables.filter fun x => x.1.1 == 0x0D && decide (1048576 ≤ x.1.2.2) && entB x.2 2 20).length
    let step := if keyDbl ty then 2 else 1
    ((List.range (used + 1)).map (· * step)).find? (fun k => decide (k < 16384) && fits (1048576 + k)) |>.map (1048576 + ·)

/-- The type and key that a HASH command's key-store entry gives. -/
def keyEntry (e : List Word) : Nat × Nat :=
  let ty := entF e 2 19 16
  (ty, if keyDbl ty then kstKey e * 2 ^ 80 + kstKey (e.drop 5) else kstKey e)

/-- A HASH command's entry with the bits that make it valid set: V, and DBL and HALF of a double entry. -/
def keyValid (e : List Word) : List Word :=
  if e.length = 10 then entSet (entSet (entSet (entSet e 2 21 20 3) 2 22 22 0) 7 21 20 3) 7 22 22 1 else entSet e 2 22 20 1

/-- Whether a HASH command's entry data has the width of its table and key. -/
def hashWords (t : Nat) (e : List Word) : Bool :=
  if t = 0x0C then decide (e.length = 3)
  else decide (e.length = (if keyDbl (entF e 2 19 16) then 10 else 5)) && decide (1 ≤ entF e 2 19 16) && decide (entF e 2 19 16 ≤ 10)

/-- The checks common to the HASH commands. -/
def State.hashArgs (t p : Nat) (e : List Word) : Bool :=
  (t == 0x0C && decide (p < 8) || t == 0x0D) && hashWords t e && !entReserved t e

/-- The entry number that holds the key of a HASH command. -/
def State.hashFind (s : State) (t p : Nat) (e : List Word) : Option Nat :=
  if t = 0x0C then s.bridgeFind p (bridgeBd e) (bridgeMac e) else s.kstFind (keyEntry e).1 (keyEntry e).2

/-- HASH_INSERT (R117). -/
def State.hashInsert (s : State) (t p origin : Nat) (replace : Bool) (e : List Word) : State × Nat × Nat :=
  if !State.hashArgs t p e then (s, stBAD_ARGS, 0)
  else
    let e := entClean t e
    let e := if t = 0x0C then entSet e 1 30 30 1 else keyValid e
    if !(if t = 0x0C then bridgeOk e else keyEntryOk e) then (s, stBAD_ARGS, 0)
    else match s.hashFind t p e with
      | some i =>
        if !replace then (s, stEXISTS, i)
        else if t = 0x0C then (s.bridgeSet p i origin e, stOK, i)
        else (s.kstSet i origin (e.take 5), stOK, i)
      | none =>
        match (if t = 0x0C then s.bridgePlace p (bridgeBd e) (bridgeMac e) else s.kstPlace (keyEntry e).1 (keyEntry e).2) with
        | some i => (s.putEntry t p i origin e, stOK, i)
        | none => (s, stFULL, 0)

/-- HASH_DELETE (R365). -/
def State.hashDelete (s : State) (t p origin : Nat) (e : List Word) : State × Nat × Nat :=
  if !State.hashArgs t p e then (s, stBAD_ARGS, 0)
  else match s.hashFind t p (entClean t e) with
    | none => (s, stNOT_FOUND, 0)
    | some i =>
      if t = 0x0C then (s.bridgeDelete p i origin, stOK, i)
      else (s.putEntry t p i origin (zeros e.length), stOK, i)

/-! ### Reads with their checks (R368) -/

/-- The bits that a corruption inverts among the check bits at the given places, as (word, bit) (R417): one, or two where there are two. Which ones
is a free value. -/
def flipsAt (ck i : Nat) (dbl : Bool) (places : List (Nat × Nat)) : List (Nat × Nat) :=
  let n := places.length
  let a := if n = 2 then (if Config.firstParity ck i then 0 else 1) else Config.flipBit ck i % n
  let b := (a + 1 + Config.flipBit i ck % (n - 1)) % n
  (places[a]?).toList ++ (if dbl && decide (2 ≤ n) then (places[b]?).toList else [])

/-- The places of the check bits that the k-th checker of an entry guards. -/
def checkPlaces (t k : Nat) : List (Nat × Nat) :=
  let fs := if t = 0x1A ∨ t = 0x1B then (if k = 0 then (checkFields t).take 2 else (checkFields t).drop 2) else checkFields t
  fs.flatMap fun f => (List.range (f.2.1 + 1 - f.2.2)).map fun j => (f.1, f.2.2 + j)

/-- An entry as a replica holds it, its check bits included, with those that a corruption inverted (R368, R417). -/
def State.asRead (s : State) (t p rep i : Nat) : List Word :=
  ((entChecks t i).zipIdx.flatMap fun c => match s.marked c.1.1 (tblPipe t p) rep c.1.2 with
    | some dbl => flipsAt c.1.1 c.1.2 dbl (checkPlaces t c.2)
    | none => []).foldl (fun e f => entSet e f.1 f.2 f.2 (1 - entF e f.1 f.2 f.2)) (asStored t (s.ent t p i))

/-- The indices that an entry takes: two for a double entry or a wide pair. -/
def State.entSpan (s : State) (t p i : Nat) : List Nat :=
  if (t = 0x0D ∧ entB (s.ent t p i) 2 20 ∧ s.kstDouble i) ∨ (t = 0x1A ∧ s.sliceWide false p (i / 512)) ∨ (t = 0x1B ∧ s.sliceWide true p (i / 512))
  then [i, i + 1] else [i]

/-- The words that an index of a table holds in a replica, its check bits included: a double entry or a wide pair in full. -/
def State.entRead (s : State) (t p rep i : Nat) : List Word := (s.entSpan t p i).flatMap fun j => s.asRead t p rep j

/-- Whether one index fails its check in the replica that a command reads; `rep` is the replica, the pipeline of a replicated table (R362). -/
def State.oneBad (s : State) (t p rep i : Nat) : Bool :=
  (entChecks t i).any fun c => if 0x28 ≤ t then s.marked c.1 (tblPipe t p) rep c.2 == some true else s.bad c.1 (tblPipe t p) rep c.2

/-- The index of an entry that fails its check, in either part of one that takes two. -/
def State.entBad (s : State) (t p rep i : Nat) : Option Nat := (s.entSpan t p i).find? fun j => s.oneBad t p rep j

/-- The way of a bucket whose key parity is bad, which fails a lookup that matches nothing (R128), in the copy that a command reads. -/
def State.missBad (s : State) (t p : Nat) (e : List Word) : Option Nat :=
  let b := 4 * (if t = 0x0C then s.bridgeBucket p (bridgeBd e) (bridgeMac e) else s.keyBucket (keyEntry e).1 (keyEntry e).2)
  ((List.range 4).find? fun w => s.kparBad (if t = 0x0C then 0x07 else 0x09) (tblPipe t p) 0 (b + w)).map (b + ·)

/-- The pool of a stall number and its index there. -/
def State.stallPlace (s : State) (n : Nat) : Nat × Nat :=
  let c := fun k => s.rd fSTB_POOL_COUNT_COUNT 0 k
  if n < c 0 then (0, n) else if n < c 0 + c 1 then (1, n - c 0) else if n < c 0 + c 1 + c 2 then (2, n - c 0 - c 1)
  else (3, n - c 0 - c 1 - c 2)

/-- Reports a failed read as a frame's read would and opens its repair (R368). -/
def State.entReport (s : State) (t p rep i : Nat) : State :=
  let s :=
    if t = 0x01 ∨ t = 0x02 then s.raise .RDR_PARITY p i
    else if t = 0x18 ∨ t = 0x19 then (s.catPar (t == 0x19) p rep 2 i).raise .GRP_PARITY p i
    else if t = 0x1A ∨ t = 0x1B then
      (if s.bad (catRowCk (t == 0x1B)) p rep i then (s.catPar (t == 0x1B) p rep 0 i).raise .CAT_ROW_PARITY p i
       else (s.catPar (t == 0x1B) p rep 1 i).raise .CAT_RES_PARITY p i)
    else if t = 0x20 ∨ t = 0x21 ∨ t = 0x22 then s.raise .FAR_PARITY p i
    else if 0x28 ≤ t ∧ t ≤ 0x2F then (s.harRead t p i).1
    else if t = 0x38 then
      let x := s.stallPlace i
      (s.stbErr 2 x.1 p x.2).raise .STB_ECC_UNCORR p i
    else if t = 0x39 then (s.stbErr 3 0 p i).raise .STB_ECC_UNCORR p i
    else s.lkReport p t i
  if 0x28 ≤ t then s else (s.repairOpen t p i).1

/-- Reports a read whose check code corrects a single bit, as a frame's read would (R228, R270): it only counts. -/
def State.entCorrect (s : State) (t p i : Nat) : State :=
  if 0x28 ≤ t ∧ t ≤ 0x2F then (s.harRead t p i).1
  else if (t = 0x38 ∨ t = 0x39) ∧ (entChecks t i).any (fun c => s.marked c.1 (tblPipe t p) 0 c.2 == some false) = true then
    s.raise .STB_ECC_CORR 0 i
  else s

end Sys2Proof.Machine
end

