-- ==== Sys2Proof/Machine/Ecdsa.lean ====
section
/-! DEFINITION. The verification of an ECDSA signature on the curve P-384, which the spec names for the Folio and for patches (R378, R385, R387)
and does not define: the function of FIPS 186-5 (PRESUMED, assumption log 30). Points are in Jacobian coordinates, (X, Y, Z) for the affine point
(X / Z², Y / Z³), and Z = 0 is the point at infinity. -/
namespace Sys2Proof.Machine

/-- The prime of the field of P-384. -/
def ecP : Nat := 2 ^ 384 - 2 ^ 128 - 2 ^ 96 + 2 ^ 32 - 1

/-- The order of the base point. -/
def ecN : Nat := 0xFFFFFFFFFFFFFFFFFFFFFFFFFFFFFFFFFFFFFFFFFFFFFFFFC7634D81F4372DDF581A0DB248B0A77AECEC196ACCC52973

/-- The constant b of the curve y² = x³ - 3x + b. -/
def ecB : Nat := 0xB3312FA7E23EE7E4988E056BE3F82D19181D9C6EFE8141120314088F5013875AC656398D8A2ED19D2A85C8EDD3EC2AEF

/-- The coordinates of the base point. -/
def ecGx : Nat := 0xAA87CA22BE8B05378EB1C71EF320AD746E1D3B628BA79B9859F741E082542A385502F25DBF55296C3A545E3872760AB7
def ecGy : Nat := 0x3617DE4A96262C6F5D9E98BF9292DC29F8F41DBD289A147CE9DA3113B5F0B8C00A60B1CE1D7E819D7A431D7C90EA0E5F

/-- A difference modulo the prime. -/
def ecSub (a b : Nat) : Nat := (a + (ecP - b % ecP)) % ecP

/-- b raised to e modulo m, over the low n bits of e. -/
def powMod (m b : Nat) : Nat → Nat → Nat
  | 0, _ => 1 % m
  | n + 1, e =>
    let h := powMod m b n (e / 2)
    let q := h * h % m
    if e % 2 = 1 then q * b % m else q

/-- A point. -/
structure EcPoint where
  x : Nat
  y : Nat
  z : Nat
  deriving DecidableEq, Repr

/-- Twice a point. -/
def EcPoint.twice (a : EcPoint) : EcPoint :=
  let zz := a.z * a.z % ecP
  let yy := a.y * a.y % ecP
  let b := a.x * yy % ecP
  let m := 3 * ecSub a.x zz * ((a.x + zz) % ecP) % ecP
  let x := ecSub (m * m) (8 * b)
  ⟨x, ecSub (m * ecSub (4 * b) x) (8 * yy * yy), 2 * a.y * a.z % ecP⟩

/-- The sum of two points. -/
def EcPoint.plus (a c : EcPoint) : EcPoint :=
  if a.z = 0 then c
  else if c.z = 0 then a
  else
    let az := a.z * a.z % ecP
    let cz := c.z * c.z % ecP
    let u := a.x * cz % ecP
    let v := a.y * cz * c.z % ecP
    let h := ecSub (c.x * az) u
    let r := ecSub (c.y * az * a.z) v
    if h = 0 then (if r = 0 then a.twice else ⟨1, 1, 0⟩)
    else
      let hh := h * h % ecP
      let w := u * hh % ecP
      let x := ecSub (r * r) (hh * h + 2 * w)
      ⟨x, ecSub (r * ecSub w x) (v * hh * h), h * a.z * c.z % ecP⟩

/-- k times a point, over the low n bits of k. -/
def EcPoint.times (a : EcPoint) : Nat → Nat → EcPoint
  | 0, _ => ⟨1, 1, 0⟩
  | n + 1, k =>
    let t := (EcPoint.times a n (k / 2)).twice
    if k % 2 = 1 then t.plus a else t

/-- The affine x of a point that is not at infinity. -/
def EcPoint.affineX (a : EcPoint) : Nat :=
  let i := powMod ecP a.z 384 (ecP - 2)
  a.x * (i * i % ecP) % ecP

/-- Whether x and y are a public key: a point of the curve. -/
def ecKeyOk (x y : Nat) : Bool :=
  decide (x < ecP) && decide (y < ecP) && y * y % ecP == (ecSub (x * x * x) (3 * x) + ecB) % ecP

/-- Whether (r, s) is a signature of the digest e by the public key (x, y). -/
def ecdsaOk (x y e r s : Nat) : Bool :=
  let w := powMod ecN s 384 (ecN - 2)
  let p := (EcPoint.times ⟨ecGx, ecGy, 1⟩ 384 (e * w % ecN)).plus (EcPoint.times ⟨x, y, 1⟩ 384 (r * w % ecN))
  ecKeyOk x y && decide (1 ≤ r) && decide (r < ecN) && decide (1 ≤ s) && decide (s < ecN) && p.z != 0 && p.affineX % ecN == r

/-- The number that twelve words make, least significant word first (R385). -/
def wordsNum (ws : List Word) : Nat := ws.reverse.foldl (fun a w => a * 2 ^ 32 + w.toNat) 0

/-- Whether 24 words, r and then s, are a signature of a digest by a public key of 24 words, X and then Y (R378, R385). -/
def signatureOk (key sig : List Word) (digest : Nat) : Bool :=
  ecdsaOk (wordsNum (key.take 12)) (wordsNum ((key.drop 12).take 12)) digest (wordsNum (sig.take 12)) (wordsNum ((sig.drop 12).take 12))

end Sys2Proof.Machine
end

