-- ==== Sys2Proof/Machine/HostOps.lean ====
section
/-! DEFINITION. What a DMA unit does to host memory (R329 to R336): where a ring's entries and its write-back lie, writes and MSI-X
messages in the order they leave, and interrupt moderation. -/
namespace Sys2Proof.Machine

/-- The hosts. -/
def hosts : List HostId := [.a, .b]

/-- The bytes of words in memory order. -/
def wordsBytes (ws : List Word) : List Byte := (ws.map wordBytes).flatten

/-- A channel's ring base (R330). -/
def State.chBase (s : State) (c : Nat) : Nat := s.rd fHST_CH_BASE_LO_BASE 0 c * 4096 + s.rd fHST_CH_BASE_HI_BASE 0 c * 2 ^ 32

/-- A channel's write-back address (R330). -/
def State.chWb (s : State) (c : Nat) : Nat := s.rd fHST_CH_WB_LO_WB 0 c * 8 + s.rd fHST_CH_WB_HI_WB 0 c * 2 ^ 32

/-- Whether a channel runs: it is enabled and its host is not lost (R328, R337). -/
def State.chOn (s : State) (h : HostId) (l : Nat) : Bool := s.on fHST_CH_CFG_EN 0 (chanOf h l) && !(h ∈ s.hst.lost)

/-- Sends a write or a message to a host that is not lost. -/
def State.emit (s : State) (h : HostId) (o : PcieOut) : State :=
  if h ∈ s.hst.lost then s else { s with hst := { s.hst with out := s.hst.out ++ [o] } }

/-- Writes bytes to host memory. -/
def State.hostWrite (s : State) (h : HostId) (a : Nat) (bs : List Byte) : State := s.emit h (.write h a bs)

/-- Reads n bytes of host memory: the request covers the aligned words that hold them (R335). -/
def State.hostRead (s : State) (h : HostId) (a n : Nat) : State :=
  if n = 0 then s else s.emit h (.read h (a / 4 * 4) ((a + n + 3) / 4 * 4 - a / 4 * 4))

/-- Reads n entries of a ring from entry `first` on, wrapping at the ring's end. -/
def State.ringRead (s : State) (h : HostId) (c first n size : Nat) : State :=
  let len := s.ringSize c
  let m := min n (len - first % len)
  (s.hostRead h (s.chBase c + first % len * size) (m * size)).hostRead h (s.chBase c) ((n - m) * size)

/-- A word of a host's MSI-X table; the vector control word resets to masked (PRESUMED from PCIe, assumption log 23). -/
def State.msixWord (s : State) (h : HostId) (i : Nat) : Word := AMap.getD s.hst.msix (h, i) (if i % 4 = 3 then 1 else 0)

/-- Whether a vector is masked. -/
def State.msixMasked (s : State) (h : HostId) (v : Nat) : Bool := bitOf (s.msixWord h (4 * v + 3)).toNat 0

/-- The pending bits of a host that are 1, as vector numbers. -/
def State.pbaOf (s : State) (h : HostId) : List Nat := AMap.getD s.hst.pba h []

/-- A request of a vector reaches the endpoint: it is sent, and a masked one sets its pending bit (R333). -/
def State.msiNow (s : State) (h : HostId) (v : Nat) : State :=
  if s.msixMasked h v then { s with hst := { s.hst with pba := AMap.set s.hst.pba h (v :: (s.pbaOf h).filter (· != v)) } }
  else s.emit h (.msi h v)

/-- Requests a vector of a host through crossing 2 or 3, whose requests of one vector merge (R424). -/
def State.interrupt (s : State) (h : HostId) (v : Nat) : State :=
  let r := s.pulse (2 + h.num) (.msi h v)
  if r.2 then r.1.msiNow h v else r.1

/-- A write of an MSI-X table word: a vector that is unmasked while pending is sent, and its pending bit cleared (PCIe). -/
def State.msixWrite (s : State) (h : HostId) (i : Nat) (w : Word) : State :=
  let s := { s with hst := { s.hst with msix := AMap.set s.hst.msix (h, i) w } }
  let v := i / 4
  if v ∈ s.pbaOf h ∧ !s.msixMasked h v then
    ({ s with hst := { s.hst with pba := AMap.set s.hst.pba h ((s.pbaOf h).filter (· != v)) } }).emit h (.msi h v)
  else s

/-- What a channel keeps beside its registers. -/
def State.chanSt (s : State) (c : Nat) : ChanSt := AMap.getD s.hst.chans c ⟨0, 0, false⟩

/-- The state with that replaced. -/
def State.setChanSt (s : State) (c : Nat) (x : ChanSt) : State := { s with hst := { s.hst with chans := AMap.set s.hst.chans c x } }

/-- Sends a channel's vector and counts its entries anew. -/
def State.chanInt (s : State) (h : HostId) (c : Nat) : State :=
  (s.interrupt h (s.rd fHST_CH_CFG_VECTOR 0 c)).setChanSt c { s.chanSt c with since := 0 }

/-- Sends a channel's vector when its unsignalled entries have reached MOD_COUNT (R333). -/
def State.intCheck (s : State) (h : HostId) (c : Nat) : State :=
  let n := (s.chanSt c).since
  if s.on fHST_CH_CFG_INT_EN 0 c ∧ n ≠ 0 ∧ s.rd fHST_CH_CFG_MOD_COUNT 0 c ≤ n then s.chanInt h c else s

/-- n entries written on a channel count toward its interrupt (R333). -/
def State.wrote (s : State) (h : HostId) (c n : Nat) : State :=
  let x := s.chanSt c
  (s.setChanSt c { x with since := x.since + n, firstAt := if x.since = 0 then s.tim.rc else x.firstAt }).intCheck h c

/-- Writes the EF9's index of a channel to its write-back address, followed by 4 bytes of 0 (R330). -/
def State.writeBack (s : State) (h : HostId) (c : Nat) : State :=
  s.hostWrite h (s.chWb c) (wordBytes (s.rg .HST_CH_DEV_IDX 0 c) ++ List.replicate 4 0)

/-- Moves the EF9's index of a channel and writes it back. -/
def State.advance (s : State) (h : HostId) (c n : Nat) : State := (s.addWrap fHST_CH_DEV_IDX_IDX n 0 c).writeBack h c

/-- Writes entries of an EF9-written ring, then its producer, then its interrupt (R332): entry n lies at base + (n mod size) × size. -/
def State.ringPut (s : State) (h : HostId) (l : Nat) (entries : List (List Word)) : State :=
  let c := chanOf h l
  let size := s.ringSize c
  let idx := s.rd fHST_CH_DEV_IDX_IDX 0 c
  let base := s.chBase c
  let s' := (entries.zipIdx).foldl
    (fun s e => s.hostWrite h (base + (idx + e.2) % 2 ^ 32 % size * (4 * e.1.length)) (wordsBytes e.1)) s
  if entries.isEmpty then s else (s'.advance h c entries.length).wrote h c entries.length

/-- The free places of an EF9-written ring. -/
def State.ringRoom (s : State) (c : Nat) : Nat := s.ringSize c - s.ringUsed c

/-- The entries of a software-written ring that a doorbell covers and the EF9 has not finished with (R331). -/
def State.ringWork (s : State) (c : Nat) : Nat := (s.rd fHST_CH_HOST_IDX_IDX 0 c + 2 ^ 32 - s.rd fHST_CH_DEV_IDX_IDX 0 c) % 2 ^ 32

end Sys2Proof.Machine
end

