-- ==== Sys2Proof/Machine/Mirror.lean ====
section
/-! DEFINITION. The rows of learning, ageing, the table mirror, repairs and fences (R139 to R150), and the scrubs of the tables (R105, R129,
R175, R204). -/
namespace Sys2Proof.Machine

/-- The Clerk's step has ended: it is at a boundary again. -/
def State.idle (s : State) : State := { s with clerk := { s.clerk with work := .idle } }

/-- The step in progress waits for a mirror queue (R147, R379). -/
def State.stepWaits (s : State) : State := { s with clerk := { s.clerk with stepHeld := true } }

/-- More steps or entries than a step of the Clerk takes. -/
def stepMost : Nat := 65536

/-! ### Ageing (R141, R142) -/

/-- One entry of an age sweep: a valid entry that is not static loses its hit bit, or is deleted when the bit is 0. `hits` are entries that
a lookup hits in the cycle of their compare-and-delete (R142). The second part counts deletions. -/
def State.sweepEntry (hits : List Nat) (p : Nat) (x : State × Nat) (i : Nat) : State × Nat :=
  let s := x.1
  let e := s.ent 0x0C p i
  if !bridgeV e || bridgeStatic e then x
  else if s.hitBit p i then (s.clearHit p i, x.2)
  else if i ∈ hits then ((s.setHit p i).blk p (160 + 11), x.2)
  else
    let s' := (s.bridgeDelete p i 4).blk p (160 + 10)
    let s' := if s.on fBRS_LEARN_CFG_EVT_AGE p then
      s'.learnEvent 0x12 p (bridgeBd e) (bridgeMac e) 0 0 (entF e 2 16 14) (entF e 2 13 0) else s'
    (s', x.2 + 1)

/-- The entries still to visit, from `next` on, of a chunk of a visit that began at `start` of n entries: a chunk has at most 4,096 (R370). -/
def chunkOf (n start next : Nat) : List Nat := (List.range (min (4096 - (next - start) % 4096) (n - next))).map (next + ·)

/-- Visits the entries of a chunk in order, with a result so far; before one whose records find a mirror queue too full it stops (R147). The
last part is how many it visited. -/
def chunkRun (need : State → Nat → Nat) (f : State × Nat → Nat → State × Nat) : List Nat → State × Nat → (State × Nat) × Nat
  | [], x => (x, 0)
  | i :: l, x =>
    if x.1.mirShort (need x.1 i) then (x, 0)
    else
      let r := chunkRun need f l (f x i)
      (r.1, r.2 + 1)

/-- One chunk of a sweep that began at `start`, from `next` on, with the number of deletions added to `acc`; at most `most` entries. -/
def State.sweepChunk (s : State) (p start next acc : Nat) (hits : List Nat) (most : Nat) : (State × Nat) × Nat :=
  chunkRun (fun _ _ => 1) (State.sweepEntry hits p) ((chunkOf 532480 start next).take most) (s, acc)

/-- When a pipeline's next timed sweep is due: PERIOD_S of the running count from the last due time, its write, or reset, where the count starts. -/
def State.ageDueAt (s : State) (p : Nat) : Nat :=
  AMap.getD s.lrn.ageDue p (s.tim.rcBase + ns (s.rd fBRS_AGE_CFG_PERIOD_S p * nsPerSec))

/-- Whether a timed sweep of a pipeline is due. -/
def State.ageIsDue (s : State) (p : Nat) : Bool := s.rd fBRS_AGE_CFG_PERIOD_S p != 0 && decide (s.ageDueAt p ≤ s.tim.rc)

/-- A timed sweep starts, and the next falls due a period later. -/
def State.ageStart (s : State) (p : Nat) : State :=
  let due := s.ageDueAt p + ns (s.rd fBRS_AGE_CFG_PERIOD_S p * nsPerSec)
  ({ s with lrn := { s.lrn with ageDue := AMap.set s.lrn.ageDue p due },
            clerk := { s.clerk with sweeps := AMap.set s.clerk.sweeps p 0 } }).wr fBRS_AGE_STATUS_SWEEPING 1 p

/-- A sweep ends; one that fell due meanwhile starts at once and is late (R141). -/
def State.ageEnd (s : State) (p : Nat) : State :=
  let s := (({ s with clerk := { s.clerk with sweeps := AMap.erase s.clerk.sweeps p } }).wr fBRS_AGE_STATUS_SWEEPING 0 p).addWrap
    fBRS_AGE_STATUS_SWEEPS 1 p
  if s.ageIsDue p then ((s.ageStart p).addSat fBRS_AGE_STATUS_LATE 1 p).raise .AGE_LATE p else s

/-! ### The mirrors (R144 to R148) -/

/-- The fields of a host's mirror in the registers. -/
def mirEn : HostId → Fld
  | .a => fCLE_MIRROR_CFG_EN_A
  | .b => fCLE_MIRROR_CFG_EN_B
def mirValid : HostId → Fld
  | .a => fCLE_MIRROR_STATUS_VALID_A
  | .b => fCLE_MIRROR_STATUS_VALID_B
def mirResync : HostId → Fld
  | .a => fCLE_MIRROR_STATUS_RESYNC_A
  | .b => fCLE_MIRROR_STATUS_RESYNC_B

/-- The base of a host's mirror. -/
def State.mirBase (s : State) (h : HostId) : Nat :=
  s.rd fCLE_MIRROR_BASE_LO_ADDR_LO 0 h.num * 4096 + s.rd fCLE_MIRROR_BASE_HI_ADDR_HI 0 h.num * 2 ^ 32

/-- A mirror becomes invalid: its queue and its resync are dropped, and writers no longer wait for it (R147, R328). -/
def State.mirDrop (s : State) (h : HostId) : State :=
  let s := s.setMirQ h { s.mirQ h with queue := [], running := false }
  let work := if s.clerk.work = .resync h then Work.idle else s.clerk.work
  let left := s.clerk.resyncs.filter (·.1 != h)
  let s := { s with clerk := { s.clerk with resyncs := left, work := work } }
  (s.wr (mirValid h) 0).wr (mirResync h) 0

/-- A resync of a host's mirror starts (R148): the mirror is not valid until it ends. -/
def State.mirStart (s : State) (h : HostId) : State :=
  let s := s.setMirQ h { s.mirQ h with running := true }
  let others := s.clerk.resyncs.filter (·.1 != h)
  let s := { s with clerk := { s.clerk with resyncs := others ++ [(h, 0)] } }
  (s.wr (mirValid h) 0).wr (mirResync h) 1

/-- The effect of a change of a mirror's enable. -/
def State.mirEnable (s : State) (h : HostId) (on_ : Bool) : State := if on_ then s.mirStart h else s.mirDrop h

/-- The regions of a mirror in order, as (table, pipeline); a replicated or chip table has pipeline 15. -/
def mirRegions : List (Nat × Nat) :=
  (mirroredTables.map fun t => if tblPerPipe t then (List.range 8).map (fun p => (t, p)) else [(t, 15)]).flatten

/-- Word of a mirror's directory (R145). -/
def dirEntry (t : Nat) : List Word :=
  if t ∈ mirroredTables then
    let off := regionOff t 0
    [word ((if tblPerPipe t then 0 else 15) + recLog t * 2 ^ 4 + 2 ^ 8), word (tblEntries t), word off, word (off / 2 ^ 32)]
  else zeros 4

/-- The directory: 256 entries of 4 words. -/
def mirDir : List Word := ((List.range 256).map dirEntry).flatten

/-- Queues the directory on a mirror. -/
def State.pushDir (s : State) (h : HostId) : State :=
  let q := s.mirQ h
  s.setMirQ h { q with queue := q.queue ++ [(0, mirDir)], progress := if q.queue.isEmpty then s.tim.rc else q.progress }

/-- The records of a whole resync. -/
def resyncAll : Nat := (mirRegions.map fun x => tblEntries x.1).sum

/-- The table, pipeline and entry of a record number of a resync. -/
def resyncAt : List (Nat × Nat) → Nat → Option (Nat × Nat × Nat)
  | [], _ => none
  | x :: l, k => if k < tblEntries x.1 then some (x.1, x.2, k) else resyncAt l (k - tblEntries x.1)

/-- Queues the record of entry k of a resync (R148). -/
def State.resyncPush (s : State) (h : HostId) (k : Nat) : State :=
  match resyncAt mirRegions k with
  | none => s
  | some x => s.mirPush h x.1 x.2.1 9 x.2.2 (asStored x.1 (s.ent x.1 x.2.1 x.2.2))

/-- Queues the records of entries in order while the mirror's queue has room, with how many it queued (R147, R148). -/
def State.resyncRun (h : HostId) : List Nat → State → State × Nat
  | [], s => (s, 0)
  | k :: l, s =>
    if 4096 ≤ (s.mirQ h).queue.length then (s, 0)
    else
      let r := State.resyncRun h l (s.resyncPush h k)
      (r.1, r.2 + 1)

/-- A resync has ended: the mirror is valid (R148). -/
def State.resyncOver (s : State) (h : HostId) : State := (s.wr (mirResync h) 0).wr (mirValid h) 1

/-- The step of a background resync, of which the Clerk does at most `most` records: the directory before the first, then the rest of the chunk. A
full queue holds the step where it stands. -/
def State.resyncJob (s : State) (h : HostId) (most : Nat) : State :=
  match s.clerk.resyncs.find? (·.1 == h) with
  | none => s.idle
  | some x =>
    let l := chunkOf resyncAll 0 x.2
    if 4096 < (s.mirQ h).queue.length + 1 + b2n (x.2 == 0) then s.stepWaits
    else
      let r := State.resyncRun h (l.take most) (if x.2 = 0 then s.pushDir h else s)
      let s := if r.2 = l.length then r.1.idle else r.1.stepWaits
      if resyncAll ≤ x.2 + r.2 then
        let left := s.clerk.resyncs.filter (·.1 != h)
        { s with clerk := { s.clerk with resyncs := left } }.resyncOver h
      else { s with clerk := { s.clerk with resyncs := s.clerk.resyncs.map fun y => if y.1 = h then (h, x.2 + r.2) else y } }

/-! ### Repairs (R149) -/

/-- The mirror that a repair reads, if one is enabled and valid. -/
def State.repairMirror (s : State) : Option HostId :=
  let first : HostId := if s.on fCLE_MIRROR_CFG_REPAIR_SRC then .b else .a
  let other : HostId := if s.on fCLE_MIRROR_CFG_REPAIR_SRC then .a else .b
  let m := if !s.on (mirValid first) && s.on fCLE_MIRROR_CFG_FALLBACK then other else first
  if s.on (mirEn m) && s.on (mirValid m) then some m else none

/-- Whether a record returned for a repair is good (R149): its CRC, table, pipeline and index. -/
def recordGood (r : Repair) (ws : List Word) : Bool :=
  let n := tblWords r.table
  decide (4 + n ≤ ws.length) && entF ws 3 15 0 == crc16 (((ws.take 3 ++ (ws.drop 4).take n).map wordBytes).flatten) &&
    entF ws 1 7 0 == r.table && entF ws 1 11 8 == r.pipe && entF ws 2 23 0 == r.index

/-- The pipeline whose counter a repair uses: 0 for a replicated or chip table (DESIGN CHOICE, assumption log 22). -/
def Repair.blkPipe (r : Repair) : Nat := if r.pipe < 8 then r.pipe else 0

/-- The entry of a repair is invalidated with good parity (R149). -/
def State.repairLost (s : State) (r : Repair) : State :=
  let s :=
    if r.table = 0x0E then
      (if (AMap.get? s.tables (0x0E, 15, r.index)).isSome then s.pfxUse (s.ent 0x0E 15 r.index) false else s).zeroEnt 0x0E 15 r.index 8
    else s.putEntry r.table r.pipe r.index 8 (zeros (tblWords r.table))
  (((s.blk r.blkPipe (160 + 15)).addSat fCLE_REPAIR_STATUS_INVALIDATED 1).event 0x18 r.pipe r.table r.index).raise .MIR_REPAIR_FAIL 0 r.index

/-- Writes the entry of a repair into every replica: the record's, or zeros (R149). A prefix deleted meanwhile stays deleted. -/
def State.repairEntry (s : State) (r : Repair) : State :=
  match r.record with
  | some ws =>
    if recordGood r ws then
      let e := entClean r.table ((ws.drop 4).take (tblWords r.table))
      let s :=
        if r.table = 0x0E ∧ (AMap.get? s.tables (0x0E, 15, r.index)).isNone then s.zeroEnt 0x0E 15 r.index 7
        else s.putEntry r.table r.pipe r.index 7 e
      (s.blk r.blkPipe (160 + 14)).event 0x17 r.pipe r.table r.index
    else s.repairLost r
  | none => s.repairLost r

/-- The fence of a repair opens in each pipeline that has punted more frames than have returned; with none the repair closes (R150). -/
def State.openFences (s : State) (tag : Nat) : State :=
  match s.repair? tag with
  | none => s
  | some r =>
    let ps := (r.punted.filter fun x => decide (AMap.getD r.returned x.1 0 < x.2)).map (·.1)
    if ps.isEmpty then s.repairClose tag else s.setRepair { r with phase := 3, fences := ps, rcOpen := s.tim.rc }

/-! ### The scrubs (R105, R129, R175, R204) -/

/-- The corrupted words of a checker at a pipeline key, as (replica, index). -/
def State.marksOf (s : State) (ck p : Nat) : List (Nat × Nat) :=
  (s.flt.marks.filter fun m => m.1 == ck && m.2.1 == p).map fun m => (m.2.2.1, m.2.2.2.1)

/-- The Reader's scrub of one word: read as a frame reads it, and repaired from the mirror when its sister is bad too (R105). -/
def State.scrubRdr (s : State) (p ck t n : Nat) (x : Nat × Nat) : State :=
  let r := s.rdrRead p (t - 1) x.1 n ck x.2
  if r.2 then r.1 else (r.1.repairOpen t p x.2).1

/-- The Catalogue scrub of one word (R175): rewritten from a good sister, or repaired from the mirror. -/
def State.scrubCat (s : State) (p : Nat) (eg : Bool) (kind ck : Nat) (x : Nat × Nat) : State :=
  let s := (s.catPar eg p x.1 kind x.2).raise (if kind = 1 then .CAT_RES_PARITY else .CAT_ROW_PARITY) p x.2
  if [0, 1, 2].any fun o => o != x.1 && !s.bad ck p o x.2 then (s.unmark ck p x.1 x.2).blk p (192 + 16)
  else
    ((s.raise .CAT_ROW_LOST p x.2).repairOpen (catRows eg) p x.2).1

/-- The Farrier scrub of one word (R204): rewritten from a good sister, or repaired from the mirror. -/
def State.scrubFar (s : State) (p t ck key base : Nat) (x : Nat × Nat) : State :=
  let s := s.raise .FAR_PARITY p x.2
  let s := if s.on fFAR_PAR_STATUS_VALID p then s
    else (((s.wr fFAR_PAR_STATUS_VALID 1 p).wr fFAR_PAR_STATUS_TABLE (t - 0x20) p).wr fFAR_PAR_STATUS_REPLICA (x.1 - base) p).wr
      fFAR_PAR_STATUS_INDEX x.2 p
  if [0, 1, 2].any fun o => base + o != x.1 && !s.bad ck key (base + o) x.2 then (s.unmark ck key x.1 x.2).blk p (224 + 14)
  else ((s.raise .FAR_PARITY_LOST p x.2).repairOpen t p x.2).1

/-- A bad overflow entry is invalidated until its repair writes it again: lookups and counts lose it, the mirror keeps it (DEDUCED,
assumption log 22), OVF_SCRUB is raised and a repair opens (R129). -/
def State.scrubOvf (s : State) (unit i : Nat) : State :=
  if unit < 8 then
    let e := s.ent 0x0C unit i
    let s := if bridgeV e then
        (((if bridgeStatic e then s else s.learnCount unit (bridgeBd e) (entF e 2 16 14) (entF e 2 13 0) false).bridgeUse unit i false).clearHit
          unit i)
      else s
    (((s.setEnt 0x0C unit i (zeros 3)).raise .OVF_SCRUB unit i).repairOpen 0x0C unit i).1
  else
    let s := if entB (s.ent 0x0D 15 i) 2 20 then s.kstUse i false else s
    (((s.setEnt 0x0D 15 i (zeros 5)).raise .OVF_SCRUB 8 i).repairOpen 0x0D 15 i).1

/-! ### The rows -/

/-- The job of a scrub row: it runs once in its period, and before a run is due nothing happens. -/
def State.scrubJob (s : State) (j : Job) (i us : Nat) (run : State → State) : Out := .next (s.periodic j i (ns (us * 1000)) run)

/-- READER_SCRUB: one pass over the select entries and layouts of pipeline p, once per PERIOD_US (R105). -/
def execReaderScrub (p : Nat) (s : State) : Out :=
  s.scrubJob .readerScrub p (s.rd fRDR_SCRUB_PERIOD_US p) fun s =>
    let s := (s.marksOf 0x01 p).foldl (fun s x => if s.bad 0x01 p x.1 x.2 then s.scrubRdr p 0x01 0x01 6 x else s) s
    (s.marksOf 0x02 p).foldl (fun s x => if s.bad 0x02 p x.1 x.2 then s.scrubRdr p 0x02 0x02 12 x else s) s

/-- A pass over an overflow store. -/
def State.scrubOvfAll (s : State) (unit : Nat) : State :=
  let l := if unit < 8 then s.marksOf 0x08 unit else s.marksOf 0x0A 15
  (l.map (·.2)).eraseDups.foldl (fun s i => s.scrubOvf unit i) s

/-- OVERFLOW_SCRUB: one pass over an overflow store, of bridge store `unit`, or of both key-store copies when it is 8, once per OVF_PERIOD_US
(R129). -/
def execOverflowScrub (unit : Nat) (s : State) : Out :=
  s.scrubJob .overflowScrub unit (if unit < 8 then s.rd fBRS_SCRUB_OVF_PERIOD_US unit else s.rd fKST_SCRUB_OVF_PERIOD_US) fun s =>
    s.scrubOvfAll unit

/-- A pass over the buckets of a bridge store, or over those of the key store and the prefix index. -/
def State.scrubBuckets (s : State) (unit : Nat) : State :=
  if unit < 8 then (s.marksOf 0x07 unit).foldl (fun s x => ((s.lkReport unit 0x0C x.2).repairOpen 0x0C unit x.2).1) s
  else
    let s := (s.marksOf 0x09 15).foldl (fun s x => ((s.lkReport (4 * x.1) 0x0D x.2).repairOpen 0x0D 15 x.2).1) s
    (s.marksOf 0x0B 15).foldl (fun s x => ((s.lkReport (4 * x.1) 0x0E x.2).repairOpen 0x0E 15 x.2).1) s

/-- BUCKET_SCRUB: one pass over the buckets of bridge store `unit`, or of the key store and the prefix index when it is 8, once per
BUCKET_PERIOD_MS (R129). -/
def execBucketScrub (unit : Nat) (s : State) : Out :=
  s.scrubJob .bucketScrub unit (1000 * (if unit < 8 then s.rd fBRS_SCRUB_BUCKET_PERIOD_MS unit else s.rd fKST_SCRUB_BUCKET_PERIOD_MS)) fun s =>
    s.scrubBuckets unit

/-- CAT_SCRUB: one pass over the rows and results of pipeline p in both directions, once per PERIOD_US (R175). -/
def execCatScrub (p : Nat) (s : State) : Out :=
  let pass := fun (s : State) (eg : Bool) (kind ck : Nat) =>
    (s.marksOf ck p).foldl (fun s x => if s.bad ck p x.1 x.2 then s.scrubCat p eg kind ck x else s) s
  s.scrubJob .catScrub p (s.rd fCAT_SCRUB_PERIOD_US p) fun s =>
    pass (pass (pass (pass s false 0 0x12) false 1 0x14) true 0 0x13) true 1 0x15

/-- FAR_SCRUB: one pass over the rewrite words, ARG entries and egress VLAN entries of pipeline p, once per PERIOD_US (R204). -/
def execFarScrub (p : Nat) (s : State) : Out :=
  let pass := fun (s : State) (t ck key base : Nat) =>
    ((s.marksOf ck key).filter fun x => decide (base ≤ x.1) && decide (x.1 < base + 3)).foldl
      (fun s x => if s.bad ck key x.1 x.2 then s.scrubFar p t ck key base x else s) s
  s.scrubJob .farScrub p (s.rd fFAR_SCRUB_PERIOD_US p) fun s => pass (pass (pass s 0x20 0x16 p 0) 0x21 0x17 15 (3 * p)) 0x22 0x18 15 (3 * p)

/-- LEARN_INSERT: the learn unit of pipeline p takes its next request. -/
def execLearnInsert (p : Nat) (s : State) : Out := .next (s.learnInsert p)

/-- AGE_SWEEP_START: the period of pipeline p has elapsed. Before it has, or while a sweep runs, nothing starts: a sweep that is due
meanwhile starts when the one running ends. -/
def execAgeSweepStart (p : Nat) (s : State) : Out :=
  .next (if p < 8 ∧ s.ageIsDue p ∧ (AMap.get? s.clerk.sweeps p).isNone then s.ageStart p else s)

/-- MIRROR_STALL: host h's mirror queue has made no progress for STALL_US (R147). Before that nothing happens. -/
def execMirrorStall (h : HostId) (s : State) : Out :=
  .next (
    let q := s.mirQ h
    if q.running ∧ !q.queue.isEmpty ∧ q.progress + ns (s.rd fCLE_MIRROR_CFG_STALL_US * 1000) ≤ s.tim.rc then
      ((s.mirDrop h).addSat fCLE_MIRROR_STATUS_STALLS 1).raise .MIR_STALL 0 h.num
    else s)

/-- RESYNC_CHUNK: the Clerk runs the chunk of the resync that it took at its boundary; a full queue holds it. -/
def execResyncChunk (s : State) : Out :=
  .next (
    match s.clerk.work with
    | .resync h => s.resyncJob h stepMost
    | _ => s)

/-- REPAIR_READ_ISSUE: the read of the open repair that the Clerk took: from the mirror, behind the records already accepted for it; with none the
repair goes on without a record. A Catalogue row with a good sister is taken from it instead (R174). -/
def execRepairReadIssue (s : State) : Out :=
  .next (
    match s.clerk.work with
    | .repairRead tag =>
      match s.repair? tag with
      | none => s.idle
      | some r =>
        if s.catSister r.table r.pipe r.index then
          (s.setRepair { r with phase := 2, record := some (mirrorWords 0 r.table r.pipe 7 r.index (s.ent r.table r.pipe r.index)) }).idle
        else match s.repairMirror with
          | some h =>
            let at_ := s.mirBase h + regionOff r.table r.pipe + r.index * 2 ^ recLog r.table
            ((s.setRepair { r with phase := 1, host := h, behind := (s.mirQ h).seq }).hostRead h at_ (4 * (4 + tblWords r.table))).idle
          | none => (s.setRepair { r with phase := 2, record := none }).idle
    | _ => s)

/-- Whether every record that was accepted before the read of a repair has been written, so that the read may return (R149). -/
def State.repairRead (s : State) (r : Repair) : Bool :=
  let q := s.mirQ r.host
  decide (r.behind ≤ q.seq - q.queue.length)

/-- REPAIR_RECORD_RETURN: the record read for a repair returns, or its read fails. It cannot overtake the records before it. -/
def execRepairRecordReturn (tag : Nat) (r : HostRead) (ws : List Word) (s : State) : Out :=
  .next (
    match s.repair? tag with
    | some x => if x.phase = 1 ∧ s.repairRead x then s.setRepair { x with phase := 2, record := if r = .ok then some ws else none } else s
    | none => s)

/-- REPAIR_WRITE: the Clerk rewrites or invalidates the entry and opens the fences. A full mirror queue holds it (R147). -/
def execRepairWrite (s : State) : Out :=
  .next (
    match s.clerk.work with
    | .repairWrite tag =>
      match s.repair? tag with
      | none => s.idle
      | some r => if s.mirFull then s.stepWaits else ((s.repairEntry r).openFences tag).idle
    | _ => s)

/-- FENCE_TIMEOUT: FENCE_TIMEOUT_US has passed with pipeline p's fence of a tag open: it closes (R150). Before that nothing happens. -/
def execFenceTimeout (tag p : Nat) (s : State) : Out :=
  .next (
    match s.repair? tag with
    | some r =>
      if p ∈ r.fences ∧ r.rcOpen + ns (s.rd fCLE_REPAIR_CFG_FENCE_TIMEOUT_US * 1000) ≤ s.tim.rc then
        ((s.blk p (160 + 17)).raise .FENCE_TIMEOUT p tag).fenceClose tag p
      else s
    | none => s)

end Sys2Proof.Machine
end

