-- ==== Sys2Proof/Machine/Host.lean ====
section
/-! DEFINITION. The host interface (R324 to R359): rejects and ownership, the start and stop of channels and pools, loss and return of a
host, doorbells, and the units of the DMA engines: completions, events, punts, injection, exports, bulk transfers and posts. The rows of
archive capture and export (R301 to R304) are here too. -/
namespace Sys2Proof.Machine

/-! ### Rejects (R354) -/

/-- Logs a refused write of a master with its cause, offset and data, and counts it. With 16 entries held the new one is lost, and the next entry
says so. -/
def State.reject (s : State) (m : Master) (c : Cause) (off : Nat) (data : Word) : State :=
  let s := s.addSat fHST_REJECT_COUNT_COUNT 1 0 m.num
  if 16 ≤ s.hst.rejects.length then { s with hst := { s.hst with rejLost := true } }
  else
    let e := [word (2 ^ 31 + b2n s.hst.rejLost * 2 ^ 30 + m.owner * 2 ^ 28 + c.code * 2 ^ 24), word off, data] ++ ctWords s.tim.ct
    { s with hst := { s.hst with rejects := s.hst.rejects ++ [e], rejLost := false } }

/-! ### Ownership (R352, R353) -/

/-- The owner of a control domain. -/
def State.owner (s : State) (d : Nat) : Nat := bitsOf (s.rg .GEN_OWNER_MAP 0 (d / 16)).toNat (2 * (d % 16) + 1) (2 * (d % 16))

/-- The state with a domain's owner replaced. -/
def State.setOwner (s : State) (d o : Nat) : State :=
  s.setRg .GEN_OWNER_MAP (word (setBits (s.rg .GEN_OWNER_MAP 0 (d / 16)).toNat (2 * (d % 16) + 1) (2 * (d % 16)) o)) 0 (d / 16)

/-- Whether a domain is one of the table of R352. -/
def domainUsed (d : Nat) : Bool := decide (d < 48) && d != 14 && d != 15

/-- Whether a compare-and-set request succeeds. -/
def State.casOk (s : State) (m : Master) (d expect new : Nat) (force : Bool) : Bool :=
  domainUsed d &&
    (if force then m == .sb else s.owner d == expect && (expect == m.owner || (expect == 0 && new == m.owner)))

/-- One compare-and-set request (R353): the state and whether it succeeded. -/
def State.cas (s : State) (m : Master) (d expect new : Nat) (force : Bool) : State × Bool :=
  if s.casOk m d expect new force then (s.setOwner d new, true) else (s, false)

/-! ### The sideband's lines (R356) -/

/-- Whether an unmasked bit of `HST_SB_INT` is set. -/
def State.sbPending (s : State) : Bool := (s.rg .HST_SB_INT).toNat &&& (s.rg .HST_SB_MASK).toNat != 0

/-- `INT_N` and `MG_ALERT_N` after a change of `HST_SB_INT` or its mask; `was` says whether a bit was pending before. -/
def State.sbLines (s : State) (was : Bool) : State :=
  let now := s.sbPending
  { s with hst := { s.hst with intN := !now, alertN := if !now then true else if was then s.hst.alertN else false } }

/-- Sets a bit of `HST_SB_INT`. -/
def State.sbSet (s : State) (f : Fld) : State :=
  let was := s.sbPending
  (s.wr f 1).sbLines was

/-! ### Channels (R331, R337) -/

/-- Setting a channel's EN: its indexes start at 0 (R331). -/
def State.chanStart (s : State) (c : Nat) : State :=
  ((s.setRg .HST_CH_DEV_IDX 0 0 c).setRg .HST_CH_HOST_IDX 0 0 c).setRg .HST_CH_STAT 0 0 c |>.setChanSt c ⟨0, 0, false⟩

/-- An export ring begins its next record from its start: what it held of a record, and the unit that waits, are dropped (R337, R304). -/
def State.expReset (s : State) (k : Nat) : State :=
  { s with arc := { s.arc with expPos := AMap.erase s.arc.expPos k } }.unitOver (chanOf (if k / 2 = 0 then .a else .b) (15 + k % 2))

/-- What a channel of a kind leaves at its stop (R337). -/
def State.chanLeaves (s : State) (h : HostId) (l : Nat) : State :=
  if l < 2 then
    let s := { s with clerk := { s.clerk with stops := AMap.set s.clerk.stops (.ring h (l == 1)) s.clerk.seq } }
    if s.on fHST_CH_CFG_EN 0 (chanOf h (l + 2)) then s
    else
      let left := s.clerk.fetched.filter fun c => c.src != .ring h (l == 1)
      { s with clerk := { s.clerk with fetched := left } }
  else if l < 4 then
    let src := CmdSrc.ring h (l == 3)
    let q := (s.holdOf src).filter fun e => match e with | .waiting _ => true | .done _ _ => false
    { s with hst := { s.hst with compl := AMap.set s.hst.compl src [] }, clerk := { s.clerk with hold := AMap.set s.clerk.hold src q } }
  else if l = 14 then { s with hst := { s.hst with events := AMap.set s.hst.events h [] } }
  else if l = 15 ∨ l = 16 then s.expReset (2 * h.num + (l - 15))
  else if l = 18 ∨ l = 19 then s.unitOver (chanOf h l)
  else s

/-- A channel stops at once: EN is 0, its work is disposed of, and its words +0x18 to +0x20 hold values the spec leaves undefined (R337). -/
def State.chanStop (s : State) (c : Nat) : State :=
  let hl := chanHost c
  let s := (s.wr fHST_CH_CFG_EN 0 0 c).chanLeaves hl.1 hl.2
  let a := s.takeFree
  let b := a.2.takeFree
  let d := b.2.takeFree
  (((d.2.setRg .HST_CH_DEV_IDX a.1 0 c).setRg .HST_CH_HOST_IDX b.1 0 c).setRg .HST_CH_STAT (d.1 &&& 7) 0 c).setChanSt c ⟨0, 0, false⟩

/-! ### Pools (R341, R342) -/

/-- The posted buffers of a pool, oldest first. -/
def State.postedOf (s : State) (h : HostId) (k : Nat) : List Nat :=
  match s.hst.posted.find? fun x => x.1 == h && x.2.1 == k with
  | some x => x.2.2
  | none => []

/-- The state with a pool's posted buffers replaced, `POSTED` following. -/
def State.setPosted (s : State) (h : HostId) (k : Nat) (l : List Nat) : State :=
  let others := s.hst.posted.filter fun x => !(x.1 == h && x.2.1 == k)
  ({ s with hst := { s.hst with posted := (h, k, l) :: others } }).wr fHST_POOL_STAT_POSTED l.length 0 (4 * h.num + k)

/-- Whether a buffer's state bit is 1. -/
def State.bufPosted (s : State) (h : HostId) (id : Nat) : Bool := AMap.getD s.hst.bufState (h, id) false

/-- Every buffer of a pool returns to software state. -/
def State.poolDrain (s : State) (h : HostId) (k : Nat) : State :=
  let bits := s.hst.bufState.filter fun x => !(x.1.1 == h && x.1.2 / 65536 == k)
  ({ s with hst := { s.hst with bufState := bits } }).setPosted h k []

/-- A pool's buffer size in bytes. -/
def State.poolSize (s : State) (h : HostId) (k : Nat) : Nat := s.rd fHST_POOL_CFG_SIZE_256 0 (4 * h.num + k) * 256

/-- The host address of a buffer. -/
def State.bufAddr (s : State) (h : HostId) (id : Nat) : Nat :=
  let i := 4 * h.num + id / 65536
  s.rd fHST_POOL_LO_BASE 0 i * 4096 + s.rd fHST_POOL_HI_BASE 0 i * 2 ^ 32 + id % 65536 * s.poolSize h (id / 65536)

/-- The enabled pools of a host, counting upward. -/
def State.poolsOn (s : State) (h : HostId) : List Nat := (List.range 4).filter fun k => s.on fHST_POOL_CFG_EN 0 (4 * h.num + k)

/-! ### Loss and return of a host (R328) -/

/-- The domains a host owns become unowned. -/
def State.disown (s : State) (o : Nat) : State :=
  (List.range 48).foldl (fun s d => if s.owner d = o then s.setOwner d 0 else s) s

/-- The commands of a ring that have begun run to their end, and their completions are discarded, also those that come once the host has
returned. -/
def State.voidRing (s : State) (src : CmdSrc) : State :=
  { s with clerk := { s.clerk with voids := AMap.set s.clerk.voids src s.clerk.seq, hold := AMap.erase s.clerk.hold src } }

/-- What happens when a host is lost. -/
def State.hostLost (s : State) (h : HostId) : State :=
  let s := ((List.range 32).map (chanOf h)).foldl (fun s c => if s.on fHST_CH_CFG_EN 0 c then s.chanStop c else s) s
  let mine := s.clerk.fetched.filter fun c => match c.src with | .ring x _ => x != h | .taw _ => true
  let s := ({ s with clerk := { s.clerk with fetched := mine } }.voidRing (.ring h false)).voidRing (.ring h true)
  let s := s.disown h.master.owner
  let gates := s.hst.gates.filter fun g => g.1.1 != h.master
  let s := { s with hst := { s.hst with gates := gates } }
  let s := (s.wr (mirEn h) 0).mirDrop h
  let s := (List.range 4).foldl (fun s k => s.poolDrain h k) s
  let s := { s with hst := { s.hst with lost := h :: s.hst.lost } }
  let s := s.levelOn .HST_LINK_DOWN h.num
  let other : HostId := match h with | .a => .b | .b => .a
  let s := s.sbSet (match h with | .a => fHST_SB_INT_HOST_A_LOST | .b => fHST_SB_INT_HOST_B_LOST)
  s.eventTo other (s.eventRec 0x40 15 0 h.num 0 0 0 s.tim.ct)

/-- The `CKR_RUN` bit of an endpoint's clock (R420). -/
def pclk (h : HostId) : Fld := ⟨.CKR_RUN, 5 + h.num, 5 + h.num⟩

/-- What `HST_LINK` shows of a loss. -/
def State.lossShown (s : State) (h : HostId) (w : HostLoss) : State :=
  match w with
  | .linkDown => s.wr fHST_LINK_UP 0 0 h.num
  | .perst =>
    let up := s.pin.perst.filter (· != h)
    let s := { s with pin := { s.pin with perst := up } }
    ((s.wr fHST_LINK_PERST 1 0 h.num).wr fHST_LINK_UP 0 0 h.num).wr (pclk h) 0
  | .reset | .d3hot => s

/-- HOST_LOST: host h is lost for a reason (R328). A host already lost shows only the further reason. -/
def execHostLost (h : HostId) (why : HostLoss) (s : State) : Out :=
  .next (if h ∈ s.hst.lost then s.lossShown h why else (s.hostLost h).lossShown h why)

/-- Whether an endpoint is enabled by the straps (R324). -/
def State.endpointOn (s : State) (h : HostId) : Bool :=
  let m := s.rd fHST_MODE_HOST_MODE
  match h with
  | .a => m != 3
  | .b => m == 1

/-- The PCIe lanes of an endpoint, as its first and their number (R324). -/
def State.endpointLanes (s : State) (h : HostId) : Nat × Nat :=
  let m := s.rd fHST_MODE_HOST_MODE
  match h with
  | .a => if m = 0 then (0, 16) else if m = 3 then (0, 0) else (0, 8)
  | .b => if m = 1 then (8, 8) else (0, 0)

/-- Whether the block of the PCIe signals has taken them over from their reset state: from the end of FUSES after a cold reset, and on through a warm
reset (R437). -/
def State.pcieOwned (s : State) : Bool := decide (3 ≤ s.rd fCKR_RESET_STATUS_CAUSE) || decide (2 ≤ s.rd fFOL_BOOT_STATUS_STATE)

/-- The level of `PE_CLKREQ_N[h]`: released, and low while the endpoint is enabled (R325, R437). `PE_WAKE_N` is not driven. -/
def State.clkreqN (s : State) (h : HostId) : Bool := !(s.pcieOwned && s.endpointOn h)

/-- The PCIe identity that an enabled endpoint reports in its configuration space: the vendor and the device identifier (R12). -/
def pcieId : Nat × Nat := (0x1F5E, 0xEF95)

/-- What a configuration read of the identity of host h's endpoint returns: word 0 of its header; an endpoint that is off answers nothing. -/
def State.configId (s : State) (h : HostId) : Option Word := if s.endpointOn h then some (word (pcieId.1 + pcieId.2 * 2 ^ 16)) else none

/-- Whether a master can send commands: the sideband, and a host whose endpoint is enabled (R324). -/
def State.hears (s : State) (m : Master) : Bool :=
  match m with
  | .a => s.endpointOn .a
  | .b => s.endpointOn .b
  | .sb => true

/-- Whether a link may come up so (R324, R325): a width that the endpoint's lanes train to, a speed up to 64 GT/s, and FLIT mode there. -/
def State.linkMay (s : State) (h : HostId) (speed width : Nat) (flit : Bool) : Bool :=
  s.endpointOn h && decide (width ∈ [1, 2, 4, 8, 16]) && decide (width ≤ (s.endpointLanes h).2) && decide (1 ≤ speed) && decide (speed ≤ 6) &&
    (flit || decide (speed < 6))

/-- HOST_LINK_RETURN: host h's data link is up, at a speed code, width and FLIT mode, or it is back in D0; it is no longer lost. An endpoint that
is off, and a link that no endpoint makes, do not come up. -/
def execHostLinkReturn (h : HostId) (speed width : Nat) (flit : Bool) (s : State) : Out :=
  .next (
    if !s.linkMay h speed width flit then s else
    let left := s.hst.lost.filter (· != h)
    let s := ({ s with hst := { s.hst with lost := left } }).levelOff .HST_LINK_DOWN h.num
    (((s.wr fHST_LINK_UP 1 0 h.num).wr fHST_LINK_SPEED speed 0 h.num).wr fHST_LINK_WIDTH width 0 h.num).wr fHST_LINK_FLIT (b2n flit) 0 h.num)

/-- PERST_RELEASE: `PE_PERST_N[h]` is deasserted; an enabled endpoint comes up from on-die defaults, whatever boot does (R29): its MSI-X table
and pending bits are at their defaults and its PCIe clock runs. -/
def execPerstRelease (h : HostId) (s : State) : Out :=
  .next (
    let up := h :: s.pin.perst.filter (· != h)
    let s := { s with pin := { s.pin with perst := up } }
    if s.endpointOn h then
      let table := s.hst.msix.filter fun x => x.1.1 != h
      let s := { s with hst := { s.hst with msix := table, pba := AMap.erase s.hst.pba h } }
      (s.wr fHST_LINK_PERST 0 0 h.num).wr (pclk h) 1
    else s.wr fHST_LINK_PERST 0 0 h.num)

/-- DMA_READ_TIMEOUT: a read request of the EF9 to host h gets no completion within 10 ms (R325, R359). The unit that read learns it as the
failed read of its own row. -/
def execDmaReadTimeout (h : HostId) (s : State) : Out := .next (s.raise .HST_DMA_TIMEOUT h.num)

/-- PCIE_LINK_ERROR: endpoint h detects an error (R359). -/
def execPcieLinkError (h : HostId) (e : PcieError) (s : State) : Out :=
  .next (
    match e with
    | .correctable => (s.addSat fHST_PCIE_ERR_CORR 1 0 h.num).raise .HST_PCIE_CORR h.num
    | .uncorrectable | .poisoned => (s.addSat fHST_PCIE_ERR_UNCORR 1 0 h.num).raise .HST_PCIE_UNCORR h.num)

/-! ### Doorbells (R331) -/

/-- Whether a local channel is a ring that software writes, one that the EF9 writes, or has no ring. -/
def softRing (l : Nat) : Bool := l == 0 || l == 1 || l == 12 || l == 13 || l == 18 || l == 19 || l == 20
def devRing (l : Nat) : Bool := decide (2 ≤ l) && decide (l ≤ 16) && l != 12 && l != 13

/-- The size of a ring as its indexes count it: an export ring counts 64-byte units (R330, R331). -/
def State.ringUnits (s : State) (h : HostId) (l : Nat) : Nat :=
  let n := s.ringSize (chanOf h l)
  if l = 15 ∨ l = 16 then n / 64 else n

/-- Whether a doorbell value is accepted (R331). -/
def State.doorbellOk (s : State) (h : HostId) (l v : Nat) : Bool :=
  let c := chanOf h l
  let dev := s.rd fHST_CH_DEV_IDX_IDX 0 c
  let old := s.rd fHST_CH_HOST_IDX_IDX 0 c
  let size := s.ringUnits h l
  if softRing l then decide ((v + 2 ^ 32 - dev) % 2 ^ 32 ≤ size) && decide ((v + 2 ^ 32 - old) % 2 ^ 32 ≤ size)
  else decide ((v + 2 ^ 32 - old) % 2 ^ 32 ≤ (dev + 2 ^ 32 - old) % 2 ^ 32)

/-- A refused doorbell (R331). The offset that its log entry holds is not stated for a doorbell: a free value (assumption log 3). -/
def State.doorbellBad (s : State) (h : HostId) (c : Nat) (v : Word) : State :=
  let f := s.takeFree
  (((((f.2.wr fHST_CH_STAT_ERR 1 0 c).reject h.master .badValue f.1.toNat v).event 0x41 15 c).raise .HST_RING_ERR h.num).hcount h 15)

/-- Host h writes the doorbell page of channel c (R327, R331). -/
def State.doorbellWrite (s : State) (h : HostId) (c : Nat) (v : Word) : State :=
  let hl := chanHost (c % 64)
  if hl.1 ≠ h then
    let f := s.takeFree
    f.2.reject h.master .notOwner f.1.toNat v
  else
    let c := c % 64
    let s := { s with hst := { s.hst with doorbell := AMap.set s.hst.doorbell (h, c) v } }
    if !s.on fHST_CH_CFG_EN 0 c || !(softRing hl.2 || devRing hl.2) then s
    else if s.doorbellOk h hl.2 v.toNat then s.setRg .HST_CH_HOST_IDX v 0 c
    else s.doorbellBad h c v

/-- DOORBELL_WRITE: host h, with its endpoint enabled (R324), writes the doorbell page of channel c. -/
def execDoorbellWrite (h : HostId) (c : Nat) (v : Word) (s : State) : Out := .next (if s.hears h.master then s.doorbellWrite h c v else s)

/-- MSIX_MOD_TIMEOUT: MOD_US has passed since channel c's first unsignalled entry (R333). Before that nothing is sent. -/
def execMsixModTimeout (c : Nat) (s : State) : Out :=
  .next (
    let x := s.chanSt (c % 64)
    let c := c % 64
    if s.on fHST_CH_CFG_EN 0 c ∧ s.on fHST_CH_CFG_INT_EN 0 c ∧ x.since ≠ 0 ∧ x.firstAt + ns (s.rd fHST_CH_MOD_MOD_US 0 c * 1000) ≤ s.tim.rc then
      s.chanInt (chanHost c).1 c
    else s)

end Sys2Proof.Machine
end

