-- ==== Sys2Proof/Machine/Rings.lean ====
section
/-! DEFINITION. The DMA engines (R334): whose turn it is, and the units: completions, events and mirror records, punts and mirror copies (R341 to
R345), injection (R346 to R348), posts (R342), capture copies and exports (R301 to R304, R350), and bulk transfers (R351). -/
namespace Sys2Proof.Machine

/-! ### Punts (R343 to R345) -/

/-- What the host egress unit can do with a copy of B bytes: drop it, wait, or write it to a pool, by fallback or truncated. -/
inductive PuntPlan where
  | off
  | wait
  | pool (k : Nat) (fallback trunc : Bool)
  deriving DecidableEq, Repr

/-- The pool of a copy (R343). -/
def State.puntPlan (s : State) (h : HostId) (cls b : Nat) : PuntPlan :=
  let on_ := s.poolsOn h
  let fit := on_.filter fun k => decide (b ≤ s.poolSize h k)
  if on_.isEmpty || !s.chOn h (4 + cls) then .off
  else if s.ringRoom (chanOf h (4 + cls)) = 0 then .wait
  else match fit with
    | [] => match on_.getLast? with
      | some k => if (s.postedOf h k).isEmpty then .wait else .pool k false true
      | none => .off
    | k0 :: _ => match fit.find? fun k => !(s.postedOf h k).isEmpty with
      | some k => .pool k (k != k0) false
      | none => .wait

/-! ### The turns of the DMA engines (R334) -/

/-- The record that a stream exports next: where it lies in its region's ring (base, size, offset), its length, its TYPE, and the SEQ or FLOW
that names it. -/
structure ExpRec where
  base : Nat
  size : Nat
  off : Nat
  len : Nat
  type : Nat
  name : Nat
  deriving DecidableEq, Repr

/-- A word of archive memory, as a read accepted now returns it. -/
def State.arcWord (s : State) (a : Nat) : Nat := (bytesWord (((s.burstNow (a / 64 * 64)).drop (a % 64)).take 4)).toNat

/-- The oldest record of a stream: 1 snapshots, 2 ledger, 3 capture (R302, R304). -/
def State.expFirst (s : State) (stream : Nat) : Option ExpRec :=
  match stream with
  | 1 => match s.arc.snaps with
    | [] => none
    | x :: _ => some ⟨s.snapBase, s.snapSize, x.off, x.len, 1, x.seq⟩
  | 2 =>
    if s.arc.ledUsed = 0 then none
    else
      let off := (s.arc.ledHead - s.arc.ledUsed) % s.ledSize * 64
      some ⟨s.ledBase, s.ledSize * 64, off, 64, s.arcWord (s.ledBase + off) % 256, s.arcWord (s.ledBase + off + 4)⟩
  | 3 =>
    let open_ := s.rd fARC_CAP_CFG_MODE == 0 || s.rd fARC_CAP_STATUS_STATE == 2
    if s.arc.capHeld = 0 ∨ !open_ then none
    else
      let n := 2 ^ s.rd fARC_CAP_CFG_LOG2_RECS
      some ⟨s.capBase, n * 320, (s.arc.capHead - s.arc.capHeld) % n * 320, 320, 3, s.arc.capSeq + 1 - s.arc.capHeld⟩
  | _ => none

/-- Whether a write of a record still waits at its requester, so that a read would not see it yet (R312). -/
def State.recWaits (s : State) (x : ExpRec) : Bool :=
  let n := min x.len (x.size - x.off)
  s.drm.waiting.any fun r => r.write && (r.meets (x.base + x.off) n || r.meets x.base (x.len - n))

/-- The next record of a stream that can be exported. -/
def State.expNext (s : State) (stream : Nat) : Option ExpRec := (s.expFirst stream).filter fun x => !s.recWaits x

/-- Whether the host egress unit could deliver the head of a class queue now: its frame has wholly arrived, and there is room for it. -/
def State.puntReady (s : State) (h : HostId) (cls : Nat) : Bool :=
  match ((s.queue (hostQueue (264 + h.num) cls)).head?.bind s.slip?).bind s.frameOf with
  | some st => !st.bad && st.done && (match s.puntPlan h cls st.body.length with | .pool _ _ _ => true | _ => false)
  | none => false

/-- The class that the host egress unit serves next, in strict priority (R343). -/
def State.puntClass (s : State) (h : HostId) : Option Nat := ([7, 6, 5, 4, 3, 2, 1, 0] : List Nat).find? fun c => s.puntReady h c

/-- The commands of a ring that have been read since it was last started and that its consumer does not cover yet. -/
def State.readAhead (s : State) (src : CmdSrc) : Nat :=
  s.clerk.fetched.countP fun c => c.src == src && decide (AMap.getD s.clerk.stops src 0 ≤ c.seq)

/-- Whether an export ring can take a part of a record of its stream (R304). -/
def State.exportMay (s : State) (h : HostId) (j : Nat) : Bool :=
  let c := chanOf h (15 + j)
  decide (s.ringUsed c < s.ringSize c / 64) && (s.expNext (s.rd fARC_EXPORT_STREAM 0 (2 * h.num + j))).isSome

/-- The pipelines that yield now (R280). -/
def State.yielding (s : State) : List Nat := (List.range 8).filter fun p => s.ratDefers p 0

/-- Whether an export ring has work: it waits while any pipeline yields (R280). -/
def State.exportWork (s : State) (h : HostId) (j : Nat) : Bool := s.exportMay h j && s.yielding.isEmpty

/-- Whether a channel has work (R334): a unit that it could run now. -/
def State.chanWork (s : State) (c : Nat) : Bool :=
  let h := (chanHost c).1
  let l := (chanHost c).2
  s.chOn h l &&
    (if l < 2 then decide (s.readAhead (.ring h (l == 1)) < s.ringWork c)
     else if l < 4 then !(AMap.getD s.hst.compl (.ring h (l == 3)) []).isEmpty && decide (s.ringRoom c ≠ 0)
     else if l < 12 then s.puntClass h == some (l - 4)
     else if l = 14 then !(s.eventsOf h).isEmpty && decide (s.ringRoom c ≠ 0)
     else if l = 15 ∨ l = 16 then s.exportWork h (l - 15)
     else if l = 17 then (s.mirQ h).running && !(s.mirQ h).queue.isEmpty
     else decide (l ≤ 20) && decide (s.ringWork c ≠ 0))

/-- The channel whose turn it is on an engine: that of a unit in progress, or the first with work after the one last served. From reset channel 0 of
the engine is first (DESIGN CHOICE, assumption log 24). -/
def State.engineNext (s : State) (e : Nat) : Option Nat :=
  match s.drm.units.find? fun u => u.chan / 16 == e with
  | some u => some u.chan
  | none => ((List.range 16).map fun k => 16 * e + (AMap.getD s.hst.turns e 15 + 1 + k) % 16).find? s.chanWork

/-- A channel takes its turn. -/
def State.turnTaken (s : State) (c : Nat) : State := { s with hst := { s.hst with turns := AMap.set s.hst.turns (c / 16) (c % 16) } }

/-- Runs a unit of a channel when it is that channel's turn on its engine; otherwise nothing happens yet. Each unit is one command, so that between
commands only a unit that waits for archive memory is in progress. -/
def State.unit (s : State) (c : Nat) (f : State → State) : State := if s.engineNext (c / 16) = some c then f (s.turnTaken c) else s

/-- The read requests of a requester for some bursts. -/
def burstReads (req rc : Nat) (l : List Nat) : List DramReq := l.map fun b => ⟨req, false, b, [], [], rc⟩

/-! ### Completions, events and mirror records (R147, R338, R349) -/

/-- A completion's four words. -/
def Completion.words (c : Completion) : List Word := [word (c.opcode + c.status * 2 ^ 8), c.tag, c.res2, c.res3]

/-- COMPLETION_WRITE: up to 16 completions of host h's ring `pr`. -/
def execCompletionWrite (h : HostId) (pr : Bool) (s : State) : Out :=
  let l := if pr then 3 else 2
  let src := CmdSrc.ring h pr
  .next (s.unit (chanOf h l) fun s =>
    let q := AMap.getD s.hst.compl src []
    let n := min 16 (s.ringRoom (chanOf h l))
    let s := { s with hst := { s.hst with compl := AMap.set s.hst.compl src (q.drop n) } }
    s.ringPut h l ((q.take n).map Completion.words))

/-- EVENT_WRITE: up to 16 event records of host h. -/
def execEventWrite (h : HostId) (s : State) : Out :=
  .next (s.unit (chanOf h 14) fun s =>
    let q := s.eventsOf h
    let n := min 16 (s.ringRoom (chanOf h 14))
    let s := { s with hst := { s.hst with events := AMap.set s.hst.events h (q.drop n) } }
    s.ringPut h 14 (q.take n))

/-- MIRROR_WRITE: a unit of host h's mirror write stream, of up to 64 records in queue order, with its interrupt (R147, R329). -/
def execMirrorWrite (h : HostId) (s : State) : Out :=
  let c := chanOf h 17
  .next (s.unit c fun s =>
    let q := s.mirQ h
    let s := (q.queue.take 64).foldl (fun s x => s.hostWrite h (s.mirBase h + x.1) (wordsBytes x.2)) s
    let s := s.setMirQ h { q with queue := q.queue.drop 64, progress := s.tim.rc }
    if s.on fHST_CH_CFG_INT_EN 0 c then s.interrupt h (s.rd fHST_CH_CFG_VECTOR 0 c) else s)

/-! ### Punts: the unit (R343, R345) -/

/-- A punt entry (R345). -/
def puntEntry (x : Slip) (st : Stall) (len b id : Nat) (trunc : Bool) : List Word :=
  let reason := if x.mirror then 0 else x.punt.getD 0
  let w0 := len + b2n trunc * 2 ^ 14 + reason * 2 ^ 15 + b2n x.mirror * 2 ^ 20 + b2n st.pass * 2 ^ 21 + b2n st.ed * 2 ^ 22 +
    st.tstate * 2 ^ 23 + x.cls * 2 ^ 25 + b2n x.repair.isSome * 2 ^ 28
  let w2 := x.repair.getD 0 + b * 2 ^ 8 + st.layout * 2 ^ 22
  [word w0, word (id + st.inPort * 2 ^ 18), word w2, word (st.rMeta % 65536)] ++ ctWords st.ct ++ [0]

/-- A copy has been read into the host egress unit: it counts as delivered, leaves its edition and is released (R213, R238, R294). -/
def State.hostTake (s : State) (x : Slip) (st : Stall) (q : Nat) : State :=
  ((((s.popQueue q x.outPort).tally st.ingPipe 4 1 s.tim.ct).edDown st.ed).depart x q st.ingPipe (st.body.length + 4))

/-- The head of a class queue of a host port leaves it: a wait of that class is over (R357). -/
def State.puntMoved (s : State) (h : HostId) (cls : Nat) : State :=
  let c := chanOf h (4 + cls)
  (s.setChanSt c { s.chanSt c with waiting := false }).popQueue (hostQueue (264 + h.num) cls) (264 + h.num)

/-- Delivers a copy to a buffer of a pool (R343): the frame, the entry, the producer. -/
def State.puntTo (s : State) (h : HostId) (q k : Nat) (fallback trunc : Bool) (x : Slip) (st : Stall) : State :=
  match s.postedOf h k with
  | [] => s
  | id :: rest =>
    let body := st.body
    let out := body.take (s.poolSize h k)
    let s := s.hostWrite h (s.bufAddr h id) out
    let s := (s.setPosted h k rest)
    let s := { s with hst := { s.hst with bufState := AMap.erase s.hst.bufState (h, id) } }
    let s := s.ringPut h (4 + x.cls) [puntEntry x st out.length body.length id trunc]
    let s := (s.hcount h 0).hcount h 1 body.length
    let s := if fallback then s.hcount h 2 else s
    let s := if trunc then s.hcount h 3 else s
    let c := chanOf h (4 + x.cls)
    (s.setChanSt c { s.chanSt c with waiting := false }).hostTake x st q

/-- Whether a class waits for a buffer or an entry: counted once per wait (R357). -/
def State.puntWait (s : State) (h : HostId) (cls : Nat) : State :=
  let c := chanOf h (4 + cls)
  let x := s.chanSt c
  if x.waiting then s else (s.setChanSt c { x with waiting := true }).hcount h 4

/-- One copy at the head of a queue of a host port: whether the unit did something with it. A copy whose frame has not wholly arrived is
not yet read, and one that can be delivered waits for the turn of its channel (R334). -/
def State.puntHead (s : State) (h : HostId) (cls : Nat) : State × Bool :=
  let port := 264 + h.num
  let q := hostQueue port cls
  match (s.queue q).head?.bind s.slip? with
  | none => (s, false)
  | some x =>
    match s.frameOf x with
    | none => ((s.puntMoved h cls).release x 0, true)
    | some st =>
      if st.bad then
        (((if st.reason = 0x42 then s.blk st.ingPipe (256 + 10) else s).puntMoved h cls).dropCopy x st.reason (some q), true)
      else if !st.done then (s, false)
      else match s.puntPlan h cls st.body.length with
        | .off => (((s.puntMoved h cls).dropCopy x 0x9C (some q)).hcount h 16, true)
        | .wait => (s.puntWait h cls, false)
        | .pool k fb tr => (s.unit (chanOf h (4 + cls)) fun s =>
          let m := s.stbRead x st.ingPipe
          if !m.2 then ((m.1.puntMoved h cls).blk st.ingPipe (256 + 19)).dropCopy x 0x47 (some q)
          else m.1.puntTo h q k fb tr x st, true)

/-- The classes in strict priority, from the highest, until one copy has been served. -/
def State.puntServe (s : State) (h : HostId) : List Nat → State
  | [] => s
  | c :: t => let r := s.puntHead h c; if r.2 then r.1 else r.1.puntServe h t

/-- PUNT_DELIVER: the host egress unit serves host h's port once (R343). -/
def execPuntDeliver (h : HostId) (s : State) : Out := .next (s.puntServe h [7, 6, 5, 4, 3, 2, 1, 0])

/-! ### Capture copies (R301) -/

/-- The head of a queue of port 266. -/
def State.captureHead (s : State) (cls : Nat) : State × Bool :=
  let q := hostQueue 266 cls
  match (s.queue q).head?.bind s.slip? with
  | none => (s, false)
  | some x =>
    match s.frameOf x with
    | none => ((s.popQueue q 266).release x 0, true)
    | some st =>
      if st.bad then
        ((((if st.reason = 0x42 then s.blk st.ingPipe (256 + 10) else s).popQueue q 266).dropCopy x st.reason (some q)), true)
      else if !st.done then (s, false)
      else
        let m := s.stbRead x st.ingPipe
        if !m.2 then (((m.1.popQueue q 266).blk st.ingPipe (256 + 19)).dropCopy x 0x47 (some q), true)
        else ((m.1.capture st.ingPipe (st.capInfo 266 x.cls s.tim.ct) st.body).hostTake x st q, true)

/-- The classes of port 266 in strict priority. -/
def State.captureServe (s : State) : List Nat → State
  | [] => s
  | c :: t => let r := s.captureHead c; if r.2 then r.1 else r.1.captureServe t

/-- CAPTURE_DELIVER: the host egress unit reads one copy of port 266, and its record is kept or lost (R301). -/
def execCaptureDeliver (s : State) : Out := .next (s.captureServe [7, 6, 5, 4, 3, 2, 1, 0])

/-! ### Injection (R346 to R348) -/

/-- A bit field of a descriptor's word. -/
def dF (d : List Word) (w hi lo : Nat) : Nat := bitsOf (d.getD w 0).toNat hi lo

/-- Whether an inject descriptor is refused (R347, R348). -/
def State.injectBad (s : State) (d : List Word) : Bool :=
  let len := dF d 0 13 0
  let direct := dF d 0 14 14 == 1
  decide (len < 60) || decide (9596 < len) || (direct && !s.portExists (dF d 0 27 19)) || (dF d 1 13 13 == 1 && !direct) ||
    (dF d 0 15 15 == 1 && direct) || dF d 0 31 31 != 0 || dF d 1 31 29 != 0 || d.getD 7 0 != 0

/-- The pipeline of an accepted descriptor (R294, R348): a fence return's is that of its input port; where that port is none of a pipeline's
the descriptor's PIPE is taken (DEDUCED, assumption log 24). -/
def injectPipe (d : List Word) : Nat :=
  if dF d 0 14 14 = 1 then dF d 0 27 19 / 32
  else if dF d 0 15 15 = 1 ∧ dF d 1 26 18 < 256 then dF d 1 26 18 / 32
  else dF d 0 18 16

/-- The course time that a fence return carries. -/
def injectTime (d : List Word) : Nat :=
  ns ((dF d 5 31 0 + dF d 6 15 0 * 2 ^ 32) * nsPerSec + dF d 4 31 0) + dF d 6 31 16 * 2 ^ 32

/-- The admission request of a direct-path frame (R347). -/
def State.directAdm (s : State) (h : HostId) (d : List Word) (bytes : List Byte) : Adm :=
  let port := dF d 0 27 19
  let cls := dF d 0 30 28
  { pipe := port / 32, inPort := 264 + h.num, chPort := 264 + h.num, ingPipe := port / 32, bytes := bytes, whole := true,
    len := bytes.length, known := true, layout := 0, shift := 0, ed := s.edNow, nextProto := 0, fragl := false, pass := false,
    routed := false, tstate := s.tstate, ct := stamp s.tim.ct, rc := s.tim.rc, cont := none, rMeta := 0, hash := 0, finalBd := 0,
    cls := cls, icls := cls, colour := 0, far := if dF d 1 13 13 = 1 then some (dF d 1 12 0) else none, punt := none, repair := none,
    direct := true, skip := false, rxPort := none, copies := [⟨port, cls, none, 0, none, false⟩],
    mc := none, back := false, adj := 0, chkLen := false, stored := false }

/-- What a capture record says of an injected frame that is dropped before admission. -/
def State.injectInfo (s : State) (d : List Word) (inPort : Nat) : CapInfo :=
  ⟨2, false, s.edNow, inPort, 0x1FF, 0, dF d 0 30 28, 0, dF d 0 13 0 + 4, true, s.tim.ct, s.tim.ct⟩

/-- A fence return that has been read (R150, R214): dropped when its edition has retired, otherwise counted in its edition and queued. -/
def State.fenceReturn (s : State) (h : HostId) (j : Nat) (d : List Word) (p : Nat) (bytes : List Byte) : State :=
  let ed := dF d 1 14 14 == 1
  let st := s.edState ed
  let inPort := dF d 1 26 18
  let tag := dF d 1 17 15
  if 5 ≤ st ∨ st = 0 then
    ((((s.blk p (352 + 2)).blk p (352 + 3)).dropIn inPort 0x98 p none (s.injectInfo d inPort)
      ((bytes.take (bytes.length - 4)).take 192))).fenceReturned tag p
  else
    let x : InjFrame := ⟨bytes, h, j, p, injectTime d, s.tim.rc, dF d 1 28 27, ed, some (tag, inPort)⟩
    let s := s.edUp ed
    { s with fwd := { s.fwd with inject := AMap.set s.fwd.inject p (s.injq p ++ [x]) } }

/-- An accepted descriptor whose frame has been read goes to its path (R347). -/
def State.injectGo (s : State) (h : HostId) (j : Nat) (d : List Word) (p : Nat) (bytes : List Byte) : State :=
  if dF d 0 14 14 = 1 then ((s.hcount h 6).edUp s.edNow).enterStable (s.directAdm h d bytes) |>.1
  else if dF d 0 15 15 = 1 then ((s.hcount h 5).hcount h 8).fenceReturn h j d p bytes
  else
    let x : InjFrame := ⟨bytes, h, j, p, s.tim.ct, s.tim.rc, s.tstate, s.edNow, none⟩
    let s := s.hcount h 5
    { s with fwd := { s.fwd with inject := AMap.set s.fwd.inject p (s.injq p ++ [x]) } }

/-- Whether an accepted descriptor must wait in its ring: its pipeline yields (R280, R286), or an earlier frame of the ring waits for a slot of
another pipeline or of any, which it must not overtake on its way to the Stable (R347). -/
def State.injectWaits (s : State) (h : HostId) (j : Nat) (d : List Word) : Bool :=
  let direct := dF d 0 14 14 == 1
  (!direct && s.ratDefers (injectPipe d) 0) ||
    (List.range 8).any fun p => (direct || p != injectPipe d) && (s.injq p).any fun y => y.host == h && y.ring == j

/-- INJECT_FRAME: a unit of host h's inject ring j: the descriptor's 8 words, how the read of the frame ended, and the frame without FCS.
A pipeline-path descriptor waits in its ring while its pipeline yields (R280). -/
def execInjectFrame (h : HostId) (j : Nat) (d : List Word) (r : HostRead) (frame : List Byte) (s : State) : Out :=
  let j := j % 2
  let c := chanOf h (12 + j)
  .next (s.unit c fun s =>
    let p := injectPipe d
    let s := s.ringRead h c (s.rd fHST_CH_DEV_IDX_IDX 0 c) 1 32
    if s.injectBad d then (s.hcount h 7).advance h c 1
    else if s.injectWaits h j d then (if dF d 0 14 14 = 0 ∧ s.ratDefers p 0 then s.ratKindNote p 0 else s)
    else
      let body := frame.take (dF d 0 13 0)
      let s := (s.tally p 0 1 s.tim.ct).hostRead h (dF d 2 31 0 + dF d 3 31 0 * 2 ^ 32) (dF d 0 13 0)
      let s := s.advance h c 1
      if r ≠ .ok then (s.dropIn (264 + h.num) 0x9D p none (s.injectInfo d (264 + h.num)) []).hcount h 17
      else s.injectGo h j d p (body ++ fcsBytes body))

/-! ### Posts (R342) -/

/-- One post entry. An entry with another bit set is refused as a bad post (DEDUCED, assumption log 24). -/
def State.post (s : State) (h : HostId) (e : Nat) : State :=
  let id := e % 2 ^ 18
  let k := id / 65536
  let i := 4 * h.num + k
  let c := chanOf h 20
  if 2 ^ 18 ≤ e ∨ !s.on fHST_POOL_CFG_EN 0 i ∨ s.rd fHST_POOL_CFG_COUNT_M1 0 i < id % 65536 then
    (((s.wr fHST_CH_STAT_ERR 1 0 c).event 0x41 15 (c + 2 ^ 8)).raise .HST_RING_ERR h.num).hcount h 11
  else if s.bufPosted h id then ((s.addSat fHST_POOL_STAT_DOUBLE 1 0 i).raise .HST_DOUBLE_POST h.num id).hcount h 10
  else
    let s := { s with hst := { s.hst with bufState := AMap.set s.hst.bufState (h, id) true } }
    (s.setPosted h k (s.postedOf h k ++ [id])).hcount h 9

/-- BUFFER_POST: a unit of host h's post ring: up to 64 entries, as 64-bit numbers. -/
def execBufferPost (h : HostId) (entries : List Nat) (s : State) : Out :=
  let c := chanOf h 20
  .next (s.unit c fun s =>
    let n := min (min 64 (s.ringWork c)) entries.length
    let s := s.ringRead h c (s.rd fHST_CH_DEV_IDX_IDX 0 c) n 8
    if n = 0 then s else ((entries.take n).foldl (fun s e => s.post h e) s).advance h c n)

/-! ### Exports (R304, R350) -/

/-- A length rounded up to 64 bytes. -/
def pad64 (n : Nat) : Nat := (n + 63) / 64 * 64

/-- The space of a stream's first record is free (R304). -/
def State.expFree (s : State) (stream : Nat) : State :=
  match stream with
  | 1 => { s with arc := { s.arc with snaps := s.arc.snaps.drop 1, snapUsed := s.arc.snapUsed - pad64 ((s.arc.snaps.head?.map (·.len)).getD 0) } }
  | 2 => { s with arc := { s.arc with ledUsed := s.arc.ledUsed - 1 } }
  | 3 => { s with arc := { s.arc with capHeld := s.arc.capHeld - 1 } }
  | _ => s

/-- Reads n bytes of a record from position `pos`, the region's ring wrapping: bytes past the record are 0. The last part is the number of
bytes before the first uncorrectable burst, if there is one. -/
def State.expRead (s : State) (got : Option (List (Nat × Nat × List Byte))) (x : ExpRec) (pos n : Nat) : State × List Byte × Option Nat :=
  let m := min n (x.len - pos)
  let o := (x.off + pos) % x.size
  let m1 := min m (x.size - o)
  let a := s.memReadBy got 3 (x.base + o) m1
  let pad := List.replicate (n - m) (0 : Byte)
  match a.2.2 with
  | some g => (a.1, a.2.1 ++ List.replicate (m - m1) 0 ++ pad, some g)
  | none =>
    let b := a.1.memReadBy got 3 x.base (m - m1)
    (b.1, a.2.1 ++ b.2.1 ++ pad, b.2.2.map (m1 + ·))

/-- The bursts that such a read covers. -/
def ExpRec.bursts (x : ExpRec) (pos n : Nat) : List Nat :=
  let m := min n (x.len - pos)
  let o := (x.off + pos) % x.size
  let m1 := min m (x.size - o)
  burstsOf (x.base + o) m1 ++ burstsOf x.base (m - m1)

/-- The error record of a record that an uncorrectable read ended (R350). -/
def errRecord (x : ExpRec) : List Byte := wordsBytes ([word 0x0F, word x.type, word x.name] ++ zeros 13)

/-- The bytes of the unit in progress: the state, the bytes so far, the position in the first record and whether a read has failed in it;
`room` bytes are left. -/
def State.expLoop (s : State) (got : Option (List (Nat × Nat × List Byte))) (stream room pos : Nat) (failed : Bool) (out : List Byte) :
    Nat → State × List Byte × Nat × Bool
  | 0 => (s, out, pos, failed)
  | fuel + 1 =>
    match s.expNext stream with
    | none => (s, out, pos, failed)
    | some x =>
      let total := pad64 x.len + if failed then 64 else 0
      let n := min room (total - pos)
      if room = 0 then (s, out, pos, failed)
      else if failed then
        let z := min n (pad64 x.len - pos)
        let bs := List.replicate z 0 ++ (errRecord x).take (n - z)
        if pos + n = total then (s.expFree stream).expLoop got stream (room - n) 0 false (out ++ bs) fuel
        else s.expLoop got stream (room - n) (pos + n) true (out ++ bs) fuel
      else
        let r := s.expRead got x pos n
        match r.2.2 with
        | some g =>
          let bs := r.2.1.take g ++ List.replicate (n - g) 0
          r.1.expLoop got stream (room - n) (pos + n) true (out ++ bs) fuel
        | none =>
          if pos + n = total then (r.1.expFree stream).expLoop got stream (room - n) 0 false (out ++ r.2.1) fuel
          else r.1.expLoop got stream (room - n) (pos + n) false (out ++ r.2.1) fuel

/-- The bursts that a unit of at most `room` bytes reads, from a position in the first record on. -/
def State.expAsks (s : State) (stream room pos : Nat) (failed : Bool) : Nat → List Nat
  | 0 => []
  | fuel + 1 =>
    match s.expNext stream with
    | none => []
    | some x =>
      let total := pad64 x.len + if failed then 64 else 0
      let n := min room (total - pos)
      if room = 0 then []
      else (if failed then [] else x.bursts pos n) ++
        (if pos + n = total then (s.expFree stream).expAsks stream (room - n) 0 false fuel else [])

/-- Writes a unit's bytes into an export ring at its producer, wrapping at its end. -/
def State.expPut (s : State) (h : HostId) (c : Nat) (bs : List Byte) : State :=
  let size := s.ringSize c
  let o := s.rd fHST_CH_DEV_IDX_IDX 0 c * 64 % size
  let n := min bs.length (size - o)
  let s := s.hostWrite h (s.chBase c + o) (bs.take n)
  if n < bs.length then s.hostWrite h (s.chBase c) (bs.drop n) else s

/-- An export ring moves up to `room` bytes of its stream, reading them at once or from the answers that its unit has waited for. -/
def State.exportGo (s : State) (h : HostId) (j room : Nat) (got : Option (List (Nat × Nat × List Byte))) : State :=
  let c := chanOf h (15 + j)
  let k := 2 * h.num + j
  let at_ := AMap.getD s.arc.expPos k (0, false)
  let r := s.expLoop got (s.rd fARC_EXPORT_STREAM 0 k) room at_.1 at_.2 [] 1100
  let units := r.2.1.length / 64
  let s := (r.1.expPut h c r.2.1).hcount h 14 r.2.1.length
  let s := { s with arc := { s.arc with expPos := AMap.set s.arc.expPos k r.2.2 } }
  (s.advance h c units).wrote h c units

/-- The bursts that an export ring reads now for up to `room` bytes. -/
def State.exportAsks (s : State) (h : HostId) (j room : Nat) : List Nat :=
  let k := 2 * h.num + j
  let at_ := AMap.getD s.arc.expPos k (0, false)
  s.expAsks (s.rd fARC_EXPORT_STREAM 0 k) room at_.1 at_.2 1100

/-- A unit of an export ring begins: its reads are served at once, or it waits for them (R311). -/
def State.exportBegin (s : State) (h : HostId) (j : Nat) : State :=
  let c := chanOf h (15 + j)
  let room := min 65536 ((s.ringSize c / 64 - s.ringUsed c) * 64)
  if s.dramClear then s.exportGo h j room none
  else s.unitAsk ⟨c, [], .ok, [], room, [], []⟩ (burstReads 3 s.tim.rc (s.exportAsks h j room))

/-- A unit of an export ring has its answers. Where its records are no longer those that it read, it moves nothing. -/
def State.exportEnd (s : State) (h : HostId) (j : Nat) (u : ArcUnit) : State :=
  let s := s.unitOver (chanOf h (15 + j))
  if (s.exportAsks h j u.room).all fun b => u.got.any (·.1 == b) then s.exportGo h j u.room (some u.got) else s

/-- EXPORT_WRITE: a unit of host h's export ring j, of up to 65,536 bytes. `ecc` names bursts that fail their check (R319). Export waits while any
pipeline yields, which notes the deferral there (R280, R286); a unit whose reads wait in their bank queues goes on with a later event (assumption log
19). -/
def execExportWrite (h : HostId) (j : Nat) (ecc : List (Nat × List Nat)) (s : State) : Out :=
  let j := j % 2
  let c := chanOf h (15 + j)
  .next (
    if s.engineNext (c / 16) = some c then
      match s.unitOf c with
      | some u => if u.asks.isEmpty then s.exportEnd h j u else s
      | none => ((s.turnTaken c).eccArrive ecc).exportBegin h j
    else if s.chOn h (15 + j) && s.exportMay h j then s.yielding.foldl (fun s p => s.ratKindNote p 0) s
    else s)

/-! ### Bulk transfers (R351) -/

/-- The status of a bulk descriptor before its data moves (R351). -/
def State.bulkStatus (s : State) (d : List Word) : Nat :=
  let len := dF d 1 16 0
  let a := dF d 4 31 0 + dF d 5 7 0 * 2 ^ 32
  if len = 0 ∨ 65536 < len ∨ s.drmBytes < a + len ∨ !s.on fDRM_STATUS_READY then stBAD_ARGS
  else if dF d 0 0 0 = 0 ∧ (List.range 3).any (fun i => s.regionOn i && overlap (a, len) (s.region i)) then stCONFLICT
  else stOK

/-- The archive address and the host address of a descriptor. -/
def bulkAddr (d : List Word) : Nat := dF d 4 31 0 + dF d 5 7 0 * 2 ^ 32
def bulkHost (d : List Word) : Nat := dF d 2 31 0 + dF d 3 31 0 * 2 ^ 32

/-- The bytes of a write to archive memory: from the point where a host read failed onward they are undefined (R351). -/
def State.bulkBytes (s : State) (d : List Word) (r : HostRead) (data : List Byte) : State × List Byte :=
  let got := data.take (dF d 1 16 0)
  let f := if r = .ok then ([], s) else s.freeBytes (dF d 1 16 0 - got.length)
  (f.2, got ++ f.1)

/-- The end of a read for a descriptor: its bytes go to the host, those from the failing point onward undefined, and its status. -/
def State.bulkOut (s : State) (h : HostId) (d : List Word) (m : List Byte × Option Nat) : State × Nat :=
  match m.2 with
  | none => (s.hostWrite h (bulkHost d) m.1, stOK)
  | some g =>
    let f := s.freeBytes (dF d 1 16 0 - g)
    (f.2.hostWrite h (bulkHost d) (m.1.take g ++ f.1), stPARITY)

/-- The transfer of an accepted descriptor at once: the state and its status. A write whose read-modify-write fails leaves that burst and ends in
PARITY (R320); the destination bytes from the failing point onward are undefined (R351). -/
def State.bulkMove (s : State) (h : HostId) (d : List Word) (r : HostRead) (data : List Byte) : State × Nat :=
  let len := dF d 1 16 0
  let a := bulkAddr d
  if dF d 0 0 0 = 0 then
    let x := (s.hostRead h (bulkHost d) len).bulkBytes d r data
    let s := x.1.dramDrain a len
    match s.rmwLost a len with
    | [] => (s.memPut (4 + h.num) a x.2, if r = .ok then stOK else stTIMEOUT)
    | b :: _ =>
      let f := s.freeBytes (len - (b * 64 - a))
      (f.2.memPut (4 + h.num) a (x.2.take (b * 64 - a) ++ f.1), if r = .ok then stPARITY else stTIMEOUT)
  else
    let m := s.memRead (4 + h.num) a len
    m.1.bulkOut h d m.2

/-- The descriptor's unit issues its requests and waits. -/
def State.bulkAsk (s : State) (h : HostId) (c : Nat) (d : List Word) (r : HostRead) (data : List Byte) : State :=
  let a := bulkAddr d
  let len := dF d 1 16 0
  if dF d 0 0 0 = 0 then
    let x := (s.hostRead h (bulkHost d) len).bulkBytes d r data
    x.1.unitAsk ⟨c, d, r, x.2, 0, [], []⟩ (burstWrites (4 + h.num) a s.tim.rc x.2)
  else s.unitAsk ⟨c, d, r, [], 0, [], []⟩ (burstReads (4 + h.num) s.tim.rc (burstsOf a len))

/-- The unit has its answers: the state and the descriptor's status. Of a write in error the bytes after the failing burst are undefined (R351). -/
def State.bulkAnswered (s : State) (h : HostId) (u : ArcUnit) : State × Nat :=
  let a := bulkAddr u.d
  let len := dF u.d 1 16 0
  let m := answersAt u.got a len
  if dF u.d 0 0 0 = 1 then s.bulkOut h u.d m
  else
    match m.2 with
    | none => (s, if u.r = .ok then stOK else stTIMEOUT)
    | some g =>
      let b := (a + g) / 64 * 64 + 64
      let f := s.freeBytes (a + len - b)
      ({ f.2 with arc := { f.2.arc with mem := Memory.writes f.2.arc.mem b f.1 } }, if u.r = .ok then stPARITY else stTIMEOUT)

/-- The end of a descriptor: its status and `DONE`, then the consumer. -/
def State.bulkDone (s : State) (h : HostId) (c st : Nat) : State :=
  let at_ := s.chBase c + s.rd fHST_CH_DEV_IDX_IDX 0 c % s.ringSize c * 32 + 28
  let s := (s.hostWrite h at_ (wordBytes (word (st + 2 ^ 31)))).hcount h 12
  let s := if st = stOK then s else s.hcount h 13
  (s.advance h c 1).wrote h c 1

/-- BULK_TRANSFER: one descriptor of host h's bulk ring j: its 8 words, how its host read ended with the bytes read, and the bursts that fail
their check. A poisoned read ends it as a timeout does (DEDUCED, assumption log 24). A unit whose requests wait in their bank queues goes on with a
later event, whose operands are not looked at (assumption log 19). -/
def execBulkTransfer (h : HostId) (j : Nat) (d : List Word) (r : HostRead) (data : List Byte) (ecc : List (Nat × List Nat)) (s : State) : Out :=
  let c := chanOf h (18 + j % 2)
  .next (
    if s.engineNext (c / 16) = some c then
      match s.unitOf c with
      | some u =>
        if u.asks.isEmpty then
          let m := (s.unitOver c).bulkAnswered h u
          m.1.bulkDone h c m.2
        else s
      | none =>
        let s := ((s.turnTaken c).ringRead h c (s.rd fHST_CH_DEV_IDX_IDX 0 c) 1 32).eccArrive ecc
        let st := s.bulkStatus d
        if st ≠ stOK then s.bulkDone h c st
        else if s.dramClear then
          let m := s.bulkMove h d r data
          m.1.bulkDone h c m.2
        else s.bulkAsk h c d r data
    else s)

end Sys2Proof.Machine
end

