-- ==== Sys2Proof/Machine/Faults.lean ====
section
/-! DEFINITION. Fault collection and reaction (R398 to R419): classification, records, the daybook, reactions and the safe state, quiet
periods and recoveries, the fault inputs, and the injector. -/
namespace Sys2Proof.Machine

/-! ### Domains (R400) -/

/-- The level and the instance of a domain. -/
def domLevel (id : Nat) : Nat := id / 0x2000 % 8
def domInst (id : Nat) : Nat := id % 512

/-- The pipeline that a domain lies within, 15 for the chip (R405). -/
def domPipe (id : Nat) : Nat :=
  match domLevel id with
  | 0 | 1 => domInst id / 32
  | 2 | 3 => domInst id
  | _ => 15

/-- The PIPE field of an event about a domain (R418): 15 for a lane too. -/
def evtPipe (id : Nat) : Nat := if domLevel id = 0 then 15 else domPipe id

/-- A domain with nothing against it. -/
def Dom.fresh (id : Nat) : Dom := ⟨id, false, 0, 0, false, false, none, none, 0, 0, 0, 0, 0, 0, 0, 0, 0, none, false⟩

/-- The reaction state of a domain. -/
def State.dom (s : State) (id : Nat) : Dom := (s.flt.doms.find? (·.id == id)).getD (Dom.fresh id)

/-- The state with a domain's reaction state replaced. -/
def State.setDom (s : State) (d : Dom) : State :=
  let others := s.flt.doms.filter (·.id != d.id)
  { s with flt := { s.flt with doms := others ++ [d] } }

/-- Whether a domain holds a reaction: an open episode that reached MAJOR (R402, R411). -/
def Dom.reacts (d : Dom) : Bool := d.live && decide (2 ≤ d.sev)

/-! ### Outputs (R405) -/

/-- Whether a GPIO in fault-output mode has a domain that drives it (R405). -/
def State.gpioFault (s : State) (i : Nat) : Bool :=
  s.flt.doms.any fun d =>
    d.reacts && decide (bitsOf (s.rg .FLT_GPIO_OSEV).toNat (2 * i + 1) (2 * i) ≤ d.sev) &&
      (!s.on fFLT_GPIO_OPIPE_V 0 i || domPipe d.id == s.rd fFLT_GPIO_OPIPE 0 i)

/-- The level that a GPIO drives: none in the input modes. -/
def State.gpioLevel (s : State) (i : Nat) : Option Bool :=
  match s.rd fFLT_GPIO_MODE 0 i with
  | 1 => some (s.on fFLT_GPIO_POL 0 i)
  | 3 => some (if s.gpioFault i then s.on fFLT_GPIO_SAFE_LEVEL 0 i else !s.on fFLT_GPIO_SAFE_LEVEL 0 i)
  | _ => none

/-- `FAULT_OUT_N`, the GPIO outputs and `FLT_STATUS` follow the domains (R405); reset holds the pin low until boot ends (R437). -/
def State.fltOutputs (s : State) : State :=
  let low := s.flt.doms.any fun d => (d.reacts && decide (s.rd fFLT_CFG_OUT_SEV ≤ d.sev)) || (d.live && d.latched)
  let fout := low || s.pin.outHeld
  let levels := (List.range 16).filterMap fun i => (s.gpioLevel i).map fun b => (i, b)
  let openN := (s.flt.doms.filter fun d => d.rec_.isSome).length
  let latchN := (s.flt.doms.filter fun d => d.rec_.isSome && d.latched).length
  let s := { s with pin := { s.pin with faultOut := fout, gpio := levels } }
  (((s.wr fFLT_STATUS_FOUT (b2n fout)).wr fFLT_STATUS_CHIP_SAFE (b2n (s.domSafe chipDomain))).wr fFLT_STATUS_OPEN openN).wr
    fFLT_STATUS_LATCHED latchN

/-! ### Records (R407 to R409) -/

/-- Writes a domain's record into its registers. -/
def State.showRec (s : State) (d : Dom) : State :=
  match d.rec_ with
  | none => s
  | some r =>
    let w0 := 2 ^ 31 + b2n d.latched * 2 ^ 30 + b2n d.reacts * 2 ^ 29 + d.sev * 2 ^ 27 + d.id
    let s := (s.setRg .FLT_REC (word w0) 0 r).setRg .FLT_REC_MERGED (word (min d.merged (2 ^ 32 - 1))) 0 r
    let s := ((ctWords d.firstCt).zipIdx).foldl (fun s w => s.setRg .FLT_REC_FIRST w.1 0 r w.2) s
    let s := ((ctWords d.lastCt).zipIdx).foldl (fun s w => s.setRg .FLT_REC_LAST w.1 0 r w.2) s
    let s := ((natWords 4 d.kinds).zipIdx).foldl (fun s w => s.setRg .FLT_REC_KINDS w.1 0 r w.2) s
    s.setRg .FLT_REC_INFO (word (d.recov * 2 ^ 16 + d.firstSlot)) 0 r

/-- The state with a domain replaced and its record shown. -/
def State.putDom (s : State) (d : Dom) : State := (s.setDom d).showRec d

/-- A record closes: its registers show it as not valid. -/
def State.hideRec (s : State) (r : Nat) : State :=
  ((s.wr fFLT_REC_VALID 0 0 r).wr fFLT_REC_LATCHED 0 0 r).wr fFLT_REC_REACT 0 0 r

/-- The lowest free record. -/
def State.freeRec (s : State) : Option Nat := (List.range 32).find? fun r => !s.flt.doms.any fun d => d.rec_ == some r

/-- A fault event of a domain (R418). -/
def State.faultRec (s : State) (ty : Nat) (d : Dom) (slot detail t : Nat) : State :=
  let r := s.eventRec ty (evtPipe d.id) (d.rec_.getD 31 * 2 ^ 14 + d.sev * 2 ^ 19) (d.id + slot * 2 ^ 16) (min d.merged (2 ^ 32 - 1)) d.recov detail t
  (s.eventTo .a r).eventTo .b r

/-- MSI-X to each host whose threshold a record meets, and the sideband's bit (R419). -/
def State.faultInts (s : State) (sev : Nat) : State :=
  let s := hosts.foldl (fun s h =>
    if s.on fFLT_HOST_INT_EN 0 h.num ∧ s.rd fFLT_HOST_INT_SEV 0 h.num ≤ sev then s.interrupt h (s.rd fFLT_HOST_INT_VECTOR 0 h.num) else s) s
  if s.rd fFLT_CFG_SB_SEV ≤ sev then s.sbSet fHST_SB_INT_FAULT else s

/-- What is sent for a domain that an event has opened (`opened`) or raised (`up`): the events once its record has reached EVT_SEV, and the
interrupts. Without a record NO_RECORD is sent, and no record that opens interrupts (R409, R419). -/
def State.faultTell (s : State) (d : Dom) (opened up : Bool) (slot detail t : Nat) : State :=
  let s := match d.rec_ with
    | none => s.faultRec 0x26 d slot detail t
    | some _ =>
      if s.rd fFLT_CFG_EVT_SEV ≤ d.sev then
        let s := if d.told then s else (s.faultRec 0x20 d slot detail t).setDom { d with told := true }
        if up then s.faultRec 0x21 d slot detail t else s
      else s
  if (opened || up) && d.rec_.isSome then s.faultInts d.sev else s

/-- A record that has become free goes to the domain that has waited longest for one (R409). -/
def State.grantRec (s : State) (r : Nat) : State :=
  let waiting := s.flt.doms.filter fun d => d.live && d.norec.isSome
  let first := waiting.foldl (fun (m : Option Dom) d => match m with
    | some x => if d.norec.getD 0 < x.norec.getD 0 then some d else m
    | none => some d) none
  match first with
  | none => s
  | some d =>
    let d := { d with rec_ := some r, norec := none }
    (s.putDom d).faultTell d true false d.lastSlot d.detail d.lastCt

/-- A domain's episode ends: its record closes and goes to a waiting domain. -/
def State.closeDom (s : State) (d : Dom) : State :=
  let s := s.setDom { Dom.fresh d.id with recov := d.recov, recovWin := d.recovWin }
  match d.rec_ with
  | none => s
  | some r => (s.hideRec r).grantRec r

/-! ### The safe state (R403, R404) -/

/-- The front-panel ports of a domain; a lane's is the port that holds it. -/
def State.domPorts (s : State) (id : Nat) : List Nat :=
  let i := domInst id
  match domLevel id with
  | 0 => (List.range 8).map (i / 8 * 8 + ·) |>.filter fun p => i ∈ s.portLanes p
  | 1 => [i]
  | 2 | 3 => (List.range 32).map (32 * i + ·)
  | _ => List.range 256

/-- Whether some domain that contains a port holds a SAFE reaction. -/
def State.portSafe (s : State) (port : Nat) : Bool :=
  s.domSafe (domainOf 1 port) || s.pipeSafe (port / 32) || (s.portLanes port).any fun l => s.domSafe (domainOf 0 l)

/-- The lanes and chiplets that a reaction at their own level squelches. -/
def State.safeLanes (s : State) : State :=
  let held := fun (l : Nat) => (s.flt.doms.filter fun d => d.live && d.act == 1 && domLevel d.id == l).map fun d => domInst d.id
  let chips := held 3
  let lanes := held 0
  { s with pin := { s.pin with chipSafe := chips, laneSafe := lanes } }

/-- A domain enters the safe state. -/
def State.driveSafe (s : State) (id : Nat) : State := ((s.domPorts id).foldl (fun s p => s.enterSafe p) s).safeLanes

/-- A domain's safe state is released: a port leaves it when no domain that contains it is safe. -/
def State.releaseSafe (s : State) (id : Nat) : State :=
  ((s.domPorts id).foldl (fun s p => if s.portSafe p then s else s.liftSafe p) s).safeLanes

/-- An octet has a new mode: which of its ports, all DISABLED, a SAFE reaction holds is found anew (R404: the port that holds a lane). -/
def State.safeRedo (s : State) (o : Nat) : State :=
  let mine := (List.range 8).map (8 * o + ·)
  let safe := (mine.filter fun k => s.portExists k && s.portSafe k) ++ s.ports.safe.filter fun k => !(k ∈ mine)
  { s with ports := { s.ports with safe := safe } }

/-- The ARCHIVE reaction (R403). -/
def State.archiveReact (s : State) : State :=
  let s := ((s.wr fARC_CFG_SNAP_EN 0).wr fARC_CFG_LEDGER_EN 0).wr fARC_CFG_CAP_EN 0
  (s.cancelKind .snapshot).dropScan

/-- The reaction of a SEVERE event at its domain (R402, R403). -/
def State.react (s : State) (id slot : Nat) : State :=
  let k := s.rd fFLT_SRC_CFG_REACT 0 slot
  let halt := s.on fFLT_SRC_CFG_HALT 0 slot
  let d := s.dom id
  let s := s.setDom { d with halt := d.halt || halt, act := if d.act = 1 then 1 else k }
  match k with
  | 1 => s.driveSafe id
  | 2 => s.archiveReact
  | _ => s

/-! ### Collection (R401, R402, R407 to R410) -/

/-- The window of a counted source, in course-time units. -/
def State.fltWin (s : State) (slot : Nat) : Nat :=
  let w := s.rd fFLT_SRC_CFG_WIN 0 slot
  ns (1000 * if w < 20 then 2 ^ w else 1000000)

/-- Classifies n events of a slot at a course time (R401): the state with its window, and the severity. -/
def State.classify (s : State) (slot n t : Nat) : State × Nat :=
  let base := s.rd fFLT_SRC_CFG_SEV 0 slot
  if !s.on fFLT_SRC_CFG_COUNTED 0 slot then (s, base)
  else
    let old := s.flt.windows.find? (·.1 == slot)
    let w := match old with
      | some x => if t < x.2.1 + s.fltWin slot then (slot, x.2.1, x.2.2 + n) else (slot, t, n)
      | none => (slot, t, n)
    let others := s.flt.windows.filter (·.1 != slot)
    let s := { s with flt := { s.flt with windows := w :: others } }
    (s, if s.rd fFLT_SRC_CFG_N 0 slot ≤ w.2.2 then 3 else base)

/-- The kind bit of a slot. -/
def kindBit (slot : Nat) : Nat := match slotKind slot with | some k => 2 ^ k.num | none => 0

/-- A domain's reaction state after an event: opened with a record if one is free, or merged (R407 to R409). -/
def State.mergeDom (s : State) (c : Crossing) (sev id : Nat) : Dom :=
  let d := s.dom id
  if d.live then
    { d with sev := max d.sev sev, lastCt := c.ct, merged := d.merged + c.count, kinds := d.kinds ||| kindBit c.slot, lastSlot := c.slot,
             detail := c.detail, quietRc := s.tim.rc }
  else
    let r := s.freeRec
    { d with live := true, sev := sev, act := 0, halt := false, latched := false, rec_ := r,
             norec := if r.isSome then none else some s.flt.order, firstCt := c.ct, lastCt := c.ct, merged := c.count,
             kinds := kindBit c.slot, firstSlot := c.slot, lastSlot := c.slot, detail := c.detail, quietRc := s.tim.rc, told := false }

/-- Enters one daybook entry in the queue of 256; one that finds it full is counted in `LOST` (R410). -/
def State.daybook (s : State) (c : Crossing) (sev : Nat) (d : Dom) : State :=
  if 256 ≤ s.flt.dayQ.length then s.addSat fFLT_DAYBOOK_HEAD_LOST 1
  else { s with flt := { s.flt with dayQ := s.flt.dayQ ++ [(c, sev, d)] } }

/-- Writes one entry in the daybook over its oldest (R410). -/
def State.daybookWrite (s : State) (c : Crossing) (sev : Nat) (d : Dom) : State :=
  let i := s.rd fFLT_DAYBOOK_HEAD_NEXT
  let s := (s.wr fFLT_DAYBOOK_HEAD_NEXT (i + 1)).addWrap fFLT_DAYBOOK_SEQ_SEQ 1
  let w0 := 2 ^ 31 + c.tstate * 2 ^ 21 + d.rec_.getD 31 * 2 ^ 16 + b2n d.rec_.isNone * 2 ^ 15 + b2n c.forced * 2 ^ 14 + sev * 2 ^ 12 + c.slot
  let s := (s.setRg .FLT_DAYBOOK (word w0) 0 i).setRg .FLT_DAYBOOK_CNT (word (min 65535 c.count * 2 ^ 16 + d.id)) 0 i
  let s := (s.setRg .FLT_DAYBOOK_DETAIL (word c.detail) 0 i).setRg .FLT_DAYBOOK_ESEQ (s.rg .FLT_DAYBOOK_SEQ) 0 i
  ((ctWords c.ct).zipIdx).foldl (fun s w => s.setRg .FLT_DAYBOOK_TIME w.1 0 i w.2) s

/-- The oldest entry of the daybook's queue is written; how fast the queue drains is not stated (DESIGN CHOICE, assumption log 25: one entry in a
cycle of MCLK, by `State.tick`). -/
def State.daybookNext (s : State) : State :=
  match s.flt.dayQ with
  | [] => s
  | x :: rest => { s with flt := { s.flt with dayQ := rest } }.daybookWrite x.1 x.2.1 x.2.2

/-- The events of one slot act (R402): record, reaction, events and interrupts, capture stop, daybook and outputs. -/
def State.act (s : State) (c : Crossing) (sev : Nat) : State :=
  let id := s.slotDom c.slot c.detail
  let old := s.dom id
  let d := s.mergeDom c sev id
  let s := { (s.putDom d) with flt := { (s.putDom d).flt with order := s.flt.order + 1 } }
  let s := if sev = 3 then s.react id c.slot else s
  let d := s.dom id
  let s := s.faultTell d (!old.live) (old.live && decide (old.sev < d.sev)) c.slot c.detail c.ct
  let s := if s.on fARC_CAP_CFG_STOP_FAULT_EN && decide (s.rd fARC_CAP_CFG_STOP_SEV ≤ sev) then s.capStop else s
  ((s.showRec (s.dom id)).daybook c sev (s.dom id)).fltOutputs

/-- Whether events of a lower slot of the same domain, of the same cycle of MCLK, are still to be taken: they come first (R407). -/
def State.lowerFirst (s : State) (c : Crossing) : Bool :=
  s.flt.crossing.any fun x =>
    decide (x.slot < c.slot) && x.ct / mclkLen == c.ct / mclkLen && s.slotDom x.slot x.detail == s.slotDom c.slot c.detail

/-- FAULT_EVENT: the collector receives the oldest events of a slot that wait at its crossing, those of one cycle (R401): counted, and classified
unless the slot is off. While a lower slot's events of that cycle wait for the same domain, nothing happens (R407). -/
def execFaultEvent (slot : Nat) (s : State) : Out :=
  .next (
    match s.flt.crossing.find? (·.slot == slot) with
    | none => s
    | some c =>
      if s.lowerFirst c then s else
      let left := s.flt.crossing.erase c
      let s := ({ s with flt := { s.flt with crossing := left } }).addSat fFLT_SRC_CNT_COUNT c.count 0 slot
      if !s.on fFLT_SRC_CFG_EN 0 slot then s
      else
        let r := s.classify slot c.count c.ct
        r.1.act c r.2)

/-! ### Fault inputs (R414, R415) -/

/-- A fault input: 0 is `FAULT_IN_N`, 1 + i is `GPIO[i]`. Its slot, domain, enable, active level and rate limit. -/
def inSlot (k : Nat) : Nat := 70 + k
def State.inOn (s : State) (k : Nat) : Bool := if k = 0 then s.on fFLT_IN_CFG_EN else s.rd fFLT_GPIO_MODE 0 (k - 1) == 2
def State.inRate (s : State) (k : Nat) : Nat := if k = 0 then s.rd fFLT_IN_CFG_RATE_MAX else s.rd fFLT_GPIO_RATE_MAX 0 (k - 1)

/-- Whether an enabled input is at its active level now. -/
def State.inActive (s : State) (k : Nat) : Bool :=
  s.inOn k && (if k = 0 then s.on fFLT_IN_STATUS_LEVEL
    else bitOf (s.rd fFLT_GPIO_IN_IN) (k - 1) == s.on fFLT_GPIO_POL 0 (k - 1))

/-- An input's state. -/
def State.input (s : State) (k : Nat) : FaultIn := AMap.getD s.flt.inputs k ⟨false, false, []⟩

/-- The state with an input's state replaced. -/
def State.setInput (s : State) (k : Nat) (x : FaultIn) : State := { s with flt := { s.flt with inputs := AMap.set s.flt.inputs k x } }

/-- An input is masked: counted, INPUT_MASKED sent, its level no longer present, and its domain's quiet period restarts (R415). -/
def State.maskInput (s : State) (k : Nat) (x : FaultIn) : State :=
  let s := s.setInput k { x with masked := true }
  let s := if k = 0 then (s.wr fFLT_IN_STATUS_MASKED 1).addSat fFLT_IN_STATUS_MASKINGS 1 else s.addSat fFLT_GPIO_MASKINGS 1 0 (k - 1)
  let s := s.levelOffSlot (inSlot k)
  let d := { s.dom (s.slotDom (inSlot k) 0) with quietRc := s.tim.rc }
  (s.setDom d).faultRec 0x25 d (inSlot k) 0 s.tim.ct

/-- The assertions of an input within the last second. -/
def State.inTimes (s : State) (k : Nat) : List Nat := (s.input k).times.filter fun t => decide (s.tim.rc < t + ns nsPerSec)

/-- An assertion of an input: counted with those of the last second; beyond RATE_MAX it is masked, otherwise its source is present. -/
def State.assertInput (s : State) (k : Nat) : State :=
  let x : FaultIn := ⟨true, false, s.tim.rc :: s.inTimes k⟩
  if s.inRate k ≠ 0 ∧ s.inRate k < x.times.length then s.maskInput k x else (s.setInput k x).levelOnSlot (inSlot k)

/-- An input follows its level and its settings. -/
def State.inputEval (s : State) (k : Nat) : State :=
  let x := s.input k
  let now := s.inActive k
  if now && !x.asserted then (if x.masked then s.setInput k { x with asserted := true } else s.assertInput k)
  else if !now && x.asserted then
    let s := s.setInput k { x with asserted := false }
    if x.masked then s else s.levelOffSlot (inSlot k)
  else s

/-- FAULT_IN_CHANGE: the deglitched level of input k (0 `FAULT_IN_N`, 1 + i `GPIO[i]`) changes. -/
def execFaultInChange (k : Nat) (high : Bool) (s : State) : Out :=
  .next (
    if k = 0 then (s.wr fFLT_IN_STATUS_LEVEL (b2n !high)).inputEval 0
    else if k ≤ 16 then (s.wr ⟨.FLT_GPIO_IN, k - 1, k - 1⟩ (b2n high)).inputEval k
    else s)

/-! ### Leaving the fault state (R411 to R413) -/

/-- The length of a domain's quiet period. -/
def State.quietLen (s : State) (id : Nat) : Nat := ns (s.rd fFLT_SCOPE_CFG_Q_MS 0 (domLevel id) * 1000000)

/-- The masks of a domain's inputs lift; an input still asserted counts as a new assertion (R415). -/
def State.unmaskInputs (s : State) (id : Nat) : State :=
  ((List.range 17).filter fun k => (s.input k).masked && s.slotDom (inSlot k) 0 == id).foldl (fun s k =>
    let x := s.input k
    let s := (if k = 0 then s.wr fFLT_IN_STATUS_MASKED 0 else s).setInput k { x with masked := false }
    if x.asserted then s.assertInput k else s) s

/-- A domain's reaction lifts: its safe state, its outputs and its halt request are released. -/
def State.liftDom (s : State) (d : Dom) (ty : Nat) : State :=
  let s := if d.told then s.faultRec ty d d.lastSlot d.detail s.tim.ct else s
  let s := s.closeDom d
  (if d.act = 1 then s.releaseSafe d.id else s).fltOutputs

/-- The recoveries of a domain once one more is counted, and when its window opened (R412). -/
def State.recoveries (s : State) (d : Dom) : Nat × Nat :=
  match d.recovWin with
  | some w => if s.tim.rc < w + ns (s.rd fFLT_SCOPE_WIN_REC_WINDOW_S 0 (domLevel d.id) * nsPerSec) then (d.recov + 1, w) else (1, s.tim.rc)
  | none => (1, s.tim.rc)

/-- The end of a quiet period with an open episode (R411, R412). -/
def State.quietEnd (s : State) (d : Dom) : State :=
  if d.sev < 2 then s.liftDom d 0x22
  else
    let r := s.recoveries d
    if s.rd fFLT_SCOPE_CFG_REC_LIMIT 0 (domLevel d.id) < r.1 then
      let d := { d with latched := true }
      let s := s.putDom d
      let s := if d.told then s.faultRec 0x23 d d.lastSlot d.detail s.tim.ct else s
      (if d.rec_.isSome then s.faultInts d.sev else s).fltOutputs
    else s.liftDom { d with recov := r.1, recovWin := some r.2 } 0x22

/-- QUIET_PERIOD_END: the quiet period of a domain ends. Before that nothing happens; while a level source of the domain is present none
runs. -/
def execQuietPeriodEnd (id : Nat) (s : State) : Out :=
  .next (
    let d := s.dom id
    if s.levelIn id ∨ s.tim.rc < d.quietRc + s.quietLen id then s
    else
      let s := if d.live && !d.latched then s.quietEnd d else s
      s.unmaskInputs id)

/-- The clear of a domain (R413): its reaction lifts, its record closes and its recoveries restart; level sources still present raise
an event at once. A domain with nothing to clear is ignored. -/
def State.domClear (s : State) (id : Nat) : State :=
  let d := s.dom id
  if !d.live then s
  else
    let s := s.liftDom { d with recov := 0, recovWin := none } 0x24
    (s.flt.present.filter fun o => s.slotDom (o % 4096) 0 == id).foldl (fun s o => s.raiseSlot (o % 4096) 1 0 (decide (4096 ≤ o))) s

/-- The recoveries of a domain in its current window: none once that window has closed (R412). -/
def State.recovNow (s : State) (d : Dom) : Nat := (s.recoveries d).1 - 1

/-- `FLT_DOM_STATE` of the selected domain, as read. -/
def State.domState (s : State) : Word :=
  let id := s.rd fFLT_DOM_SEL_DOMAIN
  let d := s.dom id
  word (b2n d.reacts * 2 ^ 31 + b2n d.latched * 2 ^ 30 + b2n (s.levelIn id) * 2 ^ 29 + b2n d.norec.isSome * 2 ^ 28 + d.sev * 2 ^ 24 +
    d.rec_.getD 0 * 2 ^ 16 + s.recovNow d)

/-- Whether a Clerk halt request of the collector is present (R406). -/
def State.fltHalt (s : State) : Bool := s.flt.doms.any fun d => d.live && d.sev == 3 && d.halt

/-! ### Testing the reactions (R416, R417) -/

/-- The DETAIL of a forced event: a slot that the ports of a pipeline share names the pipeline's first port (DESIGN CHOICE, assumption log 25). -/
def forcedDetail (slot : Nat) : Nat := if 280 ≤ slot ∧ slot ≤ 311 then 32 * ((slot - 280) % 8) else 0

/-- A write of `FLT_FORCE[j]` (R416): `old` and `new` are its words; an edge source's bit raises one event and reads 0 again, a level
source's condition follows its bit, a reserved slot's bit stays 0. -/
def State.forced (s : State) (j : Nat) (old new : Nat) : State :=
  (List.range 32).foldl (fun s b =>
    let slot := 32 * j + b
    let f : Fld := ⟨.FLT_FORCE, b, b⟩
    match slotKind slot with
    | none => s.wr f 0 0 j
    | some k =>
      if k.src.level then
        (if bitOf new b && !bitOf old b then s.levelOnSlot slot 0 true else if !bitOf new b && bitOf old b then s.levelOffSlot slot true else s)
      else if bitOf new b then (s.wr f 0 0 j).raiseSlot slot 1 (forcedDetail slot) true
      else s) s

/-- The pipeline and replica keys of a memory that the injector names (R417): a per-pipeline memory by `PIPE` and `REPLICA`, a replicated
table by the replica that is `PIPE`'s, the two copies of the key store and the prefix index by `REPLICA`, and a chip memory by neither. -/
def injKey (ck p rep : Nat) : Nat × Nat :=
  if ck = 0x17 ∨ ck = 0x18 then (15, 3 * p + rep)
  else if ck = 0x09 ∨ ck = 0x0A ∨ ck = 0x0B then (15, rep)
  else if ck = 0x05 ∨ ck = 0x06 ∨ (0x0C ≤ ck ∧ ck ≤ 0x10) then (15, p)
  else if (0x19 ≤ ck ∧ ck ≤ 0x1D) ∨ ck = 0x23 ∨ 0x25 ≤ ck then (15, 0)
  else if ck = 0x24 then (p, 0)
  else if 0x1E ≤ ck ∧ ck ≤ 0x22 then (p, 0)
  else if ck = 0x03 ∨ ck = 0x04 ∨ ck = 0x07 ∨ ck = 0x08 then (p, 0)
  else (p, rep)

/-- A write of `FLT_INJECT.GO` (R417): in ENTRY mode the word's check bits are inverted at once, in NEXT mode those of the next word written. -/
def State.injectGoErr (s : State) : State :=
  let ck := s.rd fFLT_INJECT_CHECKER
  let k := injKey ck (s.rd fFLT_INJECT_PIPE) (s.rd fFLT_INJECT_REPLICA)
  let dbl := s.on fFLT_INJECT_BITS
  if s.on fFLT_INJECT_MODE then
    let others := s.flt.nextMarks.filter fun m => !(m.1 == ck && m.2.1 == k.1)
    { s with flt := { s.flt with nextMarks := (ck, k.1, k.2, dbl) :: others } }
  else s.mark ck k.1 k.2 (s.rd fFLT_INJECT_INDEX_INDEX) dbl

end Sys2Proof.Machine
end

