-- ==== Sys2Proof/Machine/Clocks.lean ====
section
/-! DEFINITION. Clocks, resets and crossings (R420 to R432): stops and starts, accesses that wait at a crossing, the crossing watcher, crossing
and chiplet resets, the die-to-die links, loss of lock of the PLLs, and what the cold and the warm reset clear and keep. -/
namespace Sys2Proof.Machine

/-! ### Clocks (R420 to R422) -/

/-- Whether a clock runs, by its `CKR_RUN` bit. -/
def State.runs (s : State) (k : Nat) : Bool := bitOf (s.rg .CKR_RUN).toNat k

/-- The state with a `CKR_RUN` bit replaced. When FCLK stops, a boot read waits from then on (R426). -/
def State.setRun (s : State) (k : Nat) (on : Bool) : State :=
  let off := if k = 4 ∧ !on then s.tim.rc else s.ckr.fclkOff
  { s with ckr := { s.ckr with fclkOff := off } }.setRg .CKR_RUN (word (setBits (s.rg .CKR_RUN).toNat k k (b2n on)))

/-- The acknowledge of one pulse handshake returns (R424): a set pending bit becomes the next request and is delivered, otherwise nothing is in flight
any more. With the far side's clock stopped, or host h lost, no acknowledge comes. -/
def State.pulseAck (s : State) (q : Nat × Pulse × Bool) : State :=
  let stuck := (q.1 == 2 && decide (HostId.a ∈ s.hst.lost)) || (q.1 == 3 && decide (HostId.b ∈ s.hst.lost)) || (q.1 == 5 && !s.runs 2)
  if stuck then s
  else
    let rest := s.ckr.pulses.filter (· != q)
    let s := { s with ckr := { s.ckr with pulses := if q.2.2 then rest ++ [(q.1, q.2.1, false)] else rest } }
    if !q.2.2 then s
    else match q.2.1 with
      | .msi h v => s.msiNow h v
      | .bit f i b => s.wr f (s.rd f 0 i ||| 2 ^ b) 0 i

/-- The acknowledges that return in one cycle of TCLK: those of every request in flight (DESIGN CHOICE, assumption log 26). -/
def State.pulseAcks (s : State) : State := s.ckr.pulses.foldl (fun s q => s.pulseAck q) s

/-- One cycle of TCLK passes (R33): while TCLK runs, course time and the running count advance by the frequency word. The acknowledges of pulse
handshakes return, and once in a cycle of MCLK, ten cycles of TCLK, an entry leaves the daybook's queue (R410). -/
def State.tick (s : State) : State :=
  let s := s.pulseAcks
  let s := if s.tim.now % 10 = 9 then s.daybookNext else s
  if s.runs 2 then { s with tim := { s.tim with ct := s.tim.ct + s.tim.freq, rc := s.tim.rc + s.tim.freq, now := s.tim.now + 1 } }
  else { s with tim := { s.tim with now := s.tim.now + 1 } }

/-- The clocks that `CKR_STOP` stops, as (its bit, the clock's `CKR_RUN` bit). -/
def stopClocks : List (Nat × Nat) := [(0, 3), (1, 4)] ++ (List.range 8).map fun p => (8 + p, 8 + p)

/-- Whether `CKR_STOP` stops a clock. -/
def State.stopSet (s : State) (k : Nat) : Bool := stopClocks.any fun x => x.2 == k && bitOf (s.rg .CKR_STOP).toNat x.1

/-- What an accepted write of `CKR_STOP` does to one clock: a rise of its bit begins the stop, a fall its start (R422). A clock whose stop has not
taken effect goes on running. -/
def State.stopOne (s : State) (old : Nat) (x : Nat × Nat) : State :=
  let was := bitOf old x.1
  let now := bitOf (s.rg .CKR_STOP).toNat x.1
  let stops := s.ckr.stopping.filter (· != x.2)
  let starts := s.ckr.starting.filter (· != x.2)
  let run := s.runs x.2
  if now && !was then { s with ckr := { s.ckr with stopping := if run then x.2 :: stops else stops, starting := starts } }
  else if was && !now then { s with ckr := { s.ckr with stopping := stops, starting := if run then starts else x.2 :: starts } }
  else s

/-- `CKR_STOP` has been written; `old` is its word before. -/
def State.stopWritten (s : State) (old : Nat) : State := stopClocks.foldl (fun s x => s.stopOne old x) s

/-- The clock of a chiplet stops: its link has no clock, and its calibration ends with the link (R52). -/
def State.linkOff (s : State) (p : Nat) : State :=
  let runs := s.tim.calRun.filter (·.1 != p)
  let flits := s.ckr.flits.filter fun f => f.1 != p
  let s := (s.wr fCKR_D2D_STATUS_UP 0 0 p).wr fTIM_CAL_STATUS_DONE (setBits (s.rd fTIM_CAL_STATUS_DONE) p p 0)
  { s with tim := { s.tim with calRun := runs }, ckr := { s.ckr with flits := flits } }

/-- Whether requests for archive memory are inside the crossings of DCLK (R422): they complete before it stops. -/
def State.dramInside (s : State) : Bool := !s.drm.waiting.isEmpty || s.drm.queues.any fun q => !q.2.isEmpty

/-- CLOCK_STOPPED (R422): the requests inside the crossings of clock k have completed, and it stops. While some have not, nothing happens. -/
def execClockStopped (k : Nat) (s : State) : Out :=
  .next (
    if k ∈ s.ckr.stopping ∧ !(k = 3 ∧ s.dramInside) then
      let stops := s.ckr.stopping.filter (· != k)
      let s := { s with ckr := { s.ckr with stopping := stops } }.setRun k false
      if 8 ≤ k then s.linkOff (k - 8) else s
    else s)

/-! ### Crossings (R425 to R427) -/

/-- What becomes of an access that its crossing flushes: a read ends in an error response (Completer Abort, or 0xFFFF_FFFF on the
sideband), a posted write is discarded and logged. Boot's own accesses carry no master. -/
def State.flushAccess (s : State) (a : Access) : State :=
  let m : Master := if a.master = 1 then .a else if a.master = 2 then .b else .sb
  if a.master = 0 || a.late then s
  else match a.write with
  | some w => s.reject m .badState a.offset w
  | none => { s with hst := { s.hst with readData := AMap.set s.hst.readData m (if m = .sb then some (word 0xFFFFFFFF) else none) } }

/-- Since when the read of the Folio that boot makes waits for its response: in FLASH, in VERIFY, and in APPLY while sections are left. One that ended
in an error response waits no more. -/
def State.bootReadAt (s : State) : Option Nat :=
  let st := s.rd fFOL_BOOT_STATUS_STATE
  if !s.fol.readErr && (st == 2 || st == 3 || (st == 4 && !s.fol.short && !s.fol.secs.isEmpty)) then some (max s.fol.readRc s.ckr.fclkOff) else none

/-- n numbers from a. -/
def spanL (a n : Nat) : List Nat := (List.range n).map (a + ·)

/-- The frames in reception on the ports of some lanes end with an invalid FCS (R431, R69). The lanes are those at the balls, which
`PRT_OCT_RXMAP` takes to the ports' lanes (R65). -/
def State.spoil (s : State) (lanes : List Nat) : State :=
  let hit := fun (x : RxFrame) => !x.ended && (s.portLanes x.port).any fun l => decide (s.rxRoute l ∈ lanes)
  { s with fwd := { s.fwd with rx := s.fwd.rx.map fun x => if hit x then { x with bad := true } else x } }

/-- One uncorrectable codeword for every lane that carries a port of pipeline p and stands in a list (R431): it counts at the lane's port
(DEDUCED, assumption log 26). -/
def State.fecLostOn (s : State) (p : Nat) (lanes : List Nat) : State :=
  (((spanL (32 * p) 32).filter s.rxOn).flatMap fun port => ((s.portLanes port).filter fun l => decide (s.rxRoute l ∈ lanes)).map fun _ => port).foldl
    (fun s port => s.fecLost port) s

/-- The answers that a unit still waits for become errors. -/
def ArcUnit.cut (u : ArcUnit) : ArcUnit := { u with asks := [], got := u.got ++ u.asks.map fun a => (a.2.1, 1, []) }

/-- What the flush of a crossing does to the requests in it that are no register accesses (R427): those for archive memory are discarded, each read
with an error response, and so is a flash operation or a read of boot whose clock is stopped. The lane words of a chiplet are discarded, so that the
frames in reception there are spoiled. A set pending bit of a pulse is cleared and counted in `MERGED`. -/
def State.flushInner (s : State) (x : Nat) : State :=
  let merged := s.ckr.pulses.countP fun q => q.1 == x && q.2.2
  let s := { s with ckr := { s.ckr with pulses := s.ckr.pulses.filter fun q => q.1 != x } }
  let s := if merged = 0 then s else s.addSat fCKR_XSTATUS_MERGED merged 0 x
  if x = 8 then
    let gone := s.drm.waiting ++ ((s.drm.queues.map (·.2)).flatten.filter fun r => !r.write)
    let left := s.drm.queues.map fun q => (q.1, q.2.filter (·.write))
    let s := gone.foldl (fun s r => s.dramAnswer r 1 []) { s with drm := { s.drm with waiting := [], queues := left, blocked := [] } }
    { s with drm := { s.drm with units := s.drm.units.map ArcUnit.cut } }
  else if x = 9 ∧ !s.runs 4 then
    let s := { s with fol := { s.fol with readErr := s.fol.readErr || s.bootReadAt.isSome } }
    if s.fol.flOp.isSome then ({ s with fol := { s.fol with flOp := none } }.wr fFOL_FL_CTRL_BUSY 0).wr fFOL_FL_CTRL_ERR 1 else s
  else if 10 ≤ x then s.spoil (spanL (32 * (x - 10)) 32)
  else s

/-- A crossing is reset and both halves flush (R427). -/
def State.xreset (s : State) (x : Nat) : State :=
  let mine := s.ckr.waits.filter fun a => a.crossing == x
  let left := s.ckr.waits.filter fun a => a.crossing != x
  let s := { s with ckr := { s.ckr with waits := left } }
  let s := mine.foldl (fun s a => s.flushAccess a) s
  (s.flushInner x).addSat fCKR_XSTATUS_FLUSHES 1 0 x

/-- A write of `CKR_XRESET`: one reset for each bit written as 1. -/
def State.xresets (s : State) (data : Nat) : State :=
  (List.range 18).foldl (fun s x => if bitOf data x then s.xreset x else s) s

/-- 64 µs, the watcher's time (R426). -/
def hungTime : Nat := ns 64000

/-- The first request of a crossing on which the watcher must act, as (master code, offset). A request to archive memory or to the flash is
internal; the watcher acts once for it (`CkrSt.acted`). -/
def State.hungAt (s : State) (x : Nat) : Option (Nat × Nat) :=
  match s.ckr.waits.find? fun a => a.crossing == x && !a.hung && decide (a.since + hungTime ≤ s.tim.rc) with
  | some a => some (a.master, a.offset)
  | none =>
    let seen := AMap.get? s.ckr.acted x
    let late := fun (t : Nat) => decide (t + hungTime ≤ s.tim.rc) && (match seen with | some a => decide (a < t) | none => true)
    let arch := !s.dclkOn && ((s.drm.waiting ++ (s.drm.queues.map (·.2)).flatten).any (fun r => late r.since) || s.drm.blocked.any fun b => late b.2)
    let flash := !s.runs 4 && ((s.fol.flOp.isSome && late s.fol.flSince) || (match s.bootReadAt with | some t => late t | none => false))
    if (x = 8 ∧ arch) ∨ (x = 9 ∧ flash) then some (0, 0) else none

/-- The watcher's capture: the first hang since the last clear. -/
def State.hungNote (s : State) (x m off : Nat) : State :=
  if s.on fCKR_HUNG_LAST_VALID then s
  else s.setRg .CKR_HUNG_LAST (word (2 ^ 31 + m * 2 ^ 29 + x * 2 ^ 24 + bitsOf off 25 2))

/-- CROSSING_HUNG (R426): a request has waited 64 µs at crossing x. Without such a request the event changes nothing. -/
def execCrossingHung (x : Nat) (s : State) : Out :=
  .next (
    match s.hungAt x with
    | none => s
    | some h =>
      let seen := s.ckr.waits.map fun a => if a.crossing = x ∧ a.since + hungTime ≤ s.tim.rc then { a with hung := true } else a
      let acted := if x = 8 ∨ x = 9 then AMap.set s.ckr.acted x (s.tim.rc - hungTime) else s.ckr.acted
      let s := { s with ckr := { s.ckr with waits := seen, acted := acted } }
      let s := ((s.wr fCKR_XSTATUS_HUNG 1 0 x).hungNote x h.1 h.2).raise .HUNG_CROSSING 0 x
      if s.on fCKR_XCFG_AUTO_XRESET then s.xreset x else s)

/-! ### Die-to-die links and chiplet resets (R430, R431) -/

/-- The ports of a pipeline whose LINK_RAW is 1. -/
def State.rawPorts (s : State) (p : Nat) : List Nat :=
  ((List.range 32).map (32 * p + ·)).filter fun k => s.portExists k && s.prt fPRT_STATE_LINK_RAW k == 1

/-- LINK_RAW falls on every port of a pipeline: its lanes have lost their link to the core die. -/
def State.pipeFall (s : State) (p : Nat) : State :=
  (s.rawPorts p).foldl (fun s k => (s.setPrt fPRT_STATE_ALIGNED k 0).linkDrop k) s

/-- A die-to-die link is declared down (R431): its ports fall, its calibration is void, and it trains again by itself. -/
def State.linkLost (s : State) (p : Nat) : State :=
  let s := ((s.linkOff p).levelOn .CKR_D2D_LINK p p).pipeFall p
  { s with ckr := { s.ckr with trainAt := AMap.set s.ckr.trainAt p s.tim.rc } }

/-- The lanes of a chiplet lose their lock, and its octets relock (R430, R66). -/
def State.chipletClear (s : State) (p : Nat) : State :=
  let s := (List.range 32).foldl (fun s l => s.laneLock (32 * p + l) false) s
  let s := (s.synceUpdate 0).synceUpdate 1
  (List.range 4).foldl (fun s q =>
    if s.rd fPRT_OCT_STATUS_ACTIVE_MODE p q = 0 then s
    else
      let s := s.wr fPRT_OCT_STATUS_READY 0 p q
      { s with ports := { s.ports with octAt := AMap.set s.ports.octAt (4 * p + q) s.tim.rc } }) s

/-- A chiplet is reset (R428, R430): its link and its crossing with it; its ports fall. Its bit reads 1 until the link is up again. -/
def State.chipletReset (s : State) (p : Nat) : State :=
  let s := s.wr fCKR_CHIPLET_RESET_RESET (setBits (s.rd fCKR_CHIPLET_RESET_RESET) p p 1)
  let s := (((s.linkOff p).pipeFall p).chipletClear p).xreset (10 + p)
  { s with ckr := { s.ckr with trainAt := AMap.set s.ckr.trainAt p s.tim.rc } }

/-- A write of `CKR_CHIPLET_RESET`: one reset for each bit written as 1. -/
def State.chipletResets (s : State) (data : Nat) : State :=
  (List.range 8).foldl (fun s p => if bitOf data p then s.chipletReset p else s) s

/-- D2D_LINK_UP (R430, R431, R52): the link of chiplet p has trained, with its PLL in lock. A chiplet that is stopped has no link. -/
def execD2dLinkUp (p : Nat) (s : State) : Out :=
  .next (
    if !s.chipletRuns p || s.on fCKR_D2D_STATUS_UP 0 p || s.rd fFOL_BOOT_STATUS_STATE == 0 then s
    else
      let s := ((s.wr fCKR_D2D_STATUS_UP 1 0 p).setRun (8 + p) true).levelOff .CKR_D2D_LINK p
      let s := s.wr fCKR_CHIPLET_RESET_RESET (setBits (s.rd fCKR_CHIPLET_RESET_RESET) p p 0)
      let lost := s.ckr.pllLost.filter (· != p)
      let s := { s with ckr := { s.ckr with pllLost := lost, trainAt := AMap.erase s.ckr.trainAt p } }
      s.calStart p)

/-- D2D_FLIT_ERROR (R431): a flit of link p arrives with an error; one that the check code corrects is counted and has no other effect.
An uncorrectable one spoils the frames of the lanes it carried, and the sixteenth within 1 ms takes the link down. -/
def execD2dFlitError (p : Nat) (corrected : Bool) (lanes : List Nat) (s : State) : Out :=
  .next (
    if !s.on fCKR_D2D_STATUS_UP 0 p then s
    else if corrected then s.addSat fCKR_D2D_STATUS_CORR 1 0 p
    else
      let s := ((s.addSat fCKR_D2D_STATUS_UNCORR 1 0 p).spoil lanes).fecLostOn p lanes
      let recent := (p, s.tim.rc) :: s.ckr.flits.filter fun f => f.1 != p || decide (s.tim.rc < f.2 + ns 1000000)
      let s := { s with ckr := { s.ckr with flits := recent } }
      if 16 ≤ recent.countP fun f => f.1 == p then s.linkLost p else s)

/-- D2D_RETRAIN (R431): a link that is down tries to train again, 10 ms after its last try. Whether it comes up is D2D_LINK_UP's. -/
def execD2dRetrain (p : Nat) (s : State) : Out :=
  .next (
    match AMap.get? s.ckr.trainAt p with
    | some t =>
      if s.chipletRuns p && !s.on fCKR_D2D_STATUS_UP 0 p && decide (t + ns 10000000 ≤ s.tim.rc) then
        { s with ckr := { s.ckr with trainAt := AMap.set s.ckr.trainAt p s.tim.rc } }
      else s
    | none => s)

/-! ### Loss of lock (R431, R432, R87) -/

/-- D2D_LINK_PLL_UNLOCK (R431): the link PLL of chiplet p loses lock, and the link is down. -/
def execD2dLinkPllUnlock (p : Nat) (s : State) : Out :=
  .next (
    let lost := p :: s.ckr.pllLost.filter (· != p)
    ({ s with ckr := { s.ckr with pllLost := lost } }.setRun (8 + p) false).linkLost p)

/-- CCLK_PLL_UNLOCK (R432). -/
def execCclkPllUnlock (s : State) : Out :=
  .next ((s.wr fCKR_PLL_STATUS_CCLK_LOCK 0).addSat fCKR_PLL_STATUS_UNLOCKS 1 |>.levelOn .CKR_PLL_UNLOCK)

/-- DCLK_PLL_UNLOCK (R432): raised as DRM_TRAIN. DCLK, and FCLK that the same PLL makes, stop, so that requests to them wait at their
crossings (R426). -/
def execDclkPllUnlock (s : State) : Out :=
  .next (((((s.wr fCKR_PLL_STATUS_DCLK_LOCK 0).addSat fCKR_PLL_STATUS_UNLOCKS 1).setRun 3 false).setRun 4 false).raise .DRM_TRAIN)

/-- SERDES_PLL_UNLOCK (R87): a lane PLL of chiplet p loses lock. -/
def execSerdesPllUnlock (p : Nat) (s : State) : Out := .next (s.levelOn .PRT_SERDES_PLL p p)

/-! ### Cold reset (R421, R428) -/

/-- Everything returns to its reset state; the OTP keeps its bits, and the board its levels of `PE_PERST_N`. The queue of commands and the model's
counter of free values are not the machine's. `CAUSE` says why. -/
def State.coldReset (s : State) (cause : Nat) : State :=
  { State.reset with
    pending := s.pending
    free := s.free
    regs := AMap.set [] ⟨.CKR_RESET_STATUS, 0, 0, 0, 0⟩ (word cause)
    fol := { FolSt.reset with otp := s.fol.otp, burnt := s.fol.burnt }
    ckr := { CkrSt.reset with refLost := s.ckr.refLost }
    pin := { PinSt.reset with perst := s.pin.perst } }

/-- COLD_RESET (R428, R452): `PWRGOOD` falls, or `SYS_RESET_N` goes low. -/
def execColdReset (pwrgood : Bool) (s : State) : Out := .next (s.coldReset (if pwrgood then 0 else 1))

/-- Boot begins: STATE is FUSES, and the outcomes of the last boot are cleared (R380). -/
def State.bootStart (s : State) (tamper : Bool) : State :=
  let s := s.setRg .FOL_BOOT_STATUS (word (1 + 7 * 2 ^ 8 + b2n tamper * 2 ^ 12))
  let s := (((s.setRg .FOL_BOOT_SEQ 0).setRg .FOL_COPY_STATUS (word 0x88)).setRg .FOL_BOOT_TIME 0).setRg .FOL_TACK_AVAIL 0
  let s := s.wr fFOL_OTP_POLICY_KEY_USED 4
  let s := (((s.wr fFOL_TACK_STATUS_LOADED 0).wr fFOL_TACK_STATUS_ARMED 0).wr fFOL_TACK_STATUS_TARGET 0).wr fFOL_TACK_STATUS_IN_FORCE 7
  { s with fol := { s.fol with startRc := s.tim.rc, tamper := tamper, heads := [], digest := 0, again := [], readErr := false, secs := [],
                               rec_ := none, wait := none, short := false, store := [], pend := [], range := none } }

/-- The clocks of the enabled endpoints whose `PE_PERST_N` the board has deasserted run (R420). -/
def State.perstClocks (s : State) : State :=
  s.pin.perst.foldl (fun s h =>
    let s := s.wr fHST_LINK_PERST 0 0 h.num
    if s.endpointOn h then s.wr (pclk h) 1 else s) s

/-- RESET_RELEASE (R381, R439): `SYS_RESET_N` rises; the straps are sampled, and boot enters FUSES unless the `REF_MGMT` monitor still holds
the reset. -/
def execResetRelease (tackSel hostMode : Nat) (bootSrc : Nat) (s : State) : Out :=
  .next (
    if !s.ckr.held then s
    else
      let s := { s with fol := { s.fol with tackSel := tackSel % 8, hostMode := hostMode % 4, bootSrc := bootSrc % 2 },
                        ckr := { s.ckr with held := false } }
      let s := (s.setRg .GEN_STRAPS (word (tackSel % 8 + hostMode % 4 * 2 ^ 3 + bootSrc % 2 * 2 ^ 5))).wr fHST_MODE_HOST_MODE (hostMode % 4)
      if s.ckr.refLost then s else (s.perstClocks.setRun 0 true).bootStart false)

/-- The straps as last sampled are kept through the reset of R421, which no edge of `SYS_RESET_N` follows (R439). -/
def State.keepStraps (s old : State) : State :=
  let s := { s with fol := { s.fol with tackSel := old.fol.tackSel, hostMode := old.fol.hostMode, bootSrc := old.fol.bootSrc } }
  (s.setRg .GEN_STRAPS (old.rg .GEN_STRAPS)).setRg .HST_MODE (old.rg .HST_MODE)

/-- REF_MGMT_LOSS (R421): the monitor holds the EF9 in cold reset, with `FAULT_OUT_N` low and every transmitter squelched. -/
def execRefMgmtLoss (s : State) : Out :=
  .next (
    let r := (s.coldReset 2).keepStraps s
    { r with ckr := { r.ckr with refLost := true, held := s.ckr.held } })

/-- REF_MGMT_RECOVER (R421): 1 ms after `REF_MGMT` is back and the MCLK PLL has locked, the EF9 leaves that reset. -/
def execRefMgmtRecover (s : State) : Out :=
  .next (
    if !s.ckr.refLost then s
    else
      let s := { s with ckr := { s.ckr with refLost := false } }
      if s.ckr.held then s else ((s.perstClocks.wr fCKR_RESET_STATUS_CAUSE 2).setRun 0 true).bootStart false)

/-! ### Warm reset (R391, R413, R428, R429) -/

/-- Whether a warm reset keeps a register. The blocks of the always-on domain keep theirs, except that the internal reset of R391
returns GEN, FLT and FOL to their defaults too. -/
def keepsReg (internal : Bool) (a : RegAt) : Bool :=
  match a.reg with
  | .GEN_OWNER_MAP | .FLT_REC | .FLT_REC_MERGED | .FLT_REC_FIRST | .FLT_REC_LAST | .FLT_REC_KINDS | .FLT_REC_INFO | .FLT_STATUS => false
  | .FOL_WARM_TACK | .FOL_OTP_POLICY | .GEN_STRAPS | .HST_MODE | .HST_LINK | .RAT_AVS | .DRM_CFG => true
  | .FLT_SRC_CNT | .FLT_DAYBOOK | .FLT_DAYBOOK_CNT | .FLT_DAYBOOK_DETAIL | .FLT_DAYBOOK_ESEQ | .FLT_DAYBOOK_TIME | .FLT_DAYBOOK_HEAD
  | .FLT_DAYBOOK_SEQ => true
  | _ =>
    match a.reg.desc.block with
    | .CKR => true
    | .GEN | .FLT | .FOL => !internal
    | _ => false

/-- Whether a slot's source lies in the always-on domain, so that its events do not cross from a block under reset (R427). -/
def alwaysOnSlot (slot : Nat) : Bool :=
  match slotKind slot with
  | some .FOL_NO_IMAGE | some .FOL_COPY_BAD | some .FOL_NO_TACK | some .FOL_RECORD | some .FOL_TAMPER | some .OTP_PARITY
  | some .CKR_PLL_UNLOCK | some .HUNG_CROSSING | some .CKR_D2D_LINK | some .FLT_IN | some .FLT_GPIO_IN => true
  | _ => false

/-- Whether a level source outlasts a warm reset: its condition lies outside the blocks under reset, or it is forced. -/
def keepsLevel (internal : Bool) (k : Nat) : Bool :=
  if 4096 ≤ k then !internal
  else alwaysOnSlot k || slotKind k == some .HST_LINK_DOWN || slotKind k == some .TIM_TCLK_UNLOCK

/-- The collector across a warm reset (R413): records close and reactions lift; recovery counts stay, and so do inputs and what waits for the
daybook. -/
def State.warmFlt (s : State) (internal : Bool) : FaultSt :=
  { FaultSt.reset with
    crossing := s.flt.crossing.filter fun c => alwaysOnSlot c.slot
    doms := (s.flt.doms.filter fun d => d.recov != 0).map fun d => { Dom.fresh d.id with recov := d.recov, recovWin := d.recovWin }
    present := s.flt.present.filter (keepsLevel internal)
    order := s.flt.order
    inputs := s.flt.inputs
    marks := s.flt.marks.filter fun m => m.1 == dramCk
    nextMarks := if internal then [] else s.flt.nextMarks
    dayQ := s.flt.dayQ }

/-- The host interface across a warm reset: links, MSI-X structures and what has already left stay; so do the always-on arbiter's outcomes
and the sideband target. -/
def State.warmHst (s : State) : HostSt :=
  { HostSt.reset with
    lost := s.hst.lost, msix := s.hst.msix, pba := s.hst.pba, out := s.hst.out, readData := s.hst.readData, round := s.hst.round
    cas := s.hst.cas, sbBad := s.hst.sbBad, sbAck := s.hst.sbAck, sbTx := s.hst.sbTx }

/-- A warm reset, from its request to its release (R428, R429): waiting accesses end, everything but what R428 keeps is cleared, frames are
discarded without counting, the transmitters are squelched, and the archive memory is in self-refresh. -/
def State.warmReset (s : State) (internal : Bool) : State :=
  let s := ((List.range 16).map (2 + ·)).foldl (fun s x => s.xreset x) s
  let refresh := s.on fDRM_CFG_EN && s.on fDRM_STATUS_READY
  let s : State :=
    { s with
      regs := s.regs.filter fun r => keepsReg internal r.1
      tim := { TimeSt.reset with rc := s.tim.rc, rcBase := s.tim.rc, now := s.tim.now }
      clerk := .reset, flt := s.warmFlt internal, hst := s.warmHst, cnts := [], saved := [], epoch := none, tables := []
      ports := .reset, fwd := .reset, arc := { ArcSt.reset with mem := s.arc.mem }, drm := { DramSt.reset with selfRefresh := refresh }
      ed := .reset, lrn := .reset, rat := { RatSt.reset with sampleAt := s.tim.rc, endAt := s.tim.rc }
      fol := { s.fol with flOp := none }
      ckr := { s.ckr with warmAt := some s.tim.rc }
      pin := { s.pin with squelch := true, chipSafe := [], laneSafe := [] } }
  let s := ((s.addSat fCKR_RESET_STATUS_WARM_COUNT 1).wr fCKR_RESET_STATUS_CAUSE (if internal then 4 else 3)).wr fFOL_BOOT_STATUS_STATE 0
  let s := (s.wr fFOL_FL_CTRL_BUSY 0).fltOutputs
  { s with fol := { s.fol with tamper := internal }, pin := { s.pin with gpio := [] } }

/-- WARM_RESET_RELEASE (R429, R318): 10 µs after the request the internal reset is released, archive memory leaves self-refresh, each subchannel with
a periodic retrain in its turn, and boot restarts at FUSES. -/
def execWarmResetRelease (s : State) : Out :=
  .next (
    match s.ckr.warmAt with
    | none => s
    | some t =>
      if s.tim.rc < t + ns 10000 then s
      else
        let s := { s with ckr := { s.ckr with warmAt := none } }
        let s := if s.drm.selfRefresh then
            let s := (s.wr fDRM_STATUS_READY 1).wr fDRM_STATUS_CAP_GIB (drmGib (s.rg .DRM_CFG).toNat)
            { s with drm := { s.drm with selfRefresh := false, exits := List.range s.dramN } }
          else s
        s.bootStart s.fol.tamper)

end Sys2Proof.Machine
end

