-- ==== Sys2Proof/Machine/Registers.lean ====
section
/-! DEFINITION. Register accesses (R5 to R11, R327, R352 to R356, R380, R464 to R468): which checks a write passes and in which order, what
each field keeps, what writing a register does beside it, and what a read returns, removes and latches. -/
namespace Sys2Proof.Machine

/-! ### Where a register lies (R352, R356, R464) -/

/-- The control domain that owns a register's writes (R352). -/
def regDomain (a : RegAt) : Option Nat :=
  match a.reg with
  | .GEN_OWNER_CAS | .RAT_CAP_BOARD => none
  | .CLE_MIRROR_CFG | .CLE_MIRROR_BASE_LO | .CLE_MIRROR_BASE_HI | .CLE_MIRROR_SIZE | .CLE_MIRROR_NEED | .CLE_MIRROR_STATUS
  | .CLE_REPAIR_CFG | .CLE_REPAIR_STATUS => some 4
  | .CLE_ED_STATUS | .CLE_ED_NUM | .CLE_ED_TIMEOUT | .CLE_ED_RESIDENT | .CLE_ED_SWITCH_TIME | .CLE_ED_DRAIN => some 5
  | .RDR_DISC_A | .RDR_DISC_B | .RDR_PROFILE | .FAR_PORT => some 5
  | _ =>
    match a.reg.desc.block with
    | .GEN => some 0
    | .TIM => some 1
    | .HST => some 2
    | .CLE => some 3
    | .FOL => some 6
    | .FLT => some 7
    | .RAT => some 8
    | .CKR => some 9
    | .DRM => some 10
    | .ARC => some 11
    | .KST => some 12
    | .STB => some 13
    | .PRT => some (16 + a.p)
    | .RDR | .BRS | .CAT | .FAR => some (24 + a.p)
    | .HAR => some (32 + a.p)
    | .PAR => some (40 + a.p)

/-- Whether the sideband reaches an address (R356); the course-time registers only to read. -/
def inWindow (addr : Nat) (reads : Bool) : Bool :=
  match blockAt addr with
  | some (.GEN, _, _) | some (.FOL, _, _) | some (.FLT, _, _) | some (.RAT, _, _) | some (.CKR, _, _) => true
  | some (.TIM, _, o) => reads && decide (o < 0x100)
  | some (.CLE, _, o) => decide (0x1000 ≤ o) && decide (o < 0x1C00)
  | some (.HST, _, o) => (decide (0x20 ≤ o) && decide (o < 0x38)) || (decide (0x40 ≤ o) && decide (o < 0x4C)) ||
      (decide (0x200 ≤ o) && decide (o < 0x20C))
  | _ => false

/-- The clock that answers an access to a block, as its `CKR_RUN` bit, and the crossing between it and the arbiter (R425, R464). -/
def blockClock : Block → Nat × Nat
  | .GEN | .FOL | .FLT | .CKR => (0, 4)
  | .TIM => (2, 5)
  | .DRM => (3, 7)
  | _ => (1, 4)

/-- Whether a block lies in the always-on domain (R420). -/
def alwaysOn (b : Block) : Bool := (blockClock b).1 == 0

/-- Whether a block's clock runs. The always-on domain is never without its clock. -/
def State.blockRuns (s : State) (b : Block) : Bool := alwaysOn b || s.runs (blockClock b).1

/-- Whether a BAR0 offset lies in a block whose clock is not running (R367, R464). -/
def State.clockStopped (s : State) (addr : Nat) : Bool :=
  match blockAt addr with
  | some x => !s.blockRuns x.1
  | none => false

/-- Whether a register is its block's expert gate (R9). -/
def isGate : Reg → Bool
  | .GEN_EXPERT_GATE | .TIM_EXPERT_GATE | .HST_EXPERT_GATE | .CLE_EXPERT_GATE | .FOL_EXPERT_GATE | .FLT_EXPERT_GATE | .RAT_EXPERT_GATE
  | .CKR_EXPERT_GATE | .DRM_EXPERT_GATE | .ARC_EXPERT_GATE | .KST_EXPERT_GATE | .STB_EXPERT_GATE | .PRT_EXPERT_GATE | .RDR_EXPERT_GATE
  | .BRS_EXPERT_GATE | .CAT_EXPERT_GATE | .FAR_EXPERT_GATE | .HAR_EXPERT_GATE | .PAR_EXPERT_GATE => true
  | _ => false

/-! ### Expert gates (R9, R10) -/

/-- 1 ms of MCLK, in nanoseconds. -/
def gateTime : Nat := 1000000

/-- A master's gate of a block: armed, and open. Either lapses 1 ms after the write that set it. -/
def State.gate (s : State) (m : Master) (b : Block) (p : Nat) : Bool × Bool :=
  match AMap.get? s.hst.gates (m, b, p) with
  | some (opened, t) => if s.tim.now < t + gateTime then (!opened, opened) else (false, false)
  | none => (false, false)

/-- Whether a master's gate of a block is open. Boot is subject to no gate (R390). -/
def State.gateOpen (s : State) (m : Option Master) (b : Block) (p : Nat) : Bool :=
  match m with
  | some m => (s.gate m b p).2
  | none => true

/-- A write of an expert gate (R10). -/
def State.gateWrite (s : State) (m : Master) (b : Block) (p key : Nat) : State :=
  let g : Option (Bool × Nat) :=
    if key = 0xE0 then some (false, s.tim.now)
    else if key = 0x1F ∧ (s.gate m b p).1 then some (true, s.tim.now)
    else none
  let gates := match g with
    | some g => AMap.set s.hst.gates (m, b, p) g
    | none => AMap.erase s.hst.gates (m, b, p)
  { s with hst := { s.hst with gates := gates } }

/-! ### Rounds (R355) -/

/-- The arbiter's round of an access: the accesses already made in it, with the address of each write. A round lasts 10 ns and takes one access
of each master, in the order host A, host B, sideband; an access that does not fit begins another. -/
def State.roundOf (s : State) (m : Master) : List (Master × Option Nat) :=
  if s.hst.round.1 = s.tim.now / 10 ∧ s.hst.round.2.all (fun x => decide (x.1.num < m.num)) then s.hst.round.2 else []

/-- The arbiter takes a write of a master to an address. -/
def State.roundTake (s : State) (m : Master) (addr : Nat) : State :=
  { s with hst := { s.hst with round := (s.tim.now / 10, s.roundOf m ++ [(m, some addr)]) } }

/-- The arbiter takes a read of a master. -/
def State.roundRead (s : State) (m : Master) : State :=
  { s with hst := { s.hst with round := (s.tim.now / 10, s.roundOf m ++ [(m, none)]) } }

/-! ### Fields (R5, R6, R11) -/

/-- The bits of a register that a write may reach: every writable field, without the expert ones while the gate is closed. -/
def RegDesc.reach (d : RegDesc) (opened : Bool) : Nat := d.mask fun f => f.acc != .ro && (opened || !f.expert)

/-- The bits of a register's writable fields of one kind. -/
def RegDesc.accMask (d : RegDesc) (k : Acc) : Nat := d.mask fun f => f.acc == k

/-- The word that a write would make: what it reaches from the data, the rest as it was. -/
def mixed (old data reach : Nat) : Nat := (old &&& (2 ^ 32 - 1 - reach)) ||| (data &&& reach)

/-- The word that a register keeps after a write that reaches some of its bits: write-only fields keep nothing, and a W1C bit written as 1 is 0. -/
def RegDesc.kept (d : RegDesc) (old data reach : Nat) : Nat :=
  let w1c := d.accMask .w1c
  let rw := reach &&& (2 ^ 32 - 1 - w1c) &&& (2 ^ 32 - 1 - d.accMask .wo)
  mixed old data rw &&& (2 ^ 32 - 1 - (data &&& reach &&& w1c))

/-- Whether a register has an expert field: every write to it with the gate closed is logged (R11). -/
def RegDesc.expertHit (d : RegDesc) : Bool := d.fields.any fun f => f.expert

/-! ### What a write does beside its fields -/

/-- What a write answers: the state, and the cause of its refusal. -/
abbrev Wr := State × Option Cause

/-- A write that cannot be refused any more. -/
def ok (s : State) : Wr := (s, none)

/-- Edge of an enable bit: it rises, it falls, or neither. -/
def edge (f : Fld) (old new : Nat) : Option Bool :=
  if inW f old = 0 ∧ inW f new = 1 then some true else if inW f old = 1 ∧ inW f new = 0 then some false else none

/-- The registers of course time. -/
def State.timWritten (s : State) (a : RegAt) (eff : Nat) : Wr :=
  match a.reg with
  | .TIM_CTRL => s.ctrlWrite eff
  | .TIM_FREQ_HI => ok (s.request (.freq (s.rd fTIM_FREQ_HI_VALUE * 2 ^ 32 + s.rd fTIM_FREQ_LO_VALUE)))
  | .TIM_CFG => ok s.lockCheck
  | .TIM_CAL_CTRL => ok (if inW fTIM_CAL_CTRL_RUN_NOW eff = 1 then s.calAll else s)
  | .TIM_SYNCE => ok (s.synceUpdate a.i)
  | .TIM_SYNCE_EN => ok ((s.synceUpdate 0).synceUpdate 1)
  | .TIM_TRIG_CTRL => ok (s.trigCtrl a.i (inW fTIM_TRIG_CTRL_ARM eff = 1))
  | .TIM_PPS_OUT => ok s.ppsOutCut
  | _ => ok s

/-- A channel's configuration: it starts, it stops, or its interrupt is judged again (R331, R333, R337). -/
def State.chanWritten (s : State) (c old : Nat) : State :=
  match edge fHST_CH_CFG_EN old (s.rg .HST_CH_CFG 0 c).toNat with
  | some true => s.chanStart c
  | some false => s.chanStop c
  | none => if s.on fHST_CH_CFG_EN 0 c then s.intCheck (chanHost c).1 c else s

/-- The registers of the host interface. `was` is whether a bit of `HST_SB_INT` was pending before. -/
def State.hstWritten (s : State) (a : RegAt) (old : Nat) (was : Bool) : Wr :=
  match a.reg with
  | .HST_CH_CFG => ok (s.chanWritten a.i old)
  | .HST_CH_MOD => ok (if s.on fHST_CH_CFG_EN 0 a.i then s.intCheck (chanHost a.i).1 a.i else s)
  | .HST_POOL_CFG =>
    ok (if edge fHST_POOL_CFG_EN old (s.rg .HST_POOL_CFG 0 a.i).toNat = some false then
      s.poolDrain (if a.i / 4 = 0 then .a else .b) (a.i % 4) else s)
  | .HST_SB_INT | .HST_SB_MASK => ok (s.sbLines was)
  | _ => ok s

/-- The window's operation is submitted with its command image and its data buffer (R372, R373). -/
def State.tawGo (s : State) (j : Nat) : State :=
  let m : Master := if j = 0 then .a else if j = 1 then .b else .sb
  let ws := (List.range 16).map fun w => s.rg .CLE_TAW_CMD 0 j w
  let n := bitsOf (ws.getD 3 0).toNat 7 0
  let c : Cmd := ⟨.taw m, ws, (List.range n).map fun w => s.rg .CLE_TAW_DATA 0 j w, false, 0, false, 0, 0⟩
  let q := s.clerk.fetched ++ [c]
  { s.wr fCLE_TAW_CTRL_BUSY 1 0 j with clerk := { s.clerk with fetched := q } }

/-- The registers of the Clerk. -/
def State.cleWritten (s : State) (a : RegAt) (old eff : Nat) : Wr :=
  match a.reg with
  | .CLE_MIRROR_CFG =>
    let new := (s.rg .CLE_MIRROR_CFG).toNat
    let one := fun (s : State) (h : HostId) => match edge (mirEn h) old new with | some b => s.mirEnable h b | none => s
    ok (one (one s .a) .b)
  | .CLE_TAW_CTRL => ok (if inW fCLE_TAW_CTRL_GO eff = 1 then s.tawGo a.i else s)
  | .CLE_GAP_MAX => ok (s.setRg .CLE_GAP_MAX 0)
  | _ => ok s

/-! ### The flash window and the fuses (R383, R392) -/

/-- Whether a program or an erase touches the byte range of the copy that the last boot applied. -/
def State.flashBusyRange (s : State) (op cs addr : Nat) : Bool :=
  match s.fol.range with
  | none => false
  | some (dev, first, len) =>
    let lo := if op = 2 then addr / 65536 * 65536 else addr
    let n := if op = 2 then 65536 else 256
    op != 0 && cs == dev && decide (lo < first + len) && decide (first < lo + n)

/-- A write of `FOL_FL_CTRL.GO`: a read, a program or an erase starts, or is refused. -/
def State.flashGo (s : State) : Wr :=
  let op := s.rd fFOL_FL_CTRL_OP
  let cs := s.rd fFOL_FL_CTRL_CS
  let addr := s.rd fFOL_FL_ADDR_ADDR
  if s.flashBusyRange op cs addr then (s.wr fFOL_FL_CTRL_ERR 1, some .guarded)
  else ok { s.wr fFOL_FL_CTRL_BUSY 1 with fol := { s.fol with flOp := some (op, cs, addr), flSince := s.tim.rc } }

/-- A write of `FOL_OTP_PROG.GO`: without VFUSE the operation fails and changes no fuse. -/
def State.otpGo (s : State) : State :=
  if s.pin.vfuse then { s.wr fFOL_OTP_PROG_BUSY 1 with fol := { s.fol with otpOp := some (s.rd fFOL_OTP_PROG_BIT) } }
  else s.wr fFOL_OTP_PROG_FAIL 1

/-- The registers of the Folio, the fault collector and the clocks. -/
def State.mclkWritten (s : State) (a : RegAt) (old eff : Nat) : Wr :=
  match a.reg with
  | .FOL_FL_CTRL =>
    if inW fFOL_FL_CTRL_GO eff = 0 then ok s
    else if s.on fFOL_FL_CTRL_BUSY then (s, some .badState)
    else s.flashGo
  | .FOL_OTP_PROG =>
    if inW fFOL_OTP_PROG_GO eff = 0 then ok s
    else if s.on fFOL_OTP_PROG_BUSY then (s, some .badState)
    else ok s.otpGo
  | .FLT_DOM_CLEAR => ok (s.domClear (inW fFLT_DOM_CLEAR_DOMAIN eff))
  | .FLT_FORCE => ok (s.forced a.i old eff)
  | .FLT_INJECT => ok (if inW fFLT_INJECT_GO eff = 1 then s.injectGoErr else s)
  | .FLT_SRC_CFG => ok (if edge fFLT_SRC_CFG_EN old (s.rg .FLT_SRC_CFG 0 a.i).toNat = some false ∧ s.isPresent a.i then
      s.quietFrom (s.slotDom a.i 0) else s)
  | .FLT_CFG | .FLT_GPIO_OSEV => ok s.fltOutputs
  | .FLT_IN_CFG => ok ((s.inputEval 0).fltOutputs)
  | .FLT_GPIO | .FLT_GPIO_DOM => ok ((s.inputEval (1 + a.i)).fltOutputs)
  | .CKR_STOP => ok (s.stopWritten old)
  | .CKR_RESET => ok (if inW fCKR_RESET_WARM eff = 1 then s.warmReset false else s)
  | .CKR_CHIPLET_RESET => ok ((s.setRg .CKR_CHIPLET_RESET (word old)).chipletResets eff)
  | .CKR_XRESET => ok (s.xresets eff)
  | .CKR_XSTATUS => ok (s.wr fCKR_XSTATUS_MERGED 0 0 a.i)
  | .RAT_POWER => ok (s.wr fRAT_POWER_PEAK (s.rd fRAT_POWER_LAST))
  | _ => ok s

/-! ### The Archive, its memory and the Stable -/

/-- A flow cache is switched off: every flow it can export leaves with reason FLUSH (R299). -/
def State.flowFlush (s : State) (p : Nat) : State := s.flowSweep p

/-- A write of `ARC_CAP_CFG`: STOP and REARM (R302). -/
def State.capWritten (s : State) (eff : Nat) : State :=
  let s := if inW fARC_CAP_CFG_STOP eff = 1 then s.capStop else s
  if inW fARC_CAP_CFG_REARM eff = 1 ∧ s.rd fARC_CAP_STATUS_STATE = 2 then s.wr fARC_CAP_STATUS_STATE 0 else s

/-- The registers of the Archive and of archive memory. -/
def State.arcWritten (s : State) (a : RegAt) (old eff : Nat) : Wr :=
  match a.reg with
  | .ARC_CFG =>
    ok (if edge fARC_CFG_SNAP_EN old (s.rg .ARC_CFG).toNat = some false then (s.cancelKind .snapshot).dropScan else s)
  | .ARC_CAP_CFG => ok (s.capWritten eff)
  | .ARC_EXPORT => ok (if inW fARC_EXPORT_STREAM old = s.rd fARC_EXPORT_STREAM 0 a.i then s else s.expReset a.i)
  | .PAR_FLOW_CFG =>
    ok (if edge fPAR_FLOW_CFG_EN old (s.rg .PAR_FLOW_CFG a.p).toNat = some false then s.flowFlush a.p else s)
  | .DRM_CFG =>
    ok (match edge fDRM_CFG_EN old (s.rg .DRM_CFG).toNat with | some b => s.dramEnable b | none => s)
  | _ => ok s

/-- The Stable is switched on, and builds its free lists, or off (R222). -/
def State.stableSet (s : State) (on : Bool) : State :=
  let s := s.wr fSTB_STATUS_READY 0
  if on then s else (List.range 4).foldl (fun s k => s.wr fSTB_POOL_FREE_FREE 0 0 k) s

/-- The registers of the Stable, and the marks that a write restarts. -/
def State.stbWritten (s : State) (a : RegAt) (old : Nat) : Wr :=
  match a.reg with
  | .STB_CFG => ok (match edge fSTB_CFG_EN old (s.rg .STB_CFG).toNat with | some b => s.stableSet b | none => s)
  | .STB_POOL_CFG => ok (s.wr fSTB_POOL_COUNT_COUNT (poolCount a.i (s.rd fSTB_POOL_CFG_BAYS 0 a.i)) 0 a.i)
  | .STB_POOL_LOW => ok (s.wr fSTB_POOL_LOW_LOW (s.rd fSTB_POOL_FREE_FREE 0 a.i) 0 a.i)
  | .STB_SLIP_LOW => ok (s.wr fSTB_SLIP_LOW_LOW (s.rd fSTB_SLIP_FREE))
  | .STB_ING_XOFF | .STB_ING_XON => ok (s.xoffUpdate (a.i / 8) (a.i % 8))
  | .KST_OVF_COUNT => ok (s.wr fKST_OVF_COUNT_OVF_HIGH (s.rd fKST_OVF_COUNT_OVF_ENTRIES))
  | .BRS_OVF_COUNT => ok (s.wr fBRS_OVF_COUNT_OVF_HIGH (s.rd fBRS_OVF_COUNT_OVF_ENTRIES a.p) a.p)
  | .BRS_LEARN_STATUS => ok (s.wr fBRS_LEARN_STATUS_QUEUE_HIGH (s.rd fBRS_LEARN_STATUS_QUEUE a.p) a.p)
  | .FAR_STATUS => ok (s.wr fFAR_STATUS_LOOP_HIGH (s.rd fFAR_STATUS_LOOP_LEVEL a.p) a.p)
  | _ => ok s

/-- The registers of the pipelines and the ports. -/
def State.pipeWritten (s : State) (a : RegAt) (old eff : Nat) : Wr :=
  match a.reg with
  | .PRT_OCT_MODE =>
    ok (if bitOf eff 31 then
      (s.octApply (4 * a.p + a.i) (s.rd fPRT_OCT_MODE_MODE a.p a.i) (s.rd fPRT_OCT_MODE_FEC a.p a.i)).safeRedo (4 * a.p + a.i)
      else s.octAn (4 * a.p + a.i))
  | .PRT_CFG =>
    ok (match edge fPRT_CFG_ADMIN old (s.rg .PRT_CFG a.p a.i).toNat with | some b => s.adminSet (32 * a.p + a.i) b | none => s)
  | .BRS_AGE_CFG => ok (s.ageWritten a.p)
  | .PRT_FC_CFG | .PRT_PRIO_MAP => ok (s.xoffResume (32 * a.p + a.i))
  | .HAR_GATE_CFG => ok (s.gateRefresh (32 * a.p + a.i))
  | _ => ok s

/-- What a register's write does beside its fields: `old` is its word before, `eff` the data that reached it. -/
def State.written (s : State) (a : RegAt) (old eff : Nat) (was : Bool) : Wr :=
  match a.reg.desc.block with
  | .TIM => s.timWritten a eff
  | .HST => s.hstWritten a old was
  | .CLE => s.cleWritten a old eff
  | .FOL | .FLT | .CKR | .RAT => s.mclkWritten a old eff
  | .ARC | .DRM | .PAR => s.arcWritten a old eff
  | .STB | .KST => s.stbWritten a old
  | .BRS => match a.reg with | .BRS_AGE_CFG => s.pipeWritten a old eff | _ => s.stbWritten a old
  | .FAR => s.stbWritten a old
  | .PRT | .HAR => s.pipeWritten a old eff
  | .GEN | .RDR | .CAT => ok s

/-! ### One write -/

/-- What is done to a register whose word is refused: an octet counts its refusal (R66), and the status bits of a slot that the Clerk owns still clear
(R54). -/
def State.refusedWrite (s : State) (a : RegAt) (old data : Nat) (c : Cause) : State :=
  match a.reg with
  | .PRT_OCT_MODE | .PRT_OCT_TXMAP | .PRT_OCT_RXMAP => if c = .badState then s.wr fPRT_OCT_STATUS_REFUSED 1 a.p a.i else s
  | .TIM_TRIG_CTRL =>
    if c = .guarded then s.setRg a.reg (word (a.reg.desc.kept old data (a.reg.desc.accMask .w1c))) a.p a.i a.j a.k else s
  | .FLT_INJECT => s
  | _ => s

/-- What is settled with the old word before the new one stands: the time in XOFF of a port under its old mode and priority map (R85), and the
tokens of the capture under its old rate (R301). -/
def State.beforeWrite (s : State) (a : RegAt) : State :=
  match a.reg with
  | .PRT_FC_CFG | .PRT_PRIO_MAP => s.xoffSettle (32 * a.p + a.i)
  | .ARC_CAP_RATE => s.capRefill
  | _ => s

/-- The fields take the data, and the write's effects follow. A frequency word that arrives while a change is pending is ignored whole (R47). -/
def State.store (s : State) (a : RegAt) (data reach : Nat) : Wr :=
  let d := a.reg.desc
  let old := (s.rg a.reg a.p a.i a.j a.k).toNat
  if a.reg = .TIM_FREQ_HI ∧ s.tim.pend.isSome then ok (s.addSat fTIM_CHANGE_REFUSED 1)
  else
    let was := s.sbPending
    let s := (s.beforeWrite a).setRg a.reg (word (d.kept old data reach)) a.p a.i a.j a.k
    s.written a old (data &&& reach) was

/-- A write that has passed the arbiter reaches its register (R11): the value and state rules are applied to what it may change. With the gate closed
the expert fields stay, and the write is logged; a host's write of `FOL_OTP_PROG` is refused whatever its gate (R383). A register of a port that does
not exist takes no write (R64). Where such a write also breaks a value or state rule, that rule's cause alone is logged (DESIGN CHOICE, assumption log
27). -/
def State.regStore (s : State) (m : Option Master) (a : RegAt) (data : Nat) : Wr :=
  let d := a.reg.desc
  let opened := s.gateOpen m d.block a.p
  let reach := d.reach opened
  let old := (s.rg a.reg a.p a.i a.j a.k).toNat
  let closed := !opened && d.expertHit
  if s.absentPort a then (s, some .badValue)
  else if a.reg = .FOL_OTP_PROG ∧ (m = some .a ∨ m = some .b) then (s, some .guarded)
  else if closed && reach == 0 then (s, some .expertClosed)
  else if reach = 0 then ok s
  else
    match s.regRefuse m a (mixed old data reach) with
    | some c => (s.refusedWrite a old data c, some c)
    | none =>
      match s.store a data reach with
      | (s, some c) => (s, some c)
      | (s, none) => (s, if closed then some .expertClosed else none)

/-- The code of a master at a crossing (`CKR_HUNG_LAST.MASTER`). -/
def masterCode : Option Master → Nat
  | some m => m.num + 1
  | none => 0

/-- A compare-and-set request through `GEN_OWNER_CAS`: its outcome is held for the master (R353). -/
def State.casWrite (s : State) (m : Master) (data : Nat) : State :=
  let d := inW fGEN_OWNER_CAS_DOMAIN data
  let r := s.cas m d (inW fGEN_OWNER_CAS_EXPECT data) (inW fGEN_OWNER_CAS_NEW data) (bitOf data 16)
  let own := if d < 64 then r.1.owner d else 0
  let out := word (2 ^ 29 + b2n r.2 * 2 ^ 28 + own * 2 ^ 26 + d)
  { r.1 with hst := { r.1.hst with cas := AMap.set r.1.hst.cas m out } }

/-- Whether a master may not write a register: it is one host's own, its domain belongs to another master (R352, R354), or it is the cap of the
sideband alone (R275). -/
def State.notOwned (s : State) (m : Master) (a : RegAt) : Bool :=
  match hostOf a with
  | some h => h.master != m
  | none =>
    match regDomain a with
    | some d => s.owner d != 0 && s.owner d != m.owner
    | none => a.reg == .RAT_CAP_BOARD && m != .sb

/-- Whether an earlier master of the round has written the same register, of a domain that no one owns (R355). Requests through
`GEN_OWNER_CAS`, which lies in no domain (R352), are all applied, in the masters' order. -/
def State.sameRound (s : State) (m : Master) (a : RegAt) (addr : Nat) : Bool :=
  let free := match regDomain a with | some d => s.owner d == 0 | none => false
  free && (s.roundOf m).any fun x => x.2 == some addr

/-- Whether boot forbids a write: outside GEN and HST while STATE is neither READY nor DEFAULTS (R380). -/
def State.bootForbids (s : State) (b : Block) : Bool := !s.booted && b != .GEN && b != .HST

/-- The arbiter passes a write of a master to its register, or refuses it. -/
def State.arbitrate (s : State) (m : Master) (a : RegAt) (addr : Nat) : Option Cause :=
  if s.bootForbids a.reg.desc.block then some .badState
  else if s.notOwned m a then some .notOwner
  else if s.sameRound m a addr then some .sameRound
  else none

/-- An access, with the data of a write, waits at the crossing of a stopped clock (R426); one of boot's keeps its section. -/
def State.waitAt (s : State) (m : Option Master) (addr : Nat) (data : Option Word) : State :=
  let x := match blockAt addr with | some b => (blockClock b.1).2 | none => 4
  let sec := match m, s.fol.secs with | none, y :: _ => y.1 | _, _ => 0
  { s with ckr := { s.ckr with waits := s.ckr.waits ++ [⟨x, masterCode m, addr, data, s.tim.rc, false, sec, false⟩] } }

/-- A read of the Clerk's that has no response for 2 µs is abandoned: it stays at its crossing, and its response is discarded (R367). -/
def State.abandonRead (s : State) (m : Master) (addr : Nat) : State :=
  let s := s.waitAt (some m) addr none
  { s with ckr := { s.ckr with waits := s.ckr.waits.modify (s.ckr.waits.length - 1) fun a => { a with late := true } } }

/-- A write that the arbiter has passed (none: boot's own) is done, or waits for the clock of its block. -/
def State.regDo (s : State) (m : Option Master) (a : RegAt) (addr data : Nat) : Wr :=
  let b := a.reg.desc.block
  if !s.blockRuns b then ok (s.waitAt m addr (some (word data)))
  else
    match m with
    | some x =>
      if isGate a.reg then ok (s.gateWrite x b a.p (data % 256))
      else if a.reg = .GEN_OWNER_CAS then ok (s.casWrite x data)
      else s.regStore m a data
    | none => if isGate a.reg then ok s else s.regStore none a data

/-- A write to a reserved address changes nothing; data other than 0 is logged (R465). In a block whose clock is stopped it waits there as any
access does (R464). -/
def State.reservedWrite (s : State) (m : Option Master) (addr data : Nat) : Wr :=
  if s.clockStopped addr then ok (s.waitAt m addr (some (word data)))
  else (s, if data = 0 then none else some .badAccess)

/-- An aligned 32-bit write of a master to a BAR0 address, not yet logged. -/
def State.regTry (s : State) (m : Master) (addr data : Nat) : Wr :=
  match regAt addr with
  | none => s.reservedWrite (some m) addr data
  | some a =>
    match s.arbitrate m a addr with
    | some c => (s.roundTake m addr, some c)
    | none => (s.roundTake m addr).regDo (some m) a addr data

/-- Logs the refusal of a write (R354). -/
def Wr.logged (r : Wr) (m : Master) (addr data : Nat) : Wr :=
  match r.2 with
  | some c => (r.1.reject m c addr (word data), some c)
  | none => r

/-- A write of a host through its BAR or of the sideband through its window (R354, R356), with its refusal logged. A host whose endpoint the
straps leave out has no BAR (R324). -/
def State.regWrite (s : State) (m : Master) (addr data : Nat) : Wr :=
  if !s.hears m then (s, none) else
  Wr.logged (if m = .sb ∧ !inWindow addr false then (s, some .badAccess) else s.regTry m addr data) m addr data

/-! ### Reads -/

/-- The words of the channel's ring that make it full. -/
def State.ringFull (s : State) (c : Nat) : Bool :=
  let hl := chanHost c
  s.on fHST_CH_CFG_EN 0 c && (softRing hl.2 || devRing hl.2) &&
    (if softRing hl.2 then s.ringWork c else s.ringUsed c) == s.ringUnits hl.1 hl.2

/-- Whether a unit of a channel is in progress (R334): one of an export or bulk ring that waits for archive memory. -/
def State.unitRuns (s : State) (c : Nat) : Bool := (s.unitOf c).isSome

/-- Whether every chiplet that runs has been calibrated (R52). -/
def State.calDone (s : State) : Bool :=
  (List.range 8).all fun p => !s.chipletRuns p || bitOf (s.rd fTIM_CAL_STATUS_DONE) p

/-- Whether a halt request is present (R371). -/
def State.haltReq (s : State) : Bool := s.on fCLE_CTRL_HALT || s.fltHalt

/-- The Clerk's status word (R371). -/
def State.cleStatus (s : State) : Nat :=
  let verified := s.clerk.patches.any fun x => x.verified
  s.rd fCLE_STATUS_READY + b2n (s.on fCLE_STATUS_HALTED && s.haltReq) * 2 + b2n s.haltReq * 4 + b2n (s.clerk.work != .idle) * 8 +
    b2n verified * 16 + b2n s.clerk.stopped * 32

/-- What a pipeline's `RAT_PIPE_STAT.DEFER` shows: the kinds deferred now (R280). -/
def State.deferBits (s : State) (p : Nat) : Nat := ((List.range 4).map fun k => if s.ratDefers p k then 2 ^ k else 0).sum

/-- Whether the Clerk runs a Catalogue command on a pipeline (`CAT_MOVE_STATUS.BUSY`). -/
def State.catBusy (s : State) (p : Nat) : Bool :=
  match s.clerk.work with
  | .cmd c => decide (c.opcode ∈ [0x18, 0x19, 0x1A]) && bitsOf (c.w 0) 19 16 == p
  | _ => false

/-- Whether a sweep by command of a pipeline's store is in progress. -/
def State.sweepCmd (s : State) (p : Nat) : Bool :=
  let is := fun (c : Cmd) => c.opcode == 0x28 && bitsOf (c.w 0) 19 16 == p
  s.clerk.chunked.any is || (match s.clerk.work with | .cmd c => is c | _ => false)

/-- The word that a register shows a master. Most show their fields; some show a value that the machine holds elsewhere. -/
def State.shown (s : State) (m : Option Master) (a : RegAt) : Word :=
  let w := s.rg a.reg a.p a.i a.j a.k
  let n := w.toNat
  match a.reg with
  | .TIM_NOW => (ctWords s.tim.ct).getD a.i 0
  | .TIM_RUN => word ((s.tim.rc - s.tim.rcBase) / nsU / 2 ^ (32 * a.i))
  | .TIM_STATUS => word (setBits (setBits (setBits n 3 3 (b2n s.ppsGood)) 5 5 (b2n s.calDone)) 4 4 (s.rd fCKR_PLL_STATUS_TCLK_LOCK))
  | .CKR_RUN_OCT => word (((List.range 32).map fun o => if s.rd fPRT_OCT_STATUS_ACTIVE_MODE (o / 4) (o % 4) = 0 then 0 else 2 ^ o).sum)
  | .HAR_GATE_STAT => word (s.gateStat (32 * a.p + a.i))
  | .HST_CNT => word (s.cnt 16 a.i a.j / 2 ^ (32 * a.k))
  | .HST_CH_STAT =>
    if s.on fHST_CH_CFG_EN 0 a.i then word (setBits (setBits n 2 2 (b2n (s.ringFull a.i))) 1 1 (b2n (s.unitRuns a.i))) else w
  | .CLE_MIRROR_NEED => word mirrorNeed
  | .CLE_TAW_DATA => if s.on fCLE_TAW_CTRL_BUSY 0 a.i then (AMap.getD s.clerk.tawLeft a.i []).getD a.j 0 else w
  | .CLE_UCODE_VER => word (setBits n 15 0 Config.romId.toNat)
  | .CLE_STATUS => word s.cleStatus
  | .ARC_LEDGER_STATUS => word s.arc.ledUsed
  | .BRS_AGE_STATUS => word (setBits n 0 0 (b2n (s.on fBRS_AGE_STATUS_SWEEPING a.p || s.sweepCmd a.p)))
  | .CAT_MOVE_STATUS => word (setBits n 0 0 (b2n (s.catBusy a.p)))
  | .PAR_FLOW_STATUS => word (s.flowCount a.p)
  | .RAT_PIPE_ALLOW => if s.on fRAT_CFG_EN then w else word 0xFFFFFFFF
  | .RAT_PIPE_STAT => word (setBits n 31 28 (s.deferBits a.i))
  | .FLT_DOM_STATE => s.domState
  | .FLT_INJECT => word (setBits n 30 30 (b2n (!s.flt.nextMarks.isEmpty)))
  | .GEN_OWNER_CAS => match m with | some m => AMap.getD s.hst.cas m 0 | none => 0
  | r =>
    if isGate r then
      match m with
      | some m => let g := s.gate m r.desc.block a.p; word (b2n g.1 * 2 ^ 9 + b2n g.2 * 2 ^ 8)
      | none => 0
    else w

/-- A register of several words whose word 0 latches the others (R7, R31, R83, R354), and the number of the word. -/
def latchOf (a : RegAt) : Option (RegAt × Nat) :=
  match a.reg with
  | .TIM_PPS_CAP | .TIM_PPS_REJ | .TIM_NOW | .TIM_RUN | .CLE_ED_SWITCH_TIME | .HST_REJECT_LOG => some ({ a with i := 0 }, a.i)
  | .PRT_TS_FIFO => some ({ a with j := 0 }, a.j)
  | .HST_CNT => some ({ a with k := 0 }, a.k)
  | .FLT_REC => some (a, 0)
  | .FLT_REC_MERGED => some (⟨.FLT_REC, a.p, a.i, 0, 0⟩, 1)
  | .FLT_REC_FIRST => some (⟨.FLT_REC, a.p, a.i, 0, 0⟩, 2 + a.j)
  | .FLT_REC_LAST => some (⟨.FLT_REC, a.p, a.i, 0, 0⟩, 5 + a.j)
  | .FLT_REC_KINDS => some (⟨.FLT_REC, a.p, a.i, 0, 0⟩, 8 + a.j)
  | .FLT_REC_INFO => some (⟨.FLT_REC, a.p, a.i, 0, 0⟩, 12)
  | _ => none

/-- The words of such a register as they are now. -/
def State.latchWords (s : State) (m : Option Master) (a : RegAt) : List Word :=
  match a.reg with
  | .TIM_RUN => (List.range 2).map fun i => s.shown m { a with i := i }
  | .HST_CNT => (List.range 2).map fun k => s.shown m { a with k := k }
  | .HST_REJECT_LOG => match s.hst.rejects with | e :: _ => e | [] => zeros 6
  | .PRT_TS_FIFO => match s.tsFifo (32 * a.p + a.i) with | e :: _ => e | [] => zeros 4
  | .FLT_REC =>
    [s.shown m a, s.shown m ⟨.FLT_REC_MERGED, 0, a.i, 0, 0⟩] ++ ((List.range 3).map fun j => s.shown m ⟨.FLT_REC_FIRST, 0, a.i, j, 0⟩) ++
      ((List.range 3).map fun j => s.shown m ⟨.FLT_REC_LAST, 0, a.i, j, 0⟩) ++
      ((List.range 4).map fun j => s.shown m ⟨.FLT_REC_KINDS, 0, a.i, j, 0⟩) ++ [s.shown m ⟨.FLT_REC_INFO, 0, a.i, 0, 0⟩]
  | _ => (List.range 3).map fun i => s.shown m { a with i := i }

/-- What reading word 0 removes: the oldest rejection, or the oldest two-step timestamp of a port. -/
def State.readTakes (s : State) (a : RegAt) : State :=
  match a.reg with
  | .HST_REJECT_LOG => { s with hst := { s.hst with rejects := s.hst.rejects.drop 1 } }
  | .PRT_TS_FIFO =>
    let port := 32 * a.p + a.i
    { s with ports := { s.ports with tsFifo := AMap.set s.ports.tsFifo port ((s.tsFifo port).drop 1) } }
  | _ => s

/-- Reading word 0 latches the other words in the master's holding register. -/
def State.latchTake (s : State) (m : Master) (a : RegAt) : State × Word :=
  let ws := s.latchWords (some m) a
  let others := s.hst.held.filter fun h => h.1 != m
  let s := s.readTakes a
  ({ s with hst := { s.hst with held := (m, a, ws) :: others } }, ws.getD 0 0)

/-- Reading another word returns what is latched for it, or the present word. -/
def State.latchRead (s : State) (m : Master) (a : RegAt) (i : Nat) : Word :=
  match s.hst.held.find? fun h => h.1 == m && h.2.1 == a with
  | some h => h.2.2.getD i 0
  | none => (s.latchWords (some m) a).getD i 0

/-- A read of a defined register whose block answers. A block under reset (R429) and a port that does not exist (R64) read as 0. -/
def State.regGet (s : State) (m : Master) (a : RegAt) : State × Word :=
  if (s.ckr.warmAt.isSome && !alwaysOn a.reg.desc.block) || s.absentPort a then (s, 0)
  else
    match latchOf a with
    | some (b, 0) => s.latchTake m b
    | some (b, i) => (s, s.latchRead m b i)
    | none => (s, s.shown (some m) a)

/-- An aligned 32-bit read of a BAR0 address: its data, or none while it waits at the crossing of a stopped clock (R426). -/
def State.regRead (s : State) (m : Master) (addr : Nat) : State × Option Word :=
  if m = .sb ∧ !inWindow addr true then (s, some 0)
  else
    match regAt addr with
    | none => if s.clockStopped addr then (s.waitAt (some m) addr none, none) else (s, some 0)
    | some a =>
      let s := s.roundRead m
      if !s.blockRuns a.reg.desc.block then (s.waitAt (some m) addr none, none)
      else
        let r := s.regGet m a
        (r.1, some r.2)

/-! ### Clocks that run again -/

/-- The capture of a refused item, while none is held. -/
def State.bootErr (s : State) (cause table addr sec : Nat) : State :=
  if s.on fFOL_BOOT_ERR_VALID then s
  else (s.setRg .FOL_BOOT_ERR (word (2 ^ 31 + cause * 2 ^ 27 + table * 2 ^ 16 + sec))).wr fFOL_BOOT_ERR_ADDR_ADDR addr

/-- An item is refused: it is counted and captured, and FOL_RECORD is raised. -/
def State.bootRefuse (s : State) (cause table addr sec : Nat) : State :=
  ((s.addSat fFOL_BOOT_STATUS_REFUSED 1).bootErr cause table addr sec).raise .FOL_RECORD


/-- What a read of a waiting access gives its master. -/
def State.answer (s : State) (m : Master) (w : Option Word) : State :=
  { s with hst := { s.hst with readData := AMap.set s.hst.readData m w } }

/-- An access that waited at a crossing reaches its register. -/
def State.serveOne (s : State) (a : Access) : State :=
  let m : Option Master := if a.master = 1 then some .a else if a.master = 2 then some .b else if a.master = 3 then some .sb else none
  match a.write with
  | some w =>
    let r := match regAt a.offset with
      | some r => s.regDo m r a.offset w.toNat
      | none => s.reservedWrite m a.offset w.toNat
    match r.2, m with
    | some c, some m => r.1.reject m c a.offset w
    | some c, none => r.1.bootRefuse c.code 0 a.offset a.sec
    | none, _ => r.1
  | none =>
    match m with
    | some m =>
      let x := match regAt a.offset with | some r => s.regGet m r | none => (s, 0)
      if a.late then x.1 else x.1.answer m (some x.2)
    | none => s

/-- Whether the block of a waiting access has its clock again. -/
def State.served (s : State) (a : Access) : Bool := !s.clockStopped a.offset

/-- A clock runs again: the accesses that wait for it complete, in their order (R426). -/
def State.serve (s : State) : State :=
  let go := s.ckr.waits.filter s.served
  let left := s.ckr.waits.filter fun a => !s.served a
  go.foldl (fun s a => s.serveOne a) { s with ckr := { s.ckr with waits := left } }

/-- CLOCK_START (R422): the clock k that software started again runs. The link of a chiplet then trains. -/
def execClockStart (k : Nat) (s : State) : Out :=
  .next (
    if k ∈ s.ckr.starting then
      let starts := s.ckr.starting.filter (· != k)
      let s := { s with ckr := { s.ckr with starting := starts } }.setRun k true
      if 8 ≤ k then { s with ckr := { s.ckr with trainAt := AMap.set s.ckr.trainAt (k - 8) s.tim.rc } } else s.serve
    else s)

/-- PLL_RELOCK (R399): a PLL regains lock. -/
def execPllRelock (which : Pll) (s : State) : Out :=
  .next (
    match which with
    | .cclk => (s.wr fCKR_PLL_STATUS_CCLK_LOCK 1).levelOff .CKR_PLL_UNLOCK
    | .dclk =>
      if s.on fCKR_PLL_STATUS_DCLK_LOCK || decide (s.rd fFOL_BOOT_STATUS_STATE < 2) then s
      else (((s.wr fCKR_PLL_STATUS_DCLK_LOCK 1).setRun 3 (!s.stopSet 3)).setRun 4 (!s.stopSet 4)).serve
    | .serdes p => s.levelOff .PRT_SERDES_PLL p)

end Sys2Proof.Machine
end

