-- ==== Sys2Proof/Machine/Patch.lean ====
section
/-! DEFINITION. Microcode patches (R375, R376, R378): the layout of an image and its installation. -/
namespace Sys2Proof.Machine

/-- The `MAP_COUNT` of a patch image. -/
def patchMaps (ws : List Word) : Nat := bitsOf (ws.getD 2 0).toNat 7 0

/-- The `WORD_COUNT` of a patch image. -/
def patchCount (ws : List Word) : Nat := bitsOf (ws.getD 2 0).toNat 27 16

/-- Whether a map entry of an image is in the layout of `CLE_PATCH_MAP`, with its `RAM_ADDR` in the patch's part of the RAM. -/
def patchMapOk (w : Word) : Bool :=
  let n := w.toNat
  !bitOf n 30 && bitsOf n 15 13 == 0 && decide (0x3800 ≤ bitsOf n 29 16)

/-- Whether an image's fields and length are as R378 gives them. Reserved bits must be 0. -/
def patchOk (ws : List Word) : Bool :=
  let w := fun i => (ws.getD i 0).toNat
  let m := patchMaps ws
  let n := patchCount ws
  w 0 == 0x434C5054 && bitsOf (w 1) 15 0 == Config.romId.toNat && bitsOf (w 1) 31 16 != 0 && decide (m ≤ 64) && decide (n ≤ 2048) &&
    bitsOf (w 2) 15 8 == 0 && bitsOf (w 2) 31 28 == 0 && decide (0x3800 ≤ bitsOf (w 3) 13 0) && decide (bitsOf (w 3) 13 0 + n ≤ 0x4000) &&
    bitsOf (w 3) 31 14 == 0 && ((ws.drop 4).take 12).all (· == 0) && ws.length == 40 + m + 6 * n && ((ws.drop 16).take m).all patchMapOk

/-- The six words of each control-store word of an image, by its RAM address. -/
def patchWords : Nat → Nat → List Word → List (Nat × List Word)
  | 0, _, _ => []
  | n + 1, a, ws => (a, ws.take 6) :: patchWords n (a + 1) (ws.drop 6)

/-- The key slot whose unrevoked hash is that of a public key of 24 words (R382, R387). -/
def State.keySlotOf (s : State) (key : List Word) : Option Nat :=
  let h := sha384 (wordsBytes key)
  (List.range 4).find? fun i => s.fol.fuses.keyHash.getD i 0 == h && h != 0 && !bitOf s.fol.fuses.keyRevoke i

/-- The digest of an image: of every word before the signature (R378). -/
def patchDigest (ws : List Word) : Nat := sha384 (wordsBytes (ws.take (ws.length - 24)))

/-- Whether the verifier accepts an image (R378, R382): its signature verifies against a public key whose hash is fused and not revoked; with
SECURE = 0 it is not checked. -/
def State.patchSigOk (s : State) (key ws : List Word) : Bool :=
  !s.fol.fuses.secure || ((s.keySlotOf key).isSome && signatureOk key (ws.drop (ws.length - 24)) (patchDigest ws))

/-- The ROM's words 0x0000 to 0x17FF are copied to the RAM as their shadow (R376). -/
def State.shadowCopy (s : State) : State := { s with clerk := { s.clerk with shadow := true } }

/-- The map of an image written over the 64 entries of `CLE_PATCH_MAP`, cleared first. -/
def State.patchMapSet (s : State) (ws : List Word) : State :=
  (List.range 64).foldl (fun s i => s.setRg .CLE_PATCH_MAP (ws.getD i 0) 0 i) s

/-- A patch is installed in one step: the map, the words, the version and the digest. An image with both counts 0 leaves no patch. -/
def State.patchInstall (s : State) (ws : List Word) : State :=
  let m := patchMaps ws
  let n := patchCount ws
  let none_ := m == 0 && n == 0
  let digest := if none_ then 0 else patchDigest ws
  let id := if none_ then 0 else bitsOf (ws.getD 1 0).toNat 31 16
  let words := patchWords n (bitsOf (ws.getD 3 0).toNat 13 0) (ws.drop (16 + m))
  let s := (s.patchMapSet ((ws.drop 16).take m)).wr fCLE_UCODE_VER_PATCH_ID id
  let s := (natWords 12 digest).zipIdx.foldl (fun s d => s.setRg .CLE_UCODE_DIGEST d.1 0 d.2) s
  words.foldl (fun s x => s.wroteWord 0x26 15 x.1) { s with clerk := { s.clerk with storeRam := words } }

end Sys2Proof.Machine
end

