-- ==== Sys2Proof/Machine/Boot.lean ====
section
/-! DEFINITION. Boot from the Folio (R380 to R397): fuses, headers, the choice of a copy and of a tack set, records, the tack store, and
the operations on flash and fuses (R383, R392) and on the JTAG port (R438). -/
namespace Sys2Proof.Machine

/-! ### Fuses (R382, R383) -/

/-- One fuse field that is uncorrectable: it reads as the value that tightens the policy. -/
def Fuses.damaged (f : Fuses) : FuseField → Fuses
  | .secure => { f with secure := true }
  | .keyRevoke => { f with keyRevoke := 15 }
  | .debugLock => { f with debugLock := false }
  | .keyHash i => { f with keyHash := f.keyHash.zipIdx.map fun k => if k.2 = i then 0 else k.1 }
  | .rollback => { f with rollback := 0 }
  | .asym p => { f with asym := f.asym.zipIdx.map fun a => if a.2 = p then 0 else a.1 }

/-- The fuses as the EF9 uses them. -/
def Fuses.used (f : Fuses) : Fuses := f.bad.foldl Fuses.damaged f

/-- The rollback version: the number of bits set in the thermometer code. -/
def Fuses.version (f : Fuses) : Nat := (List.range 64).countP fun b => bitOf f.rollback b

/-- A list of numbers, n long, with one bit of one of them set. -/
def burnIn (n : Nat) (l : List Nat) (i b : Nat) : List Nat :=
  (List.range n).map fun j => let x := l.getD j 0; if j = i then setBits x b b 1 else x

/-- The fuse at a place of the OTP, its fields taken in R382's order, reads as 1. -/
def Fuses.burn (f : Fuses) (k : Nat) : Fuses :=
  if k = 0 then { f with secure := true }
  else if k = 1 then { f with debugLock := true }
  else if k < 1538 then { f with keyHash := burnIn 4 f.keyHash ((k - 2) / 384) ((k - 2) % 384) }
  else if k < 1542 then { f with keyRevoke := setBits f.keyRevoke (k - 1538) (k - 1538) 1 }
  else if k < 1606 then { f with rollback := setBits f.rollback (k - 1542) (k - 1542) 1 }
  else { f with asym := burnIn 8 f.asym ((k - 1606) / 16) ((k - 1606) % 16) }

/-- The fuses with the bits of these bit addresses programmed. -/
def Fuses.programmed (f : Fuses) (bits : List Nat) : Fuses := (bits.filterMap Config.fusePlace).foldl Fuses.burn f

/-- Whether the EF9's parts may need a supply voltage (R449), in mV. -/
def partVdd (n : Nat) : Bool := decide (680 ≤ n) && decide (n ≤ 820) && n % 5 == 0

/-- `FOL_OTP_POLICY` and `TIM_CHIPLET_ASYM` show the fuses. -/
def State.showFuses (s : State) : State :=
  let f := s.fol.fuses
  let valid := ((List.range 4).map fun i => if f.keyHash.getD i 0 = 0 then 0 else 2 ^ i).sum
  let s := ((s.wr fFOL_OTP_POLICY_SECURE (b2n f.secure)).wr fFOL_OTP_POLICY_DEBUG_LOCK (b2n f.debugLock)).wr fFOL_OTP_POLICY_KEY_VALID valid
  let s := (s.wr fFOL_OTP_POLICY_KEY_REVOKED f.keyRevoke).wr fFOL_OTP_POLICY_ROLLBACK (Fuses.version f)
  (List.range 8).foldl (fun s p => s.wr fTIM_CHIPLET_ASYM_ASYM (f.asym.getD p 0) 0 p) s

/-- Whether this boot follows a warm reset. -/
def State.bootWarm (s : State) : Bool := decide (3 ≤ s.rd fCKR_RESET_STATUS_CAUSE)

/-- The tack set of this boot (R388): the strap, or after a warm reset what `FOL_WARM_TACK` says. -/
def State.bootTack (s : State) : Nat :=
  if s.bootWarm && s.on fFOL_WARM_TACK_V then s.rd fFOL_WARM_TACK_TACK else s.fol.tackSel

/-- The PLLs lock and the links begin to train (R380); a clock that software has stopped stays stopped. After a warm reset the clocks have
run on. -/
def State.startClocks (s : State) : State :=
  if s.bootWarm then s
  else
    let s := (s.wr fCKR_PLL_STATUS_CCLK_LOCK 1).wr fCKR_PLL_STATUS_DCLK_LOCK 1
    let s := [1, 2, 3, 4, 8, 9, 10, 11, 12, 13, 14, 15].foldl (fun s k => if s.stopSet k then s else s.setRun k true) s
    { s with ckr := { s.ckr with trainAt := (List.range 8).map fun p => (p, s.tim.rc) } }

/-- What reading the OTP gives, with the factory trim: the array changes only from 0 to 1 and by what was programmed, which takes effect after a cold
reset (R383). `fuses` and `vdd` are the array of a part that has not been read before; of a part that has, they say only which fields are damaged. -/
def State.otpArray (s : State) (fuses : Fuses) (vdd : Nat) : Fuses × Nat :=
  let x := s.fol.otp.getD (fuses, vdd)
  (if s.bootWarm then x.1 else Fuses.programmed x.1 s.fol.burnt, x.2)

/-- BOOT_FUSES_DONE (R380, R382, R383, R388, R449): the OTP has been read, with `vdd` the part's factory trim; boot goes on with FLASH, or with
the short APPLY for tack set 7 and after the internal reset of R391. A trim that no part has changes nothing. -/
def execBootFusesDone (fuses : Fuses) (vdd : Nat) (s : State) : Out :=
  .next (
    let x := s.otpArray fuses vdd
    if s.rd fFOL_BOOT_STATUS_STATE ≠ 1 ∨ !partVdd x.2 then s
    else
      let f := Fuses.used { x.1 with bad := fuses.bad }
      let burnt := if s.bootWarm then s.fol.burnt else []
      let s := f.bad.foldl (fun s _ => s.raise .OTP_PARITY) s
      let s := { s with fol := { s.fol with fuses := f, otp := some x, burnt := burnt }, pin := { s.pin with squelch := false } }
      let s := s.showFuses.startClocks
      let s := if s.bootWarm then s else (s.wr fRAT_AVS_VDD_MV x.2).wr fRAT_AVS_VALID 1
      let n := s.bootTack
      let short := s.fol.tamper || n == 7
      ({ s with fol := { s.fol with tack := n, short := short, readRc := s.tim.rc } }.wr fFOL_BOOT_STATUS_STATE (if short then 4 else 2)).serve)

/-! ### Headers and copies (R384 to R387) -/

/-- A word of a copy. -/
def folW (ws : List Word) (i : Nat) : Nat := (ws.getD i 0).toNat

/-- The outcome of the header checks (R387), in the code of `FOL_COPY_STATUS`. -/
def headCause (ws : List Word) : Nat :=
  if folW ws 0 ≠ 0x464F4C49 then 1
  else if bitsOf (folW ws 1) 15 0 ≠ 1 ∨ bitsOf (folW ws 1) 31 16 ≠ 0xEF95 then 2
  else if ws.length < 128 ∨ folW ws 7 ≠ crc32 0 0xFFFFFFFF (wordsBytes (ws.take 7 ++ (ws.take 128).drop 8)) then 3
  else 0

/-- One entry of a copy's directory (R386): TYPE, TACK, OFFSET, SLEN and SCRC. -/
structure DirEnt where
  ty : Nat
  tack : Nat
  off : Nat
  len : Nat
  crc : Nat
  reserved : Nat
  deriving DecidableEq, Repr

/-- Entry d of a copy's directory. -/
def dirEnt (ws : List Word) (d : Nat) : DirEnt :=
  let w := folW ws (32 + 4 * d)
  ⟨bitsOf w 7 0, bitsOf w 10 8, folW ws (33 + 4 * d), folW ws (34 + 4 * d), folW ws (35 + 4 * d), bitsOf w 31 11⟩

/-- The entries in use of a copy's directory, with their numbers. -/
def dirUsed (ws : List Word) : List (Nat × DirEnt) :=
  ((List.range 16).map fun d => (d, dirEnt ws d)).filter fun x => x.2.ty != 0

/-- LENGTH of a copy. -/
def folLength (ws : List Word) : Nat := folW ws 3

/-- The bytes of a section. -/
def secBytes (ws : List Word) (e : DirEnt) : List Byte := (wordsBytes ((ws.drop (e.off / 4)).take (e.len / 4 + 1))).take e.len

/-- Whether a directory and its sections obey R386. `most` is the longest copy permitted. -/
def dirOk (ws : List Word) (most : Nat) : Bool :=
  let ds := dirUsed ws
  let n := folLength ws
  let last := n - 96
  let count := fun (f : DirEnt → Bool) => ds.countP fun x => f x.2
  n % 4 == 0 && decide (608 ≤ n) && decide (n ≤ most) && decide (n ≤ 4 * ws.length) &&
    ds.length == bitsOf (folW ws 4) 15 8 && decide (bitsOf (folW ws 4) 7 0 ≤ 64) &&
    ds.all (fun x => decide (x.2.ty ≤ 3) && x.2.reserved == 0 && decide (512 ≤ x.2.off) && x.2.off % 4 == 0 && decide (x.2.off + x.2.len ≤ last)) &&
    ds.all (fun x => ds.all fun y => x.1 == y.1 || !overlap (x.2.off, x.2.len) (y.2.off, y.2.len)) &&
    count (fun e => e.ty == 1) == 1 && decide (count (fun e => e.ty == 3) ≤ 1) && decide (count (fun e => e.ty == 2 && e.tack == 7) = 0) &&
    (List.range 7).all (fun t => decide (count (fun e => e.ty == 2 && e.tack == t) ≤ 1))

/-- Whether every section of a copy has its CRC. -/
def secsOk (ws : List Word) : Bool := (dirUsed ws).all fun x => crc32 0 0xFFFFFFFF (secBytes ws x.2) == x.2.crc

/-- The key slot whose unrevoked hash is that of a copy's public key. -/
def State.keySlot (s : State) (ws : List Word) : Option Nat := s.keySlotOf ((ws.take 32).drop 8)

/-- The digest that a copy's signature covers: of bytes 0 to LENGTH − 97 (R385). -/
def folDigest (ws : List Word) : Nat := sha384 ((wordsBytes ws).take (folLength ws - 96))

/-- Whether the last 96 bytes of a copy are a signature of its digest by its public key (R385). -/
def folSigOk (ws : List Word) : Bool :=
  signatureOk ((ws.take 32).drop 8) ((ws.drop ((folLength ws - 96) / 4)).take 24) (folDigest ws)

/-- The greatest length of a copy (R384): 64 MiB, and half the device when both copies share one. -/
def State.copyMost (s : State) : Nat := if s.fol.flash.2 then 2 ^ 26 else min (2 ^ 26) (s.fol.flash.1 / 2)

/-- The outcome of a whole copy's check (R387). -/
def State.copyCause (s : State) (ws : List Word) : Nat :=
  let h := headCause ws
  if h ≠ 0 then h
  else if bitsOf (folW ws 4) 7 0 < Fuses.version s.fol.fuses then 4
  else if !dirOk ws s.copyMost || !secsOk ws then 7
  else if s.fol.fuses.secure && (s.keySlot ws).isNone then 5
  else if s.fol.fuses.secure && !folSigOk ws then 6
  else 0

/-- The field of `FOL_COPY_STATUS` of copy A (0) or B (1). -/
def copyField : Nat → Fld
  | 0 => fFOL_COPY_STATUS_CAUSE_A
  | _ => fFOL_COPY_STATUS_CAUSE_B

/-- Records a copy found invalid (R387, R397). -/
def State.copyBad (s : State) (x c : Nat) : State := (s.wr (copyField x) c).raise .FOL_COPY_BAD

/-- The level of `FL_RESET_N`: low until the FLASH state, then high (R437). -/
def State.flResetN (s : State) : Bool := decide (2 ≤ s.rd fFOL_BOOT_STATUS_STATE)

/-- Whether a read of boot waits at crossing 9 for FCLK: it has not ended in an error response (R425 to R427). -/
def State.bootReadWaits (s : State) : Bool := !s.runs 4 && !s.fol.readErr

/-- BOOT_HEADERS_READ (R384, R387): the SFDP tables and both headers have been read. `size` is the first device's, `second` whether the
second device answers; a header is empty where its device does not answer. Boot's reads wait for FCLK (R425, R426); one that ended in an error
response has given nothing (R427). -/
def execBootHeadersRead (size : Nat) (second : Bool) (headA headB : List Word) (s : State) : Out :=
  .next (
    if s.rd fFOL_BOOT_STATUS_STATE ≠ 2 ∨ s.bootReadWaits then s
    else
      let headA := if s.fol.readErr then [] else headA
      let headB := if s.fol.readErr then [] else headB
      let s := { s with fol := { s.fol with flash := (size, second), heads := [headA, headB], readRc := s.tim.rc, readErr := false } }.wr
        fFOL_BOOT_STATUS_STATE 3
      let s := if headCause headA = 0 then s else s.copyBad 0 (headCause headA)
      if headCause headB = 0 then s else s.copyBad 1 (headCause headB))

/-- The copies still to examine, the newer first (R387). -/
def State.copyOrder (s : State) : List Nat :=
  let ok := fun x => s.rd (copyField x) == 8
  let a := folW (s.fol.heads.getD 0 []) 2
  let b := folW (s.fol.heads.getD 1 []) 2
  (if (a < b ∧ b - a < 2 ^ 31) ∨ (b < a ∧ 2 ^ 31 < a - b) then [1, 0] else [0, 1]).filter ok

/-! ### Live fields and the tack store (R393, R394) -/

/-- The live-switchable fields of a register. -/
def liveFields : Reg → List Fld
  | .RAT_CAP_HOST => [fRAT_CAP_HOST_CAP_W]
  | .RAT_SHED => [fRAT_SHED_YIELD, fRAT_SHED_D1, fRAT_SHED_D2, fRAT_SHED_D3]
  | .STB_POOL_RSV => [fSTB_POOL_RSV_RSV]
  | .STB_ING_LIMIT => [fSTB_ING_LIMIT_LIMIT]
  | .STB_ING_XOFF => [fSTB_ING_XOFF_XOFF]
  | .STB_ING_XON => [fSTB_ING_XON_XON]
  | .STB_EG_LIMIT => [fSTB_EG_LIMIT_LIMIT]
  | .PRT_TIMERS => [fPRT_TIMERS_HOLD_UP_MS, fPRT_TIMERS_DOWN_HOLD_MS]
  | .PRT_PFC_WD => [fPRT_PFC_WD_WD_MS, fPRT_PFC_WD_RESTORE_MS]
  | .BRS_LEARN_PORT => [fBRS_LEARN_PORT_LEARN_EN, fBRS_LEARN_PORT_LIMIT_EN, fBRS_LEARN_PORT_LIMIT_DROP, fBRS_LEARN_PORT_LIMIT]
  | .BRS_BD_LIMIT_EN => [fBRS_BD_LIMIT_EN_EN]
  | .BRS_BD_LEARN => [fBRS_BD_LEARN_LIMIT]
  | .BRS_AGE_CFG => [fBRS_AGE_CFG_PERIOD_S]
  | .HAR_OVH => [fHAR_OVH_OVERHEAD]
  | .ARC_CAP_RATE => [fARC_CAP_RATE_RATE]
  | .ARC_FLOW_TIMERS => [fARC_FLOW_TIMERS_ACTIVE_S, fARC_FLOW_TIMERS_IDLE_MS]
  | _ => []

/-- The bits of a field. -/
def fldMask (f : Fld) : Nat := (2 ^ (f.hi + 1 - f.lo) - 1) * 2 ^ f.lo

/-- The live fields that a triple names, each with the bits that it gives: none where its mask covers a live field only in part and touches another
field as well (R394). -/
def liveOf (off mask value : Nat) : List TackField :=
  match regAt off with
  | none => []
  | some a =>
    let fs := (liveFields a.reg).filter fun f => mask &&& fldMask f != 0
    let part := fs.any fun f => mask &&& fldMask f != fldMask f
    let touched := a.reg.desc.fields.countP fun f => (List.range 32).any fun b => decide (f.lo ≤ b) && decide (b ≤ f.hi) && bitOf mask b
    if part && decide (2 ≤ touched) then []
    else fs.map fun f => ⟨a, f.hi, f.lo, bitsOf mask f.hi f.lo, bitsOf (value &&& mask) f.hi f.lo⟩

/-- Adds a field's value to a tack set's: a later triple overrides the bits that an earlier one gave. -/
def addLive (l : List TackField) (f : TackField) : List TackField :=
  let same := fun (g : TackField) => g.at_ == f.at_ && g.hi == f.hi
  let f := match l.find? same with
    | some g => { f with mask := g.mask ||| f.mask, value := f.over g.value }
    | none => f
  l.filter (fun g => !same g) ++ [f]

/-- The live fields of a REG record's triples. -/
def liveTriples : Nat → List Word → List TackField → List TackField
  | n + 1, a :: m :: v :: ws, l => liveTriples n ws ((liveOf a.toNat m.toNat v.toNat).foldl addLive l)
  | _, _, l => l

/-- The words that follow the first two of a record. A record of any other kind is malformed. -/
def recWords (w0 count : Nat) (ws : List Word) : Option Nat :=
  match bitsOf w0 7 0 with
  | 1 => some (3 * count)
  | 2 => if ws.length < 2 then none else some (2 + count * folW ws 1)
  | 3 => if ws.length < 1 then none else some (1 + count * folW ws 0)
  | 4 => some 3
  | _ => none

/-- The live fields of a section's records; a malformed record ends it. `fuel` bounds the records. -/
def liveSection : Nat → List Word → List TackField → List TackField
  | fuel + 1, w0 :: w1 :: ws, l =>
    match recWords w0.toNat w1.toNat ws with
    | some n =>
      if ws.length < n then l
      else liveSection fuel (ws.drop n) (if bitsOf w0.toNat 7 0 = 1 then liveTriples w1.toNat ws l else l)
    | none => l
  | _, _, l => l

/-- The words of a section's records: a TACK section's follow its name. -/
def secWords (ws : List Word) (e : DirEnt) : List Word := ((ws.drop (e.off / 4)).take (e.len / 4)).drop (if e.ty = 2 then 4 else 0)

/-- The tack store, filled in index order; a set that does not fit whole is not loaded, nor are those after it. -/
def tackStore (ws : List Word) : List (Nat × List TackField) :=
  let sets := ((List.range 7).filterMap fun t => ((dirUsed ws).find? fun x => x.2.ty == 2 && x.2.tack == t).map fun x => (t, x.2)).map fun x =>
    let recs := secWords ws x.2
    (x.1, liveSection recs.length recs [])
  (sets.foldl (fun (acc : List (Nat × List TackField) × Nat × Bool) x =>
    let used := acc.2.1 + x.2.length
    if acc.2.2 && decide (used ≤ 4096) then (acc.1 ++ [x], used, true) else (acc.1, acc.2.1, false)) ([], 0, true)).1

/-- The tack store of the copy applied is loaded, with `FOL_TACK_AVAIL`. -/
def State.loadStore (s : State) (ws : List Word) : State :=
  let sets := tackStore ws
  let flat := (sets.map fun x => x.2.map fun f => (x.1, f)).flatten
  let present := ((dirUsed ws).map fun x => if x.2.ty = 2 then 2 ^ x.2.tack else 0).sum
  let s := ((s.wr fFOL_TACK_AVAIL_LIVE ((sets.map fun x => 2 ^ x.1).sum)).wr fFOL_TACK_AVAIL_STORE_USED flat.length).wr fFOL_TACK_AVAIL_PRESENT
    present
  { s with fol := { s.fol with store := flat } }

/-! ### Refused items (R390) -/

/-- A record is malformed. -/
def State.bootMalformed (s : State) (table sec : Nat) : State := (s.bootErr 10 table 0 sec).raise .FOL_RECORD

/-! ### A copy is chosen -/

/-- Only the short APPLY follows. -/
def State.goShort (s : State) : State := { s with fol := { s.fol with short := true } }.wr fFOL_BOOT_STATUS_STATE 4

/-- Boot installs a copy's PATCH section, whose image must be in the layout of R378. -/
def State.bootPatch (s : State) (ws : List Word) : State :=
  match (dirUsed ws).find? fun x => x.2.ty == 3 with
  | none => s
  | some x =>
    let img := (ws.drop (x.2.off / 4)).take (x.2.len / 4)
    if x.2.len % 4 = 0 ∧ patchOk img then s.patchInstall img else s.bootMalformed 0 x.1

/-- Copy x is valid and is chosen: boot enters APPLY with its sections and tack set (R388, R390). The control-store shadow is copied and the
patch installed first (R376, R390). What is applied is what the second read gives, `again`; a read that differs is found at its end (R391). -/
def State.choose_ (s : State) (x : Nat) (ws again : List Word) : State :=
  let n := s.fol.tack
  let ds := dirUsed again
  let common := (ds.filter fun d => d.2.ty == 1).map fun d => (d.1, secWords again d.2)
  let tack := (ds.filter fun d => d.2.ty == 2 && d.2.tack == n).map fun d => (d.1, secWords again d.2)
  let first := if x = 0 ∨ s.fol.flash.2 then 0 else s.fol.flash.1 / 2
  let dev := if x = 1 ∧ s.fol.flash.2 then 1 else 0
  let key := if s.fol.fuses.secure then (s.keySlot ws).getD 4 else 4
  let s := (((s.wr (copyField x) 0).wr fFOL_BOOT_STATUS_COPY (1 + x)).wr fFOL_BOOT_STATUS_STATE 4).wr fFOL_BOOT_SEQ_SEQ (folW ws 2)
  let s := (s.wr fFOL_OTP_POLICY_KEY_USED key).wr fCLE_ED_NUM_NUM_A (bitsOf (folW ws 5) 15 0)
  let s := if tack.isEmpty then (s.wr fFOL_BOOT_STATUS_NO_TACK 1).raise .FOL_NO_TACK else s.wr fFOL_BOOT_STATUS_TACK n
  let range := some (dev, first, folLength ws)
  let s := { s with fol := { s.fol with secs := common ++ tack, digest := folDigest ws, again := again, readRc := s.tim.rc, range := range } }
  ((s.shadowCopy.bootPatch again).wr fCLE_STATUS_READY 1).loadStore again

/-- BOOT_VERIFY_DONE (R387): the copy under examination has been read whole as `copy`; `again` is what APPLY's further read of it will give
(R390). The first valid copy is chosen; with none, boot raises FOL_NO_IMAGE and goes to the short APPLY. -/
def execBootVerifyDone (copy again : List Word) (s : State) : Out :=
  .next (
    if s.rd fFOL_BOOT_STATUS_STATE ≠ 3 ∨ s.bootReadWaits then s
    else
      let copy := if s.fol.readErr then [] else copy
      let s := { s with fol := { s.fol with readErr := false, readRc := s.tim.rc } }
      match s.copyOrder with
      | [] => (s.raise .FOL_NO_IMAGE).goShort
      | x :: rest =>
        let c := s.copyCause copy
        if c = 0 then s.choose_ x copy again
        else
          let s := s.copyBad x c
          if rest.isEmpty then (s.raise .FOL_NO_IMAGE).goShort else s)

/-! ### Records (R389, R390) -/

/-- The register addresses that boot may not write. -/
def bootBarred (a : RegAt) : Bool :=
  match a.reg with
  | .GEN_OWNER_CAS | .CLE_MIRROR_CFG | .CLE_MIRROR_BASE_LO | .CLE_MIRROR_BASE_HI | .CLE_MIRROR_SIZE | .FOL_OTP_PROG => true
  | _ => false

/-- A REG triple: the register becomes (old AND NOT MASK) OR (VALUE AND MASK). One that addresses HST is refused whatever lies there. -/
def State.bootReg (s : State) (off mask value : Nat) : Wr :=
  if (match blockAt off with | some (.HST, _, _) => true | _ => false) then (s, some .badAccess) else
  match regAt off with
  | none => (s, if value &&& mask = 0 then none else some .badAccess)
  | some a =>
    if bootBarred a then (s, some .badAccess)
    else
      let d := a.reg.desc
      let keep := (2 ^ 32 - 1 - mask) &&& (2 ^ 32 - 1 - d.accMask .w1c) &&& (2 ^ 32 - 1 - d.accMask .wo)
      s.regDo none a off (((s.shown none a).toNat &&& keep) ||| (value &&& mask))

/-- The cause under which boot records a table command's status: BAD_ARGS as BAD_VALUE and CONFLICT as BAD_STATE. -/
def bootCause (status : Nat) : Option Nat :=
  if status = stOK then none
  else if status = stEXISTS then some 8
  else if status = stFULL then some 9
  else if status = stCONFLICT then some 4
  else some 3

/-- The pipelines that an item names: PIPE 8 is every one. A replicated or chip table ignores PIPE. -/
def bootPipes (t p : Nat) : List Nat :=
  match tblInfo t with
  | some x => if x.held = .pipe then (if p = 8 then List.range 8 else [p]) else [0]
  | none => [p]

/-- Whether a table may not be written at all. -/
def bootRo (t : Nat) : Bool := match tblInfo t with | some x => x.readOnly | none => false

/-- One item of an ENTRY or a HASH record in one pipeline. -/
def State.bootEntry (s : State) (r : FolRec) (e : List Word) (sec p : Nat) : State :=
  if bootRo r.table then s.bootRefuse 5 r.table r.index sec
  else
    let x := if r.kind = 2 then s.entryWrite true r.table p r.index 0 e else s.hashInsert r.table p 0 false e
    match bootCause x.2.1 with
    | none => x.1
    | some c => s.bootRefuse c r.table r.index sec

/-- One item of the record in progress. -/
def State.bootItem (s : State) (r : FolRec) (item : List Word) (sec : Nat) : State :=
  if r.kind = 1 then
    match s.bootReg (folW item 0) (folW item 1) (folW item 2) with
    | (s, none) => s
    | (s, some c) => s.bootRefuse c.code 0 (folW item 0) sec
  else (bootPipes r.table r.pipe).foldl (fun s p => s.bootEntry r item sec p) s

/-- The record that a section goes on with, when its words are all there; a WAIT is one item of three words. -/
def recOf (ws : List Word) : Option (FolRec × List Word) :=
  match ws with
  | w0 :: w1 :: t =>
    match recWords w0.toNat w1.toNat t with
    | none => none
    | some n =>
      let kind := bitsOf w0.toNat 7 0
      let table := bitsOf w0.toNat 15 8
      let pipe := bitsOf w0.toNat 19 16
      if t.length < n then none
      else match kind with
        | 1 => some (⟨1, 0, pipe, w1.toNat, 3, 0⟩, t)
        | 2 => some (⟨2, table, pipe, w1.toNat, folW t 1, if table = 0x0E then 0 else folW t 0⟩, t.drop 2)
        | 3 => some (⟨3, table, pipe, w1.toNat, folW t 0, 0⟩, t.drop 1)
        | _ => some (⟨4, 0, pipe, w1.toNat, 3, 0⟩, t)
  | _ => none

/-- The table that a malformed record names. -/
def recTable (ws : List Word) : Nat := let w := folW ws 0; if bitsOf w 7 0 = 2 ∨ bitsOf w 7 0 = 3 then bitsOf w 15 8 else 0

/-- One item of a record is applied from the section's words `ws`; the record ends with its last item. -/
def State.bootGo (s : State) (r : FolRec) (ws : List Word) (sec : Nat) (rest : List (Nat × List Word)) : State :=
  let left := ws.drop r.width
  if r.kind = 4 then
    let deadline := s.tim.rc + ns (r.left * 1000000)
    { s with fol := { s.fol with secs := (sec, left) :: rest, rec_ := none,
                                 wait := some (folW ws 0, folW ws 1, folW ws 2, deadline) } }
  else if r.left = 0 then { s with fol := { s.fol with secs := (sec, ws) :: rest, rec_ := none } }
  else
    let next := if r.left = 1 then none else some { r with left := r.left - 1, index := r.index + 1 }
    { s with fol := { s.fol with secs := (sec, left) :: rest, rec_ := next } }.bootItem r (ws.take r.width) sec

/-- BOOT_APPLY_RECORD (R389, R390): boot applies the next item of the sections left, begins the next record, or ends a section. Items are applied
as they are read, so that none is applied while the read waits for FCLK or has ended in error (R425 to R427). -/
def execBootApplyRecord (s : State) : Out :=
  .next (
    if s.rd fFOL_BOOT_STATUS_STATE ≠ 4 ∨ s.fol.wait.isSome ∨ s.bootReadWaits ∨ s.fol.readErr then s
    else
      match s.fol.secs, s.fol.rec_ with
      | [], _ => s
      | (sec, ws) :: rest, some r => s.bootGo r ws sec rest
      | (sec, ws) :: rest, none =>
        if ws.isEmpty then { s with fol := { s.fol with secs := rest } }
        else
          match recOf ws with
          | some x => s.bootGo x.1 x.2 sec rest
          | none => { s with fol := { s.fol with secs := rest } }.bootMalformed (recTable ws) sec)

/-- BOOT_WAIT_DONE (R389): the condition of the WAIT in progress holds, or its timeout has passed, which counts as one refusal. -/
def execBootWaitDone (s : State) : Out :=
  .next (
    match s.fol.wait with
    | none => s
    | some (off, mask, value, deadline) =>
      let now := match regAt off with | some a => (s.shown none a).toNat | none => 0
      let sec := match s.fol.secs with | x :: _ => x.1 | [] => 0
      let ended := { s with fol := { s.fol with wait := none } }
      if now &&& mask = value then ended
      else if deadline ≤ s.tim.rc then ended.bootRefuse 7 0 off sec
      else s)

/-- Boot has ended in READY (5) or DEFAULTS (6). -/
def State.bootEnd (s : State) (st : Nat) : State :=
  let ms := (s.tim.rc - s.fol.startRc) / ns 1000000
  let s := ((s.shadowCopy.wr fFOL_BOOT_STATUS_STATE st).wr fFOL_BOOT_TIME_MS (min ms 65535)).wr fCLE_STATUS_READY 1
  let s := if st = 5 then s.wr fFOL_TACK_STATUS_IN_FORCE (s.rd fFOL_BOOT_STATUS_TACK) else s
  let s := { s with pin := { s.pin with outHeld := false } }
  s.fltOutputs

/-- Whether the copy read again differs from the one verified (R391). -/
def State.copyChanged (s : State) (again : List Word) : Bool :=
  folDigest again != s.fol.digest || !secsOk again

/-- BOOT_APPLY_END (R380, R391): everything has been applied, and the copy has been read again as `again`. When it has changed, FOL_TAMPER is
raised and an internal warm reset returns every block to its defaults, as when the read ends in an error response (assumption log 26). The short
APPLY reads nothing and ends in DEFAULTS. A report of another read than the one that was applied changes nothing (assumption log 2). -/
def execBootApplyEnd (again : List Word) (s : State) : Out :=
  .next (
    if s.rd fFOL_BOOT_STATUS_STATE ≠ 4 then s
    else if s.fol.short then s.bootEnd 6
    else if s.fol.readErr then (s.raise .FOL_TAMPER).warmReset true
    else if !s.fol.secs.isEmpty ∨ again ≠ s.fol.again then s
    else if s.copyChanged again then (s.raise .FOL_TAMPER).warmReset true
    else if s.fol.wait.isSome then s
    else s.bootEnd 5)

/-! ### Operations that end (R383, R392) -/

/-- FLASH_OP_DONE (R392): the operation of the flash window completes; `ok` is whether the device did it, `data` what a read gave. Without FCLK it
waits (R426). -/
def execFlashOpDone (ok_ : Bool) (data : List Word) (s : State) : Out :=
  .next (
    match s.fol.flOp with
    | none => s
    | some (op, _, _) =>
      if !s.runs 4 then s else
      let s := { s with fol := { s.fol with flOp := none } }.wr fFOL_FL_CTRL_BUSY 0
      if !ok_ then s.wr fFOL_FL_CTRL_ERR 1
      else if op = 0 then (List.range 64).foldl (fun s j => s.setRg .FOL_FL_DATA (data.getD j 0) 0 j) s
      else s)

/-- OTP_PROGRAM_DONE (R383): the fuse bit is programmed, and takes effect at the next cold reset. -/
def execOtpProgramDone (s : State) : Out :=
  .next (
    match s.fol.otpOp with
    | none => s
    | some b =>
      let burnt := if b ∈ s.fol.burnt then s.fol.burnt else b :: s.fol.burnt
      { s with fol := { s.fol with otpOp := none, burnt := burnt } }.wr fFOL_OTP_PROG_BUSY 0)

/-! ### JTAG (R12, R382, R438) -/

/-- The IDCODE: version, part number, manufacturer and a 1. -/
def jtagIdcode : Nat := Config.jtagVersion.toNat * 2 ^ 28 + 0xEF95 * 2 ^ 12 + 0x3D5 * 2 + 1

/-- A JTAG operation shifts these bits out, first bit first. -/
def State.shiftOut (s : State) (sel : Bool) (op : JtagOp) (bits : List Bool) : State :=
  { s with pin := { s.pin with jtagSel := sel, jtagOp := some op, tdo := bits } }

/-- The bits of the IDCODE, least significant first. -/
def idBits : List Bool := (List.range 32).map fun i => bitOf jtagIdcode i

/-- JTAG_INSTRUCTION (R438): `sel` is `JTAG_SEL`. The 1149.1 TAP answers IDCODE and boundary scan with the bits that the cells captured, drives the
balls of an EXTEST from their cells while that is the instruction in force (`State.ballLevel`), and takes any other instruction as BYPASS. The test
TAP answers only BYPASS and IDCODE while `DEBUG_LOCK` = 1; unlocked it programs fuses, and the spec gives its other instructions no effect. -/
def execJtagInstruction (sel : Bool) (op : JtagOp) (s : State) : Out :=
  let locked := s.on fFOL_OTP_POLICY_DEBUG_LOCK
  match sel, op with
  | _, .idcode => .next (s.shiftOut sel op idBits)
  | _, .bypass => .next (s.shiftOut sel op [false])
  | false, .boundaryScan cells => .next (s.shiftOut sel op cells)
  | false, .extest _ cells _ => .next (s.shiftOut sel op cells)
  | false, _ => .next (s.shiftOut sel .bypass [false])
  | true, .programFuse b v =>
    if locked then .next (s.shiftOut sel op [])
    else
      let s := { s.shiftOut sel op [] with pin := { (s.shiftOut sel op []).pin with vfuse := v } }
      .next (if s.on fFOL_OTP_PROG_BUSY then s else ((s.wr fFOL_OTP_PROG_BIT b).otpGo))
  | true, _ => if locked then .next (s.shiftOut sel op []) else .refused .privateTestInstruction

end Sys2Proof.Machine
end

