-- ==== Sys2Proof/Machine/ClerkOps.lean ====
section
/-! DEFINITION. The Clerk between steps (R360 to R379): reading a command, its format and owner, the objects of one round, what it takes at
a boundary, completions, chunks, halts and control-store errors. -/
namespace Sys2Proof.Machine

/-! ### Fields of a command (R338, R362) -/

/-- TABLE of a command. -/
def Cmd.table (c : Cmd) : Nat := bitsOf (c.w 0) 15 8
/-- PIPE of a command. -/
def Cmd.pipe (c : Cmd) : Nat := bitsOf (c.w 0) 19 16
/-- INLINE of a command. -/
def Cmd.inline_ (c : Cmd) : Bool := bitOf (c.w 0) 20
/-- INDEX of a command. -/
def Cmd.index (c : Cmd) : Nat := bitsOf (c.w 2) 23 0
/-- WORDS of a command. -/
def Cmd.count (c : Cmd) : Nat := bitsOf (c.w 3) 7 0
/-- ADDR of a command. -/
def Cmd.addr (c : Cmd) : Nat := c.w 4 + c.w 5 * 2 ^ 32
/-- Whether a command comes through a table access window. -/
def Cmd.isTaw (c : Cmd) : Bool := match c.src with | .taw _ => true | .ring _ _ => false
/-- The ORIGIN of a command's mirror records (R146). -/
def Cmd.origin (c : Cmd) : Nat := b2n c.isTaw
/-- The master of a command. -/
def Cmd.master (c : Cmd) : Master := c.src.master

/-- The bits of a full word. -/
def fullW : Nat := 2 ^ 32 - 1

/-- The bits of words 2 to 7 that an opcode with fields of its own uses, and of word 0 above OPCODE (R365). -/
def ownMask (op : Nat) : Option (Nat × List Nat) :=
  match op with
  | 0x00 => some (0, [])
  | 0x01 => some (0, [])
  | 0x02 => some (0, [fullW, fullW])
  | 0x03 => some (0, [fullW])
  | 0x19 => some (0xFFF00, [0xFFFFFF])
  | 0x1A => some (0xFFF00, [0xFFFFFF, 0x1FFFFFFF])
  | 0x20 => some (0, [0xFFFF])
  | 0x21 => some (0, [fullW, fullW, fullW, 1])
  | 0x22 => some (0, [fullW])
  | 0x28 => some (0xF0000, [fullW])
  | 0x29 => some (0, [0x1FF, fullW])
  | 0x2A => some (0xFFF00, [fullW])
  | 0x30 => some (0, [fullW, fullW, fullW, fullW, fullW, 0xFFFF])
  | 0x31 => some (0xFF00, [fullW, fullW, fullW, fullW])
  | 0x38 => some (0, [fullW, fullW, fullW, 7])
  | 0x3C => some (0, [0, fullW, fullW, fullW])
  | 0x3D => some (0, [1, fullW])
  | 0x3E => some (0, [0xFFF])
  | 0x3F => some (0, [0x1333F])
  | _ => none

/-- The opcodes of the commands that name an entry. -/
def entOps : List Nat := [0x10, 0x11, 0x12, 0x13, 0x14, 0x15, 0x18]

/-- Whether an opcode is one of R365. -/
def opKnown (op : Nat) : Bool := (ownMask op).isSome || decide (op ∈ entOps)

/-- The same for the commands that name an entry: entry data come inline or from ADDR, a window uses neither; only HASH_INSERT has
REPLACE; a key needs no INDEX. -/
def entMask (c : Cmd) : Nat × List Nat :=
  let op := c.opcode
  let hash := decide (op ∈ [0x13, 0x14, 0x15])
  let data := op != 0x11
  let inl := c.inline_ && data && !c.isTaw
  let dest := !inl || op == 0x14
  (0xFFF00 + (if data || c.isTaw then 2 ^ 20 else 0) + (if op = 0x13 then 2 ^ 21 else 0),
   [if hash then 0 else 0xFFFFFF, 0xFF, if dest || c.isTaw then fullW else 0, if dest || c.isTaw then fullW else 0] ++
     List.replicate (if inl then min 10 c.count else 0) fullW)

/-- The bits of the words of a command that it uses. -/
def cmdMask (c : Cmd) : Nat × List Nat :=
  match ownMask c.opcode with
  | some m => if c.opcode = 0x31 ∧ c.isTaw then (m.1 + 2 ^ 20, m.2) else m
  | none => entMask c

/-- Whether a bit is 1 that the command does not use (R338, R362). -/
def cmdReserved (c : Cmd) : Bool :=
  let m := cmdMask c
  (c.w 0 &&& (fullW - 0xFF - m.1)) != 0 || (List.range 14).any fun i => (c.w (i + 2) &&& (fullW - m.2.getD i 0)) != 0

/-- The entry data of a command: none where WORDS does not fit its source (R362, R372). -/
def Cmd.entData (c : Cmd) : Option (List Word) :=
  let n := c.count
  if c.isTaw then (if n ≤ 128 then some (c.data.take n) else none)
  else if c.inline_ then (if n ≤ 10 then some ((c.words.drop 6).take n) else none)
  else some (c.data.take n)

/-! ### Owners and objects (R352 to R355) -/

/-- The control domain of a table's entries. -/
def tableDomain (t p : Nat) : Nat :=
  if t ∈ [0x01, 0x02, 0x08, 0x18, 0x19, 0x1A, 0x1B, 0x20] then 5
  else if t = 0x09 ∨ t = 0x0C then 24 + p
  else if 0x28 ≤ t ∧ t ≤ 0x2F then 32 + p
  else 12

/-- The control domain that a command's objects lie in: none for those that ownership does not concern, and for REG_WRITE, whose register
says it. -/
def cmdDomain (c : Cmd) : Option Nat :=
  match c.opcode with
  | 0x00 | 0x01 | 0x02 | 0x03 | 0x11 | 0x14 | 0x31 | 0x3F => none
  | 0x20 | 0x21 | 0x22 => some 5
  | 0x28 => some (24 + c.pipe)
  | 0x29 => some (24 + bitsOf (c.w 2) 8 0 / 32)
  | 0x2A => some 3
  | 0x30 => some 11
  | 0x38 | 0x3C => some 6
  | 0x3D => some 4
  | 0x3E => some (16 + bitsOf (c.w 2) 8 0 / 32)
  | _ => some (tableDomain c.table c.pipe)

/-- Whether a command's master may act on its objects (R354). -/
def State.cmdOwned (s : State) (c : Cmd) : Bool :=
  match cmdDomain c with
  | some d => s.owner d == 0 || s.owner d == c.master.owner
  | none => true

/-- What a command addresses: a register, or entries of a table and pipeline from one on, or a key that the table does not hold. -/
inductive CmdObj where
  | reg (addr : Nat)
  | entry (table pipe first n : Nat)
  | key (table pipe key : Nat)
  deriving DecidableEq, Repr

/-- Whether two objects are the same one, or share an entry. -/
def CmdObj.same : CmdObj → CmdObj → Bool
  | .reg a, .reg b => a == b
  | .entry t p i n, .entry u q j m => t == u && p == q && decide (i < j + m) && decide (j < i + n)
  | .key t p k, .key u q l => t == u && p == q && k == l
  | _, _ => false

/-- The object that a command addresses (R355): a register, or a table, pipeline and entry; a key or a prefix that is present stands for its
entry, and a block move for the rows of its block. -/
def State.cmdObject (s : State) (c : Cmd) : Option CmdObj :=
  let p := match tblInfo c.table with | some x => if x.held = .pipe then c.pipe else 15 | none => 15
  let e := c.entData.getD []
  match c.opcode with
  | 0x02 => some (.reg (c.w 2))
  | 0x10 | 0x12 =>
    if c.table = 0x0E then
      match s.pfxSlot e with
      | some i => some (.entry c.table p i 1)
      | none => some (.key c.table p (wordsNat (e.take 5)))
    else some (.entry c.table p c.index 1)
  | 0x13 | 0x15 =>
    let e := entClean c.table e
    match s.hashFind c.table c.pipe e with
    | some i => some (.entry c.table p i 1)
    | none => some (.key c.table p (if c.table = 0x0C then bridgeBd e * 2 ^ 48 + bridgeMac e else (keyEntry e).1 + (keyEntry e).2 * 16))
  | 0x18 | 0x19 => some (.entry c.table p c.index 1)
  | 0x1A => some (.entry c.table p c.index (max 1 (bitsOf (c.w 3) 13 0)))
  | _ => none

/-- Whether two commands address the same object. -/
def State.sameObject (s : State) (c d : Cmd) : Bool :=
  match s.cmdObject c, s.cmdObject d with
  | some x, some y => x.same y
  | _, _ => false

/-- Whether an object lies in an unowned domain. -/
def State.objFree (s : State) (c : Cmd) : Bool :=
  let d := if c.opcode = 0x02 then (regAt (c.w 2)).bind regDomain else cmdDomain c
  match d with
  | some d => s.owner d == 0
  | none => false

/-! ### Reading a command (R331, R340, R362) -/

/-- The local channel of a command ring. -/
def cmdChan (pr : Bool) : Nat := b2n pr

/-- The bytes of entry data or of a patch image that are read from ADDR before a command is offered (R362, R378). -/
def Cmd.readLen (c : Cmd) : Nat :=
  if c.opcode = 0x3C then c.w 3
  else if c.opcode ∈ entOps ∧ c.opcode ≠ 0x11 ∧ !c.inline_ then 4 * c.count
  else 0

/-- COMMAND_FETCH: a DMA unit reads the next command of host h's ring `pr`: its 16 words, how the reads ended, and the entry data. -/
def execCommandFetch (h : HostId) (pr : Bool) (ws : List Word) (r : HostRead) (data : List Word) (s : State) : Out :=
  let src : CmdSrc := .ring h pr
  let ch := chanOf h (cmdChan pr)
  .next (s.unit ch fun s =>
    let c : Cmd := ⟨src, ws.take 16, if r = .ok then data else [], r != .ok, s.clerk.seq, false, 0, 0⟩
    let s := (s.ringRead h ch (s.rd fHST_CH_DEV_IDX_IDX 0 ch + s.readAhead src) 1 64).hostRead h c.addr c.readLen
    let q := s.clerk.fetched ++ [c]
    { s with clerk := { s.clerk with fetched := q, seq := s.clerk.seq + 1 } })

/-! ### What is ready (R361, R369) -/

/-- The opcodes of commands that are multi-step work: chunked ones and those of the Catalogue. -/
def multiOps : List Nat := [0x18, 0x19, 0x1A, 0x22, 0x28, 0x29, 0x2A, 0x3D]

/-- Whether a verified patch waits. -/
def State.patchWaits (s : State) : Bool := s.clerk.patches.any fun x => x.verified

/-- Whether multi-step work is in progress. -/
def State.multiBusy (s : State) : Bool :=
  !s.clerk.chunked.isEmpty || !s.lrn.repairs.isEmpty || s.clerk.sweeps.any (fun x => x.2 != 0) ||
    s.clerk.resyncs.any (fun x => x.2 != 0) || s.clerk.forgets.any (fun x => x.2 != 0)

/-- The completions held in a ring's hold queue. -/
def State.holdCount (s : State) (src : CmdSrc) : Nat :=
  (s.holdOf src).countP fun e => match e with | .done _ _ => true | .waiting _ => false

/-- Whether a ring's completion ring has room for one more completion beside those on their way. -/
def State.complRoom (s : State) (src : CmdSrc) : Bool :=
  match src with
  | .taw _ => true
  | .ring h pr =>
    let c := chanOf h (2 + b2n pr)
    !s.on fHST_CH_CFG_EN 0 c ||
      decide (s.ringUsed c + (AMap.getD s.hst.compl src []).length + (s.holdOf src).length < s.ringSize c)

/-- Whether FENCE may complete (R312, R340): every earlier command of the ring has, and no write waits to enter a bank queue. -/
def State.fenceOk (s : State) (src : CmdSrc) : Bool := (s.holdOf src).isEmpty && !(s.drm.waiting.any fun r => r.write)

/-- Whether a command at the head of its source may begin. -/
def State.mayBegin (s : State) (c : Cmd) : Bool :=
  s.complRoom c.src && decide (s.holdCount c.src < 64) && (c.opcode != 0x01 || s.fenceOk c.src) &&
    !(s.patchWaits && decide (c.opcode ∈ multiOps))

/-- The command that a source offers: its chunked command in progress, or the next one if it may begin. -/
def State.offered (s : State) (src : CmdSrc) : Option Cmd :=
  match s.clerk.chunked.find? (·.src == src) with
  | some c => some c
  | none => (s.clerk.fetched.find? (·.src == src)).filter fun c => s.mayBegin c

/-- The sources of priority items, in their rotation. -/
def priSources : List CmdSrc := [.ring .a true, .ring .b true, .taw .a, .taw .b, .taw .sb]

/-- The work of a priority item that is ready. -/
def State.priReady (s : State) (i : Nat) : Option Work := (priSources[i]?).bind fun src => (s.offered src).map .cmd

/-- Whether a background job that has not begun may be taken. -/
def State.jobMay (s : State) (begun : Bool) : Bool := begun || !s.patchWaits

/-- The work of a normal item that is ready: the rings, the sweeps, the resyncs, and then the forgets of ports that lost their link, which
R361 does not list (assumption log 29). -/
def State.normReady (s : State) (i : Nat) : Option Work :=
  if i = 0 then (s.offered (.ring .a false)).map .cmd
  else if i = 1 then (s.offered (.ring .b false)).map .cmd
  else if i < 10 then
    match AMap.get? s.clerk.sweeps (i - 2) with
    | some n => if s.jobMay (n != 0) then some (.sweep (i - 2)) else none
    | none => none
  else if i < 12 then
    let h : HostId := if i = 10 then .a else .b
    match s.clerk.resyncs.find? (·.1 == h) with
    | some x => if s.jobMay (x.2 != 0) then some (.resync h) else none
    | none => none
  else
    match s.clerk.forgets with
    | x :: _ => if s.jobMay (x.2 != 0) then some (.forget x.1) else none
    | [] => none

/-- The next ready item of a rotation of n after the one last served. -/
def nextItem (ready : Nat → Option Work) (n last : Nat) : Option (Nat × Work) :=
  ((List.range n).map fun k => (last + 1 + k) % n).findSome? fun i => (ready i).map fun w => (i, w)

/-! ### The boundary (R361, R371) -/

/-- The Clerk has read a command of a ring: the ring's consumer advances (R340), unless the channel was stopped since the DMA unit read it: its
write-back is not updated again (R337). -/
def State.consume (s : State) (c : Cmd) : State :=
  match c.src with
  | .ring h pr => if c.seq < AMap.getD s.clerk.stops c.src 0 then s else s.advance h (chanOf h (cmdChan pr)) 1
  | .taw _ => s

/-- A command leaves the fetched ones. -/
def State.unfetch (s : State) (c : Cmd) : State :=
  let left := s.clerk.fetched.erase c
  { s with clerk := { s.clerk with fetched := left } }.consume c

/-- A step begins. An unknown opcode completes with BAD_ARGS in it (R338), unless the command could not be read (R362). A register command's clock is
checked now (R367). -/
def State.begin_ (s : State) (w : Work) : State :=
  let runs := match w with
    | .cmd c => !s.clockStopped (c.w 2)
    | _ => false
  let s := { s with clerk := { s.clerk with work := w, stepStart := some s.tim.rc, stepHeld := false, overran := false, regOk := runs } }
  match w with
  | .cmd c =>
    if c.begun then
      let left := s.clerk.chunked.filter (·.src != c.src)
      { s with clerk := { s.clerk with chunked := left } }
    else
      let s := s.unfetch c
      if opKnown c.opcode then s else s.idle.complete c (if c.failed then stTIMEOUT else stBAD_ARGS)
  | _ => s

/-- The heads of one round, in the order host A, host B, sideband: the next command of every ring and window, whether or not it may begin (R361).
Behind a chunked command in progress a ring has none. -/
def State.heads (s : State) : List Cmd :=
  ([.ring .a true, .ring .a false, .taw .a, .ring .b true, .ring .b false, .taw .b, .taw .sb] : List CmdSrc).filterMap fun src =>
    if s.clerk.chunked.any (·.src == src) then none else s.clerk.fetched.find? (·.src == src)

/-- CLAIM_DOMAIN, once it may run (R353). -/
def State.claim (s : State) (c : Cmd) : State :=
  let d := bitsOf (c.w 2) 5 0
  let r := s.cas c.master d (bitsOf (c.w 2) 9 8) (bitsOf (c.w 2) 13 12) (bitOf (c.w 2) 16)
  r.1.complete c (if r.2 then stOK else stCONFLICT) (r.1.owner d)

/-- Whether a command is a request for the owner of domain d. -/
def Cmd.claims (c : Cmd) (d : Nat) : Bool := c.opcode == 0x3F && !c.failed && !cmdReserved c && bitsOf (c.w 2) 5 0 == d

/-- The requests for one domain that several masters make in one round, all applied in the masters' order (R355). -/
def State.claimRound (s : State) (hs : List Cmd) (d : Nat) : State :=
  let cs := hs.filter fun c => c.claims d
  if 2 ≤ ((cs.map (·.master)).eraseDups).length then cs.foldl (fun s c => (s.unfetch c).claim c) s else s

/-- A command that loses its round completes with CONFLICT; the refusal of a REG_WRITE is logged (R355, R366). -/
def State.loseRound (s : State) (c : Cmd) : State :=
  let s := s.unfetch c
  (if c.opcode = 0x02 then s.reject c.master .sameRound (c.w 2) (word (c.w 3)) else s).complete c stCONFLICT

/-- R355 over the heads: of the commands that address one object of an unowned domain only the first master's takes effect, and requests for one
domain are applied in the masters' order. -/
def State.sameRoundCmds (s : State) : State :=
  let hs := s.heads
  let lost := hs.zipIdx.filter fun x => s.objFree x.1 && (hs.take x.2).any fun o => o.master != x.1.master && s.sameObject o x.1
  let s := lost.foldl (fun s x => s.loseRound x.1) s
  (List.range 64).foldl (fun s d => s.claimRound hs d) s

/-- HALTING ends at a boundary: chunked commands complete with HALTED and their resume index. -/
def State.haltNow (s : State) : State :=
  if s.on fCLE_STATUS_HALTED then s
  else
    let cs := s.clerk.chunked
    let s := { s with clerk := { s.clerk with chunked := [] } }.wr fCLE_STATUS_HALTED 1
    cs.foldl (fun s c => s.complete c stHALTED c.acc c.next) s

/-- The repair step that is ready: the oldest open repair whose read is not issued or whose record has returned. -/
def State.repairReady (s : State) : Option Work :=
  (s.lrn.repairs.find? fun r => r.phase == 0 || r.phase == 2).map fun r => if r.phase = 0 then .repairRead r.tag else .repairWrite r.tag

/-- The commands and the background jobs. -/
def State.pickItem (s : State) : State :=
  let s := s.sameRoundCmds
  let pri := nextItem s.priReady 5 s.clerk.rotPri
  let norm := nextItem s.normReady 13 s.clerk.rotNorm
  match pri, norm with
  | some x, none => { s with clerk := { s.clerk with rotPri := x.1, priRun := s.clerk.priRun + 1 } }.begin_ x.2
  | some x, some y =>
    if s.clerk.priRun < 8 then { s with clerk := { s.clerk with rotPri := x.1, priRun := s.clerk.priRun + 1 } }.begin_ x.2
    else { s with clerk := { s.clerk with rotNorm := y.1, priRun := 0 } }.begin_ y.2
  | none, some y => { s with clerk := { s.clerk with rotNorm := y.1, priRun := 0 } }.begin_ y.2
  | none, none => s

/-- The longest time between boundaries (`CLE_GAP_MAX`), in nanoseconds. The Clerk that waits for work is at its boundary. -/
def State.gapNote (s : State) : State :=
  match s.clerk.stepStart with
  | none => s
  | some t =>
    let gap := min ((s.tim.rc - t) / nsU) (2 ^ 32 - 1)
    let s := { s with clerk := { s.clerk with stepStart := none } }
    if s.rd fCLE_GAP_MAX_GAP_NS < gap then s.wr fCLE_GAP_MAX_GAP_NS gap else s

/-! ### Control-store errors (R377, R417) -/

/-- The first control-store error since the last clear. -/
def State.csNote (s : State) (kind addr : Nat) : State :=
  if s.on fCLE_CS_LAST_VALID then s else s.setRg .CLE_CS_LAST (word (2 ^ 31 + kind * 2 ^ 29 + addr % 2 ^ 14))

/-- The address whose word a fetch reads (R375): a valid entry of the patch map redirects a ROM address, and a RAM address is never
redirected. -/
def State.fetchAddr (s : State) (a : Nat) : Nat :=
  if 0x2000 ≤ a then a
  else match (List.range 64).find? fun i => s.on fCLE_PATCH_MAP_V 0 i && s.rd fCLE_PATCH_MAP_ROM_ADDR 0 i == a with
    | some i => s.rd fCLE_PATCH_MAP_RAM_ADDR 0 i
    | none => a

/-- The commands in progress: the one whose step runs, and the chunked ones that have begun. -/
def State.cmdsOn (s : State) : List Cmd :=
  let chunked := s.clerk.chunked.filter fun c => c.begun
  match s.clerk.work with
  | .cmd c => c :: chunked.filter (· != c)
  | _ => chunked

/-- The control-store word at an address cannot be corrected: the Clerk stops at once, and what is in progress completes with PARITY (R371,
R377; a chunked command between its chunks is in progress too, assumption log 29). -/
def State.csStop (s : State) (addr : Nat) : State :=
  let s := (s.csNote 2 addr).raise .CLE_CS_UNCORR 0 addr
  let cs := s.cmdsOn
  let left := s.clerk.chunked.filter fun c => !c.begun
  let s := { s with clerk := { s.clerk with stopped := true, work := .idle, chunked := left } }
  cs.foldl (fun s c => s.complete c stPARITY) s

/-- The control-store word at an address was fetched: a ROM word whose parity fails is replaced by its shadow, a RAM word with one bad bit
is corrected, and a word that cannot be corrected stops the Clerk. A Clerk that has stopped fetches nothing. -/
def State.csFetch (s : State) (a : Nat) : State :=
  let ram := fun (s : State) (b : Nat) => match s.marked 0x26 15 0 b with
    | some false => (((s.unmark 0x26 15 0 b).addSat fCLE_CS_STATUS_RAM_CORR 1).csNote 1 b).raise .CLE_CS_RAM_CORR 0 b
    | some true => s.csStop a
    | none => s
  if s.clerk.stopped then s
  else if 0x2000 ≤ a then ram s a
  else if !s.bad 0x27 15 0 a then s
  else if s.marked 0x26 15 0 (a + 0x2000) = some true then s.csStop a
  else ram ((((s.unmark 0x27 15 0 a).addSat fCLE_CS_STATUS_ROM_PAR 1).csNote 0 a).raise .CLE_CS_ROM_PAR 0 a) (a + 0x2000)

/-- The six words of the control-store word at an address (R374, R376): the ROM's, what a patch has put into the RAM, the shadow once it has been
copied, or what the RAM came up with. -/
def State.csWord (s : State) (a : Nat) : List Word :=
  if a < 0x2000 then Config.romWord a
  else match s.clerk.storeRam.find? fun x => x.1 == a with
    | some x => x.2
    | none => if s.clerk.shadow ∧ a < 0x3800 then Config.romWord (a - 0x2000) else Config.ramWord a

/-- The sequencing fields of a control-store word (R374). -/
structure CsFields where
  next : Nat
  cond : Nat
  inv : Bool
  stepEnd : Bool
  branch : Nat
  deriving DecidableEq, Repr

/-- A word's sequencing fields. -/
def csFields (ws : List Word) : CsFields :=
  let w := (ws.getD 0 0).toNat
  ⟨bitsOf w 13 0, bitsOf w 19 14, bitOf w 20, bitOf w 21, bitsOf (ws.getD 1 0).toNat 13 0⟩

/-- The address that follows a word (R374): BRANCH when the condition it selects, inverted by INV, holds, otherwise NEXT. `c` is the internal
condition selected. -/
def CsFields.after (f : CsFields) (c : Bool) : Nat :=
  let holds := if f.cond = 0 then false else if f.cond = 63 then true else c
  if holds != f.inv then f.branch else f.next

/-- The sequencer executes one word (R374, R375): it is fetched where the patch map takes its address, and names the next. -/
def State.csExec (s : State) (c : Bool) : State :=
  let a := s.fetchAddr s.clerk.upc
  let s := s.csFetch a
  if s.clerk.stopped then s else { s with clerk := { s.clerk with upc := (csFields (s.csWord a)).after c } }

/-- The words of one step, with the value of the condition that each selects; the last is the one with STEP_END. -/
def State.csRun (s : State) : List Bool → State
  | [] => s
  | c :: cs =>
    let last := (csFields (s.csWord (s.fetchAddr s.clerk.upc))).stepEnd
    let t := s.csExec c
    match cs with
    | [] => t
    | _ => if t.clerk.stopped || last then t else t.csRun cs

/-- The boundary itself. -/
def State.boundary (s : State) : State :=
  let s := s.gapNote
  if s.haltReq then s.haltNow
  else
    let s := s.wr fCLE_STATUS_HALTED 0
    match s.repairReady with
    | some w => s.begin_ w
    | none => if s.patchWaits && !s.multiBusy then s.begin_ .patch else s.pickItem

/-- CLERK_BOUNDARY: the step has ended, and the Clerk takes its next work. `conds` are the values of the internal conditions that the words of the
step now begun select, one for each word executed (R374); a word that cannot be corrected stops the Clerk with that step's command in progress. During
a step, before the end of boot (R376, R380) and while STOPPED there is no boundary. -/
def execClerkBoundary (conds : List Bool) (s : State) : Out :=
  .next (
    if s.clerk.work ≠ .idle ∨ s.clerk.stopped ∨ !s.on fCLE_STATUS_READY ∨ !s.booted then s
    else s.boundary.csRun conds)

/-- STEP_OVERRUN (R379): the step has run 100 µs, and has not waited for a mirror queue. Before that, and for a step that has overrun already, nothing
is raised. -/
def execStepOverrun (s : State) : Out :=
  .next (
    match s.clerk.stepStart with
    | some t =>
      if s.clerk.work ≠ .idle ∧ t + ns 100000 ≤ s.tim.rc ∧ !s.mirFull ∧ !s.clerk.stepHeld ∧ !s.clerk.overran then
        { s with clerk := { s.clerk with overran := true } }.raise .CLE_STEP_OVERRUN
      else s
    | none => s)

/-! ### Running a command -/

/-- Whether what a command names lies in some control domain: a table that R363 lists and that commands write, a pipeline below 8 where it needs one,
a port below 256 (R362, R363, R365). -/
def cmdNames (c : Cmd) : Bool :=
  if c.opcode = 0x28 then decide (c.pipe < 8)
  else if c.opcode = 0x29 ∨ c.opcode = 0x3E then decide (bitsOf (c.w 2) 8 0 < 256)
  else if c.opcode ∈ [0x10, 0x12, 0x13, 0x15, 0x18, 0x19, 0x1A] then
    (match tblInfo c.table with | some x => !x.readOnly && (x.held != .pipe || decide (c.pipe < 8)) | none => false)
  else true

/-- The status with which a command ends before it does anything: its host read failed (R362), a bit that it does not use is 1 (R338) or what it names
is in no domain, or its objects belong to another master (R354). -/
def State.cmdStop (s : State) (c : Cmd) : Option Nat :=
  if c.failed then some stTIMEOUT
  else if cmdReserved c || !cmdNames c then some stBAD_ARGS
  else if !s.cmdOwned c then some stCONFLICT
  else none

/-- Whether a command's write of the key store is one of both halves of a double entry: by its data, or by the entry that an ENTRY_DELETE finds. A
HASH_INSERT that replaces a result writes the first half alone (R117). -/
def State.cmdDouble (s : State) (c : Cmd) : Bool :=
  let e := c.entData.getD []
  if c.opcode = 0x12 then s.kstDouble c.index
  else decide (e.length = 10) && !(c.opcode == 0x13 && (s.hashFind 0x0D c.pipe (entClean 0x0D e)).isSome)

/-- The records that a command's next write queues: two for a pair of Catalogue rows or for a double entry, otherwise one. -/
def State.cmdNeed (s : State) (c : Cmd) : Nat :=
  if (c.table = 0x1A ∧ s.sliceWide false c.pipe (c.index / 512)) ∨ (c.table = 0x1B ∧ s.sliceWide true c.pipe (c.index / 512)) ∨
      (c.table = 0x0D ∧ s.cmdDouble c) then 2 else 1

/-- The step of a command: `f` when the Clerk's work is a command of opcode `op`, which is checked when it begins. A writer of mirrored
tables holds its step while a mirror queue is full (R147). -/
def State.cmdRow (s : State) (op : Nat) (writer : Bool) (f : State → Cmd → State) : State :=
  match s.clerk.work with
  | .cmd c =>
    if c.opcode ≠ op then s
    else if writer ∧ s.mirShort (s.cmdNeed c) then s.stepWaits
    else
      match (if c.begun then none else s.cmdStop c) with
      | some st => s.idle.complete c st
      | none => f s.idle c
  | _ => s

/-- The end of a chunk at entry `next` of `total` with a result so far: the command goes on, or completes (R370). -/
def State.chunkEnd (s : State) (c : Cmd) (next total acc : Nat) : State :=
  if total ≤ next then s.complete c stOK acc
  else
    let q := s.clerk.chunked ++ [{ c with begun := true, next := next, acc := acc }]
    { s with clerk := { s.clerk with chunked := q } }

/-- The step of a command is held: it goes on in the same step from `next`, with its result so far (R147). -/
def State.holdStep (s : State) (c : Cmd) (next acc : Nat) : State :=
  { s with clerk := { s.clerk with work := .cmd { c with begun := true, next := next, acc := acc } } }.stepWaits

/-- The end of a visit of n entries of a chunk from `from_` on: it was held before the last of them, or the chunk has ended. -/
def State.chunkStep (c : Cmd) (from_ n total : Nat) (r : (State × Nat) × Nat) : State :=
  if r.2 < n then r.1.1.holdStep c (from_ + r.2) r.1.2 else r.1.1.chunkEnd c (from_ + n) total r.1.2

/-- Where a chunk starts: the resume index of the command, then where the last chunk ended. -/
def Cmd.from_ (c : Cmd) (resume : Nat) : Nat := if c.begun then c.next else resume

/-- Read data of a command goes to ADDR, or to its window's buffer (R362, R372, R373). -/
def State.giveData (s : State) (c : Cmd) (ws : List Word) : State :=
  match c.src with
  | .ring h _ => s.hostWrite h c.addr (wordsBytes ws)
  | .taw m => ws.zipIdx.foldl (fun s w => if w.2 < 128 then s.setRg .CLE_TAW_DATA w.1 0 m.num w.2 else s) s

end Sys2Proof.Machine
end

