-- ==== Sys2Proof/Machine/ClerkTables.lean ====
section
/-! DEFINITION. The Clerk's commands on tables (R171, R172, R362 to R368): entries, hashed stores and Catalogue rows. -/
namespace Sys2Proof.Machine

/-! ### What may be read (R226, R227) -/

/-- n words that the spec leaves open. -/
def State.freeWords (s : State) : Nat → List Word × State
  | 0 => ([], s)
  | n + 1 =>
    let r := s.takeFree
    let t := r.2.freeWords n
    (r.1 :: t.1, t.2)

/-- The frame record of a stall in use (R226); `base` is the running count's start (R49). -/
def Stall.record (x : Stall) (base : Nat) : List Word :=
  let t := ctWords x.ct
  let run := (x.rc - base) / nsU
  let w4 := (t.getD 2 0).toNat
  [word (x.len % 2 ^ 14 + b2n x.known * 2 ^ 14 + b2n x.done * 2 ^ 15 + b2n x.bad * 2 ^ 16 + x.layout % 64 * 2 ^ 17 + x.shift % 256 * 2 ^ 23 +
      b2n x.ed * 2 ^ 31),
   word (x.nextProto % 256 + b2n x.fragl * 2 ^ 8 + b2n x.pass * 2 ^ 9 + x.inPort % 512 * 2 ^ 10 + b2n x.whole * 2 ^ 19 + b2n x.routed * 2 ^ 20 +
      x.tstate % 4 * 2 ^ 21 + x.refs % 512 * 2 ^ 23),
   t.getD 0 0, t.getD 1 0,
   word (bitsOf w4 15 0 + bitsOf w4 31 28 * 2 ^ 16 + b2n x.cont.isSome * 2 ^ 30 + 2 ^ 31),
   word run, word (run / 2 ^ 32 % 256 + (x.rc - base) % nsU / 2 ^ 44 * 2 ^ 8 + x.cont.getD 0 % 8192 * 2 ^ 12),
   word (x.rMeta % 65536 + x.hash % 65536 * 2 ^ 16)]

/-- The slip after one in its queue. -/
def nextOf (id : Nat) : List Nat → Option Nat
  | a :: b :: t => if a = id then some b else nextOf id (b :: t)
  | _ => none

/-- A slip in use as its four words (R227); `next` is the slip after it. -/
def Slip.asWords (x : Slip) (next : Nat) : List Word :=
  [word (next % 2 ^ 20),
   word (x.stall % 2 ^ 18 + x.pool % 4 * 2 ^ 18 + x.cls % 8 * 2 ^ 20 + x.colour % 4 * 2 ^ 23 + b2n x.copy * 2 ^ 25 + b2n x.mirror * 2 ^ 26 +
      b2n x.ct * 2 ^ 27),
   word (x.outPort % 512 + x.nh % 2 ^ 14 * 2 ^ 9 + b2n x.nhV * 2 ^ 23),
   word (x.rwIdx % 65536 + x.finalBd % 2 ^ 14 * 2 ^ 16)]

/-- A free frame record (R226): STATE and the reserved bits are 0, and so is REFS, since the stall was freed at 0 (R238). -/
def freeRecord (e : List Word) : List Word := entSet (entSet (entSet (entSet e 1 31 23 0) 4 29 20 0) 4 31 31 0) 6 31 25 0

/-- A free slip (R227): its reserved bits are 0. -/
def freeSlip (e : List Word) : List Word := entSet (entSet (entSet (entSet e 0 31 20 0) 1 31 28 0) 2 31 24 0) 3 31 30 0

/-- What the read-only tables hold at an index: the record of a stall or the words of a slip. Of one that is free only the fields of
`freeRecord` and `freeSlip` are stated, and of a tail's NEXT_SLIP nothing: the rest are free values (assumption log 3). -/
def State.readOnlyWords (s : State) (t i : Nat) : List Word × State :=
  if t = 0x38 then
    match s.fwd.stalls.find? fun x => s.stallNo x.pool x.idx == i with
    | some x => (x.record s.tim.rcBase, s)
    | none =>
      let r := s.freeWords 8
      (freeRecord r.1, r.2)
  else
    match s.fwd.slips.find? fun x => x.id == i with
    | some x =>
      match (s.fwd.queues.map fun q => q.2).findSome? fun q => nextOf i q with
      | some n => (x.asWords n, s)
      | none =>
        let r := s.takeFree
        (x.asWords r.1.toNat, r.2)
    | none =>
      let r := s.freeWords 4
      (freeSlip r.1, r.2)

/-! ### Entries (R362 to R364, R368) -/

/-- Whether an ENTRY_WRITE is to a table of the Harness with expert fields while the gate is closed (R11, R247). -/
def Cmd.gateHit (c : Cmd) (gate : Bool) : Bool := !gate && (c.table == 0x28 || c.table == 0x29 || c.table == 0x2A)

/-- Logs such a write and counts it as R11 and R354 say. The offset that the log holds is not stated for an entry: a free value (assumption
log 3). -/
def State.gateLog (s : State) (c : Cmd) (e : List Word) : State :=
  let f := s.takeFree
  f.2.reject c.master .expertClosed f.1.toNat ((entClean c.table e).getD 0 0)

/-- What a command that writes one entry by its data makes: the state, the status and the result. -/
abbrev CmdWrite := State × Nat × Nat

/-- The end of such a command. -/
def State.writeEnd (c : Cmd) (r : CmdWrite) : State := r.1.complete c r.2.1 r.2.2

/-- The write of ENTRY_WRITE. -/
def State.entryWriteCmd (s : State) (c : Cmd) : CmdWrite :=
  match c.entData with
  | none => (s, stBAD_ARGS, 0)
  | some e =>
    let gate := s.gateOpen (some c.master) .HAR c.pipe
    let r := s.entryWrite gate c.table c.pipe c.index c.origin e
    (if r.2.1 = stOK ∧ c.gateHit gate then r.1.gateLog c e else r.1, r.2)

/-- ENTRY_WRITE. -/
def execEntryWrite (s : State) : Out := .next (s.cmdRow 0x10 true fun s c => State.writeEnd c (s.entryWriteCmd c))

/-- The replica that a command reads: PIPE names it for a replicated table (R362). -/
def Cmd.replica (c : Cmd) : Nat := match tblInfo c.table with | some x => if x.held = .rep then c.pipe else 0 | none => 0

/-- Whether an index cannot be read: an odd row of a wide slice (R160). -/
def State.oddRow (s : State) (t p i : Nat) : Bool :=
  (t == 0x1A && s.sliceWide false p (i / 512) || t == 0x1B && s.sliceWide true p (i / 512)) && i % 2 == 1

/-- Ends a read: the entry as stored goes to its destination, with PARITY where its check fails (R368). -/
def State.readEnd (s : State) (c : Cmd) (rep i : Nat) : State :=
  let x := if c.table = 0x38 ∨ c.table = 0x39 then s.readOnlyWords c.table i else (s.entRead c.table c.pipe rep i, s)
  let s := x.2.giveData c x.1
  match s.entBad c.table c.pipe rep i with
  | some j => (s.entReport c.table c.pipe rep j).complete c stPARITY i
  | none => (s.entCorrect c.table c.pipe i).complete c stOK i

/-- Ends a lookup that failed without a match (R128, R368): the entry whose key parity is bad goes to the destination as read. -/
def State.missEnd (s : State) (c : Cmd) (i : Nat) : State :=
  ((s.giveData c (s.entRead c.table c.pipe 0 i)).entReport c.table c.pipe 0 i).complete c stPARITY i

/-- ENTRY_READ. -/
def execEntryRead (s : State) : Out :=
  .next (s.cmdRow 0x11 false fun s c =>
    if !tableArgs c.table c.pipe c.index || s.oddRow c.table c.pipe c.index || !s.entWords c.table c.pipe c.index c.count then s.complete c stBAD_ARGS
    else if c.table = 0x0E ∧ (1048576 ≤ c.index) then s.complete c stBAD_ARGS
    else if c.table = 0x0E ∧ (AMap.get? s.tables (0x0E, 15, c.index)).isNone then s.complete c stNOT_FOUND
    else s.readEnd c c.replica c.index)

/-- The write of ENTRY_DELETE. -/
def State.entryDeleteCmd (s : State) (c : Cmd) : CmdWrite :=
  match c.entData with
  | none => (s, stBAD_ARGS, 0)
  | some e => s.entryDelete c.table c.pipe c.index c.origin e

/-- ENTRY_DELETE. -/
def execEntryDelete (s : State) : Out := .next (s.cmdRow 0x12 true fun s c => State.writeEnd c (s.entryDeleteCmd c))

/-! ### Hashed stores (R117, R118) -/

/-- The write of HASH_INSERT. -/
def State.hashInsertCmd (s : State) (c : Cmd) : CmdWrite :=
  match c.entData with
  | none => (s, stBAD_ARGS, 0)
  | some e => s.hashInsert c.table c.pipe c.origin (bitOf (c.w 0) 21) e

/-- HASH_INSERT. -/
def execHashInsert (s : State) : Out := .next (s.cmdRow 0x13 true fun s c => State.writeEnd c (s.hashInsertCmd c))

/-- HASH_LOOKUP. One that matches nothing fails, as a frame's would, when a way of its bucket has a bad key parity (R128): it completes with PARITY
and that way's entry (DEDUCED, assumption log 29). -/
def execHashLookup (s : State) : Out :=
  .next (s.cmdRow 0x14 false fun s c =>
    match c.entData with
    | none => s.complete c stBAD_ARGS
    | some e =>
      if !State.hashArgs c.table c.pipe e then s.complete c stBAD_ARGS
      else match s.hashFind c.table c.pipe (entClean c.table e) with
        | none => match s.missBad c.table c.pipe (entClean c.table e) with
          | some i => s.missEnd c i
          | none => s.complete c stNOT_FOUND
        | some i => s.readEnd c 0 i)

/-- The write of HASH_DELETE. -/
def State.hashDeleteCmd (s : State) (c : Cmd) : CmdWrite :=
  match c.entData with
  | none => (s, stBAD_ARGS, 0)
  | some e => s.hashDelete c.table c.pipe c.origin e

/-- HASH_DELETE. -/
def execHashDelete (s : State) : Out := .next (s.cmdRow 0x15 true fun s c => State.writeEnd c (s.hashDeleteCmd c))

/-! ### Catalogue rows (R170 to R173) -/

/-- The rows of a direction. -/
def catSize (eg : Bool) : Nat := if eg then 4096 else 12288

/-- Whether a Catalogue command names one of the two row tables and a pipeline. -/
def Cmd.catArgs (c : Cmd) : Bool := (c.table == 0x1A || c.table == 0x1B) && decide (c.pipe < 8)

/-- Whether a Catalogue command is for the egress rows. -/
def Cmd.eg (c : Cmd) : Bool := c.table == 0x1B

/-- A Catalogue command's count of steps. -/
def State.catNote (s : State) (c : Cmd) (steps : Nat) : State := s.wr fCAT_MOVE_STATUS_LAST_STEPS (min steps 65535) c.pipe

/-- A Catalogue command completes with its steps. -/
def State.catEnd (s : State) (c : Cmd) (steps : Nat) : State := (s.catNote c steps).complete c stOK steps

/-- The address after the last of the run of a row. -/
def State.rowRunEnd (s : State) (eg : Bool) (p a : Nat) : Nat := s.runEnd eg p (a / 512) 24 * 512

/-- The steps between addresses: rows, or pairs in a wide slice. -/
def State.rowStep (s : State) (eg : Bool) (p a : Nat) : Nat := if s.sliceWide eg p (a / 512) then 2 else 1

/-- One step of a Catalogue command: a row, or a pair of a wide slice, is copied, or written. -/
inductive CatStep where
  | copy (src dst : Nat)
  | put (dst origin : Nat) (e : List Word)
  deriving DecidableEq, Repr

/-- Does a step. -/
def State.catStep (s : State) (c : Cmd) : CatStep → State
  | .copy a b => s.putStep c.eg c.pipe b 6 (s.rowAt c.eg c.pipe a)
  | .put b o e => s.putStep c.eg c.pipe b o e

/-- Does at most `most` steps in order, until one finds a mirror queue too full (R147), with how many were done. -/
def State.catRun (s : State) (c : Cmd) (most : Nat) : List CatStep → State × Nat
  | [] => (s, 0)
  | x :: l =>
    if most = 0 ∨ s.mirShort (s.cmdNeed c) then (s, 0)
    else
      let r := (s.catStep c x).catRun c (most - 1) l
      (r.1, r.2 + 1)

/-- Does the steps of a command that are left, at most `most` of them; held on the way, it goes on where it stands with `acc` kept. After the last
it ends as `fin` says. -/
def State.catSteps (s : State) (c : Cmd) (most : Nat) (steps : List CatStep) (acc : Nat) (fin : State → State) : State :=
  let left := steps.drop c.next
  let r := s.catRun c most left
  if r.2 < left.length then r.1.holdStep c (c.next + r.2) acc else fin r.1

/-- The steps of CAT_INSERT: rows from a to the free row f move down by one place, and the entry takes row a. -/
def insertSteps (a f st origin : Nat) (e : List Word) : List CatStep :=
  ((List.range ((f - a) / st)).map fun i => .copy (f - (i + 1) * st) (f - i * st)) ++ [.put a origin e]

/-- CAT_INSERT of a checked entry, f the lowest free row from a on. -/
def State.catInsert (s : State) (c : Cmd) (most : Nat) (e : List Word) (f : Nat) : State :=
  let st := s.rowStep c.eg c.pipe c.index
  s.catSteps c most (insertSteps c.index f st c.origin e) f fun s => s.catEnd c ((f - c.index) / st + 1)

/-- The step of CAT_INSERT, of which the Clerk does at most `most` of the Catalogue's steps. A free row may still hold the bit of an edition that has
not retired, which binds what is written into it (R169). -/
def State.insertCmd (most : Nat) (s : State) (c : Cmd) : State :=
  match c.entData with
  | none => s.complete c stBAD_ARGS
  | some e =>
    let t := c.table
    let a := c.index
    if c.begun then s.catInsert c most (entClean t e) c.acc
    else if !c.catArgs || !decide (a < catSize c.eg) || !s.entWords t c.pipe a e.length || entReserved t e then s.complete c stBAD_ARGS
    else
      let e := entClean t e
      if !s.entArgs t c.pipe a e then s.complete c stBAD_ARGS
      else if s.rowFree c.eg c.pipe a then (if s.entConflict t c.pipe a e then s.complete c stCONFLICT else s.catInsert c most e a)
      else match s.nextFree c.eg c.pipe (s.rowStep c.eg c.pipe a) (s.rowRunEnd c.eg c.pipe a) a (catSize c.eg) with
        | none => s.complete c stFULL
        | some f => s.catInsert c most e f

/-- CAT_INSERT. -/
def execCatInsert (s : State) : Out := .next (s.cmdRow 0x18 true (State.insertCmd stepMost))

/-- The step of CAT_REMOVE. -/
def State.removeCmd (s : State) (c : Cmd) : CmdWrite :=
  let a := c.index
  let wide := s.sliceWide c.eg c.pipe (a / 512)
  if !c.catArgs || !decide (a < catSize c.eg) || (wide && a % 2 == 1) then (s, stBAD_ARGS, 0)
  else
    let z := zeros (if wide then 46 else 23)
    if s.entConflict c.table c.pipe a z then (s, stCONFLICT, 0)
    else ((s.putStep c.eg c.pipe a c.origin z).catNote c 1, stOK, 1)

/-- CAT_REMOVE. -/
def execCatRemove (s : State) : Out := .next (s.cmdRow 0x19 true fun s c => State.writeEnd c (s.removeCmd c))

/-- The addresses of n rows from a, in steps. -/
def rowsFrom (st a n : Nat) : List Nat := (List.range (n / st)).map fun i => a + i * st

/-- The n + k steps of a block move (R172): each row is copied to its new place in the order that keeps the rules' order, and then the k places that
the block leaves behind are invalidated as CAT_REMOVE does it. -/
def moveSteps (st a n k : Nat) (up : Bool) : List CatStep :=
  let rows := if up then rowsFrom st a n else (rowsFrom st a n).reverse
  let gone := if up then rowsFrom st (a + n - k) k else (rowsFrom st a k).reverse
  (rows.map fun r => .copy r (if up then r - k else r + k)) ++ gone.map fun r => .put r 6 (zeros (23 * st))

/-- A block moves, in pairs in a wide slice. -/
def State.moveBlock (s : State) (c : Cmd) (most st a n k : Nat) (up : Bool) : State :=
  s.catSteps c most (moveSteps st a n k up) 0 fun s => s.catEnd c ((n + k) / st)

/-- Whether CAT_MOVE_BLOCK may be done: in one run, in steps of its slices, with every row free from the block to its farthest target, since no move
passes a rule (R173; that this goes for the rows between is DEDUCED, assumption log 29). -/
def State.moveArgs (s : State) (c : Cmd) (a n k : Nat) (up : Bool) : Bool :=
  let st := s.rowStep c.eg c.pipe a
  let first := if up then a - k else a
  let last := if up then a + n else a + n + k
  n != 0 && a % st == 0 && n % st == 0 && k % st == 0 && (!up || decide (k ≤ a)) && decide (last ≤ s.rowRunEnd c.eg c.pipe first) &&
    (rowsFrom st (if up then a - k else a + n) k).all fun r => s.rowFree c.eg c.pipe r

/-- The step of CAT_MOVE_BLOCK, of which the Clerk does at most `most` of the Catalogue's steps. -/
def State.moveCmd (most : Nat) (s : State) (c : Cmd) : State :=
  let n := bitsOf (c.w 3) 13 0
  let k := bitsOf (c.w 3) 27 14
  let up := bitOf (c.w 3) 28
  let a := c.index
  if c.begun then s.moveBlock c most (s.rowStep c.eg c.pipe a) a n k up
  else if !c.catArgs || !decide (a + n ≤ catSize c.eg) || !s.moveArgs c a n k up then s.complete c stBAD_ARGS
  else if k = 0 then s.catEnd c 0
  else s.moveBlock c most (s.rowStep c.eg c.pipe a) a n k up

/-- CAT_MOVE_BLOCK. -/
def execCatMoveBlock (s : State) : Out := .next (s.cmdRow 0x1A true (State.moveCmd stepMost))

end Sys2Proof.Machine
end

