-- ==== Sys2Proof/Machine/ClerkCmds.lean ====
section
/-! DEFINITION. The Clerk's commands that are not entry, hash or Catalogue commands (R365): registers, editions, chunked work on the bridge
stores and mirrors, snapshots, counters, tack switches, patches, ports and owners. -/
namespace Sys2Proof.Machine

/-! ### Registers (R366, R367) -/

/-- NOP. -/
def execNop (s : State) : Out := .next (s.cmdRow 0x00 false fun s c => s.complete c stOK)

/-- FENCE: the Clerk takes it only once every earlier command of its ring has completed (R312, R340, R369). -/
def execFence (s : State) : Out := .next (s.cmdRow 0x01 false fun s c => s.complete c stOK)

/-- The status of a register write with an outcome (R366); PROTECTED, which R366 does not name, counts as BAD_STATE (assumption log 29). -/
def causeStatus : Option Cause → Nat
  | none => stOK
  | some .notOwner => stCONFLICT
  | some .sameRound => stCONFLICT
  | some .expertClosed => stCONFLICT
  | some _ => stBAD_ARGS

/-- REG_WRITE. An unaligned offset is refused as any unaligned access is (R327). A clock that has stopped since the step began leaves the write at its
crossing, where it is abandoned: it takes effect when the clock runs again before the crossing is reset (R367). -/
def execRegWrite (s : State) : Out :=
  .next (s.cmdRow 0x02 false fun s c =>
    let addr := c.w 2
    let late := s.clockStopped addr
    if late && !s.clerk.regOk then s.complete c stTIMEOUT
    else
      let r : Wr := if addr % 4 ≠ 0 then (s, some .badAccess) else s.regTry c.master addr (c.w 3)
      let r := Wr.logged r c.master addr (c.w 3)
      r.1.complete c (if late && r.2.isNone then stTIMEOUT else causeStatus r.2))

/-- REG_READ. A stopped clock comes before the other refusals; one that has stopped since the step began leaves the read at its crossing (R367). -/
def execRegRead (s : State) : Out :=
  .next (s.cmdRow 0x03 false fun s c =>
    let addr := c.w 2
    if s.clockStopped addr then (if s.clerk.regOk && addr % 4 == 0 then s.abandonRead c.master addr else s).complete c stTIMEOUT
    else if addr % 4 ≠ 0 then s.complete c stBAD_ARGS
    else match regAt addr with
      | none => s.complete c stBAD_ARGS
      | some a =>
        let r := s.regGet c.master a
        r.1.complete c stOK r.2.toNat)

/-! ### Editions (R209 to R211, R215) -/

/-- EDITION_OPEN. -/
def execEditionOpen (s : State) : Out :=
  .next (s.cmdRow 0x20 false fun s c =>
    let slot := !s.edNow
    if s.edState slot ≠ 0 then s.complete c stCONFLICT
    else
      let f := if slot then fCLE_ED_NUM_NUM_B else fCLE_ED_NUM_NUM_A
      ((s.wr f (bitsOf (c.w 2) 15 0)).setEdState slot 1).complete c stOK (b2n slot))

/-- The course time that a command names in its words 2 to 4 (R31, R32). -/
def Cmd.time (c : Cmd) : Option Nat := ctOfWords (c.words.getD 2 0) (c.words.getD 3 0) (c.words.getD 4 0)

/-- The first whole microsecond of course time that is at least 2 µs away (R211). -/
def State.immTime (s : State) : Nat := (s.tim.ct + ns 2000 + ns 1000 - 1) / ns 1000 * ns 1000

/-- Why an arm at T is refused by the rules that every Clerk arm shares (R54, R55): `lead` is the least time until T. Otherwise the slot. -/
def State.armSlot (s : State) (t lead : Nat) : Nat ⊕ Nat :=
  if !s.blockRuns .TIM then .inl stTIMEOUT
  else if s.tstate = 0 then .inl stNOT_ARMED
  else if t < s.tim.ct + lead then .inl stBAD_ARGS
  else match s.freeSlot with
    | none => .inl stFULL
    | some k => .inr k

/-- EDITION_ARM: its completion is posted at the switch. The order of the refusals is not stated (assumption log 29). -/
def execEditionArm (s : State) : Out :=
  .next (s.cmdRow 0x21 false fun s c =>
    let slot := !s.edNow
    if c.time.isNone then s.complete c stBAD_ARGS
    else if s.kindArmed .edition || s.ed.imm.isSome then s.complete c stEXISTS
    else if s.edState slot ≠ 1 then s.complete c stCONFLICT
    else if bitOf (c.w 5) 0 then
      let t := s.immTime
      (({ s with ed := { s.ed with imm := some (t, c) } }).setEdState slot 2).defer c
    else match c.time with
      | none => s.complete c stBAD_ARGS
      | some t =>
        match s.armSlot t (ns 2000) with
        | .inl st => s.complete c st
        | .inr k => ((s.arm ⟨k, .edition, t, 0, some c, 0⟩).setEdState slot 2).defer c)

/-- The entries of a pipeline that a sweep visits, and of all eight (R215). -/
def sweepPipe : Nat := 24673
def sweepAll : Nat := 8 * sweepPipe

/-- An entry with a slot's bit cleared in word w, whose EDA is bit b: `v` is the bit of that word that is V, which is cleared too where the
other slot's bit is 0. -/
def sweptEntry (e : List Word) (w b : Nat) (v : Option (Nat × Nat)) (slot : Bool) : List Word :=
  let mine := b + b2n slot
  let other := b + b2n (!slot)
  let e := entSet e w mine mine 0
  match v with
  | some x => if entB e w other then e else entSet e x.1 x.2 x.2 0
  | none => e

/-- The sweep of a Catalogue row; a wide pair goes in one step, at its even row. The second part counts entries changed. -/
def State.sweepRow (s : State) (origin : Nat) (eg : Bool) (p a : Nat) (slot : Bool) : State × Nat :=
  let wide := s.sliceWide eg p (a / 512)
  let one := fun (x : State × Nat) (a : Nat) =>
    let e := x.1.ent (catRows eg) p a
    if entB e 20 (1 + b2n slot) then (x.1.putRow eg p a origin (sweptEntry e 20 1 (some (20, 0)) slot), x.2 + 1) else x
  if wide then (if a % 2 = 0 then one (one (s, 0) a) (a + 1) else (s, 0)) else one (s, 0) a

/-- The sweep of one of the entries of a pipeline in R370's order, with how many entries it changed. Its mirror records carry the command's ORIGIN
(R146, R372). -/
def State.sweepOne (s : State) (origin : Nat) (slot : Bool) (k : Nat) : State × Nat :=
  let p := k / sweepPipe
  let r := k % sweepPipe
  if r < 64 then
    let e := s.ent 0x01 p r
    if entB e 6 (8 + b2n slot) then (s.writeEnt 0x01 p r origin (sweptEntry e 6 8 (some (6, 10)) slot), 1) else (s, 0)
  else if r < 12352 then s.sweepRow origin false p (r - 64) slot
  else if r < 16448 then s.sweepRow origin true p (r - 12352) slot
  else if r < 24640 then
    let i := r - 16448
    let e := s.ent 0x20 p i
    if entB e 7 (14 + b2n slot) then (s.writeEnt 0x20 p i origin (sweptEntry e 7 14 none slot), 1) else (s, 0)
  else
    let i := r - 24640
    let f := if slot then fFAR_PORT_DEF_B_V else fFAR_PORT_DEF_A_V
    if s.on f p i then (s.wr f 0 p i, 1) else (s, 0)

/-- What EDITION_RETIRE does to its slot when it begins (R209, R210): none where it completes with CONFLICT. -/
def State.retireBegin (s : State) (slot : Bool) (resume : Nat) : Option State :=
  let far := fun (t : Nat) => decide (s.tim.ct + ns 2000 ≤ t)
  match s.edState slot with
  | 1 | 6 => some (s.setEdState slot 7)
  | 7 => if resume = 0 then none else some s
  | 2 =>
    match s.tim.trigs.find? (·.kind == .edition), s.ed.imm with
    | some tr, _ => if far tr.at_ then some ((s.cancelTrig tr).setEdState slot 7) else none
    | none, some x => if far x.1 then some (s.cancelImm.setEdState slot 7) else none
    | none, none => some (s.setEdState slot 7)
  | _ => none

/-- The records that the sweep of one entry queues: two for a pair of Catalogue rows. -/
def State.retireNeed (s : State) (k : Nat) : Nat :=
  let p := k / sweepPipe
  let r := k % sweepPipe
  if 64 ≤ r ∧ r < 12352 then b2n (s.sliceWide false p ((r - 64) / 512)) + 1
  else if 12352 ≤ r ∧ r < 16448 then b2n (s.sliceWide true p ((r - 12352) / 512)) + 1
  else 1

/-- One chunk of a sweep from an index, at most `most` entries, and the end of the sweep: the slot is FREE with event FREED. -/
def State.retireChunk (s : State) (c : Cmd) (slot : Bool) (from_ most : Nat) : State :=
  let l := chunkOf sweepAll (c.w 2) from_
  let r := chunkRun State.retireNeed (fun x k =>
    let y := x.1.sweepOne c.origin slot k
    (y.1, x.2 + y.2)) (l.take most) (s, c.acc)
  let s := r.1.1
  let s := if r.2 = l.length ∧ sweepAll ≤ from_ + l.length then (s.setEdState slot 0).edEvent 0x33 slot false 0 s.tim.ct else s
  State.chunkStep c from_ l.length sweepAll ((s, r.1.2), r.2)

/-- The step of EDITION_RETIRE. A chunk that finds its slot no longer SWEEPING, since another command has ended the sweep, completes with CONFLICT
(assumption log 29). -/
def State.retireCmd (most : Nat) (s : State) (c : Cmd) : State :=
  let slot := !s.edNow
  if c.begun then (if s.edState slot = 7 then s.retireChunk c slot c.next most else s.complete c stCONFLICT)
  else if sweepAll ≤ c.w 2 then s.complete c stBAD_ARGS
  else match s.retireBegin slot (c.w 2) with
    | none => s.complete c stCONFLICT
    | some s => s.retireChunk c slot (c.w 2) most

/-- EDITION_RETIRE. -/
def execEditionRetire (s : State) : Out := .next (s.cmdRow 0x22 true (State.retireCmd stepMost))

/-! ### The bridge stores (R75, R141, R142) -/

/-- The entries of a bridge store. -/
def bridgeSize : Nat := 532480

/-- The step of AGE_SWEEP, a chunk with the rules of the timed sweep (R141, R142), of which the Clerk visits at most `most` entries; a sweep that has
visited the last entry counts as completed. -/
def State.ageCmd (hits : List Nat) (most : Nat) (s : State) (c : Cmd) : State :=
  let from_ := c.from_ (c.w 2)
  if 8 ≤ c.pipe ∨ bridgeSize ≤ from_ then s.complete c stBAD_ARGS
  else
    let n := (chunkOf bridgeSize (c.w 2) from_).length
    let r := s.sweepChunk c.pipe (c.w 2) from_ c.acc hits most
    let s := if r.2 = n ∧ bridgeSize ≤ from_ + n then r.1.1.addWrap fBRS_AGE_STATUS_SWEEPS 1 c.pipe else r.1.1
    State.chunkStep c from_ n bridgeSize ((s, r.1.2), r.2)

/-- AGE_SWEEP: a chunk of a sweep by command, in which no entry is hit in the cycle of its compare-and-delete. -/
def execAgeSweep (s : State) : Out := .next (s.cmdRow 0x28 true (State.ageCmd [] stepMost))

/-- The step of a pipeline's timed sweep, of which the Clerk visits at most `most` entries. A full mirror queue holds it where it stands (R147). -/
def State.sweepJob (s : State) (p : Nat) (hits : List Nat) (most : Nat) : State :=
  match AMap.get? s.clerk.sweeps p with
  | none => s.idle
  | some i =>
    let n := (chunkOf 532480 0 i).length
    let r := s.sweepChunk p 0 i 0 hits most
    let s := if r.2 = n then r.1.1.idle else r.1.1.stepWaits
    if 532480 ≤ i + r.2 then s.ageEnd p
    else { s with clerk := { s.clerk with sweeps := AMap.set s.clerk.sweeps p (i + r.2) } }

/-- AGE_SWEEP_CHUNK: the Clerk runs the chunk of the timed sweep that it took at its boundary. `hits` are entries hit by a lookup in the
cycle of their compare-and-delete (R142); a chunk of AGE_SWEEP with such entries is this event too (DESIGN CHOICE, assumption log 47). -/
def execAgeSweepChunk (hits : List Nat) (s : State) : Out :=
  .next (
    match s.clerk.work with
    | .sweep p => s.sweepJob p hits stepMost
    | .cmd _ => s.cmdRow 0x28 true (State.ageCmd hits stepMost)
    | _ => s)

/-- One entry of a forget (R75): a learned entry for the port is deleted, with its record, its count and its event. -/
def State.forgetEntry (port : Nat) (x : State × Nat) (i : Nat) : State × Nat :=
  let p := port / 32
  let s := x.1
  let e := s.ent 0x0C p i
  if bridgeV e && !bridgeStatic e && entF e 2 16 14 == dtPORT && entF e 2 13 0 == port then
    let s := (s.bridgeDelete p i 5).blk p (160 + 12)
    let s := if s.on fBRS_LEARN_CFG_EVT_AGE p then
      s.learnEvent 0x13 p (bridgeBd e) (bridgeMac e) 0 0 (entF e 2 16 14) (entF e 2 13 0) else s
    (s, x.2 + 1)
  else x

/-- One chunk of a forget that began at `start`, from `next` on, with the number of deletions added to `acc`; at most `most` entries. -/
def State.forgetChunk (s : State) (port start next acc most : Nat) : (State × Nat) × Nat :=
  chunkRun (fun _ _ => 1) (State.forgetEntry port) ((chunkOf bridgeSize start next).take most) (s, acc)

/-- The chunk of the forget of a port that lost its link (R74, R75), a job of the Clerk's own. -/
def State.forgetJob (s : State) (port most : Nat) : State :=
  match AMap.get? s.clerk.forgets port with
  | none => s.idle
  | some i =>
    let n := (chunkOf bridgeSize 0 i).length
    let r := s.forgetChunk port 0 i 0 most
    let s := if r.2 = n then r.1.1.idle else r.1.1.stepWaits
    let left := if bridgeSize ≤ i + r.2 then AMap.erase s.clerk.forgets port else AMap.set s.clerk.forgets port (i + r.2)
    { s with clerk := { s.clerk with forgets := left } }

/-- The step of PORT_FORGET, of which the Clerk visits at most `most` entries. -/
def State.forgetCmd (most : Nat) (s : State) (c : Cmd) : State :=
  let port := bitsOf (c.w 2) 8 0
  let from_ := c.from_ (c.w 3)
  if 256 ≤ port ∨ bridgeSize ≤ from_ then s.complete c stBAD_ARGS
  else State.chunkStep c from_ (chunkOf bridgeSize (c.w 3) from_).length bridgeSize (s.forgetChunk port (c.w 3) from_ c.acc most)

/-- PORT_FORGET: the command, or the chunk of a port that lost its link with `FORGET_ON_DOWN` set. -/
def execPortForget (s : State) : Out :=
  .next (
    match s.clerk.work with
    | .forget port => s.forgetJob port stepMost
    | _ => s.cmdRow 0x29 true (State.forgetCmd stepMost))

/-- The replica of an entry that fails its check, if one does. -/
def State.badReplica (s : State) (t p i : Nat) : Option Nat :=
  (entChecks t i).findSome? fun x =>
    (s.flt.marks.find? fun m => m.1 == x.1 && m.2.1 == tblPipe t p && m.2.2.2.1 == x.2 && (decide (t < 0x28) || m.2.2.2.2)).map
      fun m => m.2.2.1

/-- SCRUB: every entry of a table is read in every replica; a bad one is counted, reported and repaired as a read finds it (R368). -/
def execScrub (s : State) : Out :=
  .next (s.cmdRow 0x2A false fun s c =>
    let t := c.table
    let from_ := c.from_ (c.w 2)
    if !tableArgs t c.pipe from_ || decide (tblEntries t ≤ from_) || t == 0x38 || t == 0x39 then s.complete c stBAD_ARGS
    else
      let l := chunkOf (tblEntries t) (c.w 2) from_
      let r := l.foldl (fun (x : State × Nat) i =>
        match x.1.badReplica t c.pipe i with
        | some rep => (x.1.entReport t c.pipe rep i, x.2 + 1)
        | none => (x.1.entCorrect t c.pipe i, x.2)) (s, c.acc)
      r.1.chunkEnd c (from_ + l.length) (tblEntries t) r.2)

/-! ### Snapshots and counters (R289, R290) -/

/-- SNAPSHOT_AT. The order of the refusals is not stated (assumption log 29). -/
def execSnapshotAt (s : State) : Out :=
  .next (s.cmdRow 0x30 false fun s c =>
    let iv := c.w 5 + c.w 6 * 2 ^ 32
    let mask := bitsOf (c.w 7) 15 0
    match c.time with
    | none => s.complete c stBAD_ARGS
    | some t =>
      if !s.on fARC_CFG_SNAP_EN || !s.on fDRM_STATUS_READY || (iv != 0 && decide (iv < 100000)) || bitOf mask 0 then s.complete c stBAD_ARGS
      else if s.kindArmed .snapshot then s.complete c stEXISTS
      else match s.armSlot t (ns 2000) with
        | .inl st => s.complete c st
        | .inr k => ((s.arm ⟨k, .snapshot, t, iv, none, mask⟩).wr fARC_SNAP_STATUS_ARMED 1).complete c stOK k)

/-- A live counter of an element, in the layout of a snapshot section (R289, R293, R295). -/
def State.liveCounter (s : State) (set e i : Nat) : Nat :=
  if set = 15 then
    let t := fun (i : Nat) => ((s.cntRead 15 e i : Nat) : Int)
    let res := s.inside e
    if i < 5 then s.cntRead 15 e i
    else if i = 5 then res
    else if i = 6 then ((t 0 + t 1 - t 2 - t 3 - t 4 - res) % (2 ^ 64 : Nat)).toNat
    else 0
  else s.cntRead set e i

/-- Reads n elements of a set from one on, each word through its check code. -/
def State.readCounters (s : State) (set first n : Nat) : State × List Word :=
  let per := (setInfo set).2
  let places := ((List.range n).map fun e => (List.range per).map fun i => (first + e, i)).flatten
  places.foldl (fun (x : State × List Word) k =>
    let s := x.1.cntCheck set k.1 k.2
    let v := s.liveCounter set k.1 k.2
    (s, x.2 ++ [word v, word (v / 2 ^ 32)])) (s, [])

/-- COUNTER_READ. -/
def execCounterRead (s : State) : Out :=
  .next (s.cmdRow 0x31 false fun s c =>
    let set := c.table
    let x := setInfo set
    let n := c.w 3
    let bytes := n * (x.2 * 8)
    if x.1 = 0 ∨ x.1 < c.w 2 + n ∨ (if c.isTaw then 512 else 65536) < bytes then s.complete c stBAD_ARGS
    else
      let r := s.settle.readCounters set (c.w 2) n
      (r.1.giveData c r.2).complete c stOK bytes)

/-! ### Tack switches (R394, R395) -/

/-- The live fields that a tack set names. -/
def State.tackFields (s : State) (n : Nat) : List TackField := (s.fol.store.filter (·.1 == n)).map (·.2)

/-- Whether a domain of a tack set's live fields belongs to another master. -/
def State.tackForeign (s : State) (m : Master) (n : Nat) : Bool :=
  (s.tackFields n).any fun f => match regDomain f.at_ with | some d => s.owner d != 0 && s.owner d != m.owner | none => false

/-- TACK_SELECT_AT: its completion is posted at the switch. The order of the refusals is not stated (assumption log 29). -/
def execTackSelectAt (s : State) : Out :=
  .next (s.cmdRow 0x38 false fun s c =>
    let n := bitsOf (c.w 5) 2 0
    match c.time with
    | none => s.complete c stBAD_ARGS
    | some t =>
      if n = 7 ∨ !bitOf (s.rd fFOL_TACK_AVAIL_LIVE) n then s.complete c stBAD_ARGS
      else if s.tackForeign c.master n then s.complete c stCONFLICT
      else if s.kindArmed .tack then s.complete c stEXISTS
      else match s.armSlot t (ns 1000000) with
        | .inl st => s.complete c st
        | .inr k =>
          let fields := s.tackFields n
          let s := s.arm ⟨k, .tack, t, 0, some c, n⟩
          let s := ((s.wr fFOL_TACK_STATUS_ARMED 1).wr fFOL_TACK_STATUS_LOADED 0).wr fFOL_TACK_STATUS_TARGET n
          ({ s with fol := { s.fol with pend := fields } }).defer c)

/-! ### Patches (R378) -/

/-- PATCH_LOAD: the image is checked and goes to the verifier; the completion waits for the installation. -/
def execPatchLoad (s : State) : Out :=
  .next (s.cmdRow 0x3C false fun s c =>
    if c.isTaw || c.w 3 != 4 * c.data.length || !patchOk c.data then s.complete c stBAD_ARGS
    else
      let q := s.clerk.patches ++ [(⟨c, c.data, false⟩ : Patch)]
      ({ s with clerk := { s.clerk with patches := q } }).defer c)

/-- PATCH_VERIFY_DONE: the verifier has finished with the oldest image that it holds. `key` is the public key whose hash is fused (the image does not
hold it, assumption log 28). -/
def execPatchVerifyDone (key : List Word) (s : State) : Out :=
  .next (
    match s.clerk.patches.find? fun x => !x.verified with
    | none => s
    | some x =>
      let sigOk := s.patchSigOk key x.words
      let q := if sigOk then s.clerk.patches.map fun y => if y = x then { y with verified := true } else y else s.clerk.patches.erase x
      let s := { s with clerk := { s.clerk with patches := q } }
      if sigOk then s else (s.raise .CLE_PATCH_AUTH).complete x.cmd stAUTH_FAIL)

/-- PATCH_INSTALL: the step that the Clerk took for the oldest verified patch. -/
def execPatchInstall (s : State) : Out :=
  .next (
    match s.clerk.work with
    | .patch =>
      match s.clerk.patches.find? fun x => x.verified with
      | none => s.idle
      | some x =>
        let q := s.clerk.patches.erase x
        let s := { s.idle with clerk := { s.idle.clerk with patches := q } }
        (s.patchInstall x.words).complete x.cmd stOK (bitsOf (x.words.getD 1 0).toNat 31 16)
    | _ => s)

/-! ### Mirrors (R148) -/

/-- A resync by command begins: the mirror is not valid until it ends, and its background resync gives way. -/
def State.resyncBegin (s : State) (h : HostId) (resume : Nat) : State :=
  let s := s.mirStart h
  let left := s.clerk.resyncs.filter (·.1 != h)
  let s := { s with clerk := { s.clerk with resyncs := left } }
  if resume = 0 then s.pushDir h else s

/-- A chunk of a resync by command, at most `most` records. -/
def State.resyncStep (s : State) (h : HostId) (c : Cmd) (k most : Nat) : State :=
  let l := chunkOf resyncAll (c.w 3) k
  let r := State.resyncRun h (l.take most) s
  let s := if r.2 = l.length ∧ resyncAll ≤ k + r.2 then r.1.resyncOver h else r.1
  State.chunkStep c k l.length resyncAll ((s, c.acc + r.2), r.2)

/-- The step of MIRROR_RESYNC. Its index counts the entries of every table in the order of the mirror; a mirror that is lost on the way ends it with
TIMEOUT (assumption log 29). -/
def State.resyncCmd (most : Nat) (s : State) (c : Cmd) : State :=
  let h : HostId := if bitOf (c.w 2) 0 then .b else .a
  if !s.on (mirEn h) || decide (resyncAll ≤ c.from_ (c.w 3)) then s.complete c stBAD_ARGS
  else if c.begun then (if (s.mirQ h).running then s.resyncStep h c c.next most else s.complete c stTIMEOUT)
  else (s.resyncBegin h (c.w 3)).resyncStep h c (c.w 3) most

/-- MIRROR_RESYNC. -/
def execMirrorResync (s : State) : Out := .next (s.cmdRow 0x3D true (State.resyncCmd stepMost))

/-! ### Ports and owners (R64, R72, R353) -/

/-- PORT_ADMIN: `ADMIN`, and `FORGET_ON_DOWN` where the command says so, as a write of the port's register does (R72). -/
def execPortAdmin (s : State) : Out :=
  .next (s.cmdRow 0x3E false fun s c =>
    let port := bitsOf (c.w 2) 8 0
    let on := bitOf (c.w 2) 9
    if !s.portExists port then s.complete c stBAD_ARGS
    else
      let was := s.prt fPRT_CFG_ADMIN port == 1
      let s := if bitOf (c.w 2) 11 then s.setPrt fPRT_CFG_FORGET_ON_DOWN port (b2n (bitOf (c.w 2) 10)) else s
      let s := s.setPrt fPRT_CFG_ADMIN port (b2n on)
      let s := if was = on then s else s.adminSet port on
      s.complete c stOK (s.portState port))

/-- CLAIM_DOMAIN. -/
def execClaimDomain (s : State) : Out :=
  .next (s.cmdRow 0x3F false fun s c => s.claim c)

/-! ### The Clerk stops (R371, R377) -/

/-- What a command that writes one entry has written when the Clerk stops within it. -/
def State.oneCut (s : State) (c : Cmd) : State :=
  match c.opcode with
  | 0x10 => (s.entryWriteCmd c).1
  | 0x12 => (s.entryDeleteCmd c).1
  | 0x13 => (s.hashInsertCmd c).1
  | 0x15 => (s.hashDeleteCmd c).1
  | 0x19 => (s.removeCmd c).1
  | _ => s

/-- The step of a command of many writes, of which the Clerk does at most `most`. -/
def manyCmd (op most : Nat) : Option (State → Cmd → State) :=
  match op with
  | 0x18 => some (State.insertCmd most)
  | 0x1A => some (State.moveCmd most)
  | 0x22 => some (State.retireCmd most)
  | 0x28 => some (State.ageCmd [] most)
  | 0x29 => some (State.forgetCmd most)
  | 0x3D => some (State.resyncCmd most)
  | _ => none

/-- What the step in progress has done when the Clerk stops after `done` of its table writes: they stand (R173, R377). -/
def State.stopCut (s : State) (done : Nat) : State :=
  match s.clerk.work with
  | .cmd c =>
    if done = 0 || (!c.begun && (s.cmdStop c).isSome) || s.mirShort (s.cmdNeed c) then s
    else match manyCmd c.opcode done with
      | some f =>
        let t := f s.idle c
        if t.clerk.work = .idle then s else t
      | none => s.oneCut c
  | .sweep p => if done = 0 then s else s.sweepJob p [] done
  | .forget port => if done = 0 then s else s.forgetJob port done
  | .resync h => if done = 0 then s else s.resyncJob h done
  | _ => s

/-- CLERK_STOP: the control-store word at an address cannot be corrected, and the Clerk stops at once. The step in progress has made `done` of its
table writes, or visited `done` of a chunk's entries, where it has more than that to do (assumption log 29). -/
def execClerkStop (stop : CsStop) (s : State) : Out :=
  .next (if s.clerk.stopped then s else (s.stopCut stop.done).csStop stop.addr)

end Sys2Proof.Machine
end

