-- ==== Sys2Proof/Machine/Package.lean ====
section
/-! DEFINITION. The package (R433 to R437): the grid, the names of its rows, the signal or supply of each ball, and each signal's type,
supply and state at reset. It is fixed; no command changes it. -/
namespace Sys2Proof.Machine

/-! ### Grid and lettering (R433, R434) -/

/-- Whether a position of the 76 by 76 grid carries a ball: all but a square in each corner and one in the centre (R433). -/
def hasBall (row col : Nat) : Bool :=
  let edge := fun (n : Nat) => decide (n ≤ 6) || decide (71 ≤ n)
  let centre := fun (n : Nat) => decide (37 ≤ n) && decide (n ≤ 40)
  decide (1 ≤ row) && decide (row ≤ 76) && decide (1 ≤ col) && decide (col ≤ 76) && !(edge row && edge col) && !(centre row && centre col)

/-- The letters that name rows (R434). -/
def rowLetters : List String := ["A", "B", "C", "D", "E", "F", "G", "H", "J", "K", "L", "M", "N", "P", "T", "U", "V", "W", "Y"]

/-- The name of a row: rows 1 to 19 take single letters, and each further 19 rows a first letter of their own (R434). -/
def rowName (row : Nat) : String :=
  let n := row - 1
  let last := rowLetters.getD (n % 19) ""
  if n < 19 then last else rowLetters.getD (n / 19 - 1) "" ++ last

/-- The name of a ball. -/
def ballName (row col : Nat) : String := rowName row ++ toString col

/-! ### Signals and supplies (R435, R437) -/

/-- What a ball carries. A lane, pair, bus or channel index stands beside the name; a subchannel is (channel, subchannel). -/
inductive Ball where
  | sdTxp (n : Nat) | sdTxn (n : Nat) | sdRxp (n : Nat) | sdRxn (n : Nat)
  | sdRefclkP (p : Nat) | sdRefclkN (p : Nat) | vddaSd | vddhSd
  | peTxp (l : Nat) | peTxn (l : Nat) | peRxp (l : Nat) | peRxn (l : Nat)
  | peRefclkP (h : Nat) | peRefclkN (h : Nat) | pePerstN (h : Nat) | peClkreqN (h : Nat) | peWakeN (h : Nat) | vddPe08 | vddPe12
  | ddrDq (c sub i : Nat) | ddrCb (c sub i : Nat) | ddrDqsP (c sub i : Nat) | ddrDqsN (c sub i : Nat) | ddrCa (c sub i : Nat)
  | ddrCsN (c sub i : Nat) | ddrCkP (c sub : Nat) | ddrCkN (c sub : Nat) | ddrAlertN (c sub : Nat) | ddrResetN (c : Nat) | vddqDdr
  | timeRefP | timeRefN | synceClkP (j : Nat) | synceClkN (j : Nat) | ppsIn | ppsOut | todRx | todTx | timeGpio (i : Nat)
  | flSck | flDs | flCsN (i : Nat) | flIo (i : Nat) | flResetN
  | mgScl | mgSda | mgAlertN | intN | gpio (i : Nat) | faultOutN | faultInN
  | tackSel (i : Nat) | hostMode (i : Nat) | bootSrc | sysResetN | pwrgood | refMgmt | tdP | tdN
  | tck | trstN | jtagSel | tms | tdi | tdo
  | vddAon | vddio | vfuse | vdd | vss | rsvd (i : Nat)
  deriving DecidableEq, Repr

/-- The groups of R435, in its order. -/
inductive BallGroup where
  | serdesData | serdesRefclk | serdesSupply | pcieData | pcieRefclk | pcieSideband | pcieSupply | ddrSignal | ddrVddq | time
  | management | jtag | coreVdd | vddAon | vddio | vfuse | vss | reserved
  deriving DecidableEq, Repr

/-- The group of a ball (R435). -/
def Ball.group : Ball → BallGroup
  | .sdTxp _ | .sdTxn _ | .sdRxp _ | .sdRxn _ => .serdesData
  | .sdRefclkP _ | .sdRefclkN _ => .serdesRefclk
  | .vddaSd | .vddhSd => .serdesSupply
  | .peTxp _ | .peTxn _ | .peRxp _ | .peRxn _ => .pcieData
  | .peRefclkP _ | .peRefclkN _ => .pcieRefclk
  | .pePerstN _ | .peClkreqN _ | .peWakeN _ => .pcieSideband
  | .vddPe08 | .vddPe12 => .pcieSupply
  | .ddrDq _ _ _ | .ddrCb _ _ _ | .ddrDqsP _ _ _ | .ddrDqsN _ _ _ | .ddrCa _ _ _ | .ddrCsN _ _ _ | .ddrCkP _ _ | .ddrCkN _ _
  | .ddrAlertN _ _ | .ddrResetN _ => .ddrSignal
  | .vddqDdr => .ddrVddq
  | .timeRefP | .timeRefN | .synceClkP _ | .synceClkN _ | .ppsIn | .ppsOut | .todRx | .todTx | .timeGpio _ => .time
  | .flSck | .flDs | .flCsN _ | .flIo _ | .flResetN | .mgScl | .mgSda | .mgAlertN | .intN | .gpio _ | .faultOutN | .faultInN
  | .tackSel _ | .hostMode _ | .bootSrc | .sysResetN | .pwrgood | .refMgmt | .tdP | .tdN => .management
  | .tck | .trstN | .jtagSel | .tms | .tdi | .tdo => .jtag
  | .vdd => .coreVdd
  | .vddAon => .vddAon
  | .vddio => .vddio
  | .vfuse => .vfuse
  | .vss => .vss
  | .rsvd _ => .reserved

/-- The type codes of R437, and supplies. -/
inductive BallType where
  | diffIn | diffOut | input | output | bidir | openDrain | openDrainIn | analogue | noConnect | supply
  deriving DecidableEq, Repr

/-- The type of a ball's signal (R437). -/
def Ball.ty : Ball → BallType
  | .sdTxp _ | .sdTxn _ | .peTxp _ | .peTxn _ | .synceClkP _ | .synceClkN _ => .diffOut
  | .sdRxp _ | .sdRxn _ | .sdRefclkP _ | .sdRefclkN _ | .peRxp _ | .peRxn _ | .peRefclkP _ | .peRefclkN _ | .timeRefP | .timeRefN => .diffIn
  | .ddrDq _ _ _ | .ddrCb _ _ _ | .ddrDqsP _ _ _ | .ddrDqsN _ _ _ | .timeGpio _ | .flIo _ | .gpio _ => .bidir
  | .ddrCa _ _ _ | .ddrCsN _ _ _ | .ddrCkP _ _ | .ddrCkN _ _ | .ddrResetN _ | .ppsOut | .todTx | .flSck | .flCsN _ | .flResetN | .tdo => .output
  | .ddrAlertN _ _ | .ppsIn | .todRx | .flDs | .faultInN | .tackSel _ | .hostMode _ | .bootSrc | .sysResetN | .pwrgood | .refMgmt
  | .pePerstN _ | .tck | .trstN | .jtagSel | .tms | .tdi => .input
  | .mgScl | .mgSda => .openDrainIn
  | .mgAlertN | .intN | .faultOutN | .peClkreqN _ | .peWakeN _ => .openDrain
  | .tdP | .tdN => .analogue
  | .rsvd _ => .noConnect
  | .vddaSd | .vddhSd | .vddPe08 | .vddPe12 | .vddqDdr | .vddAon | .vddio | .vfuse | .vdd | .vss => .supply

/-- The supplies that a signal stands on (R437); none for the thermal diode, the reserved balls and the supplies themselves. -/
def Ball.supplies : Ball → List Ball
  | .sdTxp _ | .sdTxn _ => [.vddaSd, .vddhSd]
  | .sdRxp _ | .sdRxn _ => [.vddaSd]
  | .sdRefclkP _ | .sdRefclkN _ => [.vddhSd]
  | .peTxp _ | .peTxn _ => [.vddPe08, .vddPe12]
  | .peRxp _ | .peRxn _ => [.vddPe08]
  | .peRefclkP _ | .peRefclkN _ => [.vddPe12]
  | .ddrDq _ _ _ | .ddrCb _ _ _ | .ddrDqsP _ _ _ | .ddrDqsN _ _ _ | .ddrCa _ _ _ | .ddrCsN _ _ _ | .ddrCkP _ _ | .ddrCkN _ _
  | .ddrAlertN _ _ | .ddrResetN _ => [.vddqDdr]
  | .timeRefP | .timeRefN | .synceClkP _ | .synceClkN _ | .ppsIn | .ppsOut | .todRx | .todTx | .timeGpio _ | .flSck | .flDs | .flCsN _
  | .flIo _ | .flResetN | .mgScl | .mgSda | .mgAlertN | .intN | .gpio _ | .faultOutN | .faultInN | .tackSel _ | .hostMode _ | .bootSrc
  | .sysResetN | .pwrgood | .refMgmt | .pePerstN _ | .peClkreqN _ | .peWakeN _ | .tck | .trstN | .jtagSel | .tms | .tdi | .tdo => [.vddio]
  | .tdP | .tdN | .rsvd _ | .vddaSd | .vddhSd | .vddPe08 | .vddPe12 | .vddqDdr | .vddAon | .vddio | .vfuse | .vdd | .vss => []

/-- The states of a signal from the rise of its supply until its block configures it (R437). -/
inductive BallReset where
  | electricalIdle | terminated | asInput | highZ | low | high | released | squelchedLow | notApplicable
  deriving DecidableEq, Repr

/-- The state of a signal at reset (R437). `FAULT_OUT_N` and `FL_RESET_N` stay low until the boot state that their rows name. -/
def Ball.atReset : Ball → BallReset
  | .sdTxp _ | .sdTxn _ | .peTxp _ | .peTxn _ => .electricalIdle
  | .sdRxp _ | .sdRxn _ | .sdRefclkP _ | .sdRefclkN _ | .peRxp _ | .peRxn _ => .terminated
  | .peRefclkP _ | .peRefclkN _ | .ddrAlertN _ _ | .timeRefP | .timeRefN | .ppsIn | .todRx | .flDs | .gpio _ | .faultInN | .tackSel _
  | .hostMode _ | .bootSrc | .sysResetN | .pwrgood | .refMgmt | .pePerstN _ | .tck | .trstN | .jtagSel | .tms | .tdi => .asInput
  | .ddrDq _ _ _ | .ddrCb _ _ _ | .ddrDqsP _ _ _ | .ddrDqsN _ _ _ | .ddrCa _ _ _ | .ddrCsN _ _ _ | .ddrCkP _ _ | .ddrCkN _ _
  | .timeGpio _ | .flIo _ | .tdo => .highZ
  | .ddrResetN _ | .ppsOut | .flSck | .flResetN | .faultOutN => .low
  | .todTx | .flCsN _ => .high
  | .mgScl | .mgSda | .mgAlertN | .intN | .peClkreqN _ | .peWakeN _ => .released
  | .synceClkP _ | .synceClkN _ => .squelchedLow
  | .tdP | .tdN | .rsvd _ | .vddaSd | .vddhSd | .vddPe08 | .vddPe12 | .vddqDdr | .vddAon | .vddio | .vfuse | .vdd | .vss => .notApplicable

/-- The resistors that the EF9 itself puts on a signal, of 50 kΩ (R437). -/
inductive Pull where
  | none | up | down
  deriving DecidableEq, Repr

/-- The pull of a signal (R437). A `GPIO` has its pull-down in its reset state, as an input. -/
def Ball.pull : Ball → Pull
  | .flDs | .gpio _ | .tck | .trstN | .jtagSel => .down
  | .flIo _ | .tms | .tdi => .up
  | _ => .none

/-- What the board does with a signal that it does not use (R437). -/
inductive Unused where
  | open_ | openWhenLanesOff | openWhenEndpointOff | openWhenChannelOff | openInQuad | openSecond | openOrVss | vss | vss10k | vddio10k
  | pullUp4k7 | neverUnused | mustBeOpen | notStated
  deriving DecidableEq, Repr

/-- The treatment of a signal when unused (R437); none for a supply. `FL_CS_N[1]` alone may be left open, and of `FL_IO` the upper four. -/
def Ball.unused : Ball → Option Unused
  | .sdTxp _ | .sdTxn _ | .sdRxp _ | .sdRxn _ | .timeRefP | .timeRefN | .synceClkP _ | .synceClkN _ | .ppsOut | .todTx | .flResetN | .mgAlertN
  | .intN | .gpio _ | .peClkreqN _ | .peWakeN _ | .tdP | .tdN | .tms | .tdi | .tdo => some .open_
  | .peTxp _ | .peTxn _ | .peRxp _ | .peRxn _ => some .openWhenLanesOff
  | .peRefclkP _ | .peRefclkN _ => some .openWhenEndpointOff
  | .ddrDq _ _ _ | .ddrCb _ _ _ | .ddrDqsP _ _ _ | .ddrDqsN _ _ _ | .ddrCa _ _ _ | .ddrCsN _ _ _ | .ddrCkP _ _ | .ddrCkN _ _
  | .ddrAlertN _ _ | .ddrResetN _ => some .openWhenChannelOff
  | .flDs => some .openInQuad
  | .flIo i => some (if 4 ≤ i then .openInQuad else .notStated)
  | .flCsN i => some (if i = 1 then .openSecond else .notStated)
  | .flSck => some .notStated
  | .tck | .trstN | .jtagSel => some .openOrVss
  | .pePerstN _ => some .vss
  | .ppsIn | .timeGpio _ => some .vss10k
  | .todRx | .faultInN => some .vddio10k
  | .mgScl | .mgSda | .faultOutN => some .pullUp4k7
  | .sdRefclkP _ | .sdRefclkN _ | .tackSel _ | .hostMode _ | .bootSrc | .sysResetN | .pwrgood | .refMgmt => some .neverUnused
  | .rsvd _ => some .mustBeOpen
  | .vddaSd | .vddhSd | .vddPe08 | .vddPe12 | .vddqDdr | .vddAon | .vddio | .vfuse | .vdd | .vss => none

/-- Whether a ball has an IEEE 1149.6 cell: those of the SerDes and PCIe data lanes (R438). -/
def Ball.acCell : Ball → Bool
  | .sdTxp _ | .sdTxn _ | .sdRxp _ | .sdRxn _ | .peTxp _ | .peTxn _ | .peRxp _ | .peRxn _ => true
  | _ => false

/-! ### Contents of the regions (R436) -/

/-- n times one supply. -/
def supplyOf (n : Nat) (b : Ball) : List Ball := List.replicate n b

/-- The bits of a bus, from 0 upward. -/
def busOf (n : Nat) (f : Nat → Ball) : List Ball := (List.range n).map f

/-- The contents of chiplet p's region. -/
def chipletBalls (p : Nat) : List Ball :=
  ((List.range 32).flatMap fun i => let n := 32 * p + i; [.sdTxp n, .sdTxn n, .sdRxp n, .sdRxn n]) ++ [.sdRefclkP p, .sdRefclkN p] ++
    supplyOf 32 .vddaSd ++ supplyOf 16 .vddhSd

/-- The 79 balls of a DDR5 subchannel. -/
def subchBalls (c u : Nat) : List Ball :=
  busOf 32 (.ddrDq c u) ++ busOf 8 (.ddrCb c u) ++ ((List.range 10).flatMap fun i => [.ddrDqsP c u i, .ddrDqsN c u i]) ++
    busOf 14 (.ddrCa c u) ++ busOf 2 (.ddrCsN c u) ++ [.ddrCkP c u, .ddrCkN c u, .ddrAlertN c u]

/-- The contents of a DDR5 channel's region. -/
def channelBalls (c : Nat) : List Ball := subchBalls c 0 ++ subchBalls c 1 ++ [.ddrResetN c] ++ supplyOf 40 .vddqDdr

/-- The contents of the PCIe region. -/
def pcieBalls : List Ball :=
  ((List.range 16).flatMap fun l => [.peTxp l, .peTxn l, .peRxp l, .peRxn l]) ++
    ((List.range 2).flatMap fun h => [.peRefclkP h, .peRefclkN h]) ++ busOf 2 .pePerstN ++ busOf 2 .peClkreqN ++ busOf 2 .peWakeN ++
    supplyOf 32 .vddPe08 ++ supplyOf 16 .vddPe12

/-- The contents of the management region. R435 counts three balls of I2C/SMBus and nineteen of GPIO and fault: `INT_N` is taken as the
first of the latter (DEDUCED, assumption log 39). -/
def managementBalls : List Ball :=
  [.timeRefP, .timeRefN, .synceClkP 0, .synceClkN 0, .synceClkP 1, .synceClkN 1, .ppsIn, .ppsOut, .todRx, .todTx, .timeGpio 0, .timeGpio 1] ++
    [.flSck, .flDs, .flCsN 0, .flCsN 1] ++ busOf 8 .flIo ++ [.flResetN] ++ [.mgScl, .mgSda, .mgAlertN] ++
    [.intN] ++ busOf 16 .gpio ++ [.faultOutN, .faultInN] ++ busOf 3 .tackSel ++ busOf 2 .hostMode ++ [.bootSrc] ++
    [.sysResetN, .pwrgood, .refMgmt] ++ [.tdP, .tdN] ++ [.tck, .trstN, .jtagSel, .tms, .tdi, .tdo] ++
    supplyOf 8 .vddAon ++ supplyOf 12 .vddio ++ supplyOf 2 .vfuse ++ busOf 24 .rsvd

/-! ### The regions and their order of fill (R436) -/

/-- The orders in which a region's positions are taken. -/
inductive Fill where
  | top | bottom | left | right
  deriving DecidableEq, Repr

/-- The numbers from a to b. -/
def spanOf (a b : Nat) : List Nat := (List.range (b + 1 - a)).map (a + ·)

/-- The positions of a region in its order, those without a ball skipped. -/
def fillOf (f : Fill) (r0 r1 c0 c1 : Nat) : List (Nat × Nat) :=
  let rows := spanOf r0 r1
  let cols := spanOf c0 c1
  (match f with
    | .top => rows.flatMap fun r => cols.map fun c => (r, c)
    | .bottom => rows.reverse.flatMap fun r => cols.map fun c => (r, c)
    | .left => cols.flatMap fun c => rows.map fun r => (r, c)
    | .right => cols.reverse.flatMap fun c => rows.map fun r => (r, c)).filter fun x => hasBall x.1 x.2

/-- The balls that the contents of the regions take. -/
def ballMap : List ((Nat × Nat) × Ball) :=
  ((List.range 4).flatMap fun q => (fillOf .top 1 12 (7 + 16 * q) (22 + 16 * q)).zip (chipletBalls q)) ++
  ((List.range 4).flatMap fun q => (fillOf .bottom 65 76 (7 + 16 * q) (22 + 16 * q)).zip (chipletBalls (4 + q))) ++
  (fillOf .left 13 38 1 12).zip (channelBalls 0) ++ (fillOf .left 39 64 1 12).zip (channelBalls 1) ++
  (fillOf .right 13 38 65 76).zip (channelBalls 2) ++ (fillOf .right 39 64 65 76).zip (channelBalls 3) ++
  (fillOf .top 13 24 13 28).zip pcieBalls ++ (fillOf .top 13 24 49 64).zip managementBalls ++
  ((fillOf .top 25 64 13 64).filter fun x => (x.1 + x.2) % 2 == 0).zip (supplyOf 980 .vdd)

/-- What the ball at a position carries: what its region gives it, otherwise VSS; none where there is no ball. -/
def ballAt (row col : Nat) : Option Ball :=
  if hasBall row col then some (((ballMap.find? fun x => x.1 == (row, col)).map (·.2)).getD .vss) else none

/-- The positions of the grid that carry a ball. -/
def allBalls : List (Nat × Nat) := fillOf .top 1 76 1 76

end Sys2Proof.Machine
end

