-- ==== Sys2Proof/Machine/Pins.lean ====
section
/-! DEFINITION. What the balls carry in a state (R437, R438, R441): the levels that the EF9 drives, the boundary-scan cells that replace them, and the
balls of each lane. -/
namespace Sys2Proof.Machine

/-- The line of a message on `TOD_TX` (R45: a start bit 0, eight bits from the least significant, a stop bit 1): its i-th bit, and the idle level
before and after it. -/
def todLine (bytes : List Byte) (i : Nat) : Bool :=
  match bytes[i / 10]? with
  | none => true
  | some b => if i % 10 = 0 then false else if i % 10 = 9 then true else bitOf b.toNat (i % 10 - 1)

/-- The bit of `TDO` (R437, R438): the i-th that the operation in progress shifts out, and high impedance outside the Shift-DR and Shift-IR states. -/
def State.tdoPin (s : State) (shifting : Option Nat) : Option Bool := shifting.bind fun i => s.pin.tdo[i]?

/-- The level that the function of a signal drives on its ball between commands; none where it is released, an input, or no level (R405, R437). -/
def State.level (s : State) : Ball → Option Bool
  | .ppsOut => some s.tim.ppsOut
  | .todTx => some true
  | .timeGpio i => if s.rd fTIM_GPIO_CFG_MODE 0 i = 2 then some (AMap.get? s.tim.gpioOut i).isSome else none
  | .flSck => some false
  | .flCsN _ => some true
  | .flResetN => some s.flResetN
  | .ddrResetN c => some (s.ddrResetN c)
  | .mgAlertN => if s.hst.alertN then none else some false
  | .intN => if s.hst.intN then none else some false
  | .gpio i => AMap.get? s.pin.gpio i
  | .faultOutN => if s.pin.faultOut then some false else none
  | .peClkreqN h => if s.clkreqN (if h = 0 then .a else .b) then none else some false
  | _ => none

/-- The level on a ball, with the boundary-scan cells of an EXTEST in the place of the ball's function (R438): the DC form drives every ball but the
AC-coupled lanes, which the form of IEEE 1149.6 drives. -/
def State.ballLevel (s : State) (row col : Nat) : Option Bool :=
  match ballAt row col with
  | none => none
  | some b =>
    match s.pin.jtagSel, s.pin.jtagOp with
    | false, some (.extest ac _ drive) =>
      if b.acCell && !ac then none else (drive.find? fun d => d.1 == row && d.2.1 == col).map (·.2.2)
    | _, _ => s.level b

/-- The pair of balls to which a logical transmit lane goes, the true signal first (R65, R441). -/
def State.txPair (s : State) (lane : Nat) : Ball × Ball :=
  let r := s.txRoute lane
  if r.2 then (.sdTxn r.1, .sdTxp r.1) else (.sdTxp r.1, .sdTxn r.1)

/-- The pair of balls from which a logical lane receives. -/
def State.rxPair (s : State) (lane : Nat) : Ball × Ball :=
  let l := s.rxRoute lane
  if s.on fPRT_LANE_CFG_RX_INVERT (lane / 32) (lane % 32) then (.sdRxn l, .sdRxp l) else (.sdRxp l, .sdRxn l)

end Sys2Proof.Machine
end

