-- ==== Sys2Proof/Machine/RegRows.lean ====
section
/-! DEFINITION. The rows that are a register access: writes and reads of BAR0 and BAR2 (R326, R327), expert gates (R9, R10), the requests
that a write of one register makes, and the sideband's transactions (R356, R459). -/
namespace Sys2Proof.Machine

/-! ### Data of a request -/

/-- The data of a write that leaves a register's fields as they are: its word, without the bits that a 1 would clear. -/
def State.same (s : State) (r : Reg) (p i j : Nat := 0) : Nat :=
  (s.rg r p i j).toNat &&& (2 ^ 32 - 1 - r.desc.accMask .w1c)

/-- A write of a master that changes one field of a register and leaves the others. -/
def State.fieldWrite (s : State) (m : Master) (f : Fld) (v : Nat) (p i j : Nat := 0) : State :=
  (s.regWrite m (f.reg.addr p i j) (setBits (s.same f.reg p i j) f.hi f.lo v)).1

/-- A write of a master of a register's whole word. -/
def State.wordWrite (s : State) (m : Master) (r : Reg) (data : Nat) (p i j : Nat := 0) : State := (s.regWrite m (r.addr p i j) data).1

/-! ### Any register (R5 to R11, R327) -/

/-- A write to an address of BAR2 outside its structures is logged (R468). The offset that the log holds is stated for BAR0 only: a free value
(assumption log 3). -/
def State.bar2Bad (s : State) (m : Master) (data : Word) : State :=
  let f := s.takeFree
  f.2.reject m .badAccess f.1.toNat data

/-- A master's write to BAR2 (R327, R468): a doorbell page, or the MSI-X table. The pending bits take no write. A doorbell page of the other host
takes none at all; elsewhere a write that is not one of 32 bits acts on nothing, and is logged where it reaches no structure. -/
def State.bar2Write (s : State) (m : Master) (addr : Nat) (single : Bool) (data : Word) : State :=
  if !s.hears m then s else
  let go := fun (h : HostId) =>
    if addr < 0x40000 then
      (if addr % 0x1000 = 0 ∧ single then s.doorbellWrite h (addr / 0x1000) data
       else if (chanHost (addr / 0x1000)).1 ≠ h then s.doorbellWrite h (addr / 0x1000) data
       else if addr % 0x1000 < 4 then s
       else s.bar2Bad m data)
    else if addr < 0x41000 then (if addr % 4 = 0 ∧ single then s.msixWrite h ((addr - 0x40000) / 4) data else s)
    else if addr < 0x41020 then s
    else s.bar2Bad m data
  match m with
  | .a => go .a
  | .b => go .b
  | .sb => s

/-- REGISTER_WRITE (R11, R327): `single` is whether the access is one of 32 bits. -/
def execRegisterWrite (m : Master) (bar : Bar) (addr : Nat) (single : Bool) (data : Word) (s : State) : Out :=
  .next (
    if !s.hears m then s else
    match bar with
    | .bar0 =>
      if !single || addr % 4 != 0 then s.reject m .badAccess addr data
      else (s.regWrite m addr data.toNat).1
    | .bar2 => s.bar2Write m addr single data)

/-- A host's read of BAR2: the doorbell it last wrote, the MSI-X table, the pending bits. -/
def State.bar2Read (s : State) (m : Master) (addr : Nat) : Option Word :=
  let go := fun (h : HostId) =>
    if addr < 0x40000 then (if addr % 0x1000 = 0 then AMap.getD s.hst.doorbell (h, addr / 0x1000) 0 else 0)
    else if addr < 0x41000 then AMap.getD s.hst.msix (h, (addr - 0x40000) / 4) (if addr % 16 = 12 then 1 else 0)
    else if 0x41020 ≤ addr then 0
    else
      let n := (addr - 0x41000) * 8
      word (((List.range 32).map fun i => if n + i ∈ s.pbaOf h then 2 ^ i else 0).sum)
  match m with
  | .a => some (go .a)
  | .b => some (go .b)
  | .sb => none

/-- A read of BAR0 by a master, with its data or its wait. -/
def State.readTo (s : State) (m : Master) (addr : Nat) : State :=
  if !s.hears m then s else
  match s.regRead m addr with
  | (s, some w) => s.answer m (some w)
  | (s, none) => { s with hst := { s.hst with readData := AMap.erase s.hst.readData m } }

/-- LATCHED_WORD_READ (R7, R327): a read of a register, which for the first word of a longer value latches the others. -/
def execLatchedWordRead (m : Master) (bar : Bar) (addr : Nat) (single : Bool) (s : State) : Out :=
  .next (
    if !s.hears m then s else
    match bar with
    | .bar0 => if !single || addr % 4 != 0 then s.answer m none else s.readTo m addr
    | .bar2 => s.answer m (s.bar2Read m addr))

/-- TS_FIFO_READ (R83): a read of word 0 of a port's two-step timestamp FIFO. -/
def execTsFifoRead (m : Master) (port : Nat) (s : State) : Out := .next (s.readTo m (Reg.PRT_TS_FIFO.addr (port / 32) (port % 32)))

/-- REJECT_LOG_READ (R354): a read of word 0 of the reject log. -/
def execRejectLogRead (m : Master) (s : State) : Out := .next (s.readTo m Reg.HST_REJECT_LOG.addr)

/-- Whether a register holds a high-water or low-water mark that a write restarts. -/
def isMark : Reg → Bool
  | .STB_POOL_LOW | .STB_SLIP_LOW | .KST_OVF_COUNT | .BRS_OVF_COUNT | .BRS_LEARN_STATUS | .FAR_STATUS | .RAT_POWER | .CLE_GAP_MAX | .CKR_XSTATUS => true
  | _ => false

/-- WATERMARK_RESET (R118): a write of a register with such a mark. At any other address the row does nothing. -/
def execWatermarkReset (m : Master) (addr : Nat) (data : Word) (s : State) : Out :=
  .next (
    match regAt addr with
    | some a => if isMark a.reg then (s.regWrite m addr data.toNat).1 else s
    | none => s)

/-! ### Expert gates (R9, R10) -/

/-- EXPERT_GATE_WRITE: a write of a block's expert gate. At any other address the row does nothing. -/
def execExpertGateWrite (m : Master) (addr : Nat) (key : Nat) (s : State) : Out :=
  .next (
    match regAt addr with
    | some a => if isGate a.reg then (s.regWrite m addr key).1 else s
    | none => s)

/-- EXPERT_GATE_EXPIRE (R10): the gates whose millisecond has passed lapse. -/
def execExpertGateExpire (s : State) : Out :=
  let left := s.hst.gates.filter fun g => decide (s.tim.now < g.2.2 + gateTime)
  .next { s with hst := { s.hst with gates := left } }

/-! ### Course time (R46, R52, R55) -/

/-- SET_NOW. -/
def execSetNow (m : Master) (s : State) : Out := .next (s.wordWrite m .TIM_CTRL 1)

/-- SET_AT_PPS. -/
def execSetAtPps (m : Master) (s : State) : Out := .next (s.wordWrite m .TIM_CTRL 2)

/-- STEP. -/
def execStep (m : Master) (s : State) : Out := .next (s.wordWrite m .TIM_CTRL 4)

/-- CLEAR. -/
def execClear (m : Master) (s : State) : Out := .next (s.wordWrite m .TIM_CTRL 8)

/-- TIM_FREQ_WRITE: the write of the upper word requests the change. -/
def execTimFreqWrite (m : Master) (data : Word) (s : State) : Out := .next (s.wordWrite m .TIM_FREQ_HI data.toNat)

/-- RUN_NOW. -/
def execRunNow (m : Master) (s : State) : Out := .next (s.fieldWrite m fTIM_CAL_CTRL_RUN_NOW 1)

/-- TRIGGER_ARM: `ARM` = 1 with a kind. -/
def execTriggerArm (m : Master) (slot kind : Nat) (s : State) : Out := .next (s.wordWrite m .TIM_TRIG_CTRL (256 + kind % 16) 0 slot)

/-- TRIGGER_CANCEL: `ARM` = 0. -/
def execTriggerCancel (m : Master) (slot : Nat) (s : State) : Out := .next (s.fieldWrite m fTIM_TRIG_CTRL_ARM 0 0 slot)

/-! ### Ports (R66, R72) -/

/-- OCTET_MODE_APPLY: `data` is the word, written with APPLY. -/
def execOctetModeApply (m : Master) (o : Nat) (data : Word) (s : State) : Out :=
  .next (s.wordWrite m .PRT_OCT_MODE (setBits data.toNat 31 31 1) (o / 4) (o % 4))

/-- ADMIN_WRITE. -/
def execAdminWrite (m : Master) (port : Nat) (on : Bool) (s : State) : Out :=
  .next (s.fieldWrite m fPRT_CFG_ADMIN (b2n on) (port / 32) (port % 32))

/-! ### Mirror, Stable, Archive, archive memory -/

/-- MIRROR_ENABLE (R144). -/
def execMirrorEnable (m : Master) (enA enB : Bool) (s : State) : Out :=
  .next (s.wordWrite m .CLE_MIRROR_CFG (setBits (s.same .CLE_MIRROR_CFG) 1 0 (b2n enA + 2 * b2n enB)))

/-- STABLE_ENABLE (R222). -/
def execStableEnable (m : Master) (s : State) : Out := .next (s.fieldWrite m fSTB_CFG_EN 1)

/-- STABLE_READY (R222): the free lists are built; every stall of each pool is free. -/
def execStableReady (s : State) : Out :=
  .next (
    if s.on fSTB_CFG_EN && !s.on fSTB_STATUS_READY then
      let s := s.wr fSTB_STATUS_READY 1
      (List.range 4).foldl (fun s k =>
        let n := s.rd fSTB_POOL_COUNT_COUNT 0 k
        (s.wr fSTB_POOL_FREE_FREE n 0 k).wr fSTB_POOL_LOW_LOW n 0 k) s
    else s)

/-- SNAP_DISABLE (R290). -/
def execSnapDisable (m : Master) (s : State) : Out := .next (s.fieldWrite m fARC_CFG_SNAP_EN 0)

/-- FLOW_FLUSH (R299). -/
def execFlowFlush (m : Master) (p : Nat) (s : State) : Out := .next (s.fieldWrite m fPAR_FLOW_CFG_EN 0 p)

/-- CAPTURE_STOP (R302). -/
def execCaptureStop (m : Master) (s : State) : Out := .next (s.fieldWrite m fARC_CAP_CFG_STOP 1)

/-- CAPTURE_REARM (R302). -/
def execCaptureRearm (m : Master) (s : State) : Out := .next (s.fieldWrite m fARC_CAP_CFG_REARM 1)

/-- DRAM_TRAIN_START (R316). -/
def execDramTrainStart (m : Master) (s : State) : Out := .next (s.fieldWrite m fDRM_CFG_EN 1)

/-! ### Channels, pools, ownership -/

/-- CHANNEL_ENABLE (R331). -/
def execChannelEnable (m : Master) (c : Nat) (s : State) : Out := .next (s.fieldWrite m fHST_CH_CFG_EN 1 0 c)

/-- CHANNEL_STOP (R337). -/
def execChannelStop (m : Master) (c : Nat) (s : State) : Out := .next (s.fieldWrite m fHST_CH_CFG_EN 0 0 c)

/-- POOL_DISABLE (R342): pool k of the two hosts' eight. -/
def execPoolDisable (m : Master) (k : Nat) (s : State) : Out := .next (s.fieldWrite m fHST_POOL_CFG_EN 0 0 k)

/-- OWNER_CAS (R353). -/
def execOwnerCas (m : Master) (data : Word) (s : State) : Out := .next (s.wordWrite m .GEN_OWNER_CAS data.toNat)

/-! ### The Clerk, the Folio, resets and faults -/

/-- HALT_REQUEST (R371). -/
def execHaltRequest (m : Master) (on : Bool) (s : State) : Out := .next (s.fieldWrite m fCLE_CTRL_HALT (b2n on))

/-- TAW_GO (R373): a master submits its own window. -/
def execTawGo (m : Master) (s : State) : Out := .next (s.wordWrite m .CLE_TAW_CTRL 1 0 m.num)

/-- FLASH_OP (R392): a write of `FOL_FL_CTRL` with GO. -/
def execFlashOp (m : Master) (cs op : Nat) (s : State) : Out := .next (s.wordWrite m .FOL_FL_CTRL (2 ^ 31 + cs % 2 * 2 ^ 9 + op % 4))

/-- OTP_PROGRAM (R383): a write of `FOL_OTP_PROG` with GO; `vfuse` is whether VFUSE is at 1.8 V. -/
def execOtpProgram (m : Master) (bit : Nat) (vfuse : Bool) (s : State) : Out :=
  let s := { s with pin := { s.pin with vfuse := vfuse } }
  .next (s.wordWrite m .FOL_OTP_PROG (2 ^ 31 + bit % 4096))

/-- WARM_RESET (R429): a write of `CKR_RESET` with `WARM` and a key. -/
def execWarmReset (m : Master) (key : Nat) (s : State) : Out := .next (s.wordWrite m .CKR_RESET (256 + key % 256))

/-- DOMAIN_CLEAR (R413). -/
def execDomainClear (m : Master) (domain : Nat) (s : State) : Out := .next (s.wordWrite m .FLT_DOM_CLEAR (domain % 65536))

/-- FAULT_FORCE (R416): a write of word j of `FLT_FORCE`. -/
def execFaultForce (m : Master) (j : Nat) (data : Word) (s : State) : Out := .next (s.wordWrite m .FLT_FORCE data.toNat 0 j)

/-- ERROR_INJECT (R417): a write of `FLT_INJECT` with GO. -/
def execErrorInject (m : Master) (data : Word) (s : State) : Out := .next (s.wordWrite m .FLT_INJECT (setBits data.toNat 31 31 1))

/-- CLOCK_STOP (R422). -/
def execClockStop (m : Master) (data : Word) (s : State) : Out := .next (s.wordWrite m .CKR_STOP data.toNat)

/-- CROSSING_RESET (R427). -/
def execCrossingReset (m : Master) (data : Word) (s : State) : Out := .next (s.wordWrite m .CKR_XRESET data.toNat)

/-- CHIPLET_RESET (R430). -/
def execChipletReset (m : Master) (data : Word) (s : State) : Out := .next (s.wordWrite m .CKR_CHIPLET_RESET data.toNat)

/-! ### The sideband (R356, R459) -/

/-- Whether bytes address the target. -/
def State.sbMine (s : State) (addr7 : Nat) : Bool := addr7 == s.rd fHST_SB_CFG_ADDR

/-- The address byte of a transaction on the bus. -/
def sbByte (addr7 : Nat) (reads : Bool) : Byte := byte (addr7 * 2 + b2n reads)

/-- A number of bytes sent low byte first. -/
def lowFirst (bs : List Byte) : Nat := bytesNat bs.reverse

/-- A transaction is refused: not acknowledged, and counted. -/
def State.sbRefuse (s : State) : State := { s with hst := { s.hst with sbAck := false, sbBad := s.hst.sbBad + 1 } }

/-- SIDEBAND_WRITE: the bytes after the address byte, the PEC with them where the controller sends one. -/
def execSidebandWrite (addr7 : Nat) (bytes : List Byte) (s : State) : Out :=
  .next (
    if !s.sbMine addr7 then { s with hst := { s.hst with sbAck := false } }
    else
      let body := bytes.take 9
      let pec := match bytes.drop 9 with
        | [] => !s.on fHST_SB_CFG_PEC_REQ
        | [b] => b.toNat == crc8 (sbByte addr7 false :: body)
        | _ => false
      if body.length < 9 ∨ body.head? ≠ some (byte 1) ∨ !pec then s.sbRefuse
      else
        let s := (s.regWrite .sb (lowFirst ((body.drop 1).take 4)) (lowFirst (body.drop 5))).1
        { s with hst := { s.hst with sbAck := true } })

/-- The bytes that a sideband read returns: its data and the PEC over the whole transaction. -/
def sbReply (addr7 : Nat) (bytes : List Byte) (w : Word) : List Byte :=
  let d := wordBytes w
  d ++ [byte (crc8 (sbByte addr7 false :: bytes ++ sbByte addr7 true :: d))]

/-- SIDEBAND_READ: the five bytes after the address byte. A read that waits at a stopped clock returns nothing until its crossing is reset. -/
def execSidebandRead (addr7 : Nat) (bytes : List Byte) (s : State) : Out :=
  .next (
    if !s.sbMine addr7 then { s with hst := { s.hst with sbAck := false } }
    else if bytes.length ≠ 5 ∨ bytes.head? ≠ some (byte 2) then s.sbRefuse
    else
      let addr := lowFirst (bytes.drop 1)
      if addr % 4 ≠ 0 then { s with hst := { s.hst with sbAck := true, sbTx := sbReply addr7 bytes 0 } }
      else
        match s.regRead .sb addr with
        | (s, some w) =>
          let s := s.answer .sb (some w)
          { s with hst := { s.hst with sbAck := true, sbTx := sbReply addr7 bytes w } }
        | (s, none) =>
          { s with hst := { s.hst with sbAck := true, sbTx := [], readData := AMap.erase s.hst.readData .sb } })

/-- ALERT_RESPONSE: a read of the Alert Response Address. With the alert asserted the EF9 answers with its own address, and releases the
line. -/
def execAlertResponse (s : State) : Out :=
  .next (
    if s.hst.alertN then { s with hst := { s.hst with sbAck := false } }
    else { s with hst := { s.hst with sbAck := true, alertN := true, sbTx := [sbByte (s.rd fHST_SB_CFG_ADDR) false] } })

/-- SIDEBAND_TIMEOUT (R459): SCL has been low for more than 35 ms; the transaction is abandoned and counted as a bad one. -/
def execSidebandTimeout (s : State) : Out := .next { s.sbRefuse with hst := { s.sbRefuse.hst with sbTx := [] } }

end Sys2Proof.Machine
end

