-- ==== Sys2Proof/Machine/Dispatch.lean ====
section
/-! DEFINITION. The dispatcher: one arm for each command, in the order of the opcode table. -/
namespace Sys2Proof.Machine

/-- The effect of a command on everything but the queue. -/
def exec (i : Instr) (s : State) : Host.Outcome State Fault Refusal :=
  match i with
  | .expertGateWrite m addr key => Sys2Proof.Machine.execExpertGateWrite m addr key s
  | .expertGateExpire => Sys2Proof.Machine.execExpertGateExpire s
  | .registerWrite m bar addr single data => Sys2Proof.Machine.execRegisterWrite m bar addr single data s
  | .latchedWordRead m bar addr single => Sys2Proof.Machine.execLatchedWordRead m bar addr single s
  | .tsFifoRead m port => Sys2Proof.Machine.execTsFifoRead m port s
  | .rejectLogRead m => Sys2Proof.Machine.execRejectLogRead m s
  | .watermarkReset m addr data => Sys2Proof.Machine.execWatermarkReset m addr data s
  | .frameRxStart port phase head => Sys2Proof.Machine.execFrameRxStart port phase head s
  | .ingressSlotAssign p => Sys2Proof.Machine.execIngressSlotAssign p s
  | .frameRxEnd port tail fecBad pcsErr => Sys2Proof.Machine.execFrameRxEnd port tail fecBad pcsErr s
  | .stallOverrun port bytes => Sys2Proof.Machine.execStallOverrun port bytes s
  | .pauseFrameRx port phase frame fecBad => Sys2Proof.Machine.execPauseFrameRx port phase frame fecBad s
  | .pauseExpire port prio => Sys2Proof.Machine.execPauseExpire port prio s
  | .slipLink p => Sys2Proof.Machine.execSlipLink p s
  | .harnessSelect port => Sys2Proof.Machine.execHarnessSelect port s
  | .egressSlotAssign p => Sys2Proof.Machine.execEgressSlotAssign p s
  | .frameTxStart port phase => Sys2Proof.Machine.execFrameTxStart port phase s
  | .frameTxEnd port => Sys2Proof.Machine.execFrameTxEnd port s
  | .recircFifoEnter p => Sys2Proof.Machine.execRecircFifoEnter p s
  | .pauseFrameTx port => Sys2Proof.Machine.execPauseFrameTx port s
  | .pauseRepeat port prio => Sys2Proof.Machine.execPauseRepeat port prio s
  | .pfcStormDeclare port prio => Sys2Proof.Machine.execPfcStormDeclare port prio s
  | .pfcStormEnd port prio => Sys2Proof.Machine.execPfcStormEnd port prio s
  | .walkFree port n => Sys2Proof.Machine.execWalkFree port n s
  | .walkEnd port => Sys2Proof.Machine.execWalkEnd port s
  | .gateTransition port => Sys2Proof.Machine.execGateTransition port s
  | .octetModeApply m o data => Sys2Proof.Machine.execOctetModeApply m o data s
  | .octetReady o => Sys2Proof.Machine.execOctetReady o s
  | .adminWrite m port on => Sys2Proof.Machine.execAdminWrite m port on s
  | .anResolve port outcome taps => Sys2Proof.Machine.execAnResolve port outcome taps s
  | .linkRawRise port => Sys2Proof.Machine.execLinkRawRise port s
  | .linkRawFall port lane cause => Sys2Proof.Machine.execLinkRawFall port lane cause s
  | .holdUpExpire port => Sys2Proof.Machine.execHoldUpExpire port s
  | .downHoldExpire port => Sys2Proof.Machine.execDownHoldExpire port s
  | .refQualify => Sys2Proof.Machine.execRefQualify s
  | .refDisqualify => Sys2Proof.Machine.execRefDisqualify s
  | .ppsInEdge phase => Sys2Proof.Machine.execPpsInEdge phase s
  | .ppsEdgeValidate stayed => Sys2Proof.Machine.execPpsEdgeValidate stayed s
  | .ppsLoss => Sys2Proof.Machine.execPpsLoss s
  | .tclkUnlock => Sys2Proof.Machine.execTclkUnlock s
  | .setNow m => Sys2Proof.Machine.execSetNow m s
  | .setAtPps m => Sys2Proof.Machine.execSetAtPps m s
  | .step m => Sys2Proof.Machine.execStep m s
  | .clear m => Sys2Proof.Machine.execClear m s
  | .timFreqWrite m data => Sys2Proof.Machine.execTimFreqWrite m data s
  | .courseTimeApply => Sys2Proof.Machine.execCourseTimeApply s
  | .setAtPpsTimeout => Sys2Proof.Machine.execSetAtPpsTimeout s
  | .todMessageRx bytes => Sys2Proof.Machine.execTodMessageRx bytes s
  | .todRxTimeout => Sys2Proof.Machine.execTodRxTimeout s
  | .ppsOutRise => Sys2Proof.Machine.execPpsOutRise s
  | .ppsOutFall => Sys2Proof.Machine.execPpsOutFall s
  | .todTxSend => Sys2Proof.Machine.execTodTxSend s
  | .calibrationRun p => Sys2Proof.Machine.execCalibrationRun p s
  | .runNow m => Sys2Proof.Machine.execRunNow m s
  | .calibrationComplete p result => Sys2Proof.Machine.execCalibrationComplete p result s
  | .calibrationTimeout p => Sys2Proof.Machine.execCalibrationTimeout p s
  | .triggerArm m slot kind => Sys2Proof.Machine.execTriggerArm m slot kind s
  | .triggerCancel m slot => Sys2Proof.Machine.execTriggerCancel m slot s
  | .triggerFire slot => Sys2Proof.Machine.execTriggerFire slot s
  | .gpioCapture k phase => Sys2Proof.Machine.execGpioCapture k phase s
  | .synceFailover j => Sys2Proof.Machine.execSynceFailover j s
  | .readerScrub p => Sys2Proof.Machine.execReaderScrub p s
  | .overflowScrub unit => Sys2Proof.Machine.execOverflowScrub unit s
  | .bucketScrub unit => Sys2Proof.Machine.execBucketScrub unit s
  | .catScrub p => Sys2Proof.Machine.execCatScrub p s
  | .farScrub p => Sys2Proof.Machine.execFarScrub p s
  | .learnInsert p => Sys2Proof.Machine.execLearnInsert p s
  | .ageSweepStart p => Sys2Proof.Machine.execAgeSweepStart p s
  | .ageSweepChunk hits => Sys2Proof.Machine.execAgeSweepChunk hits s
  | .mirrorEnable m enA enB => Sys2Proof.Machine.execMirrorEnable m enA enB s
  | .mirrorWrite h => Sys2Proof.Machine.execMirrorWrite h s
  | .mirrorStall h => Sys2Proof.Machine.execMirrorStall h s
  | .resyncChunk => Sys2Proof.Machine.execResyncChunk s
  | .repairReadIssue => Sys2Proof.Machine.execRepairReadIssue s
  | .repairRecordReturn tag r ws => Sys2Proof.Machine.execRepairRecordReturn tag r ws s
  | .repairWrite => Sys2Proof.Machine.execRepairWrite s
  | .fenceTimeout tag p => Sys2Proof.Machine.execFenceTimeout tag p s
  | .drainTimeout slot => Sys2Proof.Machine.execDrainTimeout slot s
  | .editionDrained slot => Sys2Proof.Machine.execEditionDrained slot s
  | .edStuck slot => Sys2Proof.Machine.execEdStuck slot s
  | .stableEnable m => Sys2Proof.Machine.execStableEnable m s
  | .stableReady => Sys2Proof.Machine.execStableReady s
  | .powerSample rails => Sys2Proof.Machine.execPowerSample rails s
  | .rationPeriodEnd temps => Sys2Proof.Machine.execRationPeriodEnd temps s
  | .allowanceLoad => Sys2Proof.Machine.execAllowanceLoad s
  | .monitorFail => Sys2Proof.Machine.execMonitorFail s
  | .snapshotScanStart => Sys2Proof.Machine.execSnapshotScanStart s
  | .snapshotComplete => Sys2Proof.Machine.execSnapshotComplete s
  | .snapDisable m => Sys2Proof.Machine.execSnapDisable m s
  | .counterRestore set elem idx => Sys2Proof.Machine.execCounterRestore set elem idx s
  | .flowSweep p => Sys2Proof.Machine.execFlowSweep p s
  | .flowFlush m p => Sys2Proof.Machine.execFlowFlush m p s
  | .captureStop m => Sys2Proof.Machine.execCaptureStop m s
  | .captureRearm m => Sys2Proof.Machine.execCaptureRearm m s
  | .captureDeliver => Sys2Proof.Machine.execCaptureDeliver s
  | .dramTrainStart m => Sys2Proof.Machine.execDramTrainStart m s
  | .dramTrainDone fails => Sys2Proof.Machine.execDramTrainDone fails s
  | .dramRequest req write addr data enables => Sys2Proof.Machine.execDramRequest req write addr data enables s
  | .dramSchedule u ecc => Sys2Proof.Machine.execDramSchedule u ecc s
  | .dramRefresh u => Sys2Proof.Machine.execDramRefresh u s
  | .mr4Poll u twice => Sys2Proof.Machine.execMr4Poll u twice s
  | .zqCalibration u => Sys2Proof.Machine.execZqCalibration u s
  | .dqsRetrain u moved => Sys2Proof.Machine.execDqsRetrain u moved s
  | .patrolScrub ecc => Sys2Proof.Machine.execPatrolScrub ecc s
  | .alertReplay u place failing => Sys2Proof.Machine.execAlertReplay u place failing s
  | .hostLost h why => Sys2Proof.Machine.execHostLost h why s
  | .perstRelease h => Sys2Proof.Machine.execPerstRelease h s
  | .doorbellWrite h c v => Sys2Proof.Machine.execDoorbellWrite h c v s
  | .commandFetch h pr ws r data => Sys2Proof.Machine.execCommandFetch h pr ws r data s
  | .completionWrite h pr => Sys2Proof.Machine.execCompletionWrite h pr s
  | .eventWrite h => Sys2Proof.Machine.execEventWrite h s
  | .puntDeliver h => Sys2Proof.Machine.execPuntDeliver h s
  | .injectFrame h j d r frame => Sys2Proof.Machine.execInjectFrame h j d r frame s
  | .exportWrite h j ecc => Sys2Proof.Machine.execExportWrite h j ecc s
  | .bulkTransfer h j d r data ecc => Sys2Proof.Machine.execBulkTransfer h j d r data ecc s
  | .bufferPost h entries => Sys2Proof.Machine.execBufferPost h entries s
  | .msixModTimeout c => Sys2Proof.Machine.execMsixModTimeout c s
  | .channelEnable m c => Sys2Proof.Machine.execChannelEnable m c s
  | .channelStop m c => Sys2Proof.Machine.execChannelStop m c s
  | .poolDisable m k => Sys2Proof.Machine.execPoolDisable m k s
  | .ownerCas m data => Sys2Proof.Machine.execOwnerCas m data s
  | .sidebandWrite addr7 bytes => Sys2Proof.Machine.execSidebandWrite addr7 bytes s
  | .sidebandRead addr7 bytes => Sys2Proof.Machine.execSidebandRead addr7 bytes s
  | .alertResponse => Sys2Proof.Machine.execAlertResponse s
  | .sidebandTimeout => Sys2Proof.Machine.execSidebandTimeout s
  | .dmaReadTimeout h => Sys2Proof.Machine.execDmaReadTimeout h s
  | .clerkBoundary conds => Sys2Proof.Machine.execClerkBoundary conds s
  | .nop => Sys2Proof.Machine.execNop s
  | .fence => Sys2Proof.Machine.execFence s
  | .regWrite => Sys2Proof.Machine.execRegWrite s
  | .regRead => Sys2Proof.Machine.execRegRead s
  | .entryWrite => Sys2Proof.Machine.execEntryWrite s
  | .entryRead => Sys2Proof.Machine.execEntryRead s
  | .entryDelete => Sys2Proof.Machine.execEntryDelete s
  | .hashInsert => Sys2Proof.Machine.execHashInsert s
  | .hashLookup => Sys2Proof.Machine.execHashLookup s
  | .hashDelete => Sys2Proof.Machine.execHashDelete s
  | .catInsert => Sys2Proof.Machine.execCatInsert s
  | .catRemove => Sys2Proof.Machine.execCatRemove s
  | .catMoveBlock => Sys2Proof.Machine.execCatMoveBlock s
  | .editionOpen => Sys2Proof.Machine.execEditionOpen s
  | .editionArm => Sys2Proof.Machine.execEditionArm s
  | .editionRetire => Sys2Proof.Machine.execEditionRetire s
  | .ageSweep => Sys2Proof.Machine.execAgeSweep s
  | .portForget => Sys2Proof.Machine.execPortForget s
  | .scrub => Sys2Proof.Machine.execScrub s
  | .snapshotAt => Sys2Proof.Machine.execSnapshotAt s
  | .counterRead => Sys2Proof.Machine.execCounterRead s
  | .tackSelectAt => Sys2Proof.Machine.execTackSelectAt s
  | .tackPendingLoad => Sys2Proof.Machine.execTackPendingLoad s
  | .patchLoad => Sys2Proof.Machine.execPatchLoad s
  | .patchVerifyDone key => Sys2Proof.Machine.execPatchVerifyDone key s
  | .patchInstall => Sys2Proof.Machine.execPatchInstall s
  | .mirrorResync => Sys2Proof.Machine.execMirrorResync s
  | .portAdmin => Sys2Proof.Machine.execPortAdmin s
  | .claimDomain => Sys2Proof.Machine.execClaimDomain s
  | .haltRequest m on => Sys2Proof.Machine.execHaltRequest m on s
  | .clerkStop stop => Sys2Proof.Machine.execClerkStop stop s
  | .tawGo m => Sys2Proof.Machine.execTawGo m s
  | .stepOverrun => Sys2Proof.Machine.execStepOverrun s
  | .coldReset pwrgood => Sys2Proof.Machine.execColdReset pwrgood s
  | .resetRelease tackSel hostMode bootSrc => Sys2Proof.Machine.execResetRelease tackSel hostMode bootSrc s
  | .bootFusesDone fuses vdd => Sys2Proof.Machine.execBootFusesDone fuses vdd s
  | .bootHeadersRead size second headA headB => Sys2Proof.Machine.execBootHeadersRead size second headA headB s
  | .bootVerifyDone copy again => Sys2Proof.Machine.execBootVerifyDone copy again s
  | .bootApplyRecord => Sys2Proof.Machine.execBootApplyRecord s
  | .bootWaitDone => Sys2Proof.Machine.execBootWaitDone s
  | .bootApplyEnd again => Sys2Proof.Machine.execBootApplyEnd again s
  | .flashOp m cs op => Sys2Proof.Machine.execFlashOp m cs op s
  | .flashOpDone ok_ data => Sys2Proof.Machine.execFlashOpDone ok_ data s
  | .otpProgram m bit vfuse => Sys2Proof.Machine.execOtpProgram m bit vfuse s
  | .otpProgramDone => Sys2Proof.Machine.execOtpProgramDone s
  | .warmReset m key => Sys2Proof.Machine.execWarmReset m key s
  | .warmResetRelease => Sys2Proof.Machine.execWarmResetRelease s
  | .faultEvent slot => Sys2Proof.Machine.execFaultEvent slot s
  | .quietPeriodEnd id => Sys2Proof.Machine.execQuietPeriodEnd id s
  | .domainClear m domain => Sys2Proof.Machine.execDomainClear m domain s
  | .faultInChange k high => Sys2Proof.Machine.execFaultInChange k high s
  | .faultForce m j data => Sys2Proof.Machine.execFaultForce m j data s
  | .errorInject m data => Sys2Proof.Machine.execErrorInject m data s
  | .refMgmtLoss => Sys2Proof.Machine.execRefMgmtLoss s
  | .refMgmtRecover => Sys2Proof.Machine.execRefMgmtRecover s
  | .clockStop m data => Sys2Proof.Machine.execClockStop m data s
  | .clockStopped k => Sys2Proof.Machine.execClockStopped k s
  | .clockStart k => Sys2Proof.Machine.execClockStart k s
  | .crossingHung x => Sys2Proof.Machine.execCrossingHung x s
  | .crossingReset m data => Sys2Proof.Machine.execCrossingReset m data s
  | .chipletReset m data => Sys2Proof.Machine.execChipletReset m data s
  | .d2dLinkUp p => Sys2Proof.Machine.execD2dLinkUp p s
  | .d2dFlitError p corrected lanes => Sys2Proof.Machine.execD2dFlitError p corrected lanes s
  | .d2dRetrain p => Sys2Proof.Machine.execD2dRetrain p s
  | .cclkPllUnlock => Sys2Proof.Machine.execCclkPllUnlock s
  | .serdesPllUnlock p => Sys2Proof.Machine.execSerdesPllUnlock p s
  | .hostLinkReturn h speed width flit => Sys2Proof.Machine.execHostLinkReturn h speed width flit s
  | .tclkPllLock => Sys2Proof.Machine.execTclkPllLock s
  | .pllRelock which => Sys2Proof.Machine.execPllRelock which s
  | .dclkPllUnlock => Sys2Proof.Machine.execDclkPllUnlock s
  | .d2dLinkPllUnlock p => Sys2Proof.Machine.execD2dLinkPllUnlock p s
  | .monitorRecover => Sys2Proof.Machine.execMonitorRecover s
  | .gpioPulseEnd k => Sys2Proof.Machine.execGpioPulseEnd k s
  | .fecCodewordDecode port syms uncorr => Sys2Proof.Machine.execFecCodewordDecode port syms uncorr s
  | .pcieLinkError h e => Sys2Proof.Machine.execPcieLinkError h e s
  | .jtagInstruction sel op => Sys2Proof.Machine.execJtagInstruction sel op s

end Sys2Proof.Machine
end

