-- ==== Sys2Proof/Machine/Step.lean ====
section
/-! DEFINITION. The step of the block: it takes the command at the front of its queue, or lets one cycle of TCLK pass. -/
namespace Sys2Proof.Machine

/-- One step. With commands waiting, the one at the front is executed with the rest of the queue left. On an empty queue one cycle of TCLK
passes: course time and the running count advance by the frequency word (R33, R34; DESIGN CHOICE, assumption log 31). -/
def step (s : State) : Host.Outcome State Fault Refusal :=
  match s.pending with
  | [] => .next s.tick
  | c :: rest => exec c { s with pending := rest }

/-- The state with the command that a word spells at the front of its queue. -/
def State.withFetchWord (s : State) (nbits w : Nat) : State :=
  match Sys2Proof.decodeTableWord nbits w with
  | some c => { s with pending := c :: s.pending }
  | none => s

end Sys2Proof.Machine
end

