-- ==== Sys2Proof/Safety.lean ====
section
/-! DEFINITION. What counts as a safe step, and the words in which claims are made: that a command completes, and which register fields it
leaves as they were. -/
namespace Sys2Proof.Machine

/-- A step that is safe: it answers a next state. A fault or a refusal is not one. -/
def SafeStep (s : State) : Prop := ∃ t, step s = .next t

/-- What every state of the machine must keep: archive memory in its canonical form (R308). -/
def State.Inv (s : State) : Prop := Memory.wf s.arc.mem

/-- A command completes: `exec` answers a next state, and that state is as `P` says. -/
def Gives (c : Instr) (s : State) (P : State → Prop) : Prop := ∃ t, exec c s = .next t ∧ P t

/-- A field that lies within its 32-bit register. -/
abbrev Fld.ok (f : Fld) : Prop := f.hi < 32 ∧ f.lo ≤ f.hi

/-- A field of a register at its index values. -/
structure FldAt where
  fld : Fld
  p : Nat
  i : Nat
  j : Nat
  k : Nat
  deriving DecidableEq, Repr

/-- A field at index values. -/
def Fld.loc (f : Fld) (p i j k : Nat := 0) : FldAt := ⟨f, p, i, j, k⟩

/-- A whole register at index values. -/
def Reg.loc (r : Reg) (p i j k : Nat := 0) : FldAt := ⟨⟨r, 31, 0⟩, p, i, j, k⟩

/-- Two fields that share no bit: another register, another index, or other bits of one word. -/
abbrev FldAt.apart (x g : FldAt) : Prop :=
  g.fld.reg ≠ x.fld.reg ∨ g.fld.hi < x.fld.lo ∨ x.fld.hi < g.fld.lo ∨ ¬(g.p = x.p ∧ g.i = x.i ∧ g.j = x.j ∧ g.k = x.k)

/-- The value of a field at its index values. -/
def State.val (s : State) (g : FldAt) : Nat := s.rd g.fld g.p g.i g.j g.k

/-- Every register field that shares no bit with the listed ones reads in `t` as in `s`: the frame of the registers. -/
def SameBits (s t : State) (ex : List FldAt) : Prop := ∀ g : FldAt, g.fld.ok → (∀ x ∈ ex, x.apart g) → t.val g = s.val g

/-- A master's write of a register passes: the master is there (R324), the sideband's window holds the register (R356), the arbiter refuses
nothing (R352, R355, R380), and the clock of the register's block runs (R426). -/
abbrev State.passes (s : State) (m : Master) (r : Reg) (p i j k : Nat := 0) : Prop :=
  s.hears m = true ∧
  (m = .sb → inWindow (r.addr p i j k) false = true) ∧ s.arbitrate m ⟨r, p, i, j, k⟩ (r.addr p i j k) = none ∧
    s.blockRuns r.desc.block = true

/-- A saturating field one event later: one more, or its largest value. -/
def State.satUp (s : State) (f : Fld) (p i j k : Nat := 0) : Nat := min (2 ^ (f.hi + 1 - f.lo) - 1) (s.rd f p i j k + 1)

/-- The front-panel frame x takes the first ingress slot of pipeline p and its course through the ingress half is the ordinary one: no table is
marked bad, its layout's lookups give l, no entry of its source is found and its bridge domain learns nothing, r is the result chosen, an existing
port, and the row at address a is the one ingress Catalogue row that matches. -/
def State.arrives (s : State) (p a : Nat) (x : RxFrame) (kv : List Byte) (l : Look) (r : Chosen) : Prop :=
  let f := x.ing 0
  let lay := s.ent 0x02 p (s.readerDecide f).layout
  let pn := entF lay 35 8 5
  p < 8 ∧ s.fwd.rx = [x] ∧ x.port / 32 = p ∧ x.ready = true ∧ x.ended = true ∧ s.loop p = [] ∧ s.injq p = [] ∧
  s.flt.marks = [] ∧ s.flt.nextMarks = [] ∧ s.lrn.repairs = [] ∧ s.edState x.ed ≠ 5 ∧
  (s.readerDecide f).out = .fwd kv ∧ s.lookReads f kv (entF lay 35 4 0) = .inr l ∧ l.failedReads = [] ∧
  s.on fBRS_LEARN_CFG_SA_CHECK p = false ∧ l.sa.hit = false ∧ entB l.bdE 0 30 = false ∧
  s.choose p l = .inr r ∧ r.rein = none ∧ resDt r.r = dtPORT ∧ resDest r.r < 256 ∧ s.portExists (resDest r.r) = true ∧
  (∀ key, s.catSearch false p (entF lay 34 7 0) (entB (s.ent 0x18 p pn) 16 0) x.ed key = (some a, none))

/-- The copy c waits alone for the egress half of pipeline p, its frame's length is known, no table is marked bad and no fence is open, and the row at
address a is the one egress Catalogue row that matches. -/
def State.emerges (s : State) (p a : Nat) (c : EgCopy) (st : Stall) : Prop :=
  let pn := entF (s.ent 0x02 p st.layout) 35 8 5
  AMap.getD s.fwd.sel p [] = [c] ∧ s.frameOf c.slip = some st ∧ st.lf.isSome = true ∧ st.done = true ∧ c.slip.skip = false ∧ c.slip.direct = false ∧
  c.slip.repair = none ∧ 0 < st.refs ∧ s.flt.marks = [] ∧ s.flt.nextMarks = [] ∧ s.lrn.repairs = [] ∧ s.heldEgOf p = [] ∧
  (∀ key, s.catSearch true p (s.egressTag p c.slip st) (entB (s.ent 0x19 p pn) 16 0) st.ed key = (some a, none))

/-- The copy c is the next of an UP port and nothing keeps its first bit: no frame is in transmission, no pause frame is due, its frame is good and no
word of it is marked bad. -/
def State.txGoes (s : State) (port : Nat) (c : EgCopy) (rest : List EgCopy) (st : Stall) : Prop :=
  port < 256 ∧ AMap.getD s.ports.txWait port [] = c :: rest ∧ s.portState port = psUP ∧ AMap.get? s.ports.txNow port = none ∧
  s.frameOf c.slip = some st ∧ st.bad = false ∧ 0 < st.refs ∧ c.slip.cls < 8 ∧ s.pauseFirst port = false ∧ s.flt.marks = [] ∧ s.flt.nextMarks = []

/-- An access of a master is counted and logged with a cause, its offset and data and the course time, or lost when 16 entries are held (R354). -/
def Logged (s t : State) (m : Master) (c : Cause) (addr : Nat) (data : Word) : Prop :=
  t.rd fHST_REJECT_COUNT_COUNT 0 m.num = s.satUp fHST_REJECT_COUNT_COUNT 0 m.num ∧
    (s.hst.rejects.length < 16 → t.hst.rejLost = false ∧ t.hst.rejects = s.hst.rejects ++
      [[word (2 ^ 31 + b2n s.hst.rejLost * 2 ^ 30 + m.owner * 2 ^ 28 + c.code * 2 ^ 24), word addr, data] ++ ctWords s.tim.ct]) ∧
    (16 ≤ s.hst.rejects.length → t.hst.rejLost = true ∧ t.hst.rejects = s.hst.rejects)

/-- A refused access of a master, from `s` to `t` (R354): it is logged, and nothing else changes but the arbiter's round. -/
def Rejected (s t : State) (m : Master) (c : Cause) (addr : Nat) (data : Word) : Prop :=
  Logged s t m c addr data ∧ t.hst = { s.hst with rejects := t.hst.rejects, rejLost := t.hst.rejLost, round := t.hst.round } ∧
    t = { s with regs := t.regs, hst := t.hst } ∧ SameBits s t [fHST_REJECT_COUNT_COUNT.loc 0 m.num]

/-- A fault event enters the collector's crossing: some event of the kind's source slot waits there (R401). -/
def Raised (t : State) (k : FKind) (x : Nat := 0) : Prop := ∃ c ∈ t.flt.crossing, c.slot = slotOf k x

/-- Registers over every block that take a write with no rule on their values and nothing done beside their fields. -/
def plainRegs : List Reg :=
  [.GEN_STRAPS, .TIM_PPS_DELAY, .TIM_FREQ_LO, .TIM_CAL_STATUS, .TIM_CHIPLET_ASYM, .HST_SB_CFG, .HST_PUNT_MAP, .CLE_CTRL, .FOL_WARM_TACK,
   .FOL_OTP_POLICY, .FOL_FL_ADDR, .FLT_HOST_INT, .FLT_DOM_SEL, .RAT_CFG, .RAT_AVS, .CKR_XCFG, .DRM_TIMING_ADJ, .ARC_CAP_DROP_MASK, .KST_PAR_STATUS,
   .STB_ING_LIMIT, .STB_EG_PORT, .PRT_LANE_TXEQ, .RDR_PAR_STATUS, .BRS_PORT, .CAT_PAR_STATUS, .FAR_CFG, .HAR_OVH, .PAR_FLOW_PROF]

/-- What a field holds after a write of a master with `data` (R5, R11): `old` is its value before, and `opened` whether the master's gate is open. -/
def FieldDesc.after (f : FieldDesc) (opened : Bool) (old data : Nat) : Nat :=
  if f.expert && !opened then bitsOf old f.hi f.lo
  else
    match f.acc with
    | .ro | .wo => bitsOf old f.hi f.lo
    | .rw | .rws | .rwl => bitsOf data f.hi f.lo
    | .w1c => bitsOf old f.hi f.lo - (bitsOf old f.hi f.lo &&& bitsOf data f.hi f.lo)

/-- The counters rise by what is listed, as (set, element, index) with an amount, and no other counter changes (R287). -/
def CountsUp (s t : State) (l : List ((Nat × Nat × Nat) × Nat)) : Prop :=
  ∀ key, AMap.getD t.cnts key 0 = AMap.getD s.cnts key 0 + ((l.filter fun x => x.1 == key).map (·.2)).sum

/-- Counters that rise because a host's event ring is on and full when an event of pipeline p (15: none) is offered (R143, R349): learning
counter 13 of the pipeline, of pipeline 0 when there is none, once per such host. -/
def State.evtDrops (s : State) (p : Nat) : List ((Nat × Nat × Nat) × Nat) :=
  hosts.flatMap fun h =>
    if s.on fHST_CH_CFG_EN 0 (chanOf h 14) = true ∧ s.ringSize (chanOf h 14) ≤ s.ringUsed (chanOf h 14) + (s.eventsOf h).length then
      [((14, (if p < 8 then p else 0) * 1024 + 173, 0), 1)]
    else []

/-- An event record is offered to both hosts' event rings, and nothing else waits there anew: kept where the ring is on and has room (R349). -/
def Told (s t : State) (r : List Word) : Prop :=
  ∀ h, t.eventsOf h = s.eventsOf h ++
    (if s.on fHST_CH_CFG_EN 0 (chanOf h 14) = true ∧ s.ringUsed (chanOf h 14) + (s.eventsOf h).length < s.ringSize (chanOf h 14) then [r] else [])

/-- No request of a channel's vector is on its way through its host's crossing, so that the next one is delivered at once (R424). -/
abbrev State.calm (s : State) (h : HostId) (c : Nat) : Prop := ∀ q ∈ s.ckr.pulses, q.2.1 ≠ .msi h (s.rd fHST_CH_CFG_VECTOR 0 c)

/-- The message that a channel sends once n more entries have been written on it (R333): its vector, when its interrupt is on, its entries reach
`MOD_COUNT` and the vector is not masked. -/
def State.intOf (s : State) (h : HostId) (c n : Nat) : List PcieOut :=
  if s.on fHST_CH_CFG_INT_EN 0 c = true ∧ s.rd fHST_CH_CFG_MOD_COUNT 0 c ≤ (s.chanSt c).since + n ∧
      s.msixMasked h (s.rd fHST_CH_CFG_VECTOR 0 c) = false then [.msi h (s.rd fHST_CH_CFG_VECTOR 0 c)] else []

/-- The write of a channel's index, moved by n, to its write-back address, followed by 4 bytes of 0 (R330). -/
def State.backOf (s : State) (h : HostId) (c n : Nat) : PcieOut :=
  .write h (s.chWb c) (wordBytes (word (s.rd fHST_CH_DEV_IDX_IDX 0 c + n)) ++ [0, 0, 0, 0])

/-- It is a channel's turn on its DMA engine: it is the first with work after the one served last (R334). -/
abbrev State.turn (s : State) (c : Nat) : Prop := s.engineNext (c / 16) = some c

/-- The channels that the engines served last, once a channel has had its turn. -/
abbrev State.turned (s : State) (c : Nat) : List (Nat × Nat) := AMap.set s.hst.turns (c / 16) (c % 16)

/-- The read request for n bytes of host memory, which covers the aligned words that hold them (R335). -/
def readOf (h : HostId) (a n : Nat) : List PcieOut := if n = 0 then [] else [.read h (a / 4 * 4) ((a + n + 3) / 4 * 4 - a / 4 * 4)]

/-- The read request for the entry of a software-written ring that the EF9's index names, and one for the entry at a distance from it. -/
def State.entryRead1 (s : State) (h : HostId) (c size : Nat) (ahead : Nat := 0) : List PcieOut :=
  readOf h (s.chBase c + (s.rd fHST_CH_DEV_IDX_IDX 0 c + ahead) % s.ringSize c * size) size

/-- Beside registers, counters and the events offered to the hosts' rings, `t` is `s` with other ports. -/
def PortsOnly (s t : State) : Prop :=
  t = { s with regs := t.regs, cnts := t.cnts, saved := t.saved, ports := t.ports, hst := { s.hst with events := t.hst.events } }

/-- A field of a front-panel port's registers. -/
abbrev Fld.ofPort (f : Fld) (port : Nat) : FldAt := f.loc (port / 32) (port % 32)

/-! ### Commands of the Clerk -/

/-- The Clerk runs a command of an opcode whose first step this is, and nothing ends it before it begins: it was read whole (R362), sets no bit
that it does not use (R338), and its objects are not another master's (R354). -/
abbrev State.takes (s : State) (op : Nat) (c : Cmd) : Prop :=
  s.clerk.work = .cmd c ∧ c.opcode = op ∧ c.begun = false ∧ s.cmdStop c = none

/-- A command ends with a status and result words: the Clerk waits, the command is counted, and a window's operation writes `STATUS` and
`RESULT`, sets `DONE` and clears `BUSY` (R373), while a ring's completion is posted when none waits before it (R369), unless its completion ring
is off or its host lost, then or since the command was taken (R328, R337). -/
def Ended (s t : State) (c : Cmd) (status res2 : Nat) (res3 : Nat := 0) : Prop :=
  t.clerk.work = .idle ∧
    t.rd fCLE_CMD_COUNT_COUNT 0 c.master.num = s.satUp fCLE_CMD_COUNT_COUNT 0 c.master.num ∧
    t.rd fCLE_CMD_FAIL_COUNT 0 c.master.num =
      (if status = 0 then s.rd fCLE_CMD_FAIL_COUNT 0 c.master.num else s.satUp fCLE_CMD_FAIL_COUNT 0 c.master.num) ∧
    match c.src with
    | .taw m => t.rd fCLE_TAW_CTRL_STATUS 0 m.num = status ∧ t.rd fCLE_TAW_CTRL_DONE 0 m.num = 1 ∧ t.rd fCLE_TAW_CTRL_BUSY 0 m.num = 0 ∧
        t.rg .CLE_TAW_RESULT 0 m.num 0 = word res2 ∧ t.rg .CLE_TAW_RESULT 0 m.num 1 = word res3 ∧ t.clerk.hold = s.clerk.hold ∧
        t.hst.compl = s.hst.compl
    | .ring h pr => s.holdOf c.src = [] → t.holdOf c.src = [] ∧
        (∀ src, src ≠ c.src → t.holdOf src = s.holdOf src ∧ AMap.getD t.hst.compl src [] = AMap.getD s.hst.compl src []) ∧
        AMap.getD t.hst.compl c.src [] = AMap.getD s.hst.compl c.src [] ++
          (if s.on fHST_CH_CFG_EN 0 (chanOf h (if pr = true then 3 else 2)) = true ∧ h ∉ s.hst.lost ∧ s.voided c = false then
            [⟨c.opcode, status, c.words.getD 1 0, word res2, word res3⟩] else [])

/-- The register fields that a command's end writes. -/
def Cmd.endRegs (c : Cmd) : List FldAt :=
  [fCLE_CMD_COUNT_COUNT.loc 0 c.master.num, fCLE_CMD_FAIL_COUNT.loc 0 c.master.num] ++
    match c.src with
    | .taw m => [fCLE_TAW_CTRL_STATUS.loc 0 m.num, fCLE_TAW_CTRL_DONE.loc 0 m.num, fCLE_TAW_CTRL_BUSY.loc 0 m.num,
        Reg.loc .CLE_TAW_RESULT 0 m.num 0, Reg.loc .CLE_TAW_RESULT 0 m.num 1]
    | .ring _ _ => []

/-- Beside registers, `t` is `s` after a command's end: the Clerk idle, its hold queues and completions, and what the window's
buffer shows while `BUSY` (R373). -/
def CmdOnly (s t : State) : Prop :=
  t = { s with
    regs := t.regs, clerk := { s.clerk with work := .idle, hold := t.clerk.hold, tawLeft := t.clerk.tawLeft },
    hst := { s.hst with compl := t.hst.compl } }

/-- The rows that run a command of the Clerk, with its opcode (R365). -/
def cmdRows : List (Instr × Nat) :=
  [(.nop, 0x00), (.fence, 0x01), (.regWrite, 0x02), (.regRead, 0x03), (.entryWrite, 0x10), (.entryRead, 0x11), (.entryDelete, 0x12),
   (.hashInsert, 0x13), (.hashLookup, 0x14), (.hashDelete, 0x15), (.catInsert, 0x18), (.catRemove, 0x19), (.catMoveBlock, 0x1A),
   (.editionOpen, 0x20), (.editionArm, 0x21), (.editionRetire, 0x22), (.ageSweep, 0x28), (.portForget, 0x29), (.scrub, 0x2A),
   (.snapshotAt, 0x30), (.counterRead, 0x31), (.tackSelectAt, 0x38), (.patchLoad, 0x3C), (.mirrorResync, 0x3D), (.portAdmin, 0x3E),
   (.claimDomain, 0x3F)]

/-- The opcodes of the commands that change mirrored tables, whose steps wait while a mirror queue is full (R147). -/
def holdOps : List Nat := [0x10, 0x12, 0x13, 0x15, 0x18, 0x19, 0x1A, 0x22, 0x28, 0x29, 0x3D]

/-- Read data of a command go to `ADDR`, or to the buffer of its window (R362, R372). -/
def Handed (s t : State) (c : Cmd) (ws : List Word) : Prop :=
  match c.src with
  | .ring h _ => t.hst.out = s.hst.out ++ (if h ∈ s.hst.lost then [] else [.write h c.addr (wordsBytes ws)])
  | .taw m => t.hst.out = s.hst.out ∧ ∀ k < min 128 ws.length, t.rg .CLE_TAW_DATA 0 m.num k = ws.getD k 0

/-- The registers that a command's read data may go to. -/
def Cmd.dataRegs (c : Cmd) : List FldAt :=
  match c.src with
  | .taw m => (List.range 128).map fun k => Reg.loc .CLE_TAW_DATA 0 m.num k
  | .ring _ _ => []

/-- Beside registers, counters and a command's end, `t` is `s` with other table entries, their check bits, hit bits and mirror records. -/
def EntryOnly (s t : State) : Prop :=
  t = { s with
    regs := t.regs, cnts := t.cnts, saved := t.saved, tables := t.tables, hst := { s.hst with compl := t.hst.compl },
    clerk := { s.clerk with work := .idle, hold := t.clerk.hold, tawLeft := t.clerk.tawLeft },
    lrn := { s.lrn with mirrors := t.lrn.mirrors, hits := t.lrn.hits },
    flt := { s.flt with marks := t.flt.marks, nextMarks := t.flt.nextMarks } }

/-- Every entry reads as before but those listed, as (table, pipeline, index). -/
def EntriesBut (s t : State) (l : List (Nat × Nat × Nat)) : Prop :=
  ∀ ti p i, (ti, tblPipe ti p, i) ∉ l → t.ent ti p i = s.ent ti p i

/-- The tables of plain entries: nothing is kept beside an entry, and no field of it is expert-only but in the queue map (0x28). -/
def plainTables : List Nat := [0x01, 0x02, 0x08, 0x09, 0x0A, 0x0B, 0x0F, 0x10, 0x11, 0x12, 0x13, 0x18, 0x19, 0x20, 0x21, 0x22, 0x28, 0x2F]

/-- The high-water and low-water marks, each with the field whose current value it restarts from (none: from 0). -/
def markFields : List (Fld × Option Fld) :=
  [(fSTB_POOL_LOW_LOW, some fSTB_POOL_FREE_FREE), (fSTB_SLIP_LOW_LOW, some fSTB_SLIP_FREE),
   (fKST_OVF_COUNT_OVF_HIGH, some fKST_OVF_COUNT_OVF_ENTRIES), (fBRS_OVF_COUNT_OVF_HIGH, some fBRS_OVF_COUNT_OVF_ENTRIES),
   (fBRS_LEARN_STATUS_QUEUE_HIGH, some fBRS_LEARN_STATUS_QUEUE), (fFAR_STATUS_LOOP_HIGH, some fFAR_STATUS_LOOP_LEVEL),
   (fRAT_POWER_PEAK, some fRAT_POWER_LAST), (fCLE_GAP_MAX_GAP_NS, none), (fCKR_XSTATUS_MERGED, none)]

end Sys2Proof.Machine
end

