-- ==== Sys2Proof/Certificates/Slice0/Obligations.lean ====
section
/-! DEFINITION. The statements of this slice, each a proposition of its own. -/

open Sys2Proof Sys2Proof.Machine

/-- R35, R36, R37, R62: what the qualification of `TIME_REF`, the loss of `PPS_IN` and the loss of TCLK do to the course-time state. -/
def Obligations.ReferenceStates : Prop :=
  (∀ s : State, s.tstate = 0 → s.on fTIM_STATUS_TIME_SET = false → Gives .refQualify s fun t =>
    t.rd fTIM_STATUS_REF_OK = 1 ∧ t.rd fTIM_STATUS_REF_SRC = 0 ∧ t = { s with regs := t.regs } ∧
    SameBits s t [fTIM_STATUS_REF_OK.loc, fTIM_STATUS_REF_SRC.loc]) ∧
  (∀ s : State, s.tstate = 0 → s.on fTIM_STATUS_TIME_SET = true → s.on fTIM_CFG_PPS_MODE = true → Gives .refQualify s fun t =>
    t.rd fTIM_STATUS_REF_OK = 1 ∧ t.rd fTIM_STATUS_REF_SRC = 0 ∧ t.tstate = 2 ∧ t.tim = { s.tim with holdEdge := none, ppsOut := t.tim.ppsOut } ∧
    t = { s with regs := t.regs, tim := t.tim, flt := t.flt, hst := t.hst, cnts := t.cnts, saved := t.saved } ∧
    SameBits s t [fTIM_STATUS_REF_OK.loc, fTIM_STATUS_REF_SRC.loc, fTIM_STATUS_STATE.loc]) ∧
  (∀ s : State, s.tstate = 0 → Gives .refDisqualify s fun t =>
    t.rd fTIM_STATUS_REF_OK = 0 ∧ t.rd fTIM_STATUS_REF_SRC = 1 ∧ t = { s with regs := t.regs } ∧
    SameBits s t [fTIM_STATUS_REF_OK.loc, fTIM_STATUS_REF_SRC.loc]) ∧
  (∀ s : State, s.tstate = 2 → Gives .refDisqualify s fun t =>
    t.rd fTIM_STATUS_REF_OK = 0 ∧ t.tstate = 1 ∧ t.isPresent (slotOf .TIM_REF_LOSS 0) = true ∧ t.tim = { s.tim with holdEdge := none } ∧
    t = { s with regs := t.regs, tim := t.tim, flt := t.flt } ∧ SameBits s t [fTIM_STATUS_REF_OK.loc, fTIM_STATUS_STATE.loc]) ∧
  (∀ s : State, s.tstate = 2 → s.ppsGood = false → Gives .ppsLoss s fun t =>
    t.tstate = 1 ∧ t.isPresent (slotOf .TIM_PPS_LOSS 0) = true ∧ t.tim = { s.tim with holdEdge := none } ∧
    t = { s with regs := t.regs, tim := t.tim, flt := t.flt } ∧ SameBits s t [fTIM_STATUS_STATE.loc]) ∧
  (∀ s : State, s.tstate ≠ 0 → Gives .tclkUnlock s fun t =>
    t.rd fCKR_PLL_STATUS_TCLK_LOCK = 0 ∧ t.tstate = 0 ∧ t.rd fTIM_STATUS_TIME_SET = 0 ∧ t.rd fTIM_CHANGE_PENDING = 0 ∧
    t.isPresent (slotOf .TIM_TCLK_UNLOCK 0) = true ∧ t.tim = { s.tim with trigs := [], pend := none, holdEdge := none, ppsOut := t.tim.ppsOut } ∧
    t.arc = s.arc ∧ t.tables = s.tables ∧ t.cnts = s.cnts ∧ t.fwd = s.fwd ∧ t.ports = s.ports ∧ t.pending = s.pending)

/-- R46, R47, R48: the requests of `TIM_CTRL` and `TIM_FREQ_HI`. That `TIM_SET` and `TIM_STEP` are taken as they stand at the request is the model's
choice (assumption log 45). -/
def Obligations.CourseTimeRequests : Prop :=
  (∀ (s : State) (m : Master), s.passes m .TIM_CTRL → s.gateOpen (some m) .TIM 0 = true → s.tim.pend = none → Gives (.setNow m) s fun t =>
    t.tim = { s.tim with pend := some ⟨.setNow s.timSet, s.wholeUs 1000, s.tim.rc⟩ } ∧ t.rd fTIM_CHANGE_PENDING = 1 ∧
    t.hst = { s.hst with round := t.hst.round } ∧ t = { s with regs := t.regs, tim := t.tim, hst := t.hst } ∧
    SameBits s t [fTIM_CHANGE_PENDING.loc]) ∧
  (∀ (s : State) (m : Master), s.passes m .TIM_CTRL → s.gateOpen (some m) .TIM 0 = true → s.tim.pend = none → s.timSet % ns nsPerSec = 0 → Gives (.setAtPps m) s fun t =>
    t.tim = { s.tim with pend := some ⟨.setAtPps s.timSet, s.wholeUs 1000, s.tim.rc⟩ } ∧ t.rd fTIM_CHANGE_PENDING = 1 ∧
    t.hst = { s.hst with round := t.hst.round } ∧ t = { s with regs := t.regs, tim := t.tim, hst := t.hst } ∧
    SameBits s t [fTIM_CHANGE_PENDING.loc]) ∧
  (∀ (s : State) (m : Master), s.passes m .TIM_CTRL → s.gateOpen (some m) .TIM 0 = true → s.tim.pend = none → -32768 ≤ s.stepSec → s.stepSec ≤ 32767 →
    0 ≤ (s.wholeUs 1000 : Int) + s.timStep → Gives (.step m) s fun t =>
    t.tim = { s.tim with pend := some ⟨.step s.timStep, s.wholeUs 1000, s.tim.rc⟩ } ∧ t.rd fTIM_CHANGE_PENDING = 1 ∧
    t.hst = { s.hst with round := t.hst.round } ∧ t = { s with regs := t.regs, tim := t.tim, hst := t.hst } ∧
    SameBits s t [fTIM_CHANGE_PENDING.loc]) ∧
  (∀ (s : State) (m : Master) (d : Word), s.passes m .TIM_FREQ_HI → s.gateOpen (some m) .TIM 0 = true → s.tim.pend = none →
    0x0000FFBE76C8B439 ≤ d.toNat * 2 ^ 32 + s.rd fTIM_FREQ_LO_VALUE → d.toNat * 2 ^ 32 + s.rd fTIM_FREQ_LO_VALUE ≤ 0x0001004189374BC7 →
    Gives (.timFreqWrite m d) s fun t =>
    t.tim = { s.tim with pend := some ⟨.freq (d.toNat * 2 ^ 32 + s.rd fTIM_FREQ_LO_VALUE), s.wholeUs 1000, s.tim.rc⟩ } ∧
    t.rd fTIM_CHANGE_PENDING = 1 ∧ t.rg .TIM_FREQ_HI = d ∧ t.hst = { s.hst with round := t.hst.round } ∧
    t = { s with regs := t.regs, tim := t.tim, hst := t.hst } ∧ SameBits s t [fTIM_CHANGE_PENDING.loc, Reg.TIM_FREQ_HI.loc]) ∧
  (∀ (s : State) (m : Master), s.passes m .TIM_CTRL → s.gateOpen (some m) .TIM 0 = true → s.tim.pend.isSome = true → Gives (.setNow m) s fun t =>
    t.tim = s.tim ∧ t.rd fTIM_CHANGE_REFUSED = min (2 ^ (fTIM_CHANGE_REFUSED.hi + 1 - fTIM_CHANGE_REFUSED.lo) - 1) (s.rd fTIM_CHANGE_REFUSED + 1) ∧
    t = { s with regs := t.regs, hst := t.hst } ∧ SameBits s t [fTIM_CHANGE_REFUSED.loc]) ∧
  (∀ (s : State) (m : Master), s.passes m .TIM_CTRL → s.gateOpen (some m) .TIM 0 = false → s.tim.pend = none → Gives (.setNow m) s fun t =>
    t.tim = { s.tim with pend := some ⟨.setNow s.timSet, s.wholeUs 1000, s.tim.rc⟩ } ∧ t.rd fTIM_CHANGE_PENDING = 1 ∧
    Logged s t m .expertClosed (Reg.addr .TIM_CTRL) 1 ∧ t.hst = { s.hst with rejects := t.hst.rejects, rejLost := t.hst.rejLost, round := t.hst.round } ∧
    t = { s with regs := t.regs, tim := t.tim, hst := t.hst } ∧ SameBits s t [fTIM_CHANGE_PENDING.loc, fHST_REJECT_COUNT_COUNT.loc 0 m.num]) ∧
  (∀ (s : State) (m : Master), s.passes m .TIM_CTRL → s.gateOpen (some m) .TIM 0 = true → Gives (.clear m) s fun t =>
    t.tstate = 0 ∧ t.rd fTIM_STATUS_TIME_SET = 0 ∧ t.rd fTIM_CHANGE_PENDING = 0 ∧
    t.tim = { s.tim with trigs := [], pend := none, holdEdge := none, ppsOut := t.tim.ppsOut } ∧
    t.arc = s.arc ∧ t.tables = s.tables ∧ t.cnts = s.cnts ∧ t.fwd = s.fwd ∧ t.ports = s.ports ∧ t.pending = s.pending)

/-- R46, R47: the change of course time takes effect in the cycle that contains its apply instant. -/
def Obligations.CourseTimeChanges : Prop :=
  (∀ (s : State) (w t0 r0 : Nat), s.tim.pend = some ⟨.freq w, t0, r0⟩ → t0 < s.tim.ct + s.tim.freq → Gives .courseTimeApply s fun t =>
    t.tim = { s.tim with freq := w, pend := none } ∧ t.rd fTIM_CHANGE_PENDING = 0 ∧
    t.rd fTIM_CHANGE_APPLIED = (s.rd fTIM_CHANGE_APPLIED + 1) % 2 ^ (fTIM_CHANGE_APPLIED.hi + 1 - fTIM_CHANGE_APPLIED.lo) ∧
    t = { s with regs := t.regs, tim := t.tim } ∧ SameBits s t [fTIM_CHANGE_PENDING.loc, fTIM_CHANGE_APPLIED.loc]) ∧
  (∀ (s : State) (d : Int) (t0 r0 : Nat), s.tim.pend = some ⟨.step d, t0, r0⟩ → t0 < s.tim.ct + s.tim.freq → s.tim.trigs = [] →
    s.ed.imm = none → Gives .courseTimeApply s fun t =>
    t.tim = { s.tim with ct := ((s.tim.ct : Int) + d).toNat, pend := none } ∧ t.rd fTIM_CHANGE_PENDING = 0 ∧
    t.rd fTIM_CHANGE_APPLIED = (s.rd fTIM_CHANGE_APPLIED + 1) % 2 ^ (fTIM_CHANGE_APPLIED.hi + 1 - fTIM_CHANGE_APPLIED.lo) ∧
    t.arc = (if ((t0 : Int) + d).toNat < t0 then s.movedBack else s).arc ∧ t.tables = s.tables ∧ t.fwd = s.fwd ∧ t.pending = s.pending) ∧
  (∀ (s : State) (v t0 r0 : Nat), s.tim.pend = some ⟨.setNow v, t0, r0⟩ → t0 < s.tim.ct + s.tim.freq → s.tim.trigs = [] →
    s.ed.imm = none → s.on fTIM_STATUS_REF_OK = false → Gives .courseTimeApply s fun t =>
    t.tim = { s.tim with ct := ((s.tim.ct : Int) + ((v : Int) - t0)).toNat, pend := none } ∧ t.rd fTIM_CHANGE_PENDING = 0 ∧
    t.rd fTIM_STATUS_TIME_SET = 1 ∧ t.tstate = s.tstate ∧
    t.arc = (if v < t0 then s.movedBack else s).arc ∧ t.tables = s.tables ∧ t.fwd = s.fwd ∧ t.pending = s.pending) ∧
  (∀ (s : State) (p : Pending), s.tim.pend = some p → s.tim.ct + s.tim.freq ≤ p.applyAt → exec .courseTimeApply s = .next s) ∧
  (∀ (s : State) (v t0 r0 : Nat), s.tim.pend = some ⟨.setAtPps v, t0, r0⟩ → r0 + ns ((s.holdSecs + 1) * nsPerSec) ≤ s.tim.rc →
    Gives .setAtPpsTimeout s fun t =>
    t.tim = { s.tim with pend := none } ∧ t.rd fTIM_CHANGE_PENDING = 0 ∧
    t.rd fTIM_CHANGE_REFUSED = min (2 ^ (fTIM_CHANGE_REFUSED.hi + 1 - fTIM_CHANGE_REFUSED.lo) - 1) (s.rd fTIM_CHANGE_REFUSED + 1) ∧
    t = { s with regs := t.regs, tim := t.tim } ∧ SameBits s t [fTIM_CHANGE_PENDING.loc, fTIM_CHANGE_REFUSED.loc]) ∧
  (∀ (s : State) (v t0 r0 : Nat), s.tim.pend = some ⟨.setNow v, t0, r0⟩ → t0 < s.tim.ct + s.tim.freq → s.tim.trigs = [] → s.ed.imm = none →
    s.tstate = 0 → s.on fTIM_STATUS_REF_OK = true → s.on fTIM_CFG_PPS_MODE = true → Gives .courseTimeApply s fun t =>
    t.tstate = 2 ∧ t.rd fTIM_STATUS_TIME_SET = 1 ∧ t.rd fTIM_CHANGE_PENDING = 0 ∧ t.tim.pend = none ∧
    t.tim.ct = ((s.tim.ct : Int) + ((v : Int) - t0)).toNat ∧ t.tables = s.tables ∧ t.fwd = s.fwd ∧ t.pending = s.pending) ∧
  (∀ (s : State) (d : Int) (t0 r0 : Nat) (tr : Trig), s.tim.pend = some ⟨.step d, t0, r0⟩ → t0 < s.tim.ct + s.tim.freq → s.tim.trigs = [tr] →
    t0 < tr.at_ → (tr.at_ : Int) < t0 + d → tr.kind = .gpio0 → tr.interval = 0 → tr.cmd = none → s.ed.imm = none → s.ckr.pulses = [] →
    Gives .courseTimeApply s fun t =>
    t.tim.trigs = [] ∧ t.rd fTIM_TRIG_CTRL_FIRED 0 tr.slot = 1 ∧ t.rd fTIM_TRIG_CTRL_LATE 0 tr.slot = 1 ∧ t.rd fTIM_TRIG_CTRL_ARMED 0 tr.slot = 0 ∧
    Raised t .TIM_TRIG_LATE ∧ t.tim.ct = ((s.tim.ct : Int) + d).toNat ∧ t.tim.pend = none ∧ t.arc = s.arc ∧ t.tables = s.tables ∧ t.fwd = s.fwd) ∧
  (∀ (s : State) (d : Int) (t0 r0 : Nat), s.tim.pend = some ⟨.step d, t0, r0⟩ → t0 < s.tim.ct + s.tim.freq →
    (∀ tr ∈ s.tim.trigs, tr.at_ ≤ t0 ∨ (t0 : Int) + d ≤ tr.at_) → s.ed.imm = none → Gives .courseTimeApply s fun t =>
    t.tim = { s.tim with ct := ((s.tim.ct : Int) + d).toNat, pend := none } ∧ t.rd fTIM_CHANGE_PENDING = 0 ∧ t.fol = s.fol ∧ t.hst = s.hst ∧
    t.tables = s.tables ∧ t.fwd = s.fwd)

/-- R40 to R42: the decision on an edge of `PPS_IN`. -/
def Obligations.PpsInput : Prop :=
  (∀ (s : State) (phase : Nat), s.tim.edge = none → Gives (.ppsInEdge phase) s fun t =>
    t.tim.edge = some
      ⟨stamp (((s.tim.ct + phase * 2 ^ 44 : Nat) : Int) - phaseU (s.rd fTIM_PPS_DELAY_DELAY)).toNat, s.tim.rc + phase * 2 ^ 44⟩ ∧
    t = { s with tim := { s.tim with edge := t.tim.edge } }) ∧
  (∀ t : Nat, stamp t % 2 ^ 44 = 0 ∧ stamp t ≤ t ∧ t < stamp t + 2 ^ 44) ∧
  (∀ (s : State) (e : PpsEdge), s.tim.edge = some e → e.rc + ns 100 ≤ s.tim.rc → s.ppsValid e = true → s.tim.pend = none →
    (∀ m ∈ s.tim.tod, e.rc < m.2 + ns 500000000) → s.tim.todCheck = [] → s.tstate = 2 → Gives (.ppsEdgeValidate true) s fun t =>
    [t.rg .TIM_PPS_CAP 0 0, t.rg .TIM_PPS_CAP 0 1, t.rg .TIM_PPS_CAP 0 2] = ctWords e.ts ∧
    t.rd fTIM_PPS_COUNTS_VALID = (s.rd fTIM_PPS_COUNTS_VALID + 1) % 2 ^ (fTIM_PPS_COUNTS_VALID.hi + 1 - fTIM_PPS_COUNTS_VALID.lo) ∧
    t.tim = { s.tim with edge := none, lastAcc := some e.rc } ∧
    t = { s with regs := t.regs, tim := t.tim, hst := t.hst, cnts := t.cnts, saved := t.saved } ∧
    SameBits s t [Reg.TIM_PPS_CAP.loc 0 0, Reg.TIM_PPS_CAP.loc 0 1, Reg.TIM_PPS_CAP.loc 0 2, fTIM_PPS_COUNTS_VALID.loc]) ∧
  (∀ (s : State) (e : PpsEdge), s.tim.edge = some e → e.rc + ns 100 ≤ s.tim.rc → Gives (.ppsEdgeValidate false) s fun t =>
    [t.rg .TIM_PPS_REJ 0 0, t.rg .TIM_PPS_REJ 0 1, t.rg .TIM_PPS_REJ 0 2] = ctWords e.ts ∧
    t.rd fTIM_PPS_COUNTS_REJECTED =
      min (2 ^ (fTIM_PPS_COUNTS_REJECTED.hi + 1 - fTIM_PPS_COUNTS_REJECTED.lo) - 1) (s.rd fTIM_PPS_COUNTS_REJECTED + 1) ∧
    t.tim = { s.tim with edge := none } ∧ (∃ c ∈ t.flt.crossing, c.slot = slotOf .TIM_PPS_REJECT 0) ∧
    t = { s with regs := t.regs, tim := t.tim, flt := t.flt } ∧
    SameBits s t [Reg.TIM_PPS_REJ.loc 0 0, Reg.TIM_PPS_REJ.loc 0 1, Reg.TIM_PPS_REJ.loc 0 2, fTIM_PPS_COUNTS_REJECTED.loc]) ∧
  (∀ (s : State) (e : PpsEdge) (b : Bool), s.tim.edge = some e → s.tim.rc < e.rc + ns 100 → exec (.ppsEdgeValidate b) s = .next s)

/-- R43 to R45, R59: messages received and sent. That the state and `RX_MODE` at receipt decide on the comparison is the model's choice
(assumption log 45). -/
def Obligations.TimeOfDay : Prop :=
  (∀ (s : State) (bs : List Byte), bs.length = 16 → bytesNat (bs.take 2) = 0xA55A → crc16 (bs.take 14) = bytesNat (bs.drop 14) →
    (bs.getD 2 0).toNat = 1 → bitOf (bs.getD 3 0).toNat 3 = true → Gives (.todMessageRx bs) s fun t =>
    (∀ i, i < 4 → t.rg .TIM_TOD_RX 0 i = word (bytesNat ((bs.drop (4 * i)).take 4))) ∧
    t.rd fTIM_TOD_COUNTS_GOOD = min (2 ^ (fTIM_TOD_COUNTS_GOOD.hi + 1 - fTIM_TOD_COUNTS_GOOD.lo) - 1) (s.rd fTIM_TOD_COUNTS_GOOD + 1) ∧
    t.tim.tod = s.tim.tod ++ [(bytesNat ((bs.drop 4).take 6), s.tim.rc)] ∧
    t.tim.todCheck = s.tim.todCheck ++ (if s.tstate = 2 ∧ 1 ≤ s.rd fTIM_TOD_CFG_RX_MODE then [bytesNat ((bs.drop 4).take 6)] else []) ∧
    t.tim = { s.tim with tod := t.tim.tod, todCheck := t.tim.todCheck } ∧
    t = { s with regs := t.regs, tim := t.tim } ∧
    SameBits s t [Reg.TIM_TOD_RX.loc 0 0, Reg.TIM_TOD_RX.loc 0 1, Reg.TIM_TOD_RX.loc 0 2, Reg.TIM_TOD_RX.loc 0 3, fTIM_TOD_COUNTS_GOOD.loc]) ∧
  (∀ (s : State) (bs : List Byte), bs.length = 16 → bytesNat (bs.take 2) = 0xA55A →
    crc16 (bs.take 14) ≠ bytesNat (bs.drop 14) ∨ (bs.getD 2 0).toNat ≠ 1 ∨ bitOf (bs.getD 3 0).toNat 3 = false → Gives (.todMessageRx bs) s fun t =>
    t.rd fTIM_TOD_COUNTS_BAD = min (2 ^ (fTIM_TOD_COUNTS_BAD.hi + 1 - fTIM_TOD_COUNTS_BAD.lo) - 1) (s.rd fTIM_TOD_COUNTS_BAD + 1) ∧
    (∃ c ∈ t.flt.crossing, c.slot = slotOf .TIM_TOD_BAD 0) ∧ t = { s with regs := t.regs, flt := t.flt } ∧
    SameBits s t [fTIM_TOD_COUNTS_BAD.loc]) ∧
  (∀ (s : State) (bs : List Byte), bytesNat (bs.take 2) ≠ 0xA55A → exec (.todMessageRx bs) s = .next s) ∧
  (∀ s : State, Gives .todRxTimeout s fun t =>
    t.rd fTIM_TOD_COUNTS_BAD = min (2 ^ (fTIM_TOD_COUNTS_BAD.hi + 1 - fTIM_TOD_COUNTS_BAD.lo) - 1) (s.rd fTIM_TOD_COUNTS_BAD + 1) ∧
    (∃ c ∈ t.flt.crossing, c.slot = slotOf .TIM_TOD_BAD 0) ∧ t = { s with regs := t.regs, flt := t.flt } ∧
    SameBits s t [fTIM_TOD_COUNTS_BAD.loc]) ∧
  (∀ s : State, s.tim.todDue = true → s.tim.ppsRc + ns 100000000 ≤ s.tim.rc → s.on fTIM_TOD_CFG_TX_EN = true →
    exec .todTxSend s = .next { s with tim := { s.tim with todDue := false, todTx := s.todMessage } }) ∧
  (∀ s : State, s.todMessage.length = 16 ∧ bytesNat (s.todMessage.take 2) = 0xA55A ∧
    crc16 (s.todMessage.take 14) = bytesNat (s.todMessage.drop 14))

/-- R59 to R61: the pins of the course-time unit. -/
def Obligations.TimePins : Prop :=
  (∀ s : State, s.ppsOutOn = true → s.ppsOutTime % ns nsPerSec < s.tim.freq → s.tim.ppsOut = false →
    exec .ppsOutRise s = .next { s with tim := { s.tim with ppsOut := true, ppsRc := s.tim.rc, todDue := true } }) ∧
  (∀ s : State, s.tim.ppsOut = true → s.tim.ppsRc + ns (1000 * s.rd fTIM_PPS_OUT_WIDTH_US) ≤ s.tim.rc →
    exec .ppsOutFall s = .next { s with tim := { s.tim with ppsOut := false } }) ∧
  (∀ (s : State) (k phase : Nat), k < 2 → s.rd fTIM_GPIO_CFG_MODE 0 k = 1 →
    (∀ r, AMap.get? s.tim.gpioLast k = some r → r + ns 1000 ≤ s.tim.rc) → Gives (.gpioCapture k phase) s fun t =>
    [t.rg .TIM_GPIO_CAP 0 k 0, t.rg .TIM_GPIO_CAP 0 k 1, t.rg .TIM_GPIO_CAP 0 k 2] = ctWords (stamp (s.tim.ct + phase * 2 ^ 44)) ∧
    t.tim = { s.tim with gpioLast := AMap.set s.tim.gpioLast k s.tim.rc } ∧ t = { s with regs := t.regs, tim := t.tim } ∧
    SameBits s t [Reg.TIM_GPIO_CAP.loc 0 k 0, Reg.TIM_GPIO_CAP.loc 0 k 1, Reg.TIM_GPIO_CAP.loc 0 k 2]) ∧
  (∀ (s : State) (phase r : Nat), s.rd fTIM_GPIO_CFG_MODE 0 0 = 1 → AMap.get? s.tim.gpioLast 0 = some r → s.tim.rc < r + ns 1000 →
    Gives (.gpioCapture 0 phase) s fun t =>
    t.rd fTIM_GPIO_STAT_OVERRUN0 =
      min (2 ^ (fTIM_GPIO_STAT_OVERRUN0.hi + 1 - fTIM_GPIO_STAT_OVERRUN0.lo) - 1) (s.rd fTIM_GPIO_STAT_OVERRUN0 + 1) ∧
    t = { s with regs := t.regs } ∧ SameBits s t [fTIM_GPIO_STAT_OVERRUN0.loc]) ∧
  (∀ (s : State) (k phase : Nat), s.rd fTIM_GPIO_CFG_MODE 0 k ≠ 1 → exec (.gpioCapture k phase) s = .next s) ∧
  (∀ (s : State) (k r : Nat), AMap.get? s.tim.gpioOut k = some r → r ≤ s.tim.rc →
    Gives (.gpioPulseEnd k) s fun t => AMap.get? t.tim.gpioOut k = none ∧ (∀ q, q ≠ k → AMap.get? t.tim.gpioOut q = AMap.get? s.tim.gpioOut q) ∧
      t = { s with tim := { s.tim with gpioOut := t.tim.gpioOut } }) ∧
  (∀ (s : State) (j : Nat), s.on fTIM_SYNCE_SQUELCHED 0 j = false → s.rd fTIM_SYNCE_ACTIVE 0 j = s.rd fTIM_SYNCE_LANE 0 j →
    s.rd fTIM_SYNCE_MODE 0 j = 0 → Gives (.synceFailover j) s fun t =>
    t.rd fTIM_SYNCE_SQUELCHED 0 j = 1 ∧ t.rd fPRT_LANE_STATUS_CDR_LOCK (s.rd fTIM_SYNCE_LANE 0 j / 32) (s.rd fTIM_SYNCE_LANE 0 j % 32) = 0 ∧
    t = { s with regs := t.regs })

/-- R52, R62: calibration of the chiplets. The result that is compared for TIM_CAL_JUMP, half the trip plus `TIM_CHIPLET_ASYM`, is the model's choice
(assumption log 18). -/
def Obligations.Calibration : Prop :=
  (∀ (s : State) (p : Nat), s.on fCKR_PLL_STATUS_TCLK_LOCK = true → s.chipletRuns p = true → s.on fCKR_D2D_STATUS_UP 0 p = true →
    (∀ r, (p, r) ∉ s.tim.calRun) → (∀ r, AMap.get? s.tim.jobs (.calibration, p) = some r → r + ns (s.rd fTIM_CAL_CTRL_PERIOD_MS * 1000000) ≤ s.tim.rc) →
    exec (.calibrationRun p) s = .next { s with tim := { s.tim with jobs := AMap.set s.tim.jobs (.calibration, p) s.tim.rc, calRun := s.tim.calRun ++ [(p, s.tim.rc)] } }) ∧
  (∀ (s : State) (p r : Nat), AMap.get? s.tim.jobs (.calibration, p) = some r → s.tim.rc < r + ns (s.rd fTIM_CAL_CTRL_PERIOD_MS * 1000000) →
    exec (.calibrationRun p) s = .next s) ∧
  (∀ (s : State) (p b : Nat) (r : Int), p < 8 → s.tim.calRun.find? (·.1 == p) = some (p, b) → s.tim.rc ≤ b + ns 20000 →
    (∀ old, AMap.get? s.tim.calRes p = some old → (r + 125 * signedOf 16 (s.rg .TIM_CHIPLET_ASYM 0 p).toNat - old).natAbs ≤ 500) → Gives (.calibrationComplete p r) s fun t =>
    bitOf (t.rd fTIM_CAL_STATUS_DONE) p = true ∧ AMap.get? t.tim.calRes p = some (r + 125 * signedOf 16 (s.rg .TIM_CHIPLET_ASYM 0 p).toNat) ∧ (∀ q, (p, q) ∉ t.tim.calRun) ∧
    t.tim = { s.tim with calRun := t.tim.calRun, calRes := t.tim.calRes } ∧ t = { s with regs := t.regs, tim := t.tim } ∧
    SameBits s t [fTIM_CAL_STATUS_DONE.loc]) ∧
  (∀ (s : State) (p b : Nat) (r old : Int), p < 8 → s.tim.calRun.find? (·.1 == p) = some (p, b) → s.tim.rc ≤ b + ns 20000 →
    AMap.get? s.tim.calRes p = some old → 500 < (r + 125 * signedOf 16 (s.rg .TIM_CHIPLET_ASYM 0 p).toNat - old).natAbs → s.ckr.pulses = [] → Gives (.calibrationComplete p r) s fun t =>
    bitOf (t.rd fTIM_CAL_STATUS_DONE) p = true ∧ bitOf (t.rd fTIM_CAL_STATUS_JUMP) p = true ∧ AMap.get? t.tim.calRes p = some (r + 125 * signedOf 16 (s.rg .TIM_CHIPLET_ASYM 0 p).toNat) ∧
    (∀ q, (p, q) ∉ t.tim.calRun) ∧ (∃ c ∈ t.flt.crossing, c.slot = slotOf .TIM_CAL_JUMP 0) ∧
    t = { s with regs := t.regs, tim := t.tim, flt := t.flt, ckr := { s.ckr with pulses := t.ckr.pulses } } ∧
    SameBits s t [fTIM_CAL_STATUS_DONE.loc, fTIM_CAL_STATUS_JUMP.loc]) ∧
  (∀ (s : State) (p b : Nat), (p, b) ∈ s.tim.calRun → b + ns 20000 ≤ s.tim.rc → Gives (.calibrationTimeout p) s fun t =>
    t.tim = { s.tim with calRun := s.tim.calRun.filter (·.1 != p) } ∧ (∃ c ∈ t.flt.crossing, c.slot = slotOf .TIM_CAL_FAIL 0) ∧
    t = { s with tim := t.tim, flt := t.flt }) ∧
  (∀ (s : State) (m : Master), s.passes m .TIM_CAL_CTRL → s.gateOpen (some m) .TIM 0 = true →
    100 ≤ s.rd fTIM_CAL_CTRL_PERIOD_MS → s.rd fTIM_CAL_CTRL_PERIOD_MS ≤ 10000 → Gives (.runNow m) s fun t =>
    (∀ p, p ∈ t.tim.calRun.map (·.1) ↔ p ∈ s.tim.calRun.map (·.1) ∨ (p < 8 ∧ s.on fCKR_PLL_STATUS_TCLK_LOCK = true ∧
      s.chipletRuns p = true ∧ s.on fCKR_D2D_STATUS_UP 0 p = true)) ∧
    t.tim = { s.tim with calRun := t.tim.calRun, jobs := t.tim.jobs } ∧ t = { s with regs := t.regs, tim := t.tim, hst := t.hst } ∧
    SameBits s t []) ∧
  (∀ s : State, Gives .tclkPllLock s fun t =>
    t.rd fCKR_PLL_STATUS_TCLK_LOCK = 1 ∧ t.tim = { s.tim with calRun := t.tim.calRun, jobs := t.tim.jobs } ∧
    (∀ p, p < 8 → s.chipletRuns p = true → s.on fCKR_D2D_STATUS_UP 0 p = true → p ∈ t.tim.calRun.map (·.1)) ∧
    t = { s with regs := t.regs, tim := t.tim, flt := t.flt } ∧ SameBits s t [fCKR_PLL_STATUS_TCLK_LOCK.loc])

/-- R54 to R57, R212, R263, R291, R395, R396: arming, cancelling and firing. -/
def Obligations.Triggers : Prop :=
  (∀ (s : State) (m : Master) (k t0 : Nat), 8 ≤ k → k < 16 → s.passes m .TIM_TRIG_CTRL 0 k → s.trig? k = none → s.tstate ≠ 0 →
    s.trigTime k = some t0 → s.tim.ct + ns 2000 ≤ t0 → Gives (.triggerArm m k 4) s fun t =>
    t.tim = { s.tim with trigs := ⟨k, .cadence, t0, s.trigInterval k, none, 0⟩ :: s.tim.trigs.filter (·.slot != k) } ∧
    t.rd fTIM_TRIG_CTRL_ARMED 0 k = 1 ∧ t.rd fTIM_TRIG_CTRL_KIND 0 k = 4 ∧ t = { s with regs := t.regs, tim := t.tim, hst := t.hst }) ∧
  (∀ (s : State) (m : Master) (k : Nat) (tr : Trig), 8 ≤ k → k < 16 → s.passes m .TIM_TRIG_CTRL 0 k → s.trig? k = some tr →
    tr.kind = .cadence → tr.cmd = none → (∀ q ∈ s.ckr.pulses, q.2.1 ≠ .bit fTIM_TRIG_CTRL_CANCELLED k 0) → Gives (.triggerCancel m k) s fun t =>
    t.trig? k = none ∧ t.rd fTIM_TRIG_CTRL_ARMED 0 k = 0 ∧ t.rd fTIM_TRIG_CTRL_CANCELLED 0 k = 1 ∧
    t = { s with regs := t.regs, tim := t.tim, hst := t.hst, ckr := { s.ckr with pulses := t.ckr.pulses } }) ∧
  (∀ (s : State) (k : Nat) (tr : Trig), k < 16 → s.trig? k = some tr → s.tim.ct < tr.at_ → exec (.triggerFire k) s = .next s) ∧
  (∀ (s : State) (k : Nat) (tr : Trig), k < 16 → s.trig? k = some tr → tr.at_ ≤ s.tim.ct → tr.kind = .gpio0 → tr.interval = 0 → tr.cmd = none →
    s.rd fTIM_GPIO_CFG_MODE 0 0 = 2 → (∀ q ∈ s.ckr.pulses, q.2.1 ≠ .bit fTIM_TRIG_CTRL_FIRED k 0) → Gives (.triggerFire k) s fun t =>
    t.trig? k = none ∧ t.rd fTIM_TRIG_CTRL_FIRED 0 k = 1 ∧ t.rd fTIM_TRIG_CTRL_ARMED 0 k = 0 ∧
    AMap.get? t.tim.gpioOut 0 = some (s.tim.rc + ns (s.rd fTIM_GPIO_CFG_WIDTH_NS 0 0)) ∧
    t = { s with regs := t.regs, tim := t.tim, ckr := { s.ckr with pulses := t.ckr.pulses } } ∧
    SameBits s t [fTIM_TRIG_CTRL_FIRED.loc 0 k, fTIM_TRIG_CTRL_SKIPPED.loc 0 k, fTIM_TRIG_CTRL_ARMED.loc 0 k]) ∧
  (∀ (s : State) (k : Nat) (tr : Trig), k < 16 → s.trig? k = some tr → tr.at_ ≤ s.tim.ct → tr.kind = .gpio1 → tr.interval ≠ 0 → tr.cmd = none →
    (∀ q ∈ s.ckr.pulses, q.2.1 ≠ .bit fTIM_TRIG_CTRL_FIRED k 0) → Gives (.triggerFire k) s fun t =>
    t.trig? k = some { tr with at_ := tr.at_ + ns tr.interval } ∧ t.rd fTIM_TRIG_CTRL_FIRED 0 k = 1 ∧
    t = { s with regs := t.regs, tim := t.tim, ckr := { s.ckr with pulses := t.ckr.pulses } } ∧
    SameBits s t [fTIM_TRIG_CTRL_FIRED.loc 0 k, fTIM_TRIG_CTRL_SKIPPED.loc 0 k]) ∧
  (∀ (s : State) (tr : Trig), s.tim.trigs.find? (·.kind == .tack) = some tr → s.on fFOL_TACK_STATUS_LOADED = false → s.tackOk = true →
    Gives .tackPendingLoad s fun t =>
    t.rd fFOL_TACK_STATUS_LOADED = 1 ∧ t = { s with regs := t.regs } ∧ SameBits s t [fFOL_TACK_STATUS_LOADED.loc]) ∧
  (∀ (s : State) (k : Nat) (tr : Trig), k < 16 → s.trig? k = some tr → tr.at_ ≤ s.tim.ct → tr.kind = .edition → tr.interval = 0 →
    s.edState (!s.edNow) = 2 → (∀ q ∈ s.ckr.pulses, q.2.1 ≠ .bit fTIM_TRIG_CTRL_FIRED k 0) → Gives (.triggerFire k) s fun t =>
    t.edNow = !s.edNow ∧ t.edState (!s.edNow) = 3 ∧ t.edState s.edNow = 4 ∧
    [t.rg .CLE_ED_SWITCH_TIME 0 0, t.rg .CLE_ED_SWITCH_TIME 0 1, t.rg .CLE_ED_SWITCH_TIME 0 2] = ctWords tr.at_ ∧
    t.trig? k = none ∧ t.rd fTIM_TRIG_CTRL_FIRED 0 k = 1 ∧ t.fwd = s.fwd ∧ t.arc = s.arc ∧ t.tables = s.tables) ∧
  (∀ (s : State) (k : Nat) (tr : Trig), k < 16 → s.trig? k = some tr → tr.at_ ≤ s.tim.ct → tr.kind = .snapshot → tr.interval = 0 →
    s.arc.scan = none → s.arc.snapUsed + snapSpan (tr.arg ||| 2 ^ 15) ≤ s.snapSize → Gives (.triggerFire k) s fun t =>
    t.epoch = some tr.at_ ∧ t.arc.scan.map (fun x => (x.t, x.tstate, x.late, x.mask, x.started)) = some (tr.at_, s.tstate, false, tr.arg ||| 2 ^ 15, false) ∧
    t.trig? k = none ∧ t.fwd = s.fwd ∧ t.tables = s.tables) ∧
  (∀ (s : State) (k : Nat) (tr : Trig), k < 16 → s.trig? k = some tr → tr.at_ ≤ s.tim.ct → tr.kind = .snapshot → tr.interval = 0 →
    s.arc.scan.isSome = true → Gives (.triggerFire k) s fun t =>
    t.epoch = s.epoch ∧ t.arc.scan = s.arc.scan ∧ t.rd fARC_SNAP_STATUS_OVERRUN = s.satUp fARC_SNAP_STATUS_OVERRUN ∧ Raised t .ARC_SNAP_OVERRUN ∧
    t.trig? k = none ∧ t.fwd = s.fwd ∧ t.tables = s.tables) ∧
  (∀ (s : State) (k : Nat) (tr : Trig), k < 16 → s.trig? k = some tr → tr.at_ ≤ s.tim.ct → tr.kind = .cadence → tr.interval = 0 → tr.cmd = none →
    Gives (.triggerFire k) s fun t =>
    (∀ p i, p < 8 → i < 32 → t.rd fHAR_GATE_CFG_SWAP_ARMED p i = 0 ∧
      (s.on fHAR_GATE_CFG_SWAP_ARMED p i = true → t.rd fHAR_GATE_CFG_ACTIVE p i = 1 - s.rd fHAR_GATE_CFG_ACTIVE p i ∧
        t.rd fHAR_GATE_SWAPS_SWAPS p i = (s.rd fHAR_GATE_SWAPS_SWAPS p i + 1) % 2 ^ (fHAR_GATE_SWAPS_SWAPS.hi + 1 - fHAR_GATE_SWAPS_SWAPS.lo)) ∧
      (s.on fHAR_GATE_CFG_SWAP_ARMED p i = false → t.rg .HAR_GATE_CFG p i = s.rg .HAR_GATE_CFG p i ∧ t.rg .HAR_GATE_SWAPS p i = s.rg .HAR_GATE_SWAPS p i)) ∧
    t.trig? k = none ∧ t.fwd = s.fwd ∧ t.arc = s.arc ∧ t.tables = s.tables ∧ t.ports = s.ports) ∧
  (∀ (s : State) (k : Nat) (tr : Trig) (f : TackField), k < 16 → s.trig? k = some tr → tr.at_ ≤ s.tim.ct → tr.kind = .tack → tr.interval = 0 →
    s.on fFOL_TACK_STATUS_LOADED = true → s.fol.pend = [f] → f.at_.reg = .HAR_OVH → f.hi < 32 → f.lo ≤ f.hi → f.mask = 2 ^ (f.hi + 1 - f.lo) - 1 →
    f.value ≤ f.mask → Gives (.triggerFire k) s fun t =>
    bitsOf (t.rg .HAR_OVH f.at_.p f.at_.i f.at_.j f.at_.k).toNat f.hi f.lo = f.value ∧ t.rd fFOL_TACK_STATUS_IN_FORCE = s.rd fFOL_TACK_STATUS_TARGET ∧
    t.rd fFOL_WARM_TACK_V = 1 ∧ t.rd fFOL_WARM_TACK_TACK = s.rd fFOL_TACK_STATUS_TARGET ∧ t.rd fFOL_TACK_STATUS_ARMED = 0 ∧
    t.trig? k = none ∧ t.fwd = s.fwd ∧ t.arc = s.arc ∧ t.tables = s.tables) ∧
  (∀ (s : State) (d : Int) (t0 r0 : Nat) (tr : Trig), s.tim.pend = some ⟨.step d, t0, r0⟩ → t0 < s.tim.ct + s.tim.freq → s.tim.trigs = [tr] →
    t0 < tr.at_ → (tr.at_ : Int) < t0 + d → tr.kind = .gpio1 → tr.interval ≠ 0 → tr.cmd = none → s.ed.imm = none → s.ckr.pulses = [] →
    Gives .courseTimeApply s fun t =>
    t.tim.trigs = [{ tr with at_ := tr.at_ + ns tr.interval * ((((t0 : Int) + d).toNat - tr.at_) / ns tr.interval + 1) }] ∧
    t.rd fTIM_TRIG_CTRL_FIRED 0 tr.slot = 1 ∧ t.rd fTIM_TRIG_CTRL_LATE 0 tr.slot = 1 ∧
    t.rd fTIM_TRIG_CTRL_SKIPPED 0 tr.slot = min (2 ^ (fTIM_TRIG_CTRL_SKIPPED.hi + 1 - fTIM_TRIG_CTRL_SKIPPED.lo) - 1)
      (s.rd fTIM_TRIG_CTRL_SKIPPED 0 tr.slot + (((t0 : Int) + d).toNat - tr.at_) / ns tr.interval) ∧
    Raised t .TIM_TRIG_LATE ∧ t.arc = s.arc ∧ t.tables = s.tables ∧ t.fwd = s.fwd)

/-- R6, R327, R352, R354, R356, R465, R468: the writes that change nothing but the reject log. The offset that the log holds for BAR2 is open
(assumption log 3). -/
def Obligations.RegisterWrites : Prop :=
  (∀ (s : State) (m : Master) (addr : Nat) (single : Bool) (data : Word), s.hears m = true → single = false ∨ addr % 4 ≠ 0 →
    Gives (.registerWrite m .bar0 addr single data) s fun t => Rejected s t m .badAccess addr data) ∧
  (∀ (s : State) (m : Master) (addr : Nat) (data : Word), s.hears m = true → addr % 4 = 0 → regAt addr = none → s.clockStopped addr = false →
    (m = .sb → inWindow addr false = true) → data ≠ 0 → Gives (.registerWrite m .bar0 addr true data) s fun t => Rejected s t m .badAccess addr data) ∧
  (∀ (s : State) (m : Master) (addr : Nat), addr % 4 = 0 → regAt addr = none → s.clockStopped addr = false → (m = .sb → inWindow addr false = true) →
    exec (.registerWrite m .bar0 addr true 0) s = .next s) ∧
  (∀ (s : State) (addr : Nat) (data : Word), addr % 4 = 0 → inWindow addr false = false →
    Gives (.registerWrite .sb .bar0 addr true data) s fun t => Rejected s t .sb .badAccess addr data) ∧
  (∀ (s : State) (m : Master) (a : RegAt) (addr : Nat) (data : Word), s.hears m = true → addr % 4 = 0 → regAt addr = some a → (m = .sb → inWindow addr false = true) →
    s.bootForbids a.reg.desc.block = false → s.notOwned m a = true →
    Gives (.registerWrite m .bar0 addr true data) s fun t => Rejected s t m .notOwner addr data) ∧
  (∀ (s : State) (m : Master) (addr : Nat) (data : Word),
    (addr < 0x40000 ∧ addr % 0x1000 < 4 ∧ (chanHost (addr / 0x1000)).1.master = m) ∨ (0x40000 ≤ addr ∧ addr < 0x41020) →
    exec (.registerWrite m .bar2 addr false data) s = .next s) ∧
  (∀ (s : State) (m : Master) (bar : Bar) (addr : Nat) (single : Bool) (data : Word), s.hears m = false →
    exec (.registerWrite m bar addr single data) s = .next s) ∧
  (∀ (s : State) (m : Master) (r : Reg) (p i j k d : Nat), hostOf ⟨r, p, i, j, k⟩ = none → regDomain ⟨r, p, i, j, k⟩ = some d →
    (s.notOwned m ⟨r, p, i, j, k⟩ = true ↔ s.owner d ≠ 0 ∧ s.owner d ≠ m.owner)) ∧
  (∀ (s : State) (m : Master) (addr : Nat) (single : Bool) (data : Word), s.hears m = true → m ≠ .sb →
    0x41020 ≤ addr ∨ (addr < 0x40000 ∧ 4 ≤ addr % 0x1000 ∧ (chanHost (addr / 0x1000)).1.master = m) →
    Gives (.registerWrite m .bar2 addr single data) s fun t => (∃ off : Nat, Logged s t m .badAccess off data) ∧
      t = { s with regs := t.regs, hst := { s.hst with rejects := t.hst.rejects, rejLost := t.hst.rejLost }, free := t.free } ∧
      SameBits s t [fHST_REJECT_COUNT_COUNT.loc 0 m.num]) ∧
  (∀ (s : State) (m : Master) (addr : Nat) (single : Bool) (data : Word), s.hears m = true → m ≠ .sb → addr < 0x40000 →
    (chanHost (addr / 0x1000)).1.master ≠ m → Gives (.registerWrite m .bar2 addr single data) s fun t =>
      (∃ off : Nat, Logged s t m .notOwner off data) ∧
      t = { s with regs := t.regs, hst := { s.hst with rejects := t.hst.rejects, rejLost := t.hst.rejLost }, free := t.free } ∧
      SameBits s t [fHST_REJECT_COUNT_COUNT.loc 0 m.num])

/-- R5, R6, R11: what a write does to the fields of a register, for the registers of `plainRegs`. -/
def Obligations.RegisterFields : Prop :=
  (∀ (s : State) (m : Master) (r : Reg) (p i j k : Nat) (data : Word), r ∈ plainRegs → regAt (r.addr p i j k) = some ⟨r, p, i, j, k⟩ →
    s.passes m r p i j k → Gives (.registerWrite m .bar0 (r.addr p i j k) true data) s fun t =>
    (∀ f ∈ r.desc.fields, bitsOf (t.rg r p i j k).toNat f.hi f.lo =
      f.after (s.gateOpen (some m) r.desc.block p) (s.rg r p i j k).toNat data.toNat) ∧
    SameBits s t [r.loc p i j k, fHST_REJECT_COUNT_COUNT.loc 0 m.num] ∧
    t = { s with regs := t.regs, hst := t.hst } ∧
    t.hst = { s.hst with round := t.hst.round, rejects := t.hst.rejects, rejLost := t.hst.rejLost } ∧
    (s.gateOpen (some m) r.desc.block p = true ∨ r.desc.expertHit = false →
      t.hst.rejects = s.hst.rejects ∧ SameBits s t [r.loc p i j k]) ∧
    (s.gateOpen (some m) r.desc.block p = false → r.desc.expertHit = true → s.hst.rejects.length < 16 →
      t.hst.rejects = s.hst.rejects ++
        [[word (2 ^ 31 + b2n s.hst.rejLost * 2 ^ 30 + m.owner * 2 ^ 28 + 2 * 2 ^ 24), word (r.addr p i j k), data] ++ ctWords s.tim.ct])) ∧
  (∀ (s : State) (m : Master) (r : Reg) (p i j k : Nat) (data : Word), regAt (r.addr p i j k) = some ⟨r, p, i, j, k⟩ → r ≠ .GEN_OWNER_CAS →
    isGate r = false → s.passes m r p i j k → s.absentPort ⟨r, p, i, j, k⟩ = true →
    Gives (.registerWrite m .bar0 (r.addr p i j k) true data) s fun t => Rejected s t m .badValue (r.addr p i j k) data)

/-- R7, R31, R83, R327, R354, R465: reads. -/
def Obligations.RegisterReads : Prop :=
  (∀ (s : State) (m : Master) (r : Reg) (p i j k : Nat), r ∈ plainRegs → regAt (r.addr p i j k) = some ⟨r, p, i, j, k⟩ → s.hears m = true →
    r.addr p i j k % 4 = 0 → (m = .sb → inWindow (r.addr p i j k) true = true) → s.blockRuns r.desc.block = true → s.ckr.warmAt = none →
    Gives (.latchedWordRead m .bar0 (r.addr p i j k) true) s fun t => t = { s with hst := { s.hst with round := t.hst.round, readData := AMap.set s.hst.readData m (some (s.rg r p i j k)) } }) ∧
  (∀ (s : State) (m : Master) (r : Reg) (p i j k : Nat), regAt (r.addr p i j k) = some ⟨r, p, i, j, k⟩ → s.hears m = true → m ≠ .sb →
    r.addr p i j k % 4 = 0 → s.absentPort ⟨r, p, i, j, k⟩ = true → s.runs 1 = true →
    Gives (.latchedWordRead m .bar0 (r.addr p i j k) true) s fun t => t = { s with hst := { s.hst with round := t.hst.round, readData := AMap.set s.hst.readData m (some 0) } }) ∧
  (∀ (s : State) (m : Master) (addr : Nat) (single : Bool), s.hears m = true → single = false ∨ addr % 4 ≠ 0 →
    exec (.latchedWordRead m .bar0 addr single) s = .next { s with hst := { s.hst with readData := AMap.set s.hst.readData m none } }) ∧
  (∀ (s : State) (m : Master) (addr : Nat), s.hears m = true → addr % 4 = 0 → regAt addr = none → s.clockStopped addr = false →
    exec (.latchedWordRead m .bar0 addr true) s = .next { s with hst := { s.hst with readData := AMap.set s.hst.readData m (some 0) } }) ∧
  (∀ (s : State) (m : Master), s.hears m = true → s.runs 2 = true → s.ckr.warmAt = none →
    Gives (.latchedWordRead m .bar0 0x10030 true) s fun t =>
    AMap.get? t.hst.readData m = (ctWords s.tim.ct).head?.map some ∧
    t.hst.held = (m, ⟨.TIM_NOW, 0, 0, 0, 0⟩, ctWords s.tim.ct) :: s.hst.held.filter (fun h => h.1 != m) ∧
    t = { s with hst := { s.hst with held := t.hst.held, readData := t.hst.readData, round := t.hst.round } }) ∧
  (∀ (s : State) (m : Master) (i : Nat) (ws : List Word), s.hears m = true → i = 1 ∨ i = 2 → s.runs 2 = true → s.ckr.warmAt = none →
    s.hst.held.find? (fun h => h.1 == m && h.2.1 == ⟨.TIM_NOW, 0, 0, 0, 0⟩) = some (m, ⟨.TIM_NOW, 0, 0, 0, 0⟩, ws) →
    Gives (.latchedWordRead m .bar0 (0x10030 + 4 * i) true) s fun t => t = { s with hst := { s.hst with round := t.hst.round, readData := AMap.set s.hst.readData m (some (ws.getD i 0)) } }) ∧
  (∀ (s : State) (m : Master) (port : Nat) (e : List Word) (rest : List (List Word)), s.hears m = true → m ≠ .sb → port < 256 →
    s.portExists port = true → s.runs 1 = true → s.ckr.warmAt = none → s.tsFifo port = e :: rest → Gives (.tsFifoRead m port) s fun t =>
    AMap.get? t.hst.readData m = some (some (e.getD 0 0)) ∧ t.tsFifo port = rest ∧
    t.hst.held = (m, ⟨.PRT_TS_FIFO, port / 32, port % 32, 0, 0⟩, e) :: s.hst.held.filter (fun h => h.1 != m) ∧
    t.ports = { s.ports with tsFifo := t.ports.tsFifo } ∧ (∀ q, q ≠ port → t.tsFifo q = s.tsFifo q) ∧
    t = { s with ports := t.ports, hst := { s.hst with held := t.hst.held, readData := t.hst.readData, round := t.hst.round } }) ∧
  (∀ (s : State) (m : Master) (port : Nat), s.hears m = true → m ≠ .sb → port < 256 → s.runs 1 = true → s.ckr.warmAt = none →
    s.tsFifo port = [] ∨ s.portExists port = false →
    Gives (.tsFifoRead m port) s fun t => AMap.get? t.hst.readData m = some (some 0) ∧ t.tsFifo port = s.tsFifo port) ∧
  (∀ (s : State) (m : Master) (e : List Word) (rest : List (List Word)), s.hears m = true → s.runs 1 = true → s.ckr.warmAt = none →
    s.hst.rejects = e :: rest → Gives (.rejectLogRead m) s fun t =>
    AMap.get? t.hst.readData m = some (some (e.getD 0 0)) ∧ t.hst.rejects = rest ∧
    t.hst.held = (m, ⟨.HST_REJECT_LOG, 0, 0, 0, 0⟩, e) :: s.hst.held.filter (fun h => h.1 != m) ∧
    t = { s with hst := { s.hst with rejects := t.hst.rejects, held := t.hst.held, readData := t.hst.readData, round := t.hst.round } }) ∧
  (∀ (s : State) (m : Master), s.hears m = true → s.runs 1 = true → s.ckr.warmAt = none → s.hst.rejects = [] →
    Gives (.rejectLogRead m) s fun t => AMap.get? t.hst.readData m = some (some 0) ∧ t.hst.rejects = []) ∧
  (∀ (s : State) (c : Nat), s.hears .a = true → c < 64 → exec (.latchedWordRead .a .bar2 (c * 0x1000) true) s =
    .next { s with hst := { s.hst with readData := AMap.set s.hst.readData .a (some (AMap.getD s.hst.doorbell (.a, c) 0)) } }) ∧
  (∀ (s : State) (m : Master) (bar : Bar) (addr : Nat) (single : Bool), s.hears m = false →
    exec (.latchedWordRead m bar addr single) s = .next s)

/-- R10: one master's expert gate of one block. -/
def Obligations.ExpertGates : Prop :=
  (∀ (s : State) (m : Master) (r : Reg) (p : Nat), isGate r = true → (if r.desc.block.perPipe then p < 8 else p = 0) → s.passes m r p →
    Gives (.expertGateWrite m (r.addr p) 0xE0) s fun t =>
      t.gate m r.desc.block p = (true, false) ∧ (∀ x b q, (x, b, q) ≠ (m, r.desc.block, p) → t.gate x b q = s.gate x b q) ∧
      t = { s with hst := { s.hst with gates := t.hst.gates, round := t.hst.round } }) ∧
  (∀ (s : State) (m : Master) (r : Reg) (p : Nat), isGate r = true → (if r.desc.block.perPipe then p < 8 else p = 0) → s.passes m r p →
    (s.gate m r.desc.block p).1 = true → Gives (.expertGateWrite m (r.addr p) 0x1F) s fun t =>
      t.gate m r.desc.block p = (false, true) ∧ (∀ x b q, (x, b, q) ≠ (m, r.desc.block, p) → t.gate x b q = s.gate x b q) ∧
      t = { s with hst := { s.hst with gates := t.hst.gates, round := t.hst.round } }) ∧
  (∀ (s : State) (m : Master) (r : Reg) (p key : Nat), isGate r = true → (if r.desc.block.perPipe then p < 8 else p = 0) → s.passes m r p →
    key < 256 → key ≠ 0xE0 → key ≠ 0x1F ∨ (s.gate m r.desc.block p).1 = false → Gives (.expertGateWrite m (r.addr p) key) s fun t =>
      t.gate m r.desc.block p = (false, false) ∧ (∀ x b q, (x, b, q) ≠ (m, r.desc.block, p) → t.gate x b q = s.gate x b q) ∧
      t = { s with hst := { s.hst with gates := t.hst.gates, round := t.hst.round } }) ∧
  (∀ (s : State) (m : Master) (b : Block) (p : Nat) (o : Bool) (t0 : Nat), AMap.get? s.hst.gates (m, b, p) = some (o, t0) →
    (s.tim.now < t0 + 1000000 → s.gate m b p = (!o, o)) ∧ (t0 + 1000000 ≤ s.tim.now → s.gate m b p = (false, false))) ∧
  (∀ s : State, Gives .expertGateExpire s fun t =>
    t.hst.gates = s.hst.gates.filter (fun g => decide (s.tim.now < g.2.2 + 1000000)) ∧ t = { s with hst := { s.hst with gates := t.hst.gates } }) ∧
  (∀ (s : State) (pw : Bool), Gives (.coldReset pw) s fun t => t.hst.gates = []) ∧
  (∀ (s : State) (m : Master), s.passes m .CKR_RESET → s.gateOpen (some m) .CKR 0 = true → Gives (.warmReset m 0x5A) s fun t => t.hst.gates = [])

/-- R356, R459: the transactions of the sideband. -/
def Obligations.Sideband : Prop :=
  (∀ (s : State) (addr data : Word) (pec : List Byte),
    pec = [byte (crc8 (byte (2 * s.rd fHST_SB_CFG_ADDR) :: byte 1 :: wordBytes addr ++ wordBytes data))] ∨
      (pec = [] ∧ s.on fHST_SB_CFG_PEC_REQ = false) →
    Gives (.sidebandWrite (s.rd fHST_SB_CFG_ADDR) (byte 1 :: wordBytes addr ++ wordBytes data ++ pec)) s fun t =>
      t.hst.sbAck = true ∧ t = { (s.regWrite .sb addr.toNat data.toNat).1 with hst := t.hst } ∧
      t.hst = { (s.regWrite .sb addr.toNat data.toNat).1.hst with sbAck := true }) ∧
  (∀ (s : State) (body pec : List Byte), body.length = 9 → (pec = [] ∧ s.on fHST_SB_CFG_PEC_REQ = true) ∨
      (∃ b : Byte, pec = [b] ∧ b.toNat ≠ crc8 (byte (2 * s.rd fHST_SB_CFG_ADDR) :: body)) ∨ body.head? ≠ some (byte 1) →
    exec (.sidebandWrite (s.rd fHST_SB_CFG_ADDR) (body ++ pec)) s =
      .next { s with hst := { s.hst with sbAck := false, sbBad := s.hst.sbBad + 1 } }) ∧
  (∀ (s : State) (addr7 : Nat) (bytes : List Byte), addr7 ≠ s.rd fHST_SB_CFG_ADDR →
    exec (.sidebandWrite addr7 bytes) s = .next { s with hst := { s.hst with sbAck := false } } ∧
    exec (.sidebandRead addr7 bytes) s = .next { s with hst := { s.hst with sbAck := false } }) ∧
  (∀ (s : State) (r : Reg) (p i j k : Nat), r ∈ plainRegs → regAt (r.addr p i j k) = some ⟨r, p, i, j, k⟩ → r.addr p i j k % 4 = 0 →
    r.addr p i j k < 2 ^ 32 → inWindow (r.addr p i j k) true = true → s.blockRuns r.desc.block = true → s.ckr.warmAt = none →
    Gives (.sidebandRead (s.rd fHST_SB_CFG_ADDR) (byte 2 :: wordBytes (word (r.addr p i j k)))) s fun t =>
      t.hst.sbAck = true ∧ t.hst.sbTx.take 4 = wordBytes (s.rg r p i j k) ∧
      t.hst.sbTx.drop 4 = [byte (crc8 (byte (2 * s.rd fHST_SB_CFG_ADDR) :: byte 2 :: wordBytes (word (r.addr p i j k)) ++
        byte (2 * s.rd fHST_SB_CFG_ADDR + 1) :: wordBytes (s.rg r p i j k)))] ∧
      t = { s with hst := { s.hst with sbAck := true, sbTx := t.hst.sbTx, readData := t.hst.readData, round := t.hst.round } }) ∧
  (∀ s : State, s.hst.alertN = false → exec .alertResponse s =
    .next { s with hst := { s.hst with sbAck := true, alertN := true, sbTx := [byte (2 * s.rd fHST_SB_CFG_ADDR)] } }) ∧
  (∀ s : State, s.hst.alertN = true → exec .alertResponse s = .next { s with hst := { s.hst with sbAck := false } }) ∧
  (∀ s : State, exec .sidebandTimeout s = .next { s with hst := { s.hst with sbAck := false, sbBad := s.hst.sbBad + 1, sbTx := [] } })

/-- R353: `GEN_OWNER_CAS`. `d`, `e` and `n` are DOMAIN, EXPECT and NEW. -/
def Obligations.Ownership : Prop :=
  (∀ (s : State) (m : Master) (d e n : Nat) (f : Bool), s.passes m .GEN_OWNER_CAS → d < 64 → e < 4 → n < 4 →
    Gives (.ownerCas m (word (d + e * 2 ^ 8 + n * 2 ^ 12 + b2n f * 2 ^ 16))) s fun t =>
      (s.casOk m d e n f = true → t.owner d = n ∧ SameBits s t [Reg.GEN_OWNER_MAP.loc 0 (d / 16)] ∧ ∀ q, q ≠ d → t.owner q = s.owner q) ∧
      (s.casOk m d e n f = false → t.regs = s.regs) ∧
      t = { s with regs := t.regs, hst := t.hst } ∧ t.hst = { s.hst with round := t.hst.round, cas := t.hst.cas } ∧
      AMap.get? t.hst.cas m = some (word (2 ^ 29 + b2n (s.casOk m d e n f) * 2 ^ 28 + t.owner d * 2 ^ 26 + d))) ∧
  (∀ (s : State) (m : Master) (d e n : Nat), s.casOk m d e n false = true ↔
    (d < 48 ∧ d ≠ 14 ∧ d ≠ 15) ∧ s.owner d = e ∧ (e = m.owner ∨ (e = 0 ∧ n = m.owner))) ∧
  (∀ (s : State) (m : Master) (d e n : Nat), s.casOk m d e n true = true ↔ (d < 48 ∧ d ≠ 14 ∧ d ≠ 15) ∧ m = .sb) ∧
  (∀ (d : Nat), State.reset.owner d = 0)

/-- R66, R68, R71, R72: what software and auto-negotiation do to a port. The ranges assumed of the port's other fields are those that every
accepted write leaves. -/
def Obligations.PortAdmin : Prop :=
  (∀ (s : State) (m : Master) (port : Nat), port < 256 → s.passes m .PRT_CFG (port / 32) (port % 32) → s.gateOpen (some m) .PRT (port / 32) = true →
    s.portExists port = true → s.prt fPRT_CFG_LOOPBACK port ≤ 2 → 1518 ≤ s.prt fPRT_CFG_MAX_FRAME port → s.prt fPRT_CFG_MAX_FRAME port ≤ 9600 →
    s.prt fPRT_CFG_ADMIN port = 0 → s.portState port = psDISABLED → port ∉ s.ports.safe → Gives (.adminWrite m port true) s fun t =>
    t.prt fPRT_CFG_ADMIN port = 1 ∧ t.portState port = psDOWN ∧
    t.hst = { s.hst with round := t.hst.round } ∧ t = { s with regs := t.regs, hst := t.hst } ∧
    SameBits s t [fPRT_CFG_ADMIN.ofPort port, fPRT_STATE_STATE.ofPort port]) ∧
  (∀ (s : State) (m : Master) (port : Nat), port < 256 → s.passes m .PRT_CFG (port / 32) (port % 32) → s.gateOpen (some m) .PRT (port / 32) = true →
    s.portExists port = true → s.prt fPRT_CFG_LOOPBACK port ≤ 2 → 1518 ≤ s.prt fPRT_CFG_MAX_FRAME port → s.prt fPRT_CFG_MAX_FRAME port ≤ 9600 →
    s.prt fPRT_CFG_ADMIN port = 1 → s.portState port = psDOWN ∨ s.portState port = psHOLD_UP → s.rxOpen port = none →
    Gives (.adminWrite m port false) s fun t =>
    t.prt fPRT_CFG_ADMIN port = 0 ∧ t.portState port = psDISABLED ∧ t.prt fPRT_STATE_LINK_RAW port = 0 ∧ t.prt fPRT_STATE_HOLD_TIMER port = 0 ∧
    AMap.get? t.ports.holdUp port = none ∧ AMap.get? t.ports.downHold port = none ∧
    t.ports = { s.ports with holdUp := t.ports.holdUp, downHold := t.ports.downHold } ∧
    t.hst = { s.hst with round := t.hst.round } ∧ t = { s with regs := t.regs, hst := t.hst, ports := t.ports } ∧
    SameBits s t [fPRT_CFG_ADMIN.ofPort port, fPRT_STATE_STATE.ofPort port, fPRT_STATE_LINK_RAW.ofPort port, fPRT_STATE_HOLD_TIMER.ofPort port,
      fPRT_STATE_ALIGNED.ofPort port, fPRT_STATE_AN_DONE.ofPort port]) ∧
  (∀ (s : State) (m : Master) (port : Nat), port < 256 → s.passes m .PRT_CFG (port / 32) (port % 32) →
    s.gateOpen (some m) .PRT (port / 32) = false → s.portExists port = true → s.prt fPRT_CFG_LOOPBACK port ≤ 2 →
    1518 ≤ s.prt fPRT_CFG_MAX_FRAME port → s.prt fPRT_CFG_MAX_FRAME port ≤ 9600 →
    s.prt fPRT_CFG_ADMIN port = 0 → s.portState port = psDISABLED → port ∉ s.ports.safe → Gives (.adminWrite m port true) s fun t =>
    t.prt fPRT_CFG_ADMIN port = 1 ∧ t.portState port = psDOWN ∧
    t.rd fHST_REJECT_COUNT_COUNT 0 m.num = s.satUp fHST_REJECT_COUNT_COUNT 0 m.num ∧
    t.hst = { s.hst with round := t.hst.round, rejects := t.hst.rejects, rejLost := t.hst.rejLost } ∧ t = { s with regs := t.regs, hst := t.hst } ∧
    SameBits s t [fPRT_CFG_ADMIN.ofPort port, fPRT_STATE_STATE.ofPort port, fHST_REJECT_COUNT_COUNT.loc 0 m.num]) ∧
  (∀ (s : State) (m : Master) (o : Nat) (data : Word), o < 32 → s.passes m .PRT_OCT_MODE (o / 4) (o % 4) → bitsOf data.toNat 3 0 ≤ 14 →
    modeFecOk (bitsOf data.toNat 3 0) (bitsOf data.toNat 9 8) = true → s.octIdle o = true → Gives (.octetModeApply m o data) s fun t =>
    t.rd fPRT_OCT_STATUS_ACTIVE_MODE (o / 4) (o % 4) = bitsOf data.toNat 3 0 ∧ t.rd fPRT_OCT_STATUS_READY (o / 4) (o % 4) = 0 ∧
    t.rd fPRT_OCT_MODE_MODE (o / 4) (o % 4) = bitsOf data.toNat 3 0 ∧ t.rd fPRT_OCT_MODE_FEC (o / 4) (o % 4) = bitsOf data.toNat 9 8 ∧
    AMap.get? t.ports.octAt o = some s.tim.rc ∧ t.ports = { s.ports with octAt := t.ports.octAt, octFec := t.ports.octFec } ∧
    t.hst = { s.hst with round := t.hst.round } ∧ t = { s with regs := t.regs, hst := t.hst, ports := t.ports } ∧
    SameBits s t [Reg.PRT_OCT_MODE.loc (o / 4) (o % 4), fPRT_OCT_STATUS_ACTIVE_MODE.loc (o / 4) (o % 4),
      fPRT_OCT_STATUS_READY.loc (o / 4) (o % 4)]) ∧
  (∀ (s : State) (m : Master) (o : Nat) (data : Word), o < 32 → s.passes m .PRT_OCT_MODE (o / 4) (o % 4) → bitsOf data.toNat 3 0 ≤ 14 →
    modeFecOk (bitsOf data.toNat 3 0) (bitsOf data.toNat 9 8) = true → s.octIdle o = false → s.hst.rejects.length < 16 →
    Gives (.octetModeApply m o data) s fun t =>
    t.rd fPRT_OCT_STATUS_REFUSED (o / 4) (o % 4) = 1 ∧ t.hst.rejects.length = s.hst.rejects.length + 1 ∧
    t.hst = { s.hst with round := t.hst.round, rejects := t.hst.rejects, rejLost := false } ∧ t = { s with regs := t.regs, hst := t.hst } ∧
    SameBits s t [fPRT_OCT_STATUS_REFUSED.loc (o / 4) (o % 4), fHST_REJECT_COUNT_COUNT.loc 0 m.num]) ∧
  (∀ (s : State) (o t0 : Nat), AMap.get? s.ports.octAt o = some t0 → s.rd fPRT_OCT_STATUS_ACTIVE_MODE (o / 4) (o % 4) ≠ 0 →
    Gives (.octetReady o) s fun t =>
    t.rd fPRT_OCT_STATUS_READY (o / 4) (o % 4) = 1 ∧ AMap.get? t.ports.octAt o = none ∧
    t = { s with regs := t.regs, ports := { s.ports with octAt := t.ports.octAt } } ∧
    SameBits s t [fPRT_OCT_STATUS_READY.loc (o / 4) (o % 4)]) ∧
  (∀ (s : State) (port : Nat) (taps : List Word), s.portExists port = true → s.portState port ≠ psDISABLED →
    s.on fPRT_OCT_MODE_AN_EN (port / 32) (port % 32 / 8) = true → s.on fPRT_OCT_MODE_TRAIN_EN (port / 32) (port % 32 / 8) = false →
    Gives (.anResolve port (.resolved (s.advertised port).1 (s.advertised port).2) taps) s fun t =>
    t.prt fPRT_STATE_AN_DONE port = 1 ∧ t = { s with regs := t.regs } ∧ SameBits s t [fPRT_STATE_AN_DONE.ofPort port]) ∧
  (∀ (s : State) (port : Nat) (taps : List Word), s.portExists port = true → s.portState port ≠ psDISABLED →
    s.on fPRT_OCT_MODE_AN_EN (port / 32) (port % 32 / 8) = true → s.prt fPRT_STATE_LINK_RAW port = 0 → Gives (.anResolve port .failed taps) s fun t =>
    t.prt fPRT_STATE_AN_DONE port = 0 ∧ t.prt fPRT_EVENTS_AN_FAIL port = 1 ∧ Raised t .PRT_AN_FAIL (port / 32) ∧
    t = { s with regs := t.regs, flt := t.flt } ∧ SameBits s t [fPRT_STATE_AN_DONE.ofPort port, fPRT_EVENTS_AN_FAIL.ofPort port]) ∧
  (∀ (s : State) (port mode fec : Nat) (taps : List Word), s.portExists port = true → s.portState port = psHOLD_UP → s.rxOpen port = none →
    s.on fPRT_OCT_MODE_AN_EN (port / 32) (port % 32 / 8) = true → (mode, fec) ≠ s.advertised port → s.prt fPRT_STATE_LINK_RAW port = 1 →
    Gives (.anResolve port (.resolved mode fec) taps) s fun t =>
    t.prt fPRT_STATE_AN_DONE port = 0 ∧ t.prt fPRT_EVENTS_AN_MISMATCH port = 1 ∧ t.prt fPRT_STATE_LINK_RAW port = 0 ∧
    t.portState port = psDOWN ∧ Raised t .PRT_AN_FAIL (port / 32)) ∧
  (∀ (s : State) (port : Nat) (o : AnOutcome) (taps : List Word), s.on fPRT_OCT_MODE_AN_EN (port / 32) (port % 32 / 8) = false →
    s.on fPRT_OCT_MODE_TRAIN_EN (port / 32) (port % 32 / 8) = false → exec (.anResolve port o taps) s = .next s) ∧
  (∀ (s : State) (port mode fec : Nat) (taps : List Word), s.portExists port = true → s.portState port ≠ psDISABLED →
    s.on fPRT_OCT_MODE_AN_EN (port / 32) (port % 32 / 8) = false → s.on fPRT_OCT_MODE_TRAIN_EN (port / 32) (port % 32 / 8) = true →
    Gives (.anResolve port (.resolved mode fec) taps) s fun t =>
    t.prt fPRT_STATE_AN_DONE port = 1 ∧ t = { s with regs := t.regs } ∧
    SameBits s t (fPRT_STATE_AN_DONE.ofPort port :: (s.portLanes port).flatMap fun l =>
      [Reg.PRT_LANE_TXEQ.loc (l / 32) (l % 32), fPRT_LANE_STATUS_TRAIN_DONE.loc (l / 32) (l % 32)]))

/-- R71, R72, R76: the port state machine. -/
def Obligations.PortLinks : Prop :=
  (∀ (s : State) (port : Nat), s.canRise port = true → s.portState port = psDOWN → 0 < s.prt fPRT_TIMERS_HOLD_UP_MS port →
    Gives (.linkRawRise port) s fun t =>
    t.portState port = psHOLD_UP ∧ t.prt fPRT_STATE_LINK_RAW port = 1 ∧ t.prt fPRT_STATE_HOLD_TIMER port = 1 ∧
    AMap.get? t.ports.holdUp port = some (s.tim.rc + ns (1000000 * s.prt fPRT_TIMERS_HOLD_UP_MS port)) ∧
    t = { s with regs := t.regs, ports := { s.ports with holdUp := t.ports.holdUp } } ∧
    SameBits s t ([Reg.PRT_STATE.loc (port / 32) (port % 32), Reg.TIM_SYNCE.loc 0 0, Reg.TIM_SYNCE.loc 0 1] ++
      (s.portLanes port).map fun l => Reg.PRT_LANE_STATUS.loc (l / 32) (l % 32))) ∧
  (∀ (s : State) (port : Nat), s.canRise port = true → s.portState port = psUP → Gives (.linkRawRise port) s fun t =>
    t.portState port = psUP ∧ t.prt fPRT_STATE_LINK_RAW port = 1 ∧ t.prt fPRT_EVENTS_DAMPED port = 1 ∧
    AMap.get? t.ports.downHold port = none ∧ CountsUp s t [((1, port, 84), 1)] ∧
    t = { s with regs := t.regs, cnts := t.cnts, saved := t.saved, ports := { s.ports with downHold := t.ports.downHold } } ∧
    SameBits s t ([Reg.PRT_STATE.loc (port / 32) (port % 32), fPRT_EVENTS_DAMPED.ofPort port, Reg.TIM_SYNCE.loc 0 0, Reg.TIM_SYNCE.loc 0 1] ++
      (s.portLanes port).map fun l => Reg.PRT_LANE_STATUS.loc (l / 32) (l % 32))) ∧
  (∀ (s : State) (port : Nat), s.canRise port = false → exec (.linkRawRise port) s = .next s) ∧
  (∀ (s : State) (port lane : Nat), s.portExists port = true → s.prt fPRT_STATE_LINK_RAW port = 1 → s.portState port = psHOLD_UP →
    s.live port = false → s.rxOpen port = none → Gives (.linkRawFall port lane 2) s fun t =>
    t.portState port = psDOWN ∧ t.prt fPRT_STATE_LINK_RAW port = 0 ∧ t.prt fPRT_STATE_LF port = 1 ∧ t.prt fPRT_STATE_HOLD_TIMER port = 0 ∧
    AMap.get? t.ports.holdUp port = none ∧ CountsUp s t [((1, port, 83), 1)] ∧
    t = { s with regs := t.regs, cnts := t.cnts, saved := t.saved, ports := { s.ports with holdUp := t.ports.holdUp } } ∧
    SameBits s t [fPRT_STATE_STATE.ofPort port, fPRT_STATE_LINK_RAW.ofPort port, fPRT_STATE_LF.ofPort port, fPRT_STATE_HOLD_TIMER.ofPort port]) ∧
  (∀ (s : State) (port lane : Nat), s.portExists port = true → s.prt fPRT_STATE_LINK_RAW port = 1 → s.portState port = psUP →
    s.live port = true → s.rxOpen port = none → 0 < s.prt fPRT_TIMERS_DOWN_HOLD_MS port → Gives (.linkRawFall port lane 3) s fun t =>
    t.portState port = psUP ∧ t.prt fPRT_STATE_LINK_RAW port = 0 ∧ t.prt fPRT_STATE_RF port = 1 ∧ t.live port = false ∧
    AMap.get? t.ports.downHold port = some (s.tim.rc + ns (1000000 * s.prt fPRT_TIMERS_DOWN_HOLD_MS port)) ∧
    CountsUp s t [((1, port, 83), 1), ((1, port, 85), 1)] ∧
    t = { s with regs := t.regs, cnts := t.cnts, saved := t.saved, ports := { s.ports with downHold := t.ports.downHold } } ∧
    SameBits s t [fPRT_STATE_LINK_RAW.ofPort port, fPRT_STATE_RF.ofPort port, fPRT_STATE_LIVE.ofPort port]) ∧
  (∀ (s : State) (port lane cause : Nat), s.prt fPRT_STATE_LINK_RAW port = 0 → exec (.linkRawFall port lane cause) s = .next s) ∧
  (∀ (s : State) (port t0 : Nat), AMap.get? s.ports.holdUp port = some t0 → t0 ≤ s.tim.rc → s.portState port = psHOLD_UP →
    Gives (.holdUpExpire port) s fun t =>
    t.portState port = psUP ∧ t.live port = true ∧ t.prt fPRT_EVENTS_LINK_UP port = 1 ∧ t.prt fPRT_STATE_HOLD_TIMER port = 0 ∧
    t.ports = { s.ports with holdUp := t.ports.holdUp } ∧ AMap.get? t.ports.holdUp port = none ∧ PortsOnly s t ∧
    SameBits s t [fPRT_STATE_STATE.ofPort port, fPRT_STATE_LIVE.ofPort port, fPRT_STATE_HOLD_TIMER.ofPort port, fPRT_EVENTS_LINK_UP.ofPort port]) ∧
  (∀ (s : State) (port t0 : Nat), AMap.get? s.ports.holdUp port = some t0 → s.tim.rc < t0 → exec (.holdUpExpire port) s = .next s) ∧
  (∀ (s : State) (port t0 : Nat), AMap.get? s.ports.downHold port = some t0 → t0 ≤ s.tim.rc → s.portState port = psUP →
    s.prt fPRT_CFG_FORGET_ON_DOWN port = 0 → AMap.get? s.ports.txNow port = none → AMap.getD s.ports.txWait port [] = [] →
    (s.heldEgOf (port / 32)).all (fun h => h.2.copy.slip.outPort != port) = true →
    (AMap.getD s.fwd.sel (port / 32) []).all (fun c => c.slip.outPort != port) = true → Gives (.downHoldExpire port) s fun t =>
    t.portState port = psFLUSH ∧ t.prt fPRT_EVENTS_LINK_DOWN port = 1 ∧ (port, none) ∈ t.ports.walks ∧ AMap.get? t.ports.downHold port = none ∧
    t.fwd.stalls = s.fwd.stalls ∧ t.fwd.slips = s.fwd.slips ∧ t.fwd.queues = s.fwd.queues ∧
    SameBits s t [fPRT_STATE_STATE.ofPort port, fPRT_EVENTS_LINK_DOWN.ofPort port]) ∧
  (∀ (s : State) (port t0 : Nat), AMap.get? s.ports.downHold port = some t0 → s.tim.rc < t0 → exec (.downHoldExpire port) s = .next s)

/-- R73, R238, R240, R72: what a walk frees, and its end. That UP follows where the hold-up timer never started is the model's choice
(assumption log 44). -/
def Obligations.Walks : Prop :=
  (∀ (s : State) (port q : Nat) (cls : Option Nat) (x : Slip) (st : Stall), s.ports.walks.find? (·.1 == port) = some (port, cls) →
    s.walkHead port cls = some (q, x.id) → s.slip? x.id = some x → s.frameOf x = some st → 0 < st.refs → (s.queue q).Nodup →
    s.marked 0x1C 15 0 x.id = none → s.marked 0x1D 15 0 x.id = none → Gives (.walkFree port 1) s fun t =>
    t.queue q = (s.queue q).filter (· != x.id) ∧ (∀ r, r ≠ q → t.queue r = s.queue r) ∧
    t.slip? x.id = none ∧ (∀ y, y ≠ x.id → t.slip? y = s.slip? y) ∧ t.rd fSTB_SLIP_FREE = s.satUp fSTB_SLIP_FREE ∧
    t.rd fSTB_EG_USED_USED 0 (pc x.outPort x.cls) = s.rd fSTB_EG_USED_USED 0 (pc x.outPort x.cls) - x.units ∧
    (t.frameOf x).map (·.refs) = (if st.refs = 1 then none else some (st.refs - 1)) ∧
    t.cnt 5 (x.outPort * 256 + (if cls.isSome then 0x83 else 0x80)) 0 = s.cnt 5 (x.outPort * 256 + (if cls.isSome then 0x83 else 0x80)) 0 + 1 ∧
    t.cnt 6 q 3 = s.cnt 6 q 3 + 1 ∧ t.cnt 14 (port / 32 * 1024 + 274) 0 = s.cnt 14 (port / 32 * 1024 + 274) 0 + 1 ∧
    t.ports.walks = s.ports.walks) ∧
  (∀ (s : State) (port n : Nat), (∀ w ∈ s.ports.walks, w.1 ≠ port) → exec (.walkFree port n) s = .next s) ∧
  (∀ (s : State) (port n : Nat) (cls : Option Nat), s.ports.walks.find? (·.1 == port) = some (port, cls) → s.walkHead port cls = none →
    exec (.walkFree port n) s = .next s) ∧
  (∀ (s : State) (port : Nat), s.ports.walks = [(port, none)] → s.walkDone port none = true → s.portState port = psFLUSH →
    s.prt fPRT_CFG_ADMIN port = 1 → s.prt fPRT_STATE_LINK_RAW port = 0 → Gives (.walkEnd port) s fun t =>
    t.portState port = psDOWN ∧ t = { s with regs := t.regs, ports := { s.ports with walks := [] } } ∧ SameBits s t [fPRT_STATE_STATE.ofPort port]) ∧
  (∀ (s : State) (port : Nat), s.ports.walks = [(port, none)] → s.walkDone port none = true → s.portState port = psFLUSH →
    s.prt fPRT_CFG_ADMIN port = 1 → s.prt fPRT_STATE_LINK_RAW port = 1 → s.prt fPRT_STATE_HOLD_TIMER port = 1 → Gives (.walkEnd port) s fun t =>
    t.portState port = psHOLD_UP ∧ t = { s with regs := t.regs, ports := { s.ports with walks := [] } } ∧
    SameBits s t [fPRT_STATE_STATE.ofPort port]) ∧
  (∀ (s : State) (port : Nat), s.ports.walks = [(port, none)] → s.walkDone port none = true → s.portState port = psFLUSH →
    s.prt fPRT_CFG_ADMIN port = 1 → s.prt fPRT_STATE_LINK_RAW port = 1 → s.prt fPRT_STATE_HOLD_TIMER port = 0 → Gives (.walkEnd port) s fun t =>
    t.portState port = psUP ∧ t.live port = true ∧ PortsOnly s t ∧
    SameBits s t [fPRT_STATE_STATE.ofPort port, fPRT_STATE_LIVE.ofPort port, fPRT_STATE_HOLD_TIMER.ofPort port, fPRT_EVENTS_LINK_UP.ofPort port]) ∧
  (∀ (s : State) (port : Nat), s.ports.walks = [(port, none)] → s.walkDone port none = true → s.portState port = psFLUSH →
    s.prt fPRT_CFG_ADMIN port = 0 → s.rxOpen port = none → Gives (.walkEnd port) s fun t =>
    t.portState port = psDISABLED ∧ t.prt fPRT_STATE_LINK_RAW port = 0 ∧ PortsOnly s t) ∧
  (∀ (s : State) (port : Nat), s.ports.walks = [(port, none)] → s.walkDone port none = true → s.portState port = psSAFE →
    port ∉ s.ports.safe → s.prt fPRT_CFG_ADMIN port = 1 → s.prt fPRT_STATE_LINK_RAW port = 0 → Gives (.walkEnd port) s fun t =>
    t.portState port = psDOWN ∧ t.ports.walks = [] ∧ PortsOnly s t ∧
    SameBits s t [fPRT_STATE_STATE.ofPort port, fPRT_STATE_HOLD_TIMER.ofPort port])

/-- R70, R77 to R80, R85: flow control in PFC mode. -/
def Obligations.FlowControl : Prop :=
  (∀ (s : State) (port prio till : Nat), prio < 8 → AMap.get? s.ports.pause (port, prio) = some till → till ≤ s.tim.rc →
    Gives (.pauseExpire port prio) s fun t =>
    bitOf (t.prt fPRT_PFC_STATUS_PAUSED port) prio = false ∧ AMap.get? t.ports.pause (port, prio) = none ∧
    AMap.get? t.ports.restoreAt (port, prio) = some (s.tim.rc + ms (s.prt fPRT_PFC_WD_RESTORE_MS port)) ∧
    CountsUp s t [((1, port, 48 + prio), timeSpan s.ports.pauseAcc (port, prio) s.tim.rc / nsU)] ∧
    t = { s with regs := t.regs, cnts := t.cnts, saved := t.saved, ports := t.ports } ∧ SameBits s t [fPRT_PFC_STATUS_PAUSED.ofPort port]) ∧
  (∀ (s : State) (port prio till : Nat), AMap.get? s.ports.pause (port, prio) = some till → s.tim.rc < till →
    exec (.pauseExpire port prio) s = .next s) ∧
  (∀ (s : State) (port cls : Nat), s.ports.pfcDue.find? (·.1 == port) = some (port, cls, true) → AMap.get? s.ports.txNow port = none →
    s.prt fPRT_FC_CFG_MODE port = 2 → s.portState port = psUP → bitOf (s.prt fPRT_FC_CFG_PRIO_EN port) (s.fcPrio port cls) = true →
    0 < s.prt fPRT_FC_CFG_TX_QUANTA port → Gives (.pauseFrameTx port) s fun t =>
    AMap.get? t.ports.lastTx port = some (s.pauseBytes port (s.fcPrio port cls) (s.prt fPRT_FC_CFG_TX_QUANTA port) ++
      fcsBytes (s.pauseBytes port (s.fcPrio port cls) (s.prt fPRT_FC_CFG_TX_QUANTA port))) ∧
    CountsUp s t [((2, port, 7), 1), ((2, port, 40 + s.fcPrio port cls), 1)] ∧
    AMap.get? t.ports.pfcRepeat (port, s.fcPrio port cls) = some (s.tim.rc + s.repeatTime port) ∧ (port, cls, true) ∉ t.ports.pfcDue ∧
    t = { s with cnts := t.cnts, saved := t.saved, ports := t.ports }) ∧
  (∀ (s : State) (port : Nat), (AMap.get? s.ports.txNow port).isSome = true ∨ s.portState port ≠ psUP →
    exec (.pauseFrameTx port) s = .next s) ∧
  (∀ (s : State) (port prio t0 : Nat), s.prt fPRT_FC_CFG_MODE port = 2 → AMap.get? s.ports.pfcRepeat (port, prio) = some t0 → t0 ≤ s.tim.rc →
    AMap.get? s.ports.txNow port = none → s.portState port = psUP → s.generates port prio = true → s.xoffNow port prio = true → 0 < s.prt fPRT_FC_CFG_TX_QUANTA port →
    Gives (.pauseRepeat port prio) s fun t =>
    AMap.get? t.ports.pfcRepeat (port, prio) = some (s.tim.rc + s.repeatTime port) ∧
    CountsUp s t [((2, port, 7), 1), ((2, port, 40 + prio), 1)] ∧ t = { s with cnts := t.cnts, saved := t.saved, ports := t.ports }) ∧
  (∀ (s : State) (port prio : Nat), prio < 8 → s.prt fPRT_FC_CFG_MODE port = 2 → s.stormDue port prio = true → Gives (.pfcStormDeclare port prio) s fun t =>
    bitOf (t.prt fPRT_PFC_STATUS_STORMED port) prio = true ∧ bitOf (t.prt fPRT_PFC_STATUS_STORM_EVT port) prio = true ∧
    t.prt fPRT_STATE_STORM_ANY port = 1 ∧ (port, some (s.prioClass port prio)) ∈ t.ports.walks ∧ Raised t .PRT_PFC_STORM port ∧
    t = { s with regs := t.regs, flt := t.flt, ports := { s.ports with walks := t.ports.walks } } ∧
    SameBits s t [fPRT_PFC_STATUS_STORMED.ofPort port, fPRT_PFC_STATUS_STORM_EVT.ofPort port, fPRT_STATE_STORM_ANY.ofPort port]) ∧
  (∀ (s : State) (port prio : Nat), s.stormDue port prio = false → exec (.pfcStormDeclare port prio) s = .next s) ∧
  (∀ (s : State) (port prio : Nat), prio < 8 → s.prt fPRT_FC_CFG_MODE port = 2 → s.stormOver port prio = true → Gives (.pfcStormEnd port prio) s fun t =>
    bitOf (t.prt fPRT_PFC_STATUS_STORMED port) prio = false ∧ t.prt fPRT_STATE_STORM_ANY port = b2n (t.prt fPRT_PFC_STATUS_STORMED port != 0) ∧
    t = { s with regs := t.regs } ∧ SameBits s t [fPRT_PFC_STATUS_STORMED.ofPort port, fPRT_STATE_STORM_ANY.ofPort port])

/-- R19, R69, R77, R85, R225, R294: the receive MAC. That `notUp` is fixed at the first bit is the model's choice (assumption log 44), and so are the
places of a PAUSE frame's opcode and time (PRESUMED, assumption log 12). -/
def Obligations.MacReceive : Prop :=
  (∀ (s : State) (port phase : Nat) (head : List Byte), s.portExists port = true → s.portState port ≠ psDISABLED →
    s.rxOpen port = none → Gives (.frameRxStart port phase head) s fun t =>
    (∃ x, t.fwd.rx = s.fwd.rx ++ [x] ∧ x.port = port ∧ x.bytes = head ∧ x.ended = false ∧ x.fate = .waiting ∧
      x.notUp = (s.portState port != psUP) ∧ x.tstate = s.tstate ∧ (x.ct, x.rc) = s.rxStamp port phase ∧
      x.adj = signedOf 24 (s.prt fPRT_PTP_RX_ADJ_ADJ port)) ∧
    CountsUp s t [((1, port, 2), 1), ((15, port / 32, 0), 1)] ∧
    t = { s with cnts := t.cnts, saved := t.saved, fwd := { s.fwd with rx := t.fwd.rx } }) ∧
  (∀ (s : State) (port phase : Nat) (head : List Byte), (s.rxOpen port).isSome = true ∨ s.portState port = psDISABLED →
    exec (.frameRxStart port phase head) s = .next s) ∧
  (∀ (s : State) (port : Nat) (tail : List Byte) (x : RxFrame), s.rxOpen port = some x → x.port = port → x.trunc = false → x.notUp = false →
    x.fate = .waiting → x.late = [] → x.bad = false → 64 ≤ (x.bytes ++ tail).length → (x.bytes ++ tail).length ≤ s.prt fPRT_CFG_MAX_FRAME port →
    fcsGood (x.bytes ++ tail) = true → bytesNat (((x.bytes ++ tail).drop 12).take 2) ≠ 0x8808 → Gives (.frameRxEnd port tail false false) s fun t =>
    t.fwd.rx = (if 192 ≤ x.bytes.length then
        s.fwd.rx.map (fun y => if (y.port == port && !y.ended) = true then { x with bytes := x.bytes ++ tail, ended := true } else y)
      else s.fwd.rx.filter (fun y => !(y.port == port && !y.ended)) ++ [{ x with bytes := x.bytes ++ tail, ended := true }]) ∧
    t.cnt 1 port 0 = s.cnt 1 port 0 + 1 ∧ t.cnt 1 port 1 = s.cnt 1 port 1 + (x.bytes ++ tail).length ∧
    t.cnt 1 port 3 = s.cnt 1 port 3 + (x.bytes ++ tail).length ∧ t.cnt 1 port 8 = s.cnt 1 port 8 ∧
    t = { s with cnts := t.cnts, saved := t.saved, fwd := { s.fwd with rx := t.fwd.rx } }) ∧
  (∀ (s : State) (port : Nat) (tail : List Byte) (x : RxFrame), s.rxOpen port = some x → x.port = port → x.trunc = false → x.notUp = false →
    x.fate = .waiting → x.late = [] → 64 ≤ (x.bytes ++ tail).length → (x.bytes ++ tail).length ≤ s.prt fPRT_CFG_MAX_FRAME port →
    fcsGood (x.bytes ++ tail) = false ∨ x.bad = true → bitOf (s.rd fARC_CAP_DROP_MASK_MASK 0 4) 4 = false → Gives (.frameRxEnd port tail false false) s fun t =>
    t.fwd.rx = s.fwd.rx.filter (fun y => !(y.port == port && !y.ended)) ∧
    t.cnt 1 port 8 = s.cnt 1 port 8 + 1 ∧ t.cnt 1 port 0 = s.cnt 1 port 0 ∧ t.cnt 4 (port * 256 + 0x84) 0 = s.cnt 4 (port * 256 + 0x84) 0 + 1 ∧
    t = { s with cnts := t.cnts, saved := t.saved, fwd := { s.fwd with rx := t.fwd.rx } }) ∧
  (∀ (s : State) (port phase q : Nat) (frame : List Byte), s.portExists port = true → s.rxOpen port = none → s.portState port = psUP →
    frame.length = 64 → 64 ≤ s.prt fPRT_CFG_MAX_FRAME port → fcsGood frame = true → bytesNat ((frame.drop 12).take 2) = 0x8808 →
    bytesNat ((frame.drop 14).take 2) = 1 → bytesNat ((frame.drop 16).take 2) = q → 0 < q → s.prt fPRT_FC_CFG_MODE port = 1 →
    bitOf (s.rd fARC_CAP_DROP_MASK_MASK 0 4) 8 = false → Gives (.pauseFrameRx port phase frame false) s fun t =>
    (∀ i, i < 8 → AMap.get? t.ports.pause (port, i) = some (s.tim.rc + q * 512 * nsU / s.portSpeed port)) ∧ t.prt fPRT_PFC_STATUS_PAUSED port = 255 ∧
    t.cnt 1 port 7 = s.cnt 1 port 7 + 1 ∧ t.cnt 1 port 56 = s.cnt 1 port 56 + 1 ∧
    t.cnt 4 (port * 256 + 0x88) 0 = s.cnt 4 (port * 256 + 0x88) 0 + 1 ∧ t.rxOpen port = none ∧
    t = { s with regs := t.regs, cnts := t.cnts, saved := t.saved, ports := t.ports, fwd := { s.fwd with rx := t.fwd.rx } } ∧
    SameBits s t [fPRT_PFC_STATUS_PAUSED.ofPort port]) ∧
  (∀ (s : State) (port : Nat) (bytes : List Byte) (x : RxFrame) (st : Stall), s.rxOpen port = some x → s.rxStall x = some st → st.bad = false →
    stallSize st.pool < (x.bytes ++ bytes).length → stallSize st.pool < s.prt fPRT_CFG_MAX_FRAME port → Gives (.stallOverrun port bytes) s fun t =>
    t.stall? st.pool st.idx = some { st with bytes := (x.bytes ++ bytes).take (stallSize st.pool), bad := true, reason := 0x42 } ∧
    t = { s with fwd := { s.fwd with rx := t.fwd.rx, stalls := t.fwd.stalls } }) ∧
  (∀ (s : State) (port : Nat) (syms : List Nat), s.portExists port = true → s.portState port ≠ psDISABLED →
    Gives (.fecCodewordDecode port syms true) s fun t =>
    CountsUp s t [((1, port, 65), 1)] ∧ Raised t .PRT_FEC_UNCORR port ∧ t = { s with cnts := t.cnts, saved := t.saved, flt := t.flt }) ∧
  (∀ (s : State) (port n : Nat), s.portExists port = true → s.portState port ≠ psDISABLED → 0 < n → n ≤ 15 → Gives (.fecCodewordDecode port [n] false) s fun t =>
    CountsUp s t [((1, port, 64), 1), ((1, port, 66), n), ((1, port, 67 + n), 1), ((1, port, 96), n)] ∧
    t = { s with cnts := t.cnts, saved := t.saved })

/-- R14, R17, R100, R165, R196, R214, R230, R232, R251, R252, R260, R262: the movement of frames inside a pipeline. That admission compares the present
counts, of the ages R22 and R230 allow, is the model's choice (assumption log 42). -/
def Obligations.Forwarding : Prop :=
  (∀ (s : State) (p : Nat), (∀ x ∈ s.fwd.rx, x.port / 32 ≠ p ∨ x.ready = false) → s.loop p = [] → s.injq p = [] →
    exec (.ingressSlotAssign p) s =
      .next { s with fwd := { s.fwd with credit := AMap.set s.fwd.credit p (min 7000 (AMap.getD s.fwd.credit p 0 + 450)) } }) ∧
  (∀ (s : State) (p k cls sh nx : Nat) (fr : Bool) (x : RxFrame), p < 8 → s.fwd.rx = [x] → x.port / 32 = p → x.ready = true → x.ended = true →
    s.loop p = [] → s.injq p = [] → s.flt.marks = [] → s.flt.nextMarks = [] → s.lrn.repairs = [] → s.edState x.ed ≠ 5 →
    (s.readerDecide (x.ing 0)).out = .recirc cls sh nx fr → s.on fSTB_STATUS_READY = true →
    s.choosePool ((s.readerDecide (x.ing 0)).p + 64) true = some k →
    (∀ c, c < 8 → s.rd fSTB_ING_USED_USED 0 (pc x.port c) + poolUnits k ≤ s.rd fSTB_ING_LIMIT_LIMIT 0 (pc x.port c)) →
    s.rd fSTB_EG_USED_USED 0 (pc (256 + p) cls) + poolUnits k ≤ s.rd fSTB_EG_LIMIT_LIMIT 0 (pc (256 + p) cls) →
    (s.link p).length < 16384 → 0 < s.rd fSTB_SLIP_FREE → Gives (.ingressSlotAssign p) s fun t =>
    t.fwd.rx = [] ∧ t.cnt 14 (p * 1024 + 64) 0 = s.cnt 14 (p * 1024 + 64) 0 + 1 ∧ t.cnt 14 (p * 1024 + 66) 0 = s.cnt 14 (p * 1024 + 66) 0 + 1 ∧
    (t.link p).dropLast = s.link p ∧
    ((t.link p).getLast?.bind t.slip?).map (fun y => (y.outPort, y.cls, y.skip)) = some (256 + p, cls, true) ∧
    (((t.link p).getLast?.bind t.slip?).bind t.frameOf).map (fun st => (st.pool, st.bytes, st.inPort, st.shift, st.nextProto, st.refs)) =
      some (k, x.bytes, x.port, sh, nx, 1) ∧
    t.fwd.credit = AMap.set s.fwd.credit p (min 7000 (AMap.getD s.fwd.credit p 0 + 450))) ∧
  (∀ (s : State) (p a k col : Nat) (x : RxFrame) (kv : List Byte) (l : Look) (r : Chosen), s.arrives p a x kv l r →
    rAct (rowRes (s.ent 0x1A p a)) = 0 → rMirV (rowRes (s.ent 0x1A p a)) = false → rCapture (rowRes (s.ent 0x1A p a)) = false →
    (rReinV (rowRes (s.ent 0x1A p a)) = true →
      (s.meter 0x2C p (rRein (rowRes (s.ent 0x1A p a))) (s.startColour (x.ing 0)) (s.readerDecide (x.ing 0)).p).2 = (col, false)) →
    (rReinV (rowRes (s.ent 0x1A p a)) = false → col = s.startColour (x.ing 0)) →
    s.stateRefusal (resDest r.r) = none → s.stormed (resDest r.r) (s.classOf (x.ing 0) (some (rowRes (s.ent 0x1A p a))) none r.r) = false →
    s.on fSTB_STATUS_READY = true → s.choosePool ((s.readerDecide (x.ing 0)).p + 64) true = some k →
    (∀ c, c < 8 → s.rd fSTB_ING_USED_USED 0 (pc x.port c) + poolUnits k ≤ s.rd fSTB_ING_LIMIT_LIMIT 0 (pc x.port c)) →
    s.rd fSTB_EG_USED_USED 0 (pc (resDest r.r) (s.classOf (x.ing 0) (some (rowRes (s.ent 0x1A p a))) none r.r)) + poolUnits k ≤
      s.rd fSTB_EG_LIMIT_LIMIT 0 (pc (resDest r.r) (s.classOf (x.ing 0) (some (rowRes (s.ent 0x1A p a))) none r.r)) →
    (s.link (resDest r.r / 32)).length < 16384 → 0 < s.rd fSTB_SLIP_FREE → Gives (.ingressSlotAssign p) s fun t =>
    t.fwd.rx = [] ∧ t.cnt 14 (p * 1024 + 64) 0 = s.cnt 14 (p * 1024 + 64) 0 + 1 ∧ t.cnt 14 (p * 1024 + 192) 0 = s.cnt 14 (p * 1024 + 192) 0 + 1 ∧
    t.cnt 13 l.bd 0 = s.cnt 13 l.bd 0 + 1 ∧ t.cnt 13 l.bd 1 = s.cnt 13 l.bd 1 + x.bytes.length ∧
    (t.link (resDest r.r / 32)).dropLast = s.link (resDest r.r / 32) ∧
    ((t.link (resDest r.r / 32)).getLast?.bind t.slip?).map (fun y => (y.outPort, y.cls, y.colour, y.skip, y.copy)) =
      some (resDest r.r, s.classOf (x.ing 0) (some (rowRes (s.ent 0x1A p a))) none r.r, col, false, false) ∧
    (((t.link (resDest r.r / 32)).getLast?.bind t.slip?).bind t.frameOf).map (fun st => (st.pool, st.bytes, st.inPort, st.layout, st.refs)) =
      some (k, x.bytes, x.port, (s.readerDecide (x.ing 0)).layout, 1)) ∧
  (∀ (s : State) (p a : Nat) (x : RxFrame) (kv : List Byte) (l : Look) (r : Chosen), s.arrives p a x kv l r →
    rAct (rowRes (s.ent 0x1A p a)) = 1 → Gives (.ingressSlotAssign p) s fun t =>
    t.fwd.rx = [] ∧ t.fwd.slips = s.fwd.slips ∧ t.fwd.stalls = s.fwd.stalls ∧
    t.cnt 4 (x.port * 256 + (0xC0 + bitsOf (rArg (rowRes (s.ent 0x1A p a))) 5 0)) 0 =
      s.cnt 4 (x.port * 256 + (0xC0 + bitsOf (rArg (rowRes (s.ent 0x1A p a))) 5 0)) 0 + 1) ∧
  (∀ (s : State) (p a : Nat) (x : RxFrame) (kv : List Byte) (l : Look) (r : Chosen), s.arrives p a x kv l r →
    rAct (rowRes (s.ent 0x1A p a)) = 0 → rReinV (rowRes (s.ent 0x1A p a)) = true →
    (s.meter 0x2C p (rRein (rowRes (s.ent 0x1A p a))) (s.startColour (x.ing 0)) (s.readerDecide (x.ing 0)).p).2.2 = true →
    Gives (.ingressSlotAssign p) s fun t =>
    t.fwd.rx = [] ∧ t.fwd.slips = s.fwd.slips ∧ t.fwd.stalls = s.fwd.stalls ∧ t.cnt 4 (x.port * 256 + 0xA0) 0 = s.cnt 4 (x.port * 256 + 0xA0) 0 + 1 ∧
    t.cnt 14 (p * 1024 + 299) 0 = s.cnt 14 (p * 1024 + 299) 0 + 1) ∧
  (∀ (s : State) (p : Nat) (x : LoopFrame), (∀ y ∈ s.fwd.rx, y.port / 32 ≠ p ∨ y.ready = false) → s.loop p = [x] → x.entered = true →
    s.injq p = [] → s.edState x.ed = 5 → bitOf (s.rd fARC_CAP_DROP_MASK_MASK 0 4) 24 = false → Gives (.ingressSlotAssign p) s fun t =>
    t.loop p = [] ∧ t.cnt 4 (x.inPort * 256 + 0x98) 0 = s.cnt 4 (x.inPort * 256 + 0x98) 0 + 1 ∧ t.rd fFAR_STATUS_LOOP_LEVEL p = 0 ∧
    t = { s with regs := t.regs, cnts := t.cnts, saved := t.saved, fwd := { s.fwd with loops := t.fwd.loops, credit := t.fwd.credit } } ∧
    SameBits s t [fFAR_STATUS_LOOP_LEVEL.loc p, fCLE_ED_RESIDENT_RESIDENT.loc 0 (b2n x.ed)]) ∧
  (∀ (s : State) (p id : Nat) (x : Slip), s.link p = [id] → s.slip? id = some x → s.stateRefusal x.outPort = none →
    s.stormed x.outPort x.cls = false → Gives (.slipLink p) s fun t =>
    t.link p = [] ∧ t.queue x.svc = s.queue x.svc ++ [id] ∧ (∀ q, q ≠ x.svc → t.queue q = s.queue q) ∧
    CountsUp s t [((6, x.svc, 0), 1), ((14, p * 1024 + 269, 0), 1)] ∧
    t = { s with cnts := t.cnts, saved := t.saved, fwd := { s.fwd with linkFifo := t.fwd.linkFifo, queues := t.fwd.queues }, flt := { s.flt with marks := t.flt.marks, nextMarks := t.flt.nextMarks } }) ∧
  (∀ (s : State) (p id : Nat) (x : Slip) (st : Stall) (code : Nat), s.link p = [id] → s.slip? id = some x → s.frameOf x = some st →
    s.stateRefusal x.outPort = some code → 0 < st.refs →
    Gives (.slipLink p) s fun t => t.link p = [] ∧ t.slip? id = none ∧ t.fwd.queues = s.fwd.queues ∧ t.cnt 6 x.svc 3 = s.cnt 6 x.svc 3 + 1) ∧
  (∀ (s : State) (p : Nat), s.link p = [] → exec (.slipLink p) s = .next s) ∧
  (∀ (s : State) (port : Nat), s.canSelect (egPipe port) (egLocal port) = false → exec (.harnessSelect port) s = .next s) ∧
  (∀ (s : State) (port id : Nat) (c : Cand), port < 256 → s.canSelect (port / 32) (port % 32) = true →
    s.dropTooLong (port / 32) (port % 32) (s.busyServices (port / 32) (port % 32)) = s →
    s.candidates (port / 32) (port % 32) (s.busyServices (port / 32) (port % 32)) = (s, [c]) → s.selectDrop c.slip = none →
    s.stbRead c.slip (port / 32) = (s, true) → s.queue (port / 32 * 8192 + c.sv) = [id] → Gives (.harnessSelect port) s fun t =>
    AMap.getD t.fwd.sel (port / 32) [] = AMap.getD s.fwd.sel (port / 32) [] ++ [c.copy (port / 32 * 8192 + c.sv)] ∧
    t.queue (port / 32 * 8192 + c.sv) = [] ∧ t.fwd.slips = s.fwd.slips ∧ t.fwd.stalls = s.fwd.stalls ∧
    t.cnt 14 (port / 32 * 1024 + 288) 0 = s.cnt 14 (port / 32 * 1024 + 288) 0 + 1 ∧ t.tables = s.tables ∧ t.ports = s.ports ∧ t.arc = s.arc) ∧
  (∀ (s : State) (port : Nat) (cs : List Cand), port < 256 → s.canSelect (port / 32) (port % 32) = true →
    s.dropTooLong (port / 32) (port % 32) (s.busyServices (port / 32) (port % 32)) = s →
    s.candidates (port / 32) (port % 32) (s.busyServices (port / 32) (port % 32)) = (s, cs) → cs ≠ [] → s.flt.marks = [] → s.flt.nextMarks = [] →
    (∀ c ∈ cs, s.selectDrop c.slip = none) → Gives (.harnessSelect port) s fun t => ∃ c ∈ cs,
    AMap.getD t.fwd.sel (port / 32) [] = AMap.getD s.fwd.sel (port / 32) [] ++ [c.copy (port / 32 * 8192 + c.sv)] ∧
    t.queue (port / 32 * 8192 + c.sv) = (s.queue (port / 32 * 8192 + c.sv)).drop 1 ∧
    (∀ d ∈ cs, d.committed = true → c.committed = true) ∧ (∀ d ∈ cs, d.committed = c.committed → d.prio ≤ c.prio) ∧
    (∀ d ∈ cs, d.committed = c.committed → d.prio = c.prio →
      (AMap.getD s.fwd.rounds (port / 32, false, port % 32, c.committed, c.prio) []).head?.map (·.1) = some d.sub → c.sub = d.sub) ∧
    (∀ d ∈ cs, d.committed = c.committed → d.prio = c.prio → d.sub = c.sub →
      (AMap.getD s.fwd.rounds (port / 32, true, c.sub, c.committed, c.prio) []).head?.map (·.1) = some d.sv → c.sv = d.sv) ∧
    (((AMap.getD s.fwd.rounds (port / 32, true, c.sub, c.committed, c.prio) []).head?.any fun m =>
        decide (m.1 = c.sv ∧ (charged c.est (s.portOvh (port / 32) (port % 32)) : Int) < m.2)) = true →
      (AMap.getD t.fwd.rounds (port / 32, true, c.sub, c.committed, c.prio) []).head? =
        (AMap.getD s.fwd.rounds (port / 32, true, c.sub, c.committed, c.prio) []).head?.map fun m =>
          (m.1, m.2 - (charged c.est (s.portOvh (port / 32) (port % 32)) : Int)))) ∧
  (∀ (s : State) (p a col : Nat) (c : EgCopy) (st : Stall) (g : Prog), s.emerges p a c st → c.slip.outPort < 256 →
    rAct (rowRes (s.ent 0x1B p a)) = 0 → (s.egRein p (some (rowRes (s.ent 0x1B p a))) c.slip.colour st.len).2 = (col, false) →
    (s.farrier p 0 c.slip st (farOf (some (rowRes (s.ent 0x1B p a))) none)).2 = .ok g none → g.recirc = 0 →
    (∀ n, st.lf = some n → ((n : Int) + g.d).toNat ≤ s.prt fPRT_CFG_MAX_FRAME c.slip.outPort) → Gives (.egressSlotAssign p) s fun t =>
    AMap.getD t.fwd.sel p [] = [] ∧ t.fwd.slips = s.fwd.slips ∧ t.fwd.stalls = s.fwd.stalls ∧
    AMap.getD t.ports.txWait c.slip.outPort [] =
      AMap.getD s.ports.txWait c.slip.outPort [] ++ [c.done g st (s.egressKey p c.slip st) false none] ∧
    t.cnt 14 (p * 1024 + 193) 0 = s.cnt 14 (p * 1024 + 193) 0 + 1) ∧
  (∀ (s : State) (p a : Nat) (c : EgCopy) (st : Stall), s.emerges p a c st → rAct (rowRes (s.ent 0x1B p a)) = 1 → Gives (.egressSlotAssign p) s fun t =>
    AMap.getD t.fwd.sel p [] = [] ∧ t.slip? c.slip.id = none ∧ t.ports.txWait = s.ports.txWait ∧ t.cnt 6 c.svc 3 = s.cnt 6 c.svc 3 + 1 ∧
    t.cnt 5 (c.slip.outPort * 256 + (0xC0 + bitsOf (rArg (rowRes (s.ent 0x1B p a))) 5 0)) 0 =
      s.cnt 5 (c.slip.outPort * 256 + (0xC0 + bitsOf (rArg (rowRes (s.ent 0x1B p a))) 5 0)) 0 + 1) ∧
  (∀ (s : State) (p a : Nat) (c : EgCopy) (st : Stall), s.emerges p a c st → rAct (rowRes (s.ent 0x1B p a)) = 0 →
    (s.egRein p (some (rowRes (s.ent 0x1B p a))) c.slip.colour st.len).2.2 = true → Gives (.egressSlotAssign p) s fun t =>
    AMap.getD t.fwd.sel p [] = [] ∧ t.slip? c.slip.id = none ∧ t.ports.txWait = s.ports.txWait ∧
    t.cnt 5 (c.slip.outPort * 256 + 0xA1) 0 = s.cnt 5 (c.slip.outPort * 256 + 0xA1) 0 + 1) ∧
  (∀ (s : State) (p : Nat), AMap.getD s.fwd.sel p [] = [] → (∀ h ∈ s.heldEgOf p, h.1 ≠ []) → exec (.egressSlotAssign p) s = .next s) ∧
  (∀ (s : State) (p : Nat) (c : EgCopy) (st : Stall), AMap.getD s.fwd.sel p [] = [c] → s.frameOf c.slip = some st → st.lf.isSome = true →
    c.slip.skip = true → (∀ h ∈ s.heldEgOf p, h.1 ≠ []) → Gives (.egressSlotAssign p) s fun t =>
    AMap.getD t.fwd.sel p [] = [] ∧
    AMap.getD t.ports.txWait (256 + p) [] = AMap.getD s.ports.txWait (256 + p) [] ++ [{ c with turned := true }] ∧
    t = { s with fwd := { s.fwd with sel := t.fwd.sel }, ports := { s.ports with txWait := t.ports.txWait } }) ∧
  (∀ (s : State) (p : Nat) (x : LoopFrame), s.loop p = [x] → x.entered = false → Gives (.recircFifoEnter p) s fun t =>
    t.loop p = [{ x with entered := true }] ∧ t = { s with fwd := { s.fwd with loops := t.fwd.loops } }) ∧
  (∀ (s : State) (port : Nat), s.flt.marks = [] → exec (.gateTransition port) s =
    .next { s with ports := { s.ports with gates := AMap.set s.ports.gates port (s.gatesAt port s.tim.ct) } }) ∧
  (∀ (s : State) (port t0 : Nat), s.on fHAR_GATE_CFG_EN (port / 32) (port % 32) = false → s.gatesAt port t0 = 0xFF)

/-- R19, R69, R70, R81, R83, R85, R195, R238, R267, R298, R301: the transmit MAC. -/
def Obligations.MacTransmit : Prop :=
  (∀ (s : State) (port phase : Nat) (c : EgCopy) (rest : List EgCopy) (st : Stall), s.txGoes port c rest st →
    bitOf (s.gatesAt port s.tim.ct) c.slip.cls = true → c.marks = ⟨none, none, none⟩ → c.capture = false →
    s.on fPAR_FLOW_CFG_EN (port / 32) = false → Gives (.frameTxStart port phase) s fun t =>
    AMap.get? t.ports.txNow port =
      some { c with late := !st.done, flow := none, ct := (s.txStamp port phase).1, rc := (s.txStamp port phase).2 } ∧
    AMap.getD t.ports.txWait port [] = rest ∧ t.cnt 2 port 2 = s.cnt 2 port 2 + 1 ∧ t.cnt 2 port (32 + c.slip.cls) = s.cnt 2 port (32 + c.slip.cls) + 1 ∧
    t.ports = { s.ports with txNow := t.ports.txNow, txWait := t.ports.txWait, gates := t.ports.gates } ∧
    t = { s with cnts := t.cnts, saved := t.saved, ports := t.ports }) ∧
  (∀ (s : State) (port phase : Nat) (c : EgCopy) (rest : List EgCopy) (st : Stall), s.txGoes port c rest st →
    bitOf (s.gatesAt port s.tim.ct) c.slip.cls = false → Gives (.frameTxStart port phase) s fun t =>
    AMap.get? t.ports.txNow port = none ∧ AMap.getD t.ports.txWait port [] = rest ∧ t.slip? c.slip.id = none ∧
    t.cnt 5 (c.slip.outPort * 256 + 0xA3) 0 = s.cnt 5 (c.slip.outPort * 256 + 0xA3) 0 + 1 ∧
    t.cnt 14 (port / 32 * 1024 + 294) 0 = s.cnt 14 (port / 32 * 1024 + 294) 0 + 1 ∧ Raised t .HAR_GATE_CLOSED port) ∧
  (∀ (s : State) (port phase off : Nat) (c : EgCopy) (rest : List EgCopy) (st : Stall), s.txGoes port c rest st →
    bitOf (s.gatesAt port s.tim.ct) c.slip.cls = true → c.marks = ⟨some (off, none), none, none⟩ → s.prt fPRT_PTP_CFG_ONE_STEP_EN port = 1 →
    Gives (.frameTxStart port phase) s fun t =>
    (AMap.get? t.ports.txNow port).map (·.hdr) = some (putAt c.hdr off (natBytes 8
      (((signedOf 64 (bytesNat ((c.hdr.drop off).take 8)) + st.residence (s.txStamp port phase).2) % (2 ^ 64 : Nat)).toNat))) ∧
    t.cnt 2 port 59 = s.cnt 2 port 59 + 1) ∧
  (∀ (s : State) (port phase off : Nat) (c : EgCopy) (rest : List EgCopy) (st : Stall), s.txGoes port c rest st →
    bitOf (s.gatesAt port s.tim.ct) c.slip.cls = true → c.marks = ⟨none, some off, none⟩ → s.prt fPRT_PTP_CFG_TWO_STEP_EN port = 1 →
    (s.tsFifo port).length < 64 → Gives (.frameTxStart port phase) s fun t =>
    t.tsFifo port = s.tsFifo port ++ [ctWords (s.txStamp port phase).1 ++ [word (2 ^ 31 + b2n (decide (port ∈ s.ports.tsOvf)) * 2 ^ 30 +
      s.tstate * 2 ^ 28 + (c.hdr.getD off 0).toNat % 16 * 2 ^ 24 + (c.hdr.getD (off + 4) 0).toNat * 2 ^ 16 +
      (c.hdr.getD (off + 30) 0).toNat * 256 + (c.hdr.getD (off + 31) 0).toNat)]] ∧
    port ∉ t.ports.tsOvf ∧ t.cnt 2 port 57 = s.cnt 2 port 57 + 1 ∧ (AMap.get? t.ports.txNow port).map (·.hdr) = some c.hdr) ∧
  (∀ (s : State) (port phase off : Nat) (c : EgCopy) (rest : List EgCopy) (st : Stall), s.txGoes port c rest st →
    bitOf (s.gatesAt port s.tim.ct) c.slip.cls = true → c.marks = ⟨none, some off, none⟩ → s.prt fPRT_PTP_CFG_TWO_STEP_EN port = 1 →
    64 ≤ (s.tsFifo port).length → Gives (.frameTxStart port phase) s fun t =>
    t.tsFifo port = s.tsFifo port ∧ port ∈ t.ports.tsOvf ∧ t.cnt 2 port 58 = s.cnt 2 port 58 + 1 ∧ t.prt fPRT_EVENTS_TS_OVERFLOW port = 1 ∧
    Raised t .PRT_TS_OVERFLOW (port / 32)) ∧
  (∀ (s : State) (port phase w : Nat) (c : EgCopy) (rest : List EgCopy) (st : Stall) (key : List Byte) (out : Option Nat) (f : Flow),
    s.txGoes port c rest st → bitOf (s.gatesAt port s.tim.ct) c.slip.cls = true → c.marks = ⟨none, none, none⟩ → c.capture = false →
    c.slip.direct = false → s.on fPAR_FLOW_CFG_EN (port / 32) = true → s.on fPAR_FLOW_PROF_EN (port / 32) st.layout = true →
    key = s.flowBytes (port / 32) st.layout c.kv → out = (if s.on fPAR_FLOW_PROF_OUT_PORT (port / 32) st.layout = true then some c.slip.outPort else none) →
    s.flowWay (port / 32) (s.flowBucket (port / 32) key st.inPort st.layout out) key st.inPort st.layout out = some w →
    AMap.get? s.arc.flows (port / 32, s.flowBucket (port / 32) key st.inPort st.layout out, w) = some f →
    Gives (.frameTxStart port phase) s fun t =>
    t.arc = { s.arc with flows := AMap.set s.arc.flows (port / 32, s.flowBucket (port / 32) key st.inPort st.layout out, w) { f with frames := f.frames + 1, bytes := f.bytes + (if st.done = true then (padded (c.body st)).length + 4 else 0), last := (s.txStamp port phase).1, lastState := s.tstate, latMin := if f.frames = 0 then ((s.txStamp port phase).2 - st.rc) / nsU else min f.latMin (((s.txStamp port phase).2 - st.rc) / nsU), latMax := max f.latMax (((s.txStamp port phase).2 - st.rc) / nsU) } } ∧
    (AMap.get? t.ports.txNow port).map (·.flow) = some (some (some f.flow))) ∧
  (∀ (s : State) (port phase : Nat) (c : EgCopy) (rest : List EgCopy) (st : Stall), s.txGoes port c rest st →
    bitOf (s.gatesAt port s.tim.ct) c.slip.cls = true → c.marks = ⟨none, none, none⟩ → c.capture = true → s.on fARC_CFG_CAP_EN = true →
    s.on fPAR_FLOW_CFG_EN (port / 32) = false → s.capRefill.capTakes = true → Gives (.frameTxStart port phase) s fun t =>
    t.arc.capSeq = s.arc.capSeq + 1 ∧ t.cnt 14 (port / 32 * 1024 + 392) 0 = s.cnt 14 (port / 32 * 1024 + 392) 0 + 1) ∧
  (∀ (s : State) (port phase : Nat) (c : EgCopy) (rest : List EgCopy) (st : Stall), port < 256 → AMap.getD s.ports.txWait port [] = c :: rest →
    s.portState port = psUP → AMap.get? s.ports.txNow port = none → s.frameOf c.slip = some st → st.bad = true → 0 < st.refs →
    s.pauseFirst port = false → Gives (.frameTxStart port phase) s fun t =>
    AMap.get? t.ports.txNow port = none ∧ AMap.getD t.ports.txWait port [] = rest ∧ t.slip? c.slip.id = none) ∧
  (∀ (s : State) (port phase : Nat), AMap.getD s.ports.txWait port [] = [] ∨ s.pauseFirst port = true → exec (.frameTxStart port phase) s = .next s) ∧
  (∀ (s : State) (port : Nat) (c : EgCopy) (st : Stall), port < 256 → AMap.get? s.ports.txNow port = some c → s.frameOf c.slip = some st →
    st.done = true → st.bad = false → c.late = false → c.flow = none → (c.body st).length + 4 ≤ s.prt fPRT_CFG_MAX_FRAME port → s.stbLost c.slip = false → 0 < st.refs →
    Gives (.frameTxEnd port) s fun t =>
    AMap.get? t.ports.txNow port = none ∧ AMap.get? t.ports.lastTx port = some (padded (c.body st) ++ fcsBytes (padded (c.body st))) ∧
    t.cnt 2 port 0 = s.cnt 2 port 0 + 1 ∧ t.cnt 2 port 1 = s.cnt 2 port 1 + (padded (c.body st)).length + 4 ∧
    t.slip? c.slip.id = none ∧ t.tables = s.tables ∧ t.arc = s.arc ∧ t.clerk = s.clerk) ∧
  (∀ (s : State) (port : Nat) (c : EgCopy) (st : Stall), port < 256 → AMap.get? s.ports.txNow port = some c → s.frameOf c.slip = some st →
    st.done = false → st.bad = false → c.unk = false → exec (.frameTxEnd port) s = .next s) ∧
  (∀ (s : State) (port : Nat) (c : EgCopy) (st : Stall), port < 256 → AMap.get? s.ports.txNow port = some c → s.frameOf c.slip = some st →
    st.done = true → st.bad = false → c.unk = true → 64 ≤ s.prt fPRT_CFG_MAX_FRAME port → s.prt fPRT_CFG_MAX_FRAME port < (c.body st).length + 4 →
    0 < st.refs → Gives (.frameTxEnd port) s fun t =>
    AMap.get? t.ports.txNow port = none ∧ AMap.get? t.ports.lastTx port =
      some ((c.body st).take (s.prt fPRT_CFG_MAX_FRAME port - 4) ++ stompBytes ((c.body st).take (s.prt fPRT_CFG_MAX_FRAME port - 4))) ∧
    t.cnt 2 port 0 = s.cnt 2 port 0 ∧ t.cnt 2 port 8 = s.cnt 2 port 8 + 1 ∧
    t.cnt 14 (port / 32 * 1024 + 235) 0 = s.cnt 14 (port / 32 * 1024 + 235) 0 + 1 ∧ t.slip? c.slip.id = none) ∧
  (∀ bs : List Byte, (padded bs).take bs.length = bs ∧ (padded bs).length = max 60 bs.length)

/-- R105, R128, R129, R149, R175, R204: the scrubs of the tables. That an overflow entry invalidated by its scrub keeps its mirror record is the
model's reading (DEDUCED, assumption log 22). -/
def Obligations.Scrubs : Prop :=
  (∀ (s : State) (p : Nat), s.marksOf 0x01 p = [] → s.marksOf 0x02 p = [] → s.jobDue .readerScrub p (ns (s.rd fRDR_SCRUB_PERIOD_US p * 1000)) = true →
    exec (.readerScrub p) s = .next { s with tim := { s.tim with jobs := AMap.set s.tim.jobs (.readerScrub, p) s.tim.rc } }) ∧
  (∀ (s : State) (p r i : Nat), s.marksOf 0x01 p = [(r, i)] → s.marksOf 0x02 p = [] → r < 6 → i < 64 →
    s.jobDue .readerScrub p (ns (s.rd fRDR_SCRUB_PERIOD_US p * 1000)) = true → Gives (.readerScrub p) s fun t =>
    t.marksOf 0x01 p = [] ∧ t.rd fRDR_PAR_STATUS_RETRIES p = s.satUp fRDR_PAR_STATUS_RETRIES p ∧ t.rd fRDR_PAR_STATUS_ENTRY p = i ∧
    CountsUp s t [((14, p * 1024 + 75, 0), 1)] ∧ Raised t .RDR_PARITY p ∧
    t = { s with tim := { s.tim with jobs := AMap.set s.tim.jobs (.readerScrub, p) s.tim.rc }, regs := t.regs, cnts := t.cnts, saved := t.saved, flt := { s.flt with crossing := t.flt.crossing, marks := t.flt.marks } } ∧
    SameBits s t [fRDR_PAR_STATUS_RETRIES.loc p, fRDR_PAR_STATUS_TABLE.loc p, fRDR_PAR_STATUS_ENTRY.loc p]) ∧
  (∀ (s : State) (p i : Nat), s.marksOf 0x01 p = [(0, i), (1, i)] → s.marksOf 0x02 p = [] → i < 64 → s.lrn.repairs = [] →
    s.jobDue .readerScrub p (ns (s.rd fRDR_SCRUB_PERIOD_US p * 1000)) = true → Gives (.readerScrub p) s fun t =>
    t.marksOf 0x01 p = [(0, i)] ∧ t.lrn.repairs = [⟨0, 0x01, p, i, 0, .a, none, [], [], [], 0, 0⟩] ∧ t.rd fRDR_PAR_STATUS_DOUBLE p = 1 ∧
    Raised t .RDR_PARITY p ∧ Raised t .RDR_PARITY_DOUBLE p ∧
    t = { s with tim := { s.tim with jobs := AMap.set s.tim.jobs (.readerScrub, p) s.tim.rc }, regs := t.regs, cnts := t.cnts, saved := t.saved, lrn := { s.lrn with repairs := t.lrn.repairs }, flt := { s.flt with crossing := t.flt.crossing, marks := t.flt.marks } }) ∧
  (∀ (s : State) (u : Nat), s.marksOf (if u < 8 then 0x08 else 0x0A) (if u < 8 then u else 15) = [] → s.jobDue .overflowScrub u (ns ((if u < 8 then s.rd fBRS_SCRUB_OVF_PERIOD_US u else s.rd fKST_SCRUB_OVF_PERIOD_US) * 1000)) = true →
    exec (.overflowScrub u) s = .next { s with tim := { s.tim with jobs := AMap.set s.tim.jobs (.overflowScrub, u) s.tim.rc } }) ∧
  (∀ (s : State) (u r i : Nat), u < 8 → 524288 ≤ i → s.marksOf 0x08 u = [(r, i)] → s.flt.nextMarks = [] → s.lrn.repairs = [] →
    bridgeV (s.ent 0x0C u i) = true → bridgeStatic (s.ent 0x0C u i) = true →
    s.jobDue .overflowScrub u (ns (s.rd fBRS_SCRUB_OVF_PERIOD_US u * 1000)) = true → Gives (.overflowScrub u) s fun t =>
    t.ent 0x0C u i = zeros 3 ∧ t.marksOf 0x08 u = [] ∧ t.lrn.repairs = [⟨0, 0x0C, u, i, 0, .a, none, [], [], [], 0, 0⟩] ∧ Raised t .OVF_SCRUB u ∧
    t.rd fBRS_OVF_COUNT_OVF_ENTRIES u = s.rd fBRS_OVF_COUNT_OVF_ENTRIES u - 1 ∧
    (∀ ti p j, (ti, tblPipe ti p, j) ≠ (0x0C, u, i) → t.ent ti p j = s.ent ti p j) ∧
    t = { s with tim := { s.tim with jobs := AMap.set s.tim.jobs (.overflowScrub, u) s.tim.rc }, regs := t.regs, tables := t.tables, lrn := { s.lrn with repairs := t.lrn.repairs, hits := t.lrn.hits }, flt := { s.flt with crossing := t.flt.crossing, marks := t.flt.marks } }) ∧
  (∀ (s : State) (r i : Nat), 1048576 ≤ i → s.marksOf 0x0A 15 = [(r, i)] → s.flt.nextMarks = [] → s.lrn.repairs = [] →
    s.jobDue .overflowScrub 8 (ns (s.rd fKST_SCRUB_OVF_PERIOD_US * 1000)) = true → Gives (.overflowScrub 8) s fun t =>
    t.ent 0x0D 15 i = zeros 5 ∧ t.lrn.repairs = [⟨0, 0x0D, 15, i, 0, .a, none, [], [], [], 0, 0⟩] ∧ Raised t .OVF_SCRUB 8) ∧
  (∀ (s : State) (u : Nat), u < 8 → s.marksOf 0x07 u = [] → s.jobDue .bucketScrub u (ns (1000 * s.rd fBRS_SCRUB_BUCKET_PERIOD_MS u * 1000)) = true →
    exec (.bucketScrub u) s = .next { s with tim := { s.tim with jobs := AMap.set s.tim.jobs (.bucketScrub, u) s.tim.rc } }) ∧
  (∀ (s : State) (u r i : Nat), u < 8 → s.marksOf 0x07 u = [(r, i)] → s.lrn.repairs = [] →
    s.jobDue .bucketScrub u (ns (1000 * s.rd fBRS_SCRUB_BUCKET_PERIOD_MS u * 1000)) = true → Gives (.bucketScrub u) s fun t =>
    t.lrn.repairs = [⟨0, 0x0C, u, i, 0, .a, none, [], [], [], 0, 0⟩] ∧ t.rd fCLE_REPAIR_STATUS_OPEN = min 15 (s.rd fCLE_REPAIR_STATUS_OPEN + 1) ∧
    Raised t .BRS_PARITY u ∧ t.rd fBRS_PAR_STATUS_VALID u = 1 ∧
    t = { s with tim := { s.tim with jobs := AMap.set s.tim.jobs (.bucketScrub, u) s.tim.rc }, regs := t.regs, lrn := { s.lrn with repairs := t.lrn.repairs }, flt := { s.flt with crossing := t.flt.crossing } } ∧
    SameBits s t [fCLE_REPAIR_STATUS_OPEN.loc, fBRS_PAR_STATUS_VALID.loc u, fBRS_PAR_STATUS_TABLE.loc u, fBRS_PAR_STATUS_INDEX.loc u]) ∧
  (∀ (s : State) (r i : Nat), s.marksOf 0x09 15 = [(r, i)] → s.marksOf 0x0B 15 = [] → s.lrn.repairs = [] →
    s.jobDue .bucketScrub 8 (ns (1000 * s.rd fKST_SCRUB_BUCKET_PERIOD_MS * 1000)) = true → Gives (.bucketScrub 8) s fun t =>
    t.lrn.repairs = [⟨0, 0x0D, 15, i, 0, .a, none, [], [], [], 0, 0⟩] ∧ Raised t .KST_PARITY ∧ t.tables = s.tables) ∧
  (∀ (s : State) (p : Nat), (∀ ck ∈ [0x12, 0x13, 0x14, 0x15], s.marksOf ck p = []) → s.jobDue .catScrub p (ns (s.rd fCAT_SCRUB_PERIOD_US p * 1000)) = true →
    exec (.catScrub p) s = .next { s with tim := { s.tim with jobs := AMap.set s.tim.jobs (.catScrub, p) s.tim.rc } }) ∧
  (∀ (s : State) (p r i : Nat), s.marksOf 0x12 p = [(r, i)] → (∀ ck ∈ [0x13, 0x14, 0x15], s.marksOf ck p = []) → r < 3 →
    s.jobDue .catScrub p (ns (s.rd fCAT_SCRUB_PERIOD_US p * 1000)) = true → Gives (.catScrub p) s fun t =>
    t.marksOf 0x12 p = [] ∧ CountsUp s t [((14, p * 1024 + 208, 0), 1)] ∧ Raised t .CAT_ROW_PARITY p ∧ t.rd fCAT_PAR_STATUS_VALID p = 1 ∧
    t = { s with tim := { s.tim with jobs := AMap.set s.tim.jobs (.catScrub, p) s.tim.rc }, regs := t.regs, cnts := t.cnts, saved := t.saved, flt := { s.flt with crossing := t.flt.crossing, marks := t.flt.marks } } ∧
    SameBits s t [fCAT_PAR_STATUS_VALID.loc p, fCAT_PAR_STATUS_DIR.loc p, fCAT_PAR_STATUS_REPLICA.loc p, fCAT_PAR_STATUS_KIND.loc p,
      fCAT_PAR_STATUS_ADDR.loc p]) ∧
  (∀ (s : State) (p i : Nat), p < 8 → s.marksOf 0x12 p = [(0, i), (1, i), (2, i)] → (∀ ck ∈ [0x13, 0x14, 0x15], s.marksOf ck p = []) →
    s.lrn.repairs = [] →
    s.jobDue .catScrub p (ns (s.rd fCAT_SCRUB_PERIOD_US p * 1000)) = true → Gives (.catScrub p) s fun t =>
    t.lrn.repairs = [⟨0, 0x1A, p, i, 0, .a, none, [], [], [], 0, 0⟩] ∧ t.flt.marks = s.flt.marks ∧
    CountsUp s t [((14, p * 1024 + 209, 0), 1)] ∧ Raised t .CAT_ROW_PARITY p ∧ Raised t .CAT_ROW_LOST p) ∧
  (∀ (s : State) (p : Nat), s.marksOf 0x16 p = [] → s.marksOf 0x17 15 = [] → s.marksOf 0x18 15 = [] → s.jobDue .farScrub p (ns (s.rd fFAR_SCRUB_PERIOD_US p * 1000)) = true →
    exec (.farScrub p) s = .next { s with tim := { s.tim with jobs := AMap.set s.tim.jobs (.farScrub, p) s.tim.rc } }) ∧
  (∀ (s : State) (p r i : Nat), s.marksOf 0x16 p = [(r, i)] → s.marksOf 0x17 15 = [] → s.marksOf 0x18 15 = [] → r < 3 →
    s.jobDue .farScrub p (ns (s.rd fFAR_SCRUB_PERIOD_US p * 1000)) = true → Gives (.farScrub p) s fun t =>
    t.marksOf 0x16 p = [] ∧ CountsUp s t [((14, p * 1024 + 238, 0), 1)] ∧ Raised t .FAR_PARITY p ∧ t.rd fFAR_PAR_STATUS_VALID p = 1 ∧
    t = { s with tim := { s.tim with jobs := AMap.set s.tim.jobs (.farScrub, p) s.tim.rc }, regs := t.regs, cnts := t.cnts, saved := t.saved, flt := { s.flt with crossing := t.flt.crossing, marks := t.flt.marks } } ∧
    SameBits s t [fFAR_PAR_STATUS_VALID.loc p, fFAR_PAR_STATUS_TABLE.loc p, fFAR_PAR_STATUS_REPLICA.loc p, fFAR_PAR_STATUS_INDEX.loc p]) ∧
  (∀ (s : State) (p i : Nat), p < 8 → s.marksOf 0x16 p = [(0, i), (1, i), (2, i)] → s.marksOf 0x17 15 = [] → s.marksOf 0x18 15 = [] →
    s.lrn.repairs = [] →
    s.jobDue .farScrub p (ns (s.rd fFAR_SCRUB_PERIOD_US p * 1000)) = true → Gives (.farScrub p) s fun t =>
    t.lrn.repairs = [⟨0, 0x20, p, i, 0, .a, none, [], [], [], 0, 0⟩] ∧ t.flt.marks = s.flt.marks ∧ t.cnts = s.cnts ∧
    Raised t .FAR_PARITY p ∧ Raised t .FAR_PARITY_LOST p) ∧
  (∀ (s : State) (u : Nat), s.jobDue .readerScrub u (ns (s.rd fRDR_SCRUB_PERIOD_US u * 1000)) = false → exec (.readerScrub u) s = .next s) ∧
  (∀ (s : State) (u : Nat), s.jobDue .catScrub u (ns (s.rd fCAT_SCRUB_PERIOD_US u * 1000)) = false → exec (.catScrub u) s = .next s) ∧
  (∀ (s : State) (u : Nat), s.jobDue .farScrub u (ns (s.rd fFAR_SCRUB_PERIOD_US u * 1000)) = false → exec (.farScrub u) s = .next s) ∧
  (∀ (s : State) (u : Nat), u < 8 → s.jobDue .overflowScrub u (ns (s.rd fBRS_SCRUB_OVF_PERIOD_US u * 1000)) = false →
    exec (.overflowScrub u) s = .next s) ∧
  (∀ (s : State) (u : Nat), u < 8 → s.jobDue .bucketScrub u (ns (1000 * s.rd fBRS_SCRUB_BUCKET_PERIOD_MS u * 1000)) = false →
    exec (.bucketScrub u) s = .next s)

/-- R117, R137, R138, R139, R140, R141, R142, R143, R147: learning and ageing. -/
def Obligations.Learning : Prop :=
  (∀ (s : State) (p : Nat), s.learnQ p = [] ∨ s.mirFull = true → exec (.learnInsert p) s = .next s) ∧
  (∀ (s : State) (p i : Nat) (r : LearnReq) (rest : List LearnReq), s.learnQ p = r :: rest → rest.length < 1024 → s.mirFull = false →
    s.bridgeFind p r.bd r.mac = none → s.bridgePlace p r.bd r.mac = some i → i < 524288 → r.move = false →
    s.on fBRS_LEARN_CFG_EVT_LEARN p = false → Gives (.learnInsert p) s fun t =>
    t.learnQ p = rest ∧ t.rd fBRS_LEARN_STATUS_QUEUE p = rest.length ∧
    t.ent 0x0C p i = [word r.mac, word (r.mac / 2 ^ 32 + r.bd * 2 ^ 16 + 2 ^ 30), word (r.dest + r.dt * 2 ^ 14 + r.metaV * 2 ^ 19)] ∧
    t.rd fBRS_COUNT_ENTRIES p = s.satUp fBRS_COUNT_ENTRIES p ∧ t.hitBit p i = false ∧ CountsUp s t [((14, p * 1024 + 160, 0), 1)] ∧
    (∀ ti q j, (ti, tblPipe ti q, j) ≠ (0x0C, p, i) → t.ent ti q j = s.ent ti q j) ∧
    t = { s with regs := t.regs, cnts := t.cnts, saved := t.saved, tables := t.tables, lrn := { s.lrn with queues := t.lrn.queues, hits := t.lrn.hits, mirrors := t.lrn.mirrors }, flt := { s.flt with marks := t.flt.marks, nextMarks := t.flt.nextMarks } } ∧
    SameBits s t [fBRS_LEARN_STATUS_QUEUE.loc p, fBRS_LEARN_STATUS_QUEUE_HIGH.loc p, fBRS_COUNT_ENTRIES.loc p]) ∧
  (∀ (s : State) (p i : Nat) (r : LearnReq) (rest : List LearnReq), s.learnQ p = r :: rest → rest.length < 1024 → s.mirFull = false →
    s.bridgeFind p r.bd r.mac = none → s.bridgePlace p r.bd r.mac = some i → 524288 ≤ i → r.move = false →
    s.on fBRS_LEARN_CFG_EVT_LEARN p = false → Gives (.learnInsert p) s fun t =>
    t.learnQ p = rest ∧
    t.ent 0x0C p i = [word r.mac, word (r.mac / 2 ^ 32 + r.bd * 2 ^ 16 + 2 ^ 30), word (r.dest + r.dt * 2 ^ 14 + r.metaV * 2 ^ 19)] ∧
    t.rd fBRS_OVF_COUNT_OVF_ENTRIES p = s.satUp fBRS_OVF_COUNT_OVF_ENTRIES p ∧
    t.rd fBRS_OVF_COUNT_OVF_HIGH p = max (s.rd fBRS_OVF_COUNT_OVF_HIGH p) (s.satUp fBRS_OVF_COUNT_OVF_ENTRIES p) ∧
    t.hitBit p i = false ∧ CountsUp s t [((14, p * 1024 + 160, 0), 1)] ∧
    (∀ ti q j, (ti, tblPipe ti q, j) ≠ (0x0C, p, i) → t.ent ti q j = s.ent ti q j) ∧
    SameBits s t [fBRS_LEARN_STATUS_QUEUE.loc p, fBRS_LEARN_STATUS_QUEUE_HIGH.loc p, fBRS_OVF_COUNT_OVF_ENTRIES.loc p,
      fBRS_OVF_COUNT_OVF_HIGH.loc p]) ∧
  (∀ (s : State) (p i : Nat) (r : LearnReq) (rest : List LearnReq) (e : List Word), s.learnQ p = r :: rest → rest.length < 1024 → s.mirFull = false →
    s.bridgeFind p r.bd r.mac = some i → e = s.ent 0x0C p i → r.move = true → bridgeStatic e = false →
    (entF e 2 16 14, entF e 2 13 0) ≠ (r.dt, r.dest) → s.on fBRS_LEARN_CFG_EVT_LEARN p = false → Gives (.learnInsert p) s fun t =>
    t.learnQ p = rest ∧ t.ent 0x0C p i = bridgeMoved e r.dt r.dest r.metaV ∧ t.hitBit p i = true ∧ CountsUp s t [((14, p * 1024 + 161, 0), 1)] ∧
    (entF e 2 16 14 = dtPORT → entF e 2 13 0 / 32 = p →
      t.rd fBRS_LEARN_COUNT_COUNT p (entF e 2 13 0 % 32) = s.rd fBRS_LEARN_COUNT_COUNT p (entF e 2 13 0 % 32) - 1) ∧
    (∀ ti q j, (ti, tblPipe ti q, j) ≠ (0x0C, p, i) → t.ent ti q j = s.ent ti q j) ∧
    SameBits s t [fBRS_LEARN_STATUS_QUEUE.loc p, fBRS_LEARN_STATUS_QUEUE_HIGH.loc p, fBRS_LEARN_COUNT_COUNT.loc p (entF e 2 13 0 % 32)]) ∧
  (∀ (e : List Word) (dt dest mt : Nat), e.length = 3 → dt < 8 → dest < 16384 → mt < 256 → (bridgeMoved e dt dest mt).take 2 = e.take 2 ∧
    entF (bridgeMoved e dt dest mt) 2 13 0 = dest ∧ entF (bridgeMoved e dt dest mt) 2 16 14 = dt ∧ entF (bridgeMoved e dt dest mt) 2 26 19 = mt ∧
    bridgeStatic (bridgeMoved e dt dest mt) = bridgeStatic e) ∧
  (∀ (s : State) (p i : Nat) (r : LearnReq) (rest : List LearnReq), s.learnQ p = r :: rest → rest.length < 1024 → s.mirFull = false →
    s.bridgeFind p r.bd r.mac = some i → r.move = false → r.dt ≠ dtPORT → Gives (.learnInsert p) s fun t =>
    t.learnQ p = rest ∧ t.bdCount p r.bd = s.bdCount p r.bd - 1 ∧ t.tables = s.tables ∧ CountsUp s t [((14, p * 1024 + 162, 0), 1)]) ∧
  (∀ (s : State) (p : Nat) (r : LearnReq) (rest : List LearnReq), p < 8 → s.learnQ p = r :: rest → rest.length < 1024 → s.mirFull = false →
    s.bridgeFind p r.bd r.mac = none → s.bridgePlace p r.bd r.mac = none → r.move = false → r.dt ≠ dtPORT → Gives (.learnInsert p) s fun t =>
    t.learnQ p = rest ∧ t.bdCount p r.bd = s.bdCount p r.bd - 1 ∧ t.rd fBRS_BD_LEARN_COUNT p r.bd = min 65535 (s.bdCount p r.bd - 1) ∧
    CountsUp s t ([((14, p * 1024 + 164, 0), 1)] ++ s.evtDrops p) ∧
    Told s t (s.eventRec 0x16 p 0 r.mac (r.mac / 2 ^ 32 + r.bd * 2 ^ 16) (r.dt + r.dest * 2 ^ 3) 0 s.tim.ct) ∧ t.tables = s.tables) ∧
  (∀ (s : State) (p : Nat), p < 8 → s.ageIsDue p = true → AMap.get? s.clerk.sweeps p = none → Gives (.ageSweepStart p) s fun t =>
    AMap.get? t.clerk.sweeps p = some 0 ∧ t.rd fBRS_AGE_STATUS_SWEEPING p = 1 ∧
    t.ageDueAt p = s.ageDueAt p + ns (s.rd fBRS_AGE_CFG_PERIOD_S p * nsPerSec) ∧
    t = { s with regs := t.regs, lrn := { s.lrn with ageDue := t.lrn.ageDue }, clerk := { s.clerk with sweeps := t.clerk.sweeps } } ∧
    SameBits s t [fBRS_AGE_STATUS_SWEEPING.loc p]) ∧
  (∀ (s : State) (p : Nat), s.ageIsDue p = false ∨ (AMap.get? s.clerk.sweeps p).isSome = true → exec (.ageSweepStart p) s = .next s) ∧
  (∀ (s : State) (p i : Nat) (hits : List Nat), s.clerk.work = .sweep p → s.mirFull = false → AMap.get? s.clerk.sweeps p = some i →
    i % 4096 = 0 → i + 4096 < 532480 → (∀ k, i ≤ k → k < i + 4096 → bridgeV (s.ent 0x0C p k) = false ∨ bridgeStatic (s.ent 0x0C p k) = true) →
    exec (.ageSweepChunk hits) s = .next { s with clerk := { s.clerk with work := .idle, sweeps := AMap.set s.clerk.sweeps p (i + 4096) } }) ∧
  (∀ (s : State) (p i : Nat) (hits : List Nat), s.clerk.work = .sweep p → s.mirFull = false → AMap.get? s.clerk.sweeps p = some i →
    i ≤ 532480 → 532480 ≤ i + 4096 → (∀ k, i ≤ k → k < 532480 → bridgeV (s.ent 0x0C p k) = false ∨ bridgeStatic (s.ent 0x0C p k) = true) →
    s.ageIsDue p = false → Gives (.ageSweepChunk hits) s fun t =>
    AMap.get? t.clerk.sweeps p = none ∧ t.clerk.work = .idle ∧ t.rd fBRS_AGE_STATUS_SWEEPING p = 0 ∧
    t.rd fBRS_AGE_STATUS_SWEEPS p = (s.rd fBRS_AGE_STATUS_SWEEPS p + 1) % 65536 ∧ t.tables = s.tables ∧ t.lrn = s.lrn ∧
    SameBits s t [fBRS_AGE_STATUS_SWEEPING.loc p, fBRS_AGE_STATUS_SWEEPS.loc p]) ∧
  (∀ (s : State) (p : Nat) (hits : List Nat), p < 8 → s.clerk.work = .sweep p → s.mirFull = false → AMap.get? s.clerk.sweeps p = some 532479 →
    bridgeV (s.ent 0x0C p 532479) = true → bridgeStatic (s.ent 0x0C p 532479) = false → s.on fBRS_LEARN_CFG_EVT_AGE p = false →
    Gives (.ageSweepChunk hits) s fun t =>
    (s.hitBit p 532479 = true → t.tables = s.tables ∧ t.cnts = s.cnts ∧ t.hitBit p 532479 = false) ∧
    (s.hitBit p 532479 = false → 532479 ∈ hits → t.tables = s.tables ∧ t.hitBit p 532479 = true ∧
      CountsUp s t [((14, p * 1024 + 171, 0), 1)]) ∧
    (s.hitBit p 532479 = false → 532479 ∉ hits → t.ent 0x0C p 532479 = zeros 3 ∧ CountsUp s t [((14, p * 1024 + 170, 0), 1)] ∧
      t.rd fBRS_OVF_COUNT_OVF_ENTRIES p = s.rd fBRS_OVF_COUNT_OVF_ENTRIES p - 1 ∧
      ∀ ti q j, (ti, tblPipe ti q, j) ≠ (0x0C, p, 532479) → t.ent ti q j = s.ent ti q j)) ∧
  (∀ (s : State) (p i : Nat) (hits : List Nat), s.clerk.work = .sweep p → s.mirFull = true → AMap.get? s.clerk.sweeps p = some i → i < 532480 →
    exec (.ageSweepChunk hits) s = .next { s with clerk := { s.clerk with sweeps := AMap.set s.clerk.sweeps p i, stepHeld := true } })

/-- R144, R145, R146, R147, R148: the table mirrors. -/
def Obligations.Mirrors : Prop :=
  (∀ (s : State) (m : Master), s.passes m .CLE_MIRROR_CFG → s.on fCLE_MIRROR_CFG_EN_A = false → s.on fCLE_MIRROR_CFG_EN_B = false →
    100 ≤ s.rd fCLE_MIRROR_CFG_STALL_US → s.rd fCLE_MIRROR_CFG_STALL_US ≤ 10000 → s.gateOpen (some m) .CLE 0 = true → mirrorNeed ≤ s.rd fCLE_MIRROR_SIZE_SIZE_MIB 0 0 →
    bitsOf (s.rg .GEN_OWNER_MAP 0 0).toNat 9 8 = 1 → Gives (.mirrorEnable m true false) s fun t =>
    t.on fCLE_MIRROR_CFG_EN_A = true ∧ (t.mirQ .a).running = true ∧ t.clerk.resyncs = s.clerk.resyncs.filter (·.1 != .a) ++ [(.a, 0)] ∧
    t.on fCLE_MIRROR_STATUS_VALID_A = false ∧ t.on fCLE_MIRROR_STATUS_RESYNC_A = true ∧ t.mirQ .b = s.mirQ .b ∧
    t = { s with regs := t.regs, lrn := { s.lrn with mirrors := t.lrn.mirrors }, clerk := { s.clerk with resyncs := t.clerk.resyncs }, hst := { s.hst with round := t.hst.round } } ∧
    SameBits s t [fCLE_MIRROR_CFG_EN_A.loc, fCLE_MIRROR_STATUS_VALID_A.loc, fCLE_MIRROR_STATUS_RESYNC_A.loc]) ∧
  (∀ (s : State) (m : Master), s.passes m .CLE_MIRROR_CFG → s.on fCLE_MIRROR_CFG_EN_A = true → s.on fCLE_MIRROR_CFG_EN_B = true →
    100 ≤ s.rd fCLE_MIRROR_CFG_STALL_US → s.rd fCLE_MIRROR_CFG_STALL_US ≤ 10000 → s.gateOpen (some m) .CLE 0 = true → Gives (.mirrorEnable m true false) s fun t =>
    t.on fCLE_MIRROR_CFG_EN_B = false ∧ (t.mirQ .b).running = false ∧ (t.mirQ .b).queue = [] ∧ t.mirQ .a = s.mirQ .a ∧
    t.clerk.resyncs = s.clerk.resyncs.filter (·.1 != .b) ∧ t.on fCLE_MIRROR_STATUS_VALID_B = false ∧
    SameBits s t [fCLE_MIRROR_CFG_EN_B.loc, fCLE_MIRROR_STATUS_VALID_B.loc, fCLE_MIRROR_STATUS_RESYNC_B.loc]) ∧
  (∀ (s : State) (m : Master), s.passes m .CLE_MIRROR_CFG → s.on fCLE_MIRROR_CFG_EN_A = false → s.on fCLE_MIRROR_CFG_EN_B = false →
    100 ≤ s.rd fCLE_MIRROR_CFG_STALL_US → s.rd fCLE_MIRROR_CFG_STALL_US ≤ 10000 → s.rd fCLE_MIRROR_SIZE_SIZE_MIB 0 0 < mirrorNeed →
    Gives (.mirrorEnable m true false) s fun t =>
    Rejected s t m .badValue (Reg.addr .CLE_MIRROR_CFG) (word (setBits (s.rg .CLE_MIRROR_CFG).toNat 1 0 1)) ∧ t.lrn = s.lrn) ∧
  (∀ (s : State) (h : HostId), s.engineNext (chanOf h 17 / 16) = some (chanOf h 17) → s.calm h (chanOf h 17) → Gives (.mirrorWrite h) s fun t =>
    t.mirQ h = { s.mirQ h with queue := (s.mirQ h).queue.drop 64, progress := s.tim.rc } ∧
    t.hst.out = s.hst.out ++ (((s.mirQ h).queue.take 64).map fun x => .write h (s.mirBase h + x.1) (wordsBytes x.2)) ++
      (if s.on fHST_CH_CFG_INT_EN 0 (chanOf h 17) = true ∧ s.msixMasked h (s.rd fHST_CH_CFG_VECTOR 0 (chanOf h 17)) = false then
        [.msi h (s.rd fHST_CH_CFG_VECTOR 0 (chanOf h 17))] else []) ∧
    t = { s with hst := { s.hst with out := t.hst.out, pba := t.hst.pba, turns := AMap.set s.hst.turns (chanOf h 17 / 16) (chanOf h 17 % 16) }, lrn := { s.lrn with mirrors := t.lrn.mirrors }, ckr := { s.ckr with pulses := t.ckr.pulses } }) ∧
  (∀ (s : State) (h : HostId), s.chOn h 17 = false ∨ (s.mirQ h).running = false ∨ (s.mirQ h).queue = [] → exec (.mirrorWrite h) s = .next s) ∧
  (∀ (s : State) (h : HostId), (s.mirQ h).running = true → (s.mirQ h).queue ≠ [] →
    (s.mirQ h).progress + ns (s.rd fCLE_MIRROR_CFG_STALL_US * 1000) ≤ s.tim.rc → Gives (.mirrorStall h) s fun t =>
    (t.mirQ h).running = false ∧ (t.mirQ h).queue = [] ∧ t.rd fCLE_MIRROR_STATUS_STALLS = s.satUp fCLE_MIRROR_STATUS_STALLS ∧
    t.on (mirValid h) = false ∧ t.on (mirResync h) = false ∧ Raised t .MIR_STALL ∧ (∀ x ∈ t.clerk.resyncs, x.1 ≠ h) ∧
    t = { s with regs := t.regs, lrn := { s.lrn with mirrors := t.lrn.mirrors }, flt := { s.flt with crossing := t.flt.crossing }, clerk := { s.clerk with resyncs := t.clerk.resyncs, work := t.clerk.work } } ∧
    SameBits s t [fCLE_MIRROR_STATUS_STALLS.loc, (mirValid h).loc, (mirResync h).loc]) ∧
  (∀ (s : State) (h : HostId), (s.mirQ h).running = false ∨ (s.mirQ h).queue = [] ∨
    s.tim.rc < (s.mirQ h).progress + ns (s.rd fCLE_MIRROR_CFG_STALL_US * 1000) → exec (.mirrorStall h) s = .next s) ∧
  (∀ (s : State) (h : HostId) (k : Nat), s.clerk.work = .resync h → s.clerk.resyncs = [(h, k)] → (s.mirQ h).running = true →
    (s.mirQ h).queue = [] → 0 < k → k < resyncAll → Gives (.resyncChunk) s fun t =>
    (t.mirQ h).queue = (List.range (min (4096 - k % 4096) (resyncAll - k))).filterMap (fun j => (resyncAt mirRegions (k + j)).map fun x =>
      (regionOff x.1 x.2.1 + x.2.2 * 2 ^ recLog x.1,
        mirrorWords ((s.mirQ h).seq + j) x.1 (if tblPerPipe x.1 then x.2.1 else 15) 9 x.2.2 (asStored x.1 (s.ent x.1 x.2.1 x.2.2)))) ∧
    (t.mirQ h).seq = (s.mirQ h).seq + min (4096 - k % 4096) (resyncAll - k) ∧ t.clerk.work = .idle ∧
    (resyncAll ≤ k + (4096 - k % 4096) → t.clerk.resyncs = [] ∧ t.on (mirValid h) = true ∧ t.on (mirResync h) = false) ∧
    (k + (4096 - k % 4096) < resyncAll → t.clerk.resyncs = [(h, k + (4096 - k % 4096))] ∧ t.regs = s.regs) ∧
    t = { s with regs := t.regs, lrn := { s.lrn with mirrors := t.lrn.mirrors }, clerk := { s.clerk with resyncs := t.clerk.resyncs, work := .idle } }) ∧
  (∀ (s : State) (h : HostId), s.clerk.work = .resync h → 4096 ≤ (s.mirQ h).queue.length → s.clerk.resyncs.any (·.1 == h) = true →
    exec (.resyncChunk) s = .next { s with clerk := { s.clerk with stepHeld := true } }) ∧
  (∀ (k : Nat) (x : Nat × Nat × Nat), resyncAt mirRegions k = some x → (x.1, x.2.1) ∈ mirRegions ∧ x.2.2 < tblEntries x.1) ∧
  (∀ (s : State) (m : Master), s.passes m .CLE_MIRROR_CFG → s.on fCLE_MIRROR_CFG_EN_A = false → s.on fCLE_MIRROR_CFG_EN_B = false →
    100 ≤ s.rd fCLE_MIRROR_CFG_STALL_US → s.rd fCLE_MIRROR_CFG_STALL_US ≤ 10000 → s.gateOpen (some m) .CLE 0 = false →
    mirrorNeed ≤ s.rd fCLE_MIRROR_SIZE_SIZE_MIB 0 0 → bitsOf (s.rg .GEN_OWNER_MAP 0 0).toNat 9 8 = 1 → Gives (.mirrorEnable m true false) s fun t =>
    t.on fCLE_MIRROR_CFG_EN_A = true ∧ (t.mirQ .a).running = true ∧ t.on fCLE_MIRROR_STATUS_RESYNC_A = true ∧
    Logged s t m .expertClosed (Reg.addr .CLE_MIRROR_CFG) (word (setBits (s.rg .CLE_MIRROR_CFG).toNat 1 0 1)))

/-- R149, R150, R174: repairs and their fences. That a frame returned before the rewrite counts toward its fence, and that a chip table counts in
pipeline 0, are the model's choices (assumption log 22). -/
def Obligations.Repairs : Prop :=
  (∀ (s : State) (tag : Nat) (r : Repair) (h : HostId), s.clerk.work = .repairRead tag → s.repair? tag = some r → s.catSister r.table r.pipe r.index = false →
    s.repairMirror = some h → h ∉ s.hst.lost → exec .repairReadIssue s = .next { s with lrn := { s.lrn with repairs := s.lrn.repairs.map fun x => if x.tag = tag then { r with phase := 1, host := h, behind := (s.mirQ h).seq } else x }, hst := { s.hst with out := s.hst.out ++ [PcieOut.read h ((s.mirBase h + regionOff r.table r.pipe + r.index * 2 ^ recLog r.table) / 4 * 4) (((s.mirBase h + regionOff r.table r.pipe + r.index * 2 ^ recLog r.table) + 4 * (4 + tblWords r.table) + 3) / 4 * 4 - (s.mirBase h + regionOff r.table r.pipe + r.index * 2 ^ recLog r.table) / 4 * 4)] }, clerk := { s.clerk with work := .idle } }) ∧
  (∀ (s : State) (tag : Nat) (r : Repair), s.clerk.work = .repairRead tag → s.repair? tag = some r → s.catSister r.table r.pipe r.index = false →
    s.repairMirror = none → exec .repairReadIssue s = .next { s with lrn := { s.lrn with repairs := s.lrn.repairs.map fun x => if x.tag = tag then { r with phase := 2, record := none } else x }, clerk := { s.clerk with work := .idle } }) ∧
  (∀ (s : State), s.on fCLE_MIRROR_CFG_REPAIR_SRC = false → s.on fCLE_MIRROR_STATUS_VALID_A = true → s.on fCLE_MIRROR_CFG_EN_A = true →
    s.repairMirror = some .a) ∧
  (∀ (s : State), s.on fCLE_MIRROR_CFG_REPAIR_SRC = false → s.on fCLE_MIRROR_STATUS_VALID_A = false → s.on fCLE_MIRROR_CFG_FALLBACK = true →
    s.on fCLE_MIRROR_STATUS_VALID_B = true → s.on fCLE_MIRROR_CFG_EN_B = true → s.repairMirror = some .b) ∧
  (∀ (s : State), s.on fCLE_MIRROR_STATUS_VALID_A = false → s.on fCLE_MIRROR_STATUS_VALID_B = false → s.repairMirror = none) ∧
  (∀ (s : State) (tag : Nat) (r : Repair) (a : HostRead) (ws : List Word), s.repair? tag = some r → r.phase = 1 →
    r.behind + (s.mirQ r.host).queue.length ≤ (s.mirQ r.host).seq → exec (.repairRecordReturn tag a ws) s = .next { s with lrn := { s.lrn with repairs := s.lrn.repairs.map fun x => if x.tag = tag then { r with phase := 2, record := if a = .ok then some ws else none } else x } }) ∧
  (∀ (s : State) (tag : Nat) (r : Repair) (a : HostRead) (ws : List Word), s.repair? tag = some r →
    (s.mirQ r.host).seq - (s.mirQ r.host).queue.length < r.behind → exec (.repairRecordReturn tag a ws) s = .next s) ∧
  (∀ (s : State) (tag : Nat) (r : Repair) (ws : List Word), s.clerk.work = .repairWrite tag → s.repair? tag = some r → s.lrn.repairs = [r] →
    s.mirFull = false → r.table ∈ [0x01, 0x02, 0x08, 0x0A, 0x0B, 0x0F, 0x10, 0x11, 0x12, 0x13, 0x18, 0x19, 0x20, 0x21, 0x22, 0x28, 0x2F] →
    r.pipe = tblPipe r.table r.pipe → r.record = some ws → recordGood r ws = true → r.punted = [] → s.lrn.waiting = [] → Gives .repairWrite s fun t =>
    t.ent r.table r.pipe r.index = entClean r.table ((ws.drop 4).take (tblWords r.table)) ∧ t.lrn.repairs = [] ∧ t.clerk.work = .idle ∧
    CountsUp s t ([((14, r.blkPipe * 1024 + 174, 0), 1)] ++ s.evtDrops r.pipe) ∧ Told s t (s.eventRec 0x17 r.pipe 0 r.table r.index 0 0 s.tim.ct) ∧
    (∀ ti q j, (ti, tblPipe ti q, j) ≠ (r.table, r.pipe, r.index) → t.ent ti q j = s.ent ti q j) ∧
    SameBits s t [fCLE_REPAIR_STATUS_OPEN.loc]) ∧
  (∀ (s : State) (tag : Nat) (r : Repair), s.clerk.work = .repairWrite tag → s.repair? tag = some r → s.lrn.repairs = [r] → s.mirFull = false →
    r.table ∈ [0x01, 0x02, 0x08, 0x0A, 0x0B, 0x0F, 0x10, 0x11, 0x12, 0x13, 0x18, 0x19, 0x20, 0x21, 0x22, 0x28, 0x2F] →
    r.pipe = tblPipe r.table r.pipe → r.record = none → r.punted = [(0, 3), (1, 2)] → r.returned = [(1, 2)] → Gives .repairWrite s fun t =>
    t.ent r.table r.pipe r.index = zeros (tblWords r.table) ∧ t.lrn.repairs = [{ r with phase := 3, fences := [0], rcOpen := s.tim.rc }] ∧
    t.rd fCLE_REPAIR_STATUS_INVALIDATED = s.satUp fCLE_REPAIR_STATUS_INVALIDATED ∧ Raised t .MIR_REPAIR_FAIL ∧ t.clerk.work = .idle ∧
    CountsUp s t ([((14, r.blkPipe * 1024 + 175, 0), 1)] ++ s.evtDrops r.pipe) ∧ Told s t (s.eventRec 0x18 r.pipe 0 r.table r.index 0 0 s.tim.ct) ∧
    SameBits s t [fCLE_REPAIR_STATUS_INVALIDATED.loc]) ∧
  (∀ (s : State) (tag : Nat) (r : Repair), s.clerk.work = .repairWrite tag → s.repair? tag = some r → s.mirFull = true →
    exec .repairWrite s = .next { s with clerk := { s.clerk with stepHeld := true } }) ∧
  (∀ (s : State) (tag p : Nat) (r : Repair), s.lrn.repairs = [r] → r.tag = tag → r.fences = [p] → s.lrn.waiting = [] → s.heldOf p = [] →
    r.rcOpen + ns (s.rd fCLE_REPAIR_CFG_FENCE_TIMEOUT_US * 1000) ≤ s.tim.rc → Gives (.fenceTimeout tag p) s fun t =>
    t.lrn.repairs = [] ∧ CountsUp s t [((14, p * 1024 + 177, 0), 1)] ∧ Raised t .FENCE_TIMEOUT p ∧
    t.rd fCLE_REPAIR_STATUS_OPEN = s.rd fCLE_REPAIR_STATUS_OPEN - 1 ∧
    t = { s with regs := t.regs, cnts := t.cnts, saved := t.saved, flt := { s.flt with crossing := t.flt.crossing }, lrn := { s.lrn with repairs := t.lrn.repairs, held := t.lrn.held, heldEg := t.lrn.heldEg } } ∧ SameBits s t [fCLE_REPAIR_STATUS_OPEN.loc]) ∧
  (∀ (s : State) (tag p : Nat) (r : Repair), s.repair? tag = some r →
    p ∉ r.fences ∨ s.tim.rc < r.rcOpen + ns (s.rd fCLE_REPAIR_CFG_FENCE_TIMEOUT_US * 1000) → exec (.fenceTimeout tag p) s = .next s)

/-- R209, R213, R214, R217, R220: the end of a drain. -/
def Obligations.EditionDrain : Prop :=
  (∀ (s : State) (b : Bool), s.edState b = 4 ∨ s.edState b = 5 → s.resident b = 0 → s.markedAtMac b = false → Gives (.editionDrained b) s fun t =>
    t.edState b = 6 ∧ t.edState (!b) = s.edState (!b) ∧
    t.rd fCLE_ED_DRAIN_LAST_DRAIN_US = min 0xFFFFFF ((s.tim.rc - AMap.getD s.ed.drainRc (b2n b) s.tim.rc) / ns 1000) ∧
    Told s t (s.eventRec 0x31 15 0 (s.edNum b + b2n b * 2 ^ 16) 0 0 0 s.tim.ct) ∧ CountsUp s t (s.evtDrops 15) ∧
    slotOf .ED_STUCK 0 ∉ t.flt.present ∧
    t = { s with regs := t.regs, cnts := t.cnts, saved := t.saved, hst := { s.hst with events := t.hst.events }, flt := { s.flt with present := t.flt.present, doms := t.flt.doms } } ∧ SameBits s t [(fEdState b).loc, fCLE_ED_DRAIN_LAST_DRAIN_US.loc]) ∧
  (∀ (s : State) (b : Bool), (s.edState b ≠ 4 ∧ s.edState b ≠ 5) ∨ s.resident b ≠ 0 ∨ s.markedAtMac b = true → exec (.editionDrained b) s = .next s) ∧
  (∀ (s : State) (b : Bool), s.edState b = 4 → 0 < s.resident b →
    AMap.getD s.ed.drainRc (b2n b) 0 + ns (1000 * AMap.getD s.ed.drainLen (b2n b) 0) ≤ s.tim.rc → Gives (.drainTimeout b) s fun t =>
    t.edState b = 5 ∧ t.rd fCLE_ED_DRAIN_EXPIRIES = s.satUp fCLE_ED_DRAIN_EXPIRIES ∧ AMap.get? t.ed.expRc (b2n b) = some s.tim.rc ∧
    Raised t .ED_EXPIRED ∧ Told s t (s.eventRec 0x32 15 0 (s.edNum b + b2n b * 2 ^ 16) (s.resident b) 0 0 s.tim.ct) ∧ CountsUp s t (s.evtDrops 15) ∧
    t = { s with regs := t.regs, cnts := t.cnts, saved := t.saved, hst := { s.hst with events := t.hst.events }, flt := { s.flt with crossing := t.flt.crossing }, ed := { s.ed with expRc := t.ed.expRc } } ∧
    SameBits s t [(fEdState b).loc, fCLE_ED_DRAIN_EXPIRIES.loc]) ∧
  (∀ (s : State) (b : Bool), s.edState b ≠ 4 ∨ s.resident b = 0 ∨
    s.tim.rc < AMap.getD s.ed.drainRc (b2n b) 0 + ns (1000 * AMap.getD s.ed.drainLen (b2n b) 0) → exec (.drainTimeout b) s = .next s) ∧
  (∀ (s : State) (b : Bool), s.edState b = 5 → AMap.getD s.ed.expRc (b2n b) 0 + ns nsPerSec ≤ s.tim.rc → s.isPresent (slotOf .ED_STUCK 0) = false →
    Gives (.edStuck b) s fun t => t.isPresent (slotOf .ED_STUCK 0) = true ∧ Raised t .ED_STUCK ∧
    t = { s with flt := { s.flt with crossing := t.flt.crossing, present := t.flt.present } }) ∧
  (∀ (s : State) (b : Bool), s.edState b ≠ 5 ∨ s.tim.rc < AMap.getD s.ed.expRc (b2n b) 0 + ns nsPerSec → exec (.edStuck b) s = .next s)

/-- R274, R275, R277, R278, R279, R281, R284: Ration's period. -/
def Obligations.Ration : Prop :=
  (∀ (s : State) (rails : List Nat), s.rat.sampleAt + ns 1000 ≤ s.tim.rc → exec (.powerSample rails) s = .next { s with rat := { s.rat with sum := s.rat.sum + rails.sum, samples := s.rat.samples + 1, sampleAt := s.rat.sampleAt + ns 1000 } }) ∧
  (∀ (s : State) (rails : List Nat), s.tim.rc < s.rat.sampleAt + ns 1000 → exec (.powerSample rails) s = .next s) ∧
  (∀ (s : State) (temps : List Int), s.tim.rc < s.rat.endAt + ns 10000 → exec (.rationPeriodEnd temps) s = .next s) ∧
  (∀ (s : State) (temps : List Int), s.rat.endAt + ns 10000 ≤ s.tim.rc → temps.length = 64 → Gives (.rationPeriodEnd temps) s fun t =>
    t.rd fRAT_POWER_LAST = min 8191 (s.ratPower * 8 / 1000) ∧ t.rd fRAT_POWER_PEAK = max (s.rd fRAT_POWER_PEAK) (t.rd fRAT_POWER_LAST) ∧
    (∀ i, i < 64 → t.on fRAT_SENSOR_VALID 0 i = tempOk (temps.getD i 0) ∧ t.rd fRAT_SENSOR_TEMP 0 i = to11 (temps.getD i 0)) ∧
    (∀ p, p < 8 → t.rd fRAT_PIPE_STAT_SCALE 0 p = s.ratScale (hottest (pipeTemps temps p))) ∧
    t.rat.next = some (s.rat.endAt + ns 11000, (List.range 8).map fun p =>
      if ((List.range 8).map s.ratDemand).sum = 0 then s.ratScale (hottest (pipeTemps temps p)) * s.ratA s.ratPower / 2048
      else s.ratScale (hottest (pipeTemps temps p)) * s.ratA s.ratPower * s.ratDemand p / (256 * ((List.range 8).map s.ratDemand).sum)) ∧
    t.rat.endAt = s.rat.endAt + ns 10000 ∧ t.rat.work = [] ∧ t.rat.deferred = [] ∧ t.rat.kinds = [] ∧ t.rat.samples = 0 ∧ t.rat.sum = 0 ∧
    t.rat.remain = s.rat.remain ∧
    t = { s with regs := t.regs, cnts := t.cnts, saved := t.saved, flt := t.flt, rat := t.rat }) ∧
  (∀ (s : State) (mw : Nat), s.rat.failed = false → (s.ratA mw : Int) = min (2 ^ 32 - 1) (max 0 ((s.ratW : Int) +
    (s.rd fRAT_LOOP_GAIN : Int) * ((min (s.rd fRAT_CAP_HOST_CAP_W) (s.rd fRAT_CAP_BOARD_CAP_W) : Nat) * 1000 -
      (s.rd fRAT_LOOP_MARGIN_W : Int) * 1000 - mw) * 10000 / (16 * (s.rd fRAT_LOOP_E_PJ : Int))))) ∧
  (∀ (s : State) (t0 : Nat) (shares : List Nat), s.rat.next = some (t0, shares) → t0 ≤ s.tim.rc → shares.length = 8 →
    (∀ x ∈ shares, x < 2 ^ 32) → Gives .allowanceLoad s fun t =>
    (∀ p, p < 8 → t.rd fRAT_PIPE_ALLOW_ALLOW 0 p = shares.getD p 0 ∧ t.ratRemain p = (shares.getD p 0 : Int)) ∧ t.rat.next = none ∧
    CountsUp s t ((List.range 8).map fun p => ((14, p * 1024 + 320, 0), shares.getD p 0)) ∧
    t = { s with regs := t.regs, cnts := t.cnts, saved := t.saved, rat := { s.rat with next := none, remain := t.rat.remain, shed := (s.rg .RAT_SHED).toNat } } ∧
    SameBits s t ((List.range 8).map fun p => fRAT_PIPE_ALLOW_ALLOW.loc 0 p)) ∧
  (∀ (s : State), (∀ x ∈ s.rat.next, s.tim.rc < x.1) → exec .allowanceLoad s = .next s) ∧
  (∀ (s : State), Gives .monitorFail s fun t => t.rat = { s.rat with failed := true } ∧ t.isPresent (slotOf .RAT_MON_FAIL 0) = true ∧
    (s.isPresent (slotOf .RAT_MON_FAIL 0) = false → Raised t .RAT_MON_FAIL) ∧
    t = { s with rat := t.rat, flt := { s.flt with crossing := t.flt.crossing, present := t.flt.present } }) ∧
  (∀ (s : State), Gives .monitorRecover s fun t => t.rat = { s.rat with failed := false } ∧ slotOf .RAT_MON_FAIL 0 ∉ t.flt.present ∧
    t = { s with rat := t.rat, flt := { s.flt with present := t.flt.present, doms := t.flt.doms } })

/-- R222, R287, R289, R290, R291, R292, R293, R296; the place of a snapshot in its region is assumption log 14. -/
def Obligations.Snapshots : Prop :=
  (∀ (s : State) (m : Master), s.passes m .STB_CFG → s.on fSTB_CFG_EN = false → Gives (.stableEnable m) s fun t =>
    t.on fSTB_CFG_EN = true ∧ t.on fSTB_STATUS_READY = false ∧ t = { s with regs := t.regs, hst := { s.hst with round := t.hst.round } } ∧
    SameBits s t [fSTB_CFG_EN.loc, fSTB_STATUS_READY.loc]) ∧
  (∀ (s : State), s.on fSTB_CFG_EN = true → s.on fSTB_STATUS_READY = false → Gives .stableReady s fun t =>
    t.on fSTB_STATUS_READY = true ∧
    (∀ k, k < 4 → t.rd fSTB_POOL_FREE_FREE 0 k = s.rd fSTB_POOL_COUNT_COUNT 0 k ∧ t.rd fSTB_POOL_LOW_LOW 0 k = s.rd fSTB_POOL_COUNT_COUNT 0 k) ∧
    t = { s with regs := t.regs } ∧
    SameBits s t (fSTB_STATUS_READY.loc :: (List.range 4).flatMap fun k => [fSTB_POOL_FREE_FREE.loc 0 k, fSTB_POOL_LOW_LOW.loc 0 k])) ∧
  (∀ (s : State), s.on fSTB_CFG_EN = false ∨ s.on fSTB_STATUS_READY = true → exec .stableReady s = .next s) ∧
  (∀ (s : State) (x : Scan), s.arc.scan = some x → x.started = false → x.rc + ns 10000 ≤ s.tim.rc → Gives .snapshotScanStart s fun t =>
    t.on fARC_SNAP_STATUS_SCANNING = true ∧ t.arc = { s.arc with scan := some { x with started := true } } ∧
    t = { s with regs := t.regs, arc := t.arc } ∧ SameBits s t [fARC_SNAP_STATUS_SCANNING.loc]) ∧
  (∀ (s : State), (∀ x ∈ s.arc.scan, x.started = true ∨ s.tim.rc < x.rc + ns 10000) → exec .snapshotScanStart s = .next s) ∧
  (∀ (s : State) (x : Scan), s.arc.scan = some x → x.started = true → x.rc + ns 10000 + snapLen x.mask * nsU / s.scanRate ≤ s.tim.rc →
    s.archOpen = true → s.drm.waiting = [] → s.drm.queues = [] → s.flt.marks = [] → s.flt.nextMarks = [] → s.arc.snapHead + snapSpan x.mask ≤ s.snapSize → Gives .snapshotComplete s fun t =>
    t.epoch = none ∧ t.saved = [] ∧ t.arc.scan = none ∧ t.arc.snapSeq = (s.arc.snapSeq + 1) % 2 ^ 32 ∧ t.arc.snapSkipped = 0 ∧
    t.arc.snaps = s.arc.snaps ++ [⟨s.arc.snapHead % s.snapSize, snapLen x.mask, (s.arc.snapSeq + 1) % 2 ^ 32⟩] ∧
    t.arc.snapUsed = s.arc.snapUsed + snapSpan x.mask ∧ t.on fARC_SNAP_STATUS_SCANNING = false ∧ t.cnts = s.cnts ∧
    Memory.reads t.arc.mem (s.snapBase + s.arc.snapHead) (snapLen x.mask) =
      s.snapHeader x (((s.consFails x).map (2 ^ ·)).sum) (crc32 0 0xFFFFFFFF (((maskSets x.mask).map (s.section_ x)).flatten)) ++
        ((maskSets x.mask).map (s.section_ x)).flatten ∧
    (∀ k ∈ s.consFails x, Raised t .ARC_CONSERVE k) ∧ (s.consFails x = [] → t.flt = s.flt) ∧
    t = { s with regs := t.regs, epoch := none, saved := [], arc := t.arc, flt := { s.flt with crossing := t.flt.crossing }, drm := { s.drm with blocked := t.drm.blocked } } ∧
    (∀ a, a < s.snapBase + s.arc.snapHead ∨ s.snapBase + s.arc.snapHead + snapSpan x.mask ≤ a → Memory.read t.arc.mem a = Memory.read s.arc.mem a)) ∧
  (∀ (s : State), (∀ x ∈ s.arc.scan, x.started = false ∨ s.tim.rc < x.rc + ns 10000 + snapLen x.mask * nsU / s.scanRate) →
    exec .snapshotComplete s = .next s) ∧
  (∀ (s : State) (x : Scan), s.arc.scan = some x → x.started = true → x.rc + ns 10000 + snapLen x.mask * nsU / s.scanRate ≤ s.tim.rc →
    s.archOpen = false → s.dclkOn = true → exec .snapshotComplete s = .next s) ∧
  (∀ (s : State) (m : Master), s.passes m .ARC_CFG → s.on fARC_CFG_SNAP_EN = true → (∀ tr ∈ s.tim.trigs, tr.kind ≠ .snapshot) →
    s.arc.scan.isSome = true → Gives (.snapDisable m) s fun t =>
    t.on fARC_CFG_SNAP_EN = false ∧ t.arc = { s.arc with scan := none } ∧ t.epoch = none ∧ t.saved = [] ∧ t.on fARC_SNAP_STATUS_SCANNING = false ∧
    t.cnts = s.cnts ∧ SameBits s t [fARC_CFG_SNAP_EN.loc, fARC_SNAP_STATUS_SCANNING.loc]) ∧
  (∀ (s : State) (set elem idx : Nat), set < 14 → elem < (setInfo set).1 → idx < (setInfo set).2 → Gives (.counterRestore set elem idx) s fun t =>
    t.cnt set elem idx = (if bitOf s.arc.lastMask set then AMap.getD s.arc.lastSnap (set, elem, idx) 0 else 0) ∧
    t.cnt 14 (cntHome set elem * 1024 + 395) 0 = s.cnt 14 (cntHome set elem * 1024 + 395) 0 + 1 ∧
    (∀ k e i, (k, e, i) ≠ (set, elem, idx) → (k, e, i) ≠ (14, cntHome set elem * 1024 + 395, 0) → t.cnt k e i = s.cnt k e i) ∧
    t.arc = { s.arc with restored := s.arc.restored ||| 2 ^ set } ∧ Raised t .ARC_CNT_LOST ∧ t.regs = s.regs) ∧
  (∀ (s : State) (set elem idx : Nat), ¬(elem < (setInfo set).1 ∧ idx < (setInfo set).2) → exec (.counterRestore set elem idx) s = .next s)

/-- R238, R297, R298, R299, R300, R301, R302, R303: flow cache and capture. -/
def Obligations.FlowsAndCapture : Prop :=
  (∀ (s : State) (p : Nat) (k : Nat × Nat × Nat) (f : Flow), s.arc.flows = [(k, f)] → k.1 = p → s.on fPAR_FLOW_CFG_EN p = true →
    f.last + ns (s.rd fARC_FLOW_TIMERS_IDLE_MS * 1000000) ≤ s.tim.ct → s.arc.ledUsed < s.ledSize → s.dramClear = true → s.drm.queues = [] → s.flt.marks = [] →
    s.flt.nextMarks = [] → s.jobDue .flowSweep p (ns 1000000) = true → Gives (.flowSweep p) s fun t =>
    t.arc.flows = [] ∧ t.arc.ledHead = s.arc.ledHead + 1 ∧ t.arc.ledUsed = s.arc.ledUsed + 1 ∧
    Memory.reads t.arc.mem (s.ledBase + (s.arc.ledHead % s.ledSize) * 64) 24 =
      wordsBytes [word (4 + p * 2 ^ 8 + f.firstState * 2 ^ 13 + f.lastState * 2 ^ 15), word f.flow, word f.frames, word (f.frames / 2 ^ 32), word f.bytes,
        word (f.bytes / 2 ^ 32)] ∧
    CountsUp s t [((14, p * 1024 + 385, 0), 1), ((14, p * 1024 + 391, 0), 1)] ∧
    t = { s with cnts := t.cnts, saved := t.saved, tim := { s.tim with jobs := AMap.set s.tim.jobs (.flowSweep, p) s.tim.rc }, arc := { s.arc with mem := t.arc.mem, flows := [], ledHead := t.arc.ledHead, ledUsed := t.arc.ledUsed } } ∧
    (∀ a, a < s.ledBase + (s.arc.ledHead % s.ledSize) * 64 ∨ s.ledBase + (s.arc.ledHead % s.ledSize) * 64 + 64 ≤ a →
      Memory.read t.arc.mem a = Memory.read s.arc.mem a)) ∧
  (∀ (s : State) (p : Nat), s.on fPAR_FLOW_CFG_EN p = true → (∀ x ∈ s.arc.flows, x.1.1 ≠ p ∨
    (s.tim.ct < x.2.last + ns (s.rd fARC_FLOW_TIMERS_IDLE_MS * 1000000) ∧ s.tim.ct < x.2.first + ns (s.rd fARC_FLOW_TIMERS_ACTIVE_S * nsPerSec))) →
    s.jobDue .flowSweep p (ns 1000000) = true → exec (.flowSweep p) s = .next (s.jobRun .flowSweep p)) ∧
  (∀ (s : State) (p : Nat), s.jobDue .flowSweep p (ns 1000000) = false → exec (.flowSweep p) s = .next s) ∧
  (∀ (s : State) (m : Master) (p : Nat) (k : Nat × Nat × Nat) (f : Flow), p < 8 → s.dramWaits 1 < 256 → s.passes m .PAR_FLOW_CFG p → s.gateOpen (some m) .PAR p = true →
    s.on fPAR_FLOW_CFG_EN p = true →
    s.arc.flows = [(k, f)] → k.1 = p → s.arc.ledUsed < s.ledSize → Gives (.flowFlush m p) s fun t =>
    t.on fPAR_FLOW_CFG_EN p = false ∧ t.arc.flows = [] ∧ t.arc.ledUsed = s.arc.ledUsed + 1 ∧ CountsUp s t [((14, p * 1024 + 391, 0), 1)] ∧
    t.hst = { s.hst with round := t.hst.round }) ∧
  (∀ (s : State) (m : Master) (p : Nat), p < 8 → s.passes m .PAR_FLOW_CFG p → s.gateOpen (some m) .PAR p = true →
    s.on fPAR_FLOW_CFG_EN p = true → (∀ x ∈ s.arc.flows, x.1.1 ≠ p) →
    Gives (.flowFlush m p) s fun t =>
    t.on fPAR_FLOW_CFG_EN p = false ∧ t = { s with regs := t.regs, hst := { s.hst with round := t.hst.round } } ∧
    SameBits s t [fPAR_FLOW_CFG_EN.loc p]) ∧
  (∀ (s : State) (m : Master) (p : Nat), p < 8 → s.passes m .PAR_FLOW_CFG p → s.gateOpen (some m) .PAR p = false → s.on fPAR_FLOW_CFG_EN p = true →
    (∀ x ∈ s.arc.flows, x.1.1 ≠ p) → Gives (.flowFlush m p) s fun t =>
    t.on fPAR_FLOW_CFG_EN p = false ∧ Logged s t m .expertClosed (Reg.addr .PAR_FLOW_CFG p) (word (setBits (s.rg .PAR_FLOW_CFG p).toNat 0 0 0)) ∧
    SameBits s t [fPAR_FLOW_CFG_EN.loc p, fHST_REJECT_COUNT_COUNT.loc 0 m.num]) ∧
  (∀ (s : State) (m : Master), s.passes m .ARC_CAP_CFG → s.rd fARC_CAP_CFG_MODE = 1 → s.rd fARC_CAP_STATUS_STATE = 0 →
    10 ≤ s.rd fARC_CAP_CFG_LOG2_RECS → s.rd fARC_CAP_CFG_LOG2_RECS ≤ 24 → s.rd fARC_CAP_POST_POST < 2 ^ s.rd fARC_CAP_CFG_LOG2_RECS →
    s.rg .ARC_CAP_CFG = s.rg .ARC_CAP_CFG &&& 0xF1F → Gives (.captureStop m) s fun t =>
    t.rd fARC_CAP_STATUS_STATE = (if s.rd fARC_CAP_POST_POST = 0 then 2 else 1) ∧ t.rd fARC_CAP_STOP_SEQ_SEQ = s.arc.capSeq % 2 ^ 32 ∧
    t.arc = { s.arc with capPost := s.rd fARC_CAP_POST_POST } ∧
    t = { s with regs := t.regs, arc := t.arc, hst := { s.hst with round := t.hst.round } } ∧
    SameBits s t [fARC_CAP_STATUS_STATE.loc, fARC_CAP_STOP_SEQ_SEQ.loc]) ∧
  (∀ (s : State) (m : Master), s.passes m .ARC_CAP_CFG → s.rd fARC_CAP_STATUS_STATE = 2 →
    10 ≤ s.rd fARC_CAP_CFG_LOG2_RECS → s.rd fARC_CAP_CFG_LOG2_RECS ≤ 24 → s.rd fARC_CAP_POST_POST < 2 ^ s.rd fARC_CAP_CFG_LOG2_RECS →
    s.rg .ARC_CAP_CFG = s.rg .ARC_CAP_CFG &&& 0xF1F → Gives (.captureRearm m) s fun t =>
    t.rd fARC_CAP_STATUS_STATE = 0 ∧ t = { s with regs := t.regs, hst := { s.hst with round := t.hst.round } } ∧
    SameBits s t [fARC_CAP_STATUS_STATE.loc]) ∧
  (∀ (s : State), (∀ c, c < 8 → s.queue (hostQueue 266 c) = []) → exec .captureDeliver s = .next s) ∧
  (∀ (s : State) (id : Nat) (x : Slip) (st : Stall), s.queue (hostQueue 266 7) = [id] → s.slip? id = some x → x.id = id → x.cls = 7 → x.outPort = 266 →
    s.frameOf x = some st → st.done = true → st.bad = false → s.flt.marks = [] → s.flt.nextMarks = [] → s.drm.queues = [] → s.dramClear = true →
    s.on fARC_CFG_CAP_EN = true → s.capRefill.capTakes = true → s.rd fARC_CAP_STATUS_STATE = 0 → Gives .captureDeliver s fun t =>
    t.arc.capSeq = s.arc.capSeq + 1 ∧ t.arc.capHead = s.arc.capHead + 1 ∧ t.slip? id = none ∧ t.queue (hostQueue 266 7) = [] ∧
    Memory.reads t.arc.mem (s.capBase + s.arc.capHead % 2 ^ s.rd fARC_CAP_CFG_LOG2_RECS * 320) 320 =
      capRecord (st.capInfo 266 7 s.tim.ct) s.tstate (s.arc.capSeq + 1) st.body ∧
    CountsUp s t [((14, st.ingPipe * 1024 + 392, 0), 1), ((15, st.ingPipe, 4), 1), ((6, hostQueue 266 7, 1), 1),
      ((6, hostQueue 266 7, 2), st.body.length + 4)] ∧
    (∀ a, a < s.capBase + s.arc.capHead % 2 ^ s.rd fARC_CAP_CFG_LOG2_RECS * 320 ∨
      s.capBase + s.arc.capHead % 2 ^ s.rd fARC_CAP_CFG_LOG2_RECS * 320 + 320 ≤ a → Memory.read t.arc.mem a = Memory.read s.arc.mem a))

/-- R308, R309, R311, R312, R313, R314: requests to archive memory. -/
def Obligations.DramService : Prop :=
  (∀ (s : State) (req a : Nat) (w : Bool) (data : List Byte) (en : List Bool), req < 7 → s.on fDRM_STATUS_READY = true → a % 64 = 0 →
    a + 64 ≤ s.drmBytes → s.dclkOn = true → s.drm.waiting = [] → (s.bank (s.dramKey a)).length < 8 → Gives (.dramRequest req w a data en) s fun t =>
    t.bank (s.dramKey a) = s.bank (s.dramKey a) ++ [⟨req, w, a, data, en, s.tim.rc⟩] ∧ t.drm.waiting = [] ∧
    (∀ k, k ≠ s.dramKey a → t.bank k = s.bank k) ∧
    t = { s with drm := { s.drm with queues := t.drm.queues, deficits := t.drm.deficits } }) ∧
  (∀ (s : State) (req a : Nat) (w : Bool) (data : List Byte) (en : List Bool), s.on fDRM_STATUS_READY = true → a % 64 = 0 →
    a + 64 ≤ s.drmBytes → s.dclkOn = false → exec (.dramRequest req w a data en) s =
      .next { s with drm := { s.drm with waiting := s.drm.waiting ++ [⟨req, w, a, data, en, s.tim.rc⟩] } }) ∧
  (∀ (s : State) (req a : Nat) (w : Bool) (data : List Byte) (en : List Bool),
    s.on fDRM_STATUS_READY = false ∨ a % 64 ≠ 0 ∨ s.drmBytes < a + 64 → exec (.dramRequest req w a data en) s = .next s) ∧
  (∀ (s : State) (u : Nat), s.on fDRM_STATUS_READY = false ∨ s.dclkOn = false ∨ s.dramPaused u = true →
    exec (.dramSchedule u []) s = .next s) ∧
  (∀ (s : State) (k : Nat × Nat) (r : DramReq), s.on fDRM_STATUS_READY = true → s.dclkOn = true → s.dramPaused k.1 = false →
    s.drm.queues = [(k, [r])] → s.owed k.1 = 0 → s.drm.waiting = [] → s.rowOpen (k, r) = false → s.drm.writing = [] → r.write = false → s.rd fDRM_SCHED_WR_HI ≠ 0 →
    exec (.dramSchedule k.1 []) s = .next { s with drm := { s.drm with openRow := AMap.set s.drm.openRow k (s.dramAt r.addr).row, lastBg := AMap.set s.drm.lastBg k.1 (s.dramAt r.addr).bg } }) ∧
  (∀ (s : State) (k : Nat × Nat) (r : DramReq), s.on fDRM_STATUS_READY = true → s.dclkOn = true → s.dramPaused k.1 = false →
    s.drm.queues = [(k, [r])] → s.owed k.1 = 0 → s.rowOpen (k, r) = true → s.drm.waiting = [] → r.write = true → r.addr % 64 = 0 →
    s.flt.marks = [] → s.flt.nextMarks = [] → Gives (.dramSchedule k.1 []) s fun t =>
    t.bank k = [] ∧ AMap.get? t.drm.returned r.req = some (r.addr, 0, []) ∧
    (∀ i, i < 64 → Memory.read t.arc.mem (r.addr + i) =
      if r.enables.getD i false then r.data.getD i 0 else Memory.read s.arc.mem (r.addr + i)) ∧
    (∀ a, a < r.addr ∨ r.addr + 64 ≤ a → Memory.read t.arc.mem a = Memory.read s.arc.mem a) ∧
    t = { s with arc := { s.arc with mem := t.arc.mem }, drm := { s.drm with queues := t.drm.queues, returned := t.drm.returned, writing := t.drm.writing, units := giveAnswer (r.req, r.addr, true) (r.addr, 0, []) s.drm.units } }) ∧
  (∀ (s : State) (k : Nat × Nat) (r : DramReq), s.on fDRM_STATUS_READY = true → s.dclkOn = true → s.dramPaused k.1 = false →
    s.drm.queues = [(k, [r])] → s.owed k.1 = 0 → s.rowOpen (k, r) = true → s.drm.waiting = [] → r.write = false → r.req ≠ 6 →
    s.flt.marks = [] → s.rd fDRM_SCHED_WR_HI ≠ 0 → Gives (.dramSchedule k.1 []) s fun t =>
    t.bank k = [] ∧ AMap.get? t.drm.returned r.req = some (r.addr, 0, Memory.reads s.arc.mem r.addr 64) ∧
    t = { s with drm := { s.drm with queues := t.drm.queues, returned := t.drm.returned, writing := t.drm.writing, units := giveAnswer (r.req, r.addr, false) (r.addr, 0, Memory.reads s.arc.mem r.addr 64) s.drm.units } }) ∧
  (∀ (s : State) (k : Nat × Nat) (w r : DramReq), s.on fDRM_STATUS_READY = true → s.dclkOn = true → s.dramPaused k.1 = false →
    s.drm.queues = [(k, [w, r])] → s.owed k.1 = 0 → s.rowOpen (k, r) = true → s.drm.waiting = [] → w.whole = true → r.write = false →
    r.addr = w.addr → s.drm.writing = [] → 1 < s.rd fDRM_SCHED_WR_HI →
    (∀ x ∈ [w, r], s.tim.rc ≤ x.since + ns (s.rd fDRM_SCHED_AGE_NS)) → Gives (.dramSchedule k.1 []) s fun t =>
    t.bank k = [w] ∧ AMap.get? t.drm.returned r.req = some (r.addr, 0, (List.range 64).map fun i => w.data.getD i 0) ∧ t.arc = s.arc) ∧
  (∀ (s : State) (k : Nat × Nat) (r w : DramReq), s.on fDRM_STATUS_READY = true → s.dclkOn = true → s.dramPaused k.1 = false →
    s.drm.queues = [(k, [r, w])] → s.owed k.1 = 0 → s.rowOpen (k, r) = true → s.drm.waiting = [] → r.write = false → w.write = true →
    w.addr = r.addr → r.req ≠ 6 → s.flt.marks = [] → Gives (.dramSchedule k.1 []) s fun t =>
    t.bank k = [w] ∧ AMap.get? t.drm.returned r.req = some (r.addr, 0, Memory.reads s.arc.mem r.addr 64) ∧ t.arc = s.arc) ∧
  (∀ (s : State) (k : Nat × Nat) (r : DramReq), s.on fDRM_STATUS_READY = true → s.dclkOn = true → s.dramPaused k.1 = false →
    s.drm.queues = [(k, [r])] → s.owed k.1 = 0 → s.rowOpen (k, r) = true → s.drm.waiting = [] → r.write = false → r.req < 6 → r.addr % 64 = 0 →
    s.flt.marks = [] → s.rd fDRM_SCHED_WR_HI ≠ 0 → s.dramSub r.addr < 8 → Gives (.dramSchedule k.1 [(r.addr / 64, [0, 4])]) s fun t =>
    t.bank k = [] ∧ AMap.get? t.drm.returned r.req = some (r.addr, 1, []) ∧ Raised t .DRM_ECC_UNCORR ∧
    t.rd fDRM_ECC_COUNT_UNCORR 0 (s.dramSub r.addr) = s.satUp fDRM_ECC_COUNT_UNCORR 0 (s.dramSub r.addr) ∧
    t.rd fDRM_ERR_HEAD_NEXT = (s.rd fDRM_ERR_HEAD_NEXT + 1) % 16 ∧ t.on fDRM_ERR_LOG_VALID 0 (s.rd fDRM_ERR_HEAD_NEXT) = true ∧
    t.arc = s.arc)

/-- R308, R315, R316, R317, R320, R321, R322: the upkeep of archive memory. That a round of ZQ calibrations or retrains begins at subchannel 0 when its
period has passed and goes on in ascending order is the model's choice (R317 says only "in turn": assumption log 19). -/
def Obligations.DramUpkeep : Prop :=
  (∀ (s : State) (m : Master), s.passes m .DRM_CFG → s.gateOpen (some m) .DRM 0 = true → s.on fDRM_CFG_EN = false → s.rd fDRM_CFG_CH_EN ∈ [1, 3, 15] → s.rd fDRM_CFG_WIDTH < 3 →
    s.rd fDRM_CFG_SPEED < 3 → 8 ≤ s.rd fDRM_CFG_GRAIN_LOG2 → s.rd fDRM_CFG_GRAIN_LOG2 ≤ 16 → 8 ≤ drmGib (s.rg .DRM_CFG).toNat →
    drmGib (s.rg .DRM_CFG).toNat ≤ 128 → Gives (.dramTrainStart m) s fun t =>
    t.on fDRM_CFG_EN = true ∧ t.on fDRM_STATUS_TRAINING = true ∧ t.on fDRM_STATUS_READY = false ∧ t.rd fDRM_STATUS_TRAIN_FAIL = 0 ∧
    t = { s with regs := t.regs, hst := { s.hst with round := t.hst.round } } ∧ SameBits s t [fDRM_CFG_EN.loc, Reg.loc .DRM_STATUS]) ∧
  (∀ (s : State) (m : Master), s.passes m .DRM_CFG → s.gateOpen (some m) .DRM 0 = false → s.on fDRM_CFG_EN = false → s.rd fDRM_CFG_CH_EN ∈ [1, 3, 15] →
    s.rd fDRM_CFG_WIDTH < 3 → s.rd fDRM_CFG_SPEED < 3 → 8 ≤ s.rd fDRM_CFG_GRAIN_LOG2 → s.rd fDRM_CFG_GRAIN_LOG2 ≤ 16 →
    8 ≤ drmGib (s.rg .DRM_CFG).toNat → drmGib (s.rg .DRM_CFG).toNat ≤ 128 → Gives (.dramTrainStart m) s fun t =>
    t.on fDRM_CFG_EN = true ∧ t.on fDRM_STATUS_TRAINING = true ∧
    Logged s t m .expertClosed (Reg.addr .DRM_CFG) (word (setBits (s.rg .DRM_CFG).toNat fDRM_CFG_EN.hi fDRM_CFG_EN.lo 1))) ∧
  (∀ (s : State), s.on fDRM_STATUS_TRAINING = true → Gives (.dramTrainDone 0) s fun t =>
    t.on fDRM_STATUS_TRAINING = false ∧ t.on fDRM_STATUS_READY = true ∧ t.rd fDRM_STATUS_CAP_GIB = drmGib (s.rg .DRM_CFG).toNat % 256 ∧
    t = { s with regs := t.regs } ∧ SameBits s t [Reg.loc .DRM_STATUS]) ∧
  (∀ (s : State) (f : Nat), s.on fDRM_STATUS_TRAINING = true → s.on fDRM_STATUS_READY = false → f < 2 ^ s.dramN → 0 < f → f < 256 →
    Gives (.dramTrainDone f) s fun t =>
    t.on fDRM_STATUS_TRAINING = false ∧ t.on fDRM_STATUS_READY = false ∧ t.rd fDRM_STATUS_TRAIN_FAIL = f ∧ Raised t .DRM_TRAIN ∧
    t = { s with regs := t.regs, flt := { s.flt with crossing := t.flt.crossing } }) ∧
  (∀ (s : State) (f : Nat), s.on fDRM_STATUS_TRAINING = false → exec (.dramTrainDone f) s = .next s) ∧
  (∀ (s : State) (u : Nat), s.on fDRM_STATUS_READY = true → s.dclkOn = true → AMap.getD s.drm.refDue u 0 ≤ s.tim.rc → s.subReqs u = [] →
    s.owed u = 0 → s.rd fDRM_REF_MODE ≠ 1 → Gives (.dramRefresh u) s fun t =>
    t.drm.openRow = s.drm.openRow.filter (·.1.1 != u) ∧ t.owed u = 0 ∧ AMap.getD t.drm.refDue u 0 = s.tim.rc + s.trefi u * nsU / 20 ∧
    t = { s with drm := { s.drm with openRow := t.drm.openRow, refBank := t.drm.refBank, refDue := t.drm.refDue, postponed := t.drm.postponed } }) ∧
  (∀ (s : State) (u : Nat), s.on fDRM_STATUS_READY = true → s.dclkOn = true → AMap.getD s.drm.refDue u 0 ≤ s.tim.rc → s.subReqs u ≠ [] →
    s.owed u < s.rd fDRM_REF_POSTPONE → Gives (.dramRefresh u) s fun t =>
    t.owed u = s.owed u + 1 ∧ t.drm.openRow = s.drm.openRow ∧
    t = { s with drm := { s.drm with refDue := t.drm.refDue, postponed := t.drm.postponed } }) ∧
  (∀ (s : State) (u : Nat), s.on fDRM_STATUS_READY = false ∨ s.dclkOn = false ∨ s.tim.rc < AMap.getD s.drm.refDue u 0 →
    exec (.dramRefresh u) s = .next s) ∧
  (∀ (s : State) (u : Nat), u ∉ s.drm.doubleRate → s.rd fDRM_REF_MODE ≠ 1 → s.trefi u = 78000) ∧
  (∀ (s : State) (u : Nat) (twice : Bool), s.dclkOn = true → s.jobDue .mr4 u (ns 1000000) = true → Gives (.mr4Poll u twice) s fun t =>
    (u ∈ t.drm.doubleRate ↔ twice = true) ∧ (∀ v, v ≠ u → (v ∈ t.drm.doubleRate ↔ v ∈ s.drm.doubleRate)) ∧
    t = { s with tim := { s.tim with jobs := AMap.set s.tim.jobs (.mr4, u) s.tim.rc }, drm := { s.drm with doubleRate := t.drm.doubleRate } }) ∧
  (∀ (s : State) (u : Nat) (twice : Bool), s.jobDue .mr4 u (ns 1000000) = false → exec (.mr4Poll u twice) s = .next s) ∧
  (∀ (s : State) (u : Nat), s.mayPause u = true → s.drm.zqNext = u → u ≠ 0 →
    exec (.zqCalibration u) s = .next { s with drm := { s.drm with paused := AMap.set s.drm.paused u (s.tim.rc + ns 1000), zqNext := (u + 1) % s.dramN } }) ∧
  (∀ (s : State), s.mayPause 0 = true → s.runNext s.drm.zqNext = 0 → s.jobDue .zq 0 (ns (s.rd fDRM_TRAIN_ZQ_MS * 1000000)) = true →
    exec (.zqCalibration 0) s = .next { s.jobRun .zq 0 with drm := { s.drm with paused := AMap.set s.drm.paused 0 (s.tim.rc + ns 1000), zqNext := 1 % s.dramN } }) ∧
  (∀ (s : State) (u : Nat), s.runNext s.drm.zqNext ≠ u ∨ (u = 0 ∧ s.jobDue .zq 0 (ns (s.rd fDRM_TRAIN_ZQ_MS * 1000000)) = false) →
    exec (.zqCalibration u) s = .next s) ∧
  (∀ (s : State) (u : Nat), s.mayPause u = false → exec (.zqCalibration u) s = .next s ∧ exec (.dqsRetrain u false) s = .next s) ∧
  (∀ (s : State) (u : Nat), s.mayPause u = true → s.drm.exits = [] → s.drm.trNext = u → u ≠ 0 → s.rd fDRM_TRAIN_RETRAIN_MS ≠ 0 →
    exec (.dqsRetrain u false) s = .next { s with drm := { s.drm with paused := AMap.set s.drm.paused u (s.tim.rc + ns 1000), trNext := (u + 1) % s.dramN } }) ∧
  (∀ (s : State) (u : Nat) (moved : Bool), s.drm.exits = [] → s.rd fDRM_TRAIN_RETRAIN_MS = 0 ∨ s.runNext s.drm.trNext ≠ u →
    exec (.dqsRetrain u moved) s = .next s) ∧
  (∀ (s : State) (u : Nat) (l : List Nat), s.mayPause u = true → s.drm.exits = u :: l → exec (.dqsRetrain u false) s =
    .next { s with drm := { s.drm with paused := AMap.set s.drm.paused u (s.tim.rc + ns 1000), exits := l } }) ∧
  (∀ (s : State) (u : Nat), s.mayPause u = true → s.drm.exits = [] → s.drm.trNext = u → u ≠ 0 → s.rd fDRM_TRAIN_RETRAIN_MS ≠ 0 →
    Gives (.dqsRetrain u true) s fun t =>
    Raised t .DRM_TRAIN ∧
    t.drm = { s.drm with paused := AMap.set s.drm.paused u (s.tim.rc + ns 2000000), trNext := (u + 1) % s.dramN } ∧
    t = { s with drm := t.drm, flt := { s.flt with crossing := t.flt.crossing } }) ∧
  (∀ (s : State), s.on fDRM_STATUS_READY = true → s.dclkOn = true → s.on fDRM_SCRUB_EN = true → s.flt.marks = [] → s.drm.queues = [] → s.dramClear = true →
    s.jobDue .patrol 0 s.patrolTime = true → Gives (.patrolScrub [(s.drm.scrubAt, [0])]) s fun t =>
    t.drm = { s.drm with scrubAt := (s.drm.scrubAt + 1) % (s.drmBytes / 64) } ∧ t.flt.marks = [] ∧ Raised t .DRM_ECC_CORR ∧
    t.rd fDRM_ECC_COUNT_CORR 0 (s.dramSub (s.drm.scrubAt * 64)) = s.satUp fDRM_ECC_COUNT_CORR 0 (s.dramSub (s.drm.scrubAt * 64)) ∧
    t = { s with regs := t.regs, tim := { s.tim with jobs := AMap.set s.tim.jobs (.patrol, 0) s.tim.rc }, drm := t.drm, flt := { s.flt with crossing := t.flt.crossing } }) ∧
  (∀ (s : State), s.on fDRM_STATUS_READY = true → s.dclkOn = true → s.on fDRM_SCRUB_EN = true → s.flt.marks = [] →
    s.jobDue .patrol 0 s.patrolTime = true →
    s.dramClear = true → exec (.patrolScrub []) s = .next { s.jobRun .patrol 0 with drm := { s.drm with scrubAt := (s.drm.scrubAt + 1) % (s.drmBytes / 64) } }) ∧
  (∀ (s : State), s.on fDRM_STATUS_READY = true → s.dclkOn = true → s.on fDRM_SCRUB_EN = true → s.jobDue .patrol 0 s.patrolTime = true →
    s.dramClear = false → s.drm.waiting = [] → (s.bank (s.dramKey (s.drm.scrubAt * 64))).length < 8 → Gives (.patrolScrub []) s fun t =>
    t.bank (s.dramKey (s.drm.scrubAt * 64)) =
      s.bank (s.dramKey (s.drm.scrubAt * 64)) ++ [⟨6, false, s.drm.scrubAt * 64, [], [], s.tim.rc⟩] ∧ t.arc = s.arc ∧
    t.drm.scrubAt = (s.drm.scrubAt + 1) % (s.drmBytes / 64)) ∧
  (∀ (s : State), s.on fDRM_STATUS_READY = false ∨ s.dclkOn = false ∨ s.on fDRM_SCRUB_EN = false ∨ s.jobDue .patrol 0 s.patrolTime = false →
    exec (.patrolScrub []) s = .next s) ∧
  (∀ (s : State) (u b n : Nat), s.dclkOn = true → AMap.getD s.drm.replays u 0 < 3 → exec (.alertReplay u ⟨b, n⟩ true) s =
    .next { s with drm := { s.drm with replays := AMap.set s.drm.replays u (AMap.getD s.drm.replays u 0 + 1) } }) ∧
  (∀ (s : State) (u b n : Nat), s.dclkOn = true → exec (.alertReplay u ⟨b, n⟩ false) s =
    .next { s with drm := { s.drm with replays := AMap.set s.drm.replays u 0 } }) ∧
  (∀ (s : State) (u b n : Nat) (r : DramReq), s.dclkOn = true → AMap.getD s.drm.replays u 0 = 3 → (s.bank (u, b))[n]? = some r →
    s.drm.waiting = [] → Gives (.alertReplay u ⟨b, n⟩ true) s fun t =>
    t.bank (u, b) = (s.bank (u, b)).eraseIdx n ∧ AMap.get? t.drm.returned r.req = some (r.addr, 1, []) ∧ AMap.getD t.drm.replays u 0 = 0 ∧ Raised t .DRM_ALERT ∧
    t.on fDRM_ERR_LOG_VALID 0 (s.rd fDRM_ERR_HEAD_NEXT) = true ∧ t.arc = s.arc)

/-- R12, R29, R324, R325, R328, R349, R353, R359: the links to the hosts. That an endpoint comes up with its MSI-X vectors masked is PRESUMED (assumption
log 23). -/
def Obligations.HostLinks : Prop :=
  (∀ (s : State) (h : HostId) (why : HostLoss), h ∉ s.hst.lost → Gives (.hostLost h why) s fun t =>
    h ∈ t.hst.lost ∧ (∀ l, l < 32 → t.on fHST_CH_CFG_EN 0 (chanOf h l) = false) ∧
    (∀ l, l < 32 → t.rg .HST_CH_CFG 0 (chanOf (if h = .a then .b else .a) l) = s.rg .HST_CH_CFG 0 (chanOf (if h = .a then .b else .a) l)) ∧
    (∀ d, d < 48 → t.owner d = if s.owner d = h.num + 1 then 0 else s.owner d) ∧ (∀ g ∈ t.hst.gates, g.1.1 ≠ h.master) ∧
    (∀ c ∈ t.clerk.fetched, ∀ pr, c.src ≠ .ring h pr) ∧ t.on (mirEn h) = false ∧ t.on (mirValid h) = false ∧ (t.mirQ h).queue = [] ∧
    t.isPresent (slotOf .HST_LINK_DOWN h.num) = true ∧
    t.on (if h = .a then fHST_SB_INT_HOST_A_LOST else fHST_SB_INT_HOST_B_LOST) = true ∧
    (why = .linkDown → t.on fHST_LINK_UP 0 h.num = false) ∧ (why = .perst → t.on fHST_LINK_UP 0 h.num = false ∧ t.on fHST_LINK_PERST 0 h.num = true) ∧
    t.eventsOf (if h = .a then .b else .a) = s.eventsOf (if h = .a then .b else .a) ++
      (if s.on fHST_CH_CFG_EN 0 (chanOf (if h = .a then .b else .a) 14) = true ∧
          s.ringUsed (chanOf (if h = .a then .b else .a) 14) + (s.eventsOf (if h = .a then .b else .a)).length <
            s.ringSize (chanOf (if h = .a then .b else .a) 14) then
        [s.eventRec 0x40 15 0 h.num 0 0 0 s.tim.ct] else []) ∧
    t.tables = s.tables ∧ t.arc.mem = s.arc.mem ∧ t.fwd = s.fwd ∧ t.ports = s.ports) ∧
  (∀ (s : State) (h : HostId), h ∈ s.hst.lost → exec (.hostLost h .reset) s = .next s) ∧
  (∀ (s : State) (h : HostId), h ∈ s.hst.lost → Gives (.hostLost h .linkDown) s fun t =>
    t.on fHST_LINK_UP 0 h.num = false ∧ t = { s with regs := t.regs } ∧ SameBits s t [fHST_LINK_UP.loc 0 h.num]) ∧
  (∀ (s : State) (h : HostId) (sp w : Nat) (fl : Bool), s.linkMay h sp w fl = true → Gives (.hostLinkReturn h sp w fl) s fun t =>
    h ∉ t.hst.lost ∧ t.hst = { s.hst with lost := s.hst.lost.filter (· != h) } ∧ t.on fHST_LINK_UP 0 h.num = true ∧
    t.rd fHST_LINK_SPEED 0 h.num = sp ∧ t.rd fHST_LINK_WIDTH 0 h.num = w ∧ t.on fHST_LINK_FLIT 0 h.num = fl ∧
    slotOf .HST_LINK_DOWN h.num ∉ t.flt.present ∧
    t = { s with regs := t.regs, hst := t.hst, flt := { s.flt with present := t.flt.present, doms := t.flt.doms } } ∧
    SameBits s t [fHST_LINK_UP.loc 0 h.num, fHST_LINK_SPEED.loc 0 h.num, fHST_LINK_WIDTH.loc 0 h.num, fHST_LINK_FLIT.loc 0 h.num]) ∧
  (∀ (s : State) (h : HostId) (sp w : Nat) (fl : Bool), s.endpointOn h = false ∨ w ∉ [1, 2, 4, 8, 16] ∨ (s.endpointLanes h).2 < w ∨ sp = 0 ∨ 6 < sp ∨
    (sp = 6 ∧ fl = false) → exec (.hostLinkReturn h sp w fl) s = .next s) ∧
  (∀ (s : State) (h : HostId), s.configId h = if s.endpointOn h = true then some 0xEF951F5E else none) ∧
  (∀ (s : State) (h : HostId), s.endpointOn h = true → Gives (.perstRelease h) s fun t =>
    t.on fHST_LINK_PERST 0 h.num = false ∧ t.on (pclk h) = true ∧ (∀ v, t.msixMasked h v = true) ∧ t.pbaOf h = [] ∧
    h ∈ t.pin.perst ∧
    t.hst = { s.hst with msix := t.hst.msix, pba := t.hst.pba } ∧ t = { s with regs := t.regs, hst := t.hst, pin := { s.pin with perst := t.pin.perst } } ∧
    SameBits s t [fHST_LINK_PERST.loc 0 h.num, (pclk h).loc]) ∧
  (∀ (s : State) (h : HostId), s.endpointOn h = false → Gives (.perstRelease h) s fun t =>
    t.on fHST_LINK_PERST 0 h.num = false ∧ t = { s with regs := t.regs, pin := { s.pin with perst := t.pin.perst } } ∧
    SameBits s t [fHST_LINK_PERST.loc 0 h.num]) ∧
  (∀ (s : State) (h : HostId), Gives (.dmaReadTimeout h) s fun t =>
    Raised t .HST_DMA_TIMEOUT h.num ∧ t = { s with flt := { s.flt with crossing := t.flt.crossing } }) ∧
  (∀ (s : State) (h : HostId), Gives (.pcieLinkError h .correctable) s fun t =>
    Raised t .HST_PCIE_CORR h.num ∧ t.rd fHST_PCIE_ERR_CORR 0 h.num = s.satUp fHST_PCIE_ERR_CORR 0 h.num ∧
    t = { s with regs := t.regs, flt := { s.flt with crossing := t.flt.crossing } } ∧ SameBits s t [fHST_PCIE_ERR_CORR.loc 0 h.num]) ∧
  (∀ (s : State) (h : HostId) (e : PcieError), e ≠ .correctable → Gives (.pcieLinkError h e) s fun t =>
    Raised t .HST_PCIE_UNCORR h.num ∧ t.rd fHST_PCIE_ERR_UNCORR 0 h.num = s.satUp fHST_PCIE_ERR_UNCORR 0 h.num ∧
    t = { s with regs := t.regs, flt := { s.flt with crossing := t.flt.crossing } } ∧ SameBits s t [fHST_PCIE_ERR_UNCORR.loc 0 h.num])

/-- R324, R329, R331, R333, R337, R341, R342, R354, R424: channels and pools. -/
def Obligations.Channels : Prop :=
  (∀ (s : State) (h : HostId) (c : Nat) (v : Word), s.hears h.master = true → c < 64 → (chanHost c).1 = h → s.on fHST_CH_CFG_EN 0 c = true → softRing (chanHost c).2 = true →
    (v.toNat + 2 ^ 32 - s.rd fHST_CH_DEV_IDX_IDX 0 c) % 2 ^ 32 ≤ s.ringSize c → (v.toNat + 2 ^ 32 - s.rd fHST_CH_HOST_IDX_IDX 0 c) % 2 ^ 32 ≤ s.ringSize c →
    Gives (.doorbellWrite h c v) s fun t =>
    t.rg .HST_CH_HOST_IDX 0 c = v ∧ AMap.get? t.hst.doorbell (h, c) = some v ∧
    t = { s with regs := t.regs, hst := { s.hst with doorbell := t.hst.doorbell } } ∧ SameBits s t [Reg.loc .HST_CH_HOST_IDX 0 c]) ∧
  (∀ (s : State) (h : HostId) (c : Nat) (v : Word), s.hears h.master = true → c < 64 → (chanHost c).1 = h → s.on fHST_CH_CFG_EN 0 c = true → softRing (chanHost c).2 = true →
    s.ringSize c < (v.toNat + 2 ^ 32 - s.rd fHST_CH_DEV_IDX_IDX 0 c) % 2 ^ 32 → s.hst.rejects = [] → Gives (.doorbellWrite h c v) s fun t =>
    t.on fHST_CH_STAT_ERR 0 c = true ∧ t.rg .HST_CH_HOST_IDX 0 c = s.rg .HST_CH_HOST_IDX 0 c ∧ Raised t .HST_RING_ERR h.num ∧
    (∃ off, t.hst.rejects = [[word (2 ^ 31 + b2n s.hst.rejLost * 2 ^ 30 + h.master.owner * 2 ^ 28 + 3 * 2 ^ 24), off, v] ++ ctWords s.tim.ct]) ∧
    CountsUp s t ([((16, h.num, 15), 1)] ++ s.evtDrops 15) ∧ SameBits s t [fHST_CH_STAT_ERR.loc 0 c, fHST_REJECT_COUNT_COUNT.loc 0 h.num]) ∧
  (∀ (s : State) (h : HostId) (c : Nat) (v : Word), s.hears h.master = true → c < 64 → (chanHost c).1 = h → s.on fHST_CH_CFG_EN 0 c = true → (chanHost c).2 = 14 →
    (v.toNat + 2 ^ 32 - s.rd fHST_CH_HOST_IDX_IDX 0 c) % 2 ^ 32 ≤ s.ringUsed c → Gives (.doorbellWrite h c v) s fun t =>
    t.rg .HST_CH_HOST_IDX 0 c = v ∧ SameBits s t [Reg.loc .HST_CH_HOST_IDX 0 c]) ∧
  (∀ (s : State) (h : HostId) (c : Nat) (v : Word), s.hears h.master = true → c < 64 → (chanHost c).1 ≠ h → Gives (.doorbellWrite h c v) s fun t =>
    t.hst.doorbell = s.hst.doorbell ∧ t.rd fHST_REJECT_COUNT_COUNT 0 h.num = s.satUp fHST_REJECT_COUNT_COUNT 0 h.num ∧
    SameBits s t [fHST_REJECT_COUNT_COUNT.loc 0 h.num]) ∧
  (∀ (s : State) (h : HostId) (c : Nat) (v : Word), s.hears h.master = true → c < 64 → (chanHost c).1 = h → s.on fHST_CH_CFG_EN 0 c = false →
    exec (.doorbellWrite h c v) s = .next { s with hst := { s.hst with doorbell := AMap.set s.hst.doorbell (h, c) v } }) ∧
  (∀ (s : State) (h : HostId) (c : Nat) (v : Word), s.hears h.master = false → exec (.doorbellWrite h c v) s = .next s) ∧
  (∀ (s : State) (c : Nat), c < 64 → s.passes (chanHost c).1.master .HST_CH_CFG 0 c → s.on fHST_CH_CFG_EN 0 c = false →
    0 < s.rd fHST_CH_CFG_MOD_COUNT 0 c → (chanHost c).2 ≠ 15 → (chanHost c).2 ≠ 16 → 6 ≤ s.rd fHST_CH_CFG_LOG2_SIZE 0 c →
    s.rd fHST_CH_CFG_LOG2_SIZE 0 c ≤ 20 → Gives (.channelEnable (chanHost c).1.master c) s fun t =>
    t.on fHST_CH_CFG_EN 0 c = true ∧ t.rg .HST_CH_DEV_IDX 0 c = 0 ∧ t.rg .HST_CH_HOST_IDX 0 c = 0 ∧ t.chanSt c = ⟨0, 0, false⟩ ∧
    t = { s with regs := t.regs, hst := { s.hst with round := t.hst.round, chans := t.hst.chans } } ∧
    SameBits s t [fHST_CH_CFG_EN.loc 0 c, Reg.loc .HST_CH_DEV_IDX 0 c, Reg.loc .HST_CH_HOST_IDX 0 c, Reg.loc .HST_CH_STAT 0 c]) ∧
  (∀ (s : State) (c : Nat), c < 64 → s.passes (chanHost c).1.master .HST_CH_CFG 0 c → s.on fHST_CH_CFG_EN 0 c = true →
    0 < s.rd fHST_CH_CFG_MOD_COUNT 0 c → (chanHost c).2 ≠ 15 → (chanHost c).2 ≠ 16 → 6 ≤ s.rd fHST_CH_CFG_LOG2_SIZE 0 c →
    s.rd fHST_CH_CFG_LOG2_SIZE 0 c ≤ 20 → Gives (.channelStop (chanHost c).1.master c) s fun t =>
    t.on fHST_CH_CFG_EN 0 c = false ∧ (∀ d, d ≠ c → t.chanSt d = s.chanSt d) ∧ ((chanHost c).2 = 14 → t.eventsOf (chanHost c).1 = []) ∧
    SameBits s t [fHST_CH_CFG_EN.loc 0 c, Reg.loc .HST_CH_DEV_IDX 0 c, Reg.loc .HST_CH_HOST_IDX 0 c, Reg.loc .HST_CH_STAT 0 c] ∧
    t = { s with regs := t.regs, free := t.free, hst := { s.hst with round := t.hst.round, chans := t.hst.chans, events := t.hst.events, compl := t.hst.compl }, clerk := { s.clerk with fetched := t.clerk.fetched, hold := t.clerk.hold, stops := t.clerk.stops } }) ∧
  (∀ (s : State) (c : Nat), c < 64 → s.on fHST_CH_CFG_EN 0 c = true → s.on fHST_CH_CFG_INT_EN 0 c = true → (s.chanSt c).since ≠ 0 →
    (s.chanSt c).firstAt + ns (s.rd fHST_CH_MOD_MOD_US 0 c * 1000) ≤ s.tim.rc → (chanHost c).1 ∉ s.hst.lost →
    s.calm (chanHost c).1 c →
    s.msixMasked (chanHost c).1 (s.rd fHST_CH_CFG_VECTOR 0 c) = false → Gives (.msixModTimeout c) s fun t =>
    t.hst.out = s.hst.out ++ [.msi (chanHost c).1 (s.rd fHST_CH_CFG_VECTOR 0 c)] ∧ t.chanSt c = { s.chanSt c with since := 0 } ∧
    t.ckr.pulses = s.ckr.pulses ++ [(2 + (chanHost c).1.num, .msi (chanHost c).1 (s.rd fHST_CH_CFG_VECTOR 0 c), false)] ∧
    t = { s with ckr := { s.ckr with pulses := t.ckr.pulses }, hst := { s.hst with out := t.hst.out, chans := t.hst.chans } }) ∧
  (∀ (s : State) (c : Nat) (q : Nat × Pulse × Bool), c < 64 → s.on fHST_CH_CFG_EN 0 c = true → s.on fHST_CH_CFG_INT_EN 0 c = true →
    (s.chanSt c).since ≠ 0 → (s.chanSt c).firstAt + ns (s.rd fHST_CH_MOD_MOD_US 0 c * 1000) ≤ s.tim.rc →
    q.1 = 2 + (chanHost c).1.num → q.2.1 = .msi (chanHost c).1 (s.rd fHST_CH_CFG_VECTOR 0 c) → s.ckr.pulses = [q] →
    Gives (.msixModTimeout c) s fun t =>
    t.hst.out = s.hst.out ∧ t.ckr.pulses = [(q.1, q.2.1, true)] ∧
    t.rd fCKR_XSTATUS_MERGED 0 q.1 = (if q.2.2 = true then s.satUp fCKR_XSTATUS_MERGED 0 q.1 else s.rd fCKR_XSTATUS_MERGED 0 q.1)) ∧
  (∀ (s : State) (c : Nat), c < 64 → s.on fHST_CH_CFG_EN 0 c = true → s.on fHST_CH_CFG_INT_EN 0 c = true → (s.chanSt c).since ≠ 0 →
    (s.chanSt c).firstAt + ns (s.rd fHST_CH_MOD_MOD_US 0 c * 1000) ≤ s.tim.rc → s.calm (chanHost c).1 c →
    s.msixMasked (chanHost c).1 (s.rd fHST_CH_CFG_VECTOR 0 c) = true → Gives (.msixModTimeout c) s fun t =>
    t.hst.out = s.hst.out ∧ s.rd fHST_CH_CFG_VECTOR 0 c ∈ t.pbaOf (chanHost c).1) ∧
  (∀ (s : State) (c : Nat), c < 64 → s.on fHST_CH_CFG_INT_EN 0 c = false ∨ (s.chanSt c).since = 0 ∨
    s.tim.rc < (s.chanSt c).firstAt + ns (s.rd fHST_CH_MOD_MOD_US 0 c * 1000) → exec (.msixModTimeout c) s = .next s) ∧
  (∀ (s : State) (h : HostId) (k : Nat), k < 4 → s.passes h.master .HST_POOL_CFG 0 (4 * h.num + k) → s.on fHST_POOL_CFG_EN 0 (4 * h.num + k) = true →
    Gives (.poolDisable h.master (4 * h.num + k)) s fun t =>
    t.on fHST_POOL_CFG_EN 0 (4 * h.num + k) = false ∧ t.postedOf h k = [] ∧ t.rd fHST_POOL_STAT_POSTED 0 (4 * h.num + k) = 0 ∧
    (∀ i, i < 65536 → t.bufPosted h (k * 65536 + i) = false) ∧ (∀ g j, (g, j) ≠ (h, k) → t.postedOf g j = s.postedOf g j) ∧
    t = { s with regs := t.regs, hst := { s.hst with round := t.hst.round, posted := t.hst.posted, bufState := t.hst.bufState } } ∧
    SameBits s t [fHST_POOL_CFG_EN.loc 0 (4 * h.num + k), fHST_POOL_STAT_POSTED.loc 0 (4 * h.num + k)])

/-- R330, R331, R332, R334, R335, R338, R340, R342, R349, R351: rings. -/
def Obligations.HostRings : Prop :=
  (∀ (s : State) (h : HostId) (pr : Bool) (ws data : List Word) (r : HostRead) (c : Cmd), s.turn (chanOf h (b2n pr)) →
    c = ⟨.ring h pr, ws.take 16, if r = .ok then data else [], r != .ok, s.clerk.seq, false, 0, 0⟩ →
    exec (.commandFetch h pr ws r data) s = .next { s with clerk := { s.clerk with fetched := s.clerk.fetched ++ [c], seq := s.clerk.seq + 1 }, hst := { s.hst with turns := s.turned (chanOf h (b2n pr)), out := s.hst.out ++ s.entryRead1 h (chanOf h (b2n pr)) 64 (s.readAhead (.ring h pr)) ++ readOf h c.addr c.readLen } }) ∧
  (∀ (s : State) (h : HostId) (pr : Bool) (ws data : List Word) (r : HostRead), ¬s.turn (chanOf h (b2n pr)) → exec (.commandFetch h pr ws r data) s = .next s) ∧
  (∀ (s : State) (h : HostId) (x : Completion), s.turn (chanOf h 2) → AMap.getD s.hst.compl (.ring h false) [] = [x] → s.calm h (chanOf h 2) →
    Gives (.completionWrite h false) s fun t =>
    AMap.getD t.hst.compl (.ring h false) [] = [] ∧
    t.hst.out = s.hst.out ++ [.write h (s.chBase (chanOf h 2) + s.rd fHST_CH_DEV_IDX_IDX 0 (chanOf h 2) % s.ringSize (chanOf h 2) * 16)
      (wordsBytes [word (x.opcode + x.status * 2 ^ 8), x.tag, x.res2, x.res3]), s.backOf h (chanOf h 2) 1] ++ s.intOf h (chanOf h 2) 1 ∧
    t.rg .HST_CH_DEV_IDX 0 (chanOf h 2) = word (s.rd fHST_CH_DEV_IDX_IDX 0 (chanOf h 2) + 1) ∧
    t = { s with regs := t.regs, hst := { s.hst with out := t.hst.out, compl := t.hst.compl, chans := t.hst.chans, pba := t.hst.pba, turns := s.turned (chanOf h 2) }, ckr := { s.ckr with pulses := t.ckr.pulses } } ∧
    SameBits s t [Reg.loc .HST_CH_DEV_IDX 0 (chanOf h 2)]) ∧
  (∀ (s : State) (h : HostId) (pr : Bool), ¬s.turn (chanOf h (if pr then 3 else 2)) → exec (.completionWrite h pr) s = .next s) ∧
  (∀ (s : State) (h : HostId) (x : List Word), s.turn (chanOf h 14) → s.eventsOf h = [x] → x.length = 8 → s.calm h (chanOf h 14) →
    Gives (.eventWrite h) s fun t =>
    t.eventsOf h = [] ∧ t.hst.out = s.hst.out ++ [.write h (s.chBase (chanOf h 14) + s.rd fHST_CH_DEV_IDX_IDX 0 (chanOf h 14) % s.ringSize (chanOf h 14) * 32)
      (wordsBytes x), s.backOf h (chanOf h 14) 1] ++ s.intOf h (chanOf h 14) 1 ∧
    t = { s with regs := t.regs, hst := { s.hst with out := t.hst.out, events := t.hst.events, chans := t.hst.chans, pba := t.hst.pba, turns := s.turned (chanOf h 14) }, ckr := { s.ckr with pulses := t.ckr.pulses } } ∧
    SameBits s t [Reg.loc .HST_CH_DEV_IDX 0 (chanOf h 14)]) ∧
  (∀ (s : State) (h : HostId), s.turn (chanOf h 14) → 17 ≤ (s.eventsOf h).length → 16 ≤ s.ringRoom (chanOf h 14) → Gives (.eventWrite h) s fun t =>
    t.eventsOf h = (s.eventsOf h).drop 16 ∧
    t.rg .HST_CH_DEV_IDX 0 (chanOf h 14) = word (s.rd fHST_CH_DEV_IDX_IDX 0 (chanOf h 14) + 16)) ∧
  (∀ (s : State) (h : HostId), ¬s.turn (chanOf h 14) → exec (.eventWrite h) s = .next s) ∧
  (∀ (s : State) (h : HostId) (id : Nat), s.turn (chanOf h 20) → id < 2 ^ 18 →
    s.on fHST_POOL_CFG_EN 0 (4 * h.num + id / 65536) = true → id % 65536 ≤ s.rd fHST_POOL_CFG_COUNT_M1 0 (4 * h.num + id / 65536) →
    s.bufPosted h id = false → Gives (.bufferPost h [id]) s fun t =>
    t.bufPosted h id = true ∧ t.postedOf h (id / 65536) = s.postedOf h (id / 65536) ++ [id] ∧ CountsUp s t [((16, h.num, 9), 1)] ∧
    t.hst.out = s.hst.out ++ s.entryRead1 h (chanOf h 20) 8 ++ [s.backOf h (chanOf h 20) 1] ∧
    t = { s with regs := t.regs, cnts := t.cnts, saved := t.saved, hst := { s.hst with out := t.hst.out, posted := t.hst.posted, bufState := t.hst.bufState, turns := s.turned (chanOf h 20) } } ∧
    SameBits s t [Reg.loc .HST_CH_DEV_IDX 0 (chanOf h 20), fHST_POOL_STAT_POSTED.loc 0 (4 * h.num + id / 65536)]) ∧
  (∀ (s : State) (h : HostId) (id : Nat), s.turn (chanOf h 20) → id < 2 ^ 18 →
    s.on fHST_POOL_CFG_EN 0 (4 * h.num + id / 65536) = true → id % 65536 ≤ s.rd fHST_POOL_CFG_COUNT_M1 0 (4 * h.num + id / 65536) →
    s.bufPosted h id = true → Gives (.bufferPost h [id]) s fun t =>
    t.bufPosted h id = true ∧ t.hst.posted = s.hst.posted ∧ Raised t .HST_DOUBLE_POST h.num ∧ CountsUp s t [((16, h.num, 10), 1)] ∧
    t.rg .HST_CH_DEV_IDX 0 (chanOf h 20) = word (s.rd fHST_CH_DEV_IDX_IDX 0 (chanOf h 20) + 1)) ∧
  (∀ (s : State) (h : HostId) (es : List Nat), ¬s.turn (chanOf h 20) → exec (.bufferPost h es) s = .next s) ∧
  (∀ (s : State) (h : HostId) (d : List Word) (data : List Byte), s.turn (chanOf h 18) → s.unitOf (chanOf h 18) = none → s.dramClear = true →
    s.calm h (chanOf h 18) → s.bulkStatus d = 0 → dF d 0 0 0 = 1 → s.flt.marks = [] → s.drm.queues = [] → Gives (.bulkTransfer h 0 d .ok data []) s fun t =>
    t.hst.out = s.hst.out ++ s.entryRead1 h (chanOf h 18) 32 ++ [.write h (dF d 2 31 0 + dF d 3 31 0 * 2 ^ 32)
        (Memory.reads s.arc.mem (dF d 4 31 0 + dF d 5 7 0 * 2 ^ 32) (dF d 1 16 0)),
      .write h (s.chBase (chanOf h 18) + s.rd fHST_CH_DEV_IDX_IDX 0 (chanOf h 18) % s.ringSize (chanOf h 18) * 32 + 28) (wordBytes 0x80000000),
      s.backOf h (chanOf h 18) 1] ++ s.intOf h (chanOf h 18) 1 ∧ t.arc = s.arc ∧ CountsUp s t [((16, h.num, 12), 1)] ∧
    SameBits s t [Reg.loc .HST_CH_DEV_IDX 0 (chanOf h 18)]) ∧
  (∀ (s : State) (h : HostId) (d : List Word) (data : List Byte), s.turn (chanOf h 18) → s.unitOf (chanOf h 18) = none → s.dramClear = true →
    s.calm h (chanOf h 18) → s.bulkStatus d = 0 → dF d 0 0 0 = 0 → data.length = dF d 1 16 0 → s.flt.marks = [] → s.flt.nextMarks = [] → s.drm.queues = [] →
    Gives (.bulkTransfer h 0 d .ok data []) s fun t =>
    Memory.reads t.arc.mem (dF d 4 31 0 + dF d 5 7 0 * 2 ^ 32) data.length = data ∧
    (∀ a, a < dF d 4 31 0 + dF d 5 7 0 * 2 ^ 32 ∨ dF d 4 31 0 + dF d 5 7 0 * 2 ^ 32 + data.length ≤ a → Memory.read t.arc.mem a = Memory.read s.arc.mem a) ∧
    t.hst.out = s.hst.out ++ s.entryRead1 h (chanOf h 18) 32 ++ readOf h (dF d 2 31 0 + dF d 3 31 0 * 2 ^ 32) data.length ++ [.write h (s.chBase (chanOf h 18) + s.rd fHST_CH_DEV_IDX_IDX 0 (chanOf h 18) % s.ringSize (chanOf h 18) * 32 + 28)
      (wordBytes 0x80000000), s.backOf h (chanOf h 18) 1] ++ s.intOf h (chanOf h 18) 1) ∧
  (∀ (s : State) (h : HostId) (d : List Word) (data : List Byte), s.turn (chanOf h 18) → s.unitOf (chanOf h 18) = none → s.calm h (chanOf h 18) →
    dF d 1 16 0 = 0 →
    Gives (.bulkTransfer h 0 d .ok data []) s fun t =>
    t.arc = s.arc ∧ CountsUp s t [((16, h.num, 12), 1), ((16, h.num, 13), 1)] ∧
    t.hst.out = s.hst.out ++ s.entryRead1 h (chanOf h 18) 32 ++ [.write h (s.chBase (chanOf h 18) + s.rd fHST_CH_DEV_IDX_IDX 0 (chanOf h 18) % s.ringSize (chanOf h 18) * 32 + 28)
      (wordBytes 0x80000005), s.backOf h (chanOf h 18) 1] ++ s.intOf h (chanOf h 18) 1) ∧
  (∀ (s : State) (h : HostId) (d : List Word) (r : HostRead) (data : List Byte), s.turn (chanOf h 18) → s.unitOf (chanOf h 18) = none →
    s.dramClear = false → s.bulkStatus d = 0 → dF d 0 0 0 = 1 → s.dclkOn = false → Gives (.bulkTransfer h 0 d r data []) s fun t =>
    t.unitOf (chanOf h 18) = some ⟨chanOf h 18, d, r, [], 0, (burstsOf (bulkAddr d) (dF d 1 16 0)).map fun a => (4 + h.num, a, false), []⟩ ∧
    t.hst.out = s.hst.out ++ s.entryRead1 h (chanOf h 18) 32 ∧ t.arc = s.arc ∧
    t.drm.waiting = s.drm.waiting ++ (burstsOf (bulkAddr d) (dF d 1 16 0)).map fun a => ⟨4 + h.num, false, a, [], [], s.tim.rc⟩) ∧
  (∀ (s : State) (h : HostId) (u : ArcUnit) (d : List Word) (r : HostRead) (data : List Byte) (e : List (Nat × List Nat)),
    s.turn (chanOf h 18) → s.unitOf (chanOf h 18) = some u → u.asks ≠ [] → exec (.bulkTransfer h 0 d r data e) s = .next s) ∧
  (∀ (s : State) (h : HostId) (u : ArcUnit) (d : List Word) (r : HostRead) (data : List Byte) (e : List (Nat × List Nat)),
    s.turn (chanOf h 18) → s.unitOf (chanOf h 18) = some u → u.asks = [] → dF u.d 0 0 0 = 1 →
    (answersAt u.got (bulkAddr u.d) (dF u.d 1 16 0)).2 = none → s.calm h (chanOf h 18) → Gives (.bulkTransfer h 0 d r data e) s fun t =>
    t.hst.out = s.hst.out ++ [.write h (bulkHost u.d) (answersAt u.got (bulkAddr u.d) (dF u.d 1 16 0)).1,
      .write h (s.chBase (chanOf h 18) + s.rd fHST_CH_DEV_IDX_IDX 0 (chanOf h 18) % s.ringSize (chanOf h 18) * 32 + 28) (wordBytes 0x80000000),
      s.backOf h (chanOf h 18) 1] ++ s.intOf h (chanOf h 18) 1 ∧ t.unitOf (chanOf h 18) = none ∧ t.arc = s.arc) ∧
  (∀ (s : State) (h : HostId) (d : List Word) (r : HostRead) (data : List Byte) (e : List (Nat × List Nat)),
    ¬s.turn (chanOf h 18) → exec (.bulkTransfer h 0 d r data e) s = .next s)

/-- R294, R304, R343, R345, R346, R347, R350, R357: frames and records. -/
def Obligations.HostFrames : Prop :=
  (∀ (s : State) (h : HostId) (id k buf : Nat) (rest : List Nat) (x : Slip) (st : Stall), s.queue (hostQueue (264 + h.num) 7) = [id] →
    s.slip? id = some x → x.id = id → x.cls = 7 → x.outPort = 264 + h.num → s.frameOf x = some st → st.done = true → st.bad = false → s.flt.marks = [] →
    s.poolsOn h = [k] → s.postedOf h k = buf :: rest → st.body.length ≤ s.poolSize h k → s.turn (chanOf h 11) → 0 < s.ringRoom (chanOf h 11) →
    s.calm h (chanOf h 11) → Gives (.puntDeliver h) s fun t =>
    t.hst.out = s.hst.out ++ [.write h (s.bufAddr h buf) st.body,
      .write h (s.chBase (chanOf h 11) + s.rd fHST_CH_DEV_IDX_IDX 0 (chanOf h 11) % s.ringSize (chanOf h 11) * 32)
        (wordsBytes (puntEntry x st st.body.length st.body.length buf false)), s.backOf h (chanOf h 11) 1] ++ s.intOf h (chanOf h 11) 1 ∧
    t.postedOf h k = rest ∧ t.bufPosted h buf = false ∧ t.slip? id = none ∧ t.queue (hostQueue (264 + h.num) 7) = [] ∧
    CountsUp s t [((16, h.num, 0), 1), ((16, h.num, 1), st.body.length), ((15, st.ingPipe, 4), 1), ((6, hostQueue (264 + h.num) 7, 1), 1),
      ((6, hostQueue (264 + h.num) 7, 2), st.body.length + 4)] ∧ t.tables = s.tables ∧ t.arc = s.arc ∧ t.clerk = s.clerk ∧ t.ports = s.ports) ∧
  (∀ (s : State) (h : HostId), (∀ c, c < 8 → s.queue (hostQueue (264 + h.num) c) = []) → exec (.puntDeliver h) s = .next s) ∧
  (∀ (s : State) (h : HostId) (d : List Word) (frame : List Byte), s.turn (chanOf h 12) → s.injectBad d = false →
    dF d 0 14 14 = 0 → dF d 0 15 15 = 0 → s.injectWaits h 0 d = false → Gives (.injectFrame h 0 d .ok frame) s fun t =>
    t.injq (dF d 0 18 16) = s.injq (dF d 0 18 16) ++ [⟨frame.take (dF d 0 13 0) ++ fcsBytes (frame.take (dF d 0 13 0)), h, 0, dF d 0 18 16, s.tim.ct, s.tim.rc,
      s.tstate, s.edNow, none⟩] ∧ CountsUp s t [((15, dF d 0 18 16, 0), 1), ((16, h.num, 5), 1)] ∧
    t.hst.out = s.hst.out ++ s.entryRead1 h (chanOf h 12) 32 ++ readOf h (dF d 2 31 0 + dF d 3 31 0 * 2 ^ 32) (dF d 0 13 0) ++
      [s.backOf h (chanOf h 12) 1] ∧
    t = { s with regs := t.regs, cnts := t.cnts, saved := t.saved, hst := { s.hst with out := t.hst.out, turns := s.turned (chanOf h 12) }, fwd := { s.fwd with inject := t.fwd.inject } } ∧
    SameBits s t [Reg.loc .HST_CH_DEV_IDX 0 (chanOf h 12)]) ∧
  (∀ (s : State) (h : HostId) (d : List Word) (r : HostRead) (frame : List Byte), s.turn (chanOf h 12) →
    s.injectBad d = true → Gives (.injectFrame h 0 d r frame) s fun t =>
    CountsUp s t [((16, h.num, 7), 1)] ∧ t.hst.out = s.hst.out ++ s.entryRead1 h (chanOf h 12) 32 ++ [s.backOf h (chanOf h 12) 1] ∧
    t = { s with regs := t.regs, cnts := t.cnts, saved := t.saved, hst := { s.hst with out := t.hst.out, turns := s.turned (chanOf h 12) } }) ∧
  (∀ (s : State) (h : HostId) (d : List Word) (frame : List Byte), s.turn (chanOf h 12) → s.injectBad d = false →
    dF d 0 14 14 = 0 → dF d 0 15 15 = 0 → s.injectWaits h 0 d = false → bitOf (s.rd fARC_CAP_DROP_MASK_MASK 0 4) 29 = false →
    Gives (.injectFrame h 0 d .timeout frame) s fun t =>
    CountsUp s t [((15, dF d 0 18 16, 0), 1), ((15, dF d 0 18 16, 3), 1), ((4, (264 + h.num) * 256 + 0x9D, 0), 1), ((16, h.num, 17), 1)] ∧
    t.fwd = s.fwd ∧ t.hst.out = s.hst.out ++ s.entryRead1 h (chanOf h 12) 32 ++
      readOf h (dF d 2 31 0 + dF d 3 31 0 * 2 ^ 32) (dF d 0 13 0) ++ [s.backOf h (chanOf h 12) 1]) ∧
  (∀ (s : State) (h : HostId) (d : List Word) (r : HostRead) (frame : List Byte), ¬s.turn (chanOf h 12) →
    exec (.injectFrame h 0 d r frame) s = .next s) ∧
  (∀ (s : State) (h : HostId) (d : List Word) (r : HostRead) (frame : List Byte), s.turn (chanOf h 12) → s.injectBad d = false →
    dF d 0 14 14 = 1 → s.injectWaits h 0 d = true → Gives (.injectFrame h 0 d r frame) s fun t =>
    t.regs = s.regs ∧ t.cnts = s.cnts ∧ t.fwd = s.fwd ∧ t.hst = { s.hst with out := s.hst.out ++ s.entryRead1 h (chanOf h 12) 32, turns := s.turned (chanOf h 12) }) ∧
  (∀ (s : State) (h : HostId), s.turn (chanOf h 15) → s.unitOf (chanOf h 15) = none → s.dramClear = true → s.calm h (chanOf h 15) → s.rd fARC_EXPORT_STREAM 0 (2 * h.num) = 2 →
    s.arc.ledUsed = 1 → AMap.getD s.arc.expPos (2 * h.num) (0, false) = (0, false) → s.flt.marks = [] → s.drm.queues = [] →
    12 ≤ s.rd fHST_CH_CFG_LOG2_SIZE 0 (chanOf h 15) → 16 ≤ s.rd fARC_LEDGER_CFG_LOG2_RECS →
    Gives (.exportWrite h 0 []) s fun t =>
    t.hst.out = s.hst.out ++ [.write h (s.chBase (chanOf h 15) + s.rd fHST_CH_DEV_IDX_IDX 0 (chanOf h 15) * 64 % s.ringSize (chanOf h 15))
      (Memory.reads s.arc.mem (s.ledBase + (s.arc.ledHead - 1) % s.ledSize * 64) 64), s.backOf h (chanOf h 15) 1] ++ s.intOf h (chanOf h 15) 1 ∧
    t.arc.ledUsed = 0 ∧ t.arc.mem = s.arc.mem ∧ CountsUp s t [((16, h.num, 14), 64)] ∧
    t.arc = { s.arc with ledUsed := 0, expPos := t.arc.expPos } ∧ SameBits s t [Reg.loc .HST_CH_DEV_IDX 0 (chanOf h 15)]) ∧
  (∀ (s : State) (h : HostId) (e : List (Nat × List Nat)), s.drm.units = [] → s.chOn h 15 = false ∨ s.rd fARC_EXPORT_STREAM 0 (2 * h.num) = 0 ∨
    (s.rd fARC_EXPORT_STREAM 0 (2 * h.num) = 2 ∧ s.arc.ledUsed = 0) ∨ (¬s.turn (chanOf h 15) ∧ s.yielding = []) →
    exec (.exportWrite h 0 e) s = .next s) ∧
  (∀ (s : State) (h : HostId) (e : List (Nat × List Nat)), s.drm.units = [] → s.chOn h 15 = true → s.exportMay h 0 = true → s.yielding ≠ [] →
    Gives (.exportWrite h 0 e) s fun t =>
    (∀ p ∈ s.yielding, 0 ∈ AMap.getD t.rat.kinds p []) ∧ t = { s with rat := { s.rat with kinds := t.rat.kinds } })

/-- R312, R338, R340, R354, R355, R361, R362, R369, R371, R373 to R375, R377, R379: the Clerk's steps. The order TIMEOUT, BAD_ARGS, CONFLICT, the
BAD_ARGS at the boundary and what a stop of the Clerk leaves done are the model's choices (assumption log 29). -/
def Obligations.ClerkSteps : Prop :=
  (∀ (s : State) (fs : List Bool), s.clerk.work ≠ .idle ∨ s.clerk.stopped = true ∨ s.on fCLE_STATUS_READY = false ∨ s.booted = false →
    exec (.clerkBoundary fs) s = .next s) ∧
  (∀ (s : State) (fs : List Bool), s.clerk.work = .idle → s.clerk.stopped = false → s.on fCLE_STATUS_READY = true → s.booted = true → s.haltReq = true →
    s.on fCLE_STATUS_HALTED = false → s.clerk.stepStart = none → s.clerk.chunked = [] →
    (∀ m ∈ s.flt.marks, m.1 ≠ 0x26 ∧ m.1 ≠ 0x27) → Gives (.clerkBoundary fs) s fun t =>
    t.on fCLE_STATUS_HALTED = true ∧ t = { s with regs := t.regs, clerk := { s.clerk with upc := t.clerk.upc } } ∧ SameBits s t [fCLE_STATUS_HALTED.loc]) ∧
  (∀ (s : State) (c : Cmd), s.clerk.work = .idle → s.clerk.stopped = false → s.on fCLE_STATUS_READY = true → s.booted = true → s.haltReq = true →
    s.on fCLE_STATUS_HALTED = false → s.clerk.stepStart = none → s.clerk.chunked = [c] → Gives (.clerkBoundary []) s fun t =>
    t.on fCLE_STATUS_HALTED = true ∧ Ended s t c stHALTED c.acc c.next ∧ t.clerk.chunked = [] ∧ t.tables = s.tables ∧
    SameBits s t (fCLE_STATUS_HALTED.loc :: c.endRegs)) ∧
  (∀ (s : State) (fs : List Bool), s.clerk.work = .idle → s.clerk.stopped = false → s.on fCLE_STATUS_READY = true → s.booted = true → s.haltReq = false →
    s.clerk.stepStart = none → s.lrn.repairs = [] → s.clerk.patches = [] → s.clerk.fetched = [] → s.clerk.chunked = [] →
    s.clerk.sweeps = [] → s.clerk.resyncs = [] → s.clerk.forgets = [] →
    (∀ m ∈ s.flt.marks, m.1 ≠ 0x26 ∧ m.1 ≠ 0x27) → Gives (.clerkBoundary fs) s fun t =>
    t.on fCLE_STATUS_HALTED = false ∧ t = { s with regs := t.regs, clerk := { s.clerk with upc := t.clerk.upc } } ∧ SameBits s t [fCLE_STATUS_HALTED.loc]) ∧
  (∀ (s : State) (h : HostId) (pr : Bool) (c : Cmd), s.clerk.work = .idle → s.clerk.stopped = false → s.on fCLE_STATUS_READY = true → s.booted = true →
    s.haltReq = false → s.clerk.stepStart = none → s.lrn.repairs = [] → s.clerk.patches = [] → s.clerk.chunked = [] →
    s.clerk.sweeps = [] → s.clerk.resyncs = [] → s.clerk.forgets = [] → s.clerk.fetched = [c] → c.src = .ring h pr → c.begun = false →
    s.mayBegin c = true → opKnown c.opcode = true → h ∉ s.hst.lost → AMap.getD s.clerk.stops c.src 0 ≤ c.seq → Gives (.clerkBoundary []) s fun t =>
    t.clerk.work = .cmd c ∧ t.clerk.fetched = [] ∧ t.clerk.stepStart = some s.tim.rc ∧
    t.rg .HST_CH_DEV_IDX 0 (chanOf h (b2n pr)) = word (s.rd fHST_CH_DEV_IDX_IDX 0 (chanOf h (b2n pr)) + 1) ∧
    t.hst.out = s.hst.out ++ [s.backOf h (chanOf h (b2n pr)) 1] ∧
    t = { s with regs := t.regs, hst := { s.hst with out := t.hst.out }, clerk := { s.clerk with work := .cmd c, fetched := [], stepStart := some s.tim.rc, stepHeld := false, overran := false, regOk := !s.clockStopped (c.w 2), rotPri := t.clerk.rotPri, rotNorm := t.clerk.rotNorm, priRun := if pr = true then s.clerk.priRun + 1 else 0 } } ∧
    SameBits s t [fCLE_STATUS_HALTED.loc, Reg.loc .HST_CH_DEV_IDX 0 (chanOf h (b2n pr))]) ∧
  (∀ (s : State) (h : HostId) (pr : Bool) (c : Cmd), s.clerk.work = .idle → s.clerk.stopped = false → s.on fCLE_STATUS_READY = true → s.booted = true →
    s.haltReq = false → s.clerk.stepStart = none → s.lrn.repairs = [] → s.clerk.patches = [] → s.clerk.chunked = [] →
    s.clerk.sweeps = [] → s.clerk.resyncs = [] → s.clerk.forgets = [] → s.clerk.fetched = [c] → c.src = .ring h pr → c.begun = false →
    s.mayBegin c = true → opKnown c.opcode = true → c.seq < AMap.getD s.clerk.stops c.src 0 → Gives (.clerkBoundary []) s fun t =>
    t.clerk.work = .cmd c ∧ t.clerk.fetched = [] ∧ t.hst = s.hst ∧ SameBits s t [fCLE_STATUS_HALTED.loc]) ∧
  (∀ (s : State) (m : Master) (c : Cmd), s.clerk.work = .idle → s.clerk.stopped = false → s.on fCLE_STATUS_READY = true → s.booted = true →
    s.haltReq = false → s.clerk.stepStart = none → s.lrn.repairs = [] → s.clerk.patches = [] → s.clerk.chunked = [] →
    s.clerk.sweeps = [] → s.clerk.resyncs = [] → s.clerk.forgets = [] → s.clerk.fetched = [c] → c.src = .taw m → c.begun = false →
    s.mayBegin c = true → opKnown c.opcode = false → Gives (.clerkBoundary []) s fun t =>
    Ended s t c stBAD_ARGS 0 ∧ t.clerk.fetched = [] ∧ t.tables = s.tables ∧ SameBits s t (fCLE_STATUS_HALTED.loc :: c.endRegs)) ∧
  (∀ (s : State) (h : HostId) (c d : Cmd), s.clerk.work = .idle → s.clerk.stopped = false → s.on fCLE_STATUS_READY = true → s.booted = true →
    s.haltReq = false → s.clerk.stepStart = none → s.lrn.repairs = [] → s.clerk.patches = [] → s.clerk.chunked = [] →
    s.clerk.sweeps = [] → s.clerk.resyncs = [] → s.clerk.forgets = [] → s.clerk.fetched = [d, c] → c.src = .ring h true →
    d.src = .ring h false → c.begun = false → d.begun = false → s.mayBegin c = true → s.mayBegin d = true → opKnown c.opcode = true →
    opKnown d.opcode = true → Gives (.clerkBoundary []) s fun t =>
    t.clerk.work = .cmd (if s.clerk.priRun < 8 then c else d) ∧ t.clerk.fetched = [if s.clerk.priRun < 8 then d else c] ∧
    t.clerk.priRun = if s.clerk.priRun < 8 then s.clerk.priRun + 1 else 0) ∧
  (∀ (s : State) (w : Work) (fs : List Bool), s.clerk.work = .idle → s.clerk.stopped = false → s.on fCLE_STATUS_READY = true → s.booted = true →
    s.haltReq = false → s.clerk.stepStart = none → s.repairReady = some w →
    (∀ m ∈ s.flt.marks, m.1 ≠ 0x26 ∧ m.1 ≠ 0x27) → Gives (.clerkBoundary fs) s fun t =>
    t = { s with regs := t.regs, clerk := { s.clerk with work := w, stepStart := some s.tim.rc, stepHeld := false, overran := false, regOk := false, upc := t.clerk.upc } } ∧
    SameBits s t [fCLE_STATUS_HALTED.loc]) ∧
  (∀ (s : State) (c : Cmd), s.clerk.work = .idle → s.clerk.stopped = false → s.on fCLE_STATUS_READY = true → s.booted = true → s.haltReq = false →
    s.clerk.stepStart = none → s.lrn.repairs = [] → s.clerk.patches = [] → s.clerk.chunked = [] → s.clerk.sweeps = [] → s.clerk.resyncs = [] →
    s.clerk.forgets = [] → s.clerk.fetched = [c] → c.opcode = 0x01 → c.begun = false →
    s.holdOf c.src ≠ [] ∨ (s.drm.waiting.any fun r => r.write) = true → Gives (.clerkBoundary []) s fun t =>
    t = { s with regs := t.regs } ∧ SameBits s t [fCLE_STATUS_HALTED.loc]) ∧
  (∀ (s : State) (c d : Cmd), s.clerk.work = .idle → s.clerk.stopped = false → s.on fCLE_STATUS_READY = true → s.booted = true → s.haltReq = false →
    s.clerk.stepStart = none → s.lrn.repairs = [] → s.clerk.patches = [] → s.clerk.chunked = [] → s.clerk.fetched = [d, c] → c.src = .taw .a →
    d.src = .taw .b → c.begun = false → c.opcode = 0x10 → d.opcode = 0x10 → c.table = 0x10 → d.table = 0x10 → c.index = d.index →
    s.owner 12 = 0 → s.clerk.sweeps = [] → s.clerk.resyncs = [] → s.clerk.forgets = [] → Gives (.clerkBoundary []) s fun t =>
    t.clerk.work = .cmd c ∧ t.clerk.fetched = [] ∧ t.rd fCLE_TAW_CTRL_STATUS 0 Master.b.num = stCONFLICT ∧
    t.rd fCLE_TAW_CTRL_DONE 0 Master.b.num = 1 ∧ t.tables = s.tables) ∧
  (∀ (s : State) (c d : Cmd) (h : HostId), s.clerk.work = .idle → s.clerk.stopped = false → s.on fCLE_STATUS_READY = true → s.booted = true → s.haltReq = false →
    s.clerk.stepStart = none → s.lrn.repairs = [] → s.clerk.patches = [] → s.clerk.chunked = [] → s.clerk.fetched = [d, c] → c.src = .taw .a →
    d.src = .ring h false → h = .b → c.begun = false → c.opcode = 0x02 → d.opcode = 0x02 → c.w 2 = Reg.addr .RAT_AVS → d.w 2 = Reg.addr .RAT_AVS →
    s.owner 8 = 0 → s.complRoom d.src = false → s.clerk.sweeps = [] → s.clerk.resyncs = [] → s.clerk.forgets = [] →
    Gives (.clerkBoundary []) s fun t =>
    t.clerk.work = .cmd c ∧ t.clerk.fetched = [] ∧ t.rd fHST_REJECT_COUNT_COUNT 0 Master.b.num = s.satUp fHST_REJECT_COUNT_COUNT 0 Master.b.num ∧
    t.rd fCLE_CMD_FAIL_COUNT 0 Master.b.num = s.satUp fCLE_CMD_FAIL_COUNT 0 Master.b.num ∧
    (s.hst.rejects.length < 16 → t.hst.rejects = s.hst.rejects ++ [[word (2 ^ 31 + b2n s.hst.rejLost * 2 ^ 30 + Master.b.owner * 2 ^ 28 +
      Cause.code .sameRound * 2 ^ 24), word (d.w 2), word (d.w 3)] ++ ctWords s.tim.ct])) ∧
  (∀ (s : State) (b : Bool) (f : CsFields), s.clerk.work = .idle → s.clerk.stopped = false → s.on fCLE_STATUS_READY = true → s.booted = true →
    (∀ m ∈ s.flt.marks, m.1 ≠ 0x26 ∧ m.1 ≠ 0x27) → f = csFields (s.csWord (s.fetchAddr s.clerk.upc)) → Gives (.clerkBoundary [b]) s fun t =>
    (f.cond = 0 → t.clerk.upc = if f.inv = true then f.branch else f.next) ∧
    (f.cond = 63 → t.clerk.upc = if f.inv = true then f.next else f.branch) ∧
    (0 < f.cond → f.cond < 63 → t.clerk.upc = if b = f.inv then f.next else f.branch)) ∧
  (∀ (s : State) (b : Bool) (fs : List Bool), s.clerk.work = .idle → s.clerk.stopped = false → s.on fCLE_STATUS_READY = true → s.booted = true →
    (∀ m ∈ s.flt.marks, m.1 ≠ 0x26 ∧ m.1 ≠ 0x27) → (csFields (s.csWord (s.fetchAddr s.clerk.upc))).stepEnd = true →
    Gives (.clerkBoundary (b :: fs)) s fun t =>
    t.clerk.upc = (csFields (s.csWord (s.fetchAddr s.clerk.upc))).after b) ∧
  (∀ (s : State) (b : Bool), s.clerk.work = .idle → s.clerk.stopped = false → s.on fCLE_STATUS_READY = true → s.booted = true →
    0x2000 ≤ s.fetchAddr s.clerk.upc → s.marked 0x26 15 0 (s.fetchAddr s.clerk.upc) = some false → Gives (.clerkBoundary [b]) s fun t =>
    t.bad 0x26 15 0 (s.fetchAddr s.clerk.upc) = false ∧ t.rd fCLE_CS_STATUS_RAM_CORR = s.satUp fCLE_CS_STATUS_RAM_CORR ∧
    Raised t .CLE_CS_RAM_CORR ∧ t.on fCLE_CS_LAST_VALID = true ∧ t.clerk.stopped = false) ∧
  (∀ (s : State) (b : Bool) (a : Nat), s.clerk.work = .idle → s.clerk.stopped = false → s.on fCLE_STATUS_READY = true → s.booted = true → s.clerk.upc = a → a < 0x2000 →
    s.fetchAddr a = a → s.bad 0x27 15 0 a = true → s.bad 0x26 15 0 (a + 0x2000) = false → Gives (.clerkBoundary [b]) s fun t =>
    t.bad 0x27 15 0 a = false ∧ t.rd fCLE_CS_STATUS_ROM_PAR = s.satUp fCLE_CS_STATUS_ROM_PAR ∧ Raised t .CLE_CS_ROM_PAR ∧ t.clerk.stopped = false) ∧
  (∀ (s : State) (m : Master) (c : Cmd) (b : Bool) (fs : List Bool), s.clerk.work = .idle → s.clerk.stopped = false → s.on fCLE_STATUS_READY = true → s.booted = true →
    s.haltReq = false → s.clerk.stepStart = none → s.lrn.repairs = [] → s.clerk.patches = [] → s.clerk.chunked = [] →
    s.clerk.sweeps = [] → s.clerk.resyncs = [] → s.clerk.forgets = [] → s.clerk.fetched = [c] → c.src = .taw m → c.begun = false →
    s.mayBegin c = true → opKnown c.opcode = true → 0x2000 ≤ s.fetchAddr s.clerk.upc →
    s.marked 0x26 15 0 (s.fetchAddr s.clerk.upc) = some true → Gives (.clerkBoundary (b :: fs)) s fun t =>
    Ended s t c stPARITY 0 ∧ t.clerk.stopped = true ∧ t.clerk.fetched = [] ∧ Raised t .CLE_CS_UNCORR ∧ t.tables = s.tables) ∧
  (∀ (s : State) (i : Instr) (op : Nat), (i, op) ∈ cmdRows → (∀ c, s.clerk.work = .cmd c → c.opcode ≠ op) →
    (∀ port, s.clerk.work ≠ .forget port) → exec i s = .next s) ∧
  (∀ (s : State) (i : Instr) (op : Nat) (c : Cmd), (i, op) ∈ cmdRows → op ∈ holdOps → s.clerk.work = .cmd c → c.opcode = op →
    s.mirShort (s.cmdNeed c) = true → exec i s = .next { s with clerk := { s.clerk with stepHeld := true } }) ∧
  (∀ (s : State) (i : Instr) (op : Nat) (c : Cmd) (st : Nat), (i, op) ∈ cmdRows → s.clerk.work = .cmd c → c.opcode = op → c.begun = false →
    (op ∈ holdOps → s.mirShort (s.cmdNeed c) = false) →
    (c.failed = true ∧ st = stTIMEOUT ∨ c.failed = false ∧ (cmdReserved c = true ∨ cmdNames c = false) ∧ st = stBAD_ARGS ∨
      c.failed = false ∧ cmdReserved c = false ∧ cmdNames c = true ∧ s.cmdOwned c = false ∧ st = stCONFLICT) →
    Gives i s fun t => Ended s t c st 0 ∧ CmdOnly s t ∧ SameBits s t c.endRegs) ∧
  (∀ (s : State) (c : Cmd), s.takes 0x00 c → Gives .nop s fun t => Ended s t c stOK 0 ∧ CmdOnly s t ∧ SameBits s t c.endRegs) ∧
  (∀ (s : State) (c : Cmd), s.takes 0x01 c → Gives .fence s fun t => Ended s t c stOK 0 ∧ CmdOnly s t ∧ SameBits s t c.endRegs) ∧
  (∀ (s : State) (c : Cmd) (h : HostId) (pr : Bool) (n : Nat) (rest : List HoldEnt), s.takes 0x00 c → c.src = .ring h pr →
    s.holdOf c.src = .waiting n :: rest → n ≠ c.seq → .waiting c.seq ∉ rest → Gives .nop s fun t =>
    t.holdOf c.src = .waiting n :: rest ++ [.done c.seq ⟨0, stOK, c.words.getD 1 0, 0, 0⟩] ∧ t.hst.compl = s.hst.compl ∧ t.clerk.work = .idle) ∧
  (∀ (s : State) (a n : Nat), s.clerk.stopped = true → exec (.clerkStop ⟨a, n⟩) s = .next s) ∧
  (∀ (s : State) (a : Nat) (c : Cmd), s.clerk.stopped = false → s.clerk.work = .cmd c → (∀ d ∈ s.clerk.chunked, d.begun = false) →
    Gives (.clerkStop ⟨a, 0⟩) s fun t =>
    t.clerk.stopped = true ∧ Ended s t c stPARITY 0 ∧ Raised t .CLE_CS_UNCORR ∧ t.on fCLE_CS_LAST_VALID = true ∧ t.tables = s.tables ∧
    SameBits s t (Reg.loc .CLE_CS_LAST :: c.endRegs)) ∧
  (∀ (s : State) (a n : Nat) (c : Cmd), s.clerk.stopped = false → s.clerk.work = .idle → s.clerk.chunked = [c] → c.begun = true →
    Gives (.clerkStop ⟨a, n⟩) s fun t =>
    t.clerk.stopped = true ∧ Ended s t c stPARITY 0 ∧ t.clerk.chunked = [] ∧ Raised t .CLE_CS_UNCORR ∧ t.tables = s.tables) ∧
  (∀ (s : State) (a n : Nat) (c : Cmd) (e : List Word), s.clerk.stopped = false → s.takes 0x10 c → s.mirShort (s.cmdNeed c) = false → 0 < n →
    c.entData = some e → c.table = 0x10 → tableArgs c.table c.pipe c.index = true → e.length = tblWords c.table → entReserved c.table e = false →
    s.entArgs c.table c.pipe c.index (entClean c.table e) = true → s.entConflict c.table c.pipe c.index (entClean c.table e) = false →
    (∀ d ∈ s.clerk.chunked, d.begun = false) → Gives (.clerkStop ⟨a, n⟩) s fun t =>
    t.clerk.stopped = true ∧ Ended s t c stPARITY 0 ∧ t.ent c.table c.pipe c.index = entClean c.table e) ∧
  (∀ (s : State) (a n f : Nat) (c : Cmd) (e : List Word), s.clerk.stopped = false → s.takes 0x18 c → s.mirShort (n + 1) = false → c.entData = some e →
    (∀ d ∈ s.clerk.chunked, d.begun = false) →
    c.catArgs = true → c.index < catSize c.eg → s.sliceWide c.eg c.pipe (c.index / 512) = false → e.length = 23 → entReserved c.table e = false →
    s.entArgs c.table c.pipe c.index (entClean c.table e) = true →
    s.rowFree c.eg c.pipe c.index = false → s.nextFree c.eg c.pipe 1 (s.rowRunEnd c.eg c.pipe c.index) c.index (catSize c.eg) = some f →
    n ≤ f - c.index → Gives (.clerkStop ⟨a, n⟩) s fun t =>
    t.clerk.stopped = true ∧ t.clerk.work = .idle ∧ Raised t .CLE_CS_UNCORR ∧
    (∀ r, f < r + n → r ≤ f → t.ent c.table c.pipe r = entSet ((s.ent c.table c.pipe (r - 1)).take 23) 20 3 3 0) ∧
    (∀ ti p r, ti ≠ c.table ∨ tblPipe ti p ≠ c.pipe ∨ r + n ≤ f ∨ f < r → t.ent ti p r = s.ent ti p r)) ∧
  (∀ (s : State) (a : Nat), s.clerk.stopped = false → (∀ c, s.clerk.work ≠ .cmd c) → (∀ d ∈ s.clerk.chunked, d.begun = false) →
    s.on fCLE_CS_LAST_VALID = false → Gives (.clerkStop ⟨a, 0⟩) s fun t =>
    t.clerk = { s.clerk with stopped := true, work := .idle } ∧ Raised t .CLE_CS_UNCORR ∧
    t.rd fCLE_CS_LAST_KIND = 2 ∧ t.rd fCLE_CS_LAST_ADDR = a % 2 ^ 14 ∧
    t = { s with regs := t.regs, clerk := t.clerk, flt := { s.flt with crossing := t.flt.crossing } } ∧ SameBits s t [Reg.loc .CLE_CS_LAST]) ∧
  (∀ (s : State) (a : Nat), s.clerk.work ≠ .idle → s.clerk.stepStart = some a → a + ns 100000 ≤ s.tim.rc → s.mirFull = false →
    s.clerk.stepHeld = false → s.clerk.overran = false → Gives .stepOverrun s fun t => Raised t .CLE_STEP_OVERRUN ∧
    t = { s with clerk := { s.clerk with overran := true }, flt := { s.flt with crossing := t.flt.crossing } }) ∧
  (∀ (s : State), (∀ a, s.clerk.stepStart = some a → s.tim.rc < a + ns 100000) ∨ s.clerk.work = .idle ∨ s.mirFull = true ∨ s.clerk.stepHeld = true ∨
      s.clerk.overran = true →
    exec .stepOverrun s = .next s) ∧
  (∀ (s : State) (m : Master), s.passes m .CLE_TAW_CTRL 0 m.num → s.on fCLE_TAW_CTRL_BUSY 0 m.num = false → Gives (.tawGo m) s fun t =>
    t.rd fCLE_TAW_CTRL_BUSY 0 m.num = 1 ∧
    t.clerk = { s.clerk with fetched := s.clerk.fetched ++ [⟨.taw m, (List.range 16).map fun w => s.rg .CLE_TAW_CMD 0 m.num w, (List.range (s.rd ⟨.CLE_TAW_CMD, 7, 0⟩ 0 m.num 3)).map fun w => s.rg .CLE_TAW_DATA 0 m.num w, false, 0, false, 0, 0⟩] } ∧
    t.tables = s.tables ∧ SameBits s t [Reg.loc .CLE_TAW_CTRL 0 m.num]) ∧
  (∀ (s : State) (m : Master), s.passes m .CLE_TAW_CTRL 0 m.num → s.on fCLE_TAW_CTRL_BUSY 0 m.num = true → Gives (.tawGo m) s fun t =>
    Rejected s t m .badState (Reg.addr .CLE_TAW_CTRL 0 m.num) 1) ∧
  (∀ (s : State) (m : Master) (b : Bool), s.passes m .CLE_CTRL → s.gateOpen (some m) .CLE 0 = true → Gives (.haltRequest m b) s fun t =>
    t.on fCLE_CTRL_HALT = b ∧ t = { s with regs := t.regs, hst := { s.hst with round := t.hst.round } } ∧ SameBits s t [fCLE_CTRL_HALT.loc]) ∧
  (∀ (s : State) (a i : Nat), a < 0x2000 → i < 64 → s.on fCLE_PATCH_MAP_V 0 i = true → s.rd fCLE_PATCH_MAP_ROM_ADDR 0 i = a →
    (∀ j, j < i → s.on fCLE_PATCH_MAP_V 0 j = false ∨ s.rd fCLE_PATCH_MAP_ROM_ADDR 0 j ≠ a) → s.fetchAddr a = s.rd fCLE_PATCH_MAP_RAM_ADDR 0 i)

/-- R117, R118, R121, R171 to R173, R362 to R364, R366 to R368: registers, entries, hashed stores and Catalogue rows by command. The lowest free slot
of a new prefix is the model's choice (assumption log 7); the steps of CAT_MOVE_BLOCK, the logged unaligned REG_WRITE and the PARITY of a lookup
without a match are assumption log 29. -/
def Obligations.ClerkTables : Prop :=
  (∀ (s : State) (c : Cmd) (r : Reg) (p i j k : Nat), s.takes 0x02 c → r ∈ plainRegs → regAt (r.addr p i j k) = some ⟨r, p, i, j, k⟩ →
    c.w 2 = r.addr p i j k → r.addr p i j k % 4 = 0 → s.arbitrate c.master ⟨r, p, i, j, k⟩ (r.addr p i j k) = none →
    s.clockStopped (r.addr p i j k) = false → s.blockRuns r.desc.block = true →
    s.gateOpen (some c.master) r.desc.block p = true ∨ r.desc.expertHit = false → Gives .regWrite s fun t =>
    Ended s t c stOK 0 ∧ (∀ f ∈ r.desc.fields, bitsOf (t.rg r p i j k).toNat f.hi f.lo =
      f.after (s.gateOpen (some c.master) r.desc.block p) (s.rg r p i j k).toNat (c.w 3)) ∧ t.tables = s.tables ∧
    SameBits s t (r.loc p i j k :: c.endRegs)) ∧
  (∀ (s : State) (c : Cmd), s.takes 0x02 c → s.clockStopped (c.w 2) = true → s.clerk.regOk = false → Gives .regWrite s fun t =>
    Ended s t c stTIMEOUT 0 ∧ CmdOnly s t ∧ SameBits s t c.endRegs) ∧
  (∀ (s : State) (c : Cmd), s.takes 0x02 c → s.clockStopped (c.w 2) = true → s.clerk.regOk = true → c.w 2 = Reg.addr .TIM_PPS_DELAY →
    s.arbitrate c.master ⟨.TIM_PPS_DELAY, 0, 0, 0, 0⟩ (c.w 2) = none → Gives .regWrite s fun t =>
    Ended s t c stTIMEOUT 0 ∧ t.ckr.waits = s.ckr.waits ++ [⟨5, masterCode c.master, c.w 2, some (word (c.w 3)), s.tim.rc, false, 0, false⟩] ∧
    t.rg .TIM_PPS_DELAY = s.rg .TIM_PPS_DELAY ∧ t.tables = s.tables) ∧
  (∀ (s : State) (c : Cmd), s.takes 0x02 c → s.clockStopped (c.w 2) = false → c.w 2 % 4 ≠ 0 → Gives .regWrite s fun t =>
    Ended s t c stBAD_ARGS 0 ∧ t.rd fHST_REJECT_COUNT_COUNT 0 c.master.num = s.satUp fHST_REJECT_COUNT_COUNT 0 c.master.num ∧
    (s.hst.rejects.length < 16 → t.hst.rejects = s.hst.rejects ++
      [[word (2 ^ 31 + b2n s.hst.rejLost * 2 ^ 30 + c.master.owner * 2 ^ 28 + Cause.code .badAccess * 2 ^ 24), word (c.w 2), word (c.w 3)] ++ ctWords s.tim.ct]) ∧
    t.tables = s.tables ∧ SameBits s t (fHST_REJECT_COUNT_COUNT.loc 0 c.master.num :: c.endRegs)) ∧
  (∀ (s : State) (c : Cmd) (r : Reg) (p i j k : Nat), s.takes 0x03 c → r ∈ plainRegs → regAt (c.w 2) = some ⟨r, p, i, j, k⟩ → c.w 2 % 4 = 0 →
    s.clockStopped (c.w 2) = false → s.ckr.warmAt = none → Gives .regRead s fun t =>
    Ended s t c stOK (s.rg r p i j k).toNat ∧ CmdOnly s t ∧ SameBits s t c.endRegs) ∧
  (∀ (s : State) (c : Cmd), s.takes 0x03 c → s.clockStopped (c.w 2) = false → c.w 2 % 4 ≠ 0 ∨ regAt (c.w 2) = none → Gives .regRead s fun t =>
    Ended s t c stBAD_ARGS 0 ∧ CmdOnly s t ∧ SameBits s t c.endRegs) ∧
  (∀ (s : State) (c : Cmd), s.takes 0x03 c → s.clerk.regOk = false → s.clockStopped (c.w 2) = true → Gives .regRead s fun t =>
    Ended s t c stTIMEOUT 0 ∧ CmdOnly s t ∧ SameBits s t c.endRegs) ∧
  (∀ (s : State) (c : Cmd), s.takes 0x03 c → c.w 2 % 4 = 0 → s.clerk.regOk = true → s.clockStopped (c.w 2) = true → Gives .regRead s fun t =>
    Ended s t c stTIMEOUT 0 ∧ t.tables = s.tables ∧ SameBits s t c.endRegs ∧ t.ckr.waits.length = s.ckr.waits.length + 1 ∧
    t.ckr.waits.take s.ckr.waits.length = s.ckr.waits ∧
    ∀ a, t.ckr.waits.getLast? = some a → a.late = true ∧ a.offset = c.w 2 ∧ a.write = none ∧ a.since = s.tim.rc) ∧
  (∀ (s : State) (c : Cmd) (e : List Word), s.takes 0x10 c → s.mirShort (s.cmdNeed c) = false → c.entData = some e → c.table ∈ plainTables →
    tableArgs c.table c.pipe c.index = true → e.length = tblWords c.table → entReserved c.table e = false →
    s.gateOpen (some c.master) .HAR c.pipe = true ∨ c.table ≠ 0x28 → s.entArgs c.table c.pipe c.index (entClean c.table e) = true →
    s.entConflict c.table c.pipe c.index (entClean c.table e) = false → Gives .entryWrite s fun t =>
    Ended s t c stOK c.index ∧ t.ent c.table c.pipe c.index = entClean c.table e ∧
    EntriesBut s t [(c.table, tblPipe c.table c.pipe, c.index)] ∧ EntryOnly s t ∧ t.cnts = s.cnts ∧ t.lrn.hits = s.lrn.hits ∧
    SameBits s t c.endRegs) ∧
  (∀ (s : State) (c : Cmd) (e : List Word), s.takes 0x10 c → s.mirShort (s.cmdNeed c) = false → c.entData = some e →
    c.table ∈ [0x0C, 0x0D, 0x1A, 0x1B, 0x29, 0x2A, 0x2B, 0x2C, 0x2D, 0x2E] → tableArgs c.table c.pipe c.index = true →
    s.entWords c.table c.pipe c.index e.length = true → entReserved c.table e = false → s.gateOpen (some c.master) .HAR c.pipe = true →
    s.entArgs c.table c.pipe c.index (entClean c.table e) = true → s.entConflict c.table c.pipe c.index (entClean c.table e) = false →
    Gives .entryWrite s fun t => Ended s t c stOK c.index ∧
    EntriesBut s t [(c.table, tblPipe c.table c.pipe, c.index), (c.table, tblPipe c.table c.pipe, c.index + 1)]) ∧
  (∀ (s : State) (c : Cmd) (e : List Word), s.takes 0x10 c → s.mirShort (s.cmdNeed c) = false → c.entData = some e →
    s.entWords c.table c.pipe c.index e.length = false → Gives .entryWrite s fun t => Ended s t c stBAD_ARGS 0 ∧ CmdOnly s t ∧ SameBits s t c.endRegs) ∧
  (∀ (s : State) (c : Cmd) (e : List Word), s.takes 0x10 c → s.mirShort (s.cmdNeed c) = false → c.entData = some e → c.table = 0x0E → e.length = 8 →
    entReserved 0x0E e = false → pfxOk (entClean 0x0E e) = true → resOk (wordsNat (((entClean 0x0E e).drop 5).take 2)) false = true →
    s.pfxSlot (entClean 0x0E e) = none → s.rd fKST_PFX_UNITS_USED + pfxCost (entClean 0x0E e) ≤ 1048576 → Gives .entryWrite s fun t =>
    Ended s t c stOK (lowestFree (s.prefixes.map (·.1))) ∧ t.ent 0x0E 15 (lowestFree (s.prefixes.map (·.1))) = entClean 0x0E e ∧
    t.rd fKST_PFX_UNITS_USED = s.rd fKST_PFX_UNITS_USED + pfxCost (entClean 0x0E e) ∧
    EntriesBut s t [(0x0E, 15, lowestFree (s.prefixes.map (·.1)))] ∧ EntryOnly s t) ∧
  (∀ (s : State) (c : Cmd) (e : List Word), s.takes 0x12 c → s.mirShort (s.cmdNeed c) = false → c.entData = some e → c.table ∈ plainTables → c.table ≠ 0x01 →
    e.length = tblWords c.table → tableArgs c.table c.pipe c.index = true → s.entConflict c.table c.pipe c.index (zeros (tblWords c.table)) = false → Gives .entryDelete s fun t =>
    Ended s t c stOK c.index ∧ t.ent c.table c.pipe c.index = zeros (tblWords c.table) ∧
    EntriesBut s t [(c.table, tblPipe c.table c.pipe, c.index)] ∧ EntryOnly s t ∧ t.cnts = s.cnts ∧ SameBits s t c.endRegs) ∧
  (∀ (s : State) (c : Cmd) (e : List Word), s.takes 0x12 c → s.mirShort (s.cmdNeed c) = false → c.entData = some e → c.table = 0x01 → e.length = 8 → c.pipe < 8 →
    c.index < 64 → s.entConflict 0x01 c.pipe c.index (entSet (s.ent 0x01 c.pipe c.index) 6 10 10 0) = false → Gives .entryDelete s fun t =>
    Ended s t c stOK c.index ∧ t.ent 0x01 c.pipe c.index = entSet (s.ent 0x01 c.pipe c.index) 6 10 10 0 ∧
    EntriesBut s t [(0x01, c.pipe, c.index)] ∧ EntryOnly s t) ∧
  (∀ (s : State) (c : Cmd) (e : List Word) (n : Nat), s.takes 0x12 c → s.mirShort (s.cmdNeed c) = false → c.entData = some e → c.table = 0x0E → e.length = 8 →
    entReserved 0x0E e = false → pfxOk (entClean 0x0E e) = true → s.pfxSlot (entClean 0x0E e) = some n → Gives .entryDelete s fun t =>
    Ended s t c stOK n ∧ AMap.get? t.tables (0x0E, 15, n) = none ∧
    t.rd fKST_PFX_UNITS_USED = s.rd fKST_PFX_UNITS_USED - pfxCost (entClean 0x0E e) ∧ EntriesBut s t [(0x0E, 15, n)] ∧ EntryOnly s t) ∧
  (∀ (s : State) (c : Cmd), s.takes 0x11 c → tableArgs c.table c.pipe c.index = true → c.table ≠ 0x0E → c.table ≠ 0x38 → c.table ≠ 0x39 →
    s.entWords c.table c.pipe c.index c.count = true → c.table < 0x28 → s.oddRow c.table c.pipe c.index = false →
    s.entBad c.table c.pipe c.replica c.index = none → Gives .entryRead s fun t =>
    Ended s t c stOK c.index ∧ Handed s t c (s.entRead c.table c.pipe c.replica c.index) ∧
    t = { s with regs := t.regs, clerk := { s.clerk with work := .idle, hold := t.clerk.hold, tawLeft := t.clerk.tawLeft }, hst := { s.hst with compl := t.hst.compl, out := t.hst.out } } ∧
    SameBits s t (c.endRegs ++ c.dataRegs)) ∧
  (∀ (s : State) (c : Cmd), s.takes 0x11 c → c.table = 0x0A → c.count = tblWords 0x0A → c.index < 16384 → c.pipe < 8 →
    s.entBad 0x0A c.pipe c.pipe c.index = some c.index → s.lrn.repairs = [] → Gives .entryRead s fun t =>
    Ended s t c stPARITY c.index ∧ Handed s t c (s.entRead 0x0A c.pipe c.pipe c.index) ∧ t.lrn.repairs ≠ [] ∧ t.tables = s.tables) ∧
  (∀ (s : State) (c : Cmd) (x : Stall), s.takes 0x11 c → c.table = 0x38 → c.count = 8 → c.index < 262144 →
    s.flt.marks = [] →
    s.fwd.stalls.find? (fun x => s.stallNo x.pool x.idx == c.index) = some x → Gives .entryRead s fun t =>
    Ended s t c stOK c.index ∧ Handed s t c (x.record s.tim.rcBase) ∧ t.tables = s.tables) ∧
  (∀ (s : State) (c : Cmd) (e : List Word) (i : Nat), s.takes 0x13 c → s.mirShort (s.cmdNeed c) = false → c.entData = some e → c.table = 0x0C → c.pipe < 8 →
    e.length = 3 → entReserved 0x0C e = false → bridgeOk (entSet (entClean 0x0C e) 1 30 30 1) = true →
    s.hashFind 0x0C c.pipe (entSet (entClean 0x0C e) 1 30 30 1) = none →
    s.bridgePlace c.pipe (bridgeBd (entSet (entClean 0x0C e) 1 30 30 1)) (bridgeMac (entSet (entClean 0x0C e) 1 30 30 1)) = some i →
    Gives .hashInsert s fun t =>
    Ended s t c stOK i ∧ t.ent 0x0C c.pipe i = entSet (entClean 0x0C e) 1 30 30 1 ∧ EntriesBut s t [(0x0C, c.pipe, i)] ∧
    EntryOnly { s with lrn := { s.lrn with bdCnt := t.lrn.bdCnt } } t ∧
    (∀ q bd, t.bdCount q bd = s.bdCount q bd +
      if q = c.pipe ∧ bd = bridgeBd (entClean 0x0C e) ∧ bridgeStatic (entClean 0x0C e) = false then 1 else 0) ∧ t.cnts = s.cnts) ∧
  (∀ (s : State) (c : Cmd) (e : List Word) (i : Nat), s.takes 0x13 c → s.mirShort (s.cmdNeed c) = false → c.entData = some e → c.table = 0x0D → e.length = 5 →
    State.hashArgs 0x0D c.pipe e = true → keyEntryOk (keyValid (entClean 0x0D e)) = true →
    s.hashFind 0x0D c.pipe (keyValid (entClean 0x0D e)) = none →
    s.kstPlace (keyEntry (keyValid (entClean 0x0D e))).1 (keyEntry (keyValid (entClean 0x0D e))).2 = some i → Gives .hashInsert s fun t =>
    Ended s t c stOK i ∧ t.ent 0x0D 15 i = keyValid (entClean 0x0D e) ∧ EntriesBut s t [(0x0D, 15, i)] ∧ EntryOnly s t ∧ t.cnts = s.cnts) ∧
  (∀ (s : State) (c : Cmd) (e : List Word) (i : Nat), s.takes 0x13 c → s.mirShort (s.cmdNeed c) = false → c.entData = some e → c.table = 0x0C → c.pipe < 8 →
    e.length = 3 → entReserved 0x0C e = false → bridgeOk (entSet (entClean 0x0C e) 1 30 30 1) = true →
    s.hashFind 0x0C c.pipe (entSet (entClean 0x0C e) 1 30 30 1) = some i → Gives .hashInsert s fun t =>
    (bitOf (c.w 0) 21 = false → Ended s t c stEXISTS i ∧ CmdOnly s t) ∧
    (bitOf (c.w 0) 21 = true → Ended s t c stOK i ∧ t.ent 0x0C c.pipe i = entSet (entClean 0x0C e) 1 30 30 1 ∧
      EntriesBut s t [(0x0C, c.pipe, i)])) ∧
  (∀ (s : State) (c : Cmd) (e : List Word), s.takes 0x14 c → c.entData = some e → State.hashArgs c.table c.pipe e = true →
    s.hashFind c.table c.pipe (entClean c.table e) = none → s.missBad c.table c.pipe (entClean c.table e) = none → Gives .hashLookup s fun t =>
    Ended s t c stNOT_FOUND 0 ∧ CmdOnly s t ∧ SameBits s t c.endRegs) ∧
  (∀ (s : State) (c : Cmd) (e : List Word) (i : Nat), s.takes 0x14 c → c.entData = some e → State.hashArgs c.table c.pipe e = true →
    s.hashFind c.table c.pipe (entClean c.table e) = none → s.missBad c.table c.pipe (entClean c.table e) = some i → s.lrn.repairs = [] →
    Gives .hashLookup s fun t =>
    Ended s t c stPARITY i ∧ Handed s t c (s.entRead c.table c.pipe 0 i) ∧ t.lrn.repairs ≠ [] ∧ t.tables = s.tables) ∧
  (∀ (s : State) (c : Cmd) (e : List Word) (i : Nat), s.takes 0x14 c → c.entData = some e → State.hashArgs c.table c.pipe e = true →
    s.hashFind c.table c.pipe (entClean c.table e) = some i → s.entBad c.table c.pipe 0 i = none → Gives .hashLookup s fun t =>
    Ended s t c stOK i ∧ Handed s t c (s.entRead c.table c.pipe 0 i) ∧
    t = { s with regs := t.regs, clerk := { s.clerk with work := .idle, hold := t.clerk.hold, tawLeft := t.clerk.tawLeft }, hst := { s.hst with compl := t.hst.compl, out := t.hst.out } } ∧
    SameBits s t (c.endRegs ++ c.dataRegs)) ∧
  (∀ (s : State) (c : Cmd) (e : List Word), s.takes 0x15 c → s.mirShort (s.cmdNeed c) = false → c.entData = some e → State.hashArgs c.table c.pipe e = true →
    s.hashFind c.table c.pipe (entClean c.table e) = none → Gives .hashDelete s fun t =>
    Ended s t c stNOT_FOUND 0 ∧ CmdOnly s t ∧ SameBits s t c.endRegs) ∧
  (∀ (s : State) (c : Cmd) (e : List Word) (i : Nat), s.takes 0x15 c → s.mirShort (s.cmdNeed c) = false → c.entData = some e → State.hashArgs 0x0C c.pipe e = true →
    c.table = 0x0C → s.hashFind 0x0C c.pipe (entClean 0x0C e) = some i → Gives .hashDelete s fun t =>
    Ended s t c stOK i ∧ t.ent 0x0C c.pipe i = zeros 3 ∧ EntriesBut s t [(0x0C, c.pipe, i)] ∧
    EntryOnly { s with lrn := { s.lrn with bdCnt := t.lrn.bdCnt } } t ∧ t.cnts = s.cnts) ∧
  (∀ (s : State) (c : Cmd) (e : List Word), s.takes 0x18 c → s.mirShort (s.cmdNeed c) = false → c.entData = some e → c.catArgs = true → c.index < catSize c.eg →
    s.sliceWide c.eg c.pipe (c.index / 512) = false → e.length = 23 → entReserved c.table e = false →
    s.entArgs c.table c.pipe c.index (entClean c.table e) = true → s.entConflict c.table c.pipe c.index (entClean c.table e) = false →
    s.rowFree c.eg c.pipe c.index = true → Gives .catInsert s fun t =>
    Ended s t c stOK 1 ∧ t.ent c.table c.pipe c.index = entSet (entClean c.table e) 20 3 3 0 ∧
    EntriesBut s t [(c.table, c.pipe, c.index)] ∧ EntryOnly s t ∧ CountsUp s t [((14, c.pipe * 1024 + 205, 0), 1)] ∧
    t.rd fCAT_MOVE_STATUS_LAST_STEPS c.pipe = 1) ∧
  (∀ (s : State) (c : Cmd) (e : List Word), s.takes 0x18 c → s.mirShort (s.cmdNeed c) = false → c.entData = some e → c.catArgs = true → c.index < catSize c.eg →
    s.sliceWide c.eg c.pipe (c.index / 512) = false → e.length = 23 → entReserved c.table e = false →
    s.entArgs c.table c.pipe c.index (entClean c.table e) = true → s.entConflict c.table c.pipe c.index (entClean c.table e) = true →
    s.rowFree c.eg c.pipe c.index = true → Gives .catInsert s fun t => Ended s t c stCONFLICT 0 ∧ CmdOnly s t ∧ SameBits s t c.endRegs) ∧
  (∀ (s : State) (c : Cmd) (e : List Word) (f : Nat), s.takes 0x18 c → s.mirShort (f - c.index + 1) = false → c.entData = some e → c.catArgs = true →
    c.index < catSize c.eg → s.sliceWide c.eg c.pipe (c.index / 512) = false → e.length = 23 → entReserved c.table e = false →
    s.entArgs c.table c.pipe c.index (entClean c.table e) = true →
    s.rowFree c.eg c.pipe c.index = false → s.nextFree c.eg c.pipe 1 (s.rowRunEnd c.eg c.pipe c.index) c.index (catSize c.eg) = some f →
    Gives .catInsert s fun t =>
    Ended s t c stOK (f - c.index + 1) ∧ c.index < f ∧ s.rowFree c.eg c.pipe f = true ∧
    t.ent c.table c.pipe c.index = entSet (entClean c.table e) 20 3 3 0 ∧
    (∀ r, c.index < r → r ≤ f → t.ent c.table c.pipe r = entSet ((s.ent c.table c.pipe (r - 1)).take 23) 20 3 3 0) ∧
    (∀ ti p r, ti ≠ c.table ∨ tblPipe ti p ≠ c.pipe ∨ r < c.index ∨ f < r → t.ent ti p r = s.ent ti p r) ∧ EntryOnly s t) ∧
  (∀ (s : State) (c : Cmd) (e : List Word), s.takes 0x18 c → s.mirShort (s.cmdNeed c) = false → c.entData = some e → c.catArgs = true →
    c.index < catSize c.eg → s.sliceWide c.eg c.pipe (c.index / 512) = false → e.length = 23 → entReserved c.table e = false →
    s.entArgs c.table c.pipe c.index (entClean c.table e) = true →
    s.rowFree c.eg c.pipe c.index = false → s.nextFree c.eg c.pipe 1 (s.rowRunEnd c.eg c.pipe c.index) c.index (catSize c.eg) = none →
    Gives .catInsert s fun t => Ended s t c stFULL 0 ∧ CmdOnly s t ∧ SameBits s t c.endRegs) ∧
  (∀ (s : State) (c : Cmd), s.takes 0x19 c → s.mirShort (s.cmdNeed c) = false → c.catArgs = true → c.index < catSize c.eg →
    s.sliceWide c.eg c.pipe (c.index / 512) = false → s.entConflict c.table c.pipe c.index (zeros 23) = false → Gives .catRemove s fun t =>
    Ended s t c stOK 1 ∧ t.ent c.table c.pipe c.index = zeros 23 ∧ EntriesBut s t [(c.table, c.pipe, c.index)] ∧ EntryOnly s t ∧
    CountsUp s t [((14, c.pipe * 1024 + 205, 0), 1)] ∧ t.rd fCAT_MOVE_STATUS_LAST_STEPS c.pipe = 1) ∧
  (∀ (s : State) (c : Cmd) (n k : Nat) (up : Bool), s.takes 0x1A c → s.mirShort (n + k) = false → c.catArgs = true → n = bitsOf (c.w 3) 13 0 →
    k = bitsOf (c.w 3) 27 14 → up = bitOf (c.w 3) 28 → c.index + n ≤ catSize c.eg → s.moveArgs c c.index n k up = true →
    s.sliceWide c.eg c.pipe (c.index / 512) = false → 0 < k → Gives .catMoveBlock s fun t =>
    Ended s t c stOK (n + k) ∧ CountsUp s t [((14, c.pipe * 1024 + 205, 0), n + k)] ∧
    (∀ r, c.index ≤ r → r < c.index + n →
      t.ent c.table c.pipe (if up = true then r - k else r + k) = entSet ((s.ent c.table c.pipe r).take 23) 20 3 3 0) ∧
    (∀ r, c.index ≤ r → r < c.index + n → (if up = true then c.index + n ≤ r + k else r < c.index + k) →
      t.rowFree c.eg c.pipe r = true) ∧
    (∀ ti p r, ti ≠ c.table ∨ tblPipe ti p ≠ c.pipe ∨ r < c.index - k ∨ c.index + n + k ≤ r → t.ent ti p r = s.ent ti p r) ∧ EntryOnly s t) ∧
  (∀ (s : State) (c : Cmd), s.takes 0x1A c → s.mirShort (s.cmdNeed c) = false → c.catArgs = true → c.index + bitsOf (c.w 3) 13 0 ≤ catSize c.eg →
    s.moveArgs c c.index (bitsOf (c.w 3) 13 0) 0 (bitOf (c.w 3) 28) = true → bitsOf (c.w 3) 27 14 = 0 → Gives .catMoveBlock s fun t =>
    Ended s t c stOK 0 ∧ CmdOnly s t ∧ t.rd fCAT_MOVE_STATUS_LAST_STEPS c.pipe = 0)

/-- R75, R141, R148, R209 to R211, R215, R289, R290, R365, R378, R395: the Clerk's other commands. The order of the
refusals of the arming commands, PORT_FORGET of any port below 256, what EDITION_RETIRE counts and the index of MIRROR_RESYNC are the model's choices
(assumption log 29); the row AGE_SWEEP_CHUNK with hits is assumption log 47. -/
def Obligations.ClerkSystem : Prop :=
  (∀ (s : State) (c : Cmd), s.takes 0x20 c → s.edState (!s.edNow) = 0 → Gives .editionOpen s fun t =>
    Ended s t c stOK (b2n (!s.edNow)) ∧ t.edState (!s.edNow) = 1 ∧ t.edNum (!s.edNow) = bitsOf (c.w 2) 15 0 ∧ CmdOnly s t ∧
    SameBits s t ([(fEdState (!s.edNow)).loc, (if s.edNow = true then fCLE_ED_NUM_NUM_A else fCLE_ED_NUM_NUM_B).loc] ++ c.endRegs)) ∧
  (∀ (s : State) (c : Cmd), s.takes 0x20 c → s.edState (!s.edNow) ≠ 0 → Gives .editionOpen s fun t =>
    Ended s t c stCONFLICT 0 ∧ CmdOnly s t ∧ SameBits s t c.endRegs) ∧
  (∀ (s : State) (c : Cmd), s.takes 0x21 c → s.kindArmed .edition = false → s.ed.imm = none → s.edState (!s.edNow) = 1 → bitOf (c.w 5) 0 = true →
    c.time ≠ none → Gives .editionArm s fun t =>
    t.ed.imm = some (s.immTime, c) ∧ s.tim.ct + ns 2000 ≤ s.immTime ∧ s.immTime < s.tim.ct + ns 3000 ∧ t.edState (!s.edNow) = 2 ∧
    t = { s with regs := t.regs, ed := { s.ed with imm := t.ed.imm }, clerk := { s.clerk with work := .idle, hold := t.clerk.hold } } ∧
    SameBits s t [(fEdState (!s.edNow)).loc]) ∧
  (∀ (s : State) (c : Cmd) (at_ k : Nat), s.takes 0x21 c → s.kindArmed .edition = false → s.ed.imm = none → s.edState (!s.edNow) = 1 →
    bitOf (c.w 5) 0 = false → c.time = some at_ → s.blockRuns .TIM = true → s.tstate ≠ 0 → s.tim.ct + ns 2000 ≤ at_ → s.freeSlot = some k →
    Gives .editionArm s fun t =>
    t.trig? k = some ⟨k, .edition, at_, 0, some c, 0⟩ ∧ t.edState (!s.edNow) = 2 ∧ t.rd fTIM_TRIG_CTRL_ARMED 0 k = 1 ∧
    t.rd fTIM_TRIG_CTRL_KIND 0 k = 1 ∧
    t = { s with regs := t.regs, tim := { s.tim with trigs := t.tim.trigs }, clerk := { s.clerk with work := .idle, hold := t.clerk.hold } } ∧
    SameBits s t [(fEdState (!s.edNow)).loc, fTIM_TRIG_CTRL_ARMED.loc 0 k, fTIM_TRIG_CTRL_KIND.loc 0 k, Reg.loc .TIM_TRIG_TIME 0 k 0,
      Reg.loc .TIM_TRIG_TIME 0 k 1, Reg.loc .TIM_TRIG_TIME 0 k 2, Reg.loc .TIM_TRIG_INTERVAL 0 k 0, Reg.loc .TIM_TRIG_INTERVAL 0 k 1]) ∧
  (∀ (s : State) (c : Cmd), s.takes 0x21 c → c.time = none → Gives .editionArm s fun t =>
    Ended s t c stBAD_ARGS 0 ∧ CmdOnly s t ∧ SameBits s t c.endRegs) ∧
  (∀ (s : State) (c : Cmd), s.takes 0x21 c → c.time ≠ none → s.kindArmed .edition = true ∨ s.ed.imm ≠ none →
    Gives .editionArm s fun t =>
    Ended s t c stEXISTS 0 ∧ CmdOnly s t ∧ SameBits s t c.endRegs) ∧
  (∀ (s : State) (c : Cmd), s.takes 0x22 c → s.mirShort (s.cmdNeed c) = false → s.edState (!s.edNow) = 1 → c.w 2 = sweepAll - 1 → Gives .editionRetire s fun t =>
    Ended s t c stOK (s.rd (if s.edNow = true then fFAR_PORT_DEF_A_V else fFAR_PORT_DEF_B_V) 7 32) ∧ t.edState (!s.edNow) = 0 ∧
    t.rd (if s.edNow = true then fFAR_PORT_DEF_A_V else fFAR_PORT_DEF_B_V) 7 32 = 0 ∧ t.tables = s.tables ∧
    Told s t (s.eventRec 0x33 15 0 (s.edNum (!s.edNow) + b2n (!s.edNow) * 2 ^ 16) 0 0 0 s.tim.ct) ∧
    SameBits s t ([(fEdState (!s.edNow)).loc, (if s.edNow = true then fFAR_PORT_DEF_A_V else fFAR_PORT_DEF_B_V).loc 7 32] ++ c.endRegs)) ∧
  (∀ (s : State) (c : Cmd), s.takes 0x22 c → s.mirShort (s.cmdNeed c) = false → s.edState (!s.edNow) = 1 → c.w 2 = 0 → s.mirShort 2 = false →
    (∀ i < 64, entB (s.ent 0x01 0 i) 6 (8 + b2n (!s.edNow)) = false) →
    (∀ i < 4032, entB (s.ent 0x1A 0 i) 20 (1 + b2n (!s.edNow)) = false) → Gives .editionRetire s fun t =>
    t.edState (!s.edNow) = 7 ∧ t = { s with regs := t.regs, clerk := { s.clerk with work := .idle, chunked := s.clerk.chunked ++ [{ c with begun := true, next := 4096, acc := 0 }] } } ∧
    SameBits s t [(fEdState (!s.edNow)).loc]) ∧
  (∀ (s : State) (c : Cmd), s.takes 0x22 c → s.mirShort (s.cmdNeed c) = false → c.w 2 < sweepAll → s.edState (!s.edNow) = 0 → Gives .editionRetire s fun t =>
    Ended s t c stCONFLICT 0 ∧ CmdOnly s t ∧ SameBits s t c.endRegs) ∧
  (∀ (s : State) (c : Cmd), s.takes 0x22 c → s.mirShort (s.cmdNeed c) = false → sweepAll ≤ c.w 2 → Gives .editionRetire s fun t =>
    Ended s t c stBAD_ARGS 0 ∧ CmdOnly s t ∧ SameBits s t c.endRegs) ∧
  (∀ (s : State) (c : Cmd), s.takes 0x28 c → s.mirShort (s.cmdNeed c) = false → c.pipe < 8 → c.w 2 = 532479 →
    bridgeV (s.ent 0x0C c.pipe 532479) = false ∨ bridgeStatic (s.ent 0x0C c.pipe 532479) = true → Gives .ageSweep s fun t =>
    Ended s t c stOK 0 ∧ CmdOnly s t ∧
    t.rd fBRS_AGE_STATUS_SWEEPS c.pipe = (s.rd fBRS_AGE_STATUS_SWEEPS c.pipe + 1) % 2 ^ (fBRS_AGE_STATUS_SWEEPS.hi + 1 - fBRS_AGE_STATUS_SWEEPS.lo) ∧
    SameBits s t (fBRS_AGE_STATUS_SWEEPS.loc c.pipe :: c.endRegs)) ∧
  (∀ (s : State) (c : Cmd), s.takes 0x28 c → s.mirShort (s.cmdNeed c) = false → c.pipe < 8 → c.w 2 = 532479 → bridgeV (s.ent 0x0C c.pipe 532479) = true →
    bridgeStatic (s.ent 0x0C c.pipe 532479) = false → s.on fBRS_LEARN_CFG_EVT_AGE c.pipe = false → Gives .ageSweep s fun t =>
    (s.hitBit c.pipe 532479 = true → Ended s t c stOK 0 ∧ t.hitBit c.pipe 532479 = false ∧ t.tables = s.tables ∧ t.cnts = s.cnts) ∧
    (s.hitBit c.pipe 532479 = false → Ended s t c stOK 1 ∧ t.ent 0x0C c.pipe 532479 = zeros 3 ∧ EntriesBut s t [(0x0C, c.pipe, 532479)] ∧
      CountsUp s t [((14, c.pipe * 1024 + 170, 0), 1)])) ∧
  (∀ (s : State) (c : Cmd), s.takes 0x29 c → s.mirShort (s.cmdNeed c) = false → bitsOf (c.w 2) 8 0 < 256 → c.w 3 = 532479 →
    s.on fBRS_LEARN_CFG_EVT_AGE (bitsOf (c.w 2) 8 0 / 32) = false → Gives .portForget s fun t =>
    (bridgeV (s.ent 0x0C (bitsOf (c.w 2) 8 0 / 32) 532479) = true → bridgeStatic (s.ent 0x0C (bitsOf (c.w 2) 8 0 / 32) 532479) = false →
      entF (s.ent 0x0C (bitsOf (c.w 2) 8 0 / 32) 532479) 2 16 14 = dtPORT →
      entF (s.ent 0x0C (bitsOf (c.w 2) 8 0 / 32) 532479) 2 13 0 = bitsOf (c.w 2) 8 0 →
      Ended s t c stOK 1 ∧ t.ent 0x0C (bitsOf (c.w 2) 8 0 / 32) 532479 = zeros 3 ∧
        EntriesBut s t [(0x0C, bitsOf (c.w 2) 8 0 / 32, 532479)] ∧ CountsUp s t [((14, bitsOf (c.w 2) 8 0 / 32 * 1024 + 172, 0), 1)]) ∧
    (bridgeV (s.ent 0x0C (bitsOf (c.w 2) 8 0 / 32) 532479) = false ∨ bridgeStatic (s.ent 0x0C (bitsOf (c.w 2) 8 0 / 32) 532479) = true ∨
      entF (s.ent 0x0C (bitsOf (c.w 2) 8 0 / 32) 532479) 2 16 14 ≠ dtPORT ∨
      entF (s.ent 0x0C (bitsOf (c.w 2) 8 0 / 32) 532479) 2 13 0 ≠ bitsOf (c.w 2) 8 0 →
      Ended s t c stOK 0 ∧ CmdOnly s t ∧ SameBits s t c.endRegs)) ∧
  (∀ (s : State) (port i : Nat), s.clerk.work = .forget port → s.mirFull = false → AMap.get? s.clerk.forgets port = some i → i < 532480 →
    (∀ k, i ≤ k → k < min ((i / 4096 + 1) * 4096) 532480 →
      bridgeV (s.ent 0x0C (port / 32) k) = false ∨ bridgeStatic (s.ent 0x0C (port / 32) k) = true) → Gives .portForget s fun t =>
    AMap.get? t.clerk.forgets port = (if 532480 ≤ (i / 4096 + 1) * 4096 then none else some ((i / 4096 + 1) * 4096)) ∧
    t = { s with clerk := { s.clerk with work := .idle, forgets := t.clerk.forgets } }) ∧
  (∀ (s : State) (c : Cmd), s.takes 0x2A c → tableArgs c.table c.pipe (c.w 2) = true → c.table ≠ 0x38 → c.table ≠ 0x39 →
    c.w 2 < tblEntries c.table → s.flt.marks = [] → Gives .scrub s fun t =>
    (tblEntries c.table ≤ c.w 2 + 4096 → Ended s t c stOK 0 ∧ CmdOnly s t ∧ SameBits s t c.endRegs) ∧
    (c.w 2 + 4096 < tblEntries c.table → t = { s with clerk := { s.clerk with work := .idle, chunked := s.clerk.chunked ++ [{ c with begun := true, next := c.w 2 + 4096, acc := 0 }] } })) ∧
  (∀ (s : State) (c : Cmd) (rep i : Nat), s.takes 0x2A c → c.table = 0x10 → c.w 2 = 0 → i < 4096 →
    s.flt.marks = [(0x0D, 15, rep, i, false)] → s.lrn.repairs = [] → Gives .scrub s fun t =>
    Ended s t c stOK 1 ∧ t.lrn.repairs = [⟨0, 0x10, 15, i, 0, .a, none, [], [], [], 0, 0⟩] ∧ t.tables = s.tables) ∧
  (∀ (s : State) (c : Cmd) (at_ k : Nat), s.takes 0x30 c → c.time = some at_ → s.on fARC_CFG_SNAP_EN = true → s.on fDRM_STATUS_READY = true →
    c.w 5 + c.w 6 * 2 ^ 32 = 0 ∨ 100000 ≤ c.w 5 + c.w 6 * 2 ^ 32 → bitOf (c.w 7) 0 = false → s.kindArmed .snapshot = false →
    s.blockRuns .TIM = true → s.tstate ≠ 0 → s.tim.ct + ns 2000 ≤ at_ → s.freeSlot = some k → Gives .snapshotAt s fun t =>
    Ended s t c stOK k ∧ t.trig? k = some ⟨k, .snapshot, at_, c.w 5 + c.w 6 * 2 ^ 32, none, bitsOf (c.w 7) 15 0⟩ ∧
    t.rd fARC_SNAP_STATUS_ARMED = 1 ∧ t.rd fTIM_TRIG_CTRL_ARMED 0 k = 1 ∧ t.rd fTIM_TRIG_CTRL_KIND 0 k = 3 ∧
    SameBits s t ([fARC_SNAP_STATUS_ARMED.loc, fTIM_TRIG_CTRL_ARMED.loc 0 k, fTIM_TRIG_CTRL_KIND.loc 0 k, Reg.loc .TIM_TRIG_TIME 0 k 0,
      Reg.loc .TIM_TRIG_TIME 0 k 1, Reg.loc .TIM_TRIG_TIME 0 k 2, Reg.loc .TIM_TRIG_INTERVAL 0 k 0, Reg.loc .TIM_TRIG_INTERVAL 0 k 1] ++ c.endRegs)) ∧
  (∀ (s : State) (c : Cmd) (at_ : Nat), s.takes 0x30 c → c.time = some at_ →
    s.on fARC_CFG_SNAP_EN = false ∨ s.on fDRM_STATUS_READY = false ∨ bitOf (c.w 7) 0 = true → Gives .snapshotAt s fun t =>
    Ended s t c stBAD_ARGS 0 ∧ CmdOnly s t ∧ SameBits s t c.endRegs) ∧
  (∀ (s : State) (c : Cmd), s.takes 0x31 c → c.table ∈ [3, 4, 5, 6, 7, 8, 9, 10, 11, 12, 13, 14] → c.w 3 = 1 → c.w 2 < (setInfo c.table).1 →
    s.flt.marks = [] → s.settle = s → Gives .counterRead s fun t =>
    Ended s t c stOK ((setInfo c.table).2 * 8) ∧
    Handed s t c ((List.range (setInfo c.table).2).flatMap fun i =>
      [word (s.cntRead c.table (c.w 2) i), word (s.cntRead c.table (c.w 2) i / 2 ^ 32)]) ∧
    t = { s with regs := t.regs, clerk := { s.clerk with work := .idle, hold := t.clerk.hold, tawLeft := t.clerk.tawLeft }, hst := { s.hst with compl := t.hst.compl, out := t.hst.out } } ∧ SameBits s t (c.endRegs ++ c.dataRegs)) ∧
  (∀ (s : State) (c : Cmd), s.takes 0x31 c → (setInfo c.table).1 < c.w 2 + c.w 3 → Gives .counterRead s fun t =>
    Ended s t c stBAD_ARGS 0 ∧ CmdOnly s t ∧ SameBits s t c.endRegs) ∧
  (∀ (s : State) (c : Cmd) (at_ k : Nat), s.takes 0x38 c → c.time = some at_ → bitsOf (c.w 5) 2 0 < 7 →
    bitOf (s.rd fFOL_TACK_AVAIL_LIVE) (bitsOf (c.w 5) 2 0) = true → s.tackForeign c.master (bitsOf (c.w 5) 2 0) = false →
    s.kindArmed .tack = false → s.blockRuns .TIM = true → s.tstate ≠ 0 → s.tim.ct + ns 1000000 ≤ at_ → s.freeSlot = some k →
    Gives .tackSelectAt s fun t =>
    t.trig? k = some ⟨k, .tack, at_, 0, some c, bitsOf (c.w 5) 2 0⟩ ∧ t.fol.pend = s.tackFields (bitsOf (c.w 5) 2 0) ∧
    t.rd fFOL_TACK_STATUS_ARMED = 1 ∧ t.rd fFOL_TACK_STATUS_LOADED = 0 ∧ t.rd fFOL_TACK_STATUS_TARGET = bitsOf (c.w 5) 2 0 ∧
    t = { s with regs := t.regs, tim := { s.tim with trigs := t.tim.trigs }, fol := { s.fol with pend := t.fol.pend }, clerk := { s.clerk with work := .idle, hold := t.clerk.hold } }) ∧
  (∀ (s : State) (c : Cmd), s.takes 0x38 c → c.time = none → Gives .tackSelectAt s fun t =>
    Ended s t c stBAD_ARGS 0 ∧ CmdOnly s t ∧ SameBits s t c.endRegs) ∧
  (∀ (s : State) (c : Cmd), s.takes 0x3C c → c.isTaw = false → c.w 3 = 4 * c.data.length → patchOk c.data = true → Gives .patchLoad s fun t =>
    t.clerk.patches = s.clerk.patches ++ [⟨c, c.data, false⟩] ∧ t.holdOf c.src = s.holdOf c.src ++ [.waiting c.seq] ∧
    t = { s with clerk := { s.clerk with work := .idle, patches := t.clerk.patches, hold := t.clerk.hold } }) ∧
  (∀ (s : State) (c : Cmd), s.takes 0x3C c → c.isTaw = true ∨ c.w 3 ≠ 4 * c.data.length ∨ patchOk c.data = false → Gives .patchLoad s fun t =>
    Ended s t c stBAD_ARGS 0 ∧ CmdOnly s t ∧ SameBits s t c.endRegs) ∧
  (∀ (s : State) (k : List Word), (∀ x ∈ s.clerk.patches, x.verified = true) → exec (.patchVerifyDone k) s = .next s) ∧
  (∀ (s : State) (x : Patch) (k : List Word), s.clerk.patches = [x] → x.verified = false →
    s.fol.fuses.secure = false ∨ (s.keySlotOf k).isSome = true ∧ signatureOk k (x.words.drop (x.words.length - 24)) (patchDigest x.words) = true →
    exec (.patchVerifyDone k) s = .next { s with clerk := { s.clerk with patches := [{ x with verified := true }] } }) ∧
  (∀ (s : State) (x : Patch) (k : List Word) (h : HostId) (pr : Bool), s.clerk.patches = [x] → x.verified = false → s.clerk.work = .idle →
    x.cmd.src = .ring h pr → s.fol.fuses.secure = true →
    s.keySlotOf k = none ∨ signatureOk k (x.words.drop (x.words.length - 24)) (patchDigest x.words) = false →
    Gives (.patchVerifyDone k) s fun t =>
    Ended s t x.cmd stAUTH_FAIL 0 ∧ t.clerk.patches = [] ∧ Raised t .CLE_PATCH_AUTH ∧ t.clerk.storeRam = s.clerk.storeRam ∧
    SameBits s t x.cmd.endRegs) ∧
  (∀ (s : State) (x : Patch), s.clerk.work = .patch → s.clerk.patches = [x] → x.verified = true → Gives .patchInstall s fun t =>
    Ended s t x.cmd stOK (bitsOf (x.words.getD 1 0).toNat 31 16) ∧ t.clerk.patches = [] ∧
    t.clerk.storeRam = patchWords (patchCount x.words) (bitsOf (x.words.getD 3 0).toNat 13 0) (x.words.drop (16 + patchMaps x.words)) ∧
    (∀ i < 64, t.rg .CLE_PATCH_MAP 0 i = ((x.words.drop 16).take (patchMaps x.words)).getD i 0) ∧
    t.rd fCLE_UCODE_VER_PATCH_ID = (if patchMaps x.words = 0 ∧ patchCount x.words = 0 then 0 else bitsOf (x.words.getD 1 0).toNat 31 16) ∧
    (∀ i < 12, patchMaps x.words = 0 → patchCount x.words = 0 → t.rg .CLE_UCODE_DIGEST 0 i = 0)) ∧
  (∀ (s : State), s.clerk.work ≠ .patch → exec .patchInstall s = .next s) ∧
  (∀ (s : State) (c : Cmd), s.takes 0x3D c → s.mirShort (s.cmdNeed c) = false → bitOf (c.w 2) 0 = false → s.on (mirEn .a) = true → c.w 3 = resyncAll - 1 →
    s.hst.lost = [] → Gives .mirrorResync s fun t =>
    Ended s t c stOK 1 ∧ t.on (mirValid .a) = true ∧ t.on (mirResync .a) = false ∧ (t.mirQ .a).queue.length = (s.mirQ .a).queue.length + 1 ∧
    t.tables = s.tables) ∧
  (∀ (s : State) (c : Cmd), s.takes 0x3D c → s.mirShort (s.cmdNeed c) = false → bitOf (c.w 2) 0 = true → s.on (mirEn .b) = false ∨ resyncAll ≤ c.w 3 →
    Gives .mirrorResync s fun t => Ended s t c stBAD_ARGS 0 ∧ CmdOnly s t ∧ SameBits s t c.endRegs) ∧
  (∀ (s : State) (c : Cmd) (port : Nat), s.takes 0x3E c → port = bitsOf (c.w 2) 8 0 → s.portExists port = true →
    s.prt fPRT_CFG_ADMIN port = b2n (bitOf (c.w 2) 9) → Gives .portAdmin s fun t =>
    Ended s t c stOK (s.portState port) ∧ t.prt fPRT_CFG_ADMIN port = b2n (bitOf (c.w 2) 9) ∧
    t.prt fPRT_CFG_FORGET_ON_DOWN port = (if bitOf (c.w 2) 11 = true then b2n (bitOf (c.w 2) 10) else s.prt fPRT_CFG_FORGET_ON_DOWN port) ∧
    CmdOnly s t ∧ SameBits s t (fPRT_CFG_FORGET_ON_DOWN.ofPort port :: c.endRegs)) ∧
  (∀ (s : State) (c : Cmd) (port : Nat), s.takes 0x3E c → port = bitsOf (c.w 2) 8 0 → port < 256 → s.portExists port = true →
    bitOf (c.w 2) 9 = true → bitOf (c.w 2) 11 = false → s.prt fPRT_CFG_ADMIN port = 0 → s.portState port = psDISABLED → port ∉ s.ports.safe →
    Gives .portAdmin s fun t =>
    Ended s t c stOK psDOWN ∧ t.prt fPRT_CFG_ADMIN port = 1 ∧ t.portState port = psDOWN ∧ CmdOnly s t ∧
    SameBits s t ([fPRT_CFG_ADMIN.ofPort port, fPRT_STATE_STATE.ofPort port] ++ c.endRegs)) ∧
  (∀ (s : State) (c : Cmd), s.takes 0x3E c → s.portExists (bitsOf (c.w 2) 8 0) = false → Gives .portAdmin s fun t =>
    Ended s t c stBAD_ARGS 0 ∧ CmdOnly s t ∧ SameBits s t c.endRegs) ∧
  (∀ (s : State) (c : Cmd) (d n : Nat), s.takes 0x3F c → d = bitsOf (c.w 2) 5 0 → n = bitsOf (c.w 2) 13 12 → Gives .claimDomain s fun t =>
    (s.casOk c.master d (bitsOf (c.w 2) 9 8) n (bitOf (c.w 2) 16) = true → Ended s t c stOK n ∧ t.owner d = n) ∧
    (s.casOk c.master d (bitsOf (c.w 2) 9 8) n (bitOf (c.w 2) 16) = false → Ended s t c stCONFLICT (s.owner d) ∧ t.owner d = s.owner d) ∧
    (∀ q, q ≠ d → t.owner q = s.owner q) ∧ CmdOnly s t ∧ SameBits s t (Reg.GEN_OWNER_MAP.loc 0 (d / 16) :: c.endRegs)) ∧
  (∀ (s : State) (c : Cmd) (hits : List Nat), s.takes 0x28 c → s.mirShort (s.cmdNeed c) = false → c.pipe < 8 → c.w 2 = 532479 →
    bridgeV (s.ent 0x0C c.pipe 532479) = true → bridgeStatic (s.ent 0x0C c.pipe 532479) = false → s.hitBit c.pipe 532479 = false → 532479 ∈ hits →
    Gives (.ageSweepChunk hits) s fun t =>
    Ended s t c stOK 0 ∧ t.hitBit c.pipe 532479 = true ∧ t.tables = s.tables ∧ CountsUp s t [((14, c.pipe * 1024 + 171, 0), 1)])

/-- R380, R381, R382, R384, R387, R388, R397, R439, R449: boot up to the choice of a copy. -/
def Obligations.BootImage : Prop :=
  (∀ (s : State) (a b c : Nat), s.ckr.held = false → exec (.resetRelease a b c) s = .next s) ∧
  (∀ (s : State) (a b c : Nat), s.ckr.held = true → s.ckr.refLost = false → Gives (.resetRelease a b c) s fun t =>
    t.ckr = { s.ckr with held := false } ∧ t.fol.tackSel = a % 8 ∧ t.fol.hostMode = b % 4 ∧ t.fol.bootSrc = c % 2 ∧
    t.rd fGEN_STRAPS_TACK_SEL = a % 8 ∧ t.rd fGEN_STRAPS_HOST_MODE = b % 4 ∧ t.rd fGEN_STRAPS_BOOT_SRC = c % 2 ∧
    t.rd fHST_MODE_HOST_MODE = b % 4 ∧ t.runs 0 = true ∧ t.rd fFOL_BOOT_STATUS_STATE = 1 ∧ t.rd fFOL_BOOT_STATUS_TACK = 7 ∧
    t.rd fFOL_COPY_STATUS_CAUSE_A = 8 ∧ t.rd fFOL_COPY_STATUS_CAUSE_B = 8 ∧ t.rd fFOL_OTP_POLICY_KEY_USED = 4 ∧
    t = { s with regs := t.regs, fol := t.fol, ckr := t.ckr }) ∧
  (∀ (s : State) (a b c : Nat), s.ckr.held = true → s.ckr.refLost = true → Gives (.resetRelease a b c) s fun t =>
    t.ckr.held = false ∧ t.fol = { s.fol with tackSel := a % 8, hostMode := b % 4, bootSrc := c % 2 } ∧
    t.rd fFOL_BOOT_STATUS_STATE = s.rd fFOL_BOOT_STATUS_STATE ∧ SameBits s t [Reg.loc .GEN_STRAPS, fHST_MODE_HOST_MODE.loc]) ∧
  (∀ (s : State) (f : Fuses) (v : Nat), s.rd fFOL_BOOT_STATUS_STATE ≠ 1 → exec (.bootFusesDone f v) s = .next s) ∧
  (∀ (s : State) (f : Fuses) (v : Nat), s.rd fFOL_BOOT_STATUS_STATE = 1 → s.rd fCKR_RESET_STATUS_CAUSE < 3 → s.fol.tamper = false →
    s.ckr.waits = [] → f.bad = [] → f.rollback < 2 ^ 64 → f.keyRevoke < 16 → partVdd v = true → s.fol.tackSel < 8 → s.fol.otp = none → s.fol.burnt = [] →
    Gives (.bootFusesDone f v) s fun t =>
    t.rd fFOL_BOOT_STATUS_STATE = (if s.fol.tackSel = 7 then 4 else 2) ∧
    t.fol = { s.fol with fuses := f, otp := some (f, v), tack := s.fol.tackSel, short := decide (s.fol.tackSel = 7), readRc := s.tim.rc } ∧ t.pin = { s.pin with squelch := false } ∧
    t.on fFOL_OTP_POLICY_SECURE = f.secure ∧ t.on fFOL_OTP_POLICY_DEBUG_LOCK = f.debugLock ∧ t.rd fFOL_OTP_POLICY_ROLLBACK = (List.range 64).countP (fun b => bitOf f.rollback b) ∧
    t.rd fFOL_OTP_POLICY_KEY_REVOKED = f.keyRevoke ∧ t.rd fRAT_AVS_VDD_MV = v ∧ t.on fRAT_AVS_VALID = true ∧
    t.on fCKR_PLL_STATUS_CCLK_LOCK = true ∧ t.on fCKR_PLL_STATUS_DCLK_LOCK = true ∧ t.runs 1 = true ∧
    (∀ p < 8, t.runs (8 + p) = (s.runs (8 + p) || !s.stopSet (8 + p)) ∧ AMap.get? t.ckr.trainAt p = some s.tim.rc) ∧
    t.flt = s.flt ∧ t.tables = s.tables) ∧
  (∀ (s : State) (f g : Fuses) (v w : Nat), s.rd fFOL_BOOT_STATUS_STATE = 1 → s.rd fCKR_RESET_STATUS_CAUSE < 3 → s.ckr.waits = [] → f.bad = [] →
    partVdd w = true → s.fol.otp = some (g, w) → Gives (.bootFusesDone f v) s fun t =>
    t.rd fRAT_AVS_VDD_MV = w ∧ t.fol.fuses = { Fuses.programmed g s.fol.burnt with bad := [] } ∧ t.fol.burnt = [] ∧
    (s.fol.burnt = [] → t.fol.fuses = { g with bad := [] }) ∧ (g.secure = true → t.on fFOL_OTP_POLICY_SECURE = true)) ∧
  (∀ (s : State) (f : Fuses) (v : Nat), s.fol.otp = none → v < 680 ∨ 820 < v ∨ v % 5 ≠ 0 → exec (.bootFusesDone f v) s = .next s) ∧
  (∀ (s : State) (f : Fuses) (v : Nat), s.rd fFOL_BOOT_STATUS_STATE = 1 → s.rd fCKR_RESET_STATUS_CAUSE < 3 → s.ckr.waits = [] →
    f.bad = [.secure] → partVdd v = true → s.fol.otp = none → s.fol.burnt = [] → Gives (.bootFusesDone f v) s fun t =>
    t.fol.fuses = { f with secure := true } ∧ t.on fFOL_OTP_POLICY_SECURE = true ∧ Raised t .OTP_PARITY) ∧
  (∀ (s : State) (n : Nat) (two : Bool) (a b : List Word), s.rd fFOL_BOOT_STATUS_STATE ≠ 2 ∨ s.runs 4 = false ∧ s.fol.readErr = false →
    exec (.bootHeadersRead n two a b) s = .next s) ∧
  (∀ (s : State) (n : Nat) (two : Bool) (a b : List Word), s.rd fFOL_BOOT_STATUS_STATE = 2 → s.runs 4 = true →
    s.fol.readErr = false → Gives (.bootHeadersRead n two a b) s fun t =>
    t.rd fFOL_BOOT_STATUS_STATE = 3 ∧ t.fol = { s.fol with flash := (n, two), heads := [a, b], readRc := s.tim.rc } ∧
    t.rd fFOL_COPY_STATUS_CAUSE_A = (if headCause a = 0 then s.rd fFOL_COPY_STATUS_CAUSE_A else headCause a) ∧
    t.rd fFOL_COPY_STATUS_CAUSE_B = (if headCause b = 0 then s.rd fFOL_COPY_STATUS_CAUSE_B else headCause b) ∧
    (headCause a ≠ 0 ∨ headCause b ≠ 0 → Raised t .FOL_COPY_BAD) ∧ (headCause a = 0 → headCause b = 0 → t.flt = s.flt) ∧
    t = { s with regs := t.regs, fol := t.fol, flt := { s.flt with crossing := t.flt.crossing } } ∧
    SameBits s t [fFOL_BOOT_STATUS_STATE.loc, fFOL_COPY_STATUS_CAUSE_A.loc, fFOL_COPY_STATUS_CAUSE_B.loc]) ∧
  (∀ (s : State) (n : Nat) (two : Bool) (a b : List Word), s.rd fFOL_BOOT_STATUS_STATE = 2 → s.fol.readErr = true →
    Gives (.bootHeadersRead n two a b) s fun t =>
    t.rd fFOL_BOOT_STATUS_STATE = 3 ∧ t.fol.heads = [[], []] ∧ t.fol.readErr = false ∧ Raised t .FOL_COPY_BAD ∧
    t.rd fFOL_COPY_STATUS_CAUSE_A = 1 ∧ t.rd fFOL_COPY_STATUS_CAUSE_B = 1) ∧
  (∀ (s : State) (ws k : List Word), s.rd fFOL_BOOT_STATUS_STATE ≠ 3 ∨ s.runs 4 = false ∧ s.fol.readErr = false → exec (.bootVerifyDone ws k) s = .next s) ∧
  (∀ (s : State) (ws k : List Word), s.rd fFOL_BOOT_STATUS_STATE = 3 → s.runs 4 = true → s.fol.readErr = false → s.copyOrder = [] → Gives (.bootVerifyDone ws k) s fun t =>
    t.rd fFOL_BOOT_STATUS_STATE = 4 ∧ t.fol = { s.fol with short := true, readRc := s.tim.rc } ∧ Raised t .FOL_NO_IMAGE ∧
    SameBits s t [fFOL_BOOT_STATUS_STATE.loc]) ∧
  (∀ (s : State) (ws k : List Word) (x : Nat) (l : List Nat), s.rd fFOL_BOOT_STATUS_STATE = 3 → s.runs 4 = true → s.fol.readErr = false → s.copyOrder = x :: l →
    s.copyCause ws ≠ 0 → Gives (.bootVerifyDone ws k) s fun t =>
    t.rd (copyField x) = s.copyCause ws ∧ Raised t .FOL_COPY_BAD ∧
    (l ≠ [] → t.fol = { s.fol with readRc := s.tim.rc } ∧ t.rd fFOL_BOOT_STATUS_STATE = 3 ∧ SameBits s t [(copyField x).loc]) ∧
    (l = [] → t.fol = { s.fol with short := true, readRc := s.tim.rc } ∧ t.rd fFOL_BOOT_STATUS_STATE = 4 ∧ Raised t .FOL_NO_IMAGE)) ∧
  (∀ (s : State) (ws k : List Word) (x : Nat) (l : List Nat), s.rd fFOL_BOOT_STATUS_STATE = 3 → s.runs 4 = true → s.fol.readErr = false → s.copyOrder = x :: l →
    s.copyCause ws = 0 → (dirUsed k).find? (fun d => d.2.ty == 3) = none → x < 2 → Gives (.bootVerifyDone ws k) s fun t =>
    t.rd fFOL_BOOT_STATUS_STATE = 4 ∧ t.rd (copyField x) = 0 ∧ t.rd fFOL_BOOT_STATUS_COPY = 1 + x ∧ t.rd fFOL_BOOT_SEQ_SEQ = folW ws 2 ∧
    t.fol.secs = ((dirUsed k).filter fun d => d.2.ty == 1).map (fun d => (d.1, secWords k d.2)) ++
      ((dirUsed k).filter fun d => d.2.ty == 2 && d.2.tack == s.fol.tack).map (fun d => (d.1, secWords k d.2)) ∧
    t.fol.digest = sha384 ((wordsBytes ws).take (folLength ws - 96)) ∧ t.fol.range = some ((if x = 1 ∧ s.fol.flash.2 = true then 1 else 0),
      (if x = 0 ∨ s.fol.flash.2 = true then 0 else s.fol.flash.1 / 2), folLength ws) ∧
    t.fol.store = ((tackStore k).map fun y => y.2.map fun f => (y.1, f)).flatten ∧
    ((dirUsed k).all (fun d => !(d.2.ty == 2 && d.2.tack == s.fol.tack)) = true →
      t.rd fFOL_BOOT_STATUS_NO_TACK = 1 ∧ Raised t .FOL_NO_TACK) ∧
    t.on fCLE_STATUS_READY = true ∧ t.tables = s.tables ∧ t.clerk = { s.clerk with shadow := true }) ∧
  (∀ (s : State) (ws : List Word), headCause ws = 0 → s.fol.fuses.secure = true → (s.copyCause ws = 0 ↔
    Fuses.version s.fol.fuses ≤ bitsOf (folW ws 4) 7 0 ∧ dirOk ws s.copyMost = true ∧ secsOk ws = true ∧ (s.keySlot ws).isSome = true ∧
    signatureOk ((ws.take 32).drop 8) ((ws.drop ((folLength ws - 96) / 4)).take 24) (sha384 ((wordsBytes ws).take (folLength ws - 96))) = true))

/-- R380, R383, R389 to R392: the records, the end of boot, and the operations on flash and fuses. The timeout of a WAIT as it stands for every n and
REFUSED unchanged by a malformed record are the model's choices (assumption log 28). -/
def Obligations.BootApply : Prop :=
  (∀ s : State, s.rd fFOL_BOOT_STATUS_STATE ≠ 4 ∨ s.fol.wait.isSome = true ∨ s.fol.secs = [] ∨ s.fol.readErr = true ∨ s.runs 4 = false →
    exec .bootApplyRecord s = .next s) ∧
  (∀ (s : State) (sec : Nat) (l : List (Nat × List Word)), s.rd fFOL_BOOT_STATUS_STATE = 4 → s.fol.wait = none → s.runs 4 = true → s.fol.readErr = false → s.fol.secs = (sec, []) :: l →
    s.fol.rec_ = none → exec .bootApplyRecord s = .next { s with fol := { s.fol with secs := l } }) ∧
  (∀ (s : State) (sec n q : Nat) (l : List (Nat × List Word)) (ws : List Word) (r : Reg) (p i j k : Nat) (m v : Word),
    s.rd fFOL_BOOT_STATUS_STATE = 4 → s.fol.wait = none → s.runs 4 = true → s.fol.readErr = false → s.fol.rec_ = some ⟨1, 0, q, n + 1, 3, 0⟩ →
    s.fol.secs = (sec, word (r.addr p i j k) :: m :: v :: ws) :: l → r ∈ plainRegs → r.desc.block ≠ .HST → s.blockRuns r.desc.block = true →
    regAt (r.addr p i j k) = some ⟨r, p, i, j, k⟩ → Gives .bootApplyRecord s fun t =>
    (∀ f ∈ r.desc.fields, f.acc = .rw → bitsOf (t.rg r p i j k).toNat f.hi f.lo = bitsOf ((s.rg r p i j k &&& ~~~m) ||| (v &&& m)).toNat f.hi f.lo) ∧
    t.fol = { s.fol with secs := (sec, ws) :: l, rec_ := if n = 0 then none else some ⟨1, 0, q, n, 3, 1⟩ } ∧
    t = { s with regs := t.regs, fol := t.fol } ∧ SameBits s t [r.loc p i j k]) ∧
  (∀ (s : State) (sec : Nat) (l : List (Nat × List Word)) (ws : List Word) (a m v : Word),
    s.rd fFOL_BOOT_STATUS_STATE = 4 → s.fol.wait = none → s.runs 4 = true → s.fol.readErr = false → s.fol.rec_ = some ⟨1, 0, 0, 1, 3, 0⟩ →
    s.fol.secs = (sec, a :: m :: v :: ws) :: l → (blockAt a.toNat).map (fun x => x.1) = some .HST →
    s.on fFOL_BOOT_ERR_VALID = false → sec < 16 → Gives .bootApplyRecord s fun t =>
    t.rd fFOL_BOOT_STATUS_REFUSED = s.satUp fFOL_BOOT_STATUS_REFUSED ∧ t.on fFOL_BOOT_ERR_VALID = true ∧
    t.rd fFOL_BOOT_ERR_CAUSE = Cause.code .badAccess ∧ t.rd fFOL_BOOT_ERR_SECTION = sec ∧ t.rd fFOL_BOOT_ERR_ADDR_ADDR = a.toNat ∧
    Raised t .FOL_RECORD ∧ t.fol = { s.fol with secs := (sec, ws) :: l, rec_ := none } ∧
    SameBits s t [fFOL_BOOT_STATUS_REFUSED.loc, Reg.loc .FOL_BOOT_ERR, Reg.loc .FOL_BOOT_ERR_ADDR]) ∧
  (∀ (s : State) (sec : Nat) (l : List (Nat × List Word)) (ws : List Word) (m v : Word),
    s.rd fFOL_BOOT_STATUS_STATE = 4 → s.fol.wait = none → s.runs 4 = true → s.fol.readErr = false → s.fol.rec_ = some ⟨1, 0, 0, 1, 3, 0⟩ →
    s.fol.secs = (sec, word (Reg.addr .FOL_FL_CTRL) :: m :: v :: ws) :: l → s.fol.flOp = none → Gives .bootApplyRecord s fun t =>
    t.fol.flOp = none ∧ t.on fFOL_FL_CTRL_BUSY = s.on fFOL_FL_CTRL_BUSY) ∧
  (∀ (s : State) (sec i : Nat) (l : List (Nat × List Word)) (e w : Word) (ws : List Word), s.rd fFOL_BOOT_STATUS_STATE = 4 → s.fol.wait = none → s.runs 4 = true → s.fol.readErr = false →
    s.fol.rec_ = none → s.fol.secs = (sec, word (2 + 0x10 * 2 ^ 8) :: 1 :: word i :: 1 :: e :: ws) :: l → i < 4096 → entReserved 0x10 [e] = false →
    s.entArgs 0x10 0 i (entClean 0x10 [e]) = true → w = e → Gives .bootApplyRecord s fun t =>
    t.ent 0x10 0 i = entClean 0x10 [e] ∧ EntriesBut s t [(0x10, 15, i)] ∧ t.fol = { s.fol with secs := (sec, ws) :: l } ∧ t.regs = s.regs) ∧
  (∀ (s : State) (sec n : Nat) (a m v : Word) (ws : List Word) (l : List (Nat × List Word)), s.rd fFOL_BOOT_STATUS_STATE = 4 → s.fol.wait = none → s.runs 4 = true → s.fol.readErr = false →
    s.fol.rec_ = none → s.fol.secs = (sec, word 4 :: word n :: a :: m :: v :: ws) :: l → n < 2 ^ 32 →
    exec .bootApplyRecord s = .next { s with fol := { s.fol with secs := (sec, ws) :: l, wait := some (a.toNat, m.toNat, v.toNat, s.tim.rc + ns (n * 1000000)) } }) ∧
  (∀ (s : State) (sec : Nat) (ws : List Word) (l : List (Nat × List Word)), s.rd fFOL_BOOT_STATUS_STATE = 4 → s.fol.wait = none → s.runs 4 = true → s.fol.readErr = false →
    s.fol.rec_ = none → s.fol.secs = (sec, ws) :: l → ws ≠ [] → recOf ws = none → Gives .bootApplyRecord s fun t =>
    t.fol = { s.fol with secs := l } ∧ Raised t .FOL_RECORD ∧ (s.on fFOL_BOOT_ERR_VALID = false → t.rd fFOL_BOOT_ERR_CAUSE = 10) ∧
    SameBits s t [Reg.loc .FOL_BOOT_ERR, Reg.loc .FOL_BOOT_ERR_ADDR]) ∧
  (∀ s : State, s.fol.wait = none → exec .bootWaitDone s = .next s) ∧
  (∀ (s : State) (r : Reg) (p i j k m v d : Nat), r ∈ plainRegs → regAt (r.addr p i j k) = some ⟨r, p, i, j, k⟩ →
    s.fol.wait = some (r.addr p i j k, m, v, d) → Gives .bootWaitDone s fun t =>
    ((s.rg r p i j k).toNat &&& m = v → t = { s with fol := { s.fol with wait := none } }) ∧
    ((s.rg r p i j k).toNat &&& m ≠ v → s.tim.rc < d → t = s) ∧
    ((s.rg r p i j k).toNat &&& m ≠ v → d ≤ s.tim.rc → t.fol = { s.fol with wait := none } ∧
      t.rd fFOL_BOOT_STATUS_REFUSED = s.satUp fFOL_BOOT_STATUS_REFUSED ∧ Raised t .FOL_RECORD ∧
      (s.on fFOL_BOOT_ERR_VALID = false → t.rd fFOL_BOOT_ERR_CAUSE = 7))) ∧
  (∀ (s : State) (ws : List Word), s.rd fFOL_BOOT_STATUS_STATE ≠ 4 → exec (.bootApplyEnd ws) s = .next s) ∧
  (∀ (s : State) (ws : List Word), s.fol.short = false → s.fol.readErr = false → s.fol.secs ≠ [] ∨ ws ≠ s.fol.again →
    exec (.bootApplyEnd ws) s = .next s) ∧
  (∀ (s : State) (ws : List Word), s.rd fFOL_BOOT_STATUS_STATE = 4 → s.fol.short = true → Gives (.bootApplyEnd ws) s fun t =>
    t.rd fFOL_BOOT_STATUS_STATE = 6 ∧ t.on fCLE_STATUS_READY = true ∧ t.pin.outHeld = false ∧ t.tables = s.tables ∧ t.fol = s.fol) ∧
  (∀ (s : State) (ws : List Word), s.rd fFOL_BOOT_STATUS_STATE = 4 → s.fol.short = false → s.fol.secs = [] → s.fol.wait = none →
    s.fol.readErr = false → ws = s.fol.again → s.copyChanged ws = false → Gives (.bootApplyEnd ws) s fun t =>
    t.rd fFOL_BOOT_STATUS_STATE = 5 ∧ t.on fCLE_STATUS_READY = true ∧ t.rd fFOL_TACK_STATUS_IN_FORCE = s.rd fFOL_BOOT_STATUS_TACK ∧
    t.rd fFOL_BOOT_TIME_MS = min 65535 ((s.tim.rc - s.fol.startRc) / ns 1000000) ∧ t.pin.outHeld = false ∧ t.tables = s.tables ∧ t.fol = s.fol) ∧
  (∀ (s : State) (ws : List Word), s.rd fFOL_BOOT_STATUS_STATE = 4 → s.fol.short = false → s.fol.readErr = true ∨ s.fol.secs = [] ∧ ws = s.fol.again ∧ s.copyChanged ws = true →
    Gives (.bootApplyEnd ws) s fun t =>
    t.rd fFOL_BOOT_STATUS_STATE = 0 ∧ t.rd fCKR_RESET_STATUS_CAUSE = 4 ∧ t.fol.tamper = true ∧ Raised t .FOL_TAMPER ∧ t.tables = [] ∧
    t.ckr.warmAt = some s.tim.rc) ∧
  (∀ (s : State) (m : Master) (cs op : Nat), s.passes m .FOL_FL_CTRL → s.on fFOL_FL_CTRL_BUSY = false → op < 3 →
    s.flashBusyRange op (cs % 2) (s.rd fFOL_FL_ADDR_ADDR) = false → Gives (.flashOp m cs op) s fun t =>
    t.rd fFOL_FL_CTRL_BUSY = 1 ∧ t.rd fFOL_FL_CTRL_CS = cs % 2 ∧ t.rd fFOL_FL_CTRL_OP = op ∧
    t.fol = { s.fol with flOp := some (op, cs % 2, s.rd fFOL_FL_ADDR_ADDR), flSince := s.tim.rc } ∧
    t = { s with regs := t.regs, fol := t.fol, hst := { s.hst with round := t.hst.round } } ∧
    SameBits s t [fFOL_FL_CTRL_BUSY.loc, fFOL_FL_CTRL_CS.loc, fFOL_FL_CTRL_OP.loc]) ∧
  (∀ (s : State) (m : Master) (cs op : Nat), s.passes m .FOL_FL_CTRL → s.on fFOL_FL_CTRL_BUSY = false → op < 3 →
    s.flashBusyRange op (cs % 2) (s.rd fFOL_FL_ADDR_ADDR) = true → s.hst.rejects.length < 16 → Gives (.flashOp m cs op) s fun t =>
    t.rd fFOL_FL_CTRL_ERR = 1 ∧ t.rd fFOL_FL_CTRL_BUSY = 0 ∧ t.fol = s.fol ∧ t.hst.rejects.length = s.hst.rejects.length + 1) ∧
  (∀ (s : State) (k : Bool) (d : List Word), s.fol.flOp = none ∨ s.runs 4 = false → exec (.flashOpDone k d) s = .next s) ∧
  (∀ (s : State) (k : Bool) (d : List Word) (op cs a : Nat), s.fol.flOp = some (op, cs, a) → s.runs 4 = true → Gives (.flashOpDone k d) s fun t =>
    t.rd fFOL_FL_CTRL_BUSY = 0 ∧ t.fol = { s.fol with flOp := none } ∧ t.rd fFOL_FL_CTRL_ERR = (if k = true then s.rd fFOL_FL_CTRL_ERR else 1) ∧
    (∀ j < 64, t.rg .FOL_FL_DATA 0 j = if k = true ∧ op = 0 then d.getD j 0 else s.rg .FOL_FL_DATA 0 j) ∧
    t = { s with regs := t.regs, fol := t.fol }) ∧
  (∀ (s : State) (b : Nat) (v : Bool), s.passes .sb .FOL_OTP_PROG → s.gateOpen (some .sb) .FOL 0 = true → s.on fFOL_OTP_PROG_BUSY = false →
    Gives (.otpProgram .sb b v) s fun t =>
    t.rd fFOL_OTP_PROG_BIT = b % 4096 ∧ t.pin = { s.pin with vfuse := v } ∧ t.on fFOL_OTP_PROG_BUSY = v ∧
    (v = false → t.rd fFOL_OTP_PROG_FAIL = 1 ∧ t.fol = s.fol) ∧ (v = true → t.fol = { s.fol with otpOp := some (b % 4096) })) ∧
  (∀ (s : State) (m : Master) (b : Nat) (v : Bool), m ≠ .sb → s.passes m .FOL_OTP_PROG → s.hst.rejects.length < 16 → Gives (.otpProgram m b v) s fun t =>
    t.fol = s.fol ∧ t.hst.rejects.length = s.hst.rejects.length + 1 ∧ SameBits s t [fHST_REJECT_COUNT_COUNT.loc 0 m.num]) ∧
  (∀ s : State, s.fol.otpOp = none → exec .otpProgramDone s = .next s) ∧
  (∀ (s : State) (b : Nat), s.fol.otpOp = some b → Gives .otpProgramDone s fun t =>
    b ∈ t.fol.burnt ∧ (∀ x, x ∈ t.fol.burnt ↔ x = b ∨ x ∈ s.fol.burnt) ∧ t.fol = { s.fol with otpOp := none, burnt := t.fol.burnt } ∧
    t.rd fFOL_OTP_PROG_BUSY = 0 ∧ t = { s with regs := t.regs, fol := t.fol } ∧ SameBits s t [fFOL_OTP_PROG_BUSY.loc])

/-- R398, R401 to R403, R405 to R410: collection. The lowest free record is the model's choice (assumption log 7), and so is the rate at which the
daybook's queue of 256 drains (assumption log 25). -/
def Obligations.FaultCollection : Prop :=
  (∀ (s : State) (slot : Nat), s.flt.crossing.find? (·.slot == slot) = none → exec (.faultEvent slot) s = .next s) ∧
  (∀ (s : State) (slot : Nat) (c : Crossing), s.flt.crossing.find? (·.slot == slot) = some c → s.lowerFirst c = false → s.on fFLT_SRC_CFG_EN 0 slot = false →
    Gives (.faultEvent slot) s fun t =>
    t.rd fFLT_SRC_CNT_COUNT 0 slot = min (2 ^ 32 - 1) (s.rd fFLT_SRC_CNT_COUNT 0 slot + c.count) ∧
    t = { s with regs := t.regs, flt := { s.flt with crossing := s.flt.crossing.erase c } } ∧
    SameBits s t [fFLT_SRC_CNT_COUNT.loc 0 slot]) ∧
  (∀ (s : State) (slot : Nat) (c : Crossing), s.flt.crossing.find? (·.slot == slot) = some c → s.lowerFirst c = true →
    exec (.faultEvent slot) s = .next s) ∧
  (∀ (s : State) (slot r : Nat) (c : Crossing), s.flt.crossing.find? (·.slot == slot) = some c → s.lowerFirst c = false → s.on fFLT_SRC_CFG_EN 0 slot = true →
    s.on fFLT_SRC_CFG_COUNTED 0 slot = false → s.rd fFLT_SRC_CFG_SEV 0 slot < 3 → slot < 2048 → (s.dom (s.slotDom slot c.detail)).live = false →
    s.freeRec = some r → Gives (.faultEvent slot) s fun t =>
    (t.dom (s.slotDom slot c.detail)).live = true ∧ (t.dom (s.slotDom slot c.detail)).sev = s.rd fFLT_SRC_CFG_SEV 0 slot ∧
    (t.dom (s.slotDom slot c.detail)).rec_ = some r ∧ (t.dom (s.slotDom slot c.detail)).merged = c.count ∧
    (t.dom (s.slotDom slot c.detail)).firstCt = c.ct ∧ (t.dom (s.slotDom slot c.detail)).firstSlot = slot ∧
    t.rd fFLT_REC_VALID 0 r = 1 ∧ t.rd fFLT_REC_SEV 0 r = s.rd fFLT_SRC_CFG_SEV 0 slot ∧ t.rd fFLT_REC_DOMAIN 0 r = s.slotDom slot c.detail ∧
    t.on fFLT_REC_REACT 0 r = decide (2 ≤ s.rd fFLT_SRC_CFG_SEV 0 slot) ∧ t.rd fFLT_REC_INFO_FIRST_SLOT 0 r = slot ∧
    (s.flt.dayQ.length < 256 → t.flt.dayQ = s.flt.dayQ ++ [(c, s.rd fFLT_SRC_CFG_SEV 0 slot, t.dom (s.slotDom slot c.detail))] ∧
      t.rd fFLT_DAYBOOK_HEAD_LOST = s.rd fFLT_DAYBOOK_HEAD_LOST) ∧
    (256 ≤ s.flt.dayQ.length → t.flt.dayQ = s.flt.dayQ ∧ t.rd fFLT_DAYBOOK_HEAD_LOST = s.satUp fFLT_DAYBOOK_HEAD_LOST) ∧
    t.tables = s.tables ∧ t.ports = s.ports ∧ t.fwd = s.fwd ∧ t.clerk = s.clerk ∧ t.tim = s.tim ∧ t.fol = s.fol) ∧
  (∀ (s : State) (slot : Nat) (c : Crossing), s.flt.crossing.find? (·.slot == slot) = some c → s.lowerFirst c = false → s.on fFLT_SRC_CFG_EN 0 slot = true →
    s.on fFLT_SRC_CFG_COUNTED 0 slot = false → s.rd fFLT_SRC_CFG_SEV 0 slot < 3 → (s.dom (s.slotDom slot c.detail)).live = true →
    Gives (.faultEvent slot) s fun t =>
    (t.dom (s.slotDom slot c.detail)).sev = max (s.dom (s.slotDom slot c.detail)).sev (s.rd fFLT_SRC_CFG_SEV 0 slot) ∧
    (t.dom (s.slotDom slot c.detail)).merged = (s.dom (s.slotDom slot c.detail)).merged + c.count ∧
    (t.dom (s.slotDom slot c.detail)).firstCt = (s.dom (s.slotDom slot c.detail)).firstCt ∧
    (t.dom (s.slotDom slot c.detail)).lastCt = c.ct ∧ (t.dom (s.slotDom slot c.detail)).rec_ = (s.dom (s.slotDom slot c.detail)).rec_ ∧
    (t.dom (s.slotDom slot c.detail)).act = (s.dom (s.slotDom slot c.detail)).act ∧ t.tables = s.tables ∧ t.clerk = s.clerk) ∧
  (∀ (s : State) (slot : Nat) (c : Crossing), s.flt.crossing.find? (·.slot == slot) = some c → s.lowerFirst c = false → s.on fFLT_SRC_CFG_EN 0 slot = true →
    s.on fFLT_SRC_CFG_COUNTED 0 slot = false → s.rd fFLT_SRC_CFG_SEV 0 slot < 3 → slot < 2048 → (s.dom (s.slotDom slot c.detail)).live = false →
    s.freeRec = none → Gives (.faultEvent slot) s fun t =>
    (t.dom (s.slotDom slot c.detail)).live = true ∧ (t.dom (s.slotDom slot c.detail)).rec_ = none ∧
    (t.dom (s.slotDom slot c.detail)).norec = some s.flt.order ∧
    (s.flt.dayQ.length < 256 → t.flt.dayQ = s.flt.dayQ ++ [(c, s.rd fFLT_SRC_CFG_SEV 0 slot, t.dom (s.slotDom slot c.detail))])) ∧
  (∀ (s t : State) (c : Crossing) (sev : Nat) (d : Dom) (q : List (Crossing × Nat × Dom)), t = s.daybookNext → s.flt.dayQ = (c, sev, d) :: q → sev < 4 →
    c.slot < 4096 → d.id < 65536 → t.flt.dayQ = q ∧ t.rd fFLT_DAYBOOK_HEAD_NEXT = (s.rd fFLT_DAYBOOK_HEAD_NEXT + 1) % 64 ∧
    t.rd fFLT_DAYBOOK_SEQ_SEQ = (s.rd fFLT_DAYBOOK_SEQ_SEQ + 1) % 2 ^ 32 ∧ t.rd fFLT_DAYBOOK_SLOT 0 (s.rd fFLT_DAYBOOK_HEAD_NEXT) = c.slot ∧
    t.rd fFLT_DAYBOOK_SEV 0 (s.rd fFLT_DAYBOOK_HEAD_NEXT) = sev ∧ t.rd fFLT_DAYBOOK_CNT_DOMAIN 0 (s.rd fFLT_DAYBOOK_HEAD_NEXT) = d.id ∧
    t.rd fFLT_DAYBOOK_NOREC 0 (s.rd fFLT_DAYBOOK_HEAD_NEXT) = b2n d.rec_.isNone ∧
    t.rd fFLT_DAYBOOK_CNT_COUNT 0 (s.rd fFLT_DAYBOOK_HEAD_NEXT) = min 65535 c.count) ∧
  (∀ (s : State) (slot : Nat) (c : Crossing), s.flt.crossing.find? (·.slot == slot) = some c → s.lowerFirst c = false → s.on fFLT_SRC_CFG_EN 0 slot = true →
    s.on fFLT_SRC_CFG_COUNTED 0 slot = false → s.rd fFLT_SRC_CFG_SEV 0 slot = 3 → Gives (.faultEvent slot) s fun t =>
    (t.dom (s.slotDom slot c.detail)).sev = (if (s.dom (s.slotDom slot c.detail)).live = true then max (s.dom (s.slotDom slot c.detail)).sev 3 else 3) ∧
    (s.rd fFLT_SRC_CFG_REACT 0 slot = 1 → t.domSafe (s.slotDom slot c.detail) = true) ∧
    (s.rd fFLT_SRC_CFG_REACT 0 slot = 2 → t.on fARC_CFG_SNAP_EN = false ∧ t.on fARC_CFG_LEDGER_EN = false ∧ t.on fARC_CFG_CAP_EN = false) ∧
    (s.on fFLT_SRC_CFG_HALT 0 slot = true → (s.dom (s.slotDom slot c.detail)).sev ≤ 3 → t.haltReq = true)) ∧
  (∀ (s : State) (slot t0 n : Nat) (c : Crossing), s.flt.crossing.find? (·.slot == slot) = some c → s.lowerFirst c = false → s.on fFLT_SRC_CFG_EN 0 slot = true →
    s.on fFLT_SRC_CFG_COUNTED 0 slot = true → s.flt.windows.find? (·.1 == slot) = some (slot, t0, n) → c.ct < t0 + s.fltWin slot →
    s.rd fFLT_SRC_CFG_REACT 0 slot = 0 → s.rd fFLT_SRC_CFG_SEV 0 slot < 3 → (s.dom (s.slotDom slot c.detail)).live = false →
    Gives (.faultEvent slot) s fun t =>
    (t.dom (s.slotDom slot c.detail)).sev = (if s.rd fFLT_SRC_CFG_N 0 slot ≤ n + c.count then 3 else s.rd fFLT_SRC_CFG_SEV 0 slot) ∧
    t.flt.windows.find? (·.1 == slot) = some (slot, t0, n + c.count)) ∧
  (∀ (s : State) (slot : Nat) (c : Crossing), s.flt.crossing.find? (·.slot == slot) = some c → s.lowerFirst c = false → s.on fFLT_SRC_CFG_EN 0 slot = true →
    Gives (.faultEvent slot) s fun t =>
    (t.pin.faultOut = true ↔ (∃ d ∈ t.flt.doms, (d.reacts = true ∧ t.rd fFLT_CFG_OUT_SEV ≤ d.sev) ∨ (d.live = true ∧ d.latched = true)) ∨
      t.pin.outHeld = true) ∧
    t.on fFLT_STATUS_FOUT = t.pin.faultOut)

/-- R404, R405, R411 to R413, R418: leaving the fault state. -/
def Obligations.FaultRecovery : Prop :=
  (∀ (s : State) (id : Nat), s.levelIn id = true ∨ s.tim.rc < (s.dom id).quietRc + s.quietLen id → exec (.quietPeriodEnd id) s = .next s) ∧
  (∀ (s : State) (id : Nat), (s.dom id).live = false ∨ (s.dom id).latched = true → (∀ k < 17, (s.input k).masked = false) →
    exec (.quietPeriodEnd id) s = .next s) ∧
  (∀ (s : State) (id r : Nat), s.levelIn id = false → (s.dom id).quietRc + s.quietLen id ≤ s.tim.rc → (s.dom id).live = true →
    (s.dom id).latched = false → (s.dom id).sev < 2 → (s.dom id).rec_ = some r → (∀ d ∈ s.flt.doms, d.norec = none) →
    (∀ k < 17, (s.input k).masked = false) → Gives (.quietPeriodEnd id) s fun t =>
    t.dom id = { Dom.fresh id with recov := (s.dom id).recov, recovWin := (s.dom id).recovWin } ∧ t.rd fFLT_REC_VALID 0 r = 0 ∧
    (∀ q, q ≠ id → t.dom q = s.dom q) ∧ t.tables = s.tables ∧ t.clerk = s.clerk ∧ t.tim = s.tim) ∧
  (∀ (s : State) (id r : Nat), s.levelIn id = false → (s.dom id).quietRc + s.quietLen id ≤ s.tim.rc → (s.dom id).live = true →
    (s.dom id).latched = false → 2 ≤ (s.dom id).sev → (s.dom id).rec_ = some r → (∀ d ∈ s.flt.doms, d.norec = none) →
    (∀ k < 17, (s.input k).masked = false) → (s.recoveries (s.dom id)).1 ≤ s.rd fFLT_SCOPE_CFG_REC_LIMIT 0 (domLevel id) →
    Gives (.quietPeriodEnd id) s fun t =>
    t.dom id = { Dom.fresh id with recov := (s.recoveries (s.dom id)).1, recovWin := some (s.recoveries (s.dom id)).2 } ∧
    t.rd fFLT_REC_VALID 0 r = 0 ∧ t.domSafe id = false ∧ (∀ q, q ≠ id → t.dom q = s.dom q) ∧ t.tables = s.tables ∧ t.clerk = s.clerk) ∧
  (∀ (s : State) (id r : Nat), s.levelIn id = false → (s.dom id).quietRc + s.quietLen id ≤ s.tim.rc → (s.dom id).live = true →
    (s.dom id).latched = false → 2 ≤ (s.dom id).sev → (s.dom id).sev < 4 → (s.dom id).rec_ = some r → (s.dom id).id = id → id < 65536 →
    (∀ k < 17, (s.input k).masked = false) → s.rd fFLT_SCOPE_CFG_REC_LIMIT 0 (domLevel id) < (s.recoveries (s.dom id)).1 →
    Gives (.quietPeriodEnd id) s fun t =>
    t.dom id = { s.dom id with latched := true } ∧ t.rd fFLT_REC_LATCHED 0 r = 1 ∧ t.rd fFLT_REC_VALID 0 r = 1 ∧ t.pin.faultOut = true ∧
    t.tables = s.tables ∧ t.clerk = s.clerk) ∧
  (∀ (s : State) (m : Master) (id r : Nat), s.passes m .FLT_DOM_CLEAR → id < 65536 → (s.dom id).live = true → (s.dom id).rec_ = some r →
    (∀ d ∈ s.flt.doms, d.norec = none) → s.levelIn id = false → Gives (.domainClear m id) s fun t =>
    t.dom id = Dom.fresh id ∧ t.rd fFLT_REC_VALID 0 r = 0 ∧ t.domSafe id = false ∧ (∀ q, q ≠ id → t.dom q = s.dom q) ∧
    t.tables = s.tables ∧ t.clerk = s.clerk ∧ t.tim = s.tim) ∧
  (∀ (s : State) (m : Master) (id : Nat), s.passes m .FLT_DOM_CLEAR → id < 65536 → (s.dom id).live = false → Gives (.domainClear m id) s fun t =>
    t = { s with regs := t.regs, hst := { s.hst with round := t.hst.round } } ∧ SameBits s t [Reg.loc .FLT_DOM_CLEAR])

/-- R399, R414 to R417: fault inputs and the tests of the reactions. -/
def Obligations.FaultTesting : Prop :=
  (∀ (s : State), s.on fFLT_IN_CFG_EN = true → (s.input 0).asserted = false → (s.input 0).masked = false → s.rd fFLT_IN_CFG_RATE_MAX = 0 →
    s.isPresent 70 = false → Gives (.faultInChange 0 false) s fun t =>
    t.rd fFLT_IN_STATUS_LEVEL = 1 ∧ (t.input 0).asserted = true ∧ (t.input 0).masked = false ∧ 70 ∈ t.flt.present ∧ Raised t .FLT_IN ∧
    t = { s with regs := t.regs, flt := { s.flt with crossing := t.flt.crossing, present := t.flt.present, inputs := t.flt.inputs } } ∧
    SameBits s t [fFLT_IN_STATUS_LEVEL.loc]) ∧
  (∀ (s : State), (s.input 0).asserted = true → (s.input 0).masked = false → Gives (.faultInChange 0 true) s fun t =>
    t.rd fFLT_IN_STATUS_LEVEL = 0 ∧ (t.input 0).asserted = false ∧ 70 ∉ t.flt.present ∧ t.flt.crossing = s.flt.crossing ∧
    SameBits s t [fFLT_IN_STATUS_LEVEL.loc]) ∧
  (∀ (s : State) (k : Nat) (h : Bool), 16 < k → exec (.faultInChange k h) s = .next s) ∧
  (∀ (s : State) (i : Nat), i < 16 → s.rd fFLT_GPIO_MODE 0 i = 2 → s.on fFLT_GPIO_POL 0 i = true → (s.input (1 + i)).asserted = false →
    (s.input (1 + i)).masked = false → s.rd fFLT_GPIO_RATE_MAX 0 i = 0 → s.isPresent (71 + i) = false → Gives (.faultInChange (1 + i) true) s fun t =>
    (t.input (1 + i)).asserted = true ∧ 71 + i ∈ t.flt.present ∧ Raised t .FLT_GPIO_IN i ∧ bitOf (t.rd fFLT_GPIO_IN_IN) i = true ∧
    SameBits s t [(⟨.FLT_GPIO_IN, i, i⟩ : Fld).loc]) ∧
  (∀ (s : State), s.on fFLT_IN_CFG_EN = true → (s.input 0).asserted = false → (s.input 0).masked = false → s.rd fFLT_IN_CFG_RATE_MAX ≠ 0 →
    s.rd fFLT_IN_CFG_RATE_MAX = (s.inTimes 0).length → Gives (.faultInChange 0 false) s fun t =>
    (t.input 0).masked = true ∧ (t.input 0).asserted = true ∧ t.rd fFLT_IN_STATUS_MASKED = 1 ∧
    t.rd fFLT_IN_STATUS_MASKINGS = s.satUp fFLT_IN_STATUS_MASKINGS ∧ t.flt.crossing = s.flt.crossing ∧ 70 ∉ t.flt.present) ∧
  (∀ (s : State) (m : Master) (j b : Nat) (k : FKind), s.passes m .FLT_FORCE 0 j → s.gateOpen (some m) .FLT 0 = true → j < 64 → b < 32 →
    slotKind (32 * j + b) = some k → k.src.level = false → s.rg .FLT_FORCE 0 j = 0 → Gives (.faultForce m j (word (2 ^ b))) s fun t =>
    t.rg .FLT_FORCE 0 j = 0 ∧ (∃ c ∈ t.flt.crossing, c.slot = 32 * j + b ∧ c.forced = true) ∧ t.flt.present = s.flt.present ∧ t.tables = s.tables) ∧
  (∀ (s : State) (m : Master) (j b : Nat) (k : FKind), s.passes m .FLT_FORCE 0 j → s.gateOpen (some m) .FLT 0 = true → j < 64 → b < 32 →
    slotKind (32 * j + b) = some k → k.src.level = true → s.rg .FLT_FORCE 0 j = 0 → s.isPresent (32 * j + b) = false →
    Gives (.faultForce m j (word (2 ^ b))) s fun t =>
    t.rg .FLT_FORCE 0 j = word (2 ^ b) ∧ t.isPresent (32 * j + b) = true ∧ (∃ c ∈ t.flt.crossing, c.slot = 32 * j + b ∧ c.forced = true)) ∧
  (∀ (s : State) (m : Master) (j b : Nat) (k : FKind), s.passes m .FLT_FORCE 0 j → s.gateOpen (some m) .FLT 0 = true → j < 64 → b < 32 →
    slotKind (32 * j + b) = some k → k.src.level = true → s.rg .FLT_FORCE 0 j = word (2 ^ b) → Gives (.faultForce m j 0) s fun t =>
    t.rg .FLT_FORCE 0 j = 0 ∧ 32 * j + b + 4096 ∉ t.flt.present ∧ t.flt.crossing = s.flt.crossing) ∧
  (∀ (s : State) (m : Master) (ck p rep : Nat) (d : Bool), s.passes m .FLT_INJECT → s.gateOpen (some m) .FLT 0 = true → 1 ≤ ck → ck ≤ 0x27 → p < 8 →
    rep ≤ 2 → Gives (.errorInject m (word (ck + p * 2 ^ 20 + rep * 2 ^ 26 + b2n d * 2 ^ 28))) s fun t =>
    t.marked ck (injKey ck p rep).1 (injKey ck p rep).2 (s.rd fFLT_INJECT_INDEX_INDEX) = some d ∧ t.flt.nextMarks = s.flt.nextMarks ∧
    t = { s with regs := t.regs, hst := { s.hst with round := t.hst.round }, flt := { s.flt with marks := t.flt.marks } } ∧
    SameBits s t [Reg.loc .FLT_INJECT]) ∧
  (∀ (s : State) (m : Master) (ck p rep : Nat) (d : Bool), s.passes m .FLT_INJECT → s.gateOpen (some m) .FLT 0 = true → 1 ≤ ck → ck ≤ 0x26 → p < 8 →
    rep ≤ 2 → Gives (.errorInject m (word (ck + p * 2 ^ 20 + rep * 2 ^ 26 + b2n d * 2 ^ 28 + 2 ^ 29))) s fun t =>
    (ck, (injKey ck p rep).1, (injKey ck p rep).2, d) ∈ t.flt.nextMarks ∧ t.flt.marks = s.flt.marks ∧ SameBits s t [Reg.loc .FLT_INJECT]) ∧
  (∀ (s : State) (m : Master) (p rep : Nat) (d : Bool), s.passes m .FLT_INJECT → s.gateOpen (some m) .FLT 0 = true → p < 8 → rep ≤ 2 →
    s.hst.rejects.length < 16 → Gives (.errorInject m (word (0x27 + p * 2 ^ 20 + rep * 2 ^ 26 + b2n d * 2 ^ 28 + 2 ^ 29))) s fun t =>
    t.flt.nextMarks = s.flt.nextMarks ∧ t.flt.marks = s.flt.marks ∧ t.hst.rejects.length = s.hst.rejects.length + 1) ∧
  (∀ (s : State) (id : Nat), (∀ o ∈ s.flt.present, s.on fFLT_SRC_CFG_EN 0 (o % 4096) = false) → s.levelIn id = false)

/-- R420 to R422, R431, R432, R87, R399: clocks and PLLs. That the loss of lock of the CCLK PLL leaves `CKR_RUN` as it was is assumption log 26. -/
def Obligations.ClockStops : Prop :=
  (∀ (s : State) (m : Master) (p : Nat), s.passes m .CKR_STOP → s.gateOpen (some m) .CKR 0 = true → p < 8 → bitOf (s.rg .CKR_STOP).toNat (8 + p) = false →
    s.chipletBusy p = false → s.runs (8 + p) = true → Gives (.clockStop m (s.rg .CKR_STOP ||| word (2 ^ (8 + p)))) s fun t =>
    t.stopSet (8 + p) = true ∧ 8 + p ∈ t.ckr.stopping ∧ 8 + p ∉ t.ckr.starting ∧ t.runs (8 + p) = true ∧
    (∀ k, k ≠ 8 + p → (k ∈ t.ckr.stopping ↔ k ∈ s.ckr.stopping)) ∧
    t = { s with regs := t.regs, hst := { s.hst with round := t.hst.round }, ckr := { s.ckr with stopping := t.ckr.stopping, starting := t.ckr.starting } } ∧
    SameBits s t [(⟨.CKR_STOP, 8 + p, 8 + p⟩ : Fld).loc]) ∧
  (∀ (s : State) (m : Master) (p : Nat), s.passes m .CKR_STOP → s.gateOpen (some m) .CKR 0 = true → p < 8 → bitOf (s.rg .CKR_STOP).toNat (8 + p) = true →
    s.runs (8 + p) = false → Gives (.clockStop m (s.rg .CKR_STOP &&& ~~~(word (2 ^ (8 + p))))) s fun t =>
    t.stopSet (8 + p) = false ∧ 8 + p ∈ t.ckr.starting ∧ 8 + p ∉ t.ckr.stopping ∧ SameBits s t [(⟨.CKR_STOP, 8 + p, 8 + p⟩ : Fld).loc]) ∧
  (∀ (s : State) (m : Master) (p : Nat), s.passes m .CKR_STOP → s.gateOpen (some m) .CKR 0 = true → p < 8 → bitOf (s.rg .CKR_STOP).toNat (8 + p) = false →
    s.chipletBusy p = true → Gives (.clockStop m (s.rg .CKR_STOP ||| word (2 ^ (8 + p)))) s fun t =>
    Rejected s t m .badState (Reg.addr .CKR_STOP) (s.rg .CKR_STOP ||| word (2 ^ (8 + p)))) ∧
  (∀ (s : State) (k : Nat), k ∉ s.ckr.stopping → exec (.clockStopped k) s = .next s) ∧
  (∀ (s : State) (k : Nat), k ∈ s.ckr.stopping → k < 8 → k ≠ 3 ∨ s.dramInside = false → Gives (.clockStopped k) s fun t =>
    t.runs k = false ∧ t = { s with regs := t.regs, ckr := { s.ckr with stopping := s.ckr.stopping.filter (· != k), fclkOff := if k = 4 then s.tim.rc else s.ckr.fclkOff } } ∧
    SameBits s t [(⟨.CKR_RUN, k, k⟩ : Fld).loc]) ∧
  (∀ s : State, s.drm.waiting ≠ [] ∨ (∃ q ∈ s.drm.queues, q.2 ≠ []) → exec (.clockStopped 3) s = .next s) ∧
  (∀ (s : State) (p : Nat), 8 + p ∈ s.ckr.stopping → p < 8 → Gives (.clockStopped (8 + p)) s fun t =>
    t.runs (8 + p) = false ∧ t.on fCKR_D2D_STATUS_UP 0 p = false ∧ bitOf (t.rd fTIM_CAL_STATUS_DONE) p = false ∧ p ∉ t.tim.calRun.map (·.1) ∧
    t.tim = { s.tim with calRun := s.tim.calRun.filter (·.1 != p) } ∧
    SameBits s t [(⟨.CKR_RUN, 8 + p, 8 + p⟩ : Fld).loc, fCKR_D2D_STATUS_UP.loc 0 p, (⟨.TIM_CAL_STATUS, fTIM_CAL_STATUS_DONE.lo + p, fTIM_CAL_STATUS_DONE.lo + p⟩ : Fld).loc]) ∧
  (∀ (s : State) (k : Nat), k ∉ s.ckr.starting → exec (.clockStart k) s = .next s) ∧
  (∀ (s : State) (k : Nat), k ∈ s.ckr.starting → k < 8 → s.ckr.waits = [] → Gives (.clockStart k) s fun t =>
    t.runs k = true ∧ t = { s with regs := t.regs, ckr := { s.ckr with starting := s.ckr.starting.filter (· != k) } } ∧
    SameBits s t [(⟨.CKR_RUN, k, k⟩ : Fld).loc]) ∧
  (∀ (s : State) (p : Nat), 8 + p ∈ s.ckr.starting → p < 8 → Gives (.clockStart (8 + p)) s fun t =>
    t.runs (8 + p) = true ∧ AMap.get? t.ckr.trainAt p = some s.tim.rc ∧ SameBits s t [(⟨.CKR_RUN, 8 + p, 8 + p⟩ : Fld).loc]) ∧
  (∀ s : State, Gives .cclkPllUnlock s fun t =>
    t.rd fCKR_PLL_STATUS_CCLK_LOCK = 0 ∧ t.rd fCKR_PLL_STATUS_UNLOCKS = s.satUp fCKR_PLL_STATUS_UNLOCKS ∧ t.isPresent (slotOf .CKR_PLL_UNLOCK 0) = true ∧
    (s.isPresent (slotOf .CKR_PLL_UNLOCK 0) = false → Raised t .CKR_PLL_UNLOCK) ∧
    t = { s with regs := t.regs, flt := { s.flt with crossing := t.flt.crossing, present := t.flt.present } } ∧
    SameBits s t [fCKR_PLL_STATUS_CCLK_LOCK.loc, fCKR_PLL_STATUS_UNLOCKS.loc]) ∧
  (∀ s : State, Gives .dclkPllUnlock s fun t =>
    t.rd fCKR_PLL_STATUS_DCLK_LOCK = 0 ∧ t.rd fCKR_PLL_STATUS_UNLOCKS = s.satUp fCKR_PLL_STATUS_UNLOCKS ∧ t.runs 3 = false ∧ t.runs 4 = false ∧
    Raised t .DRM_TRAIN ∧ t = { s with regs := t.regs, ckr := { s.ckr with fclkOff := s.tim.rc }, flt := { s.flt with crossing := t.flt.crossing } } ∧
    SameBits s t [fCKR_PLL_STATUS_DCLK_LOCK.loc, fCKR_PLL_STATUS_UNLOCKS.loc, (⟨.CKR_RUN, 4, 3⟩ : Fld).loc]) ∧
  (∀ (s : State) (p : Nat), Gives (.serdesPllUnlock p) s fun t =>
    t.isPresent (slotOf .PRT_SERDES_PLL p) = true ∧ (s.isPresent (slotOf .PRT_SERDES_PLL p) = false → Raised t .PRT_SERDES_PLL p) ∧
    t = { s with flt := { s.flt with crossing := t.flt.crossing, present := t.flt.present } }) ∧
  (∀ s : State, Gives (.pllRelock .cclk) s fun t =>
    t.rd fCKR_PLL_STATUS_CCLK_LOCK = 1 ∧ slotOf .CKR_PLL_UNLOCK 0 ∉ t.flt.present ∧
    t = { s with regs := t.regs, flt := { s.flt with present := t.flt.present, doms := t.flt.doms } } ∧ SameBits s t [fCKR_PLL_STATUS_CCLK_LOCK.loc]) ∧
  (∀ s : State, s.on fCKR_PLL_STATUS_DCLK_LOCK = true ∨ s.rd fFOL_BOOT_STATUS_STATE < 2 → exec (.pllRelock .dclk) s = .next s) ∧
  (∀ s : State, s.on fCKR_PLL_STATUS_DCLK_LOCK = false → 2 ≤ s.rd fFOL_BOOT_STATUS_STATE → s.ckr.waits = [] → Gives (.pllRelock .dclk) s fun t =>
    t.on fCKR_PLL_STATUS_DCLK_LOCK = true ∧ t.runs 3 = !s.stopSet 3 ∧ t.runs 4 = !s.stopSet 4 ∧ t = { s with regs := t.regs } ∧
    SameBits s t [fCKR_PLL_STATUS_DCLK_LOCK.loc, (⟨.CKR_RUN, 4, 3⟩ : Fld).loc]) ∧
  (∀ (s : State) (p : Nat), Gives (.pllRelock (.serdes p)) s fun t =>
    slotOf .PRT_SERDES_PLL p ∉ t.flt.present ∧ t = { s with flt := { s.flt with present := t.flt.present, doms := t.flt.doms } })

/-- R30, R424 to R427: the crossing watcher and crossing resets. -/
def Obligations.Crossings : Prop :=
  (∀ (s : State) (x : Nat), s.hungAt x = none → exec (.crossingHung x) s = .next s) ∧
  (∀ (s : State) (x : Nat) (a : Access), s.ckr.waits = [a] → a.crossing = x → a.hung = false → a.since + ns 64000 ≤ s.tim.rc → x < 18 → a.master < 4 →
    s.on fCKR_HUNG_LAST_VALID = false → s.on fCKR_XCFG_AUTO_XRESET = false → Gives (.crossingHung x) s fun t =>
    t.rd fCKR_XSTATUS_HUNG 0 x = 1 ∧ t.ckr.waits = [{ a with hung := true }] ∧ Raised t .HUNG_CROSSING ∧ t.on fCKR_HUNG_LAST_VALID = true ∧
    t.rd fCKR_HUNG_LAST_MASTER = a.master ∧ t.rd fCKR_HUNG_LAST_CROSSING = x ∧ t.rd fCKR_HUNG_LAST_OFFSET = bitsOf a.offset 25 2 ∧
    t = { s with regs := t.regs, ckr := { s.ckr with waits := t.ckr.waits, acted := t.ckr.acted }, flt := { s.flt with crossing := t.flt.crossing } } ∧
    SameBits s t [fCKR_XSTATUS_HUNG.loc 0 x, Reg.loc .CKR_HUNG_LAST]) ∧
  (∀ (s : State) (x : Nat) (a : Access), s.ckr.waits = [a] → a.crossing = x → a.hung = false → a.since + ns 64000 ≤ s.tim.rc → a.master = 0 →
    s.on fCKR_XCFG_AUTO_XRESET = true → Gives (.crossingHung x) s fun t =>
    t.ckr.waits = [] ∧ t.rd fCKR_XSTATUS_FLUSHES 0 x = s.satUp fCKR_XSTATUS_FLUSHES 0 x ∧ Raised t .HUNG_CROSSING) ∧
  (∀ (s : State) (m : Master) (x : Nat), s.passes m .CKR_XRESET → s.gateOpen (some m) .CKR 0 = true → x < 18 → x ≠ 8 →
    (∀ a ∈ s.ckr.waits, a.crossing ≠ x) → s.ckr.pulses = [] → x ≠ 9 ∨ s.runs 4 = true → Gives (.crossingReset m (word (2 ^ x))) s fun t =>
    t.ckr = s.ckr ∧ t.rd fCKR_XSTATUS_FLUSHES 0 x = s.satUp fCKR_XSTATUS_FLUSHES 0 x ∧ (x < 10 → t.fwd = s.fwd) ∧
    (∀ f ∈ s.fwd.rx, f.ended = false → (∃ q ∈ s.portLanes f.port, s.rxRoute q / 32 + 10 = x) → { f with bad := true } ∈ t.fwd.rx) ∧
    t = { s with regs := t.regs, hst := { s.hst with round := t.hst.round }, fwd := { s.fwd with rx := t.fwd.rx } } ∧
    SameBits s t [fCKR_XSTATUS_FLUSHES.loc 0 x, Reg.loc .CKR_XRESET]) ∧
  (∀ (s : State) (m : Master), s.passes m .CKR_XRESET → s.gateOpen (some m) .CKR 0 = true → (∀ a ∈ s.ckr.waits, a.crossing ≠ 8) → s.ckr.pulses = [] →
    Gives (.crossingReset m (word (2 ^ 8))) s fun t =>
    t.ckr = s.ckr ∧ t.rd fCKR_XSTATUS_FLUSHES 0 8 = s.satUp fCKR_XSTATUS_FLUSHES 0 8 ∧ t.drm.waiting = [] ∧ t.drm.blocked = [] ∧
    t.drm.queues = s.drm.queues.map (fun q => (q.1, q.2.filter (·.write))) ∧
    (∀ r ∈ s.drm.waiting, ∃ a, AMap.get? t.drm.returned r.req = some (a, 1, [])) ∧
    (∀ q ∈ s.drm.queues, ∀ r ∈ q.2, r.write = false → ∃ a, AMap.get? t.drm.returned r.req = some (a, 1, [])) ∧
    t.drm.units.length = s.drm.units.length ∧ (∀ u ∈ t.drm.units, u.asks = []) ∧
    t = { s with regs := t.regs, hst := { s.hst with round := t.hst.round }, drm := { s.drm with waiting := [], blocked := [], queues := t.drm.queues, returned := t.drm.returned, units := t.drm.units } } ∧
    SameBits s t [fCKR_XSTATUS_FLUSHES.loc 0 8, Reg.loc .CKR_XRESET]) ∧
  (∀ (s : State) (m q : Master) (x : Nat) (a : Access) (l : List Access), s.passes m .CKR_XRESET → s.gateOpen (some m) .CKR 0 = true → x < 18 →
    s.ckr.waits = a :: l → a.crossing = x → (∀ b ∈ l, b.crossing ≠ x) → s.ckr.pulses = [] → a.master = q.num + 1 → a.late = false → a.write = none →
    Gives (.crossingReset m (word (2 ^ x))) s fun t =>
    t.ckr = { s.ckr with waits := l } ∧ AMap.get? t.hst.readData q = some (if q = .sb then some (word 0xFFFFFFFF) else none) ∧
    t.hst = { s.hst with round := t.hst.round, readData := t.hst.readData } ∧ t.rd fCKR_XSTATUS_FLUSHES 0 x = s.satUp fCKR_XSTATUS_FLUSHES 0 x) ∧
  (∀ (s : State) (m : Master) (x : Nat) (a : Access), s.passes m .CKR_XRESET → s.gateOpen (some m) .CKR 0 = true → x < 18 →
    s.ckr.waits = [a] → a.crossing = x → s.ckr.pulses = [] → a.late = true → Gives (.crossingReset m (word (2 ^ x))) s fun t =>
    t.ckr = { s.ckr with waits := [] } ∧ t.hst = { s.hst with round := t.hst.round }) ∧
  (∀ (s : State) (m q : Master) (x : Nat) (w : Word) (a : Access) (l : List Access), s.passes m .CKR_XRESET → s.gateOpen (some m) .CKR 0 = true → x < 18 →
    s.ckr.waits = a :: l → a.crossing = x → (∀ b ∈ l, b.crossing ≠ x) → s.ckr.pulses = [] → a.master = q.num + 1 → a.late = false → a.write = some w →
    s.hst.rejects.length < 16 →
    Gives (.crossingReset m (word (2 ^ x))) s fun t =>
    t.ckr = { s.ckr with waits := l } ∧ t.hst.rejects = s.hst.rejects ++ [[word (2 ^ 31 + b2n s.hst.rejLost * 2 ^ 30 + q.owner * 2 ^ 28 +
      Cause.code .badState * 2 ^ 24), word a.offset, w] ++ ctWords s.tim.ct] ∧ t.tables = s.tables) ∧
  (∀ (s : State) (m : Master) (op : Nat × Nat × Nat), s.passes m .CKR_XRESET → s.gateOpen (some m) .CKR 0 = true → s.ckr.waits = [] →
    s.runs 4 = false → s.fol.flOp = some op → Gives (.crossingReset m (word (2 ^ 9))) s fun t =>
    t.fol = { s.fol with flOp := none, readErr := s.fol.readErr || s.bootReadAt.isSome } ∧ t.rd fFOL_FL_CTRL_BUSY = 0 ∧ t.rd fFOL_FL_CTRL_ERR = 1) ∧
  (∀ (s : State) (m : Master) (x : Nat) (w : Pulse) (b : Bool), s.passes m .CKR_XRESET → s.gateOpen (some m) .CKR 0 = true → x < 18 →
    s.ckr.waits = [] → s.ckr.pulses = [(x, w, b)] → Gives (.crossingReset m (word (2 ^ x))) s fun t =>
    t.ckr = { s.ckr with pulses := [] } ∧
    t.rd fCKR_XSTATUS_MERGED 0 x = if b = true then s.satUp fCKR_XSTATUS_MERGED 0 x else s.rd fCKR_XSTATUS_MERGED 0 x) ∧
  (∀ (s : State) (r : DramReq) (l : List DramReq), s.ckr.waits = [] → s.dclkOn = false → s.drm.waiting = r :: l → r.since + ns 64000 ≤ s.tim.rc →
    (∀ a, AMap.get? s.ckr.acted 8 = some a → a < r.since) → s.on fCKR_XCFG_AUTO_XRESET = false → Gives (.crossingHung 8) s fun t =>
    t.on fCKR_XSTATUS_HUNG 0 8 = true ∧ Raised t .HUNG_CROSSING ∧ t.drm = s.drm) ∧
  (∀ (s : State) (t0 : Nat), s.ckr.waits = [] → s.runs 4 = false → s.bootReadAt = some t0 → t0 + ns 64000 ≤ s.tim.rc →
    (∀ a, AMap.get? s.ckr.acted 9 = some a → a < t0) → Gives (.crossingHung 9) s fun t =>
    Raised t .HUNG_CROSSING ∧ (s.on fCKR_XCFG_AUTO_XRESET = false → t.on fCKR_XSTATUS_HUNG 0 9 = true ∧ t.fol = s.fol) ∧
    (s.on fCKR_XCFG_AUTO_XRESET = true → t.fol.readErr = true))

/-- R52, R65, R66, R430, R431: the die-to-die links. That an uncorrectable flit counts one uncorrectable codeword for every lane that carries a port is
assumption log 26. -/
def Obligations.ChipletLinks : Prop :=
  (∀ (s : State) (p : Nat), s.chipletRuns p = false ∨ s.on fCKR_D2D_STATUS_UP 0 p = true ∨ s.rd fFOL_BOOT_STATUS_STATE = 0 →
    exec (.d2dLinkUp p) s = .next s) ∧
  (∀ (s : State) (p : Nat), p < 8 → s.chipletRuns p = true → s.on fCKR_D2D_STATUS_UP 0 p = false → s.rd fFOL_BOOT_STATUS_STATE ≠ 0 →
    Gives (.d2dLinkUp p) s fun t =>
    t.on fCKR_D2D_STATUS_UP 0 p = true ∧ t.runs (8 + p) = true ∧ bitOf (t.rd fCKR_CHIPLET_RESET_RESET) p = false ∧
    AMap.get? t.ckr.trainAt p = none ∧ p ∉ t.ckr.pllLost ∧ slotOf .CKR_D2D_LINK p ∉ t.flt.present ∧
    (s.on fCKR_PLL_STATUS_TCLK_LOCK = true → (p, s.tim.rc) ∈ t.tim.calRun) ∧
    t = { s with regs := t.regs, tim := { s.tim with calRun := t.tim.calRun, jobs := t.tim.jobs }, ckr := { s.ckr with trainAt := t.ckr.trainAt, pllLost := t.ckr.pllLost }, flt := { s.flt with present := t.flt.present, doms := t.flt.doms } } ∧
    SameBits s t [fCKR_D2D_STATUS_UP.loc 0 p, (⟨.CKR_RUN, 8 + p, 8 + p⟩ : Fld).loc, (⟨.CKR_CHIPLET_RESET, p, p⟩ : Fld).loc]) ∧
  (∀ (s : State) (p : Nat) (k : Bool) (l : List Nat), s.on fCKR_D2D_STATUS_UP 0 p = false → exec (.d2dFlitError p k l) s = .next s) ∧
  (∀ (s : State) (p : Nat) (l : List Nat), s.on fCKR_D2D_STATUS_UP 0 p = true → Gives (.d2dFlitError p true l) s fun t =>
    t.rd fCKR_D2D_STATUS_CORR 0 p = s.satUp fCKR_D2D_STATUS_CORR 0 p ∧ t = { s with regs := t.regs } ∧ SameBits s t [fCKR_D2D_STATUS_CORR.loc 0 p]) ∧
  (∀ (s : State) (p : Nat) (l : List Nat), s.on fCKR_D2D_STATUS_UP 0 p = true →
    (s.ckr.flits.countP fun f => f.1 == p && decide (s.tim.rc < f.2 + ns 1000000)) < 15 → (∀ k, s.rxOn k = true → k / 32 ≠ p) →
    Gives (.d2dFlitError p false l) s fun t =>
    t.rd fCKR_D2D_STATUS_UNCORR 0 p = s.satUp fCKR_D2D_STATUS_UNCORR 0 p ∧ t.on fCKR_D2D_STATUS_UP 0 p = true ∧
    (p, s.tim.rc) ∈ t.ckr.flits ∧ t.fwd.rx.length = s.fwd.rx.length ∧
    (∀ x ∈ s.fwd.rx, x.ended = false → (∃ q ∈ s.portLanes x.port, s.rxRoute q ∈ l) → { x with bad := true } ∈ t.fwd.rx) ∧
    t = { s with regs := t.regs, ckr := { s.ckr with flits := t.ckr.flits }, fwd := { s.fwd with rx := t.fwd.rx } } ∧
    SameBits s t [fCKR_D2D_STATUS_UNCORR.loc 0 p]) ∧
  (∀ (s : State) (p k : Nat) (l : List Nat), s.on fCKR_D2D_STATUS_UP 0 p = true →
    (s.ckr.flits.countP fun f => f.1 == p && decide (s.tim.rc < f.2 + ns 1000000)) < 15 → p < 8 → s.rxOn k = true → k / 32 = p →
    (∀ j, s.rxOn j = true → j / 32 = p → j ≠ k → ∀ q ∈ s.portLanes j, s.rxRoute q ∉ l) → (∃ q ∈ s.portLanes k, s.rxRoute q ∈ l) →
    Gives (.d2dFlitError p false l) s fun t =>
    CountsUp s t [((1, k, 65), (s.portLanes k).countP fun q => decide (s.rxRoute q ∈ l))] ∧ Raised t .PRT_FEC_UNCORR k) ∧
  (∀ (s : State) (p : Nat) (l : List Nat), s.on fCKR_D2D_STATUS_UP 0 p = true →
    15 ≤ (s.ckr.flits.countP fun f => f.1 == p && decide (s.tim.rc < f.2 + ns 1000000)) → Gives (.d2dFlitError p false l) s fun t =>
    t.on fCKR_D2D_STATUS_UP 0 p = false ∧ AMap.get? t.ckr.trainAt p = some s.tim.rc ∧ t.isPresent (slotOf .CKR_D2D_LINK p) = true ∧
    bitOf (t.rd fTIM_CAL_STATUS_DONE) p = false ∧ t.tables = s.tables) ∧
  (∀ (s : State) (p t0 : Nat), AMap.get? s.ckr.trainAt p = some t0 → s.chipletRuns p = true → s.on fCKR_D2D_STATUS_UP 0 p = false →
    t0 + ns 10000000 ≤ s.tim.rc →
    exec (.d2dRetrain p) s = .next { s with ckr := { s.ckr with trainAt := AMap.set s.ckr.trainAt p s.tim.rc } }) ∧
  (∀ (s : State) (p : Nat), (∀ t0, AMap.get? s.ckr.trainAt p = some t0 → s.tim.rc < t0 + ns 10000000) ∨ s.chipletRuns p = false ∨
    s.on fCKR_D2D_STATUS_UP 0 p = true → exec (.d2dRetrain p) s = .next s) ∧
  (∀ (s : State) (p : Nat), p < 8 → Gives (.d2dLinkPllUnlock p) s fun t =>
    p ∈ t.ckr.pllLost ∧ t.runs (8 + p) = false ∧ t.on fCKR_D2D_STATUS_UP 0 p = false ∧ AMap.get? t.ckr.trainAt p = some s.tim.rc ∧
    t.isPresent (slotOf .CKR_D2D_LINK p) = true ∧ (∀ q, q ≠ p → t.on fCKR_D2D_STATUS_UP 0 q = s.on fCKR_D2D_STATUS_UP 0 q) ∧ t.tables = s.tables) ∧
  (∀ (s : State) (m : Master) (p : Nat), s.passes m .CKR_CHIPLET_RESET → s.gateOpen (some m) .CKR 0 = true → p < 8 →
    bitOf (s.rg .CKR_STOP).toNat (8 + p) = false → s.rawPorts p = [] → (∀ a ∈ s.ckr.waits, a.crossing ≠ 10 + p) →
    Gives (.chipletReset m (word (2 ^ p))) s fun t =>
    bitOf (t.rd fCKR_CHIPLET_RESET_RESET) p = true ∧ t.on fCKR_D2D_STATUS_UP 0 p = false ∧ AMap.get? t.ckr.trainAt p = some s.tim.rc ∧
    t.rd fCKR_XSTATUS_FLUSHES 0 (10 + p) = s.satUp fCKR_XSTATUS_FLUSHES 0 (10 + p) ∧
    (∀ q, q ≠ p → t.on fCKR_D2D_STATUS_UP 0 q = s.on fCKR_D2D_STATUS_UP 0 q) ∧ t.tables = s.tables ∧ t.clerk = s.clerk) ∧
  (∀ (s : State) (m : Master) (p : Nat), s.passes m .CKR_CHIPLET_RESET → s.gateOpen (some m) .CKR 0 = true → p < 8 →
    bitOf (s.rg .CKR_STOP).toNat (8 + p) = true → Gives (.chipletReset m (word (2 ^ p))) s fun t =>
    Rejected s t m .badState (Reg.addr .CKR_CHIPLET_RESET) (word (2 ^ p)))

/-- R318, R391, R413, R421, R428, R429: resets. That REF_MGMT_LOSS keeps GEN_STRAPS, HST_MODE and the tack select is assumption log 26. -/
def Obligations.Resets : Prop :=
  (∀ (s : State) (pw : Bool), Gives (.coldReset pw) s fun t =>
    (∀ (r : Reg) (p i j k : Nat), r ≠ .CKR_RESET_STATUS → t.rg r p i j k = r.resetWord p i) ∧
    t.rd fCKR_RESET_STATUS_CAUSE = (if pw = true then 0 else 1) ∧ (∀ ti p i, t.ent ti p i = tblReset ti i) ∧
    (∀ set e i, t.cnt set e i = 0) ∧ t.arc.mem = [] ∧ t.fol.burnt = s.fol.burnt ∧ t.clerk.work = .idle ∧ t.pending = s.pending) ∧
  (∀ s : State, Gives .refMgmtLoss s fun t =>
    t.rd fCKR_RESET_STATUS_CAUSE = 2 ∧ t.rg .GEN_STRAPS = s.rg .GEN_STRAPS ∧ t.rg .HST_MODE = s.rg .HST_MODE ∧
    (∀ (r : Reg) (p i j k : Nat), r ∉ ([.CKR_RESET_STATUS, .GEN_STRAPS, .HST_MODE] : List Reg) → t.rg r p i j k = r.resetWord p i) ∧
    t.fol.tackSel = s.fol.tackSel ∧ t.fol.hostMode = s.fol.hostMode ∧ t.fol.burnt = s.fol.burnt ∧ t.ckr.refLost = true ∧ t.ckr.held = s.ckr.held ∧
    t.tables = [] ∧ t.arc.mem = [] ∧ t.pin = { State.reset.pin with perst := s.pin.perst }) ∧
  (∀ s : State, s.ckr.refLost = false → exec .refMgmtRecover s = .next s) ∧
  (∀ s : State, s.ckr.refLost = true → s.ckr.held = true → exec .refMgmtRecover s = .next { s with ckr := { s.ckr with refLost := false } }) ∧
  (∀ s : State, s.ckr.refLost = true → s.ckr.held = false → Gives .refMgmtRecover s fun t =>
    t.ckr = { s.ckr with refLost := false } ∧ t.rd fCKR_RESET_STATUS_CAUSE = 2 ∧ t.runs 0 = true ∧ t.rd fFOL_BOOT_STATUS_STATE = 1 ∧
    t.fol.startRc = s.tim.rc ∧ t = { s with regs := t.regs, fol := t.fol, ckr := t.ckr }) ∧
  (∀ (s : State) (m : Master), s.passes m .CKR_RESET → s.gateOpen (some m) .CKR 0 = true → Gives (.warmReset m 0x5A) s fun t =>
    t.rd fCKR_RESET_STATUS_CAUSE = 3 ∧ t.rd fCKR_RESET_STATUS_WARM_COUNT = s.satUp fCKR_RESET_STATUS_WARM_COUNT ∧
    t.rd fFOL_BOOT_STATUS_STATE = 0 ∧ t.ckr.warmAt = some s.tim.rc ∧ t.tables = [] ∧ t.cnts = [] ∧ t.arc.mem = s.arc.mem ∧ t.fwd = State.reset.fwd ∧
    t.clerk = State.reset.clerk ∧ (∀ i, t.rg .FLT_SRC_CNT 0 i = s.rg .FLT_SRC_CNT 0 i) ∧ (∀ i, t.rg .GEN_OWNER_MAP 0 i = 0) ∧
    (∀ (r : Reg) (p i j k : Nat), r.desc.block ∉ ([.CKR, .GEN, .FLT, .FOL, .HST, .RAT, .DRM] : List Block) → t.rg r p i j k = r.resetWord p i) ∧
    (∀ d ∈ t.flt.doms, d.live = false) ∧ (∀ id, (s.dom id).recov ≠ 0 → (t.dom id).recov = (s.dom id).recov) ∧
    t.hst.msix = s.hst.msix ∧ t.hst.lost = s.hst.lost ∧ t.fol.burnt = s.fol.burnt ∧ t.pin.squelch = true) ∧
  (∀ (s : State) (m : Master) (key : Nat), s.passes m .CKR_RESET → s.gateOpen (some m) .CKR 0 = true → key < 256 → key ≠ 0x5A →
    Gives (.warmReset m key) s fun t => Rejected s t m .badValue (Reg.addr .CKR_RESET) (word (256 + key))) ∧
  (∀ s : State, s.ckr.warmAt = none → exec .warmResetRelease s = .next s) ∧
  (∀ (s : State) (t0 : Nat), s.ckr.warmAt = some t0 → s.tim.rc < t0 + ns 10000 → exec .warmResetRelease s = .next s) ∧
  (∀ (s : State) (t0 : Nat), s.ckr.warmAt = some t0 → t0 + ns 10000 ≤ s.tim.rc → Gives .warmResetRelease s fun t =>
    t.ckr = { s.ckr with warmAt := none } ∧ t.rd fFOL_BOOT_STATUS_STATE = 1 ∧ t.on fFOL_BOOT_STATUS_TAMPER = s.fol.tamper ∧
    (s.drm.selfRefresh = true → t.drm = { s.drm with selfRefresh := false, exits := List.range s.dramN } ∧ t.on fDRM_STATUS_READY = true) ∧ (s.drm.selfRefresh = false → t.drm = s.drm) ∧
    t.arc = s.arc ∧ t.tables = s.tables)

/-- R12, R382, R383, R438: the TAPs. The answers to instructions that the manual does not name are the model's choice (assumption log 36). -/
def Obligations.Jtag : Prop :=
  (∀ (s : State) (sel : Bool), Gives (.jtagInstruction sel .idcode) s fun t =>
    t = { s with pin := { s.pin with jtagSel := sel, jtagOp := some .idcode, tdo := t.pin.tdo } } ∧ t.pin.tdo.length = 32 ∧
    t.pin.tdo.getD 0 false = true ∧ (∀ k < 11, t.pin.tdo.getD (1 + k) false = bitOf 0x3D5 k) ∧
    (∀ k < 16, t.pin.tdo.getD (12 + k) false = bitOf 0xEF95 k) ∧ (∀ k < 4, t.pin.tdo.getD (28 + k) false = bitOf Config.jtagVersion.toNat k)) ∧
  (∀ (s : State) (sel : Bool), exec (.jtagInstruction sel .bypass) s =
    .next { s with pin := { s.pin with jtagSel := sel, jtagOp := some .bypass, tdo := [false] } }) ∧
  (∀ (s : State) (cells : List Bool), exec (.jtagInstruction false (.boundaryScan cells)) s =
    .next { s with pin := { s.pin with jtagSel := false, jtagOp := some (.boundaryScan cells), tdo := cells } }) ∧
  (∀ (s : State) (ac : Bool) (cells : List Bool) (drive : List (Nat × Nat × Bool)) (r c : Nat) (b : Ball), ballAt r c = some b →
    Gives (.jtagInstruction false (.extest ac cells drive)) s fun t =>
    t = { s with pin := { s.pin with jtagSel := false, jtagOp := some (.extest ac cells drive), tdo := cells } } ∧
    (b.acCell = false ∨ ac = true → t.ballLevel r c = (drive.find? fun d => d.1 == r && d.2.1 == c).map fun d => d.2.2) ∧
    (b.acCell = true → ac = false → t.ballLevel r c = none)) ∧
  (∀ (s : State) (op : JtagOp), (match op with | .programFuse _ _ => true | .test _ => true | _ => false) = true →
    exec (.jtagInstruction false op) s = .next { s with pin := { s.pin with jtagSel := false, jtagOp := some .bypass, tdo := [false] } }) ∧
  (∀ (s : State) (op : JtagOp), s.on fFOL_OTP_POLICY_DEBUG_LOCK = true →
    (match op with | .idcode => false | .bypass => false | _ => true) = true →
    exec (.jtagInstruction true op) s = .next { s with pin := { s.pin with jtagSel := true, jtagOp := some op, tdo := [] } }) ∧
  (∀ (s : State) (n : Nat), s.on fFOL_OTP_POLICY_DEBUG_LOCK = false → s.on fFOL_OTP_PROG_BUSY = false → n < 4096 →
    Gives (.jtagInstruction true (.programFuse n true)) s fun t =>
    t.on fFOL_OTP_PROG_BUSY = true ∧ t.rd fFOL_OTP_PROG_BIT = n ∧ t.fol = { s.fol with otpOp := some n } ∧ t.pin.vfuse = true ∧
    t = { s with regs := t.regs, fol := t.fol, pin := { s.pin with jtagSel := true, jtagOp := some (.programFuse n true), tdo := [], vfuse := true } } ∧
    SameBits s t [fFOL_OTP_PROG_BUSY.loc, fFOL_OTP_PROG_BIT.loc]) ∧
  (∀ (s : State) (n : Nat), s.on fFOL_OTP_POLICY_DEBUG_LOCK = false → s.on fFOL_OTP_PROG_BUSY = false → n < 4096 →
    Gives (.jtagInstruction true (.programFuse n false)) s fun t =>
    t.on fFOL_OTP_PROG_FAIL = true ∧ t.on fFOL_OTP_PROG_BUSY = false ∧ t.fol = s.fol ∧
    t = { s with regs := t.regs, pin := { s.pin with jtagSel := true, jtagOp := some (.programFuse n false), tdo := [], vfuse := false } } ∧
    SameBits s t [fFOL_OTP_PROG_FAIL.loc, fFOL_OTP_PROG_BIT.loc]) ∧
  (∀ (s : State) (n : Nat) (v : Bool), s.on fFOL_OTP_POLICY_DEBUG_LOCK = false → s.on fFOL_OTP_PROG_BUSY = true →
    exec (.jtagInstruction true (.programFuse n v)) s =
      .next { s with pin := { s.pin with jtagSel := true, jtagOp := some (.programFuse n v), tdo := [], vfuse := v } }) ∧
  (∀ (s : State) (ir : Nat), s.on fFOL_OTP_POLICY_DEBUG_LOCK = false →
    exec (.jtagInstruction true (.test ir)) s = .refused .privateTestInstruction)

/-- R118 and the register tables: marks. That the command does nothing at another address is the model's choice (assumption log 2). -/
def Obligations.WatermarkResets : Prop :=
  (∀ (s : State) (m : Master) (mark : Fld) (now : Option Fld) (p i : Nat), (mark, now) ∈ markFields → s.passes m mark.reg p i →
    regAt (mark.reg.addr p i) = some ⟨mark.reg, p, i, 0, 0⟩ → mark.reg.addr p i % 4 = 0 → Gives (.watermarkReset m (mark.reg.addr p i) 0) s fun t =>
    t.rd mark p i = (match now with | some f => s.rd f p i % 2 ^ (mark.hi + 1 - mark.lo) | none => 0) ∧
    t = { s with regs := t.regs, hst := { s.hst with round := t.hst.round } } ∧ SameBits s t [mark.loc p i]) ∧
  (∀ (s : State) (m : Master) (mark : Fld) (p : Nat) (data : Word),
    mark ∈ [fKST_OVF_COUNT_OVF_HIGH, fBRS_OVF_COUNT_OVF_HIGH, fBRS_LEARN_STATUS_QUEUE_HIGH, fFAR_STATUS_LOOP_HIGH] → s.passes m mark.reg p →
    regAt (mark.reg.addr p) = some ⟨mark.reg, p, 0, 0, 0⟩ → mark.reg.addr p % 4 = 0 → bitsOf data.toNat mark.hi mark.lo ≠ 0 →
    Gives (.watermarkReset m (mark.reg.addr p) data) s fun t => Rejected s t m .badValue (mark.reg.addr p) data) ∧
  (∀ (s : State) (m : Master) (addr : Nat) (data : Word), (∀ a, regAt addr = some a → a.reg ∉ markFields.map fun x => x.1.reg) →
    exec (.watermarkReset m addr data) s = .next s)

/-- R309, R310: the mapping of archive addresses and the fields of a burst address; that both are one to one follows from their formulas. -/
def Obligations.DramMapping : Prop :=
  (∀ s : State, s.dramN = 2 * (b2n (bitOf (s.rd fDRM_CFG_CH_EN) 0) + b2n (bitOf (s.rd fDRM_CFG_CH_EN) 1) + b2n (bitOf (s.rd fDRM_CFG_CH_EN) 2) +
      b2n (bitOf (s.rd fDRM_CFG_CH_EN) 3)) ∧ s.dramG = 2 ^ s.rd fDRM_CFG_GRAIN_LOG2) ∧
  (∀ (s : State) (a : Nat), s.dramSub a = a / s.dramG % s.dramN ∧
    s.dramBurst a = (a / (s.dramG * s.dramN) * s.dramG + a % s.dramG) / 64) ∧
  (∀ (s : State) (a b : Nat), 0 < s.dramN → 8 ≤ s.rd fDRM_CFG_GRAIN_LOG2 → s.dramSub a = s.dramSub b → s.dramBurst a = s.dramBurst b →
    a % 64 = b % 64 → a = b) ∧
  (∀ order width density ranks a b : Nat, order < 4 → width < 3 → density < 2 → ranks < 2 →
    a < 2 ^ ((if width = 0 then 7 else 6) + (if width = 2 then 2 else 3) + 2 + (16 + density) + ranks) →
    b < 2 ^ ((if width = 0 then 7 else 6) + (if width = 2 then 2 else 3) + 2 + (16 + density) + ranks) →
    dramPlace order width density ranks a = dramPlace order width density ranks b → a = b)

/-- R400: domains as numbers. -/
def Obligations.DomainCodes : Prop :=
  (∀ d < 65536, domainOk d = true ↔ ∃ level inst : Nat, d = domainOf level inst ∧
    ((level ≤ 1 ∧ inst ≤ 255) ∨ ((level = 2 ∨ level = 3) ∧ inst ≤ 7) ∨ (level = 4 ∧ inst = 0))) ∧
  (∀ level inst : Nat, level ≤ 4 → inst ≤ 255 → bitsOf (domainOf level inst) 15 13 = level ∧ bitsOf (domainOf level inst) 8 0 = inst ∧
    bitsOf (domainOf level inst) 12 9 = 0) ∧
  (∀ s detail : Nat, domainOk (slotDomain s detail) = true)

/-- Reset values of the register tables, one field at least of every block. -/
def Obligations.ResetValues : Prop :=
  (State.reset.rd fGEN_ID_PART = 0xEF95 ∧ (∀ i < 4, State.reset.rg .GEN_OWNER_MAP 0 i = 0)) ∧
  (State.reset.rd fTIM_STATUS_STATE = 0 ∧ State.reset.rd fTIM_PPS_WIN_WINDOW_NS = 1000 ∧ State.reset.rd fTIM_FREQ_HI_VALUE = 0x10000 ∧
    State.reset.tim.ct = 0 ∧ State.reset.tim.rc = 0 ∧ State.reset.tim.freq = 2 ^ 48) ∧
  (State.reset.rd fHST_SB_CFG_ADDR = 0x5C ∧ State.reset.rd fHST_SB_CFG_PEC_REQ = 1 ∧
    (∀ c < 64, State.reset.rd fHST_CH_CFG_EN 0 c = 0 ∧ State.reset.rd fHST_CH_CFG_LOG2_SIZE 0 c = 6 ∧ State.reset.rd fHST_CH_CFG_MOD_COUNT 0 c = 1)) ∧
  (State.reset.rd fCLE_ED_TIMEOUT_TIMEOUT_US = 10000 ∧ State.reset.rd fCLE_MIRROR_CFG_STALL_US = 1000 ∧ State.reset.clerk.work = .idle) ∧
  (State.reset.rd fFOL_BOOT_STATUS_STATE = 0 ∧ State.reset.rd fFOL_BOOT_STATUS_TACK = 7) ∧
  ((∀ i < 5, State.reset.rd fFLT_SCOPE_CFG_REC_LIMIT 0 i = 3 ∧ State.reset.rd fFLT_SCOPE_CFG_Q_MS 0 i = [100, 100, 1000, 1000, 10000].getD i 0) ∧
    State.reset.flt.doms = []) ∧
  (State.reset.rd fRAT_CAP_HOST_CAP_W = 800 ∧ State.reset.rd fRAT_THERM_T_SOFT = 92 ∧ State.reset.rd fRAT_THERM_T_HARD = 102 ∧
    State.reset.rd fRAT_THERM_T_CRIT = 107) ∧
  (State.reset.rd fCKR_XCFG_AUTO_XRESET = 1 ∧ (∀ k, State.reset.runs k = false)) ∧
  (State.reset.rd fDRM_SCHED_AGE_NS = 2000 ∧ State.reset.rd fDRM_SCHED_WR_HI = 24 ∧ State.reset.rd fDRM_SCHED_WR_LO = 8 ∧ State.reset.arc.mem = []) ∧
  (State.reset.rd fARC_CAP_POST_POST = 1024 ∧ State.reset.rd fKST_SCRUB_BUCKET_PERIOD_MS = 100 ∧ State.reset.rd fKST_SCRUB_OVF_PERIOD_US = 50) ∧
  (State.reset.rd fSTB_SLIP_FREE = 1048576 ∧ State.reset.rd fSTB_SLIP_LOW_LOW = 1048576 ∧
    (∀ k < 4, State.reset.rd fSTB_POOL_CFG_BAYS 0 k = [512, 510, 1024, 512].getD k 0)) ∧
  (∀ p < 8, ∀ i < 32, State.reset.rd fPRT_CFG_ADMIN p i = 0 ∧ State.reset.rd fPRT_CFG_MAX_FRAME p i = 9600 ∧
    State.reset.rd fPRT_FC_CFG_TX_QUANTA p i = 65535) ∧
  (∀ p < 8, (∀ i < 4, State.reset.rd fRDR_DISC_A_OFF_HI p i = [13, 17, 24, 27].getD i 0 ∧
      State.reset.rd fRDR_DISC_A_OFF_LO p i = [12, 16, 18, 25].getD i 0) ∧
    State.reset.rd fBRS_AGE_CFG_PERIOD_S p = 300 ∧ State.reset.rg .BRS_GRP_SEED p = word (0x11111111 * p) ∧ State.reset.rd fCAT_CFG_SPLIT_I p = 12 ∧
    State.reset.rd fCAT_CFG_SPLIT_E p = 4 ∧ State.reset.rd fFAR_SCRUB_PERIOD_US p = 1000 ∧
    (∀ i < 32, ∀ j < 2, State.reset.rd fHAR_CAD_CYCLE_CYCLE_NS p i j = 1000000) ∧ State.reset.rd fPAR_FLOW_CFG_EN p = 0) ∧
  ((∀ set e i, State.reset.cnt set e i = 0) ∧ (∀ ti p i, State.reset.ent ti p i = tblReset ti i))

/-- R433 to R436: the grid, the names of the rows, the groups and the manual's example. -/
def Obligations.PackageMap : Prop :=
  allBalls.length = 5616 ∧ 76 * 76 - allBalls.length = 160 ∧ (∀ r c : Nat, (ballAt r c).isSome = hasBall r c) ∧
  ([BallGroup.serdesData, .serdesRefclk, .serdesSupply, .pcieData, .pcieRefclk, .pcieSideband, .pcieSupply, .ddrSignal, .ddrVddq, .time,
      .management, .jtag, .coreVdd, .vddAon, .vddio, .vfuse, .vss, .reserved].map fun g => ballMap.countP fun x => x.2.group == g) =
    [1024, 16, 384, 64, 4, 6, 48, 636, 160, 12, 46, 6, 980, 8, 12, 2, 0, 24] ∧
  allBalls.length - ballMap.length = 2184 ∧
  ([15, 16, 17, 18, 19, 20, 21, 22].map fun c => ballAt 5 c) = [some (.sdTxp 18), some (.sdTxn 18), some (.sdRxp 18), some (.sdRxn 18),
    some (.sdTxp 19), some (.sdTxn 19), some (.sdRxp 19), some (.sdRxn 19)] ∧
  ([39, 40, 41, 42, 43, 44, 45, 46].map fun c => ballAt 74 c) = [some (.sdTxp 200), some (.sdTxn 200), some (.sdRxp 200), some (.sdRxn 200),
    some (.sdTxp 201), some (.sdTxn 201), some (.sdRxp 201), some (.sdRxn 201)] ∧
  ballAt 9 7 = some (.sdRefclkP 0) ∧ ballAt 9 8 = some (.sdRefclkN 0) ∧ ballAt 13 1 = some (.ddrDq 0 0 0) ∧ ballAt 13 49 = some .timeRefP ∧
  ballAt 1 1 = none ∧ ballAt 38 38 = none ∧
  [ballName 5 15, ballName 74 39, ballName 9 7, ballName 13 1, ballName 13 49] = ["E15", "CV39", "J7", "N1", "N49"]

/-- A step of the block runs the command at the front of its queue with the queue's rest (the row's cut: a block takes commands). -/
def Obligations.StepRunsFront : Prop :=
  ∀ (s : State) (c : Instr) (rest : List Instr), s.pending = c :: rest → step s = exec c { s with pending := rest }

/-- R33, R34, R38, R424: course time advances in every state while TCLK runs, and pulse handshakes end (assumption log 26). That the step on an empty queue is a cycle of TCLK is the model's choice
(assumption log 31), and so is the rate at which the daybook's queue drains (assumption log 25). -/
def Obligations.IdleTick : Prop :=
  (∀ s : State, s.pending = [] → s.ckr.pulses = [] → s.flt.dayQ = [] ∨ s.tim.now % 10 ≠ 9 → s.runs 2 = true →
    step s = .next { s with tim := { s.tim with ct := s.tim.ct + s.tim.freq, rc := s.tim.rc + s.tim.freq, now := s.tim.now + 1 } }) ∧
  (∀ s : State, s.pending = [] → s.ckr.pulses = [] → s.flt.dayQ = [] ∨ s.tim.now % 10 ≠ 9 → s.runs 2 = false → step s = .next { s with tim := { s.tim with now := s.tim.now + 1 } }) ∧
  (∀ s : State, s.pending = [] → s.ckr.pulses = [] → s.tim.now % 10 = 9 → s.runs 2 = true → step s = .next { s.daybookNext with tim := { s.tim with ct := s.tim.ct + s.tim.freq, rc := s.tim.rc + s.tim.freq, now := s.tim.now + 1 } }) ∧
  (∀ (s : State) (h : HostId) (v : Nat) (more : Bool), s.pending = [] → s.flt.dayQ = [] → s.ckr.pulses = [(2 + h.num, .msi h v, more)] → h ∉ s.hst.lost → s.runs 2 = true →
    s.msixMasked h v = false → step s = .next { s with tim := { s.tim with ct := s.tim.ct + s.tim.freq, rc := s.tim.rc + s.tim.freq, now := s.tim.now + 1 }, hst := { s.hst with out := s.hst.out ++ (if more = true then [.msi h v] else []) }, ckr := { s.ckr with pulses := if more = true then [(2 + h.num, .msi h v, false)] else [] } })

/-- A command's effect is on everything but the queue, for each of the 203 commands. -/
def Obligations.QueueUntouched : Prop := ∀ (c : Instr) (s t : State), exec c s = .next t → t.pending = s.pending

/-- The invariant of archive memory (R308): kept by every step from every state, whichever command is at the front of the queue. -/
def Obligations.StepKeepsInv : Prop := ∀ s t : State, s.Inv → step s = .next t → t.Inv

/-- The reset state meets the invariant that every step keeps. -/
def Obligations.ResetInv : Prop :=
  State.reset.Inv ∧ State.reset.pending = [] ∧ State.reset.regs = [] ∧ State.reset.cnts = [] ∧ State.reset.tables = [] ∧ State.reset.clerk.work = .idle

/-- No command faults, and none but a private instruction of the unlocked test TAP (R438) is refused: ordinary data never ends a run. That
the unlocked test TAP's own instructions are refused is the model's choice (assumption log 36). -/
def Obligations.CommandsComplete : Prop :=
  (∀ (c : Instr) (s : State), (∃ t, exec c s = .next t) ∨
    (exec c s = .refused .privateTestInstruction ∧ s.on fFOL_OTP_POLICY_DEBUG_LOCK = false ∧
      ((∃ ir, c = .jtagInstruction true (.test ir)) ∨ (∃ cells, c = .jtagInstruction true (.boundaryScan cells)) ∨
        (∃ ac cells drive, c = .jtagInstruction true (.extest ac cells drive))))) ∧
  (∀ s : State, SafeStep s ∨ step s = .refused .privateTestInstruction)

/-- The register map of BAR0 (R464, R466) is one to one: addressing a register and decoding the address give the register back. -/
def Obligations.RegMapRoundTrip : Prop :=
  ∀ (r : Reg) (p i j k : Nat), (if r.desc.block.perPipe then p < 8 else p = 0) →
    (match r.desc.dims with
      | [] => i = 0 ∧ j = 0 ∧ k = 0
      | [(a, _)] => i < a ∧ j = 0 ∧ k = 0
      | [(a, _), (b, _)] => i < a ∧ j < b ∧ k = 0
      | (a, _) :: (b, _) :: (c, _) :: _ => i < a ∧ j < b ∧ k < c) →
    regAt (r.addr p i j k) = some ⟨r, p, i, j, k⟩ ∧ r.addr p i j k % 4 = 0 ∧ r.addr p i j k < 0x2000000
end

