-- ==== Sys2Proof/Laws/Memory.lean ====
section
/-! SUPPORT. Archive memory: a byte written reads back, every other byte stays, and every operation keeps the canonical form. -/
namespace Sys2Proof.Machine

theorem Memory.okFrom_mono {m : Memory} {a b : Nat} (h : a ≤ b) (hm : Memory.okFrom b m = true) : Memory.okFrom a m = true := by
  cases m with
  | nil => rfl
  | cons c t =>
    obtain ⟨k, v⟩ := c
    simp only [Memory.okFrom, Bool.and_eq_true, decide_eq_true_eq] at hm ⊢
    exact ⟨⟨Nat.le_trans h hm.1.1, hm.1.2⟩, hm.2⟩

theorem Memory.read_below {m : Memory} {a b : Nat} (hm : Memory.okFrom b m = true) (h : a < b) : Memory.read m a = Memory.blank := by
  induction m generalizing b with
  | nil => rfl
  | cons c t ih =>
    obtain ⟨k, v⟩ := c
    simp only [Memory.okFrom, Bool.and_eq_true, decide_eq_true_eq] at hm
    have : k ≠ a := by omega
    simp only [Memory.read, this, if_false]
    exact ih hm.2 (by omega)

theorem Memory.write_okFrom {m : Memory} {a lo : Nat} {b : Byte} (hm : Memory.okFrom lo m = true) (h : lo ≤ a) :
    Memory.okFrom lo (Memory.write m a b) = true := by
  induction m generalizing lo with
  | nil =>
    unfold Memory.write
    split
    · rfl
    · simp [Memory.okFrom, h, *]
  | cons c t ih =>
    obtain ⟨k, v⟩ := c
    simp only [Memory.okFrom, Bool.and_eq_true, decide_eq_true_eq] at hm
    unfold Memory.write
    split
    · next hlt =>
      split
      · simp [Memory.okFrom, hm.1.1, hm.1.2, hm.2]
      · have : Memory.okFrom (k + 1) t = true := hm.2
        simp only [Memory.okFrom, Bool.and_eq_true, decide_eq_true_eq]
        refine ⟨⟨h, ?_⟩, ⟨by omega, hm.1.2⟩, hm.2⟩
        simp [bne_iff_ne, *]
    · split
      · next heq =>
        split
        · exact Memory.okFrom_mono (by omega) hm.2
        · subst heq
          simp only [Memory.okFrom, Bool.and_eq_true, decide_eq_true_eq]
          exact ⟨⟨h, by simp [bne_iff_ne, *]⟩, hm.2⟩
      · simp only [Memory.okFrom, Bool.and_eq_true, decide_eq_true_eq]
        exact ⟨hm.1, ih hm.2 (by omega)⟩

/-- A write keeps the canonical form. -/
theorem Memory.write_wf {m : Memory} (a : Nat) (b : Byte) (hm : Memory.wf m = true) : Memory.wf (Memory.write m a b) = true :=
  Memory.write_okFrom hm (Nat.zero_le a)

/-- A write of several bytes keeps the canonical form. -/
theorem Memory.writes_wf {m : Memory} (a : Nat) (bs : List Byte) (hm : Memory.wf m = true) :
    Memory.wf (Memory.writes m a bs) = true := by
  induction bs generalizing m a with
  | nil => exact hm
  | cons b t ih => exact ih (a + 1) (Memory.write_wf a b hm)

theorem Memory.filter_okFrom {m : Memory} (p : Host.Cell → Bool) {lo : Nat} (hm : Memory.okFrom lo m = true) :
    Memory.okFrom lo (List.filter p m) = true := by
  induction m generalizing lo with
  | nil => rfl
  | cons c t ih =>
    obtain ⟨k, v⟩ := c
    simp only [Memory.okFrom, Bool.and_eq_true, decide_eq_true_eq] at hm
    by_cases hp : p (k, v) = true
    · simp only [List.filter_cons, hp, if_true, Memory.okFrom, Bool.and_eq_true, decide_eq_true_eq]
      exact ⟨hm.1, ih hm.2⟩
    · simp only [List.filter_cons, hp]
      exact Memory.okFrom_mono (by omega) (ih hm.2)

/-- Clearing a range keeps the canonical form. -/
theorem Memory.clear_wf {m : Memory} (a n : Nat) (hm : Memory.wf m = true) : Memory.wf (Memory.clear m a n) = true :=
  Memory.filter_okFrom _ hm

/-- A byte written reads back. -/
theorem Memory.read_write_self {m : Memory} {a : Nat} (b : Byte) (hm : Memory.wf m = true) :
    Memory.read (Memory.write m a b) a = b := by
  suffices h : ∀ lo, Memory.okFrom lo m = true → Memory.read (Memory.write m a b) a = b from h 0 hm
  clear hm
  induction m with
  | nil => intro lo _; unfold Memory.write; split <;> simp [Memory.read, *]
  | cons c t ih =>
    obtain ⟨k, v⟩ := c
    intro lo hm
    have hm' := hm
    simp only [Memory.okFrom, Bool.and_eq_true, decide_eq_true_eq] at hm
    unfold Memory.write
    split
    · next hlt =>
      split
      · next hb =>
        have := Memory.read_below (m := (k, v) :: t) (a := a) (b := k)
          (by simp only [Memory.okFrom, Bool.and_eq_true, decide_eq_true_eq]; exact ⟨⟨Nat.le_refl k, hm.1.2⟩, hm.2⟩) hlt
        rw [this, hb]
      · simp [Memory.read]
    · split
      · next heq =>
        split
        · next hb => rw [hb]; exact Memory.read_below hm.2 (by omega)
        · simp [Memory.read]
      · next h1 h2 =>
        have : k ≠ a := fun h => h2 h.symm
        simp only [Memory.read, this, if_false]
        exact ih _ hm.2

/-- A write leaves every other byte alone. -/
theorem Memory.read_write_ne (m : Memory) {a x : Nat} (b : Byte) (h : x ≠ a) :
    Memory.read (Memory.write m a b) x = Memory.read m x := by
  induction m with
  | nil => unfold Memory.write; split <;> simp [Memory.read, Ne.symm h]
  | cons c t ih =>
    obtain ⟨k, v⟩ := c
    unfold Memory.write
    split
    · split <;> simp [Memory.read, Ne.symm h]
    · split
      · next heq => subst heq; split <;> simp [Memory.read, Ne.symm h]
      · by_cases hk : k = x <;> simp [Memory.read, hk, ih]

/-- A write of several bytes leaves every byte outside them alone. -/
theorem Memory.read_writes_out (m : Memory) (a x : Nat) (bs : List Byte) (h : x < a ∨ a + bs.length ≤ x) :
    Memory.read (Memory.writes m a bs) x = Memory.read m x := by
  induction bs generalizing m a with
  | nil => rfl
  | cons b t ih =>
    simp only [List.length_cons] at h
    show Memory.read (Memory.writes (Memory.write m a b) (a + 1) t) x = _
    rw [ih _ _ (by omega), Memory.read_write_ne _ _ (by omega)]

/-- Each of several bytes written reads back. -/
theorem Memory.read_writes_in (m : Memory) (a i : Nat) (bs : List Byte) (hm : Memory.wf m = true) (h : i < bs.length) :
    Memory.read (Memory.writes m a bs) (a + i) = bs[i] := by
  induction bs generalizing m a i with
  | nil => simp at h
  | cons b t ih =>
    show Memory.read (Memory.writes (Memory.write m a b) (a + 1) t) (a + i) = _
    cases i with
    | zero => simp only [Nat.add_zero]; rw [Memory.read_writes_out _ _ _ _ (by omega), Memory.read_write_self _ hm]; rfl
    | succ j =>
      have := ih (Memory.write m a b) (a + 1) j (Memory.write_wf a b hm) (by simpa using h)
      rw [show a + (j + 1) = a + 1 + j by omega, this]; rfl

end Sys2Proof.Machine
end

