-- ==== Sys2Proof/Laws/State.lean ====
section
/-! SUPPORT. What the named updates of the state leave alone: one lemma for each field and update, so that no later proof unfolds one. -/
namespace Sys2Proof.Machine

/-- Two states with equal fields are equal. -/
theorem State.eq_of_fields {s t : State}
    (h0 : s.pending = t.pending) (h1 : s.regs = t.regs) (h2 : s.free = t.free) (h3 : s.tim = t.tim) (h4 : s.clerk = t.clerk) (h5 :
    s.flt = t.flt) (h6 : s.hst = t.hst) (h7 : s.cnts = t.cnts) (h8 : s.saved = t.saved) (h9 : s.epoch = t.epoch) (h10 : s.tables =
    t.tables) (h11 : s.ports = t.ports) (h12 : s.fwd = t.fwd) (h13 : s.arc = t.arc) (h14 : s.drm = t.drm) (h15 : s.ed = t.ed) (h16 :
    s.lrn = t.lrn) (h17 : s.rat = t.rat) (h18 : s.fol = t.fol) (h19 : s.ckr = t.ckr) (h20 : s.pin = t.pin) : s = t := by
  cases s
  cases t
  simp only at *
  subst_vars
  rfl

/-! ### `setRg` changes only `regs` -/
@[simp] theorem State.setRg_pending (s : State) (r : Reg) (w : Word) (p i j k : Nat) : (s.setRg r w p i j k).pending = s.pending := (rfl)
@[simp] theorem State.setRg_free (s : State) (r : Reg) (w : Word) (p i j k : Nat) : (s.setRg r w p i j k).free = s.free := (rfl)
@[simp] theorem State.setRg_tim (s : State) (r : Reg) (w : Word) (p i j k : Nat) : (s.setRg r w p i j k).tim = s.tim := (rfl)
@[simp] theorem State.setRg_clerk (s : State) (r : Reg) (w : Word) (p i j k : Nat) : (s.setRg r w p i j k).clerk = s.clerk := (rfl)
@[simp] theorem State.setRg_flt (s : State) (r : Reg) (w : Word) (p i j k : Nat) : (s.setRg r w p i j k).flt = s.flt := (rfl)
@[simp] theorem State.setRg_hst (s : State) (r : Reg) (w : Word) (p i j k : Nat) : (s.setRg r w p i j k).hst = s.hst := (rfl)
@[simp] theorem State.setRg_cnts (s : State) (r : Reg) (w : Word) (p i j k : Nat) : (s.setRg r w p i j k).cnts = s.cnts := (rfl)
@[simp] theorem State.setRg_saved (s : State) (r : Reg) (w : Word) (p i j k : Nat) : (s.setRg r w p i j k).saved = s.saved := (rfl)
@[simp] theorem State.setRg_epoch (s : State) (r : Reg) (w : Word) (p i j k : Nat) : (s.setRg r w p i j k).epoch = s.epoch := (rfl)
@[simp] theorem State.setRg_tables (s : State) (r : Reg) (w : Word) (p i j k : Nat) : (s.setRg r w p i j k).tables = s.tables := (rfl)
@[simp] theorem State.setRg_ports (s : State) (r : Reg) (w : Word) (p i j k : Nat) : (s.setRg r w p i j k).ports = s.ports := (rfl)
@[simp] theorem State.setRg_fwd (s : State) (r : Reg) (w : Word) (p i j k : Nat) : (s.setRg r w p i j k).fwd = s.fwd := (rfl)
@[simp] theorem State.setRg_arc (s : State) (r : Reg) (w : Word) (p i j k : Nat) : (s.setRg r w p i j k).arc = s.arc := (rfl)
@[simp] theorem State.setRg_drm (s : State) (r : Reg) (w : Word) (p i j k : Nat) : (s.setRg r w p i j k).drm = s.drm := (rfl)
@[simp] theorem State.setRg_ed (s : State) (r : Reg) (w : Word) (p i j k : Nat) : (s.setRg r w p i j k).ed = s.ed := (rfl)
@[simp] theorem State.setRg_lrn (s : State) (r : Reg) (w : Word) (p i j k : Nat) : (s.setRg r w p i j k).lrn = s.lrn := (rfl)
@[simp] theorem State.setRg_rat (s : State) (r : Reg) (w : Word) (p i j k : Nat) : (s.setRg r w p i j k).rat = s.rat := (rfl)
@[simp] theorem State.setRg_fol (s : State) (r : Reg) (w : Word) (p i j k : Nat) : (s.setRg r w p i j k).fol = s.fol := (rfl)
@[simp] theorem State.setRg_ckr (s : State) (r : Reg) (w : Word) (p i j k : Nat) : (s.setRg r w p i j k).ckr = s.ckr := (rfl)
@[simp] theorem State.setRg_pin (s : State) (r : Reg) (w : Word) (p i j k : Nat) : (s.setRg r w p i j k).pin = s.pin := (rfl)

/-! ### `wr` changes only `regs` -/
@[simp] theorem State.wr_pending (s : State) (f : Fld) (v p i j k : Nat) : (s.wr f v p i j k).pending = s.pending := (rfl)
@[simp] theorem State.wr_free (s : State) (f : Fld) (v p i j k : Nat) : (s.wr f v p i j k).free = s.free := (rfl)
@[simp] theorem State.wr_tim (s : State) (f : Fld) (v p i j k : Nat) : (s.wr f v p i j k).tim = s.tim := (rfl)
@[simp] theorem State.wr_clerk (s : State) (f : Fld) (v p i j k : Nat) : (s.wr f v p i j k).clerk = s.clerk := (rfl)
@[simp] theorem State.wr_flt (s : State) (f : Fld) (v p i j k : Nat) : (s.wr f v p i j k).flt = s.flt := (rfl)
@[simp] theorem State.wr_hst (s : State) (f : Fld) (v p i j k : Nat) : (s.wr f v p i j k).hst = s.hst := (rfl)
@[simp] theorem State.wr_cnts (s : State) (f : Fld) (v p i j k : Nat) : (s.wr f v p i j k).cnts = s.cnts := (rfl)
@[simp] theorem State.wr_saved (s : State) (f : Fld) (v p i j k : Nat) : (s.wr f v p i j k).saved = s.saved := (rfl)
@[simp] theorem State.wr_epoch (s : State) (f : Fld) (v p i j k : Nat) : (s.wr f v p i j k).epoch = s.epoch := (rfl)
@[simp] theorem State.wr_tables (s : State) (f : Fld) (v p i j k : Nat) : (s.wr f v p i j k).tables = s.tables := (rfl)
@[simp] theorem State.wr_ports (s : State) (f : Fld) (v p i j k : Nat) : (s.wr f v p i j k).ports = s.ports := (rfl)
@[simp] theorem State.wr_fwd (s : State) (f : Fld) (v p i j k : Nat) : (s.wr f v p i j k).fwd = s.fwd := (rfl)
@[simp] theorem State.wr_arc (s : State) (f : Fld) (v p i j k : Nat) : (s.wr f v p i j k).arc = s.arc := (rfl)
@[simp] theorem State.wr_drm (s : State) (f : Fld) (v p i j k : Nat) : (s.wr f v p i j k).drm = s.drm := (rfl)
@[simp] theorem State.wr_ed (s : State) (f : Fld) (v p i j k : Nat) : (s.wr f v p i j k).ed = s.ed := (rfl)
@[simp] theorem State.wr_lrn (s : State) (f : Fld) (v p i j k : Nat) : (s.wr f v p i j k).lrn = s.lrn := (rfl)
@[simp] theorem State.wr_rat (s : State) (f : Fld) (v p i j k : Nat) : (s.wr f v p i j k).rat = s.rat := (rfl)
@[simp] theorem State.wr_fol (s : State) (f : Fld) (v p i j k : Nat) : (s.wr f v p i j k).fol = s.fol := (rfl)
@[simp] theorem State.wr_ckr (s : State) (f : Fld) (v p i j k : Nat) : (s.wr f v p i j k).ckr = s.ckr := (rfl)
@[simp] theorem State.wr_pin (s : State) (f : Fld) (v p i j k : Nat) : (s.wr f v p i j k).pin = s.pin := (rfl)

/-! ### `addSat` changes only `regs` -/
@[simp] theorem State.addSat_pending (s : State) (f : Fld) (v p i j k : Nat) : (s.addSat f v p i j k).pending = s.pending := (rfl)
@[simp] theorem State.addSat_free (s : State) (f : Fld) (v p i j k : Nat) : (s.addSat f v p i j k).free = s.free := (rfl)
@[simp] theorem State.addSat_tim (s : State) (f : Fld) (v p i j k : Nat) : (s.addSat f v p i j k).tim = s.tim := (rfl)
@[simp] theorem State.addSat_clerk (s : State) (f : Fld) (v p i j k : Nat) : (s.addSat f v p i j k).clerk = s.clerk := (rfl)
@[simp] theorem State.addSat_flt (s : State) (f : Fld) (v p i j k : Nat) : (s.addSat f v p i j k).flt = s.flt := (rfl)
@[simp] theorem State.addSat_hst (s : State) (f : Fld) (v p i j k : Nat) : (s.addSat f v p i j k).hst = s.hst := (rfl)
@[simp] theorem State.addSat_cnts (s : State) (f : Fld) (v p i j k : Nat) : (s.addSat f v p i j k).cnts = s.cnts := (rfl)
@[simp] theorem State.addSat_saved (s : State) (f : Fld) (v p i j k : Nat) : (s.addSat f v p i j k).saved = s.saved := (rfl)
@[simp] theorem State.addSat_epoch (s : State) (f : Fld) (v p i j k : Nat) : (s.addSat f v p i j k).epoch = s.epoch := (rfl)
@[simp] theorem State.addSat_tables (s : State) (f : Fld) (v p i j k : Nat) : (s.addSat f v p i j k).tables = s.tables := (rfl)
@[simp] theorem State.addSat_ports (s : State) (f : Fld) (v p i j k : Nat) : (s.addSat f v p i j k).ports = s.ports := (rfl)
@[simp] theorem State.addSat_fwd (s : State) (f : Fld) (v p i j k : Nat) : (s.addSat f v p i j k).fwd = s.fwd := (rfl)
@[simp] theorem State.addSat_arc (s : State) (f : Fld) (v p i j k : Nat) : (s.addSat f v p i j k).arc = s.arc := (rfl)
@[simp] theorem State.addSat_drm (s : State) (f : Fld) (v p i j k : Nat) : (s.addSat f v p i j k).drm = s.drm := (rfl)
@[simp] theorem State.addSat_ed (s : State) (f : Fld) (v p i j k : Nat) : (s.addSat f v p i j k).ed = s.ed := (rfl)
@[simp] theorem State.addSat_lrn (s : State) (f : Fld) (v p i j k : Nat) : (s.addSat f v p i j k).lrn = s.lrn := (rfl)
@[simp] theorem State.addSat_rat (s : State) (f : Fld) (v p i j k : Nat) : (s.addSat f v p i j k).rat = s.rat := (rfl)
@[simp] theorem State.addSat_fol (s : State) (f : Fld) (v p i j k : Nat) : (s.addSat f v p i j k).fol = s.fol := (rfl)
@[simp] theorem State.addSat_ckr (s : State) (f : Fld) (v p i j k : Nat) : (s.addSat f v p i j k).ckr = s.ckr := (rfl)
@[simp] theorem State.addSat_pin (s : State) (f : Fld) (v p i j k : Nat) : (s.addSat f v p i j k).pin = s.pin := (rfl)

/-! ### `addWrap` changes only `regs` -/
@[simp] theorem State.addWrap_pending (s : State) (f : Fld) (v p i j k : Nat) : (s.addWrap f v p i j k).pending = s.pending := (rfl)
@[simp] theorem State.addWrap_free (s : State) (f : Fld) (v p i j k : Nat) : (s.addWrap f v p i j k).free = s.free := (rfl)
@[simp] theorem State.addWrap_tim (s : State) (f : Fld) (v p i j k : Nat) : (s.addWrap f v p i j k).tim = s.tim := (rfl)
@[simp] theorem State.addWrap_clerk (s : State) (f : Fld) (v p i j k : Nat) : (s.addWrap f v p i j k).clerk = s.clerk := (rfl)
@[simp] theorem State.addWrap_flt (s : State) (f : Fld) (v p i j k : Nat) : (s.addWrap f v p i j k).flt = s.flt := (rfl)
@[simp] theorem State.addWrap_hst (s : State) (f : Fld) (v p i j k : Nat) : (s.addWrap f v p i j k).hst = s.hst := (rfl)
@[simp] theorem State.addWrap_cnts (s : State) (f : Fld) (v p i j k : Nat) : (s.addWrap f v p i j k).cnts = s.cnts := (rfl)
@[simp] theorem State.addWrap_saved (s : State) (f : Fld) (v p i j k : Nat) : (s.addWrap f v p i j k).saved = s.saved := (rfl)
@[simp] theorem State.addWrap_epoch (s : State) (f : Fld) (v p i j k : Nat) : (s.addWrap f v p i j k).epoch = s.epoch := (rfl)
@[simp] theorem State.addWrap_tables (s : State) (f : Fld) (v p i j k : Nat) : (s.addWrap f v p i j k).tables = s.tables := (rfl)
@[simp] theorem State.addWrap_ports (s : State) (f : Fld) (v p i j k : Nat) : (s.addWrap f v p i j k).ports = s.ports := (rfl)
@[simp] theorem State.addWrap_fwd (s : State) (f : Fld) (v p i j k : Nat) : (s.addWrap f v p i j k).fwd = s.fwd := (rfl)
@[simp] theorem State.addWrap_arc (s : State) (f : Fld) (v p i j k : Nat) : (s.addWrap f v p i j k).arc = s.arc := (rfl)
@[simp] theorem State.addWrap_drm (s : State) (f : Fld) (v p i j k : Nat) : (s.addWrap f v p i j k).drm = s.drm := (rfl)
@[simp] theorem State.addWrap_ed (s : State) (f : Fld) (v p i j k : Nat) : (s.addWrap f v p i j k).ed = s.ed := (rfl)
@[simp] theorem State.addWrap_lrn (s : State) (f : Fld) (v p i j k : Nat) : (s.addWrap f v p i j k).lrn = s.lrn := (rfl)
@[simp] theorem State.addWrap_rat (s : State) (f : Fld) (v p i j k : Nat) : (s.addWrap f v p i j k).rat = s.rat := (rfl)
@[simp] theorem State.addWrap_fol (s : State) (f : Fld) (v p i j k : Nat) : (s.addWrap f v p i j k).fol = s.fol := (rfl)
@[simp] theorem State.addWrap_ckr (s : State) (f : Fld) (v p i j k : Nat) : (s.addWrap f v p i j k).ckr = s.ckr := (rfl)
@[simp] theorem State.addWrap_pin (s : State) (f : Fld) (v p i j k : Nat) : (s.addWrap f v p i j k).pin = s.pin := (rfl)

/-! ### `sub` changes only `regs` -/
@[simp] theorem State.sub_pending (s : State) (f : Fld) (v p i j k : Nat) : (s.sub f v p i j k).pending = s.pending := (rfl)
@[simp] theorem State.sub_free (s : State) (f : Fld) (v p i j k : Nat) : (s.sub f v p i j k).free = s.free := (rfl)
@[simp] theorem State.sub_tim (s : State) (f : Fld) (v p i j k : Nat) : (s.sub f v p i j k).tim = s.tim := (rfl)
@[simp] theorem State.sub_clerk (s : State) (f : Fld) (v p i j k : Nat) : (s.sub f v p i j k).clerk = s.clerk := (rfl)
@[simp] theorem State.sub_flt (s : State) (f : Fld) (v p i j k : Nat) : (s.sub f v p i j k).flt = s.flt := (rfl)
@[simp] theorem State.sub_hst (s : State) (f : Fld) (v p i j k : Nat) : (s.sub f v p i j k).hst = s.hst := (rfl)
@[simp] theorem State.sub_cnts (s : State) (f : Fld) (v p i j k : Nat) : (s.sub f v p i j k).cnts = s.cnts := (rfl)
@[simp] theorem State.sub_saved (s : State) (f : Fld) (v p i j k : Nat) : (s.sub f v p i j k).saved = s.saved := (rfl)
@[simp] theorem State.sub_epoch (s : State) (f : Fld) (v p i j k : Nat) : (s.sub f v p i j k).epoch = s.epoch := (rfl)
@[simp] theorem State.sub_tables (s : State) (f : Fld) (v p i j k : Nat) : (s.sub f v p i j k).tables = s.tables := (rfl)
@[simp] theorem State.sub_ports (s : State) (f : Fld) (v p i j k : Nat) : (s.sub f v p i j k).ports = s.ports := (rfl)
@[simp] theorem State.sub_fwd (s : State) (f : Fld) (v p i j k : Nat) : (s.sub f v p i j k).fwd = s.fwd := (rfl)
@[simp] theorem State.sub_arc (s : State) (f : Fld) (v p i j k : Nat) : (s.sub f v p i j k).arc = s.arc := (rfl)
@[simp] theorem State.sub_drm (s : State) (f : Fld) (v p i j k : Nat) : (s.sub f v p i j k).drm = s.drm := (rfl)
@[simp] theorem State.sub_ed (s : State) (f : Fld) (v p i j k : Nat) : (s.sub f v p i j k).ed = s.ed := (rfl)
@[simp] theorem State.sub_lrn (s : State) (f : Fld) (v p i j k : Nat) : (s.sub f v p i j k).lrn = s.lrn := (rfl)
@[simp] theorem State.sub_rat (s : State) (f : Fld) (v p i j k : Nat) : (s.sub f v p i j k).rat = s.rat := (rfl)
@[simp] theorem State.sub_fol (s : State) (f : Fld) (v p i j k : Nat) : (s.sub f v p i j k).fol = s.fol := (rfl)
@[simp] theorem State.sub_ckr (s : State) (f : Fld) (v p i j k : Nat) : (s.sub f v p i j k).ckr = s.ckr := (rfl)
@[simp] theorem State.sub_pin (s : State) (f : Fld) (v p i j k : Nat) : (s.sub f v p i j k).pin = s.pin := (rfl)

/-! ### `countAt` changes only `cnts`, `saved` -/
@[simp] theorem State.countAt_pending (s : State) (a b c n t : Nat) : (s.countAt a b c n t).pending = s.pending := by
  unfold State.countAt
  dsimp only
  repeat' split
  all_goals rfl
@[simp] theorem State.countAt_regs (s : State) (a b c n t : Nat) : (s.countAt a b c n t).regs = s.regs := by
  unfold State.countAt
  dsimp only
  repeat' split
  all_goals rfl
@[simp] theorem State.countAt_free (s : State) (a b c n t : Nat) : (s.countAt a b c n t).free = s.free := by
  unfold State.countAt
  dsimp only
  repeat' split
  all_goals rfl
@[simp] theorem State.countAt_tim (s : State) (a b c n t : Nat) : (s.countAt a b c n t).tim = s.tim := by
  unfold State.countAt
  dsimp only
  repeat' split
  all_goals rfl
@[simp] theorem State.countAt_clerk (s : State) (a b c n t : Nat) : (s.countAt a b c n t).clerk = s.clerk := by
  unfold State.countAt
  dsimp only
  repeat' split
  all_goals rfl
@[simp] theorem State.countAt_flt (s : State) (a b c n t : Nat) : (s.countAt a b c n t).flt = s.flt := by
  unfold State.countAt
  dsimp only
  repeat' split
  all_goals rfl
@[simp] theorem State.countAt_hst (s : State) (a b c n t : Nat) : (s.countAt a b c n t).hst = s.hst := by
  unfold State.countAt
  dsimp only
  repeat' split
  all_goals rfl
@[simp] theorem State.countAt_epoch (s : State) (a b c n t : Nat) : (s.countAt a b c n t).epoch = s.epoch := by
  unfold State.countAt
  dsimp only
  repeat' split
  all_goals rfl
@[simp] theorem State.countAt_tables (s : State) (a b c n t : Nat) : (s.countAt a b c n t).tables = s.tables := by
  unfold State.countAt
  dsimp only
  repeat' split
  all_goals rfl
@[simp] theorem State.countAt_ports (s : State) (a b c n t : Nat) : (s.countAt a b c n t).ports = s.ports := by
  unfold State.countAt
  dsimp only
  repeat' split
  all_goals rfl
@[simp] theorem State.countAt_fwd (s : State) (a b c n t : Nat) : (s.countAt a b c n t).fwd = s.fwd := by
  unfold State.countAt
  dsimp only
  repeat' split
  all_goals rfl
@[simp] theorem State.countAt_arc (s : State) (a b c n t : Nat) : (s.countAt a b c n t).arc = s.arc := by
  unfold State.countAt
  dsimp only
  repeat' split
  all_goals rfl
@[simp] theorem State.countAt_drm (s : State) (a b c n t : Nat) : (s.countAt a b c n t).drm = s.drm := by
  unfold State.countAt
  dsimp only
  repeat' split
  all_goals rfl
@[simp] theorem State.countAt_ed (s : State) (a b c n t : Nat) : (s.countAt a b c n t).ed = s.ed := by
  unfold State.countAt
  dsimp only
  repeat' split
  all_goals rfl
@[simp] theorem State.countAt_lrn (s : State) (a b c n t : Nat) : (s.countAt a b c n t).lrn = s.lrn := by
  unfold State.countAt
  dsimp only
  repeat' split
  all_goals rfl
@[simp] theorem State.countAt_rat (s : State) (a b c n t : Nat) : (s.countAt a b c n t).rat = s.rat := by
  unfold State.countAt
  dsimp only
  repeat' split
  all_goals rfl
@[simp] theorem State.countAt_fol (s : State) (a b c n t : Nat) : (s.countAt a b c n t).fol = s.fol := by
  unfold State.countAt
  dsimp only
  repeat' split
  all_goals rfl
@[simp] theorem State.countAt_ckr (s : State) (a b c n t : Nat) : (s.countAt a b c n t).ckr = s.ckr := by
  unfold State.countAt
  dsimp only
  repeat' split
  all_goals rfl
@[simp] theorem State.countAt_pin (s : State) (a b c n t : Nat) : (s.countAt a b c n t).pin = s.pin := by
  unfold State.countAt
  dsimp only
  repeat' split
  all_goals rfl

/-! ### `count` changes only `cnts`, `saved` -/
@[simp] theorem State.count_pending (s : State) (a b c n : Nat) : (s.count a b c n).pending = s.pending := State.countAt_pending ..
@[simp] theorem State.count_regs (s : State) (a b c n : Nat) : (s.count a b c n).regs = s.regs := State.countAt_regs ..
@[simp] theorem State.count_free (s : State) (a b c n : Nat) : (s.count a b c n).free = s.free := State.countAt_free ..
@[simp] theorem State.count_tim (s : State) (a b c n : Nat) : (s.count a b c n).tim = s.tim := State.countAt_tim ..
@[simp] theorem State.count_clerk (s : State) (a b c n : Nat) : (s.count a b c n).clerk = s.clerk := State.countAt_clerk ..
@[simp] theorem State.count_flt (s : State) (a b c n : Nat) : (s.count a b c n).flt = s.flt := State.countAt_flt ..
@[simp] theorem State.count_hst (s : State) (a b c n : Nat) : (s.count a b c n).hst = s.hst := State.countAt_hst ..
@[simp] theorem State.count_epoch (s : State) (a b c n : Nat) : (s.count a b c n).epoch = s.epoch := State.countAt_epoch ..
@[simp] theorem State.count_tables (s : State) (a b c n : Nat) : (s.count a b c n).tables = s.tables := State.countAt_tables ..
@[simp] theorem State.count_ports (s : State) (a b c n : Nat) : (s.count a b c n).ports = s.ports := State.countAt_ports ..
@[simp] theorem State.count_fwd (s : State) (a b c n : Nat) : (s.count a b c n).fwd = s.fwd := State.countAt_fwd ..
@[simp] theorem State.count_arc (s : State) (a b c n : Nat) : (s.count a b c n).arc = s.arc := State.countAt_arc ..
@[simp] theorem State.count_drm (s : State) (a b c n : Nat) : (s.count a b c n).drm = s.drm := State.countAt_drm ..
@[simp] theorem State.count_ed (s : State) (a b c n : Nat) : (s.count a b c n).ed = s.ed := State.countAt_ed ..
@[simp] theorem State.count_lrn (s : State) (a b c n : Nat) : (s.count a b c n).lrn = s.lrn := State.countAt_lrn ..
@[simp] theorem State.count_rat (s : State) (a b c n : Nat) : (s.count a b c n).rat = s.rat := State.countAt_rat ..
@[simp] theorem State.count_fol (s : State) (a b c n : Nat) : (s.count a b c n).fol = s.fol := State.countAt_fol ..
@[simp] theorem State.count_ckr (s : State) (a b c n : Nat) : (s.count a b c n).ckr = s.ckr := State.countAt_ckr ..
@[simp] theorem State.count_pin (s : State) (a b c n : Nat) : (s.count a b c n).pin = s.pin := State.countAt_pin ..

/-! ### `blk` changes only `cnts`, `saved` -/
@[simp] theorem State.blk_pending (s : State) (p x n : Nat) : (s.blk p x n).pending = s.pending := State.count_pending ..
@[simp] theorem State.blk_regs (s : State) (p x n : Nat) : (s.blk p x n).regs = s.regs := State.count_regs ..
@[simp] theorem State.blk_free (s : State) (p x n : Nat) : (s.blk p x n).free = s.free := State.count_free ..
@[simp] theorem State.blk_tim (s : State) (p x n : Nat) : (s.blk p x n).tim = s.tim := State.count_tim ..
@[simp] theorem State.blk_clerk (s : State) (p x n : Nat) : (s.blk p x n).clerk = s.clerk := State.count_clerk ..
@[simp] theorem State.blk_flt (s : State) (p x n : Nat) : (s.blk p x n).flt = s.flt := State.count_flt ..
@[simp] theorem State.blk_hst (s : State) (p x n : Nat) : (s.blk p x n).hst = s.hst := State.count_hst ..
@[simp] theorem State.blk_epoch (s : State) (p x n : Nat) : (s.blk p x n).epoch = s.epoch := State.count_epoch ..
@[simp] theorem State.blk_tables (s : State) (p x n : Nat) : (s.blk p x n).tables = s.tables := State.count_tables ..
@[simp] theorem State.blk_ports (s : State) (p x n : Nat) : (s.blk p x n).ports = s.ports := State.count_ports ..
@[simp] theorem State.blk_fwd (s : State) (p x n : Nat) : (s.blk p x n).fwd = s.fwd := State.count_fwd ..
@[simp] theorem State.blk_arc (s : State) (p x n : Nat) : (s.blk p x n).arc = s.arc := State.count_arc ..
@[simp] theorem State.blk_drm (s : State) (p x n : Nat) : (s.blk p x n).drm = s.drm := State.count_drm ..
@[simp] theorem State.blk_ed (s : State) (p x n : Nat) : (s.blk p x n).ed = s.ed := State.count_ed ..
@[simp] theorem State.blk_lrn (s : State) (p x n : Nat) : (s.blk p x n).lrn = s.lrn := State.count_lrn ..
@[simp] theorem State.blk_rat (s : State) (p x n : Nat) : (s.blk p x n).rat = s.rat := State.count_rat ..
@[simp] theorem State.blk_fol (s : State) (p x n : Nat) : (s.blk p x n).fol = s.fol := State.count_fol ..
@[simp] theorem State.blk_ckr (s : State) (p x n : Nat) : (s.blk p x n).ckr = s.ckr := State.count_ckr ..
@[simp] theorem State.blk_pin (s : State) (p x n : Nat) : (s.blk p x n).pin = s.pin := State.count_pin ..

/-! ### `jobRun` changes only `tim` -/
@[simp] theorem State.jobRun_pending (s : State) (j : Job) (i : Nat) : (s.jobRun j i).pending = s.pending := (rfl)
@[simp] theorem State.jobRun_regs (s : State) (j : Job) (i : Nat) : (s.jobRun j i).regs = s.regs := (rfl)
@[simp] theorem State.jobRun_free (s : State) (j : Job) (i : Nat) : (s.jobRun j i).free = s.free := (rfl)
@[simp] theorem State.jobRun_clerk (s : State) (j : Job) (i : Nat) : (s.jobRun j i).clerk = s.clerk := (rfl)
@[simp] theorem State.jobRun_flt (s : State) (j : Job) (i : Nat) : (s.jobRun j i).flt = s.flt := (rfl)
@[simp] theorem State.jobRun_hst (s : State) (j : Job) (i : Nat) : (s.jobRun j i).hst = s.hst := (rfl)
@[simp] theorem State.jobRun_cnts (s : State) (j : Job) (i : Nat) : (s.jobRun j i).cnts = s.cnts := (rfl)
@[simp] theorem State.jobRun_saved (s : State) (j : Job) (i : Nat) : (s.jobRun j i).saved = s.saved := (rfl)
@[simp] theorem State.jobRun_epoch (s : State) (j : Job) (i : Nat) : (s.jobRun j i).epoch = s.epoch := (rfl)
@[simp] theorem State.jobRun_tables (s : State) (j : Job) (i : Nat) : (s.jobRun j i).tables = s.tables := (rfl)
@[simp] theorem State.jobRun_ports (s : State) (j : Job) (i : Nat) : (s.jobRun j i).ports = s.ports := (rfl)
@[simp] theorem State.jobRun_fwd (s : State) (j : Job) (i : Nat) : (s.jobRun j i).fwd = s.fwd := (rfl)
@[simp] theorem State.jobRun_arc (s : State) (j : Job) (i : Nat) : (s.jobRun j i).arc = s.arc := (rfl)
@[simp] theorem State.jobRun_drm (s : State) (j : Job) (i : Nat) : (s.jobRun j i).drm = s.drm := (rfl)
@[simp] theorem State.jobRun_ed (s : State) (j : Job) (i : Nat) : (s.jobRun j i).ed = s.ed := (rfl)
@[simp] theorem State.jobRun_lrn (s : State) (j : Job) (i : Nat) : (s.jobRun j i).lrn = s.lrn := (rfl)
@[simp] theorem State.jobRun_rat (s : State) (j : Job) (i : Nat) : (s.jobRun j i).rat = s.rat := (rfl)
@[simp] theorem State.jobRun_fol (s : State) (j : Job) (i : Nat) : (s.jobRun j i).fol = s.fol := (rfl)
@[simp] theorem State.jobRun_ckr (s : State) (j : Job) (i : Nat) : (s.jobRun j i).ckr = s.ckr := (rfl)
@[simp] theorem State.jobRun_pin (s : State) (j : Job) (i : Nat) : (s.jobRun j i).pin = s.pin := (rfl)

/-! ### `pulse` changes only `regs`, `ckr` -/
@[simp] theorem State.pulse_pending (s : State) (x : Nat) (w : Pulse) : (s.pulse x w).1.pending = s.pending := by
  unfold State.pulse
  dsimp only
  repeat' split
  all_goals simp
@[simp] theorem State.pulse_free (s : State) (x : Nat) (w : Pulse) : (s.pulse x w).1.free = s.free := by
  unfold State.pulse
  dsimp only
  repeat' split
  all_goals simp
@[simp] theorem State.pulse_tim (s : State) (x : Nat) (w : Pulse) : (s.pulse x w).1.tim = s.tim := by
  unfold State.pulse
  dsimp only
  repeat' split
  all_goals simp
@[simp] theorem State.pulse_clerk (s : State) (x : Nat) (w : Pulse) : (s.pulse x w).1.clerk = s.clerk := by
  unfold State.pulse
  dsimp only
  repeat' split
  all_goals simp
@[simp] theorem State.pulse_flt (s : State) (x : Nat) (w : Pulse) : (s.pulse x w).1.flt = s.flt := by
  unfold State.pulse
  dsimp only
  repeat' split
  all_goals simp
@[simp] theorem State.pulse_hst (s : State) (x : Nat) (w : Pulse) : (s.pulse x w).1.hst = s.hst := by
  unfold State.pulse
  dsimp only
  repeat' split
  all_goals simp
@[simp] theorem State.pulse_cnts (s : State) (x : Nat) (w : Pulse) : (s.pulse x w).1.cnts = s.cnts := by
  unfold State.pulse
  dsimp only
  repeat' split
  all_goals simp
@[simp] theorem State.pulse_saved (s : State) (x : Nat) (w : Pulse) : (s.pulse x w).1.saved = s.saved := by
  unfold State.pulse
  dsimp only
  repeat' split
  all_goals simp
@[simp] theorem State.pulse_epoch (s : State) (x : Nat) (w : Pulse) : (s.pulse x w).1.epoch = s.epoch := by
  unfold State.pulse
  dsimp only
  repeat' split
  all_goals simp
@[simp] theorem State.pulse_tables (s : State) (x : Nat) (w : Pulse) : (s.pulse x w).1.tables = s.tables := by
  unfold State.pulse
  dsimp only
  repeat' split
  all_goals simp
@[simp] theorem State.pulse_ports (s : State) (x : Nat) (w : Pulse) : (s.pulse x w).1.ports = s.ports := by
  unfold State.pulse
  dsimp only
  repeat' split
  all_goals simp
@[simp] theorem State.pulse_fwd (s : State) (x : Nat) (w : Pulse) : (s.pulse x w).1.fwd = s.fwd := by
  unfold State.pulse
  dsimp only
  repeat' split
  all_goals simp
@[simp] theorem State.pulse_arc (s : State) (x : Nat) (w : Pulse) : (s.pulse x w).1.arc = s.arc := by
  unfold State.pulse
  dsimp only
  repeat' split
  all_goals simp
@[simp] theorem State.pulse_drm (s : State) (x : Nat) (w : Pulse) : (s.pulse x w).1.drm = s.drm := by
  unfold State.pulse
  dsimp only
  repeat' split
  all_goals simp
@[simp] theorem State.pulse_ed (s : State) (x : Nat) (w : Pulse) : (s.pulse x w).1.ed = s.ed := by
  unfold State.pulse
  dsimp only
  repeat' split
  all_goals simp
@[simp] theorem State.pulse_lrn (s : State) (x : Nat) (w : Pulse) : (s.pulse x w).1.lrn = s.lrn := by
  unfold State.pulse
  dsimp only
  repeat' split
  all_goals simp
@[simp] theorem State.pulse_rat (s : State) (x : Nat) (w : Pulse) : (s.pulse x w).1.rat = s.rat := by
  unfold State.pulse
  dsimp only
  repeat' split
  all_goals simp
@[simp] theorem State.pulse_fol (s : State) (x : Nat) (w : Pulse) : (s.pulse x w).1.fol = s.fol := by
  unfold State.pulse
  dsimp only
  repeat' split
  all_goals simp
@[simp] theorem State.pulse_pin (s : State) (x : Nat) (w : Pulse) : (s.pulse x w).1.pin = s.pin := by
  unfold State.pulse
  dsimp only
  repeat' split
  all_goals simp

/-! ### `timBit` changes only `regs`, `ckr` -/
@[simp] theorem State.timBit_pending (s : State) (f : Fld) (i b : Nat) : (s.timBit f i b).pending = s.pending := by
  unfold State.timBit
  dsimp only
  split <;> simp
@[simp] theorem State.timBit_free (s : State) (f : Fld) (i b : Nat) : (s.timBit f i b).free = s.free := by
  unfold State.timBit
  dsimp only
  split <;> simp
@[simp] theorem State.timBit_tim (s : State) (f : Fld) (i b : Nat) : (s.timBit f i b).tim = s.tim := by
  unfold State.timBit
  dsimp only
  split <;> simp
@[simp] theorem State.timBit_clerk (s : State) (f : Fld) (i b : Nat) : (s.timBit f i b).clerk = s.clerk := by
  unfold State.timBit
  dsimp only
  split <;> simp
@[simp] theorem State.timBit_flt (s : State) (f : Fld) (i b : Nat) : (s.timBit f i b).flt = s.flt := by
  unfold State.timBit
  dsimp only
  split <;> simp
@[simp] theorem State.timBit_hst (s : State) (f : Fld) (i b : Nat) : (s.timBit f i b).hst = s.hst := by
  unfold State.timBit
  dsimp only
  split <;> simp
@[simp] theorem State.timBit_cnts (s : State) (f : Fld) (i b : Nat) : (s.timBit f i b).cnts = s.cnts := by
  unfold State.timBit
  dsimp only
  split <;> simp
@[simp] theorem State.timBit_saved (s : State) (f : Fld) (i b : Nat) : (s.timBit f i b).saved = s.saved := by
  unfold State.timBit
  dsimp only
  split <;> simp
@[simp] theorem State.timBit_epoch (s : State) (f : Fld) (i b : Nat) : (s.timBit f i b).epoch = s.epoch := by
  unfold State.timBit
  dsimp only
  split <;> simp
@[simp] theorem State.timBit_tables (s : State) (f : Fld) (i b : Nat) : (s.timBit f i b).tables = s.tables := by
  unfold State.timBit
  dsimp only
  split <;> simp
@[simp] theorem State.timBit_ports (s : State) (f : Fld) (i b : Nat) : (s.timBit f i b).ports = s.ports := by
  unfold State.timBit
  dsimp only
  split <;> simp
@[simp] theorem State.timBit_fwd (s : State) (f : Fld) (i b : Nat) : (s.timBit f i b).fwd = s.fwd := by
  unfold State.timBit
  dsimp only
  split <;> simp
@[simp] theorem State.timBit_arc (s : State) (f : Fld) (i b : Nat) : (s.timBit f i b).arc = s.arc := by
  unfold State.timBit
  dsimp only
  split <;> simp
@[simp] theorem State.timBit_drm (s : State) (f : Fld) (i b : Nat) : (s.timBit f i b).drm = s.drm := by
  unfold State.timBit
  dsimp only
  split <;> simp
@[simp] theorem State.timBit_ed (s : State) (f : Fld) (i b : Nat) : (s.timBit f i b).ed = s.ed := by
  unfold State.timBit
  dsimp only
  split <;> simp
@[simp] theorem State.timBit_lrn (s : State) (f : Fld) (i b : Nat) : (s.timBit f i b).lrn = s.lrn := by
  unfold State.timBit
  dsimp only
  split <;> simp
@[simp] theorem State.timBit_rat (s : State) (f : Fld) (i b : Nat) : (s.timBit f i b).rat = s.rat := by
  unfold State.timBit
  dsimp only
  split <;> simp
@[simp] theorem State.timBit_fol (s : State) (f : Fld) (i b : Nat) : (s.timBit f i b).fol = s.fol := by
  unfold State.timBit
  dsimp only
  split <;> simp
@[simp] theorem State.timBit_pin (s : State) (f : Fld) (i b : Nat) : (s.timBit f i b).pin = s.pin := by
  unfold State.timBit
  dsimp only
  split <;> simp

/-! ### `tawKeep` changes only `clerk` -/
@[simp] theorem State.tawKeep_pending (s : State) (j : Nat) : (s.tawKeep j).pending = s.pending := (rfl)
@[simp] theorem State.tawKeep_regs (s : State) (j : Nat) : (s.tawKeep j).regs = s.regs := (rfl)
@[simp] theorem State.tawKeep_free (s : State) (j : Nat) : (s.tawKeep j).free = s.free := (rfl)
@[simp] theorem State.tawKeep_tim (s : State) (j : Nat) : (s.tawKeep j).tim = s.tim := (rfl)
@[simp] theorem State.tawKeep_flt (s : State) (j : Nat) : (s.tawKeep j).flt = s.flt := (rfl)
@[simp] theorem State.tawKeep_hst (s : State) (j : Nat) : (s.tawKeep j).hst = s.hst := (rfl)
@[simp] theorem State.tawKeep_cnts (s : State) (j : Nat) : (s.tawKeep j).cnts = s.cnts := (rfl)
@[simp] theorem State.tawKeep_saved (s : State) (j : Nat) : (s.tawKeep j).saved = s.saved := (rfl)
@[simp] theorem State.tawKeep_epoch (s : State) (j : Nat) : (s.tawKeep j).epoch = s.epoch := (rfl)
@[simp] theorem State.tawKeep_tables (s : State) (j : Nat) : (s.tawKeep j).tables = s.tables := (rfl)
@[simp] theorem State.tawKeep_ports (s : State) (j : Nat) : (s.tawKeep j).ports = s.ports := (rfl)
@[simp] theorem State.tawKeep_fwd (s : State) (j : Nat) : (s.tawKeep j).fwd = s.fwd := (rfl)
@[simp] theorem State.tawKeep_arc (s : State) (j : Nat) : (s.tawKeep j).arc = s.arc := (rfl)
@[simp] theorem State.tawKeep_drm (s : State) (j : Nat) : (s.tawKeep j).drm = s.drm := (rfl)
@[simp] theorem State.tawKeep_ed (s : State) (j : Nat) : (s.tawKeep j).ed = s.ed := (rfl)
@[simp] theorem State.tawKeep_lrn (s : State) (j : Nat) : (s.tawKeep j).lrn = s.lrn := (rfl)
@[simp] theorem State.tawKeep_rat (s : State) (j : Nat) : (s.tawKeep j).rat = s.rat := (rfl)
@[simp] theorem State.tawKeep_fol (s : State) (j : Nat) : (s.tawKeep j).fol = s.fol := (rfl)
@[simp] theorem State.tawKeep_ckr (s : State) (j : Nat) : (s.tawKeep j).ckr = s.ckr := (rfl)
@[simp] theorem State.tawKeep_pin (s : State) (j : Nat) : (s.tawKeep j).pin = s.pin := (rfl)

/-! ### `eventTo` changes only `hst`, `cnts`, `saved` -/
@[simp] theorem State.eventTo_pending (s : State) (h : HostId) (r : List Word) : (s.eventTo h r).pending = s.pending := by
  unfold State.eventTo
  dsimp only
  repeat' split
  all_goals simp
@[simp] theorem State.eventTo_regs (s : State) (h : HostId) (r : List Word) : (s.eventTo h r).regs = s.regs := by
  unfold State.eventTo
  dsimp only
  repeat' split
  all_goals simp
@[simp] theorem State.eventTo_free (s : State) (h : HostId) (r : List Word) : (s.eventTo h r).free = s.free := by
  unfold State.eventTo
  dsimp only
  repeat' split
  all_goals simp
@[simp] theorem State.eventTo_tim (s : State) (h : HostId) (r : List Word) : (s.eventTo h r).tim = s.tim := by
  unfold State.eventTo
  dsimp only
  repeat' split
  all_goals simp
@[simp] theorem State.eventTo_clerk (s : State) (h : HostId) (r : List Word) : (s.eventTo h r).clerk = s.clerk := by
  unfold State.eventTo
  dsimp only
  repeat' split
  all_goals simp
@[simp] theorem State.eventTo_flt (s : State) (h : HostId) (r : List Word) : (s.eventTo h r).flt = s.flt := by
  unfold State.eventTo
  dsimp only
  repeat' split
  all_goals simp
@[simp] theorem State.eventTo_epoch (s : State) (h : HostId) (r : List Word) : (s.eventTo h r).epoch = s.epoch := by
  unfold State.eventTo
  dsimp only
  repeat' split
  all_goals simp
@[simp] theorem State.eventTo_tables (s : State) (h : HostId) (r : List Word) : (s.eventTo h r).tables = s.tables := by
  unfold State.eventTo
  dsimp only
  repeat' split
  all_goals simp
@[simp] theorem State.eventTo_ports (s : State) (h : HostId) (r : List Word) : (s.eventTo h r).ports = s.ports := by
  unfold State.eventTo
  dsimp only
  repeat' split
  all_goals simp
@[simp] theorem State.eventTo_fwd (s : State) (h : HostId) (r : List Word) : (s.eventTo h r).fwd = s.fwd := by
  unfold State.eventTo
  dsimp only
  repeat' split
  all_goals simp
@[simp] theorem State.eventTo_arc (s : State) (h : HostId) (r : List Word) : (s.eventTo h r).arc = s.arc := by
  unfold State.eventTo
  dsimp only
  repeat' split
  all_goals simp
@[simp] theorem State.eventTo_drm (s : State) (h : HostId) (r : List Word) : (s.eventTo h r).drm = s.drm := by
  unfold State.eventTo
  dsimp only
  repeat' split
  all_goals simp
@[simp] theorem State.eventTo_ed (s : State) (h : HostId) (r : List Word) : (s.eventTo h r).ed = s.ed := by
  unfold State.eventTo
  dsimp only
  repeat' split
  all_goals simp
@[simp] theorem State.eventTo_lrn (s : State) (h : HostId) (r : List Word) : (s.eventTo h r).lrn = s.lrn := by
  unfold State.eventTo
  dsimp only
  repeat' split
  all_goals simp
@[simp] theorem State.eventTo_rat (s : State) (h : HostId) (r : List Word) : (s.eventTo h r).rat = s.rat := by
  unfold State.eventTo
  dsimp only
  repeat' split
  all_goals simp
@[simp] theorem State.eventTo_fol (s : State) (h : HostId) (r : List Word) : (s.eventTo h r).fol = s.fol := by
  unfold State.eventTo
  dsimp only
  repeat' split
  all_goals simp
@[simp] theorem State.eventTo_ckr (s : State) (h : HostId) (r : List Word) : (s.eventTo h r).ckr = s.ckr := by
  unfold State.eventTo
  dsimp only
  repeat' split
  all_goals simp
@[simp] theorem State.eventTo_pin (s : State) (h : HostId) (r : List Word) : (s.eventTo h r).pin = s.pin := by
  unfold State.eventTo
  dsimp only
  repeat' split
  all_goals simp

/-! ### `event` changes only `hst`, `cnts`, `saved` -/
@[simp] theorem State.event_pending (s : State) (ty p a b c d x : Nat) : (s.event ty p a b c d x).pending = s.pending := by simp [State.event]
@[simp] theorem State.event_regs (s : State) (ty p a b c d x : Nat) : (s.event ty p a b c d x).regs = s.regs := by simp [State.event]
@[simp] theorem State.event_free (s : State) (ty p a b c d x : Nat) : (s.event ty p a b c d x).free = s.free := by simp [State.event]
@[simp] theorem State.event_tim (s : State) (ty p a b c d x : Nat) : (s.event ty p a b c d x).tim = s.tim := by simp [State.event]
@[simp] theorem State.event_clerk (s : State) (ty p a b c d x : Nat) : (s.event ty p a b c d x).clerk = s.clerk := by simp [State.event]
@[simp] theorem State.event_flt (s : State) (ty p a b c d x : Nat) : (s.event ty p a b c d x).flt = s.flt := by simp [State.event]
@[simp] theorem State.event_epoch (s : State) (ty p a b c d x : Nat) : (s.event ty p a b c d x).epoch = s.epoch := by simp [State.event]
@[simp] theorem State.event_tables (s : State) (ty p a b c d x : Nat) : (s.event ty p a b c d x).tables = s.tables := by simp [State.event]
@[simp] theorem State.event_ports (s : State) (ty p a b c d x : Nat) : (s.event ty p a b c d x).ports = s.ports := by simp [State.event]
@[simp] theorem State.event_fwd (s : State) (ty p a b c d x : Nat) : (s.event ty p a b c d x).fwd = s.fwd := by simp [State.event]
@[simp] theorem State.event_arc (s : State) (ty p a b c d x : Nat) : (s.event ty p a b c d x).arc = s.arc := by simp [State.event]
@[simp] theorem State.event_drm (s : State) (ty p a b c d x : Nat) : (s.event ty p a b c d x).drm = s.drm := by simp [State.event]
@[simp] theorem State.event_ed (s : State) (ty p a b c d x : Nat) : (s.event ty p a b c d x).ed = s.ed := by simp [State.event]
@[simp] theorem State.event_lrn (s : State) (ty p a b c d x : Nat) : (s.event ty p a b c d x).lrn = s.lrn := by simp [State.event]
@[simp] theorem State.event_rat (s : State) (ty p a b c d x : Nat) : (s.event ty p a b c d x).rat = s.rat := by simp [State.event]
@[simp] theorem State.event_fol (s : State) (ty p a b c d x : Nat) : (s.event ty p a b c d x).fol = s.fol := by simp [State.event]
@[simp] theorem State.event_ckr (s : State) (ty p a b c d x : Nat) : (s.event ty p a b c d x).ckr = s.ckr := by simp [State.event]
@[simp] theorem State.event_pin (s : State) (ty p a b c d x : Nat) : (s.event ty p a b c d x).pin = s.pin := by simp [State.event]

/-! ### `eventAt` changes only `hst`, `cnts`, `saved` -/
@[simp] theorem State.eventAt_pending (s : State) (ty p a b t : Nat) : (s.eventAt ty p a b t).pending = s.pending := by simp [State.eventAt]
@[simp] theorem State.eventAt_regs (s : State) (ty p a b t : Nat) : (s.eventAt ty p a b t).regs = s.regs := by simp [State.eventAt]
@[simp] theorem State.eventAt_free (s : State) (ty p a b t : Nat) : (s.eventAt ty p a b t).free = s.free := by simp [State.eventAt]
@[simp] theorem State.eventAt_tim (s : State) (ty p a b t : Nat) : (s.eventAt ty p a b t).tim = s.tim := by simp [State.eventAt]
@[simp] theorem State.eventAt_clerk (s : State) (ty p a b t : Nat) : (s.eventAt ty p a b t).clerk = s.clerk := by simp [State.eventAt]
@[simp] theorem State.eventAt_flt (s : State) (ty p a b t : Nat) : (s.eventAt ty p a b t).flt = s.flt := by simp [State.eventAt]
@[simp] theorem State.eventAt_epoch (s : State) (ty p a b t : Nat) : (s.eventAt ty p a b t).epoch = s.epoch := by simp [State.eventAt]
@[simp] theorem State.eventAt_tables (s : State) (ty p a b t : Nat) : (s.eventAt ty p a b t).tables = s.tables := by simp [State.eventAt]
@[simp] theorem State.eventAt_ports (s : State) (ty p a b t : Nat) : (s.eventAt ty p a b t).ports = s.ports := by simp [State.eventAt]
@[simp] theorem State.eventAt_fwd (s : State) (ty p a b t : Nat) : (s.eventAt ty p a b t).fwd = s.fwd := by simp [State.eventAt]
@[simp] theorem State.eventAt_arc (s : State) (ty p a b t : Nat) : (s.eventAt ty p a b t).arc = s.arc := by simp [State.eventAt]
@[simp] theorem State.eventAt_drm (s : State) (ty p a b t : Nat) : (s.eventAt ty p a b t).drm = s.drm := by simp [State.eventAt]
@[simp] theorem State.eventAt_ed (s : State) (ty p a b t : Nat) : (s.eventAt ty p a b t).ed = s.ed := by simp [State.eventAt]
@[simp] theorem State.eventAt_lrn (s : State) (ty p a b t : Nat) : (s.eventAt ty p a b t).lrn = s.lrn := by simp [State.eventAt]
@[simp] theorem State.eventAt_rat (s : State) (ty p a b t : Nat) : (s.eventAt ty p a b t).rat = s.rat := by simp [State.eventAt]
@[simp] theorem State.eventAt_fol (s : State) (ty p a b t : Nat) : (s.eventAt ty p a b t).fol = s.fol := by simp [State.eventAt]
@[simp] theorem State.eventAt_ckr (s : State) (ty p a b t : Nat) : (s.eventAt ty p a b t).ckr = s.ckr := by simp [State.eventAt]
@[simp] theorem State.eventAt_pin (s : State) (ty p a b t : Nat) : (s.eventAt ty p a b t).pin = s.pin := by simp [State.eventAt]

/-! ### `raiseSlot` changes only `flt` -/
@[simp] theorem State.raiseSlot_pending (s : State) (x n d : Nat) (b : Bool) : (s.raiseSlot x n d b).pending = s.pending := (rfl)
@[simp] theorem State.raiseSlot_regs (s : State) (x n d : Nat) (b : Bool) : (s.raiseSlot x n d b).regs = s.regs := (rfl)
@[simp] theorem State.raiseSlot_free (s : State) (x n d : Nat) (b : Bool) : (s.raiseSlot x n d b).free = s.free := (rfl)
@[simp] theorem State.raiseSlot_tim (s : State) (x n d : Nat) (b : Bool) : (s.raiseSlot x n d b).tim = s.tim := (rfl)
@[simp] theorem State.raiseSlot_clerk (s : State) (x n d : Nat) (b : Bool) : (s.raiseSlot x n d b).clerk = s.clerk := (rfl)
@[simp] theorem State.raiseSlot_hst (s : State) (x n d : Nat) (b : Bool) : (s.raiseSlot x n d b).hst = s.hst := (rfl)
@[simp] theorem State.raiseSlot_cnts (s : State) (x n d : Nat) (b : Bool) : (s.raiseSlot x n d b).cnts = s.cnts := (rfl)
@[simp] theorem State.raiseSlot_saved (s : State) (x n d : Nat) (b : Bool) : (s.raiseSlot x n d b).saved = s.saved := (rfl)
@[simp] theorem State.raiseSlot_epoch (s : State) (x n d : Nat) (b : Bool) : (s.raiseSlot x n d b).epoch = s.epoch := (rfl)
@[simp] theorem State.raiseSlot_tables (s : State) (x n d : Nat) (b : Bool) : (s.raiseSlot x n d b).tables = s.tables := (rfl)
@[simp] theorem State.raiseSlot_ports (s : State) (x n d : Nat) (b : Bool) : (s.raiseSlot x n d b).ports = s.ports := (rfl)
@[simp] theorem State.raiseSlot_fwd (s : State) (x n d : Nat) (b : Bool) : (s.raiseSlot x n d b).fwd = s.fwd := (rfl)
@[simp] theorem State.raiseSlot_arc (s : State) (x n d : Nat) (b : Bool) : (s.raiseSlot x n d b).arc = s.arc := (rfl)
@[simp] theorem State.raiseSlot_drm (s : State) (x n d : Nat) (b : Bool) : (s.raiseSlot x n d b).drm = s.drm := (rfl)
@[simp] theorem State.raiseSlot_ed (s : State) (x n d : Nat) (b : Bool) : (s.raiseSlot x n d b).ed = s.ed := (rfl)
@[simp] theorem State.raiseSlot_lrn (s : State) (x n d : Nat) (b : Bool) : (s.raiseSlot x n d b).lrn = s.lrn := (rfl)
@[simp] theorem State.raiseSlot_rat (s : State) (x n d : Nat) (b : Bool) : (s.raiseSlot x n d b).rat = s.rat := (rfl)
@[simp] theorem State.raiseSlot_fol (s : State) (x n d : Nat) (b : Bool) : (s.raiseSlot x n d b).fol = s.fol := (rfl)
@[simp] theorem State.raiseSlot_ckr (s : State) (x n d : Nat) (b : Bool) : (s.raiseSlot x n d b).ckr = s.ckr := (rfl)
@[simp] theorem State.raiseSlot_pin (s : State) (x n d : Nat) (b : Bool) : (s.raiseSlot x n d b).pin = s.pin := (rfl)

/-! ### `raise` changes only `flt` -/
@[simp] theorem State.raise_pending (s : State) (k : FKind) (x d : Nat) : (s.raise k x d).pending = s.pending := (rfl)
@[simp] theorem State.raise_regs (s : State) (k : FKind) (x d : Nat) : (s.raise k x d).regs = s.regs := (rfl)
@[simp] theorem State.raise_free (s : State) (k : FKind) (x d : Nat) : (s.raise k x d).free = s.free := (rfl)
@[simp] theorem State.raise_tim (s : State) (k : FKind) (x d : Nat) : (s.raise k x d).tim = s.tim := (rfl)
@[simp] theorem State.raise_clerk (s : State) (k : FKind) (x d : Nat) : (s.raise k x d).clerk = s.clerk := (rfl)
@[simp] theorem State.raise_hst (s : State) (k : FKind) (x d : Nat) : (s.raise k x d).hst = s.hst := (rfl)
@[simp] theorem State.raise_cnts (s : State) (k : FKind) (x d : Nat) : (s.raise k x d).cnts = s.cnts := (rfl)
@[simp] theorem State.raise_saved (s : State) (k : FKind) (x d : Nat) : (s.raise k x d).saved = s.saved := (rfl)
@[simp] theorem State.raise_epoch (s : State) (k : FKind) (x d : Nat) : (s.raise k x d).epoch = s.epoch := (rfl)
@[simp] theorem State.raise_tables (s : State) (k : FKind) (x d : Nat) : (s.raise k x d).tables = s.tables := (rfl)
@[simp] theorem State.raise_ports (s : State) (k : FKind) (x d : Nat) : (s.raise k x d).ports = s.ports := (rfl)
@[simp] theorem State.raise_fwd (s : State) (k : FKind) (x d : Nat) : (s.raise k x d).fwd = s.fwd := (rfl)
@[simp] theorem State.raise_arc (s : State) (k : FKind) (x d : Nat) : (s.raise k x d).arc = s.arc := (rfl)
@[simp] theorem State.raise_drm (s : State) (k : FKind) (x d : Nat) : (s.raise k x d).drm = s.drm := (rfl)
@[simp] theorem State.raise_ed (s : State) (k : FKind) (x d : Nat) : (s.raise k x d).ed = s.ed := (rfl)
@[simp] theorem State.raise_lrn (s : State) (k : FKind) (x d : Nat) : (s.raise k x d).lrn = s.lrn := (rfl)
@[simp] theorem State.raise_rat (s : State) (k : FKind) (x d : Nat) : (s.raise k x d).rat = s.rat := (rfl)
@[simp] theorem State.raise_fol (s : State) (k : FKind) (x d : Nat) : (s.raise k x d).fol = s.fol := (rfl)
@[simp] theorem State.raise_ckr (s : State) (k : FKind) (x d : Nat) : (s.raise k x d).ckr = s.ckr := (rfl)
@[simp] theorem State.raise_pin (s : State) (k : FKind) (x d : Nat) : (s.raise k x d).pin = s.pin := (rfl)

/-! ### `levelOnSlot` changes only `flt` -/
@[simp] theorem State.levelOnSlot_pending (s : State) (x d : Nat) (b : Bool) : (s.levelOnSlot x d b).pending = s.pending := by
  unfold State.levelOnSlot
  dsimp only
  repeat' split
  all_goals rfl
@[simp] theorem State.levelOnSlot_regs (s : State) (x d : Nat) (b : Bool) : (s.levelOnSlot x d b).regs = s.regs := by
  unfold State.levelOnSlot
  dsimp only
  repeat' split
  all_goals rfl
@[simp] theorem State.levelOnSlot_free (s : State) (x d : Nat) (b : Bool) : (s.levelOnSlot x d b).free = s.free := by
  unfold State.levelOnSlot
  dsimp only
  repeat' split
  all_goals rfl
@[simp] theorem State.levelOnSlot_tim (s : State) (x d : Nat) (b : Bool) : (s.levelOnSlot x d b).tim = s.tim := by
  unfold State.levelOnSlot
  dsimp only
  repeat' split
  all_goals rfl
@[simp] theorem State.levelOnSlot_clerk (s : State) (x d : Nat) (b : Bool) : (s.levelOnSlot x d b).clerk = s.clerk := by
  unfold State.levelOnSlot
  dsimp only
  repeat' split
  all_goals rfl
@[simp] theorem State.levelOnSlot_hst (s : State) (x d : Nat) (b : Bool) : (s.levelOnSlot x d b).hst = s.hst := by
  unfold State.levelOnSlot
  dsimp only
  repeat' split
  all_goals rfl
@[simp] theorem State.levelOnSlot_cnts (s : State) (x d : Nat) (b : Bool) : (s.levelOnSlot x d b).cnts = s.cnts := by
  unfold State.levelOnSlot
  dsimp only
  repeat' split
  all_goals rfl
@[simp] theorem State.levelOnSlot_saved (s : State) (x d : Nat) (b : Bool) : (s.levelOnSlot x d b).saved = s.saved := by
  unfold State.levelOnSlot
  dsimp only
  repeat' split
  all_goals rfl
@[simp] theorem State.levelOnSlot_epoch (s : State) (x d : Nat) (b : Bool) : (s.levelOnSlot x d b).epoch = s.epoch := by
  unfold State.levelOnSlot
  dsimp only
  repeat' split
  all_goals rfl
@[simp] theorem State.levelOnSlot_tables (s : State) (x d : Nat) (b : Bool) : (s.levelOnSlot x d b).tables = s.tables := by
  unfold State.levelOnSlot
  dsimp only
  repeat' split
  all_goals rfl
@[simp] theorem State.levelOnSlot_ports (s : State) (x d : Nat) (b : Bool) : (s.levelOnSlot x d b).ports = s.ports := by
  unfold State.levelOnSlot
  dsimp only
  repeat' split
  all_goals rfl
@[simp] theorem State.levelOnSlot_fwd (s : State) (x d : Nat) (b : Bool) : (s.levelOnSlot x d b).fwd = s.fwd := by
  unfold State.levelOnSlot
  dsimp only
  repeat' split
  all_goals rfl
@[simp] theorem State.levelOnSlot_arc (s : State) (x d : Nat) (b : Bool) : (s.levelOnSlot x d b).arc = s.arc := by
  unfold State.levelOnSlot
  dsimp only
  repeat' split
  all_goals rfl
@[simp] theorem State.levelOnSlot_drm (s : State) (x d : Nat) (b : Bool) : (s.levelOnSlot x d b).drm = s.drm := by
  unfold State.levelOnSlot
  dsimp only
  repeat' split
  all_goals rfl
@[simp] theorem State.levelOnSlot_ed (s : State) (x d : Nat) (b : Bool) : (s.levelOnSlot x d b).ed = s.ed := by
  unfold State.levelOnSlot
  dsimp only
  repeat' split
  all_goals rfl
@[simp] theorem State.levelOnSlot_lrn (s : State) (x d : Nat) (b : Bool) : (s.levelOnSlot x d b).lrn = s.lrn := by
  unfold State.levelOnSlot
  dsimp only
  repeat' split
  all_goals rfl
@[simp] theorem State.levelOnSlot_rat (s : State) (x d : Nat) (b : Bool) : (s.levelOnSlot x d b).rat = s.rat := by
  unfold State.levelOnSlot
  dsimp only
  repeat' split
  all_goals rfl
@[simp] theorem State.levelOnSlot_fol (s : State) (x d : Nat) (b : Bool) : (s.levelOnSlot x d b).fol = s.fol := by
  unfold State.levelOnSlot
  dsimp only
  repeat' split
  all_goals rfl
@[simp] theorem State.levelOnSlot_ckr (s : State) (x d : Nat) (b : Bool) : (s.levelOnSlot x d b).ckr = s.ckr := by
  unfold State.levelOnSlot
  dsimp only
  repeat' split
  all_goals rfl
@[simp] theorem State.levelOnSlot_pin (s : State) (x d : Nat) (b : Bool) : (s.levelOnSlot x d b).pin = s.pin := by
  unfold State.levelOnSlot
  dsimp only
  repeat' split
  all_goals rfl

/-! ### `levelOn` changes only `flt` -/
@[simp] theorem State.levelOn_pending (s : State) (k : FKind) (x d : Nat) : (s.levelOn k x d).pending = s.pending := State.levelOnSlot_pending ..
@[simp] theorem State.levelOn_regs (s : State) (k : FKind) (x d : Nat) : (s.levelOn k x d).regs = s.regs := State.levelOnSlot_regs ..
@[simp] theorem State.levelOn_free (s : State) (k : FKind) (x d : Nat) : (s.levelOn k x d).free = s.free := State.levelOnSlot_free ..
@[simp] theorem State.levelOn_tim (s : State) (k : FKind) (x d : Nat) : (s.levelOn k x d).tim = s.tim := State.levelOnSlot_tim ..
@[simp] theorem State.levelOn_clerk (s : State) (k : FKind) (x d : Nat) : (s.levelOn k x d).clerk = s.clerk := State.levelOnSlot_clerk ..
@[simp] theorem State.levelOn_hst (s : State) (k : FKind) (x d : Nat) : (s.levelOn k x d).hst = s.hst := State.levelOnSlot_hst ..
@[simp] theorem State.levelOn_cnts (s : State) (k : FKind) (x d : Nat) : (s.levelOn k x d).cnts = s.cnts := State.levelOnSlot_cnts ..
@[simp] theorem State.levelOn_saved (s : State) (k : FKind) (x d : Nat) : (s.levelOn k x d).saved = s.saved := State.levelOnSlot_saved ..
@[simp] theorem State.levelOn_epoch (s : State) (k : FKind) (x d : Nat) : (s.levelOn k x d).epoch = s.epoch := State.levelOnSlot_epoch ..
@[simp] theorem State.levelOn_tables (s : State) (k : FKind) (x d : Nat) : (s.levelOn k x d).tables = s.tables := State.levelOnSlot_tables ..
@[simp] theorem State.levelOn_ports (s : State) (k : FKind) (x d : Nat) : (s.levelOn k x d).ports = s.ports := State.levelOnSlot_ports ..
@[simp] theorem State.levelOn_fwd (s : State) (k : FKind) (x d : Nat) : (s.levelOn k x d).fwd = s.fwd := State.levelOnSlot_fwd ..
@[simp] theorem State.levelOn_arc (s : State) (k : FKind) (x d : Nat) : (s.levelOn k x d).arc = s.arc := State.levelOnSlot_arc ..
@[simp] theorem State.levelOn_drm (s : State) (k : FKind) (x d : Nat) : (s.levelOn k x d).drm = s.drm := State.levelOnSlot_drm ..
@[simp] theorem State.levelOn_ed (s : State) (k : FKind) (x d : Nat) : (s.levelOn k x d).ed = s.ed := State.levelOnSlot_ed ..
@[simp] theorem State.levelOn_lrn (s : State) (k : FKind) (x d : Nat) : (s.levelOn k x d).lrn = s.lrn := State.levelOnSlot_lrn ..
@[simp] theorem State.levelOn_rat (s : State) (k : FKind) (x d : Nat) : (s.levelOn k x d).rat = s.rat := State.levelOnSlot_rat ..
@[simp] theorem State.levelOn_fol (s : State) (k : FKind) (x d : Nat) : (s.levelOn k x d).fol = s.fol := State.levelOnSlot_fol ..
@[simp] theorem State.levelOn_ckr (s : State) (k : FKind) (x d : Nat) : (s.levelOn k x d).ckr = s.ckr := State.levelOnSlot_ckr ..
@[simp] theorem State.levelOn_pin (s : State) (k : FKind) (x d : Nat) : (s.levelOn k x d).pin = s.pin := State.levelOnSlot_pin ..

/-! ### `quietFrom` changes only `flt` -/
@[simp] theorem State.quietFrom_pending (s : State) (d : Nat) : (s.quietFrom d).pending = s.pending := by
  unfold State.quietFrom
  split <;> rfl
@[simp] theorem State.quietFrom_regs (s : State) (d : Nat) : (s.quietFrom d).regs = s.regs := by
  unfold State.quietFrom
  split <;> rfl
@[simp] theorem State.quietFrom_free (s : State) (d : Nat) : (s.quietFrom d).free = s.free := by
  unfold State.quietFrom
  split <;> rfl
@[simp] theorem State.quietFrom_tim (s : State) (d : Nat) : (s.quietFrom d).tim = s.tim := by
  unfold State.quietFrom
  split <;> rfl
@[simp] theorem State.quietFrom_clerk (s : State) (d : Nat) : (s.quietFrom d).clerk = s.clerk := by
  unfold State.quietFrom
  split <;> rfl
@[simp] theorem State.quietFrom_hst (s : State) (d : Nat) : (s.quietFrom d).hst = s.hst := by
  unfold State.quietFrom
  split <;> rfl
@[simp] theorem State.quietFrom_cnts (s : State) (d : Nat) : (s.quietFrom d).cnts = s.cnts := by
  unfold State.quietFrom
  split <;> rfl
@[simp] theorem State.quietFrom_saved (s : State) (d : Nat) : (s.quietFrom d).saved = s.saved := by
  unfold State.quietFrom
  split <;> rfl
@[simp] theorem State.quietFrom_epoch (s : State) (d : Nat) : (s.quietFrom d).epoch = s.epoch := by
  unfold State.quietFrom
  split <;> rfl
@[simp] theorem State.quietFrom_tables (s : State) (d : Nat) : (s.quietFrom d).tables = s.tables := by
  unfold State.quietFrom
  split <;> rfl
@[simp] theorem State.quietFrom_ports (s : State) (d : Nat) : (s.quietFrom d).ports = s.ports := by
  unfold State.quietFrom
  split <;> rfl
@[simp] theorem State.quietFrom_fwd (s : State) (d : Nat) : (s.quietFrom d).fwd = s.fwd := by
  unfold State.quietFrom
  split <;> rfl
@[simp] theorem State.quietFrom_arc (s : State) (d : Nat) : (s.quietFrom d).arc = s.arc := by
  unfold State.quietFrom
  split <;> rfl
@[simp] theorem State.quietFrom_drm (s : State) (d : Nat) : (s.quietFrom d).drm = s.drm := by
  unfold State.quietFrom
  split <;> rfl
@[simp] theorem State.quietFrom_ed (s : State) (d : Nat) : (s.quietFrom d).ed = s.ed := by
  unfold State.quietFrom
  split <;> rfl
@[simp] theorem State.quietFrom_lrn (s : State) (d : Nat) : (s.quietFrom d).lrn = s.lrn := by
  unfold State.quietFrom
  split <;> rfl
@[simp] theorem State.quietFrom_rat (s : State) (d : Nat) : (s.quietFrom d).rat = s.rat := by
  unfold State.quietFrom
  split <;> rfl
@[simp] theorem State.quietFrom_fol (s : State) (d : Nat) : (s.quietFrom d).fol = s.fol := by
  unfold State.quietFrom
  split <;> rfl
@[simp] theorem State.quietFrom_ckr (s : State) (d : Nat) : (s.quietFrom d).ckr = s.ckr := by
  unfold State.quietFrom
  split <;> rfl
@[simp] theorem State.quietFrom_pin (s : State) (d : Nat) : (s.quietFrom d).pin = s.pin := by
  unfold State.quietFrom
  split <;> rfl

/-! ### `levelOffSlot` changes only `flt` -/
@[simp] theorem State.levelOffSlot_pending (s : State) (x : Nat) (b : Bool) : (s.levelOffSlot x b).pending = s.pending := by
  unfold State.levelOffSlot
  dsimp only
  repeat' split
  all_goals simp
@[simp] theorem State.levelOffSlot_regs (s : State) (x : Nat) (b : Bool) : (s.levelOffSlot x b).regs = s.regs := by
  unfold State.levelOffSlot
  dsimp only
  repeat' split
  all_goals simp
@[simp] theorem State.levelOffSlot_free (s : State) (x : Nat) (b : Bool) : (s.levelOffSlot x b).free = s.free := by
  unfold State.levelOffSlot
  dsimp only
  repeat' split
  all_goals simp
@[simp] theorem State.levelOffSlot_tim (s : State) (x : Nat) (b : Bool) : (s.levelOffSlot x b).tim = s.tim := by
  unfold State.levelOffSlot
  dsimp only
  repeat' split
  all_goals simp
@[simp] theorem State.levelOffSlot_clerk (s : State) (x : Nat) (b : Bool) : (s.levelOffSlot x b).clerk = s.clerk := by
  unfold State.levelOffSlot
  dsimp only
  repeat' split
  all_goals simp
@[simp] theorem State.levelOffSlot_hst (s : State) (x : Nat) (b : Bool) : (s.levelOffSlot x b).hst = s.hst := by
  unfold State.levelOffSlot
  dsimp only
  repeat' split
  all_goals simp
@[simp] theorem State.levelOffSlot_cnts (s : State) (x : Nat) (b : Bool) : (s.levelOffSlot x b).cnts = s.cnts := by
  unfold State.levelOffSlot
  dsimp only
  repeat' split
  all_goals simp
@[simp] theorem State.levelOffSlot_saved (s : State) (x : Nat) (b : Bool) : (s.levelOffSlot x b).saved = s.saved := by
  unfold State.levelOffSlot
  dsimp only
  repeat' split
  all_goals simp
@[simp] theorem State.levelOffSlot_epoch (s : State) (x : Nat) (b : Bool) : (s.levelOffSlot x b).epoch = s.epoch := by
  unfold State.levelOffSlot
  dsimp only
  repeat' split
  all_goals simp
@[simp] theorem State.levelOffSlot_tables (s : State) (x : Nat) (b : Bool) : (s.levelOffSlot x b).tables = s.tables := by
  unfold State.levelOffSlot
  dsimp only
  repeat' split
  all_goals simp
@[simp] theorem State.levelOffSlot_ports (s : State) (x : Nat) (b : Bool) : (s.levelOffSlot x b).ports = s.ports := by
  unfold State.levelOffSlot
  dsimp only
  repeat' split
  all_goals simp
@[simp] theorem State.levelOffSlot_fwd (s : State) (x : Nat) (b : Bool) : (s.levelOffSlot x b).fwd = s.fwd := by
  unfold State.levelOffSlot
  dsimp only
  repeat' split
  all_goals simp
@[simp] theorem State.levelOffSlot_arc (s : State) (x : Nat) (b : Bool) : (s.levelOffSlot x b).arc = s.arc := by
  unfold State.levelOffSlot
  dsimp only
  repeat' split
  all_goals simp
@[simp] theorem State.levelOffSlot_drm (s : State) (x : Nat) (b : Bool) : (s.levelOffSlot x b).drm = s.drm := by
  unfold State.levelOffSlot
  dsimp only
  repeat' split
  all_goals simp
@[simp] theorem State.levelOffSlot_ed (s : State) (x : Nat) (b : Bool) : (s.levelOffSlot x b).ed = s.ed := by
  unfold State.levelOffSlot
  dsimp only
  repeat' split
  all_goals simp
@[simp] theorem State.levelOffSlot_lrn (s : State) (x : Nat) (b : Bool) : (s.levelOffSlot x b).lrn = s.lrn := by
  unfold State.levelOffSlot
  dsimp only
  repeat' split
  all_goals simp
@[simp] theorem State.levelOffSlot_rat (s : State) (x : Nat) (b : Bool) : (s.levelOffSlot x b).rat = s.rat := by
  unfold State.levelOffSlot
  dsimp only
  repeat' split
  all_goals simp
@[simp] theorem State.levelOffSlot_fol (s : State) (x : Nat) (b : Bool) : (s.levelOffSlot x b).fol = s.fol := by
  unfold State.levelOffSlot
  dsimp only
  repeat' split
  all_goals simp
@[simp] theorem State.levelOffSlot_ckr (s : State) (x : Nat) (b : Bool) : (s.levelOffSlot x b).ckr = s.ckr := by
  unfold State.levelOffSlot
  dsimp only
  repeat' split
  all_goals simp
@[simp] theorem State.levelOffSlot_pin (s : State) (x : Nat) (b : Bool) : (s.levelOffSlot x b).pin = s.pin := by
  unfold State.levelOffSlot
  dsimp only
  repeat' split
  all_goals simp

/-! ### `levelOff` changes only `flt` -/
@[simp] theorem State.levelOff_pending (s : State) (k : FKind) (x : Nat) : (s.levelOff k x).pending = s.pending := State.levelOffSlot_pending ..
@[simp] theorem State.levelOff_regs (s : State) (k : FKind) (x : Nat) : (s.levelOff k x).regs = s.regs := State.levelOffSlot_regs ..
@[simp] theorem State.levelOff_free (s : State) (k : FKind) (x : Nat) : (s.levelOff k x).free = s.free := State.levelOffSlot_free ..
@[simp] theorem State.levelOff_tim (s : State) (k : FKind) (x : Nat) : (s.levelOff k x).tim = s.tim := State.levelOffSlot_tim ..
@[simp] theorem State.levelOff_clerk (s : State) (k : FKind) (x : Nat) : (s.levelOff k x).clerk = s.clerk := State.levelOffSlot_clerk ..
@[simp] theorem State.levelOff_hst (s : State) (k : FKind) (x : Nat) : (s.levelOff k x).hst = s.hst := State.levelOffSlot_hst ..
@[simp] theorem State.levelOff_cnts (s : State) (k : FKind) (x : Nat) : (s.levelOff k x).cnts = s.cnts := State.levelOffSlot_cnts ..
@[simp] theorem State.levelOff_saved (s : State) (k : FKind) (x : Nat) : (s.levelOff k x).saved = s.saved := State.levelOffSlot_saved ..
@[simp] theorem State.levelOff_epoch (s : State) (k : FKind) (x : Nat) : (s.levelOff k x).epoch = s.epoch := State.levelOffSlot_epoch ..
@[simp] theorem State.levelOff_tables (s : State) (k : FKind) (x : Nat) : (s.levelOff k x).tables = s.tables := State.levelOffSlot_tables ..
@[simp] theorem State.levelOff_ports (s : State) (k : FKind) (x : Nat) : (s.levelOff k x).ports = s.ports := State.levelOffSlot_ports ..
@[simp] theorem State.levelOff_fwd (s : State) (k : FKind) (x : Nat) : (s.levelOff k x).fwd = s.fwd := State.levelOffSlot_fwd ..
@[simp] theorem State.levelOff_arc (s : State) (k : FKind) (x : Nat) : (s.levelOff k x).arc = s.arc := State.levelOffSlot_arc ..
@[simp] theorem State.levelOff_drm (s : State) (k : FKind) (x : Nat) : (s.levelOff k x).drm = s.drm := State.levelOffSlot_drm ..
@[simp] theorem State.levelOff_ed (s : State) (k : FKind) (x : Nat) : (s.levelOff k x).ed = s.ed := State.levelOffSlot_ed ..
@[simp] theorem State.levelOff_lrn (s : State) (k : FKind) (x : Nat) : (s.levelOff k x).lrn = s.lrn := State.levelOffSlot_lrn ..
@[simp] theorem State.levelOff_rat (s : State) (k : FKind) (x : Nat) : (s.levelOff k x).rat = s.rat := State.levelOffSlot_rat ..
@[simp] theorem State.levelOff_fol (s : State) (k : FKind) (x : Nat) : (s.levelOff k x).fol = s.fol := State.levelOffSlot_fol ..
@[simp] theorem State.levelOff_ckr (s : State) (k : FKind) (x : Nat) : (s.levelOff k x).ckr = s.ckr := State.levelOffSlot_ckr ..
@[simp] theorem State.levelOff_pin (s : State) (k : FKind) (x : Nat) : (s.levelOff k x).pin = s.pin := State.levelOffSlot_pin ..

/-! ### `postRing` changes only `hst` -/
@[simp] theorem State.postRing_pending (s : State) (q : CmdSrc) (c : Completion) : (s.postRing q c).pending = s.pending := by
  unfold State.postRing
  repeat' split
  all_goals rfl
@[simp] theorem State.postRing_regs (s : State) (q : CmdSrc) (c : Completion) : (s.postRing q c).regs = s.regs := by
  unfold State.postRing
  repeat' split
  all_goals rfl
@[simp] theorem State.postRing_free (s : State) (q : CmdSrc) (c : Completion) : (s.postRing q c).free = s.free := by
  unfold State.postRing
  repeat' split
  all_goals rfl
@[simp] theorem State.postRing_tim (s : State) (q : CmdSrc) (c : Completion) : (s.postRing q c).tim = s.tim := by
  unfold State.postRing
  repeat' split
  all_goals rfl
@[simp] theorem State.postRing_clerk (s : State) (q : CmdSrc) (c : Completion) : (s.postRing q c).clerk = s.clerk := by
  unfold State.postRing
  repeat' split
  all_goals rfl
@[simp] theorem State.postRing_flt (s : State) (q : CmdSrc) (c : Completion) : (s.postRing q c).flt = s.flt := by
  unfold State.postRing
  repeat' split
  all_goals rfl
@[simp] theorem State.postRing_cnts (s : State) (q : CmdSrc) (c : Completion) : (s.postRing q c).cnts = s.cnts := by
  unfold State.postRing
  repeat' split
  all_goals rfl
@[simp] theorem State.postRing_saved (s : State) (q : CmdSrc) (c : Completion) : (s.postRing q c).saved = s.saved := by
  unfold State.postRing
  repeat' split
  all_goals rfl
@[simp] theorem State.postRing_epoch (s : State) (q : CmdSrc) (c : Completion) : (s.postRing q c).epoch = s.epoch := by
  unfold State.postRing
  repeat' split
  all_goals rfl
@[simp] theorem State.postRing_tables (s : State) (q : CmdSrc) (c : Completion) : (s.postRing q c).tables = s.tables := by
  unfold State.postRing
  repeat' split
  all_goals rfl
@[simp] theorem State.postRing_ports (s : State) (q : CmdSrc) (c : Completion) : (s.postRing q c).ports = s.ports := by
  unfold State.postRing
  repeat' split
  all_goals rfl
@[simp] theorem State.postRing_fwd (s : State) (q : CmdSrc) (c : Completion) : (s.postRing q c).fwd = s.fwd := by
  unfold State.postRing
  repeat' split
  all_goals rfl
@[simp] theorem State.postRing_arc (s : State) (q : CmdSrc) (c : Completion) : (s.postRing q c).arc = s.arc := by
  unfold State.postRing
  repeat' split
  all_goals rfl
@[simp] theorem State.postRing_drm (s : State) (q : CmdSrc) (c : Completion) : (s.postRing q c).drm = s.drm := by
  unfold State.postRing
  repeat' split
  all_goals rfl
@[simp] theorem State.postRing_ed (s : State) (q : CmdSrc) (c : Completion) : (s.postRing q c).ed = s.ed := by
  unfold State.postRing
  repeat' split
  all_goals rfl
@[simp] theorem State.postRing_lrn (s : State) (q : CmdSrc) (c : Completion) : (s.postRing q c).lrn = s.lrn := by
  unfold State.postRing
  repeat' split
  all_goals rfl
@[simp] theorem State.postRing_rat (s : State) (q : CmdSrc) (c : Completion) : (s.postRing q c).rat = s.rat := by
  unfold State.postRing
  repeat' split
  all_goals rfl
@[simp] theorem State.postRing_fol (s : State) (q : CmdSrc) (c : Completion) : (s.postRing q c).fol = s.fol := by
  unfold State.postRing
  repeat' split
  all_goals rfl
@[simp] theorem State.postRing_ckr (s : State) (q : CmdSrc) (c : Completion) : (s.postRing q c).ckr = s.ckr := by
  unfold State.postRing
  repeat' split
  all_goals rfl
@[simp] theorem State.postRing_pin (s : State) (q : CmdSrc) (c : Completion) : (s.postRing q c).pin = s.pin := by
  unfold State.postRing
  repeat' split
  all_goals rfl

/-! ### `countCmd` changes only `regs` -/
@[simp] theorem State.countCmd_pending (s : State) (m : Master) (st : Nat) : (s.countCmd m st).pending = s.pending := by
  unfold State.countCmd
  dsimp only
  split <;> rfl
@[simp] theorem State.countCmd_free (s : State) (m : Master) (st : Nat) : (s.countCmd m st).free = s.free := by
  unfold State.countCmd
  dsimp only
  split <;> rfl
@[simp] theorem State.countCmd_tim (s : State) (m : Master) (st : Nat) : (s.countCmd m st).tim = s.tim := by
  unfold State.countCmd
  dsimp only
  split <;> rfl
@[simp] theorem State.countCmd_clerk (s : State) (m : Master) (st : Nat) : (s.countCmd m st).clerk = s.clerk := by
  unfold State.countCmd
  dsimp only
  split <;> rfl
@[simp] theorem State.countCmd_flt (s : State) (m : Master) (st : Nat) : (s.countCmd m st).flt = s.flt := by
  unfold State.countCmd
  dsimp only
  split <;> rfl
@[simp] theorem State.countCmd_hst (s : State) (m : Master) (st : Nat) : (s.countCmd m st).hst = s.hst := by
  unfold State.countCmd
  dsimp only
  split <;> rfl
@[simp] theorem State.countCmd_cnts (s : State) (m : Master) (st : Nat) : (s.countCmd m st).cnts = s.cnts := by
  unfold State.countCmd
  dsimp only
  split <;> rfl
@[simp] theorem State.countCmd_saved (s : State) (m : Master) (st : Nat) : (s.countCmd m st).saved = s.saved := by
  unfold State.countCmd
  dsimp only
  split <;> rfl
@[simp] theorem State.countCmd_epoch (s : State) (m : Master) (st : Nat) : (s.countCmd m st).epoch = s.epoch := by
  unfold State.countCmd
  dsimp only
  split <;> rfl
@[simp] theorem State.countCmd_tables (s : State) (m : Master) (st : Nat) : (s.countCmd m st).tables = s.tables := by
  unfold State.countCmd
  dsimp only
  split <;> rfl
@[simp] theorem State.countCmd_ports (s : State) (m : Master) (st : Nat) : (s.countCmd m st).ports = s.ports := by
  unfold State.countCmd
  dsimp only
  split <;> rfl
@[simp] theorem State.countCmd_fwd (s : State) (m : Master) (st : Nat) : (s.countCmd m st).fwd = s.fwd := by
  unfold State.countCmd
  dsimp only
  split <;> rfl
@[simp] theorem State.countCmd_arc (s : State) (m : Master) (st : Nat) : (s.countCmd m st).arc = s.arc := by
  unfold State.countCmd
  dsimp only
  split <;> rfl
@[simp] theorem State.countCmd_drm (s : State) (m : Master) (st : Nat) : (s.countCmd m st).drm = s.drm := by
  unfold State.countCmd
  dsimp only
  split <;> rfl
@[simp] theorem State.countCmd_ed (s : State) (m : Master) (st : Nat) : (s.countCmd m st).ed = s.ed := by
  unfold State.countCmd
  dsimp only
  split <;> rfl
@[simp] theorem State.countCmd_lrn (s : State) (m : Master) (st : Nat) : (s.countCmd m st).lrn = s.lrn := by
  unfold State.countCmd
  dsimp only
  split <;> rfl
@[simp] theorem State.countCmd_rat (s : State) (m : Master) (st : Nat) : (s.countCmd m st).rat = s.rat := by
  unfold State.countCmd
  dsimp only
  split <;> rfl
@[simp] theorem State.countCmd_fol (s : State) (m : Master) (st : Nat) : (s.countCmd m st).fol = s.fol := by
  unfold State.countCmd
  dsimp only
  split <;> rfl
@[simp] theorem State.countCmd_ckr (s : State) (m : Master) (st : Nat) : (s.countCmd m st).ckr = s.ckr := by
  unfold State.countCmd
  dsimp only
  split <;> rfl
@[simp] theorem State.countCmd_pin (s : State) (m : Master) (st : Nat) : (s.countCmd m st).pin = s.pin := by
  unfold State.countCmd
  dsimp only
  split <;> rfl

theorem State.foldl_postRing {α : Type} (g : State → α) (hg : ∀ s q c, g (State.postRing s q c) = g s) (src : CmdSrc) (l : List Completion)
    (s : State) : g (l.foldl (fun s c => s.postRing src c) s) = g s := by
  induction l generalizing s with
  | nil => rfl
  | cons a t ih => simp only [List.foldl_cons, ih, hg]

/-! ### `flushHold` changes only `hst`, `clerk` -/
@[simp] theorem State.flushHold_pending (s : State) (q : CmdSrc) : (s.flushHold q).pending = s.pending := by
  unfold State.flushHold
  exact State.foldl_postRing (·.pending) (fun s q c => State.postRing_pending s q c) ..
@[simp] theorem State.flushHold_regs (s : State) (q : CmdSrc) : (s.flushHold q).regs = s.regs := by
  unfold State.flushHold
  exact State.foldl_postRing (·.regs) (fun s q c => State.postRing_regs s q c) ..
@[simp] theorem State.flushHold_free (s : State) (q : CmdSrc) : (s.flushHold q).free = s.free := by
  unfold State.flushHold
  exact State.foldl_postRing (·.free) (fun s q c => State.postRing_free s q c) ..
@[simp] theorem State.flushHold_tim (s : State) (q : CmdSrc) : (s.flushHold q).tim = s.tim := by
  unfold State.flushHold
  exact State.foldl_postRing (·.tim) (fun s q c => State.postRing_tim s q c) ..
@[simp] theorem State.flushHold_flt (s : State) (q : CmdSrc) : (s.flushHold q).flt = s.flt := by
  unfold State.flushHold
  exact State.foldl_postRing (·.flt) (fun s q c => State.postRing_flt s q c) ..
@[simp] theorem State.flushHold_cnts (s : State) (q : CmdSrc) : (s.flushHold q).cnts = s.cnts := by
  unfold State.flushHold
  exact State.foldl_postRing (·.cnts) (fun s q c => State.postRing_cnts s q c) ..
@[simp] theorem State.flushHold_saved (s : State) (q : CmdSrc) : (s.flushHold q).saved = s.saved := by
  unfold State.flushHold
  exact State.foldl_postRing (·.saved) (fun s q c => State.postRing_saved s q c) ..
@[simp] theorem State.flushHold_epoch (s : State) (q : CmdSrc) : (s.flushHold q).epoch = s.epoch := by
  unfold State.flushHold
  exact State.foldl_postRing (·.epoch) (fun s q c => State.postRing_epoch s q c) ..
@[simp] theorem State.flushHold_tables (s : State) (q : CmdSrc) : (s.flushHold q).tables = s.tables := by
  unfold State.flushHold
  exact State.foldl_postRing (·.tables) (fun s q c => State.postRing_tables s q c) ..
@[simp] theorem State.flushHold_ports (s : State) (q : CmdSrc) : (s.flushHold q).ports = s.ports := by
  unfold State.flushHold
  exact State.foldl_postRing (·.ports) (fun s q c => State.postRing_ports s q c) ..
@[simp] theorem State.flushHold_fwd (s : State) (q : CmdSrc) : (s.flushHold q).fwd = s.fwd := by
  unfold State.flushHold
  exact State.foldl_postRing (·.fwd) (fun s q c => State.postRing_fwd s q c) ..
@[simp] theorem State.flushHold_arc (s : State) (q : CmdSrc) : (s.flushHold q).arc = s.arc := by
  unfold State.flushHold
  exact State.foldl_postRing (·.arc) (fun s q c => State.postRing_arc s q c) ..
@[simp] theorem State.flushHold_drm (s : State) (q : CmdSrc) : (s.flushHold q).drm = s.drm := by
  unfold State.flushHold
  exact State.foldl_postRing (·.drm) (fun s q c => State.postRing_drm s q c) ..
@[simp] theorem State.flushHold_ed (s : State) (q : CmdSrc) : (s.flushHold q).ed = s.ed := by
  unfold State.flushHold
  exact State.foldl_postRing (·.ed) (fun s q c => State.postRing_ed s q c) ..
@[simp] theorem State.flushHold_lrn (s : State) (q : CmdSrc) : (s.flushHold q).lrn = s.lrn := by
  unfold State.flushHold
  exact State.foldl_postRing (·.lrn) (fun s q c => State.postRing_lrn s q c) ..
@[simp] theorem State.flushHold_rat (s : State) (q : CmdSrc) : (s.flushHold q).rat = s.rat := by
  unfold State.flushHold
  exact State.foldl_postRing (·.rat) (fun s q c => State.postRing_rat s q c) ..
@[simp] theorem State.flushHold_fol (s : State) (q : CmdSrc) : (s.flushHold q).fol = s.fol := by
  unfold State.flushHold
  exact State.foldl_postRing (·.fol) (fun s q c => State.postRing_fol s q c) ..
@[simp] theorem State.flushHold_ckr (s : State) (q : CmdSrc) : (s.flushHold q).ckr = s.ckr := by
  unfold State.flushHold
  exact State.foldl_postRing (·.ckr) (fun s q c => State.postRing_ckr s q c) ..
@[simp] theorem State.flushHold_pin (s : State) (q : CmdSrc) : (s.flushHold q).pin = s.pin := by
  unfold State.flushHold
  exact State.foldl_postRing (·.pin) (fun s q c => State.postRing_pin s q c) ..

/-! ### `complete` changes only `regs`, `hst`, `clerk` -/
@[simp] theorem State.complete_pending (s : State) (c : Cmd) (st x y : Nat) : (s.complete c st x y).pending = s.pending := by
  unfold State.complete
  dsimp only
  split <;> simp
@[simp] theorem State.complete_free (s : State) (c : Cmd) (st x y : Nat) : (s.complete c st x y).free = s.free := by
  unfold State.complete
  dsimp only
  split <;> simp
@[simp] theorem State.complete_tim (s : State) (c : Cmd) (st x y : Nat) : (s.complete c st x y).tim = s.tim := by
  unfold State.complete
  dsimp only
  split <;> simp
@[simp] theorem State.complete_flt (s : State) (c : Cmd) (st x y : Nat) : (s.complete c st x y).flt = s.flt := by
  unfold State.complete
  dsimp only
  split <;> simp
@[simp] theorem State.complete_cnts (s : State) (c : Cmd) (st x y : Nat) : (s.complete c st x y).cnts = s.cnts := by
  unfold State.complete
  dsimp only
  split <;> simp
@[simp] theorem State.complete_saved (s : State) (c : Cmd) (st x y : Nat) : (s.complete c st x y).saved = s.saved := by
  unfold State.complete
  dsimp only
  split <;> simp
@[simp] theorem State.complete_epoch (s : State) (c : Cmd) (st x y : Nat) : (s.complete c st x y).epoch = s.epoch := by
  unfold State.complete
  dsimp only
  split <;> simp
@[simp] theorem State.complete_tables (s : State) (c : Cmd) (st x y : Nat) : (s.complete c st x y).tables = s.tables := by
  unfold State.complete
  dsimp only
  split <;> simp
@[simp] theorem State.complete_ports (s : State) (c : Cmd) (st x y : Nat) : (s.complete c st x y).ports = s.ports := by
  unfold State.complete
  dsimp only
  split <;> simp
@[simp] theorem State.complete_fwd (s : State) (c : Cmd) (st x y : Nat) : (s.complete c st x y).fwd = s.fwd := by
  unfold State.complete
  dsimp only
  split <;> simp
@[simp] theorem State.complete_arc (s : State) (c : Cmd) (st x y : Nat) : (s.complete c st x y).arc = s.arc := by
  unfold State.complete
  dsimp only
  split <;> simp
@[simp] theorem State.complete_drm (s : State) (c : Cmd) (st x y : Nat) : (s.complete c st x y).drm = s.drm := by
  unfold State.complete
  dsimp only
  split <;> simp
@[simp] theorem State.complete_ed (s : State) (c : Cmd) (st x y : Nat) : (s.complete c st x y).ed = s.ed := by
  unfold State.complete
  dsimp only
  split <;> simp
@[simp] theorem State.complete_lrn (s : State) (c : Cmd) (st x y : Nat) : (s.complete c st x y).lrn = s.lrn := by
  unfold State.complete
  dsimp only
  split <;> simp
@[simp] theorem State.complete_rat (s : State) (c : Cmd) (st x y : Nat) : (s.complete c st x y).rat = s.rat := by
  unfold State.complete
  dsimp only
  split <;> simp
@[simp] theorem State.complete_fol (s : State) (c : Cmd) (st x y : Nat) : (s.complete c st x y).fol = s.fol := by
  unfold State.complete
  dsimp only
  split <;> simp
@[simp] theorem State.complete_ckr (s : State) (c : Cmd) (st x y : Nat) : (s.complete c st x y).ckr = s.ckr := by
  unfold State.complete
  dsimp only
  split <;> simp
@[simp] theorem State.complete_pin (s : State) (c : Cmd) (st x y : Nat) : (s.complete c st x y).pin = s.pin := by
  unfold State.complete
  dsimp only
  split <;> simp

/-! ### `defer` changes only `clerk` -/
@[simp] theorem State.defer_pending (s : State) (c : Cmd) : (s.defer c).pending = s.pending := by
  unfold State.defer
  split <;> rfl
@[simp] theorem State.defer_regs (s : State) (c : Cmd) : (s.defer c).regs = s.regs := by
  unfold State.defer
  split <;> rfl
@[simp] theorem State.defer_free (s : State) (c : Cmd) : (s.defer c).free = s.free := by
  unfold State.defer
  split <;> rfl
@[simp] theorem State.defer_tim (s : State) (c : Cmd) : (s.defer c).tim = s.tim := by
  unfold State.defer
  split <;> rfl
@[simp] theorem State.defer_flt (s : State) (c : Cmd) : (s.defer c).flt = s.flt := by
  unfold State.defer
  split <;> rfl
@[simp] theorem State.defer_hst (s : State) (c : Cmd) : (s.defer c).hst = s.hst := by
  unfold State.defer
  split <;> rfl
@[simp] theorem State.defer_cnts (s : State) (c : Cmd) : (s.defer c).cnts = s.cnts := by
  unfold State.defer
  split <;> rfl
@[simp] theorem State.defer_saved (s : State) (c : Cmd) : (s.defer c).saved = s.saved := by
  unfold State.defer
  split <;> rfl
@[simp] theorem State.defer_epoch (s : State) (c : Cmd) : (s.defer c).epoch = s.epoch := by
  unfold State.defer
  split <;> rfl
@[simp] theorem State.defer_tables (s : State) (c : Cmd) : (s.defer c).tables = s.tables := by
  unfold State.defer
  split <;> rfl
@[simp] theorem State.defer_ports (s : State) (c : Cmd) : (s.defer c).ports = s.ports := by
  unfold State.defer
  split <;> rfl
@[simp] theorem State.defer_fwd (s : State) (c : Cmd) : (s.defer c).fwd = s.fwd := by
  unfold State.defer
  split <;> rfl
@[simp] theorem State.defer_arc (s : State) (c : Cmd) : (s.defer c).arc = s.arc := by
  unfold State.defer
  split <;> rfl
@[simp] theorem State.defer_drm (s : State) (c : Cmd) : (s.defer c).drm = s.drm := by
  unfold State.defer
  split <;> rfl
@[simp] theorem State.defer_ed (s : State) (c : Cmd) : (s.defer c).ed = s.ed := by
  unfold State.defer
  split <;> rfl
@[simp] theorem State.defer_lrn (s : State) (c : Cmd) : (s.defer c).lrn = s.lrn := by
  unfold State.defer
  split <;> rfl
@[simp] theorem State.defer_rat (s : State) (c : Cmd) : (s.defer c).rat = s.rat := by
  unfold State.defer
  split <;> rfl
@[simp] theorem State.defer_fol (s : State) (c : Cmd) : (s.defer c).fol = s.fol := by
  unfold State.defer
  split <;> rfl
@[simp] theorem State.defer_ckr (s : State) (c : Cmd) : (s.defer c).ckr = s.ckr := by
  unfold State.defer
  split <;> rfl
@[simp] theorem State.defer_pin (s : State) (c : Cmd) : (s.defer c).pin = s.pin := by
  unfold State.defer
  split <;> rfl

end Sys2Proof.Machine
end

