-- ==== Sys2Proof/Laws/Keep.lean ====
section
/-! SUPPORT. What "keeps the queue and the form of archive memory" means for an operation, and how it passes through folds and conditions. -/
namespace Sys2Proof.Machine
@[simp] theorem keep_foldl {α : Type} (f : State → α → State) (l : List α) (s : State)
   (h : ∀ s a, (f s a).pending = s.pending ∧ (f s a).arc.mem = s.arc.mem) : (l.foldl f s).pending = s.pending ∧ (l.foldl f s).arc.mem = s.arc.mem := by
  induction l generalizing s with
  | nil => exact ⟨rfl, rfl⟩
  | cons a t ih => simp only [List.foldl_cons]; exact ⟨(ih _).1.trans (h s a).1, (ih _).2.trans (h s a).2⟩
@[simp] theorem keep_foldl1 {α β : Type} (f : State × β → α → State × β) (l : List α) (s : State × β)
   (h : ∀ s a, (f s a).1.pending = s.1.pending ∧ (f s a).1.arc.mem = s.1.arc.mem) : (l.foldl f s).1.pending = s.1.pending ∧ (l.foldl f s).1.arc.mem = s.1.arc.mem := by
  induction l generalizing s with
  | nil => exact ⟨rfl, rfl⟩
  | cons a t ih => simp only [List.foldl_cons]; exact ⟨(ih _).1.trans (h s a).1, (ih _).2.trans (h s a).2⟩
end Sys2Proof.Machine
namespace Sys2Proof.Machine
@[simp] theorem ite_pend {c : Prop} [Decidable c] (a b : State) : (if c then a else b).pending = if c then a.pending else b.pending := by split <;> rfl
@[simp] theorem ite_arc {c : Prop} [Decidable c] (a b : State) : (if c then a else b).arc = if c then a.arc else b.arc := by split <;> rfl
@[simp] theorem ite_mem {c : Prop} [Decidable c] (a b : ArcSt) : (if c then a else b).mem = if c then a.mem else b.mem := by split <;> rfl
@[simp] theorem ite_fst {α β} {c : Prop} [Decidable c] (a b : α × β) : (if c then a else b).1 = if c then a.1 else b.1 := by split <;> rfl
@[simp] theorem ite_snd {α β} {c : Prop} [Decidable c] (a b : α × β) : (if c then a else b).2 = if c then a.2 else b.2 := by split <;> rfl
theorem ite_bool {c : Prop} [Decidable c] (a b : Bool) : ((if c then a else b) = true) = if c then a = true else b = true := by split <;> rfl
theorem DramReq_apply_wf (r : DramReq) {m : Memory} (h : Memory.wf m = true) : Memory.wf (r.apply m) = true := by
  unfold DramReq.apply
  generalize (List.range 64).filter _ = l
  induction l generalizing m with
  | nil => exact h
  | cons a t ih => exact ih (Memory.write_wf _ _ h)
theorem DramReq_foldl_wf (l : List DramReq) {m : Memory} (h : Memory.wf m = true) : Memory.wf (l.foldl (fun m r => r.apply m) m) = true := by
  induction l generalizing m with
  | nil => exact h
  | cons a t ih => exact ih (DramReq_apply_wf a h)
theorem pend_foldl {α : Type} (f : State → α → State) (l : List α) (s : State)
   (h : ∀ s a, (f s a).pending = s.pending) : (l.foldl f s).pending = s.pending := by
  induction l generalizing s with
  | nil => rfl
  | cons a t ih => simp only [List.foldl_cons]; exact (ih _).trans (h s a)
theorem wf_foldl {α : Type} (f : State → α → State) (l : List α) (s : State)
   (h : ∀ s a, Memory.wf s.arc.mem = true → Memory.wf (f s a).arc.mem = true) (hw : Memory.wf s.arc.mem = true) : Memory.wf (l.foldl f s).arc.mem = true := by
  induction l generalizing s with
  | nil => exact hw
  | cons a t ih => exact ih _ (h _ _ hw)
/-- From `s` to `t` the queue of waiting commands stays, and archive memory in its canonical form stays in it (R308). -/
def Keeps (s t : State) : Prop := t.pending = s.pending ∧ (Memory.wf s.arc.mem = true → Memory.wf t.arc.mem = true)
theorem Keeps.refl (s : State) : Keeps s s := ⟨rfl, id⟩
theorem Keeps.trans {s t u : State} (h : Keeps s t) (h' : Keeps t u) : Keeps s u := ⟨h'.1.trans h.1, fun x => h'.2 (h.2 x)⟩
theorem Keeps.of_eq {s t : State} (h : t.pending = s.pending ∧ t.arc.mem = s.arc.mem) : Keeps s t := ⟨h.1, fun x => by rw [h.2]; exact x⟩
theorem Keeps.ite {s a b : State} {c : Prop} [Decidable c] (ha : Keeps s a) (hb : Keeps s b) : Keeps s (if c then a else b) := by split <;> assumption
end Sys2Proof.Machine
end

