-- ==== Sys2Proof/Laws/KeepOps.lean ====
section
/-! SUPPORT. For every shared operation: it leaves the queue of waiting commands and archive memory alone, or, where it writes archive memory, keeps
its canonical form. -/
set_option linter.unusedSimpArgs false
set_option linter.unusedVariables false
namespace Sys2Proof.Machine
@[simp] theorem State_setRg_keep (s : State) (r : Reg) (w : Word) (p : Nat) (i : Nat) (j : Nat) (k : Nat) :
    (State.setRg s r w p i j k).pending = s.pending ∧ (State.setRg s r w p i j k).arc.mem = s.arc.mem := by unfold State.setRg; simp
@[simp] theorem State_wr_keep (s : State) (f : Fld) (v : Nat) (p : Nat) (i : Nat) (j : Nat) (k : Nat) :
    (State.wr s f v p i j k).pending = s.pending ∧ (State.wr s f v p i j k).arc.mem = s.arc.mem := by unfold State.wr; simp
@[simp] theorem State_addSat_keep (s : State) (f : Fld) (n : Nat) (p : Nat) (i : Nat) (j : Nat) (k : Nat) :
    (State.addSat s f n p i j k).pending = s.pending ∧ (State.addSat s f n p i j k).arc.mem = s.arc.mem := by unfold State.addSat; simp
@[simp] theorem State_addWrap_keep (s : State) (f : Fld) (n : Nat) (p : Nat) (i : Nat) (j : Nat) (k : Nat) :
    (State.addWrap s f n p i j k).pending = s.pending ∧ (State.addWrap s f n p i j k).arc.mem = s.arc.mem := by unfold State.addWrap; simp
@[simp] theorem State_sub_keep (s : State) (f : Fld) (n : Nat) (p : Nat) (i : Nat) (j : Nat) (k : Nat) :
    (State.sub s f n p i j k).pending = s.pending ∧ (State.sub s f n p i j k).arc.mem = s.arc.mem := by unfold State.sub; simp
@[simp] theorem State_takeFree_keep (s : State) :
    (State.takeFree s).2.pending = s.pending ∧ (State.takeFree s).2.arc.mem = s.arc.mem := by unfold State.takeFree; simp
@[simp] theorem State_freeWords_keep (s : State) (n : Nat) : (s.freeWords n).2.pending = s.pending ∧ (s.freeWords n).2.arc.mem = s.arc.mem := by
  induction n generalizing s with
  | zero => exact ⟨rfl, rfl⟩
  | succ n ih => unfold State.freeWords; simp [ih]
@[simp] theorem State_countAt_keep (s : State) (set : Nat) (elem : Nat) (idx : Nat) (n : Nat) (t : Nat) (rc : Nat) :
    (State.countAt s set elem idx n t rc).pending = s.pending ∧ (State.countAt s set elem idx n t rc).arc.mem = s.arc.mem := by
  unfold State.countAt
  dsimp only
  repeat' split
  all_goals simp
@[simp] theorem State_count_keep (s : State) (set : Nat) (elem : Nat) (idx : Nat) (n : Nat) :
    (State.count s set elem idx n).pending = s.pending ∧ (State.count s set elem idx n).arc.mem = s.arc.mem := by unfold State.count; simp
@[simp] theorem State_countTime_keep (s : State) (set : Nat) (elem : Nat) (idx : Nat) (d : Nat) :
    (State.countTime s set elem idx d).pending = s.pending ∧ (State.countTime s set elem idx d).arc.mem = s.arc.mem := by
  unfold State.countTime
  dsimp only
  repeat' split
  all_goals simp
@[simp] theorem State_blk_keep (s : State) (p : Nat) (idx : Nat) (n : Nat) :
    (State.blk s p idx n).pending = s.pending ∧ (State.blk s p idx n).arc.mem = s.arc.mem := by unfold State.blk; simp
@[simp] theorem State_hcount_keep (s : State) (h : HostId) (i : Nat) (n : Nat) :
    (State.hcount s h i n).pending = s.pending ∧ (State.hcount s h i n).arc.mem = s.arc.mem := by unfold State.hcount; simp
@[simp] theorem State_eventTo_keep (s : State) (h : HostId) (rec_ : List Word) :
    (State.eventTo s h rec_).pending = s.pending ∧ (State.eventTo s h rec_).arc.mem = s.arc.mem := by unfold State.eventTo; simp
@[simp] theorem State_event_keep (s : State) (ty : Nat) (pipe : Nat) (w1 : Nat) (w2 : Nat) (w3 : Nat) (w4 : Nat) (x : Nat) :
    (State.event s ty pipe w1 w2 w3 w4 x).pending = s.pending ∧ (State.event s ty pipe w1 w2 w3 w4 x).arc.mem = s.arc.mem := by unfold State.event; simp
@[simp] theorem State_eventAt_keep (s : State) (ty : Nat) (pipe : Nat) (w1 : Nat) (w2 : Nat) (t : Nat) :
    (State.eventAt s ty pipe w1 w2 t).pending = s.pending ∧ (State.eventAt s ty pipe w1 w2 t).arc.mem = s.arc.mem := by unfold State.eventAt; simp
@[simp] theorem State_jobRun_keep (s : State) (j : Job) (i : Nat) :
    (State.jobRun s j i).pending = s.pending ∧ (State.jobRun s j i).arc.mem = s.arc.mem := by unfold State.jobRun; simp
@[simp] theorem State_periodic_pending (s : State) (j : Job) (i len : Nat) (f : State → State) (h : ∀ u, (f u).pending = u.pending) : (s.periodic j i len f).pending = s.pending := by
  unfold State.periodic
  split <;> simp [h]
theorem State_periodic_keep (s : State) (j : Job) (i len : Nat) (f : State → State) (h : ∀ u, (f u).pending = u.pending ∧ (f u).arc.mem = u.arc.mem) :
    (s.periodic j i len f).pending = s.pending ∧ (s.periodic j i len f).arc.mem = s.arc.mem := by
  unfold State.periodic
  split <;> simp [h]
@[simp] theorem State_periodic_wf (s : State) (j : Job) (i len : Nat) (f : State → State) (h : ∀ u, Memory.wf u.arc.mem = true → Memory.wf (f u).arc.mem = true)
    (hw : Memory.wf s.arc.mem = true) : Memory.wf (s.periodic j i len f).arc.mem = true := by
  unfold State.periodic
  split <;> simp [h, hw]
theorem State_periodic_keeps (s : State) (j : Job) (i len : Nat) (f : State → State) (h : ∀ u, Keeps u (f u)) : Keeps s (s.periodic j i len f) :=
  ⟨State_periodic_pending _ _ _ _ _ (fun u => (h u).1), fun hw => State_periodic_wf _ _ _ _ _ (fun u hu => (h u).2 hu) hw⟩
@[simp] theorem State_pulse_keep (s : State) (x : Nat) (w : Pulse) :
    (State.pulse s x w).1.pending = s.pending ∧ (State.pulse s x w).1.arc.mem = s.arc.mem := by
  unfold State.pulse
  dsimp only
  repeat' split
  all_goals simp
@[simp] theorem State_timBit_keep (s : State) (f : Fld) (i : Nat) (b : Nat) :
    (State.timBit s f i b).pending = s.pending ∧ (State.timBit s f i b).arc.mem = s.arc.mem := by unfold State.timBit; simp
@[simp] theorem State_raiseSlot_keep (s : State) (slot : Nat) (n : Nat) (detail : Nat) (forced : Bool) :
    (State.raiseSlot s slot n detail forced).pending = s.pending ∧ (State.raiseSlot s slot n detail forced).arc.mem = s.arc.mem := by unfold State.raiseSlot; simp
@[simp] theorem State_raise_keep (s : State) (k : FKind) (x : Nat) (detail : Nat) :
    (State.raise s k x detail).pending = s.pending ∧ (State.raise s k x detail).arc.mem = s.arc.mem := by unfold State.raise; simp
@[simp] theorem State_levelOnSlot_keep (s : State) (slot : Nat) (detail : Nat) (forced : Bool) :
    (State.levelOnSlot s slot detail forced).pending = s.pending ∧ (State.levelOnSlot s slot detail forced).arc.mem = s.arc.mem := by unfold State.levelOnSlot; simp
@[simp] theorem State_quietFrom_keep (s : State) (d : Nat) :
    (State.quietFrom s d).pending = s.pending ∧ (State.quietFrom s d).arc.mem = s.arc.mem := by unfold State.quietFrom; simp
@[simp] theorem State_levelOffSlot_keep (s : State) (slot : Nat) (forced : Bool) :
    (State.levelOffSlot s slot forced).pending = s.pending ∧ (State.levelOffSlot s slot forced).arc.mem = s.arc.mem := by unfold State.levelOffSlot; simp
@[simp] theorem State_levelOn_keep (s : State) (k : FKind) (x : Nat) (detail : Nat) :
    (State.levelOn s k x detail).pending = s.pending ∧ (State.levelOn s k x detail).arc.mem = s.arc.mem := by unfold State.levelOn; simp
@[simp] theorem State_levelOff_keep (s : State) (k : FKind) (x : Nat) :
    (State.levelOff s k x).pending = s.pending ∧ (State.levelOff s k x).arc.mem = s.arc.mem := by unfold State.levelOff; simp
@[simp] theorem State_unmark_keep (s : State) (ck : Nat) (p : Nat) (rep : Nat) (idx : Nat) :
    (State.unmark s ck p rep idx).pending = s.pending ∧ (State.unmark s ck p rep idx).arc.mem = s.arc.mem := by unfold State.unmark; simp
@[simp] theorem State_mark_keep (s : State) (ck : Nat) (p : Nat) (rep : Nat) (idx : Nat) (dbl : Bool) :
    (State.mark s ck p rep idx dbl).pending = s.pending ∧ (State.mark s ck p rep idx dbl).arc.mem = s.arc.mem := by unfold State.mark; simp
@[simp] theorem State_wroteWord_keep (s : State) (ck : Nat) (p : Nat) (idx : Nat) :
    (State.wroteWord s ck p idx).pending = s.pending ∧ (State.wroteWord s ck p idx).arc.mem = s.arc.mem := by
  unfold State.wroteWord
  dsimp only
  repeat' split
  all_goals simp
@[simp] theorem State_postRing_keep (s : State) (src : CmdSrc) (c : Completion) :
    (State.postRing s src c).pending = s.pending ∧ (State.postRing s src c).arc.mem = s.arc.mem := by
  unfold State.postRing
  dsimp only
  repeat' split
  all_goals simp
@[simp] theorem State_flushHold_keep (s : State) (src : CmdSrc) :
    (State.flushHold s src).pending = s.pending ∧ (State.flushHold s src).arc.mem = s.arc.mem := by unfold State.flushHold; simp
@[simp] theorem State_countCmd_keep (s : State) (m : Master) (status : Nat) :
    (State.countCmd s m status).pending = s.pending ∧ (State.countCmd s m status).arc.mem = s.arc.mem := by unfold State.countCmd; simp
@[simp] theorem State_tawKeep_keep (s : State) (j : Nat) :
    (State.tawKeep s j).pending = s.pending ∧ (State.tawKeep s j).arc.mem = s.arc.mem := by unfold State.tawKeep; simp
@[simp] theorem State_complete_keep (s : State) (c : Cmd) (status : Nat) (res2 : Nat) (res3 : Nat) :
    (State.complete s c status res2 res3).pending = s.pending ∧ (State.complete s c status res2 res3).arc.mem = s.arc.mem := by
  unfold State.complete
  dsimp only
  repeat' split
  all_goals simp
@[simp] theorem State_defer_keep (s : State) (c : Cmd) :
    (State.defer s c).pending = s.pending ∧ (State.defer s c).arc.mem = s.arc.mem := by
  unfold State.defer
  dsimp only
  repeat' split
  all_goals simp
@[simp] theorem State_setEnt_keep (s : State) (t : Nat) (p : Nat) (i : Nat) (e : List Word) :
    (State.setEnt s t p i e).pending = s.pending ∧ (State.setEnt s t p i e).arc.mem = s.arc.mem := by unfold State.setEnt; simp
@[simp] theorem State_clearEnt_keep (s : State) (t : Nat) (p : Nat) (i : Nat) :
    (State.clearEnt s t p i).pending = s.pending ∧ (State.clearEnt s t p i).arc.mem = s.arc.mem := by unfold State.clearEnt; simp
@[simp] theorem State_dramLog_keep (s : State) (kind : Nat) (req : Nat) (addr : Nat) :
    (State.dramLog s kind req addr).pending = s.pending ∧ (State.dramLog s kind req addr).arc.mem = s.arc.mem := by unfold State.dramLog; simp
@[simp] theorem State_dramCorr_keep (s : State) (addr : Nat) :
    (State.dramCorr s addr).pending = s.pending ∧ (State.dramCorr s addr).arc.mem = s.arc.mem := by unfold State.dramCorr; simp
@[simp] theorem State_dramUncorr_keep (s : State) (kind : Nat) (req : Nat) (addr : Nat) :
    (State.dramUncorr s kind req addr).pending = s.pending ∧ (State.dramUncorr s kind req addr).arc.mem = s.arc.mem := by unfold State.dramUncorr; simp
@[simp] theorem State_freeBytes_keep (s : State) (n : Nat) :
    (State.freeBytes s n).2.pending = s.pending ∧ (State.freeBytes s n).2.arc.mem = s.arc.mem := by unfold State.freeBytes; simp
@[simp] theorem State_eccOne_pending (s : State) (b : Nat) (lines : List Nat) : (State.eccOne s b lines).pending = s.pending := by unfold State.eccOne; simp
@[simp] theorem State_eccOne_wf (s : State) (b : Nat) (lines : List Nat) (hw : Memory.wf s.arc.mem = true) :
    Memory.wf (State.eccOne s b lines).arc.mem = true := by
  unfold State.eccOne
  dsimp only
  split
  · exact hw
  split
  · have h : Memory.wf ((s.mark dramCk 15 0 b (eccUncorr (s.rd fDRM_CFG_WIDTH) b lines)).freeBytes 64).2.arc.mem = true := by simp [hw]
    generalize (s.mark dramCk 15 0 b (eccUncorr (s.rd fDRM_CFG_WIDTH) b lines)).freeBytes 64 = f at h ⊢
    exact Memory.writes_wf _ _ h
  · simp [hw]
@[simp] theorem State_eccArrive_pending (s : State) (l : List (Nat × List Nat)) : (State.eccArrive s l).pending = s.pending := by unfold State.eccArrive; simp [pend_foldl]
@[simp] theorem State_eccArrive_wf (s : State) (l : List (Nat × List Nat)) (hw : Memory.wf s.arc.mem = true) :
    Memory.wf (State.eccArrive s l).arc.mem = true := by
  unfold State.eccArrive
  repeat' split
  all_goals simp_all [wf_foldl]
@[simp] theorem State_dramCheck_keep (s : State) (kind : Nat) (req : Nat) (q0 : List (Nat × Bool)) :
    (State.dramCheck s kind req q0).1.pending = s.pending ∧ (State.dramCheck s kind req q0).1.arc.mem = s.arc.mem := by
  induction q0 generalizing s with
  | nil => exact ⟨rfl, rfl⟩
  | cons c t ih => rcases c with ⟨b, x⟩; cases x <;> (unfold State.dramCheck; simp [ih])
@[simp] theorem State_writeChecks_keep (s : State) (req : Nat) (a : Nat) (n : Nat) :
    (State.writeChecks s req a n).pending = s.pending ∧ (State.writeChecks s req a n).arc.mem = s.arc.mem := by unfold State.writeChecks; simp
@[simp] theorem State_setBank_keep (s : State) (k : Nat × Nat) (l : List DramReq) :
    (State.setBank s k l).pending = s.pending ∧ (State.setBank s k l).arc.mem = s.arc.mem := by unfold State.setBank; simp
@[simp] theorem State_dramAnswer_keep (s : State) (r : DramReq) (status : Nat) (bs : List Byte) :
    (State.dramAnswer s r status bs).pending = s.pending ∧ (State.dramAnswer s r status bs).arc.mem = s.arc.mem := by unfold State.dramAnswer; simp
@[simp] theorem State_dramAccept_keep (s : State) (r : DramReq) :
    (State.dramAccept s r).pending = s.pending ∧ (State.dramAccept s r).arc.mem = s.arc.mem := by unfold State.dramAccept; simp
theorem State_arbOne_keep (s : State) {t : State} (h : s.arbOne = some t) : t.pending = s.pending ∧ t.arc.mem = s.arc.mem := by
  unfold State.arbOne at h
  dsimp only at h
  repeat' split at h
  all_goals first
    | (simp only [Option.some.injEq] at h; subst h; simp)
    | simp at h
@[simp] theorem State_arb_keep (s : State) (q0 : Nat) :
    (State.arb s q0).pending = s.pending ∧ (State.arb s q0).arc.mem = s.arc.mem := by
  induction q0 generalizing s with
  | zero => exact ⟨rfl, rfl⟩
  | succ n ih =>
    unfold State.arb
    split
    · next h => have := State_arbOne_keep s h; simp [ih, this]
    · exact ⟨rfl, rfl⟩
@[simp] theorem State_refresh_keep (s : State) (u : Nat) :
    (State.refresh s u).pending = s.pending ∧ (State.refresh s u).arc.mem = s.arc.mem := by unfold State.refresh; simp
@[simp] theorem State_refreshes_keep (s : State) (u : Nat) (q0 : Nat) :
    (State.refreshes s u q0).pending = s.pending ∧ (State.refreshes s u q0).arc.mem = s.arc.mem := by
  induction q0 generalizing s with
  | zero => exact ⟨rfl, rfl⟩
  | succ n ih => unfold State.refreshes; simp [ih]
@[simp] theorem State_repay_keep (s : State) (u : Nat) (n : Nat) :
    (State.repay s u n).pending = s.pending ∧ (State.repay s u n).arc.mem = s.arc.mem := by
  induction n generalizing s with
  | zero => exact ⟨rfl, rfl⟩
  | succ n ih => unfold State.repay; simp [ih]
@[simp] theorem State_queuesEmpty_keep (s : State) (u : Nat) :
    (State.queuesEmpty s u).pending = s.pending ∧ (State.queuesEmpty s u).arc.mem = s.arc.mem := by unfold State.queuesEmpty; simp
@[simp] theorem State_scrubBack_keep (s : State) (b : Nat) :
    (State.scrubBack s b).pending = s.pending ∧ (State.scrubBack s b).arc.mem = s.arc.mem := by unfold State.scrubBack; simp
@[simp] theorem State_burstRead_keep (s : State) (r : DramReq) (bs : List Byte) :
    (State.burstRead s r bs).pending = s.pending ∧ (State.burstRead s r bs).arc.mem = s.arc.mem := by
  unfold State.burstRead
  dsimp only
  repeat' split
  all_goals simp
@[simp] theorem State_dramServe_pending (s : State) (k : Nat × Nat) (r : DramReq) : (State.dramServe s k r).pending = s.pending := by
  unfold State.dramServe
  dsimp only
  repeat' split
  all_goals simp
@[simp] theorem State_dramServe_wf (s : State) (k : Nat × Nat) (r : DramReq) (hw : Memory.wf s.arc.mem = true) :
    Memory.wf (State.dramServe s k r).arc.mem = true := by
  unfold State.dramServe
  dsimp only
  repeat' split
  all_goals simp [hw, DramReq_apply_wf]
@[simp] theorem State_dramDrain_pending (s : State) (a : Nat) (n : Nat) : (State.dramDrain s a n).pending = s.pending := by
  unfold State.dramDrain
  exact pend_foldl _ _ _ (by intro s a; simp)
@[simp] theorem State_dramDrain_wf (s : State) (a : Nat) (n : Nat) (hw : Memory.wf s.arc.mem = true) :
    Memory.wf (State.dramDrain s a n).arc.mem = true := by
  unfold State.dramDrain
  exact wf_foldl _ _ _ (by intro s a h; simp [h]) hw
@[simp] theorem State_memPut_pending (s : State) (req : Nat) (a : Nat) (bs : List Byte) : (State.memPut s req a bs).pending = s.pending := by unfold State.memPut; simp
@[simp] theorem State_memPut_wf (s : State) (req : Nat) (a : Nat) (bs : List Byte) (hw : Memory.wf s.arc.mem = true) :
    Memory.wf (State.memPut s req a bs).arc.mem = true := by
  unfold State.memPut
  have h0 := State_dramDrain_wf s a bs.length hw
  generalize s.dramDrain a bs.length = u at h0
  dsimp only
  have h1 : Memory.wf (u.writeChecks req a bs.length).arc.mem = true := by simp [h0]
  repeat' split
  all_goals first
    | exact Memory.writes_wf _ _ h1
    | (simp only [State_wroteWord_keep]; exact Memory.writes_wf _ _ h1)
@[simp] theorem State_dramIssue_keep (s : State) (rs : List DramReq) :
    (State.dramIssue s rs).pending = s.pending ∧ (State.dramIssue s rs).arc.mem = s.arc.mem := by unfold State.dramIssue; simp
@[simp] theorem State_memWrite_pending (s : State) (req : Nat) (a : Nat) (bs : List Byte) : (State.memWrite s req a bs).pending = s.pending := by unfold State.memWrite; simp
@[simp] theorem State_memWrite_wf (s : State) (req : Nat) (a : Nat) (bs : List Byte) (hw : Memory.wf s.arc.mem = true) :
    Memory.wf (State.memWrite s req a bs).arc.mem = true := by
  unfold State.memWrite
  repeat' split
  all_goals simp [hw]
@[simp] theorem State_unitAsk_keep (s : State) (u : ArcUnit) (rs : List DramReq) :
    (State.unitAsk s u rs).pending = s.pending ∧ (State.unitAsk s u rs).arc.mem = s.arc.mem := by unfold State.unitAsk; simp
@[simp] theorem State_unitOver_keep (s : State) (c : Nat) :
    (State.unitOver s c).pending = s.pending ∧ (State.unitOver s c).arc.mem = s.arc.mem := by unfold State.unitOver; simp
@[simp] theorem State_memRead_pending (s : State) (req : Nat) (a : Nat) (n : Nat) : (State.memRead s req a n).1.pending = s.pending := by unfold State.memRead; simp
@[simp] theorem State_memRead_wf (s : State) (req : Nat) (a : Nat) (n : Nat) (hw : Memory.wf s.arc.mem = true) :
    Memory.wf (State.memRead s req a n).1.arc.mem = true := by unfold State.memRead; simp [hw]
@[simp] theorem State_memReadBy_pending (s : State) (got : Option (List (Nat × Nat × List Byte))) (req : Nat) (a : Nat) (n : Nat) : (State.memReadBy s got req a n).1.pending = s.pending := by
  unfold State.memReadBy
  repeat' split
  all_goals simp
@[simp] theorem State_memReadBy_wf (s : State) (got : Option (List (Nat × Nat × List Byte))) (req : Nat) (a : Nat) (n : Nat) (hw : Memory.wf s.arc.mem = true) :
    Memory.wf (State.memReadBy s got req a n).1.arc.mem = true := by
  unfold State.memReadBy
  repeat' split
  all_goals simp [hw]
@[simp] theorem State_archUnit_pending (s : State) (req : Nat) (f : State → State) (h : ∀ u, (f u).pending = u.pending) : (s.archUnit req f).pending = s.pending := by
  unfold State.archUnit
  dsimp only
  repeat' split
  all_goals simp [h]
theorem State_archUnit_keep (s : State) (req : Nat) (f : State → State) (h : ∀ u, (f u).pending = u.pending ∧ (f u).arc.mem = u.arc.mem) :
    (s.archUnit req f).pending = s.pending ∧ (s.archUnit req f).arc.mem = s.arc.mem := by
  unfold State.archUnit
  dsimp only
  repeat' split
  all_goals simp [h]
@[simp] theorem State_archUnit_wf (s : State) (req : Nat) (f : State → State) (h : ∀ u, Memory.wf u.arc.mem = true → Memory.wf (f u).arc.mem = true)
    (hw : Memory.wf s.arc.mem = true) : Memory.wf (s.archUnit req f).arc.mem = true := by
  unfold State.archUnit
  dsimp only
  repeat' split
  all_goals simp [h, hw]
theorem State_archUnit_keeps (s : State) (req : Nat) (f : State → State) (h : ∀ u, Keeps u (f u)) : Keeps s (s.archUnit req f) :=
  ⟨State_archUnit_pending _ _ _ (fun u => (h u).1), fun hw => State_archUnit_wf _ _ _ (fun u hu => (h u).2 hu) hw⟩
@[simp] theorem State_tally_keep (s : State) (p : Nat) (idx : Nat) (n : Nat) (t : Nat) (rc : Nat) :
    (State.tally s p idx n t rc).pending = s.pending ∧ (State.tally s p idx n t rc).arc.mem = s.arc.mem := by
  unfold State.tally
  dsimp only
  repeat' split
  all_goals simp
@[simp] theorem State_capRefill_keep (s : State) :
    (State.capRefill s).pending = s.pending ∧ (State.capRefill s).arc.mem = s.arc.mem := by unfold State.capRefill; simp
@[simp] theorem State_capLost_keep (s : State) (p : Nat) (raise : Bool) :
    (State.capLost s p raise).pending = s.pending ∧ (State.capLost s p raise).arc.mem = s.arc.mem := by unfold State.capLost; simp
@[simp] theorem State_capCountdown_keep (s : State) :
    (State.capCountdown s).pending = s.pending ∧ (State.capCountdown s).arc.mem = s.arc.mem := by unfold State.capCountdown; simp
@[simp] theorem State_capKeep_pending (s : State) (p : Nat) (c : CapInfo) (frame : List Byte) : (State.capKeep s p c frame).pending = s.pending := by unfold State.capKeep; simp
@[simp] theorem State_capKeep_wf (s : State) (p : Nat) (c : CapInfo) (frame : List Byte) (hw : Memory.wf s.arc.mem = true) :
    Memory.wf (State.capKeep s p c frame).arc.mem = true := by unfold State.capKeep; simp [hw]
@[simp] theorem State_capture_pending (s : State) (p : Nat) (c : CapInfo) (frame : List Byte) : (State.capture s p c frame).pending = s.pending := by unfold State.capture; simp
@[simp] theorem State_capture_wf (s : State) (p : Nat) (c : CapInfo) (frame : List Byte) (hw : Memory.wf s.arc.mem = true) :
    Memory.wf (State.capture s p c frame).arc.mem = true := by
  unfold State.capture
  dsimp only
  repeat' split
  all_goals simp [hw]
@[simp] theorem State_capStop_keep (s : State) :
    (State.capStop s).pending = s.pending ∧ (State.capStop s).arc.mem = s.arc.mem := by unfold State.capStop; simp
@[simp] theorem State_capDrop_pending (s : State) (p : Nat) (c : CapInfo) (frame : List Byte) : (State.capDrop s p c frame).pending = s.pending := by unfold State.capDrop; simp
@[simp] theorem State_capDrop_wf (s : State) (p : Nat) (c : CapInfo) (frame : List Byte) (hw : Memory.wf s.arc.mem = true) :
    Memory.wf (State.capDrop s p c frame).arc.mem = true := by
  unfold State.capDrop
  repeat' split
  all_goals simp [hw]
@[simp] theorem State_ledWrite_pending (s : State) (ws : List Word) : (State.ledWrite s ws).pending = s.pending := by unfold State.ledWrite; simp
@[simp] theorem State_ledWrite_wf (s : State) (ws : List Word) (hw : Memory.wf s.arc.mem = true) :
    Memory.wf (State.ledWrite s ws).arc.mem = true := by unfold State.ledWrite; simp [hw]
@[simp] theorem State_edUp_keep (s : State) (slot : Bool) (n : Nat) :
    (State.edUp s slot n).pending = s.pending ∧ (State.edUp s slot n).arc.mem = s.arc.mem := by unfold State.edUp; simp
@[simp] theorem State_edDown_keep (s : State) (slot : Bool) (n : Nat) :
    (State.edDown s slot n).pending = s.pending ∧ (State.edDown s slot n).arc.mem = s.arc.mem := by unfold State.edDown; simp
@[simp] theorem State_dropIn_pending (s : State) (inPort : Nat) (code : Nat) (ingPipe : Nat) (stamped : Option Bool) (c : CapInfo) (frame : List Byte) : (State.dropIn s inPort code ingPipe stamped c frame).pending = s.pending := by
  unfold State.dropIn
  dsimp only
  repeat' split
  all_goals simp
@[simp] theorem State_dropIn_wf (s : State) (inPort : Nat) (code : Nat) (ingPipe : Nat) (stamped : Option Bool) (c : CapInfo) (frame : List Byte) (hw : Memory.wf s.arc.mem = true) :
    Memory.wf (State.dropIn s inPort code ingPipe stamped c frame).arc.mem = true := by
  unfold State.dropIn
  dsimp only
  repeat' split
  all_goals simp [hw]
@[simp] theorem State_dropOut_pending (s : State) (outPort : Nat) (code : Nat) (ingPipe : Nat) (ed : Bool) (c : CapInfo) (frame : List Byte) : (State.dropOut s outPort code ingPipe ed c frame).pending = s.pending := by unfold State.dropOut; simp
@[simp] theorem State_dropOut_wf (s : State) (outPort : Nat) (code : Nat) (ingPipe : Nat) (ed : Bool) (c : CapInfo) (frame : List Byte) (hw : Memory.wf s.arc.mem = true) :
    Memory.wf (State.dropOut s outPort code ingPipe ed c frame).arc.mem = true := by unfold State.dropOut; simp [hw]
@[simp] theorem State_putStall_keep (s : State) (x : Stall) :
    (State.putStall s x).pending = s.pending ∧ (State.putStall s x).arc.mem = s.arc.mem := by unfold State.putStall; simp
@[simp] theorem State_delStall_keep (s : State) (pool : Nat) (idx : Nat) :
    (State.delStall s pool idx).pending = s.pending ∧ (State.delStall s pool idx).arc.mem = s.arc.mem := by unfold State.delStall; simp
@[simp] theorem State_putSlip_keep (s : State) (x : Slip) :
    (State.putSlip s x).pending = s.pending ∧ (State.putSlip s x).arc.mem = s.arc.mem := by unfold State.putSlip; simp
@[simp] theorem State_xoffStop_keep (s : State) (port : Nat) (cls : Nat) :
    (State.xoffStop s port cls).pending = s.pending ∧ (State.xoffStop s port cls).arc.mem = s.arc.mem := by
  unfold State.xoffStop
  dsimp only
  repeat' split
  all_goals simp
@[simp] theorem State_xoffStart_keep (s : State) (port : Nat) (cls : Nat) :
    (State.xoffStart s port cls).pending = s.pending ∧ (State.xoffStart s port cls).arc.mem = s.arc.mem := by unfold State.xoffStart; simp
@[simp] theorem State_xoffSettle_keep (s : State) (port : Nat) :
    (State.xoffSettle s port).pending = s.pending ∧ (State.xoffSettle s port).arc.mem = s.arc.mem := by unfold State.xoffSettle; simp
@[simp] theorem State_xoffResume_keep (s : State) (port : Nat) :
    (State.xoffResume s port).pending = s.pending ∧ (State.xoffResume s port).arc.mem = s.arc.mem := by unfold State.xoffResume; simp
@[simp] theorem State_xoffUpdate_keep (s : State) (port : Nat) (cls : Nat) :
    (State.xoffUpdate s port cls).pending = s.pending ∧ (State.xoffUpdate s port cls).arc.mem = s.arc.mem := by unfold State.xoffUpdate; simp
@[simp] theorem State_ingUse_keep (s : State) (port : Nat) (cls : Nat) (add : Bool) (u : Nat) :
    (State.ingUse s port cls add u).pending = s.pending ∧ (State.ingUse s port cls add u).arc.mem = s.arc.mem := by unfold State.ingUse; simp
@[simp] theorem State_stbErr_keep (s : State) (kind : Nat) (pool : Nat) (pipe : Nat) (index : Nat) :
    (State.stbErr s kind pool pipe index).pending = s.pending ∧ (State.stbErr s kind pool pipe index).arc.mem = s.arc.mem := by unfold State.stbErr; simp
@[simp] theorem State_freeStall_keep (s : State) (x : Stall) :
    (State.freeStall s x).pending = s.pending ∧ (State.freeStall s x).arc.mem = s.arc.mem := by unfold State.freeStall; simp
@[simp] theorem State_doubleFree_keep (s : State) (kind : Nat) (pool : Nat) (idx : Nat) (pipe : Nat) :
    (State.doubleFree s kind pool idx pipe).pending = s.pending ∧ (State.doubleFree s kind pool idx pipe).arc.mem = s.arc.mem := by unfold State.doubleFree; simp
@[simp] theorem State_unref_keep (s : State) (x : Stall) :
    (State.unref s x).pending = s.pending ∧ (State.unref s x).arc.mem = s.arc.mem := by
  unfold State.unref
  repeat' split
  all_goals simp
@[simp] theorem State_release_keep (s : State) (x : Slip) (ingPipe : Nat) :
    (State.release s x ingPipe).pending = s.pending ∧ (State.release s x ingPipe).arc.mem = s.arc.mem := by
  unfold State.release
  dsimp only
  repeat' split
  all_goals simp
@[simp] theorem State_depart_keep (s : State) (x : Slip) (svc : Nat) (ingPipe : Nat) (bytes : Nat) :
    (State.depart s x svc ingPipe bytes).pending = s.pending ∧ (State.depart s x svc ingPipe bytes).arc.mem = s.arc.mem := by unfold State.depart; simp
@[simp] theorem State_dropCopy_pending (s : State) (x : Slip) (code : Nat) (svc : Option Nat) : (State.dropCopy s x code svc).pending = s.pending := by
  unfold State.dropCopy
  dsimp only
  repeat' split
  all_goals simp
@[simp] theorem State_dropCopy_wf (s : State) (x : Slip) (code : Nat) (svc : Option Nat) (hw : Memory.wf s.arc.mem = true) :
    Memory.wf (State.dropCopy s x code svc).arc.mem = true := by
  unfold State.dropCopy
  dsimp only
  repeat' split
  all_goals simp [hw]
@[simp] theorem State_setPrt_keep (s : State) (f : Fld) (port : Nat) (v : Nat) :
    (State.setPrt s f port v).pending = s.pending ∧ (State.setPrt s f port v).arc.mem = s.arc.mem := by unfold State.setPrt; simp
@[simp] theorem State_rdrRead_keep (s : State) (p : Nat) (table : Nat) (rep : Nat) (n : Nat) (ck : Nat) (idx : Nat) :
    (State.rdrRead s p table rep n ck idx).1.pending = s.pending ∧ (State.rdrRead s p table rep n ck idx).1.arc.mem = s.arc.mem := by unfold State.rdrRead; simp
@[simp] theorem State_lkReport_keep (s : State) (p : Nat) (t : Nat) (i : Nat) :
    (State.lkReport s p t i).pending = s.pending ∧ (State.lkReport s p t i).arc.mem = s.arc.mem := by unfold State.lkReport; simp
@[simp] theorem State_countKa_keep (s : State) (p : Nat) (ka : Rd) :
    (State.countKa s p ka).pending = s.pending ∧ (State.countKa s p ka).arc.mem = s.arc.mem := by unfold State.countKa; simp
@[simp] theorem State_countLook_keep (s : State) (f : Ing) (l : Look) :
    (State.countLook s f l).pending = s.pending ∧ (State.countLook s f l).arc.mem = s.arc.mem := by unfold State.countLook; simp
@[simp] theorem State_setMirQ_keep (s : State) (h : HostId) (q : MirQ) :
    (State.setMirQ s h q).pending = s.pending ∧ (State.setMirQ s h q).arc.mem = s.arc.mem := by unfold State.setMirQ; simp
@[simp] theorem State_mirPush_keep (s : State) (h : HostId) (t : Nat) (p : Nat) (origin : Nat) (i : Nat) (e : List Word) :
    (State.mirPush s h t p origin i e).pending = s.pending ∧ (State.mirPush s h t p origin i e).arc.mem = s.arc.mem := by unfold State.mirPush; simp
@[simp] theorem State_mirrored_keep (s : State) (t : Nat) (p : Nat) (origin : Nat) (i : Nat) (e : List Word) :
    (State.mirrored s t p origin i e).pending = s.pending ∧ (State.mirrored s t p origin i e).arc.mem = s.arc.mem := by unfold State.mirrored; simp
@[simp] theorem State_writeEnt_keep (s : State) (t : Nat) (p : Nat) (i : Nat) (origin : Nat) (e : List Word) :
    (State.writeEnt s t p i origin e).pending = s.pending ∧ (State.writeEnt s t p i origin e).arc.mem = s.arc.mem := by unfold State.writeEnt; simp
@[simp] theorem State_zeroEnt_keep (s : State) (t : Nat) (p : Nat) (i : Nat) (origin : Nat) :
    (State.zeroEnt s t p i origin).pending = s.pending ∧ (State.zeroEnt s t p i origin).arc.mem = s.arc.mem := by unfold State.zeroEnt; simp
@[simp] theorem State_setHit_keep (s : State) (p : Nat) (i : Nat) :
    (State.setHit s p i).pending = s.pending ∧ (State.setHit s p i).arc.mem = s.arc.mem := by unfold State.setHit; simp
@[simp] theorem State_clearHit_keep (s : State) (p : Nat) (i : Nat) :
    (State.clearHit s p i).pending = s.pending ∧ (State.clearHit s p i).arc.mem = s.arc.mem := by unfold State.clearHit; simp
@[simp] theorem State_bdBump_keep (s : State) (p : Nat) (bd : Nat) (up : Bool) :
    (State.bdBump s p bd up).pending = s.pending ∧ (State.bdBump s p bd up).arc.mem = s.arc.mem := by unfold State.bdBump; simp
@[simp] theorem State_learnCount_keep (s : State) (p : Nat) (bd : Nat) (dt : Nat) (dest : Nat) (up : Bool) :
    (State.learnCount s p bd dt dest up).pending = s.pending ∧ (State.learnCount s p bd dt dest up).arc.mem = s.arc.mem := by unfold State.learnCount; simp
@[simp] theorem State_portCount_keep (s : State) (p : Nat) (dt : Nat) (dest : Nat) (up : Bool) :
    (State.portCount s p dt dest up).pending = s.pending ∧ (State.portCount s p dt dest up).arc.mem = s.arc.mem := by unfold State.portCount; simp
@[simp] theorem State_bridgeUse_keep (s : State) (p : Nat) (i : Nat) (up : Bool) :
    (State.bridgeUse s p i up).pending = s.pending ∧ (State.bridgeUse s p i up).arc.mem = s.arc.mem := by unfold State.bridgeUse; simp
@[simp] theorem State_bridgeDelete_keep (s : State) (p : Nat) (i : Nat) (origin : Nat) :
    (State.bridgeDelete s p i origin).pending = s.pending ∧ (State.bridgeDelete s p i origin).arc.mem = s.arc.mem := by unfold State.bridgeDelete; simp
@[simp] theorem State_bridgePut_keep (s : State) (p : Nat) (i : Nat) (origin : Nat) (e : List Word) (cntd : Bool) :
    (State.bridgePut s p i origin e cntd).pending = s.pending ∧ (State.bridgePut s p i origin e cntd).arc.mem = s.arc.mem := by unfold State.bridgePut; simp
@[simp] theorem State_bridgeRewrite_keep (s : State) (p : Nat) (i : Nat) (origin : Nat) (e : List Word) :
    (State.bridgeRewrite s p i origin e).pending = s.pending ∧ (State.bridgeRewrite s p i origin e).arc.mem = s.arc.mem := by unfold State.bridgeRewrite; simp
@[simp] theorem State_learnEvent_keep (s : State) (ty : Nat) (p : Nat) (bd : Nat) (mac : Nat) (dt : Nat) (dest : Nat) (odt : Nat) (odest : Nat) :
    (State.learnEvent s ty p bd mac dt dest odt odest).pending = s.pending ∧ (State.learnEvent s ty p bd mac dt dest odt odest).arc.mem = s.arc.mem := by unfold State.learnEvent; simp
@[simp] theorem State_rateEvent_keep (s : State) (ty : Nat) (p : Nat) (port : Nat) (bd : Nat) (mac : Nat) (dt : Nat) (dest : Nat) (odt : Nat) (odest : Nat) :
    (State.rateEvent s ty p port bd mac dt dest odt odest).pending = s.pending ∧ (State.rateEvent s ty p port bd mac dt dest odt odest).arc.mem = s.arc.mem := by
  unfold State.rateEvent
  dsimp only
  repeat' split
  all_goals simp
@[simp] theorem State_setLearnQ_keep (s : State) (p : Nat) (q : List LearnReq) :
    (State.setLearnQ s p q).pending = s.pending ∧ (State.setLearnQ s p q).arc.mem = s.arc.mem := by unfold State.setLearnQ; simp
@[simp] theorem State_learnRequest_keep (s : State) (f : Ing) (bd : Nat) (mac : Nat) (src : Nat × Nat) (move : Bool) :
    (State.learnRequest s f bd mac src move).1.pending = s.pending ∧ (State.learnRequest s f bd mac src move).1.arc.mem = s.arc.mem := by unfold State.learnRequest; simp
@[simp] theorem State_sourceCheck_keep (s : State) (f : Ing) (l : Look) :
    (State.sourceCheck s f l).1.pending = s.pending ∧ (State.sourceCheck s f l).1.arc.mem = s.arc.mem := by unfold State.sourceCheck; simp
@[simp] theorem State_learnInsert_keep (s : State) (p : Nat) :
    (State.learnInsert s p).pending = s.pending ∧ (State.learnInsert s p).arc.mem = s.arc.mem := by
  unfold State.learnInsert
  dsimp only
  repeat' split
  all_goals simp
@[simp] theorem State_repairOpen_keep (s : State) (t : Nat) (p : Nat) (i : Nat) :
    (State.repairOpen s t p i).1.pending = s.pending ∧ (State.repairOpen s t p i).1.arc.mem = s.arc.mem := by
  unfold State.repairOpen
  dsimp only
  repeat' split
  all_goals simp
@[simp] theorem State_repairClose_keep (s : State) (tag : Nat) :
    (State.repairClose s tag).pending = s.pending ∧ (State.repairClose s tag).arc.mem = s.arc.mem := by
  unfold State.repairClose
  dsimp only
  repeat' split
  all_goals simp
@[simp] theorem State_setRepair_keep (s : State) (r : Repair) :
    (State.setRepair s r).pending = s.pending ∧ (State.setRepair s r).arc.mem = s.arc.mem := by unfold State.setRepair; simp
@[simp] theorem State_repairPunt_keep (s : State) (tag : Nat) (p : Nat) :
    (State.repairPunt s tag p).pending = s.pending ∧ (State.repairPunt s tag p).arc.mem = s.arc.mem := by
  unfold State.repairPunt
  repeat' split
  all_goals simp
@[simp] theorem State_harRead_keep (s : State) (t : Nat) (p : Nat) (i : Nat) :
    (State.harRead s t p i).1.pending = s.pending ∧ (State.harRead s t p i).1.arc.mem = s.arc.mem := by
  unfold State.harRead
  dsimp only
  repeat' split
  all_goals simp
@[simp] theorem State_tokenCheck_keep (s : State) (t : Nat) (p : Nat) (i : Nat) :
    (State.tokenCheck s t p i).1.pending = s.pending ∧ (State.tokenCheck s t p i).1.arc.mem = s.arc.mem := by
  unfold State.tokenCheck
  repeat' split
  all_goals simp
@[simp] theorem State_meter_keep (s : State) (t : Nat) (p : Nat) (i : Nat) (inCol : Nat) (len : Nat) :
    (State.meter s t p i inCol len).1.pending = s.pending ∧ (State.meter s t p i inCol len).1.arc.mem = s.arc.mem := by unfold State.meter; simp
@[simp] theorem State_reinWritten_keep (s : State) (t : Nat) (p : Nat) (i : Nat) (old : List Word) (new : List Word) :
    (State.reinWritten s t p i old new).pending = s.pending ∧ (State.reinWritten s t p i old new).arc.mem = s.arc.mem := by unfold State.reinWritten; simp
@[simp] theorem State_catPar_keep (s : State) (eg : Bool) (p : Nat) (rep : Nat) (kind : Nat) (addr : Nat) :
    (State.catPar s eg p rep kind addr).pending = s.pending ∧ (State.catPar s eg p rep kind addr).arc.mem = s.arc.mem := by unfold State.catPar; simp
@[simp] theorem State_catRow_keep (s : State) (eg : Bool) (p : Nat) (rep : Nat) (addr : Nat) :
    (State.catRow s eg p rep addr).1.pending = s.pending ∧ (State.catRow s eg p rep addr).1.arc.mem = s.arc.mem := by unfold State.catRow; simp
@[simp] theorem State_catRes_keep (s : State) (eg : Bool) (p : Nat) (rep : Nat) (addr : Nat) :
    (State.catRes s eg p rep addr).1.pending = s.pending ∧ (State.catRes s eg p rep addr).1.arc.mem = s.arc.mem := by unfold State.catRes; simp
@[simp] theorem State_catRead_keep (s : State) (eg : Bool) (p : Nat) (rep : Nat) (addr : Nat) (wide : Bool) :
    (State.catRead s eg p rep addr wide).1.pending = s.pending ∧ (State.catRead s eg p rep addr wide).1.arc.mem = s.arc.mem := by unfold State.catRead; simp
@[simp] theorem State_catalogue_keep (s : State) (eg : Bool) (p slot pn tag : Nat) (ed : Bool) (kv look : List Byte) (fixed : Nat) :
    (s.catalogue eg p slot pn tag ed kv look fixed).1.pending = s.pending ∧ (s.catalogue eg p slot pn tag ed kv look fixed).1.arc.mem = s.arc.mem := by
  suffices h : ∀ Q : State × CatOut → Prop, (∀ t o, t.pending = s.pending ∧ t.arc.mem = s.arc.mem → Q (t, o)) → Q (s.catalogue eg p slot pn tag ed kv look fixed) from
    h (fun x => x.1.pending = s.pending ∧ x.1.arc.mem = s.arc.mem) fun t o h => h
  intro Q hQ
  unfold State.catalogue
  lift_lets
  extract_lets pt prof wide r s1 tp s2 s3 s4 rdOne ra rb res rows
  have h1 : s1.pending = s.pending ∧ s1.arc.mem = s.arc.mem := by simp [s1]
  have h2 : s2.pending = s.pending ∧ s2.arc.mem = s.arc.mem := by simp only [s2]; split <;> simp [h1]
  have h3 : s3.pending = s.pending ∧ s3.arc.mem = s.arc.mem := by simp only [s3]; split <;> simp [h2]
  have h4 : s4.pending = s.pending ∧ s4.arc.mem = s.arc.mem := by
    simp only [s4]
    repeat' split
    all_goals simp [h2, h3]
  have hr : ∀ (u : State) (x : Option Nat), (rdOne u x).1.pending = u.pending ∧ (rdOne u x).1.arc.mem = u.arc.mem := by
    intro u x; cases x <;> simp [rdOne]
  have h5 : ra.1.pending = s.pending ∧ ra.1.arc.mem = s.arc.mem := by simp only [ra, hr, h4, and_self]
  have h6 : rb.1.pending = s.pending ∧ rb.1.arc.mem = s.arc.mem := by simp only [rb, hr, h5, and_self]
  by_cases c1 : s.bad 17 p (slot / 2) (pn + if eg = true then 16 else 0) = true
  · rw [if_pos c1]; exact hQ _ _ (by simp)
  · rw [if_neg c1]
    split <;> exact hQ _ _ h6
@[simp] theorem State_ruleCount_keep (s : State) (eg : Bool) (p : Nat) (c : Nat) (len : Nat) (known : Bool) :
    (State.ruleCount s eg p c len known).pending = s.pending ∧ (State.ruleCount s eg p c len known).arc.mem = s.arc.mem := by unfold State.ruleCount; simp
@[simp] theorem State_putRow_keep (s : State) (eg : Bool) (p : Nat) (a : Nat) (origin : Nat) (e : List Word) :
    (State.putRow s eg p a origin e).pending = s.pending ∧ (State.putRow s eg p a origin e).arc.mem = s.arc.mem := by
  unfold State.putRow
  dsimp only
  repeat' split
  all_goals simp
@[simp] theorem State_putStep_keep (s : State) (eg : Bool) (p : Nat) (a : Nat) (origin : Nat) (e : List Word) :
    (State.putStep s eg p a origin e).pending = s.pending ∧ (State.putStep s eg p a origin e).arc.mem = s.arc.mem := by unfold State.putStep; simp
@[simp] theorem State_place_keep (s : State) (port : Nat) (cls : Nat) (nh : Nat) (nhV : Bool) (finalBd : Nat) (rwIdx : Nat) :
    (State.place s port cls nh nhV finalBd rwIdx).1.pending = s.pending ∧ (State.place s port cls nh nhV finalBd rwIdx).1.arc.mem = s.arc.mem := by unfold State.place; simp
@[simp] theorem State_setQueue_keep (s : State) (q : Nat) (l : List Nat) :
    (State.setQueue s q l).pending = s.pending ∧ (State.setQueue s q l).arc.mem = s.arc.mem := by unfold State.setQueue; simp
@[simp] theorem State_setLink_keep (s : State) (p : Nat) (l : List Nat) :
    (State.setLink s p l).pending = s.pending ∧ (State.setLink s p l).arc.mem = s.arc.mem := by unfold State.setLink; simp
@[simp] theorem State_linkTo_keep (s : State) (q : Nat) (id : Nat) :
    (State.linkTo s q id).pending = s.pending ∧ (State.linkTo s q id).arc.mem = s.arc.mem := by
  unfold State.linkTo
  dsimp only
  repeat' split
  all_goals simp
@[simp] theorem State_refuse_pending (s : State) (a : Adm) (c : CopyReq) (code : Nat) : (State.refuse s a c code).pending = s.pending := by
  unfold State.refuse
  dsimp only
  repeat' split
  all_goals simp
@[simp] theorem State_refuse_wf (s : State) (a : Adm) (c : CopyReq) (code : Nat) (hw : Memory.wf s.arc.mem = true) :
    Memory.wf (State.refuse s a c code).arc.mem = true := by
  unfold State.refuse
  dsimp only
  repeat' split
  all_goals simp [hw]
@[simp] theorem State_admitCopy_pending (s : State) (a : Adm) (k : Nat) (idx : Nat) (c : CopyReq) (first : Bool) : (State.admitCopy s a k idx c first).1.pending = s.pending := by unfold State.admitCopy; simp
@[simp] theorem State_admitCopy_wf (s : State) (a : Adm) (k : Nat) (idx : Nat) (c : CopyReq) (first : Bool) (hw : Memory.wf s.arc.mem = true) :
    Memory.wf (State.admitCopy s a k idx c first).1.arc.mem = true := by
  unfold State.admitCopy
  dsimp only
  repeat' split
  all_goals simp [hw]
@[simp] theorem State_admitCopies_pending (s : State) (a : Adm) (k : Nat) (idx : Nat) (q0 : List CopyReq) (q1 : Nat) (q2 : Bool) (q3 : Nat) : (State.admitCopies s a k idx q0 q1 q2 q3).1.pending = s.pending := by
  induction q0 generalizing s q1 q2 q3 with
  | nil => rfl
  | cons c t ih => unfold State.admitCopies; simp [ih]
@[simp] theorem State_admitCopies_wf (s : State) (a : Adm) (k : Nat) (idx : Nat) (q0 : List CopyReq) (q1 : Nat) (q2 : Bool) (q3 : Nat) (hw : Memory.wf s.arc.mem = true) :
    Memory.wf (State.admitCopies s a k idx q0 q1 q2 q3).1.arc.mem = true := by
  induction q0 generalizing s q1 q2 q3 with
  | nil => exact hw
  | cons c t ih => unfold State.admitCopies; apply ih; simp [hw]
@[simp] theorem State_refuseAll_pending (s : State) (a : Adm) (l : List CopyReq) (code : Nat) : (State.refuseAll s a l code).pending = s.pending := by
  unfold State.refuseAll
  refine pend_foldl _ _ _ fun s a => ?_
  repeat' split
  all_goals simp
@[simp] theorem State_refuseAll_wf (s : State) (a : Adm) (l : List CopyReq) (code : Nat) (hw : Memory.wf s.arc.mem = true) :
    Memory.wf (State.refuseAll s a l code).arc.mem = true := by
  unfold State.refuseAll
  refine wf_foldl _ _ _ (fun s a hw => ?_) hw
  repeat' split
  all_goals simp [hw]
@[simp] theorem State_injectedDrop_keep (s : State) (a : Adm) (code : Nat) :
    (State.injectedDrop s a code).pending = s.pending ∧ (State.injectedDrop s a code).arc.mem = s.arc.mem := by unfold State.injectedDrop; simp
@[simp] theorem State_takeStall_keep (s : State) (a : Adm) (k : Nat) (idx : Nat) (refs : Nat) (fallback : Bool) :
    (State.takeStall s a k idx refs fallback).pending = s.pending ∧ (State.takeStall s a k idx refs fallback).arc.mem = s.arc.mem := by unfold State.takeStall; simp
@[simp] theorem State_countAdm_keep (s : State) (p : Nat) (n : Nat) :
    (State.countAdm s p n).pending = s.pending ∧ (State.countAdm s p n).arc.mem = s.arc.mem := by unfold State.countAdm; simp
@[simp] theorem State_admitTo_pending (s : State) (a : Adm) (k : Nat) (fallback : Bool) (rem : List CopyReq) : (State.admitTo s a k fallback rem).1.pending = s.pending := by unfold State.admitTo; simp
@[simp] theorem State_admitTo_wf (s : State) (a : Adm) (k : Nat) (fallback : Bool) (rem : List CopyReq) (hw : Memory.wf s.arc.mem = true) :
    Memory.wf (State.admitTo s a k fallback rem).1.arc.mem = true := by unfold State.admitTo; simp [hw]
@[simp] theorem State_formed_keep (s : State) (a : Adm) :
    (State.formed s a).pending = s.pending ∧ (State.formed s a).arc.mem = s.arc.mem := by unfold State.formed; simp
@[simp] theorem State_remaining_pending (s : State) (a : Adm) : (State.remaining s a).1.pending = s.pending := by
  unfold State.remaining
  refine pend_foldl _ _ _ fun s a => ?_
  repeat' split
  all_goals simp
@[simp] theorem State_remaining_wf (s : State) (a : Adm) (hw : Memory.wf s.arc.mem = true) :
    Memory.wf (State.remaining s a).1.arc.mem = true := by
  unfold State.remaining
  refine wf_foldl _ _ _ (fun s a hw => ?_) hw
  repeat' split
  all_goals simp [hw]
@[simp] theorem State_backExpired_keep (s : State) (a : Adm) :
    (State.backExpired s a).pending = s.pending ∧ (State.backExpired s a).arc.mem = s.arc.mem := by unfold State.backExpired; simp
@[simp] theorem State_enterStable_pending (s : State) (a : Adm) : (State.enterStable s a).1.pending = s.pending := by
  unfold State.enterStable
  dsimp only
  repeat' split
  all_goals simp
@[simp] theorem State_enterStable_wf (s : State) (a : Adm) (hw : Memory.wf s.arc.mem = true) :
    Memory.wf (State.enterStable s a).1.arc.mem = true := by
  unfold State.enterStable
  dsimp only
  repeat' split
  all_goals simp [hw]
@[simp] theorem State_admDrop_pending (s : State) (a : Adm) (code : Nat) : (State.admDrop s a code).pending = s.pending := by unfold State.admDrop; simp
@[simp] theorem State_admDrop_wf (s : State) (a : Adm) (code : Nat) (hw : Memory.wf s.arc.mem = true) :
    Memory.wf (State.admDrop s a code).arc.mem = true := by unfold State.admDrop; simp [hw]
@[simp] theorem State_mcFill_keep (s : State) (a : Adm) :
    (State.mcFill s a).1.pending = s.pending ∧ (State.mcFill s a).1.arc.mem = s.arc.mem := by
  unfold State.mcFill
  dsimp only
  repeat' split
  all_goals simp
@[simp] theorem State_enterFilled_pending (s : State) (a : Adm) : (State.enterFilled s a).1.pending = s.pending := by
  unfold State.enterFilled
  dsimp only
  repeat' split
  all_goals simp
@[simp] theorem State_enterFilled_wf (s : State) (a : Adm) (hw : Memory.wf s.arc.mem = true) :
    Memory.wf (State.enterFilled s a).1.arc.mem = true := by
  unfold State.enterFilled
  dsimp only
  repeat' split
  all_goals simp [hw]
@[simp] theorem State_hold_pending (s : State) (a : Adm) (tags : List Nat) : (State.hold s a tags).1.pending = s.pending := by
  unfold State.hold
  dsimp only
  repeat' split
  all_goals simp
@[simp] theorem State_hold_wf (s : State) (a : Adm) (tags : List Nat) (hw : Memory.wf s.arc.mem = true) :
    Memory.wf (State.hold s a tags).1.arc.mem = true := by
  unfold State.hold
  dsimp only
  repeat' split
  all_goals simp [hw]
@[simp] theorem State_unholdFull_pending (s : State) (a : Adm) (st : Stall) : (State.unholdFull s a st).pending = s.pending := by unfold State.unholdFull; simp
@[simp] theorem State_unholdFull_wf (s : State) (a : Adm) (st : Stall) (hw : Memory.wf s.arc.mem = true) :
    Memory.wf (State.unholdFull s a st).arc.mem = true := by
  unfold State.unholdFull
  dsimp only
  repeat' split
  all_goals simp [hw]
@[simp] theorem State_unholdTo_pending (s : State) (a : Adm) (st : Stall) : (State.unholdTo s a st).pending = s.pending := by
  unfold State.unholdTo
  dsimp only
  repeat' split
  all_goals simp
@[simp] theorem State_unholdTo_wf (s : State) (a : Adm) (st : Stall) (hw : Memory.wf s.arc.mem = true) :
    Memory.wf (State.unholdTo s a st).arc.mem = true := by
  unfold State.unholdTo
  dsimp only
  repeat' split
  all_goals simp [hw]
@[simp] theorem State_unhold_pending (s : State) (a : Adm) (k : Nat) (idx : Nat) : (State.unhold s a k idx).pending = s.pending := by
  unfold State.unhold
  repeat' split
  all_goals simp
@[simp] theorem State_unhold_wf (s : State) (a : Adm) (k : Nat) (idx : Nat) (hw : Memory.wf s.arc.mem = true) :
    Memory.wf (State.unhold s a k idx).arc.mem = true := by
  unfold State.unhold
  repeat' split
  all_goals simp [hw]
@[simp] theorem State_fenceRelease_pending (s : State) (tag : Nat) (p : Nat) : (State.fenceRelease s tag p).pending = s.pending := by unfold State.fenceRelease; simp [pend_foldl]
@[simp] theorem State_fenceRelease_wf (s : State) (tag : Nat) (p : Nat) (hw : Memory.wf s.arc.mem = true) :
    Memory.wf (State.fenceRelease s tag p).arc.mem = true := by
  unfold State.fenceRelease
  dsimp only
  repeat' split
  all_goals simp_all [wf_foldl]
@[simp] theorem State_cadRead_keep (s : State) (p : Nat) (k : Nat) (ts : List Nat) :
    (State.cadRead s p k ts).pending = s.pending ∧ (State.cadRead s p k ts).arc.mem = s.arc.mem := by unfold State.cadRead; simp
@[simp] theorem State_guardRead_keep (s : State) (port : Nat) (c : Nat) :
    (State.guardRead s port c).pending = s.pending ∧ (State.guardRead s port c).arc.mem = s.arc.mem := by unfold State.guardRead; simp
@[simp] theorem State_gateRefresh_keep (s : State) (port : Nat) :
    (State.gateRefresh s port).pending = s.pending ∧ (State.gateRefresh s port).arc.mem = s.arc.mem := by unfold State.gateRefresh; simp
@[simp] theorem State_cadenceFire_keep (s : State) :
    (State.cadenceFire s).pending = s.pending ∧ (State.cadenceFire s).arc.mem = s.arc.mem := by unfold State.cadenceFire; simp
@[simp] theorem State_ratKindNote_keep (s : State) (p : Nat) (kind : Nat) :
    (State.ratKindNote s p kind).pending = s.pending ∧ (State.ratKindNote s p kind).arc.mem = s.arc.mem := by unfold State.ratKindNote; simp
@[simp] theorem State_ratNote_keep (s : State) (p : Nat) (kind : Nat) (copy : Nat × Nat × Bool) (work : Nat) :
    (State.ratNote s p kind copy work).pending = s.pending ∧ (State.ratNote s p kind copy work).arc.mem = s.arc.mem := by unfold State.ratNote; simp
@[simp] theorem State_ratSpend_keep (s : State) (p : Nat) (work : Nat) (g : Bool) :
    (State.ratSpend s p work g).pending = s.pending ∧ (State.ratSpend s p work g).arc.mem = s.arc.mem := by unfold State.ratSpend; simp
@[simp] theorem State_powerSample_keep (s : State) (rails : List Nat) :
    (State.powerSample s rails).pending = s.pending ∧ (State.powerSample s rails).arc.mem = s.arc.mem := by unfold State.powerSample; simp
@[simp] theorem State_ratSensor_keep (s : State) (i : Nat) (t : Int) :
    (State.ratSensor s i t).pending = s.pending ∧ (State.ratSensor s i t).arc.mem = s.arc.mem := by unfold State.ratSensor; simp
@[simp] theorem State_ratPipe_keep (s : State) (temps : List Int) (p : Nat) :
    (State.ratPipe s temps p).pending = s.pending ∧ (State.ratPipe s temps p).arc.mem = s.arc.mem := by
  unfold State.ratPipe
  dsimp only
  repeat' split
  all_goals simp
@[simp] theorem State_ratEnd_keep (s : State) (temps : List Int) :
    (State.ratEnd s temps).pending = s.pending ∧ (State.ratEnd s temps).arc.mem = s.arc.mem := by unfold State.ratEnd; simp
@[simp] theorem State_ratLoad_keep (s : State) :
    (State.ratLoad s).pending = s.pending ∧ (State.ratLoad s).arc.mem = s.arc.mem := by
  unfold State.ratLoad
  dsimp only
  repeat' split
  all_goals simp
@[simp] theorem State_ingDrop_pending (s : State) (f : Ing) (r : RdrRes) (code : Nat) (cls : Nat) : (State.ingDrop s f r code cls).pending = s.pending := by unfold State.ingDrop; simp
@[simp] theorem State_ingDrop_wf (s : State) (f : Ing) (r : RdrRes) (code : Nat) (cls : Nat) (hw : Memory.wf s.arc.mem = true) :
    Memory.wf (State.ingDrop s f r code cls).arc.mem = true := by unfold State.ingDrop; simp [hw]
@[simp] theorem State_countRein_keep (s : State) (p : Nat) (col : Nat) (refused : Bool) :
    (State.countRein s p col refused).pending = s.pending ∧ (State.countRein s p col refused).arc.mem = s.arc.mem := by unfold State.countRein; simp
@[simp] theorem State_enqueue_pending (s : State) (f : Ing) (a : Adm) (reads : List (Nat × Nat)) : (State.enqueue s f a reads).1.pending = s.pending := by
  unfold State.enqueue
  repeat' split
  all_goals simp
@[simp] theorem State_enqueue_wf (s : State) (f : Ing) (a : Adm) (reads : List (Nat × Nat)) (hw : Memory.wf s.arc.mem = true) :
    Memory.wf (State.enqueue s f a reads).1.arc.mem = true := by
  unfold State.enqueue
  dsimp only
  repeat' split
  all_goals simp [hw, wf_foldl]
@[simp] theorem State_puntFrame_pending (s : State) (f : Ing) (r : RdrRes) (reason : Nat) (code : Nat) (colour : Nat) (base : Adm) (tag : Option Nat) (cl : Option Nat) (reads : List (Nat × Nat)) : (State.puntFrame s f r reason code colour base tag cl reads).1.pending = s.pending := by
  unfold State.puntFrame
  dsimp only
  repeat' split
  all_goals simp
@[simp] theorem State_puntFrame_wf (s : State) (f : Ing) (r : RdrRes) (reason : Nat) (code : Nat) (colour : Nat) (base : Adm) (tag : Option Nat) (cl : Option Nat) (reads : List (Nat × Nat)) (hw : Memory.wf s.arc.mem = true) :
    Memory.wf (State.puntFrame s f r reason code colour base tag cl reads).1.arc.mem = true := by
  unfold State.puntFrame
  dsimp only
  repeat' split
  all_goals simp [hw]
@[simp] theorem State_puntParity_pending (s : State) (f : Ing) (r : RdrRes) (base : Adm) (colour : Nat) (t : Nat) (i : Nat) (cl : Option Nat) (reads : List (Nat × Nat)) : (State.puntParity s f r base colour t i cl reads).1.pending = s.pending := by unfold State.puntParity; simp
@[simp] theorem State_puntParity_wf (s : State) (f : Ing) (r : RdrRes) (base : Adm) (colour : Nat) (t : Nat) (i : Nat) (cl : Option Nat) (reads : List (Nat × Nat)) (hw : Memory.wf s.arc.mem = true) :
    Memory.wf (State.puntParity s f r base colour t i cl reads).1.arc.mem = true := by unfold State.puntParity; simp [hw]
@[simp] theorem State_rdrFail_keep (s : State) (f : Ing) (layout : Nat) (code : Nat) :
    (State.rdrFail s f layout code).pending = s.pending ∧ (State.rdrFail s f layout code).arc.mem = s.arc.mem := by unfold State.rdrFail; simp
@[simp] theorem State_ruleRein_keep (s : State) (f : Ing) (x : Option Nat) (colour : Nat) (len : Nat) :
    (State.ruleRein s f x colour len).1.pending = s.pending ∧ (State.ruleRein s f x colour len).1.arc.mem = s.arc.mem := by
  unfold State.ruleRein
  dsimp only
  repeat' split
  all_goals simp
@[simp] theorem State_reinChain_keep (s : State) (f : Ing) (bum : Option Nat) (a : Option Nat) (b : Option Nat) (len : Nat) (code : Nat) :
    (State.reinChain s f bum a b len code).1.pending = s.pending ∧ (State.reinChain s f bum a b len code).1.arc.mem = s.arc.mem := by
  unfold State.reinChain
  dsimp only
  repeat' split
  all_goals simp
@[simp] theorem State_extraCopies_keep (s : State) (f : Ing) (a : Option Nat) (b : Option Nat) (cls : Nat) (nh : Option Nat) (rw : Nat) :
    (State.extraCopies s f a b cls nh rw).1.pending = s.pending ∧ (State.extraCopies s f a b cls nh rw).1.arc.mem = s.arc.mem := by unfold State.extraCopies; simp
@[simp] theorem State_countRes_keep (s : State) (p : Nat) (e : Nat) (lg : Nat) (rm : Nat) :
    (State.countRes s p e lg rm).pending = s.pending ∧ (State.countRes s p e lg rm).arc.mem = s.arc.mem := by unfold State.countRes; simp
@[simp] theorem State_ingEnqueue_pending (s : State) (f : Ing) (base : Adm) (a : Option Nat) (b : Option Nat) (cls : Nat) (colour : Nat) (copies : List CopyReq) (mc : Option (Nat × Nat × Nat)) (rw : Nat) (reads : List (Nat × Nat)) : (State.ingEnqueue s f base a b cls colour copies mc rw reads).1.pending = s.pending := by unfold State.ingEnqueue; simp
@[simp] theorem State_ingEnqueue_wf (s : State) (f : Ing) (base : Adm) (a : Option Nat) (b : Option Nat) (cls : Nat) (colour : Nat) (copies : List CopyReq) (mc : Option (Nat × Nat × Nat)) (rw : Nat) (reads : List (Nat × Nat)) (hw : Memory.wf s.arc.mem = true) :
    Memory.wf (State.ingEnqueue s f base a b cls colour copies mc rw reads).1.arc.mem = true := by unfold State.ingEnqueue; simp [hw]
theorem State_ingResolve_keeps (s : State) (f : Ing) (r : RdrRes) (kv : List Byte) (l : Look) (ch : Chosen) (res : GRes) (reads : List (Nat × Nat)) :
    Keeps s (s.ingResolve f r kv l ch res reads).1 := by
  suffices h : ∀ Q : IngRes → Prop, (∀ t a b, Keeps s t → Q (t, a, b)) → Q (s.ingResolve f r kv l ch res reads) from
    h (fun x => Keeps s x.1) fun t a b h => h
  intro Q hQ
  unfold State.ingResolve
  extract_lets p lay pn fixed q s1 b0 base cnt won
  have h1 : Keeps s s1 := .of_eq (by simp [s1, q])
  have hc : ∀ (u : State) x, Keeps u (cnt u x) := by
    intro u x; cases x <;> simp only [cnt]
    · exact .refl _
    · exact .ite (.of_eq (by simp)) (.refl _)
  clear_value s1 cnt q won
  generalize q.snd = o
  cases o with
  | parity t i a b rows =>
    dsimp -zeta only
    extract_lets x
    have h2 : Keeps s (cnt (cnt s1 a) b) := h1.trans ((hc _ _).trans (hc _ _))
    exact hQ _ _ _ (h2.trans ⟨by simp [x], fun hw => by simp [x, hw]⟩)
  | ok a b rows =>
    dsimp -zeta only
    extract_lets late s2 act kind arg s3 d punted pcode rd cls reins stop m x m2
    have h2 : Keeps s s2 := h1.trans ((hc _ _).trans (hc _ _))
    clear_value s2
    have h3 : Keeps s s3 := h2.trans (.ite (.refl _) ⟨by simp, fun hw => by simp [hw]⟩)
    have hr : ∀ (u : State) c, Keeps u (reins u c).1 := fun u c => .of_eq (by simp [reins])
    have hs : ∀ (u : State) c, Keeps s u → Q (stop u c) := fun u c h => hQ _ _ _ (h.trans ⟨by simp, fun hw => by simp [hw]⟩)
    have hm : Keeps s m.1 := h3.trans (hr _ _)
    have hm2 : Keeps s m2.1 := h3.trans (hr _ _)
    clear_value s3 m m2 reins stop kind d punted pcode rd cls late
    by_cases c1 : kind = 1
    · rw [if_pos c1]; exact hQ _ _ _ (h3.trans ⟨by simp, fun hw => by simp [hw]⟩)
    rw [if_neg c1]
    by_cases c2 : d.1 = dtDISCARD
    · rw [if_pos c2]; exact hQ _ _ _ (h3.trans ⟨by simp, fun hw => by simp [hw]⟩)
    rw [if_neg c2]
    by_cases c3 : d.1 = dtPORT ∧ d.2 < 256 ∧ (!s3.portExists d.2) = true
    · rw [if_pos c3]; exact hQ _ _ _ (h3.trans ⟨by simp, fun hw => by simp [hw]⟩)
    rw [if_neg c3]
    by_cases c4 : punted = true
    · rw [if_pos c4]
      cases m.2.2 with
      | some code => exact hs _ _ hm
      | none => exact hQ _ _ _ (hm.trans ⟨by simp [x], fun hw => by simp [x, hw]⟩)
    rw [if_neg c4]
    generalize (if kind = 3 then s3.resolve p d.1 d.2 (resRw ch.r) l.hash f.lidx else res) = g
    cases g with
    | drop code => exact hQ _ _ _ (h3.trans ⟨by simp, fun hw => by simp [hw]⟩)
    | parity t i =>
      dsimp -zeta only
      extract_lets m y
      have h4 : Keeps s m.1 := (h3.trans ⟨by simp, fun hw => by simp [hw]⟩).trans (hr _ _)
      clear_value m
      cases m.2.2 with
      | some code => exact hs _ _ h4
      | none => exact hQ _ _ _ (h4.trans ⟨by simp [y], fun hw => by simp [y, hw]⟩)
    | mcast g rw =>
      dsimp -zeta only
      cases m2.2.2 with
      | some code => exact hs _ _ hm2
      | none => exact hQ _ _ _ (hm2.trans ⟨by simp, fun hw => by simp [hw]⟩)
    | ok copies e lg rm =>
      dsimp -zeta only
      extract_lets m y
      have h4 : Keeps s m.1 := (h3.trans ⟨by simp, fun hw => by simp [hw]⟩).trans (hr _ _)
      clear_value m
      cases m.2.2 with
      | some code => exact hs _ _ h4
      | none => exact hQ _ _ _ (h4.trans ⟨by simp [y], fun hw => by simp [y, hw]⟩)
@[simp] theorem State_ingResolve_pending (s : State) (f : Ing) (r : RdrRes) (kv : List Byte) (l : Look) (ch : Chosen) (res : GRes) (reads : List (Nat × Nat)) :
    (s.ingResolve f r kv l ch res reads).1.pending = s.pending := (State_ingResolve_keeps ..).1
@[simp] theorem State_ingResolve_wf (s : State) (f : Ing) (r : RdrRes) (kv : List Byte) (l : Look) (ch : Chosen) (res : GRes) (reads : List (Nat × Nat))
    (hw : Memory.wf s.arc.mem = true) : Memory.wf (s.ingResolve f r kv l ch res reads).1.arc.mem = true := (State_ingResolve_keeps ..).2 hw
@[simp] theorem State_lkOther_keep (s : State) (p : Nat) (l : List Rd) :
    (State.lkOther s p l).pending = s.pending ∧ (State.lkOther s p l).arc.mem = s.arc.mem := by unfold State.lkOther; simp
theorem State_ingLookup_keeps (s : State) (f : Ing) (r : RdrRes) (kv : List Byte) : Keeps s (s.ingLookup f r kv).1 := by
  suffices h : ∀ Q : IngRes → Prop, (∀ t a b, Keeps s t → Q (t, a, b)) → Q (s.ingLookup f r kv) from
    h (fun x => Keeps s x.1) fun t a b h => h
  intro Q hQ
  unfold State.ingLookup
  extract_lets p lay base stop
  have hs : ∀ u x late rd, Keeps s u → Q (stop u x late rd) := by
    intro u x late rd h
    cases x <;> simp only [stop]
    · exact hQ _ _ _ (h.trans ⟨by simp, fun hw => by simp [hw]⟩)
    · exact hQ _ _ _ (h.trans ⟨by simp, fun hw => by simp [hw]⟩)
  clear_value stop
  generalize s.lookReads f kv (entF lay 35 4 0) = o
  cases o with
  | inl x =>
    refine hs _ _ _ _ (.of_eq ?_)
    have := keep_foldl (fun s k => s.countKa p k) x.2 s (by intros; simp)
    simp [this]
  | inr l =>
  dsimp -zeta only
  extract_lets s1 late s2 sc s3 reads ch other s4
  have h1 : Keeps s s1 := .of_eq (by simp [s1])
  have h2 : Keeps s s2 := h1.trans (.ite (.of_eq (by simp)) (.refl _))
  clear_value s2
  have h3 : Keeps s s3 := h2.trans (.of_eq (by simp [s3, sc]))
  have h4 : Keeps s s4 := h3.trans (.of_eq (by simp [s4]))
  clear_value s4 s3 other reads
  cases sc.2 with
  | some code => exact hQ _ _ _ (h3.trans ⟨by simp, fun hw => by simp [hw]⟩)
  | none =>
  clear_value ch
  cases ch with
  | inl x => exact hs _ _ _ _ h4
  | inr c =>
    dsimp -zeta only
    extract_lets s5 s6 go
    have h5 : Keeps s s5 := h4.trans (.ite (.of_eq (by simp)) (.ite (.of_eq (by simp)) (.ite (.of_eq (by simp)) (.ite (.of_eq (by simp)) (.ite (.of_eq (by simp)) (.refl _))))))
    clear_value s5
    have h6 : Keeps s s6 := h5.trans (.ite (.of_eq (by simp)) (.refl _))
    have hg : ∀ u g, Keeps s u → Q (go u g) := fun u g h => hQ _ _ _ (h.trans (State_ingResolve_keeps ..))
    clear_value s6 go
    generalize s6.resolve p (resDt c.r) (resDest c.r) (resRw c.r) l.hash f.lidx = g
    cases g with
    | drop code => exact hQ _ _ _ (h6.trans ⟨by simp, fun hw => by simp [hw]⟩)
    | parity t i => exact hs _ _ _ _ h6
    | mcast g rw => exact hg _ _ h6
    | ok copies e lg rm => exact hg _ _ (h6.trans (.of_eq (by simp)))
@[simp] theorem State_ingLookup_pending (s : State) (f : Ing) (r : RdrRes) (kv : List Byte) : (s.ingLookup f r kv).1.pending = s.pending :=
  (State_ingLookup_keeps ..).1
@[simp] theorem State_ingLookup_wf (s : State) (f : Ing) (r : RdrRes) (kv : List Byte) (hw : Memory.wf s.arc.mem = true) :
    Memory.wf (s.ingLookup f r kv).1.arc.mem = true := (State_ingLookup_keeps ..).2 hw
theorem State_ingressFrame_keeps (s : State) (f : Ing) : Keeps s (s.ingressFrame f).1 := by
  suffices h : ∀ Q : IngRes → Prop, (∀ t a b, Keeps s t → Q (t, a, b)) → (∀ t g h k, Keeps s t → Q (t.ingLookup g h k)) → Q (s.ingressFrame f) from
    h (fun x => Keeps s x.1) (fun t a b h => h) fun t g h k e => e.trans (State_ingLookup_keeps ..)
  intro Q hQ hL
  unfold State.ingressFrame
  lift_lets
  extract_lets p s1 r s2 base col q1 q2 t i x s3 y
  have h1 : Keeps s s1 := .ite (.refl _) (.of_eq (by simp))
  have h2 : Keeps s s2 := h1.trans (.of_eq (by simp [s2]))
  have k1 : Keeps s q1.1 := by
    simp only [q1]; split
    · exact h2.trans (.of_eq (by simp))
    · exact h2
  clear_value q1
  have k2 : Keeps s q2.1 := by
    simp only [q2]
    split
    · split
      · exact k1.trans (.of_eq (by simp))
      · exact k1
    · exact k1
  clear_value q2
  have h3 : Keeps s s3 := by
    simp only [s3]; split
    · exact k2.trans (.of_eq (by simp))
    · exact k2
  clear_value s3
  by_cases c1 : f.pass = true ∧ s1.edState f.ed = 5
  · rw [if_pos c1]; exact hQ _ _ _ (h1.trans ⟨by simp, fun hw => by simp [hw]⟩)
  rw [if_neg c1]
  by_cases c2 : (!q2.snd) = true
  · rw [if_pos c2]; exact hQ _ _ _ (k2.trans ⟨by simp [x], fun hw => by simp [x, hw]⟩)
  rw [if_neg c2]
  split
  · exact hQ _ _ _ (h3.trans ⟨by simp, fun hw => by simp [hw]⟩)
  · exact hQ _ _ _ (h3.trans ⟨by simp [y], fun hw => by simp [y, hw]⟩)
  · exact hQ _ _ _ (h3.trans ⟨by simp, fun hw => by simp [hw]⟩)
  · extract_lets s4 x4
    have h4 : Keeps s s4 := h3.trans (.of_eq (by simp [s4]))
    clear_value s4
    split
    · exact hQ _ _ _ (h4.trans ⟨by simp, fun hw => by simp [hw]⟩)
    · exact hQ _ _ _ (h4.trans ⟨by simp [x4], fun hw => by simp [x4, hw]⟩)
  · exact hQ _ _ _ (h3.trans ⟨by simp, fun hw => by simp [hw]⟩)
  · exact hL _ _ _ _ h3
@[simp] theorem State_ingressFrame_pending (s : State) (f : Ing) : (s.ingressFrame f).1.pending = s.pending := (State_ingressFrame_keeps ..).1
@[simp] theorem State_ingressFrame_wf (s : State) (f : Ing) (hw : Memory.wf s.arc.mem = true) :
    Memory.wf (s.ingressFrame f).1.arc.mem = true := (State_ingressFrame_keeps ..).2 hw
@[simp] theorem State_ingFront_pending (s : State) (x : RxFrame) (slot : Nat) : (State.ingFront s x slot).pending = s.pending := by unfold State.ingFront; simp
@[simp] theorem State_ingFront_wf (s : State) (x : RxFrame) (slot : Nat) (hw : Memory.wf s.arc.mem = true) :
    Memory.wf (State.ingFront s x slot).arc.mem = true := by unfold State.ingFront; simp [hw]
@[simp] theorem State_ingWhole_pending (s : State) (f : Ing) : (State.ingWhole s f).pending = s.pending := by unfold State.ingWhole; simp
@[simp] theorem State_ingWhole_wf (s : State) (f : Ing) (hw : Memory.wf s.arc.mem = true) :
    Memory.wf (State.ingWhole s f).arc.mem = true := by unfold State.ingWhole; simp [hw]
@[simp] theorem State_fenceClose_pending (s : State) (tag : Nat) (p : Nat) : (State.fenceClose s tag p).pending = s.pending := by
  unfold State.fenceClose
  dsimp only
  repeat' split
  all_goals simp
@[simp] theorem State_fenceClose_wf (s : State) (tag : Nat) (p : Nat) (hw : Memory.wf s.arc.mem = true) :
    Memory.wf (State.fenceClose s tag p).arc.mem = true := by
  unfold State.fenceClose
  dsimp only
  repeat' split
  all_goals simp [hw]
@[simp] theorem State_fenceReturned_pending (s : State) (tag : Nat) (p : Nat) : (State.fenceReturned s tag p).pending = s.pending := by
  unfold State.fenceReturned
  dsimp only
  repeat' split
  all_goals simp
@[simp] theorem State_fenceReturned_wf (s : State) (tag : Nat) (p : Nat) (hw : Memory.wf s.arc.mem = true) :
    Memory.wf (State.fenceReturned s tag p).arc.mem = true := by
  unfold State.fenceReturned
  dsimp only
  repeat' split
  all_goals simp [hw]
@[simp] theorem State_ingInjected_pending (s : State) (y : InjFrame) (slot : Nat) : (State.ingInjected s y slot).pending = s.pending := by
  unfold State.ingInjected
  repeat' split
  all_goals simp
@[simp] theorem State_ingInjected_wf (s : State) (y : InjFrame) (slot : Nat) (hw : Memory.wf s.arc.mem = true) :
    Memory.wf (State.ingInjected s y slot).arc.mem = true := by
  unfold State.ingInjected
  repeat' split
  all_goals simp [hw]
@[simp] theorem State_slotOne_pending (s : State) (p : Nat) (slot : Nat) : (State.slotOne s p slot).1.pending = s.pending := by
  unfold State.slotOne
  dsimp only
  repeat' split
  all_goals simp
@[simp] theorem State_slotOne_wf (s : State) (p : Nat) (slot : Nat) (hw : Memory.wf s.arc.mem = true) :
    Memory.wf (State.slotOne s p slot).1.arc.mem = true := by
  unfold State.slotOne
  dsimp only
  repeat' split
  all_goals simp [hw]
@[simp] theorem State_slots_pending (s : State) (p : Nat) (slot : Nat) (q0 : Nat) : (State.slots s p slot q0).pending = s.pending := by
  induction q0 generalizing s slot with
  | zero => rfl
  | succ n ih =>
    unfold State.slots
    dsimp only
    repeat' split
    all_goals simp [ih]
@[simp] theorem State_slots_wf (s : State) (p : Nat) (slot : Nat) (q0 : Nat) (hw : Memory.wf s.arc.mem = true) :
    Memory.wf (State.slots s p slot q0).arc.mem = true := by
  induction q0 generalizing s slot with
  | zero => exact hw
  | succ n ih =>
    unfold State.slots
    dsimp only
    repeat' split
    all_goals first
      | exact hw
      | simp [hw]
      | (apply ih; simp [hw])
@[simp] theorem ingressSlots_pending (p : Nat) (s : State) : (ingressSlots p s).pending = s.pending := by unfold ingressSlots; simp
@[simp] theorem ingressSlots_wf (p : Nat) (s : State) (hw : Memory.wf s.arc.mem = true) :
    Memory.wf (ingressSlots p s).arc.mem = true := by unfold ingressSlots; simp [hw]
@[simp] theorem State_farRead_keep (s : State) (p : Nat) (t : Nat) (ck : Nat) (key : Nat) (base : Nat) (rep : Nat) (idx : Nat) :
    (State.farRead s p t ck key base rep idx).1.pending = s.pending ∧ (State.farRead s p t ck key base rep idx).1.arc.mem = s.arc.mem := by unfold State.farRead; simp
@[simp] theorem State_farRun_keep (s : State) (p : Nat) (rep : Nat) (ed : Bool) (e : FarEnv) (g : Prog) (addr : Nat) (q0 : Nat) :
    (State.farRun s p rep ed e g addr q0).1.pending = s.pending ∧ (State.farRun s p rep ed e g addr q0).1.arc.mem = s.arc.mem := by
  induction q0 generalizing s g addr with
  | zero => exact ⟨rfl, rfl⟩
  | succ n ih =>
    unfold State.farRun
    dsimp only
    repeat' split
    all_goals simp [ih]
@[simp] theorem State_loopLevel_keep (s : State) (p : Nat) :
    (State.loopLevel s p).pending = s.pending ∧ (State.loopLevel s p).arc.mem = s.arc.mem := by unfold State.loopLevel; simp
@[simp] theorem State_farFault_keep (s : State) (p : Nat) (x : Slip) (st : Stall) (cause : Nat) (stage : Nat) (op : Nat) (addr : Nat) :
    (State.farFault s p x st cause stage op addr).pending = s.pending ∧ (State.farFault s p x st cause stage op addr).arc.mem = s.arc.mem := by unfold State.farFault; simp
@[simp] theorem State_farrier_keep (s : State) (p : Nat) (slot : Nat) (x : Slip) (st : Stall) (eg : Option Nat) :
    (State.farrier s p slot x st eg).1.pending = s.pending ∧ (State.farrier s p slot x st eg).1.arc.mem = s.arc.mem := by
  unfold State.farrier
  dsimp only
  repeat' split
  all_goals simp
@[simp] theorem State_stbFault_keep (s : State) (x : Slip) (p : Nat) :
    (State.stbFault s x p).pending = s.pending ∧ (State.stbFault s x p).arc.mem = s.arc.mem := by unfold State.stbFault; simp
@[simp] theorem State_stbRead_keep (s : State) (x : Slip) (p : Nat) :
    (State.stbRead s x p).1.pending = s.pending ∧ (State.stbRead s x p).1.arc.mem = s.arc.mem := by unfold State.stbRead; simp
@[simp] theorem State_nextRead_keep (s : State) (id : Nat) :
    (State.nextRead s id).pending = s.pending ∧ (State.nextRead s id).arc.mem = s.arc.mem := by unfold State.nextRead; simp
@[simp] theorem State_breakQueue_keep (s : State) (q : Nat) (port : Nat) (id : Nat) (left : List Nat) :
    (State.breakQueue s q port id left).pending = s.pending ∧ (State.breakQueue s q port id left).arc.mem = s.arc.mem := by unfold State.breakQueue; simp
@[simp] theorem State_takeQueue_keep (s : State) (q : Nat) (port : Nat) (id : Nat) :
    (State.takeQueue s q port id).1.pending = s.pending ∧ (State.takeQueue s q port id).1.arc.mem = s.arc.mem := by
  unfold State.takeQueue
  dsimp only
  repeat' split
  all_goals simp
@[simp] theorem State_popQueue_keep (s : State) (q : Nat) (port : Nat) :
    (State.popQueue s q port).pending = s.pending ∧ (State.popQueue s q port).arc.mem = s.arc.mem := by
  unfold State.popQueue
  repeat' split
  all_goals simp
@[simp] theorem State_linkOne_pending (s : State) (p : Nat) : (State.linkOne s p).pending = s.pending := by
  unfold State.linkOne
  dsimp only
  repeat' split
  all_goals simp
@[simp] theorem State_linkOne_wf (s : State) (p : Nat) (hw : Memory.wf s.arc.mem = true) :
    Memory.wf (State.linkOne s p).arc.mem = true := by
  unfold State.linkOne
  dsimp only
  repeat' split
  all_goals simp [hw]
@[simp] theorem State_linkN_pending (s : State) (p : Nat) (q0 : Nat) : (State.linkN s p q0).pending = s.pending := by
  induction q0 generalizing s with
  | zero => rfl
  | succ n ih => unfold State.linkN; simp [ih]
@[simp] theorem State_linkN_wf (s : State) (p : Nat) (q0 : Nat) (hw : Memory.wf s.arc.mem = true) :
    Memory.wf (State.linkN s p q0).arc.mem = true := by
  induction q0 generalizing s with
  | zero => exact hw
  | succ n ih => unfold State.linkN; apply ih; simp [hw]
@[simp] theorem State_setCurb_keep (s : State) (t : Nat) (p : Nat) (i : Nat) (peak : Bool) (v : Int) :
    (State.setCurb s t p i peak v).pending = s.pending ∧ (State.setCurb s t p i peak v).arc.mem = s.arc.mem := by unfold State.setCurb; simp
@[simp] theorem State_tokenRead_keep (s : State) (t : Nat) (p : Nat) (i : Nat) :
    (State.tokenRead s t p i).pending = s.pending ∧ (State.tokenRead s t p i).arc.mem = s.arc.mem := by unfold State.tokenRead; simp
@[simp] theorem State_chargeNode_keep (s : State) (t : Nat) (p : Nat) (i : Nat) (bytes : Int) :
    (State.chargeNode s t p i bytes).pending = s.pending ∧ (State.chargeNode s t p i bytes).arc.mem = s.arc.mem := by
  unfold State.chargeNode
  dsimp only
  repeat' split
  all_goals simp
@[simp] theorem State_chargePath_keep (s : State) (p : Nat) (sv : Nat) (k : Nat) (bytes : Int) :
    (State.chargePath s p sv k bytes).pending = s.pending ∧ (State.chargePath s p sv k bytes).arc.mem = s.arc.mem := by unfold State.chargePath; simp
@[simp] theorem State_correct_keep (s : State) (x : Slip) (svc : Nat) (est : Nat) (actual : Nat) :
    (State.correct s x svc est actual).pending = s.pending ∧ (State.correct s x svc est actual).arc.mem = s.arc.mem := by unfold State.correct; simp
@[simp] theorem State_candidate_keep (s : State) (p : Nat) (k : Nat) (sv : Nat) :
    (State.candidate s p k sv).1.pending = s.pending ∧ (State.candidate s p k sv).1.arc.mem = s.arc.mem := by
  unfold State.candidate
  dsimp only
  repeat' split
  all_goals simp
@[simp] theorem State_candidates_keep (s : State) (p : Nat) (k : Nat) (q0 : List Nat) :
    (State.candidates s p k q0).1.pending = s.pending ∧ (State.candidates s p k q0).1.arc.mem = s.arc.mem := by
  induction q0 generalizing s with
  | nil => exact ⟨rfl, rfl⟩
  | cons c t ih => unfold State.candidates; simp [ih]
@[simp] theorem State_dropTooLong_pending (s : State) (p : Nat) (k : Nat) (svs : List Nat) : (State.dropTooLong s p k svs).pending = s.pending := by
  unfold State.dropTooLong
  refine pend_foldl _ _ _ fun s a => ?_
  dsimp only
  repeat' split
  all_goals simp
@[simp] theorem State_dropTooLong_wf (s : State) (p : Nat) (k : Nat) (svs : List Nat) (hw : Memory.wf s.arc.mem = true) :
    Memory.wf (State.dropTooLong s p k svs).arc.mem = true := by
  unfold State.dropTooLong
  refine wf_foldl _ _ _ (fun s a hw => ?_) hw
  dsimp only
  repeat' split
  all_goals simp [hw]
@[simp] theorem State_selectCopy_keep (s : State) (p : Nat) (k : Nat) (c : Cand) (r1 : List (Nat × Int)) (r2 : List (Nat × Int)) :
    (State.selectCopy s p k c r1 r2).pending = s.pending ∧ (State.selectCopy s p k c r1 r2).arc.mem = s.arc.mem := by unfold State.selectCopy; simp
@[simp] theorem State_harness_pending (s : State) (p : Nat) (k : Nat) : (State.harness s p k).pending = s.pending := by
  unfold State.harness
  dsimp only
  repeat' split
  all_goals simp
@[simp] theorem State_harness_wf (s : State) (p : Nat) (k : Nat) (hw : Memory.wf s.arc.mem = true) :
    Memory.wf (State.harness s p k).arc.mem = true := by
  unfold State.harness
  dsimp only
  repeat' split
  all_goals simp [hw]
@[simp] theorem State_dropSel_pending (s : State) (c : EgCopy) (code : Nat) : (State.dropSel s c code).pending = s.pending := by unfold State.dropSel; simp
@[simp] theorem State_dropSel_wf (s : State) (c : EgCopy) (code : Nat) (hw : Memory.wf s.arc.mem = true) :
    Memory.wf (State.dropSel s c code).arc.mem = true := by unfold State.dropSel; simp [hw]
@[simp] theorem State_egParity_pending (s : State) (p : Nat) (c : EgCopy) (len : Nat) (t : Nat) (i : Nat) : (State.egParity s p c len t i).pending = s.pending := by
  unfold State.egParity
  dsimp only
  repeat' split
  all_goals simp
@[simp] theorem State_egParity_wf (s : State) (p : Nat) (c : EgCopy) (len : Nat) (t : Nat) (i : Nat) (hw : Memory.wf s.arc.mem = true) :
    Memory.wf (State.egParity s p c len t i).arc.mem = true := by
  unfold State.egParity
  dsimp only
  repeat' split
  all_goals simp [hw]
@[simp] theorem State_rxLate_keep (s : State) (st : Stall) (c : Nat × Nat × Nat × Nat × Nat) :
    (State.rxLate s st c).pending = s.pending ∧ (State.rxLate s st c).arc.mem = s.arc.mem := by unfold State.rxLate; simp
@[simp] theorem State_egRule_keep (s : State) (p : Nat) (r : Option Nat) (st : Stall) :
    (State.egRule s p r st).pending = s.pending ∧ (State.egRule s p r st).arc.mem = s.arc.mem := by
  unfold State.egRule
  dsimp only
  repeat' split
  all_goals simp
@[simp] theorem State_egRein_keep (s : State) (p : Nat) (r : Option Nat) (col : Nat) (len : Nat) :
    (State.egRein s p r col len).1.pending = s.pending ∧ (State.egRein s p r col len).1.arc.mem = s.arc.mem := by
  unfold State.egRein
  dsimp only
  repeat' split
  all_goals simp
@[simp] theorem State_addTx_keep (s : State) (wire : Nat) (c : EgCopy) :
    (State.addTx s wire c).pending = s.pending ∧ (State.addTx s wire c).arc.mem = s.arc.mem := by unfold State.addTx; simp
@[simp] theorem State_afterFarrier_pending (s : State) (p : Nat) (c : EgCopy) (st : Stall) (kv : List Byte) (g : Prog) (cont : Option Nat) : (State.afterFarrier s p c st kv g cont).pending = s.pending := by unfold State.afterFarrier; simp
@[simp] theorem State_afterFarrier_wf (s : State) (p : Nat) (c : EgCopy) (st : Stall) (kv : List Byte) (g : Prog) (cont : Option Nat) (hw : Memory.wf s.arc.mem = true) :
    Memory.wf (State.afterFarrier s p c st kv g cont).arc.mem = true := by
  unfold State.afterFarrier
  dsimp only
  repeat' split
  all_goals simp [hw]
@[simp] theorem State_egressActs_pending (s : State) (p : Nat) (slot : Nat) (c : EgCopy) (st : Stall) (kv : List Byte) (a : Option Nat) (b : Option Nat) : (State.egressActs s p slot c st kv a b).pending = s.pending := by
  unfold State.egressActs
  dsimp only
  repeat' split
  all_goals simp
@[simp] theorem State_egressActs_wf (s : State) (p : Nat) (slot : Nat) (c : EgCopy) (st : Stall) (kv : List Byte) (a : Option Nat) (b : Option Nat) (hw : Memory.wf s.arc.mem = true) :
    Memory.wf (State.egressActs s p slot c st kv a b).arc.mem = true := by
  unfold State.egressActs
  dsimp only
  repeat' split
  all_goals simp [hw]
@[simp] theorem State_holdEg_pending (s : State) (p : Nat) (tags : List Nat) (h : HeldEg) : (State.holdEg s p tags h).pending = s.pending := by unfold State.holdEg; simp
@[simp] theorem State_holdEg_wf (s : State) (p : Nat) (tags : List Nat) (h : HeldEg) (hw : Memory.wf s.arc.mem = true) :
    Memory.wf (State.holdEg s p tags h).arc.mem = true := by
  unfold State.holdEg
  dsimp only
  repeat' split
  all_goals simp [hw]
@[simp] theorem State_unholdEg_pending (s : State) (p : Nat) (slot : Nat) (h : HeldEg) : (State.unholdEg s p slot h).pending = s.pending := by
  unfold State.unholdEg
  repeat' split
  all_goals simp
@[simp] theorem State_unholdEg_wf (s : State) (p : Nat) (slot : Nat) (h : HeldEg) (hw : Memory.wf s.arc.mem = true) :
    Memory.wf (State.unholdEg s p slot h).arc.mem = true := by
  unfold State.unholdEg
  repeat' split
  all_goals simp [hw]
@[simp] theorem State_egressWon_pending (s : State) (p : Nat) (slot : Nat) (h : HeldEg) (st : Stall) (reads : List (Nat × Nat)) : (State.egressWon s p slot h st reads).pending = s.pending := by
  unfold State.egressWon
  dsimp only
  repeat' split
  all_goals simp
@[simp] theorem State_egressWon_wf (s : State) (p : Nat) (slot : Nat) (h : HeldEg) (st : Stall) (reads : List (Nat × Nat)) (hw : Memory.wf s.arc.mem = true) :
    Memory.wf (State.egressWon s p slot h st reads).arc.mem = true := by
  unfold State.egressWon
  dsimp only
  repeat' split
  all_goals simp [hw]
@[simp] theorem State_egressOne_pending (s : State) (p : Nat) (slot : Nat) (c : EgCopy) : (State.egressOne s p slot c).pending = s.pending := by
  unfold State.egressOne
  dsimp only
  repeat' split
  all_goals simp
@[simp] theorem State_egressOne_wf (s : State) (p : Nat) (slot : Nat) (c : EgCopy) (hw : Memory.wf s.arc.mem = true) :
    Memory.wf (State.egressOne s p slot c).arc.mem = true := by
  unfold State.egressOne
  dsimp only
  repeat' split
  all_goals simp [hw]
@[simp] theorem State_egSlots_pending (s : State) (p : Nat) (slot : Nat) (q0 : Nat) : (State.egSlots s p slot q0).pending = s.pending := by
  induction q0 generalizing s slot with
  | zero => rfl
  | succ n ih =>
    unfold State.egSlots
    dsimp only
    repeat' split
    all_goals simp [ih]
@[simp] theorem State_egSlots_wf (s : State) (p : Nat) (slot : Nat) (q0 : Nat) (hw : Memory.wf s.arc.mem = true) :
    Memory.wf (State.egSlots s p slot q0).arc.mem = true := by
  induction q0 generalizing s slot with
  | zero => exact hw
  | succ n ih =>
    unfold State.egSlots
    dsimp only
    repeat' split
    all_goals first
      | exact hw
      | simp [hw]
      | (apply ih; simp [hw])
@[simp] theorem State_keyRecord_pending (s : State) (p : Nat) (f : Flow) : (State.keyRecord s p f).pending = s.pending := by unfold State.keyRecord; simp
@[simp] theorem State_keyRecord_wf (s : State) (p : Nat) (f : Flow) (hw : Memory.wf s.arc.mem = true) :
    Memory.wf (State.keyRecord s p f).arc.mem = true := by unfold State.keyRecord; simp [hw]
@[simp] theorem State_useRecord_pending (s : State) (p : Nat) (reason : Nat) (f : Flow) : (State.useRecord s p reason f).pending = s.pending := by unfold State.useRecord; simp
@[simp] theorem State_useRecord_wf (s : State) (p : Nat) (reason : Nat) (f : Flow) (hw : Memory.wf s.arc.mem = true) :
    Memory.wf (State.useRecord s p reason f).arc.mem = true := by unfold State.useRecord; simp [hw]
@[simp] theorem State_setFlows_keep (s : State) (f : AMap (Nat × Nat × Nat) Flow) :
    (State.setFlows s f).pending = s.pending ∧ (State.setFlows s f).arc.mem = s.arc.mem := by unfold State.setFlows; simp
@[simp] theorem State_flowInsert_pending (s : State) (p : Nat) (b : Nat) (w : Nat) (f : Flow) : (State.flowInsert s p b w f).pending = s.pending := by unfold State.flowInsert; simp
@[simp] theorem State_flowInsert_wf (s : State) (p : Nat) (b : Nat) (w : Nat) (f : Flow) (hw : Memory.wf s.arc.mem = true) :
    Memory.wf (State.flowInsert s p b w f).arc.mem = true := by unfold State.flowInsert; simp [hw]
@[simp] theorem State_untrackedCopy_keep (s : State) (p : Nat) :
    (State.untrackedCopy s p).1.pending = s.pending ∧ (State.untrackedCopy s p).1.arc.mem = s.arc.mem := by unfold State.untrackedCopy; simp
@[simp] theorem State_flowTrack_pending (s : State) (p : Nat) (x : Slip) (st : Stall) (kv : List Byte) (ct : Nat) (lat : Nat) (bytes : Nat) : (State.flowTrack s p x st kv ct lat bytes).1.pending = s.pending := by
  unfold State.flowTrack
  dsimp only
  repeat' split
  all_goals simp
@[simp] theorem State_flowTrack_wf (s : State) (p : Nat) (x : Slip) (st : Stall) (kv : List Byte) (ct : Nat) (lat : Nat) (bytes : Nat) (hw : Memory.wf s.arc.mem = true) :
    Memory.wf (State.flowTrack s p x st kv ct lat bytes).1.arc.mem = true := by
  unfold State.flowTrack
  dsimp only
  repeat' split
  all_goals simp [hw]
@[simp] theorem State_flowBytesLate_keep (s : State) (p : Nat) (flow : Option (Option Nat)) (n : Nat) (given : Nat) :
    (State.flowBytesLate s p flow n given).pending = s.pending ∧ (State.flowBytesLate s p flow n given).arc.mem = s.arc.mem := by
  unfold State.flowBytesLate
  dsimp only
  repeat' split
  all_goals simp
@[simp] theorem State_flowEvict_pending (s : State) (k : Nat × Nat × Nat) (reason : Nat) (f : Flow) : (State.flowEvict s k reason f).pending = s.pending := by unfold State.flowEvict; simp
@[simp] theorem State_flowEvict_wf (s : State) (k : Nat × Nat × Nat) (reason : Nat) (f : Flow) (hw : Memory.wf s.arc.mem = true) :
    Memory.wf (State.flowEvict s k reason f).arc.mem = true := by
  unfold State.flowEvict
  repeat' split
  all_goals simp [hw]
@[simp] theorem State_flowVisit_pending (s : State) (k : Nat × Nat × Nat) (f : Flow) : (State.flowVisit s k f).pending = s.pending := by unfold State.flowVisit; simp
@[simp] theorem State_flowVisit_wf (s : State) (k : Nat × Nat × Nat) (f : Flow) (hw : Memory.wf s.arc.mem = true) :
    Memory.wf (State.flowVisit s k f).arc.mem = true := by
  unfold State.flowVisit
  repeat' split
  all_goals simp [hw]
@[simp] theorem State_flowSweep_pending (s : State) (p : Nat) : (State.flowSweep s p).pending = s.pending := by
  unfold State.flowSweep
  refine pend_foldl _ _ _ fun s a => ?_
  repeat' split
  all_goals simp
@[simp] theorem State_flowSweep_wf (s : State) (p : Nat) (hw : Memory.wf s.arc.mem = true) :
    Memory.wf (State.flowSweep s p).arc.mem = true := by
  unfold State.flowSweep
  refine wf_foldl _ _ _ (fun s a hw => ?_) hw
  repeat' split
  all_goals simp [hw]
@[simp] theorem State_prtBit_keep (s : State) (f : Fld) (port : Nat) (i : Nat) (on : Bool) :
    (State.prtBit s f port i on).pending = s.pending ∧ (State.prtBit s f port i on).arc.mem = s.arc.mem := by unfold State.prtBit; simp
@[simp] theorem State_unpause_keep (s : State) (port : Nat) (prio : Nat) :
    (State.unpause s port prio).pending = s.pending ∧ (State.unpause s port prio).arc.mem = s.arc.mem := by
  unfold State.unpause
  dsimp only
  repeat' split
  all_goals simp
@[simp] theorem State_pauseFor_keep (s : State) (port : Nat) (prio : Nat) (quanta : Nat) :
    (State.pauseFor s port prio quanta).pending = s.pending ∧ (State.pauseFor s port prio quanta).arc.mem = s.arc.mem := by unfold State.pauseFor; simp
@[simp] theorem State_macControl_keep (s : State) (port : Nat) (t : Nat) (rc : Nat) (bs : List Byte) :
    (State.macControl s port t rc bs).pending = s.pending ∧ (State.macControl s port t rc bs).arc.mem = s.arc.mem := by unfold State.macControl; simp
@[simp] theorem State_stormAny_keep (s : State) (port : Nat) :
    (State.stormAny s port).pending = s.pending ∧ (State.stormAny s port).arc.mem = s.arc.mem := by unfold State.stormAny; simp
@[simp] theorem State_startWalk_keep (s : State) (port : Nat) (cls : Option Nat) :
    (State.startWalk s port cls).pending = s.pending ∧ (State.startWalk s port cls).arc.mem = s.arc.mem := by unfold State.startWalk; simp
@[simp] theorem State_declareStorm_keep (s : State) (port : Nat) (prio : Nat) :
    (State.declareStorm s port prio).pending = s.pending ∧ (State.declareStorm s port prio).arc.mem = s.arc.mem := by unfold State.declareStorm; simp
@[simp] theorem State_rxStart_keep (s : State) (port : Nat) (phase : Nat) (head : List Byte) :
    (State.rxStart s port phase head).pending = s.pending ∧ (State.rxStart s port phase head).arc.mem = s.arc.mem := by unfold State.rxStart; simp
@[simp] theorem State_rxSizes_keep (s : State) (x : RxFrame) (l : Nat) (pcsErr : Bool) :
    (State.rxSizes s x l pcsErr).pending = s.pending ∧ (State.rxSizes s x l pcsErr).arc.mem = s.arc.mem := by
  unfold State.rxSizes
  extract_lets c s1 s2 s3
  have hc : ∀ u i n, (c u i n).pending = u.pending ∧ (c u i n).arc.mem = u.arc.mem := by intro u i n; simp [c]
  clear_value c
  have h1 : s1.pending = s.pending ∧ s1.arc.mem = s.arc.mem := by simp [s1, hc]
  clear_value s1
  have h2 : s2.pending = s.pending ∧ s2.arc.mem = s.arc.mem := by simp only [s2]; split <;> simp [hc, h1]
  clear_value s2
  have h3 : s3.pending = s.pending ∧ s3.arc.mem = s.arc.mem := by simp only [s3]; split <;> simp [hc, h2]
  clear_value s3
  split <;> simp [hc, h3]
@[simp] theorem State_rxErrors_keep (s : State) (x : RxFrame) (l : Nat) (good : Bool) :
    (State.rxErrors s x l good).pending = s.pending ∧ (State.rxErrors s x l good).arc.mem = s.arc.mem := by unfold State.rxErrors; simp
@[simp] theorem State_rxCast_keep (s : State) (x : RxFrame) :
    (State.rxCast s x).pending = s.pending ∧ (State.rxCast s x).arc.mem = s.arc.mem := by unfold State.rxCast; simp
@[simp] theorem State_endStall_keep (s : State) (x : RxFrame) (st : Stall) (good : Bool) :
    (State.endStall s x st good).pending = s.pending ∧ (State.endStall s x st good).arc.mem = s.arc.mem := by unfold State.endStall; simp
@[simp] theorem State_rxClose_keep (s : State) (port : Nat) :
    (State.rxClose s port).pending = s.pending ∧ (State.rxClose s port).arc.mem = s.arc.mem := by unfold State.rxClose; simp
@[simp] theorem State_rxWaits_keep (s : State) (port : Nat) (new : RxFrame) :
    (State.rxWaits s port new).pending = s.pending ∧ (State.rxWaits s port new).arc.mem = s.arc.mem := by
  unfold State.rxWaits
  dsimp only
  repeat' split
  all_goals simp
@[simp] theorem State_rxFinish_pending (s : State) (x : RxFrame) (good : Bool) (pcsErr : Bool) : (State.rxFinish s x good pcsErr).pending = s.pending := by
  unfold State.rxFinish
  dsimp only
  repeat' split
  all_goals simp
@[simp] theorem State_rxFinish_wf (s : State) (x : RxFrame) (good : Bool) (pcsErr : Bool) (hw : Memory.wf s.arc.mem = true) :
    Memory.wf (State.rxFinish s x good pcsErr).arc.mem = true := by
  unfold State.rxFinish
  dsimp only
  repeat' split
  all_goals simp [hw]
@[simp] theorem State_truncate_pending (s : State) (port : Nat) : (State.truncate s port).pending = s.pending := by
  unfold State.truncate
  repeat' split
  all_goals simp
@[simp] theorem State_truncate_wf (s : State) (port : Nat) (hw : Memory.wf s.arc.mem = true) :
    Memory.wf (State.truncate s port).arc.mem = true := by
  unfold State.truncate
  repeat' split
  all_goals simp [hw]
@[simp] theorem State_fecLost_keep (s : State) (port : Nat) :
    (State.fecLost s port).pending = s.pending ∧ (State.fecLost s port).arc.mem = s.arc.mem := by unfold State.fecLost; simp
@[simp] theorem State_oneStep_keep (s : State) (port : Nat) (c : EgCopy) (st : Stall) (t : Nat × Nat) :
    (State.oneStep s port c st t).1.pending = s.pending ∧ (State.oneStep s port c st t).1.arc.mem = s.arc.mem := by
  unfold State.oneStep
  dsimp only
  repeat' split
  all_goals simp
@[simp] theorem State_twoStep_keep (s : State) (port : Nat) (c : EgCopy) (t : Nat × Nat) :
    (State.twoStep s port c t).pending = s.pending ∧ (State.twoStep s port c t).arc.mem = s.arc.mem := by
  unfold State.twoStep
  dsimp only
  repeat' split
  all_goals simp
@[simp] theorem State_dropWaiting_pending (s : State) (c : EgCopy) (code : Nat) : (State.dropWaiting s c code).pending = s.pending := by
  unfold State.dropWaiting
  repeat' split
  all_goals simp
@[simp] theorem State_dropWaiting_wf (s : State) (c : EgCopy) (code : Nat) (hw : Memory.wf s.arc.mem = true) :
    Memory.wf (State.dropWaiting s c code).arc.mem = true := by
  unfold State.dropWaiting
  repeat' split
  all_goals simp [hw]
@[simp] theorem State_txCounts_keep (s : State) (port : Nat) (c : EgCopy) (st : Stall) :
    (State.txCounts s port c st).pending = s.pending ∧ (State.txCounts s port c st).arc.mem = s.arc.mem := by unfold State.txCounts; simp
@[simp] theorem State_txBegin_pending (s : State) (port : Nat) (phase : Nat) (c : EgCopy) (st : Stall) : (State.txBegin s port phase c st).pending = s.pending := by unfold State.txBegin; simp
@[simp] theorem State_txBegin_wf (s : State) (port : Nat) (phase : Nat) (c : EgCopy) (st : Stall) (hw : Memory.wf s.arc.mem = true) :
    Memory.wf (State.txBegin s port phase c st).arc.mem = true := by
  unfold State.txBegin
  dsimp only
  repeat' split
  all_goals simp [hw]
@[simp] theorem State_txClose_keep (s : State) (port : Nat) (c : EgCopy) (st : Stall) (n : Nat) (how : TxEnd) (sent : List Byte) :
    (State.txClose s port c st n how sent).pending = s.pending ∧ (State.txClose s port c st n how sent).arc.mem = s.arc.mem := by
  unfold State.txClose
  extract_lets k s1 s2 s3 s4 s5 p6 s6
  have hk : ∀ u i n, (k u i n).pending = u.pending ∧ (k u i n).arc.mem = u.arc.mem := by intro u i n; simp [k]
  clear_value k
  have h1 : s1.pending = s.pending ∧ s1.arc.mem = s.arc.mem := by simp [s1, hk]
  clear_value s1
  have h2 : s2.pending = s.pending ∧ s2.arc.mem = s.arc.mem := by simp only [s2]; split <;> simp [hk, h1]
  clear_value s2
  have h3 : s3.pending = s.pending ∧ s3.arc.mem = s.arc.mem := by
    simp only [s3]
    split
    · simp [hk, h2]
    · simp [hk, h2]
    · split <;> simp [hk, h2]
  clear_value s3
  have h4 : s4.pending = s.pending ∧ s4.arc.mem = s.arc.mem := by simp only [s4]; split <;> simp [h3]
  clear_value s4
  have h5 : s5.pending = s.pending ∧ s5.arc.mem = s.arc.mem := by simp [s5, h4]
  clear_value s5
  have h6 : s6.pending = s.pending ∧ s6.arc.mem = s.arc.mem := h5
  clear_value s6
  simp [h6]
@[simp] theorem State_txDone_keep (s : State) (port : Nat) (c : EgCopy) (st : Stall) :
    (State.txDone s port c st).pending = s.pending ∧ (State.txDone s port c st).arc.mem = s.arc.mem := by unfold State.txDone; simp
@[simp] theorem State_loopTake_pending (s : State) (p : Nat) (c : EgCopy) (st : Stall) : (State.loopTake s p c st).pending = s.pending := by unfold State.loopTake; simp
@[simp] theorem State_loopTake_wf (s : State) (p : Nat) (c : EgCopy) (st : Stall) (hw : Memory.wf s.arc.mem = true) :
    Memory.wf (State.loopTake s p c st).arc.mem = true := by
  unfold State.loopTake
  dsimp only
  repeat' split
  all_goals simp [hw]
@[simp] theorem State_endEarly_keep (s : State) (port : Nat) (stomp : Bool) :
    (State.endEarly s port stomp).pending = s.pending ∧ (State.endEarly s port stomp).arc.mem = s.arc.mem := by
  unfold State.endEarly
  dsimp only
  repeat' split
  all_goals simp
@[simp] theorem State_sendPause_keep (s : State) (port : Nat) (prio : Nat) (quanta : Nat) :
    (State.sendPause s port prio quanta).pending = s.pending ∧ (State.sendPause s port prio quanta).arc.mem = s.arc.mem := by unfold State.sendPause; simp
@[simp] theorem State_signal_keep (s : State) (port : Nat) (prio : Nat) (on : Bool) :
    (State.signal s port prio on).pending = s.pending ∧ (State.signal s port prio on).arc.mem = s.arc.mem := by unfold State.signal; simp
@[simp] theorem State_clearLive_keep (s : State) (port : Nat) :
    (State.clearLive s port).pending = s.pending ∧ (State.clearLive s port).arc.mem = s.arc.mem := by unfold State.clearLive; simp
@[simp] theorem State_dropSelected_pending (s : State) (port : Nat) (code : Nat) : (State.dropSelected s port code).pending = s.pending := by
  unfold State.dropSelected
  dsimp only
  rw [pend_foldl _ _ _ (by intros; simp), pend_foldl _ _ _ (by intros; simp), pend_foldl _ _ _ (by intros; simp)]
@[simp] theorem State_dropSelected_wf (s : State) (port : Nat) (code : Nat) (hw : Memory.wf s.arc.mem = true) :
    Memory.wf (State.dropSelected s port code).arc.mem = true := by
  unfold State.dropSelected
  dsimp only
  exact wf_foldl _ _ _ (by intro s a h; simp [h]) (wf_foldl _ _ _ (by intro s a h; simp [h]) (wf_foldl _ _ _ (by intro s a h; simp [h]) hw))
@[simp] theorem State_stopHold_keep (s : State) (port : Nat) :
    (State.stopHold s port).pending = s.pending ∧ (State.stopHold s port).arc.mem = s.arc.mem := by unfold State.stopHold; simp
@[simp] theorem State_startHold_keep (s : State) (port : Nat) :
    (State.startHold s port).pending = s.pending ∧ (State.startHold s port).arc.mem = s.arc.mem := by unfold State.startHold; simp
@[simp] theorem State_stopDown_keep (s : State) (port : Nat) :
    (State.stopDown s port).pending = s.pending ∧ (State.stopDown s port).arc.mem = s.arc.mem := by unfold State.stopDown; simp
@[simp] theorem State_enterUp_keep (s : State) (port : Nat) :
    (State.enterUp s port).pending = s.pending ∧ (State.enterUp s port).arc.mem = s.arc.mem := by unfold State.enterUp; simp
@[simp] theorem State_riseDown_keep (s : State) (port : Nat) :
    (State.riseDown s port).pending = s.pending ∧ (State.riseDown s port).arc.mem = s.arc.mem := by unfold State.riseDown; simp
@[simp] theorem State_disable_pending (s : State) (port : Nat) : (State.disable s port).pending = s.pending := by unfold State.disable; simp
@[simp] theorem State_disable_wf (s : State) (port : Nat) (hw : Memory.wf s.arc.mem = true) :
    Memory.wf (State.disable s port).arc.mem = true := by unfold State.disable; simp [hw]
@[simp] theorem State_toFlush_pending (s : State) (port : Nat) : (State.toFlush s port).pending = s.pending := by unfold State.toFlush; simp
@[simp] theorem State_toFlush_wf (s : State) (port : Nat) (hw : Memory.wf s.arc.mem = true) :
    Memory.wf (State.toFlush s port).arc.mem = true := by unfold State.toFlush; simp [hw]
@[simp] theorem State_linkDown_pending (s : State) (port : Nat) : (State.linkDown s port).pending = s.pending := by unfold State.linkDown; simp
@[simp] theorem State_linkDown_wf (s : State) (port : Nat) (hw : Memory.wf s.arc.mem = true) :
    Memory.wf (State.linkDown s port).arc.mem = true := by unfold State.linkDown; simp [hw]
@[simp] theorem State_enterSafe_pending (s : State) (port : Nat) : (State.enterSafe s port).pending = s.pending := by unfold State.enterSafe; simp
@[simp] theorem State_enterSafe_wf (s : State) (port : Nat) (hw : Memory.wf s.arc.mem = true) :
    Memory.wf (State.enterSafe s port).arc.mem = true := by
  unfold State.enterSafe
  dsimp only
  repeat' split
  all_goals simp [hw]
@[simp] theorem State_leaveSafe_pending (s : State) (port : Nat) : (State.leaveSafe s port).pending = s.pending := by unfold State.leaveSafe; simp
@[simp] theorem State_leaveSafe_wf (s : State) (port : Nat) (hw : Memory.wf s.arc.mem = true) :
    Memory.wf (State.leaveSafe s port).arc.mem = true := by
  unfold State.leaveSafe
  dsimp only
  repeat' split
  all_goals simp [hw]
@[simp] theorem State_liftSafe_pending (s : State) (port : Nat) : (State.liftSafe s port).pending = s.pending := by unfold State.liftSafe; simp
@[simp] theorem State_liftSafe_wf (s : State) (port : Nat) (hw : Memory.wf s.arc.mem = true) :
    Memory.wf (State.liftSafe s port).arc.mem = true := by unfold State.liftSafe; simp [hw]
@[simp] theorem State_adminSet_pending (s : State) (port : Nat) (on : Bool) : (State.adminSet s port on).pending = s.pending := by unfold State.adminSet; simp
@[simp] theorem State_adminSet_wf (s : State) (port : Nat) (on : Bool) (hw : Memory.wf s.arc.mem = true) :
    Memory.wf (State.adminSet s port on).arc.mem = true := by
  unfold State.adminSet
  dsimp only
  repeat' split
  all_goals simp [hw]
@[simp] theorem State_afterFlush_pending (s : State) (port : Nat) : (State.afterFlush s port).pending = s.pending := by unfold State.afterFlush; simp
@[simp] theorem State_afterFlush_wf (s : State) (port : Nat) (hw : Memory.wf s.arc.mem = true) :
    Memory.wf (State.afterFlush s port).arc.mem = true := by
  unfold State.afterFlush
  repeat' split
  all_goals simp [hw]
@[simp] theorem State_laneLock_keep (s : State) (lane : Nat) (on : Bool) :
    (State.laneLock s lane on).pending = s.pending ∧ (State.laneLock s lane on).arc.mem = s.arc.mem := by unfold State.laneLock; simp
@[simp] theorem State_synceUpdate_keep (s : State) (j : Nat) :
    (State.synceUpdate s j).pending = s.pending ∧ (State.synceUpdate s j).arc.mem = s.arc.mem := by unfold State.synceUpdate; simp
@[simp] theorem State_linkRise_keep (s : State) (port : Nat) :
    (State.linkRise s port).pending = s.pending ∧ (State.linkRise s port).arc.mem = s.arc.mem := by unfold State.linkRise; simp
@[simp] theorem State_laneEvent_keep (s : State) (port : Nat) (lane : Nat) (cause : Nat) :
    (State.laneEvent s port lane cause).pending = s.pending ∧ (State.laneEvent s port lane cause).arc.mem = s.arc.mem := by
  unfold State.laneEvent
  repeat' split
  all_goals simp
@[simp] theorem State_linkDrop_pending (s : State) (port : Nat) : (State.linkDrop s port).pending = s.pending := by unfold State.linkDrop; simp
@[simp] theorem State_linkDrop_wf (s : State) (port : Nat) (hw : Memory.wf s.arc.mem = true) :
    Memory.wf (State.linkDrop s port).arc.mem = true := by
  unfold State.linkDrop
  dsimp only
  repeat' split
  all_goals simp [hw]
@[simp] theorem State_linkFall_pending (s : State) (port : Nat) : (State.linkFall s port).pending = s.pending := by unfold State.linkFall; simp
@[simp] theorem State_linkFall_wf (s : State) (port : Nat) (hw : Memory.wf s.arc.mem = true) :
    Memory.wf (State.linkFall s port).arc.mem = true := by
  unfold State.linkFall
  repeat' split
  all_goals simp [hw]
@[simp] theorem State_walkOne_pending (s : State) (port : Nat) (cls : Option Nat) : (State.walkOne s port cls).pending = s.pending := by
  unfold State.walkOne
  dsimp only
  repeat' split
  all_goals simp
@[simp] theorem State_walkOne_wf (s : State) (port : Nat) (cls : Option Nat) (hw : Memory.wf s.arc.mem = true) :
    Memory.wf (State.walkOne s port cls).arc.mem = true := by
  unfold State.walkOne
  dsimp only
  repeat' split
  all_goals simp [hw]
@[simp] theorem State_walkN_pending (s : State) (port : Nat) (cls : Option Nat) (q0 : Nat) : (State.walkN s port cls q0).pending = s.pending := by
  induction q0 generalizing s with
  | zero => rfl
  | succ n ih => unfold State.walkN; simp [ih]
@[simp] theorem State_walkN_wf (s : State) (port : Nat) (cls : Option Nat) (q0 : Nat) (hw : Memory.wf s.arc.mem = true) :
    Memory.wf (State.walkN s port cls q0).arc.mem = true := by
  induction q0 generalizing s with
  | zero => exact hw
  | succ n ih => unfold State.walkN; apply ih; simp [hw]
@[simp] theorem State_octApply_keep (s : State) (o : Nat) (mode : Nat) (fec : Nat) :
    (State.octApply s o mode fec).pending = s.pending ∧ (State.octApply s o mode fec).arc.mem = s.arc.mem := by unfold State.octApply; simp
@[simp] theorem State_trained_keep (s : State) (port : Nat) (taps : List Word) :
    (State.trained s port taps).pending = s.pending ∧ (State.trained s port taps).arc.mem = s.arc.mem := by unfold State.trained; simp
@[simp] theorem State_anLost_pending (s : State) (port : Nat) : (State.anLost s port).pending = s.pending := by unfold State.anLost; simp
@[simp] theorem State_anLost_wf (s : State) (port : Nat) (hw : Memory.wf s.arc.mem = true) :
    Memory.wf (State.anLost s port).arc.mem = true := by
  unfold State.anLost
  dsimp only
  repeat' split
  all_goals simp [hw]
@[simp] theorem State_octAn_pending (s : State) (o : Nat) : (State.octAn s o).pending = s.pending := by unfold State.octAn; simp [pend_foldl]
@[simp] theorem State_octAn_wf (s : State) (o : Nat) (hw : Memory.wf s.arc.mem = true) :
    Memory.wf (State.octAn s o).arc.mem = true := by
  unfold State.octAn
  exact wf_foldl _ _ _ (by intro s a h; split <;> simp [h]) hw
@[simp] theorem State_restoreCnt_keep (s : State) (set : Nat) (elem : Nat) (idx : Nat) :
    (State.restoreCnt s set elem idx).pending = s.pending ∧ (State.restoreCnt s set elem idx).arc.mem = s.arc.mem := by unfold State.restoreCnt; simp
@[simp] theorem State_cntCorrected_keep (s : State) (p : Nat) (index : Nat) :
    (State.cntCorrected s p index).pending = s.pending ∧ (State.cntCorrected s p index).arc.mem = s.arc.mem := by unfold State.cntCorrected; simp
@[simp] theorem State_tallyCheck_keep (s : State) (p : Nat) :
    (State.tallyCheck s p).pending = s.pending ∧ (State.tallyCheck s p).arc.mem = s.arc.mem := by unfold State.tallyCheck; simp
@[simp] theorem State_cntCheck_keep (s : State) (set : Nat) (elem : Nat) (idx : Nat) :
    (State.cntCheck s set elem idx).pending = s.pending ∧ (State.cntCheck s set elem idx).arc.mem = s.arc.mem := by
  unfold State.cntCheck
  repeat' split
  all_goals simp
@[simp] theorem State_scanCheck_keep (s : State) (mask : Nat) :
    (State.scanCheck s mask).pending = s.pending ∧ (State.scanCheck s mask).arc.mem = s.arc.mem := by unfold State.scanCheck; simp
@[simp] theorem State_settleAt_keep (s : State) (rc : Nat) (t : Nat) :
    (State.settleAt s rc t).pending = s.pending ∧ (State.settleAt s rc t).arc.mem = s.arc.mem := by unfold State.settleAt; simp
@[simp] theorem State_settle_keep (s : State) :
    (State.settle s).pending = s.pending ∧ (State.settle s).arc.mem = s.arc.mem := by unfold State.settle; simp
@[simp] theorem State_snapFire_keep (s : State) (t : Nat) (late : Bool) (mask : Nat) :
    (State.snapFire s t late mask).pending = s.pending ∧ (State.snapFire s t late mask).arc.mem = s.arc.mem := by unfold State.snapFire; simp
@[simp] theorem State_dropScan_keep (s : State) :
    (State.dropScan s).pending = s.pending ∧ (State.dropScan s).arc.mem = s.arc.mem := by
  unfold State.dropScan
  dsimp only
  repeat' split
  all_goals simp
@[simp] theorem State_ringWrite_pending (s : State) (base : Nat) (size : Nat) (off : Nat) (bs : List Byte) : (State.ringWrite s base size off bs).pending = s.pending := by unfold State.ringWrite; simp
@[simp] theorem State_ringWrite_wf (s : State) (base : Nat) (size : Nat) (off : Nat) (bs : List Byte) (hw : Memory.wf s.arc.mem = true) :
    Memory.wf (State.ringWrite s base size off bs).arc.mem = true := by unfold State.ringWrite; simp [hw]
@[simp] theorem State_consReport_keep (s : State) (fails : List Nat) (seq : Nat) :
    (State.consReport s fails seq).pending = s.pending ∧ (State.consReport s fails seq).arc.mem = s.arc.mem := by
  unfold State.consReport
  dsimp only
  repeat' split
  all_goals simp
@[simp] theorem State_snapComplete_pending (s : State) (x : Scan) : (State.snapComplete s x).pending = s.pending := by unfold State.snapComplete; simp
@[simp] theorem State_snapComplete_wf (s : State) (x : Scan) (hw : Memory.wf s.arc.mem = true) :
    Memory.wf (State.snapComplete s x).arc.mem = true := by unfold State.snapComplete; simp [hw]
@[simp] theorem State_setEdState_keep (s : State) (slot : Bool) (v : Nat) :
    (State.setEdState s slot v).pending = s.pending ∧ (State.setEdState s slot v).arc.mem = s.arc.mem := by unfold State.setEdState; simp
@[simp] theorem State_edEvent_keep (s : State) (ty : Nat) (slot : Bool) (late : Bool) (w2 : Nat) (t : Nat) :
    (State.edEvent s ty slot late w2 t).pending = s.pending ∧ (State.edEvent s ty slot late w2 t).arc.mem = s.arc.mem := by unfold State.edEvent; simp
@[simp] theorem State_edSwitch_keep (s : State) (t : Nat) (late : Bool) :
    (State.edSwitch s t late).pending = s.pending ∧ (State.edSwitch s t late).arc.mem = s.arc.mem := by unfold State.edSwitch; simp
@[simp] theorem State_arm_keep (s : State) (tr : Trig) :
    (State.arm s tr).pending = s.pending ∧ (State.arm s tr).arc.mem = s.arc.mem := by unfold State.arm; simp
@[simp] theorem State_unarm_keep (s : State) (tr : Trig) :
    (State.unarm s tr).pending = s.pending ∧ (State.unarm s tr).arc.mem = s.arc.mem := by
  unfold State.unarm
  dsimp only
  repeat' split
  all_goals simp
@[simp] theorem State_cancelWith_keep (s : State) (tr : Trig) (status : Nat) :
    (State.cancelWith s tr status).pending = s.pending ∧ (State.cancelWith s tr status).arc.mem = s.arc.mem := by
  unfold State.cancelWith
  dsimp only
  repeat' split
  all_goals simp
@[simp] theorem State_cancelTrig_keep (s : State) (tr : Trig) :
    (State.cancelTrig s tr).pending = s.pending ∧ (State.cancelTrig s tr).arc.mem = s.arc.mem := by unfold State.cancelTrig; simp
@[simp] theorem State_cancelKind_keep (s : State) (k : TrigKind) :
    (State.cancelKind s k).pending = s.pending ∧ (State.cancelKind s k).arc.mem = s.arc.mem := by unfold State.cancelKind; simp
@[simp] theorem State_cancelImm_keep (s : State) :
    (State.cancelImm s).pending = s.pending ∧ (State.cancelImm s).arc.mem = s.arc.mem := by
  unfold State.cancelImm
  dsimp only
  repeat' split
  all_goals simp
@[simp] theorem State_ppsOutCut_keep (s : State) :
    (State.ppsOutCut s).pending = s.pending ∧ (State.ppsOutCut s).arc.mem = s.arc.mem := by unfold State.ppsOutCut; simp
@[simp] theorem State_unsetEntry_keep (s : State) :
    (State.unsetEntry s).pending = s.pending ∧ (State.unsetEntry s).arc.mem = s.arc.mem := by unfold State.unsetEntry; simp
@[simp] theorem State_setLive_keep (s : State) (f : TackField) :
    (State.setLive s f).pending = s.pending ∧ (State.setLive s f).arc.mem = s.arc.mem := by unfold State.setLive; simp
@[simp] theorem State_tackLoad_keep (s : State) (tr : Trig) :
    (State.tackLoad s tr).pending = s.pending ∧ (State.tackLoad s tr).arc.mem = s.arc.mem := by unfold State.tackLoad; simp
@[simp] theorem State_ageWritten_keep (s : State) (p : Nat) :
    (State.ageWritten s p).pending = s.pending ∧ (State.ageWritten s p).arc.mem = s.arc.mem := by unfold State.ageWritten; simp
@[simp] theorem State_tackApply_keep (s : State) :
    (State.tackApply s).pending = s.pending ∧ (State.tackApply s).arc.mem = s.arc.mem := by
  unfold State.tackApply
  extract_lets n fs s0 s1 s2 s3
  have h0 : s0.pending = s.pending ∧ s0.arc.mem = s.arc.mem := by
    simp only [s0]
    split <;> simp
  clear_value s0
  have h1 : s1.pending = s.pending ∧ s1.arc.mem = s.arc.mem := by
    have h : s1.pending = s0.pending ∧ s1.arc.mem = s0.arc.mem := keep_foldl _ _ _ (by intros; simp)
    exact ⟨h.1.trans h0.1, h.2.trans h0.2⟩
  clear_value s1
  have h2 : s2.pending = s.pending ∧ s2.arc.mem = s.arc.mem := by
    have h : s2.pending = s1.pending ∧ s2.arc.mem = s1.arc.mem := keep_foldl _ _ _ (by intros; split <;> simp)
    exact ⟨h.1.trans h1.1, h.2.trans h1.2⟩
  clear_value s2
  have h3 : s3.pending = s.pending ∧ s3.arc.mem = s.arc.mem := by
    have h : s3.pending = s2.pending ∧ s3.arc.mem = s2.arc.mem := keep_foldl _ _ _ (by intros; split <;> simp)
    exact ⟨h.1.trans h2.1, h.2.trans h2.2⟩
  clear_value s3
  simp [h3]
@[simp] theorem State_gpioPulse_keep (s : State) (i : Nat) :
    (State.gpioPulse s i).pending = s.pending ∧ (State.gpioPulse s i).arc.mem = s.arc.mem := by unfold State.gpioPulse; simp
@[simp] theorem State_trigAct_keep (s : State) (tr : Trig) (late : Bool) :
    (State.trigAct s tr late).pending = s.pending ∧ (State.trigAct s tr late).arc.mem = s.arc.mem := by
  unfold State.trigAct
  repeat' split
  all_goals simp
@[simp] theorem State_fireAt_keep (s : State) (tr : Trig) (late : Bool) (skip : Nat) (next : Option Nat) :
    (State.fireAt s tr late skip next).pending = s.pending ∧ (State.fireAt s tr late skip next).arc.mem = s.arc.mem := by
  unfold State.fireAt
  dsimp only
  repeat' split
  all_goals simp
@[simp] theorem State_fire_keep (s : State) (tr : Trig) (late : Bool) (skip : Nat) (next : Option Nat) :
    (State.fire s tr late skip next).pending = s.pending ∧ (State.fire s tr late skip next).arc.mem = s.arc.mem := by unfold State.fire; simp
@[simp] theorem State_fireImm_keep (s : State) (late : Bool) :
    (State.fireImm s late).pending = s.pending ∧ (State.fireImm s late).arc.mem = s.arc.mem := by
  unfold State.fireImm
  dsimp only
  repeat' split
  all_goals simp
@[simp] theorem State_passOver_keep (s : State) (from_ : Nat) (e : Nat) :
    (State.passOver s from_ e).pending = s.pending ∧ (State.passOver s from_ e).arc.mem = s.arc.mem := by
  unfold State.passOver
  dsimp only
  repeat' split
  all_goals simp
@[simp] theorem State_toLocked_keep (s : State) :
    (State.toLocked s).pending = s.pending ∧ (State.toLocked s).arc.mem = s.arc.mem := by unfold State.toLocked; simp
@[simp] theorem State_toHoldover_keep (s : State) :
    (State.toHoldover s).pending = s.pending ∧ (State.toHoldover s).arc.mem = s.arc.mem := by unfold State.toHoldover; simp
@[simp] theorem State_lockCheck_keep (s : State) :
    (State.lockCheck s).pending = s.pending ∧ (State.lockCheck s).arc.mem = s.arc.mem := by
  unfold State.lockCheck
  dsimp only
  repeat' split
  all_goals simp
@[simp] theorem State_request_keep (s : State) (c : Change) :
    (State.request s c).pending = s.pending ∧ (State.request s c).arc.mem = s.arc.mem := by unfold State.request; simp
@[simp] theorem State_ctrlRequest_keep (s : State) (bit : Nat) :
    (State.ctrlRequest s bit).1.pending = s.pending ∧ (State.ctrlRequest s bit).1.arc.mem = s.arc.mem := by
  unfold State.ctrlRequest
  repeat' split
  all_goals simp
@[simp] theorem State_ctrlWrite_keep (s : State) (data : Nat) :
    (State.ctrlWrite s data).1.pending = s.pending ∧ (State.ctrlWrite s data).1.arc.mem = s.arc.mem := by
  unfold State.ctrlWrite
  dsimp only
  repeat' split
  all_goals simp
@[simp] theorem State_stepped_keep (s : State) :
    (State.stepped s).pending = s.pending ∧ (State.stepped s).arc.mem = s.arc.mem := by unfold State.stepped; simp
@[simp] theorem State_movedBack_keep (s : State) :
    (State.movedBack s).pending = s.pending ∧ (State.movedBack s).arc.mem = s.arc.mem := by unfold State.movedBack; simp
@[simp] theorem State_moveTime_keep (s : State) (at_ : Nat) (d : Int) :
    (State.moveTime s at_ d).pending = s.pending ∧ (State.moveTime s at_ d).arc.mem = s.arc.mem := by unfold State.moveTime; simp
@[simp] theorem State_ppsReject_keep (s : State) (e : PpsEdge) :
    (State.ppsReject s e).pending = s.pending ∧ (State.ppsReject s e).arc.mem = s.arc.mem := by unfold State.ppsReject; simp
@[simp] theorem State_ppsSet_keep (s : State) (e : PpsEdge) :
    (State.ppsSet s e).pending = s.pending ∧ (State.ppsSet s e).arc.mem = s.arc.mem := by
  unfold State.ppsSet
  dsimp only
  repeat' split
  all_goals simp
@[simp] theorem State_todMatch_keep (s : State) (e : PpsEdge) :
    (State.todMatch s e).pending = s.pending ∧ (State.todMatch s e).arc.mem = s.arc.mem := by
  unfold State.todMatch
  dsimp only
  repeat' split
  all_goals simp
@[simp] theorem State_ppsCapture_keep (s : State) (t : Nat) :
    (State.ppsCapture s t).pending = s.pending ∧ (State.ppsCapture s t).arc.mem = s.arc.mem := by unfold State.ppsCapture; simp
@[simp] theorem State_ppsNote_keep (s : State) (e : PpsEdge) :
    (State.ppsNote s e).pending = s.pending ∧ (State.ppsNote s e).arc.mem = s.arc.mem := by unfold State.ppsNote; simp
@[simp] theorem State_ppsAccept_keep (s : State) (e : PpsEdge) :
    (State.ppsAccept s e).pending = s.pending ∧ (State.ppsAccept s e).arc.mem = s.arc.mem := by unfold State.ppsAccept; simp
@[simp] theorem State_todBad_keep (s : State) :
    (State.todBad s).pending = s.pending ∧ (State.todBad s).arc.mem = s.arc.mem := by unfold State.todBad; simp
@[simp] theorem State_calStart_keep (s : State) (p : Nat) :
    (State.calStart s p).pending = s.pending ∧ (State.calStart s p).arc.mem = s.arc.mem := by unfold State.calStart; simp
@[simp] theorem State_calAll_keep (s : State) :
    (State.calAll s).pending = s.pending ∧ (State.calAll s).arc.mem = s.arc.mem := by unfold State.calAll; simp
@[simp] theorem State_regArm_keep (s : State) (k : Nat) :
    (State.regArm s k).pending = s.pending ∧ (State.regArm s k).arc.mem = s.arc.mem := by
  unfold State.regArm
  dsimp only
  repeat' split
  all_goals simp
@[simp] theorem State_trigCtrl_keep (s : State) (k : Nat) (arm : Bool) :
    (State.trigCtrl s k arm).pending = s.pending ∧ (State.trigCtrl s k arm).arc.mem = s.arc.mem := by
  unfold State.trigCtrl
  repeat' split
  all_goals simp
@[simp] theorem State_refreshDue_keep (s : State) (u : Nat) :
    (State.refreshDue s u).pending = s.pending ∧ (State.refreshDue s u).arc.mem = s.arc.mem := by unfold State.refreshDue; simp
@[simp] theorem State_dramCommand_pending (s : State) (u : Nat) (x : (Nat × Nat) × DramReq) : (State.dramCommand s u x).pending = s.pending := by unfold State.dramCommand; simp
@[simp] theorem State_dramCommand_wf (s : State) (u : Nat) (x : (Nat × Nat) × DramReq) (hw : Memory.wf s.arc.mem = true) :
    Memory.wf (State.dramCommand s u x).arc.mem = true := by
  unfold State.dramCommand
  dsimp only
  repeat' split
  all_goals simp [hw]
@[simp] theorem State_dramEnable_keep (s : State) (on : Bool) :
    (State.dramEnable s on).pending = s.pending ∧ (State.dramEnable s on).arc.mem = s.arc.mem := by unfold State.dramEnable; simp
@[simp] theorem State_pauseSub_keep (s : State) (u : Nat) (t : Nat) :
    (State.pauseSub s u t).pending = s.pending ∧ (State.pauseSub s u t).arc.mem = s.arc.mem := by unfold State.pauseSub; simp
@[simp] theorem State_runTaken_keep (s : State) (j : Job) (u : Nat) :
    (State.runTaken s j u).pending = s.pending ∧ (State.runTaken s j u).arc.mem = s.arc.mem := by unfold State.runTaken; simp
@[simp] theorem State_retrain_keep (s : State) (u : Nat) (moved : Bool) :
    (State.retrain s u moved).pending = s.pending ∧ (State.retrain s u moved).arc.mem = s.arc.mem := by unfold State.retrain; simp
@[simp] theorem State_kstUse_keep (s : State) (i : Nat) (up : Bool) :
    (State.kstUse s i up).pending = s.pending ∧ (State.kstUse s i up).arc.mem = s.arc.mem := by unfold State.kstUse; simp
@[simp] theorem State_kstSet_keep (s : State) (i : Nat) (origin : Nat) (e : List Word) :
    (State.kstSet s i origin e).pending = s.pending ∧ (State.kstSet s i origin e).arc.mem = s.arc.mem := by
  unfold State.kstSet
  dsimp only
  repeat' split
  all_goals simp
@[simp] theorem State_bridgeSet_keep (s : State) (p : Nat) (i : Nat) (origin : Nat) (e : List Word) :
    (State.bridgeSet s p i origin e).pending = s.pending ∧ (State.bridgeSet s p i origin e).arc.mem = s.arc.mem := by unfold State.bridgeSet; simp
@[simp] theorem State_nodeSet_keep (s : State) (t : Nat) (p : Nat) (i : Nat) (origin : Nat) (e : List Word) :
    (State.nodeSet s t p i origin e).pending = s.pending ∧ (State.nodeSet s t p i origin e).arc.mem = s.arc.mem := by unfold State.nodeSet; simp
@[simp] theorem State_putEntry_keep (s : State) (t : Nat) (p : Nat) (i : Nat) (origin : Nat) (e : List Word) :
    (State.putEntry s t p i origin e).pending = s.pending ∧ (State.putEntry s t p i origin e).arc.mem = s.arc.mem := by
  unfold State.putEntry
  dsimp only
  repeat' split
  all_goals simp
@[simp] theorem State_pfxUse_keep (s : State) (e : List Word) (up : Bool) :
    (State.pfxUse s e up).pending = s.pending ∧ (State.pfxUse s e up).arc.mem = s.arc.mem := by unfold State.pfxUse; simp
@[simp] theorem State_pfxWrite_keep (s : State) (e : List Word) (origin : Nat) :
    (State.pfxWrite s e origin).1.pending = s.pending ∧ (State.pfxWrite s e origin).1.arc.mem = s.arc.mem := by
  unfold State.pfxWrite
  dsimp only
  repeat' split
  all_goals simp
@[simp] theorem State_pfxDelete_keep (s : State) (e : List Word) (origin : Nat) :
    (State.pfxDelete s e origin).1.pending = s.pending ∧ (State.pfxDelete s e origin).1.arc.mem = s.arc.mem := by
  unfold State.pfxDelete
  repeat' split
  all_goals simp
@[simp] theorem State_entryWrite_keep (s : State) (gate : Bool) (t : Nat) (p : Nat) (i : Nat) (origin : Nat) (e : List Word) :
    (State.entryWrite s gate t p i origin e).1.pending = s.pending ∧ (State.entryWrite s gate t p i origin e).1.arc.mem = s.arc.mem := by unfold State.entryWrite; simp
@[simp] theorem State_entryDelete_keep (s : State) (t : Nat) (p : Nat) (i : Nat) (origin : Nat) (e : List Word) :
    (State.entryDelete s t p i origin e).1.pending = s.pending ∧ (State.entryDelete s t p i origin e).1.arc.mem = s.arc.mem := by unfold State.entryDelete; simp
@[simp] theorem State_hashInsert_keep (s : State) (t : Nat) (p : Nat) (origin : Nat) (replace : Bool) (e : List Word) :
    (State.hashInsert s t p origin replace e).1.pending = s.pending ∧ (State.hashInsert s t p origin replace e).1.arc.mem = s.arc.mem := by
  unfold State.hashInsert
  dsimp only
  repeat' split
  all_goals simp
@[simp] theorem State_hashDelete_keep (s : State) (t : Nat) (p : Nat) (origin : Nat) (e : List Word) :
    (State.hashDelete s t p origin e).1.pending = s.pending ∧ (State.hashDelete s t p origin e).1.arc.mem = s.arc.mem := by
  unfold State.hashDelete
  repeat' split
  all_goals simp
@[simp] theorem State_entReport_keep (s : State) (t : Nat) (p : Nat) (rep : Nat) (i : Nat) :
    (State.entReport s t p rep i).pending = s.pending ∧ (State.entReport s t p rep i).arc.mem = s.arc.mem := by unfold State.entReport; simp
@[simp] theorem State_entCorrect_keep (s : State) (t : Nat) (p : Nat) (i : Nat) :
    (State.entCorrect s t p i).pending = s.pending ∧ (State.entCorrect s t p i).arc.mem = s.arc.mem := by unfold State.entCorrect; simp
@[simp] theorem State_emit_keep (s : State) (h : HostId) (o : PcieOut) :
    (State.emit s h o).pending = s.pending ∧ (State.emit s h o).arc.mem = s.arc.mem := by unfold State.emit; simp
@[simp] theorem State_hostWrite_keep (s : State) (h : HostId) (a : Nat) (bs : List Byte) :
    (State.hostWrite s h a bs).pending = s.pending ∧ (State.hostWrite s h a bs).arc.mem = s.arc.mem := by unfold State.hostWrite; simp
@[simp] theorem State_hostRead_keep (s : State) (h : HostId) (a : Nat) (n : Nat) :
    (State.hostRead s h a n).pending = s.pending ∧ (State.hostRead s h a n).arc.mem = s.arc.mem := by unfold State.hostRead; simp
@[simp] theorem State_ringRead_keep (s : State) (h : HostId) (c : Nat) (first : Nat) (n : Nat) (size : Nat) :
    (State.ringRead s h c first n size).pending = s.pending ∧ (State.ringRead s h c first n size).arc.mem = s.arc.mem := by unfold State.ringRead; simp
@[simp] theorem State_msiNow_keep (s : State) (h : HostId) (v : Nat) :
    (State.msiNow s h v).pending = s.pending ∧ (State.msiNow s h v).arc.mem = s.arc.mem := by unfold State.msiNow; simp
@[simp] theorem State_interrupt_keep (s : State) (h : HostId) (v : Nat) :
    (State.interrupt s h v).pending = s.pending ∧ (State.interrupt s h v).arc.mem = s.arc.mem := by unfold State.interrupt; simp
@[simp] theorem State_msixWrite_keep (s : State) (h : HostId) (i : Nat) (w : Word) :
    (State.msixWrite s h i w).pending = s.pending ∧ (State.msixWrite s h i w).arc.mem = s.arc.mem := by unfold State.msixWrite; simp
@[simp] theorem State_setChanSt_keep (s : State) (c : Nat) (x : ChanSt) :
    (State.setChanSt s c x).pending = s.pending ∧ (State.setChanSt s c x).arc.mem = s.arc.mem := by unfold State.setChanSt; simp
@[simp] theorem State_chanInt_keep (s : State) (h : HostId) (c : Nat) :
    (State.chanInt s h c).pending = s.pending ∧ (State.chanInt s h c).arc.mem = s.arc.mem := by unfold State.chanInt; simp
@[simp] theorem State_intCheck_keep (s : State) (h : HostId) (c : Nat) :
    (State.intCheck s h c).pending = s.pending ∧ (State.intCheck s h c).arc.mem = s.arc.mem := by unfold State.intCheck; simp
@[simp] theorem State_wrote_keep (s : State) (h : HostId) (c : Nat) (n : Nat) :
    (State.wrote s h c n).pending = s.pending ∧ (State.wrote s h c n).arc.mem = s.arc.mem := by unfold State.wrote; simp
@[simp] theorem State_writeBack_keep (s : State) (h : HostId) (c : Nat) :
    (State.writeBack s h c).pending = s.pending ∧ (State.writeBack s h c).arc.mem = s.arc.mem := by unfold State.writeBack; simp
@[simp] theorem State_advance_keep (s : State) (h : HostId) (c : Nat) (n : Nat) :
    (State.advance s h c n).pending = s.pending ∧ (State.advance s h c n).arc.mem = s.arc.mem := by unfold State.advance; simp
@[simp] theorem State_ringPut_keep (s : State) (h : HostId) (l : Nat) (entries : List (List Word)) :
    (State.ringPut s h l entries).pending = s.pending ∧ (State.ringPut s h l entries).arc.mem = s.arc.mem := by unfold State.ringPut; simp
@[simp] theorem State_idle_keep (s : State) :
    (State.idle s).pending = s.pending ∧ (State.idle s).arc.mem = s.arc.mem := by unfold State.idle; simp
@[simp] theorem State_stepWaits_keep (s : State) :
    (State.stepWaits s).pending = s.pending ∧ (State.stepWaits s).arc.mem = s.arc.mem := by unfold State.stepWaits; simp
@[simp] theorem State_sweepEntry_keep (hits : List Nat) (p : Nat) (x : State × Nat) (i : Nat) :
    (State.sweepEntry hits p x i).1.pending = x.1.pending ∧ (State.sweepEntry hits p x i).1.arc.mem = x.1.arc.mem := by unfold State.sweepEntry; simp
theorem chunkRun_keep (need : State → Nat → Nat) (f : State × Nat → Nat → State × Nat) (l : List Nat) (x : State × Nat)
    (h : ∀ x i, (f x i).1.pending = x.1.pending ∧ (f x i).1.arc.mem = x.1.arc.mem) :
    (chunkRun need f l x).1.1.pending = x.1.pending ∧ (chunkRun need f l x).1.1.arc.mem = x.1.arc.mem := by
  induction l generalizing x with
  | nil => exact ⟨rfl, rfl⟩
  | cons i l ih =>
    unfold chunkRun
    split
    · exact ⟨rfl, rfl⟩
    · exact ⟨(ih _).1.trans (h x i).1, (ih _).2.trans (h x i).2⟩
@[simp] theorem State_sweepChunk_keep (s : State) (p start next acc : Nat) (hits : List Nat) (most : Nat) :
    (s.sweepChunk p start next acc hits most).1.1.pending = s.pending ∧ (s.sweepChunk p start next acc hits most).1.1.arc.mem = s.arc.mem :=
  chunkRun_keep _ _ _ _ (by intro x i; simp)
@[simp] theorem State_ageStart_keep (s : State) (p : Nat) :
    (State.ageStart s p).pending = s.pending ∧ (State.ageStart s p).arc.mem = s.arc.mem := by unfold State.ageStart; simp
@[simp] theorem State_ageEnd_keep (s : State) (p : Nat) :
    (State.ageEnd s p).pending = s.pending ∧ (State.ageEnd s p).arc.mem = s.arc.mem := by unfold State.ageEnd; simp
@[simp] theorem State_mirDrop_keep (s : State) (h : HostId) :
    (State.mirDrop s h).pending = s.pending ∧ (State.mirDrop s h).arc.mem = s.arc.mem := by unfold State.mirDrop; simp
@[simp] theorem State_mirStart_keep (s : State) (h : HostId) :
    (State.mirStart s h).pending = s.pending ∧ (State.mirStart s h).arc.mem = s.arc.mem := by unfold State.mirStart; simp
@[simp] theorem State_mirEnable_keep (s : State) (h : HostId) (on_ : Bool) :
    (State.mirEnable s h on_).pending = s.pending ∧ (State.mirEnable s h on_).arc.mem = s.arc.mem := by unfold State.mirEnable; simp
@[simp] theorem State_pushDir_keep (s : State) (h : HostId) :
    (State.pushDir s h).pending = s.pending ∧ (State.pushDir s h).arc.mem = s.arc.mem := by unfold State.pushDir; simp
@[simp] theorem State_resyncPush_keep (s : State) (h : HostId) (k : Nat) :
    (State.resyncPush s h k).pending = s.pending ∧ (State.resyncPush s h k).arc.mem = s.arc.mem := by
  unfold State.resyncPush
  repeat' split
  all_goals simp
@[simp] theorem State_resyncRun_keep (h : HostId) (q0 : List Nat) (q1 : State) :
    (State.resyncRun h q0 q1).1.pending = q1.pending ∧ (State.resyncRun h q0 q1).1.arc.mem = q1.arc.mem := by
  induction q0 generalizing q1 with
  | nil => exact ⟨rfl, rfl⟩
  | cons k l ih => unfold State.resyncRun; split <;> simp [ih]
@[simp] theorem State_resyncOver_keep (s : State) (h : HostId) :
    (State.resyncOver s h).pending = s.pending ∧ (State.resyncOver s h).arc.mem = s.arc.mem := by unfold State.resyncOver; simp
@[simp] theorem State_resyncJob_keep (s : State) (h : HostId) (most : Nat) :
    (State.resyncJob s h most).pending = s.pending ∧ (State.resyncJob s h most).arc.mem = s.arc.mem := by
  unfold State.resyncJob
  split
  · simp
  · dsimp only
    split
    · simp
    · split <;> (repeat' split) <;> simp [ite_pend, ite_arc, ite_mem]
@[simp] theorem State_repairLost_keep (s : State) (r : Repair) :
    (State.repairLost s r).pending = s.pending ∧ (State.repairLost s r).arc.mem = s.arc.mem := by unfold State.repairLost; simp
@[simp] theorem State_repairEntry_keep (s : State) (r : Repair) :
    (State.repairEntry s r).pending = s.pending ∧ (State.repairEntry s r).arc.mem = s.arc.mem := by
  unfold State.repairEntry
  dsimp only
  repeat' split
  all_goals simp
@[simp] theorem State_openFences_keep (s : State) (tag : Nat) :
    (State.openFences s tag).pending = s.pending ∧ (State.openFences s tag).arc.mem = s.arc.mem := by
  unfold State.openFences
  dsimp only
  repeat' split
  all_goals simp
@[simp] theorem State_scrubRdr_keep (s : State) (p : Nat) (ck : Nat) (t : Nat) (n : Nat) (x : Nat × Nat) :
    (State.scrubRdr s p ck t n x).pending = s.pending ∧ (State.scrubRdr s p ck t n x).arc.mem = s.arc.mem := by unfold State.scrubRdr; simp
@[simp] theorem State_scrubCat_keep (s : State) (p : Nat) (eg : Bool) (kind : Nat) (ck : Nat) (x : Nat × Nat) :
    (State.scrubCat s p eg kind ck x).pending = s.pending ∧ (State.scrubCat s p eg kind ck x).arc.mem = s.arc.mem := by unfold State.scrubCat; simp
@[simp] theorem State_scrubFar_keep (s : State) (p : Nat) (t : Nat) (ck : Nat) (key : Nat) (base : Nat) (x : Nat × Nat) :
    (State.scrubFar s p t ck key base x).pending = s.pending ∧ (State.scrubFar s p t ck key base x).arc.mem = s.arc.mem := by unfold State.scrubFar; simp
@[simp] theorem State_scrubOvf_keep (s : State) (unit : Nat) (i : Nat) :
    (State.scrubOvf s unit i).pending = s.pending ∧ (State.scrubOvf s unit i).arc.mem = s.arc.mem := by unfold State.scrubOvf; simp
@[simp] theorem State_scrubOvfAll_keep (s : State) (unit : Nat) :
    (State.scrubOvfAll s unit).pending = s.pending ∧ (State.scrubOvfAll s unit).arc.mem = s.arc.mem := by unfold State.scrubOvfAll; simp
@[simp] theorem State_scrubBuckets_keep (s : State) (unit : Nat) :
    (State.scrubBuckets s unit).pending = s.pending ∧ (State.scrubBuckets s unit).arc.mem = s.arc.mem := by unfold State.scrubBuckets; simp
@[simp] theorem State_reject_keep (s : State) (m : Master) (c : Cause) (off : Nat) (data : Word) :
    (State.reject s m c off data).pending = s.pending ∧ (State.reject s m c off data).arc.mem = s.arc.mem := by unfold State.reject; simp
@[simp] theorem State_setOwner_keep (s : State) (d : Nat) (o : Nat) :
    (State.setOwner s d o).pending = s.pending ∧ (State.setOwner s d o).arc.mem = s.arc.mem := by unfold State.setOwner; simp
@[simp] theorem State_cas_keep (s : State) (m : Master) (d : Nat) (expect : Nat) (new : Nat) (force : Bool) :
    (State.cas s m d expect new force).1.pending = s.pending ∧ (State.cas s m d expect new force).1.arc.mem = s.arc.mem := by unfold State.cas; simp
@[simp] theorem State_sbLines_keep (s : State) (was : Bool) :
    (State.sbLines s was).pending = s.pending ∧ (State.sbLines s was).arc.mem = s.arc.mem := by unfold State.sbLines; simp
@[simp] theorem State_sbSet_keep (s : State) (f : Fld) :
    (State.sbSet s f).pending = s.pending ∧ (State.sbSet s f).arc.mem = s.arc.mem := by unfold State.sbSet; simp
@[simp] theorem State_chanStart_keep (s : State) (c : Nat) :
    (State.chanStart s c).pending = s.pending ∧ (State.chanStart s c).arc.mem = s.arc.mem := by unfold State.chanStart; simp
@[simp] theorem State_expReset_keep (s : State) (k : Nat) :
    (State.expReset s k).pending = s.pending ∧ (State.expReset s k).arc.mem = s.arc.mem := by unfold State.expReset; simp
@[simp] theorem State_chanLeaves_keep (s : State) (h : HostId) (l : Nat) :
    (State.chanLeaves s h l).pending = s.pending ∧ (State.chanLeaves s h l).arc.mem = s.arc.mem := by unfold State.chanLeaves; simp
@[simp] theorem State_chanStop_keep (s : State) (c : Nat) :
    (State.chanStop s c).pending = s.pending ∧ (State.chanStop s c).arc.mem = s.arc.mem := by unfold State.chanStop; simp
@[simp] theorem State_setPosted_keep (s : State) (h : HostId) (k : Nat) (l : List Nat) :
    (State.setPosted s h k l).pending = s.pending ∧ (State.setPosted s h k l).arc.mem = s.arc.mem := by unfold State.setPosted; simp
@[simp] theorem State_poolDrain_keep (s : State) (h : HostId) (k : Nat) :
    (State.poolDrain s h k).pending = s.pending ∧ (State.poolDrain s h k).arc.mem = s.arc.mem := by unfold State.poolDrain; simp
@[simp] theorem State_disown_keep (s : State) (o : Nat) :
    (State.disown s o).pending = s.pending ∧ (State.disown s o).arc.mem = s.arc.mem := by unfold State.disown; simp
@[simp] theorem State_voidRing_keep (s : State) (src : CmdSrc) :
    (State.voidRing s src).pending = s.pending ∧ (State.voidRing s src).arc.mem = s.arc.mem := by unfold State.voidRing; simp
@[simp] theorem State_hostLost_keep (s : State) (h : HostId) :
    (State.hostLost s h).pending = s.pending ∧ (State.hostLost s h).arc.mem = s.arc.mem := by unfold State.hostLost; simp
@[simp] theorem State_lossShown_pending (s : State) (h : HostId) (w : HostLoss) : (State.lossShown s h w).pending = s.pending := by
  unfold State.lossShown
  repeat' split
  all_goals simp
@[simp] theorem State_lossShown_wf (s : State) (h : HostId) (w : HostLoss) (hw : Memory.wf s.arc.mem = true) :
    Memory.wf (State.lossShown s h w).arc.mem = true := by
  unfold State.lossShown
  repeat' split
  all_goals simp [hw]
@[simp] theorem State_doorbellBad_keep (s : State) (h : HostId) (c : Nat) (v : Word) :
    (State.doorbellBad s h c v).pending = s.pending ∧ (State.doorbellBad s h c v).arc.mem = s.arc.mem := by unfold State.doorbellBad; simp
@[simp] theorem State_doorbellWrite_keep (s : State) (h : HostId) (c : Nat) (v : Word) :
    (State.doorbellWrite s h c v).pending = s.pending ∧ (State.doorbellWrite s h c v).arc.mem = s.arc.mem := by unfold State.doorbellWrite; simp
@[simp] theorem State_turnTaken_keep (s : State) (c : Nat) :
    (State.turnTaken s c).pending = s.pending ∧ (State.turnTaken s c).arc.mem = s.arc.mem := by unfold State.turnTaken; simp
@[simp] theorem State_unit_pending (s : State) (c : Nat) (f : State → State) (h : ∀ u, (f u).pending = u.pending) : (s.unit c f).pending = s.pending := by
  unfold State.unit
  split <;> simp [h]
theorem State_unit_keep (s : State) (c : Nat) (f : State → State) (h : ∀ u, (f u).pending = u.pending ∧ (f u).arc.mem = u.arc.mem) :
    (s.unit c f).pending = s.pending ∧ (s.unit c f).arc.mem = s.arc.mem := by
  unfold State.unit
  split <;> simp [h]
@[simp] theorem State_unit_wf (s : State) (c : Nat) (f : State → State) (h : ∀ u, Memory.wf u.arc.mem = true → Memory.wf (f u).arc.mem = true)
    (hw : Memory.wf s.arc.mem = true) : Memory.wf (s.unit c f).arc.mem = true := by
  unfold State.unit
  split <;> simp [h, hw]
theorem State_unit_keeps (s : State) (c : Nat) (f : State → State) (h : ∀ u, Keeps u (f u)) : Keeps s (s.unit c f) :=
  ⟨State_unit_pending _ _ _ (fun u => (h u).1), fun hw => State_unit_wf _ _ _ (fun u hu => (h u).2 hu) hw⟩
@[simp] theorem State_hostTake_keep (s : State) (x : Slip) (st : Stall) (q : Nat) :
    (State.hostTake s x st q).pending = s.pending ∧ (State.hostTake s x st q).arc.mem = s.arc.mem := by unfold State.hostTake; simp
@[simp] theorem State_puntMoved_keep (s : State) (h : HostId) (cls : Nat) :
    (State.puntMoved s h cls).pending = s.pending ∧ (State.puntMoved s h cls).arc.mem = s.arc.mem := by unfold State.puntMoved; simp
@[simp] theorem State_puntTo_keep (s : State) (h : HostId) (q : Nat) (k : Nat) (fallback : Bool) (trunc : Bool) (x : Slip) (st : Stall) :
    (State.puntTo s h q k fallback trunc x st).pending = s.pending ∧ (State.puntTo s h q k fallback trunc x st).arc.mem = s.arc.mem := by
  unfold State.puntTo
  dsimp only
  repeat' split
  all_goals simp
@[simp] theorem State_puntWait_keep (s : State) (h : HostId) (cls : Nat) :
    (State.puntWait s h cls).pending = s.pending ∧ (State.puntWait s h cls).arc.mem = s.arc.mem := by unfold State.puntWait; simp
@[simp] theorem State_puntHead_pending (s : State) (h : HostId) (cls : Nat) : (State.puntHead s h cls).1.pending = s.pending := by
  unfold State.puntHead
  dsimp only
  repeat' split
  all_goals simp
@[simp] theorem State_puntHead_wf (s : State) (h : HostId) (cls : Nat) (hw : Memory.wf s.arc.mem = true) :
    Memory.wf (State.puntHead s h cls).1.arc.mem = true := by
  unfold State.puntHead
  dsimp only
  repeat' split
  all_goals first
    | exact hw
    | (dsimp only
       refine State_unit_wf _ _ _ (fun u hu => ?_) hw
       split <;> simp [hu])
    | (repeat' split
       all_goals simp [hw])
    | simp [hw]
@[simp] theorem State_puntServe_pending (s : State) (h : HostId) (q0 : List Nat) : (State.puntServe s h q0).pending = s.pending := by
  induction q0 generalizing s with
  | nil => rfl
  | cons c t ih =>
    unfold State.puntServe
    dsimp only
    repeat' split
    all_goals simp [ih]
@[simp] theorem State_puntServe_wf (s : State) (h : HostId) (q0 : List Nat) (hw : Memory.wf s.arc.mem = true) :
    Memory.wf (State.puntServe s h q0).arc.mem = true := by
  induction q0 generalizing s with
  | nil => exact hw
  | cons c t ih =>
    unfold State.puntServe
    dsimp only
    repeat' split
    all_goals first
      | exact hw
      | simp [hw]
      | (apply ih; simp [hw])
@[simp] theorem State_captureHead_pending (s : State) (cls : Nat) : (State.captureHead s cls).1.pending = s.pending := by
  unfold State.captureHead
  dsimp only
  repeat' split
  all_goals simp
@[simp] theorem State_captureHead_wf (s : State) (cls : Nat) (hw : Memory.wf s.arc.mem = true) :
    Memory.wf (State.captureHead s cls).1.arc.mem = true := by
  unfold State.captureHead
  dsimp only
  repeat' split
  all_goals simp [hw]
@[simp] theorem State_captureServe_pending (s : State) (q0 : List Nat) : (State.captureServe s q0).pending = s.pending := by
  induction q0 generalizing s with
  | nil => rfl
  | cons c t ih => unfold State.captureServe; dsimp only; split <;> simp [ih]
@[simp] theorem State_captureServe_wf (s : State) (q0 : List Nat) (hw : Memory.wf s.arc.mem = true) :
    Memory.wf (State.captureServe s q0).arc.mem = true := by
  induction q0 generalizing s with
  | nil => exact hw
  | cons c t ih => unfold State.captureServe; dsimp only; split <;> simp [ih, hw]
@[simp] theorem State_fenceReturn_pending (s : State) (h : HostId) (j : Nat) (d : List Word) (p : Nat) (bytes : List Byte) : (State.fenceReturn s h j d p bytes).pending = s.pending := by unfold State.fenceReturn; simp
@[simp] theorem State_fenceReturn_wf (s : State) (h : HostId) (j : Nat) (d : List Word) (p : Nat) (bytes : List Byte) (hw : Memory.wf s.arc.mem = true) :
    Memory.wf (State.fenceReturn s h j d p bytes).arc.mem = true := by
  unfold State.fenceReturn
  dsimp only
  repeat' split
  all_goals simp [hw]
@[simp] theorem State_injectGo_pending (s : State) (h : HostId) (j : Nat) (d : List Word) (p : Nat) (bytes : List Byte) : (State.injectGo s h j d p bytes).pending = s.pending := by unfold State.injectGo; simp
@[simp] theorem State_injectGo_wf (s : State) (h : HostId) (j : Nat) (d : List Word) (p : Nat) (bytes : List Byte) (hw : Memory.wf s.arc.mem = true) :
    Memory.wf (State.injectGo s h j d p bytes).arc.mem = true := by
  unfold State.injectGo
  dsimp only
  repeat' split
  all_goals simp [hw]
@[simp] theorem State_post_keep (s : State) (h : HostId) (e : Nat) :
    (State.post s h e).pending = s.pending ∧ (State.post s h e).arc.mem = s.arc.mem := by unfold State.post; simp
@[simp] theorem State_expFree_keep (s : State) (stream : Nat) :
    (State.expFree s stream).pending = s.pending ∧ (State.expFree s stream).arc.mem = s.arc.mem := by
  unfold State.expFree
  dsimp only
  repeat' split
  all_goals simp
@[simp] theorem State_expRead_pending (s : State) (got : Option (List (Nat × Nat × List Byte))) (x : ExpRec) (pos : Nat) (n : Nat) : (State.expRead s got x pos n).1.pending = s.pending := by
  unfold State.expRead
  dsimp only
  repeat' split
  all_goals simp
@[simp] theorem State_expRead_wf (s : State) (got : Option (List (Nat × Nat × List Byte))) (x : ExpRec) (pos : Nat) (n : Nat) (hw : Memory.wf s.arc.mem = true) :
    Memory.wf (State.expRead s got x pos n).1.arc.mem = true := by
  unfold State.expRead
  dsimp only
  repeat' split
  all_goals simp [hw]
@[simp] theorem State_expLoop_pending (s : State) (got : Option (List (Nat × Nat × List Byte))) (stream : Nat) (room : Nat) (pos : Nat) (failed : Bool) (out : List Byte) (q0 : Nat) : (State.expLoop s got stream room pos failed out q0).1.pending = s.pending := by
  induction q0 generalizing s room pos failed out with
  | zero => rfl
  | succ n ih =>
    unfold State.expLoop
    dsimp only
    repeat' split
    all_goals simp [ih]
@[simp] theorem State_expLoop_wf (s : State) (got : Option (List (Nat × Nat × List Byte))) (stream : Nat) (room : Nat) (pos : Nat) (failed : Bool) (out : List Byte) (q0 : Nat) (hw : Memory.wf s.arc.mem = true) :
    Memory.wf (State.expLoop s got stream room pos failed out q0).1.arc.mem = true := by
  induction q0 generalizing s room pos failed out with
  | zero => exact hw
  | succ n ih =>
    unfold State.expLoop
    dsimp only
    repeat' split
    all_goals first
      | exact hw
      | exact ih _ _ _ _ _ (by simp [hw])
@[simp] theorem State_expPut_keep (s : State) (h : HostId) (c : Nat) (bs : List Byte) :
    (State.expPut s h c bs).pending = s.pending ∧ (State.expPut s h c bs).arc.mem = s.arc.mem := by unfold State.expPut; simp
@[simp] theorem State_exportGo_pending (s : State) (h : HostId) (j : Nat) (room : Nat) (got : Option (List (Nat × Nat × List Byte))) : (State.exportGo s h j room got).pending = s.pending := by unfold State.exportGo; simp
@[simp] theorem State_exportGo_wf (s : State) (h : HostId) (j : Nat) (room : Nat) (got : Option (List (Nat × Nat × List Byte))) (hw : Memory.wf s.arc.mem = true) :
    Memory.wf (State.exportGo s h j room got).arc.mem = true := by unfold State.exportGo; simp [hw]
@[simp] theorem State_exportBegin_pending (s : State) (h : HostId) (j : Nat) : (State.exportBegin s h j).pending = s.pending := by unfold State.exportBegin; simp
@[simp] theorem State_exportBegin_wf (s : State) (h : HostId) (j : Nat) (hw : Memory.wf s.arc.mem = true) :
    Memory.wf (State.exportBegin s h j).arc.mem = true := by
  unfold State.exportBegin
  dsimp only
  repeat' split
  all_goals simp [hw]
@[simp] theorem State_exportEnd_pending (s : State) (h : HostId) (j : Nat) (u : ArcUnit) : (State.exportEnd s h j u).pending = s.pending := by unfold State.exportEnd; simp
@[simp] theorem State_exportEnd_wf (s : State) (h : HostId) (j : Nat) (u : ArcUnit) (hw : Memory.wf s.arc.mem = true) :
    Memory.wf (State.exportEnd s h j u).arc.mem = true := by
  unfold State.exportEnd
  dsimp only
  repeat' split
  all_goals simp [hw]
@[simp] theorem State_bulkBytes_keep (s : State) (d : List Word) (r : HostRead) (data : List Byte) :
    (State.bulkBytes s d r data).1.pending = s.pending ∧ (State.bulkBytes s d r data).1.arc.mem = s.arc.mem := by unfold State.bulkBytes; simp
@[simp] theorem State_bulkOut_keep (s : State) (h : HostId) (d : List Word) (m : List Byte × Option Nat) :
    (State.bulkOut s h d m).1.pending = s.pending ∧ (State.bulkOut s h d m).1.arc.mem = s.arc.mem := by
  unfold State.bulkOut
  dsimp only
  repeat' split
  all_goals simp
@[simp] theorem State_bulkMove_pending (s : State) (h : HostId) (d : List Word) (r : HostRead) (data : List Byte) : (State.bulkMove s h d r data).1.pending = s.pending := by
  unfold State.bulkMove
  dsimp only
  repeat' split
  all_goals simp
@[simp] theorem State_bulkMove_wf (s : State) (h : HostId) (d : List Word) (r : HostRead) (data : List Byte) (hw : Memory.wf s.arc.mem = true) :
    Memory.wf (State.bulkMove s h d r data).1.arc.mem = true := by
  unfold State.bulkMove
  dsimp only
  repeat' split
  all_goals simp [hw]
@[simp] theorem State_bulkAsk_keep (s : State) (h : HostId) (c : Nat) (d : List Word) (r : HostRead) (data : List Byte) :
    (State.bulkAsk s h c d r data).pending = s.pending ∧ (State.bulkAsk s h c d r data).arc.mem = s.arc.mem := by unfold State.bulkAsk; simp
@[simp] theorem State_bulkAnswered_pending (s : State) (h : HostId) (u : ArcUnit) : (State.bulkAnswered s h u).1.pending = s.pending := by
  have pm : ∀ (u : State) (m : Memory), ({ u with arc := { u.arc with mem := m } } : State).pending = u.pending := fun _ _ => rfl
  unfold State.bulkAnswered
  extract_lets a len m
  split
  · exact (State_bulkOut_keep ..).1
  clear_value a len m
  split
  · rfl
  · extract_lets b f
    exact (pm f.2 _).trans (State_freeBytes_keep s (a + len - b)).1
@[simp] theorem State_bulkAnswered_wf (s : State) (h : HostId) (u : ArcUnit) (hw : Memory.wf s.arc.mem = true) :
    Memory.wf (State.bulkAnswered s h u).1.arc.mem = true := by
  unfold State.bulkAnswered
  extract_lets a len m
  split
  · rw [(State_bulkOut_keep ..).2]
    exact hw
  clear_value a len m
  split
  · exact hw
  · refine Memory.writes_wf _ _ ?_
    rw [(State_freeBytes_keep ..).2]
    exact hw
@[simp] theorem State_bulkDone_keep (s : State) (h : HostId) (c : Nat) (st : Nat) :
    (State.bulkDone s h c st).pending = s.pending ∧ (State.bulkDone s h c st).arc.mem = s.arc.mem := by unfold State.bulkDone; simp
@[simp] theorem State_setDom_keep (s : State) (d : Dom) :
    (State.setDom s d).pending = s.pending ∧ (State.setDom s d).arc.mem = s.arc.mem := by unfold State.setDom; simp
@[simp] theorem State_fltOutputs_keep (s : State) :
    (State.fltOutputs s).pending = s.pending ∧ (State.fltOutputs s).arc.mem = s.arc.mem := by unfold State.fltOutputs; simp
@[simp] theorem State_showRec_keep (s : State) (d : Dom) :
    (State.showRec s d).pending = s.pending ∧ (State.showRec s d).arc.mem = s.arc.mem := by
  unfold State.showRec
  dsimp only
  repeat' split
  all_goals simp
@[simp] theorem State_putDom_keep (s : State) (d : Dom) :
    (State.putDom s d).pending = s.pending ∧ (State.putDom s d).arc.mem = s.arc.mem := by unfold State.putDom; simp
@[simp] theorem State_hideRec_keep (s : State) (r : Nat) :
    (State.hideRec s r).pending = s.pending ∧ (State.hideRec s r).arc.mem = s.arc.mem := by unfold State.hideRec; simp
@[simp] theorem State_faultRec_keep (s : State) (ty : Nat) (d : Dom) (slot : Nat) (detail : Nat) (t : Nat) :
    (State.faultRec s ty d slot detail t).pending = s.pending ∧ (State.faultRec s ty d slot detail t).arc.mem = s.arc.mem := by unfold State.faultRec; simp
@[simp] theorem State_faultInts_keep (s : State) (sev : Nat) :
    (State.faultInts s sev).pending = s.pending ∧ (State.faultInts s sev).arc.mem = s.arc.mem := by unfold State.faultInts; simp
@[simp] theorem State_faultTell_keep (s : State) (d : Dom) (opened : Bool) (up : Bool) (slot : Nat) (detail : Nat) (t : Nat) :
    (State.faultTell s d opened up slot detail t).pending = s.pending ∧ (State.faultTell s d opened up slot detail t).arc.mem = s.arc.mem := by
  unfold State.faultTell
  dsimp only
  repeat' split
  all_goals simp
@[simp] theorem State_grantRec_keep (s : State) (r : Nat) :
    (State.grantRec s r).pending = s.pending ∧ (State.grantRec s r).arc.mem = s.arc.mem := by
  unfold State.grantRec
  dsimp only
  repeat' split
  all_goals simp
@[simp] theorem State_closeDom_keep (s : State) (d : Dom) :
    (State.closeDom s d).pending = s.pending ∧ (State.closeDom s d).arc.mem = s.arc.mem := by
  unfold State.closeDom
  dsimp only
  repeat' split
  all_goals simp
@[simp] theorem State_safeLanes_keep (s : State) :
    (State.safeLanes s).pending = s.pending ∧ (State.safeLanes s).arc.mem = s.arc.mem := by unfold State.safeLanes; simp
@[simp] theorem State_driveSafe_pending (s : State) (id : Nat) : (State.driveSafe s id).pending = s.pending := by unfold State.driveSafe; simp [pend_foldl]
@[simp] theorem State_driveSafe_wf (s : State) (id : Nat) (hw : Memory.wf s.arc.mem = true) :
    Memory.wf (State.driveSafe s id).arc.mem = true := by
  unfold State.driveSafe
  repeat' split
  all_goals simp_all [wf_foldl]
@[simp] theorem State_releaseSafe_pending (s : State) (id : Nat) : (State.releaseSafe s id).pending = s.pending := by unfold State.releaseSafe; simp [pend_foldl]
@[simp] theorem State_releaseSafe_wf (s : State) (id : Nat) (hw : Memory.wf s.arc.mem = true) :
    Memory.wf (State.releaseSafe s id).arc.mem = true := by
  unfold State.releaseSafe
  simp only [State_safeLanes_keep]
  exact wf_foldl _ _ _ (by intro s a h; split <;> simp [h]) hw
@[simp] theorem State_safeRedo_keep (s : State) (o : Nat) :
    (State.safeRedo s o).pending = s.pending ∧ (State.safeRedo s o).arc.mem = s.arc.mem := by unfold State.safeRedo; simp
@[simp] theorem State_archiveReact_keep (s : State) :
    (State.archiveReact s).pending = s.pending ∧ (State.archiveReact s).arc.mem = s.arc.mem := by unfold State.archiveReact; simp
@[simp] theorem State_react_pending (s : State) (id : Nat) (slot : Nat) : (State.react s id slot).pending = s.pending := by
  unfold State.react
  dsimp only
  repeat' split
  all_goals simp
@[simp] theorem State_react_wf (s : State) (id : Nat) (slot : Nat) (hw : Memory.wf s.arc.mem = true) :
    Memory.wf (State.react s id slot).arc.mem = true := by
  unfold State.react
  dsimp only
  repeat' split
  all_goals simp [hw]
@[simp] theorem State_classify_keep (s : State) (slot : Nat) (n : Nat) (t : Nat) :
    (State.classify s slot n t).1.pending = s.pending ∧ (State.classify s slot n t).1.arc.mem = s.arc.mem := by unfold State.classify; simp
@[simp] theorem State_daybook_keep (s : State) (c : Crossing) (sev : Nat) (d : Dom) :
    (State.daybook s c sev d).pending = s.pending ∧ (State.daybook s c sev d).arc.mem = s.arc.mem := by unfold State.daybook; simp
@[simp] theorem State_daybookWrite_keep (s : State) (c : Crossing) (sev : Nat) (d : Dom) :
    (State.daybookWrite s c sev d).pending = s.pending ∧ (State.daybookWrite s c sev d).arc.mem = s.arc.mem := by unfold State.daybookWrite; simp
@[simp] theorem State_daybookNext_keep (s : State) :
    (State.daybookNext s).pending = s.pending ∧ (State.daybookNext s).arc.mem = s.arc.mem := by
  unfold State.daybookNext
  dsimp only
  repeat' split
  all_goals simp
@[simp] theorem State_act_pending (s : State) (c : Crossing) (sev : Nat) : (State.act s c sev).pending = s.pending := by unfold State.act; simp
@[simp] theorem State_act_wf (s : State) (c : Crossing) (sev : Nat) (hw : Memory.wf s.arc.mem = true) :
    Memory.wf (State.act s c sev).arc.mem = true := by
  unfold State.act
  dsimp only
  repeat' split
  all_goals simp [hw]
@[simp] theorem State_setInput_keep (s : State) (k : Nat) (x : FaultIn) :
    (State.setInput s k x).pending = s.pending ∧ (State.setInput s k x).arc.mem = s.arc.mem := by unfold State.setInput; simp
@[simp] theorem State_maskInput_keep (s : State) (k : Nat) (x : FaultIn) :
    (State.maskInput s k x).pending = s.pending ∧ (State.maskInput s k x).arc.mem = s.arc.mem := by unfold State.maskInput; simp
@[simp] theorem State_assertInput_keep (s : State) (k : Nat) :
    (State.assertInput s k).pending = s.pending ∧ (State.assertInput s k).arc.mem = s.arc.mem := by unfold State.assertInput; simp
@[simp] theorem State_inputEval_keep (s : State) (k : Nat) :
    (State.inputEval s k).pending = s.pending ∧ (State.inputEval s k).arc.mem = s.arc.mem := by unfold State.inputEval; simp
@[simp] theorem State_unmaskInputs_keep (s : State) (id : Nat) :
    (State.unmaskInputs s id).pending = s.pending ∧ (State.unmaskInputs s id).arc.mem = s.arc.mem := by unfold State.unmaskInputs; simp
@[simp] theorem State_liftDom_pending (s : State) (d : Dom) (ty : Nat) : (State.liftDom s d ty).pending = s.pending := by unfold State.liftDom; simp
@[simp] theorem State_liftDom_wf (s : State) (d : Dom) (ty : Nat) (hw : Memory.wf s.arc.mem = true) :
    Memory.wf (State.liftDom s d ty).arc.mem = true := by
  unfold State.liftDom
  dsimp only
  repeat' split
  all_goals simp [hw]
@[simp] theorem State_quietEnd_pending (s : State) (d : Dom) : (State.quietEnd s d).pending = s.pending := by unfold State.quietEnd; simp
@[simp] theorem State_quietEnd_wf (s : State) (d : Dom) (hw : Memory.wf s.arc.mem = true) :
    Memory.wf (State.quietEnd s d).arc.mem = true := by
  unfold State.quietEnd
  dsimp only
  repeat' split
  all_goals simp [hw]
@[simp] theorem State_domClear_pending (s : State) (id : Nat) : (State.domClear s id).pending = s.pending := by unfold State.domClear; simp
@[simp] theorem State_domClear_wf (s : State) (id : Nat) (hw : Memory.wf s.arc.mem = true) :
    Memory.wf (State.domClear s id).arc.mem = true := by
  unfold State.domClear
  dsimp only
  repeat' split
  all_goals simp [hw]
@[simp] theorem State_forced_keep (s : State) (j : Nat) (old : Nat) (new : Nat) :
    (State.forced s j old new).pending = s.pending ∧ (State.forced s j old new).arc.mem = s.arc.mem := by
  unfold State.forced
  refine keep_foldl _ _ _ fun s a => ?_
  dsimp only
  repeat' split
  all_goals simp
@[simp] theorem State_injectGoErr_keep (s : State) :
    (State.injectGoErr s).pending = s.pending ∧ (State.injectGoErr s).arc.mem = s.arc.mem := by unfold State.injectGoErr; simp
@[simp] theorem State_setRun_keep (s : State) (k : Nat) (on : Bool) :
    (State.setRun s k on).pending = s.pending ∧ (State.setRun s k on).arc.mem = s.arc.mem := by unfold State.setRun; simp
@[simp] theorem State_pulseAck_keep (s : State) (q : Nat × Pulse × Bool) :
    (State.pulseAck s q).pending = s.pending ∧ (State.pulseAck s q).arc.mem = s.arc.mem := by
  unfold State.pulseAck
  dsimp only
  repeat' split
  all_goals simp
@[simp] theorem State_pulseAcks_keep (s : State) :
    (State.pulseAcks s).pending = s.pending ∧ (State.pulseAcks s).arc.mem = s.arc.mem := by unfold State.pulseAcks; simp
@[simp] theorem State_tick_keep (s : State) :
    (State.tick s).pending = s.pending ∧ (State.tick s).arc.mem = s.arc.mem := by unfold State.tick; simp
@[simp] theorem State_stopOne_keep (s : State) (old : Nat) (x : Nat × Nat) :
    (State.stopOne s old x).pending = s.pending ∧ (State.stopOne s old x).arc.mem = s.arc.mem := by unfold State.stopOne; simp
@[simp] theorem State_stopWritten_keep (s : State) (old : Nat) :
    (State.stopWritten s old).pending = s.pending ∧ (State.stopWritten s old).arc.mem = s.arc.mem := by unfold State.stopWritten; simp
@[simp] theorem State_linkOff_keep (s : State) (p : Nat) :
    (State.linkOff s p).pending = s.pending ∧ (State.linkOff s p).arc.mem = s.arc.mem := by unfold State.linkOff; simp
@[simp] theorem State_flushAccess_keep (s : State) (a : Access) :
    (State.flushAccess s a).pending = s.pending ∧ (State.flushAccess s a).arc.mem = s.arc.mem := by
  unfold State.flushAccess
  dsimp only
  repeat' split
  all_goals simp
@[simp] theorem State_spoil_keep (s : State) (lanes : List Nat) :
    (State.spoil s lanes).pending = s.pending ∧ (State.spoil s lanes).arc.mem = s.arc.mem := by unfold State.spoil; simp
@[simp] theorem State_fecLostOn_keep (s : State) (p : Nat) (lanes : List Nat) :
    (State.fecLostOn s p lanes).pending = s.pending ∧ (State.fecLostOn s p lanes).arc.mem = s.arc.mem := by unfold State.fecLostOn; simp
@[simp] theorem State_flushInner_keep (s : State) (x : Nat) :
    (State.flushInner s x).pending = s.pending ∧ (State.flushInner s x).arc.mem = s.arc.mem := by unfold State.flushInner; simp
@[simp] theorem State_xreset_keep (s : State) (x : Nat) :
    (State.xreset s x).pending = s.pending ∧ (State.xreset s x).arc.mem = s.arc.mem := by unfold State.xreset; simp
@[simp] theorem State_xresets_keep (s : State) (data : Nat) :
    (State.xresets s data).pending = s.pending ∧ (State.xresets s data).arc.mem = s.arc.mem := by unfold State.xresets; simp
@[simp] theorem State_hungNote_keep (s : State) (x : Nat) (m : Nat) (off : Nat) :
    (State.hungNote s x m off).pending = s.pending ∧ (State.hungNote s x m off).arc.mem = s.arc.mem := by unfold State.hungNote; simp
@[simp] theorem State_pipeFall_pending (s : State) (p : Nat) : (State.pipeFall s p).pending = s.pending := by unfold State.pipeFall; simp [pend_foldl]
@[simp] theorem State_pipeFall_wf (s : State) (p : Nat) (hw : Memory.wf s.arc.mem = true) :
    Memory.wf (State.pipeFall s p).arc.mem = true := by
  unfold State.pipeFall
  repeat' split
  all_goals simp_all [wf_foldl]
@[simp] theorem State_linkLost_pending (s : State) (p : Nat) : (State.linkLost s p).pending = s.pending := by unfold State.linkLost; simp
@[simp] theorem State_linkLost_wf (s : State) (p : Nat) (hw : Memory.wf s.arc.mem = true) :
    Memory.wf (State.linkLost s p).arc.mem = true := by unfold State.linkLost; simp [hw]
@[simp] theorem State_chipletClear_keep (s : State) (p : Nat) :
    (State.chipletClear s p).pending = s.pending ∧ (State.chipletClear s p).arc.mem = s.arc.mem := by unfold State.chipletClear; simp
@[simp] theorem State_chipletReset_pending (s : State) (p : Nat) : (State.chipletReset s p).pending = s.pending := by unfold State.chipletReset; simp
@[simp] theorem State_chipletReset_wf (s : State) (p : Nat) (hw : Memory.wf s.arc.mem = true) :
    Memory.wf (State.chipletReset s p).arc.mem = true := by unfold State.chipletReset; simp [hw]
@[simp] theorem State_chipletResets_pending (s : State) (data : Nat) : (State.chipletResets s data).pending = s.pending := by
  unfold State.chipletResets
  exact pend_foldl _ _ _ (by intros; simp [ite_pend])
@[simp] theorem State_chipletResets_wf (s : State) (data : Nat) (hw : Memory.wf s.arc.mem = true) :
    Memory.wf (State.chipletResets s data).arc.mem = true := by
  unfold State.chipletResets
  exact wf_foldl _ _ _ (by intro s a h; (repeat' split) <;> simp [h]) hw
@[simp] theorem State_coldReset_pending (s : State) (cause : Nat) : (State.coldReset s cause).pending = s.pending := rfl
@[simp] theorem State_coldReset_wf (s : State) (cause : Nat) (hw : Memory.wf s.arc.mem = true) :
    Memory.wf (State.coldReset s cause).arc.mem = true := rfl
@[simp] theorem State_bootStart_keep (s : State) (tamper : Bool) :
    (State.bootStart s tamper).pending = s.pending ∧ (State.bootStart s tamper).arc.mem = s.arc.mem := by
  unfold State.bootStart
  simp only [State.wr_pending, State.setRg_pending, State.wr_arc, State.setRg_arc]
  exact ⟨trivial, trivial⟩
@[simp] theorem State_perstClocks_keep (s : State) :
    (State.perstClocks s).pending = s.pending ∧ (State.perstClocks s).arc.mem = s.arc.mem := by unfold State.perstClocks; simp
@[simp] theorem State_keepStraps_keep (s : State) (old : State) :
    (State.keepStraps s old).pending = s.pending ∧ (State.keepStraps s old).arc.mem = s.arc.mem := by unfold State.keepStraps; simp
@[simp] theorem State_warmReset_keep (s : State) (internal : Bool) :
    (State.warmReset s internal).pending = s.pending ∧ (State.warmReset s internal).arc.mem = s.arc.mem := by unfold State.warmReset; simp
@[simp] theorem State_gateWrite_keep (s : State) (m : Master) (b : Block) (p : Nat) (key : Nat) :
    (State.gateWrite s m b p key).pending = s.pending ∧ (State.gateWrite s m b p key).arc.mem = s.arc.mem := by unfold State.gateWrite; simp
@[simp] theorem State_roundTake_keep (s : State) (m : Master) (addr : Nat) :
    (State.roundTake s m addr).pending = s.pending ∧ (State.roundTake s m addr).arc.mem = s.arc.mem := by unfold State.roundTake; simp
@[simp] theorem State_roundRead_keep (s : State) (m : Master) :
    (State.roundRead s m).pending = s.pending ∧ (State.roundRead s m).arc.mem = s.arc.mem := by unfold State.roundRead; simp
@[simp] theorem ok_keep (s : State) :
    (ok s).1.pending = s.pending ∧ (ok s).1.arc.mem = s.arc.mem := by unfold ok; simp
@[simp] theorem State_timWritten_keep (s : State) (a : RegAt) (eff : Nat) :
    (State.timWritten s a eff).1.pending = s.pending ∧ (State.timWritten s a eff).1.arc.mem = s.arc.mem := by
  unfold State.timWritten
  repeat' split
  all_goals simp
@[simp] theorem State_chanWritten_keep (s : State) (c : Nat) (old : Nat) :
    (State.chanWritten s c old).pending = s.pending ∧ (State.chanWritten s c old).arc.mem = s.arc.mem := by
  unfold State.chanWritten
  repeat' split
  all_goals simp
@[simp] theorem State_hstWritten_keep (s : State) (a : RegAt) (old : Nat) (was : Bool) :
    (State.hstWritten s a old was).1.pending = s.pending ∧ (State.hstWritten s a old was).1.arc.mem = s.arc.mem := by
  unfold State.hstWritten
  repeat' split
  all_goals simp
@[simp] theorem State_tawGo_keep (s : State) (j : Nat) :
    (State.tawGo s j).pending = s.pending ∧ (State.tawGo s j).arc.mem = s.arc.mem := by unfold State.tawGo; simp
@[simp] theorem State_cleWritten_keep (s : State) (a : RegAt) (old : Nat) (eff : Nat) :
    (State.cleWritten s a old eff).1.pending = s.pending ∧ (State.cleWritten s a old eff).1.arc.mem = s.arc.mem := by
  unfold State.cleWritten
  dsimp only
  repeat' split
  all_goals simp
@[simp] theorem State_flashGo_keep (s : State) :
    (State.flashGo s).1.pending = s.pending ∧ (State.flashGo s).1.arc.mem = s.arc.mem := by unfold State.flashGo; simp
@[simp] theorem State_otpGo_keep (s : State) :
    (State.otpGo s).pending = s.pending ∧ (State.otpGo s).arc.mem = s.arc.mem := by unfold State.otpGo; simp
@[simp] theorem State_mclkWritten_pending (s : State) (a : RegAt) (old : Nat) (eff : Nat) : (State.mclkWritten s a old eff).1.pending = s.pending := by
  unfold State.mclkWritten
  repeat' split
  all_goals simp
@[simp] theorem State_mclkWritten_wf (s : State) (a : RegAt) (old : Nat) (eff : Nat) (hw : Memory.wf s.arc.mem = true) :
    Memory.wf (State.mclkWritten s a old eff).1.arc.mem = true := by
  unfold State.mclkWritten
  repeat' split
  all_goals simp [hw]
@[simp] theorem State_flowFlush_pending (s : State) (p : Nat) : (State.flowFlush s p).pending = s.pending := by unfold State.flowFlush; simp
@[simp] theorem State_flowFlush_wf (s : State) (p : Nat) (hw : Memory.wf s.arc.mem = true) :
    Memory.wf (State.flowFlush s p).arc.mem = true := by unfold State.flowFlush; simp [hw]
@[simp] theorem State_capWritten_keep (s : State) (eff : Nat) :
    (State.capWritten s eff).pending = s.pending ∧ (State.capWritten s eff).arc.mem = s.arc.mem := by unfold State.capWritten; simp
@[simp] theorem State_arcWritten_pending (s : State) (a : RegAt) (old : Nat) (eff : Nat) : (State.arcWritten s a old eff).1.pending = s.pending := by
  unfold State.arcWritten
  repeat' split
  all_goals simp
@[simp] theorem State_arcWritten_wf (s : State) (a : RegAt) (old : Nat) (eff : Nat) (hw : Memory.wf s.arc.mem = true) :
    Memory.wf (State.arcWritten s a old eff).1.arc.mem = true := by
  unfold State.arcWritten
  repeat' split
  all_goals simp [hw]
@[simp] theorem State_stableSet_keep (s : State) (on : Bool) :
    (State.stableSet s on).pending = s.pending ∧ (State.stableSet s on).arc.mem = s.arc.mem := by unfold State.stableSet; simp
@[simp] theorem State_stbWritten_keep (s : State) (a : RegAt) (old : Nat) :
    (State.stbWritten s a old).1.pending = s.pending ∧ (State.stbWritten s a old).1.arc.mem = s.arc.mem := by
  unfold State.stbWritten
  repeat' split
  all_goals simp
@[simp] theorem State_pipeWritten_pending (s : State) (a : RegAt) (old : Nat) (eff : Nat) : (State.pipeWritten s a old eff).1.pending = s.pending := by
  unfold State.pipeWritten
  repeat' split
  all_goals simp
@[simp] theorem State_pipeWritten_wf (s : State) (a : RegAt) (old : Nat) (eff : Nat) (hw : Memory.wf s.arc.mem = true) :
    Memory.wf (State.pipeWritten s a old eff).1.arc.mem = true := by
  unfold State.pipeWritten
  repeat' split
  all_goals simp [hw]
@[simp] theorem State_written_pending (s : State) (a : RegAt) (old : Nat) (eff : Nat) (was : Bool) : (State.written s a old eff was).1.pending = s.pending := by
  unfold State.written
  repeat' split
  all_goals simp
@[simp] theorem State_written_wf (s : State) (a : RegAt) (old : Nat) (eff : Nat) (was : Bool) (hw : Memory.wf s.arc.mem = true) :
    Memory.wf (State.written s a old eff was).1.arc.mem = true := by
  unfold State.written
  repeat' split
  all_goals simp [hw]
@[simp] theorem State_refusedWrite_keep (s : State) (a : RegAt) (old : Nat) (data : Nat) (c : Cause) :
    (State.refusedWrite s a old data c).pending = s.pending ∧ (State.refusedWrite s a old data c).arc.mem = s.arc.mem := by
  unfold State.refusedWrite
  repeat' split
  all_goals simp
@[simp] theorem State_beforeWrite_keep (s : State) (a : RegAt) :
    (State.beforeWrite s a).pending = s.pending ∧ (State.beforeWrite s a).arc.mem = s.arc.mem := by
  unfold State.beforeWrite
  repeat' split
  all_goals simp
@[simp] theorem State_store_pending (s : State) (a : RegAt) (data : Nat) (reach : Nat) : (State.store s a data reach).1.pending = s.pending := by unfold State.store; simp
@[simp] theorem State_store_wf (s : State) (a : RegAt) (data : Nat) (reach : Nat) (hw : Memory.wf s.arc.mem = true) :
    Memory.wf (State.store s a data reach).1.arc.mem = true := by
  unfold State.store
  dsimp only
  repeat' split
  all_goals simp [hw]
@[simp] theorem State_regStore_pending (s : State) (m : Option Master) (a : RegAt) (data : Nat) : (State.regStore s m a data).1.pending = s.pending := by
  unfold State.regStore
  dsimp only
  split
  · rfl
  split
  · rfl
  split
  · rfl
  split
  · rfl
  split
  · simp
  · have h := State_store_pending s a data (a.reg.desc.reach (s.gateOpen m a.reg.desc.block a.p))
    split <;> (next e => rw [e] at h; simpa using h)
@[simp] theorem State_regStore_wf (s : State) (m : Option Master) (a : RegAt) (data : Nat) (hw : Memory.wf s.arc.mem = true) :
    Memory.wf (State.regStore s m a data).1.arc.mem = true := by
  unfold State.regStore
  dsimp only
  split
  · exact hw
  split
  · exact hw
  split
  · exact hw
  split
  · exact hw
  split
  · simp [hw]
  · have h := State_store_wf s a data (a.reg.desc.reach (s.gateOpen m a.reg.desc.block a.p)) hw
    split <;> (next e => rw [e] at h; simpa using h)
@[simp] theorem State_casWrite_keep (s : State) (m : Master) (data : Nat) :
    (State.casWrite s m data).pending = s.pending ∧ (State.casWrite s m data).arc.mem = s.arc.mem := by unfold State.casWrite; simp
@[simp] theorem State_waitAt_keep (s : State) (m : Option Master) (addr : Nat) (data : Option Word) :
    (State.waitAt s m addr data).pending = s.pending ∧ (State.waitAt s m addr data).arc.mem = s.arc.mem := by unfold State.waitAt; simp
@[simp] theorem State_abandonRead_keep (s : State) (m : Master) (addr : Nat) :
    (State.abandonRead s m addr).pending = s.pending ∧ (State.abandonRead s m addr).arc.mem = s.arc.mem := by unfold State.abandonRead; simp
@[simp] theorem State_regDo_pending (s : State) (m : Option Master) (a : RegAt) (addr : Nat) (data : Nat) : (State.regDo s m a addr data).1.pending = s.pending := by
  unfold State.regDo
  dsimp only
  repeat' split
  all_goals simp
@[simp] theorem State_regDo_wf (s : State) (m : Option Master) (a : RegAt) (addr : Nat) (data : Nat) (hw : Memory.wf s.arc.mem = true) :
    Memory.wf (State.regDo s m a addr data).1.arc.mem = true := by
  unfold State.regDo
  dsimp only
  repeat' split
  all_goals simp [hw]
@[simp] theorem State_reservedWrite_keep (s : State) (m : Option Master) (addr : Nat) (data : Nat) :
    (State.reservedWrite s m addr data).1.pending = s.pending ∧ (State.reservedWrite s m addr data).1.arc.mem = s.arc.mem := by unfold State.reservedWrite; simp
@[simp] theorem State_regTry_pending (s : State) (m : Master) (addr : Nat) (data : Nat) : (State.regTry s m addr data).1.pending = s.pending := by
  unfold State.regTry
  repeat' split
  all_goals simp
@[simp] theorem State_regTry_wf (s : State) (m : Master) (addr : Nat) (data : Nat) (hw : Memory.wf s.arc.mem = true) :
    Memory.wf (State.regTry s m addr data).1.arc.mem = true := by
  unfold State.regTry
  repeat' split
  all_goals simp [hw]
@[simp] theorem Wr_logged_keep (r : Wr) (m : Master) (addr : Nat) (data : Nat) :
    (Wr.logged r m addr data).1.pending = r.1.pending ∧ (Wr.logged r m addr data).1.arc.mem = r.1.arc.mem := by
  unfold Wr.logged
  repeat' split
  all_goals simp
@[simp] theorem State_regWrite_pending (s : State) (m : Master) (addr : Nat) (data : Nat) : (State.regWrite s m addr data).1.pending = s.pending := by unfold State.regWrite; simp
@[simp] theorem State_regWrite_wf (s : State) (m : Master) (addr : Nat) (data : Nat) (hw : Memory.wf s.arc.mem = true) :
    Memory.wf (State.regWrite s m addr data).1.arc.mem = true := by
  unfold State.regWrite
  repeat' split
  all_goals simp [hw]
@[simp] theorem State_readTakes_keep (s : State) (a : RegAt) :
    (State.readTakes s a).pending = s.pending ∧ (State.readTakes s a).arc.mem = s.arc.mem := by
  unfold State.readTakes
  dsimp only
  repeat' split
  all_goals simp
@[simp] theorem State_latchTake_keep (s : State) (m : Master) (a : RegAt) :
    (State.latchTake s m a).1.pending = s.pending ∧ (State.latchTake s m a).1.arc.mem = s.arc.mem := by unfold State.latchTake; simp
@[simp] theorem State_regGet_keep (s : State) (m : Master) (a : RegAt) :
    (State.regGet s m a).1.pending = s.pending ∧ (State.regGet s m a).1.arc.mem = s.arc.mem := by
  unfold State.regGet
  repeat' split
  all_goals simp
@[simp] theorem State_regRead_keep (s : State) (m : Master) (addr : Nat) :
    (State.regRead s m addr).1.pending = s.pending ∧ (State.regRead s m addr).1.arc.mem = s.arc.mem := by
  unfold State.regRead
  dsimp only
  repeat' split
  all_goals simp
@[simp] theorem State_bootErr_keep (s : State) (cause : Nat) (table : Nat) (addr : Nat) (sec : Nat) :
    (State.bootErr s cause table addr sec).pending = s.pending ∧ (State.bootErr s cause table addr sec).arc.mem = s.arc.mem := by unfold State.bootErr; simp
@[simp] theorem State_bootRefuse_keep (s : State) (cause : Nat) (table : Nat) (addr : Nat) (sec : Nat) :
    (State.bootRefuse s cause table addr sec).pending = s.pending ∧ (State.bootRefuse s cause table addr sec).arc.mem = s.arc.mem := by unfold State.bootRefuse; simp
@[simp] theorem State_answer_keep (s : State) (m : Master) (w : Option Word) :
    (State.answer s m w).pending = s.pending ∧ (State.answer s m w).arc.mem = s.arc.mem := by unfold State.answer; simp
@[simp] theorem State_serveOne_pending (s : State) (a : Access) : (State.serveOne s a).pending = s.pending := by
  unfold State.serveOne
  dsimp only
  repeat' split
  all_goals simp
@[simp] theorem State_serveOne_wf (s : State) (a : Access) (hw : Memory.wf s.arc.mem = true) :
    Memory.wf (State.serveOne s a).arc.mem = true := by
  unfold State.serveOne
  dsimp only
  repeat' split
  all_goals simp [hw]
@[simp] theorem State_serve_pending (s : State) : (State.serve s).pending = s.pending := by
  unfold State.serve
  dsimp only
  rw [pend_foldl _ _ _ (by intros; simp)]
@[simp] theorem State_serve_wf (s : State) (hw : Memory.wf s.arc.mem = true) :
    Memory.wf (State.serve s).arc.mem = true := by
  unfold State.serve
  dsimp only
  exact wf_foldl _ _ _ (by intro s a h; simp [h]) hw
@[simp] theorem State_shadowCopy_keep (s : State) :
    (State.shadowCopy s).pending = s.pending ∧ (State.shadowCopy s).arc.mem = s.arc.mem := by unfold State.shadowCopy; simp
@[simp] theorem State_patchMapSet_keep (s : State) (ws : List Word) :
    (State.patchMapSet s ws).pending = s.pending ∧ (State.patchMapSet s ws).arc.mem = s.arc.mem := by unfold State.patchMapSet; simp
@[simp] theorem State_patchInstall_keep (s : State) (ws : List Word) :
    (State.patchInstall s ws).pending = s.pending ∧ (State.patchInstall s ws).arc.mem = s.arc.mem := by unfold State.patchInstall; simp
@[simp] theorem State_showFuses_keep (s : State) :
    (State.showFuses s).pending = s.pending ∧ (State.showFuses s).arc.mem = s.arc.mem := by unfold State.showFuses; simp
@[simp] theorem State_startClocks_keep (s : State) :
    (State.startClocks s).pending = s.pending ∧ (State.startClocks s).arc.mem = s.arc.mem := by unfold State.startClocks; simp
@[simp] theorem State_copyBad_keep (s : State) (x : Nat) (c : Nat) :
    (State.copyBad s x c).pending = s.pending ∧ (State.copyBad s x c).arc.mem = s.arc.mem := by unfold State.copyBad; simp
@[simp] theorem State_loadStore_keep (s : State) (ws : List Word) :
    (State.loadStore s ws).pending = s.pending ∧ (State.loadStore s ws).arc.mem = s.arc.mem := by unfold State.loadStore; simp
@[simp] theorem State_bootMalformed_keep (s : State) (table : Nat) (sec : Nat) :
    (State.bootMalformed s table sec).pending = s.pending ∧ (State.bootMalformed s table sec).arc.mem = s.arc.mem := by unfold State.bootMalformed; simp
@[simp] theorem State_goShort_keep (s : State) :
    (State.goShort s).pending = s.pending ∧ (State.goShort s).arc.mem = s.arc.mem := by unfold State.goShort; simp
@[simp] theorem State_bootPatch_keep (s : State) (ws : List Word) :
    (State.bootPatch s ws).pending = s.pending ∧ (State.bootPatch s ws).arc.mem = s.arc.mem := by
  unfold State.bootPatch
  dsimp only
  repeat' split
  all_goals simp
@[simp] theorem State_choose__keep (s : State) (x : Nat) (ws : List Word) (again : List Word) :
    (State.choose_ s x ws again).pending = s.pending ∧ (State.choose_ s x ws again).arc.mem = s.arc.mem := by unfold State.choose_; simp
@[simp] theorem State_bootReg_pending (s : State) (off : Nat) (mask : Nat) (value : Nat) : (State.bootReg s off mask value).1.pending = s.pending := by
  unfold State.bootReg
  dsimp only
  repeat' split
  all_goals simp
@[simp] theorem State_bootReg_wf (s : State) (off : Nat) (mask : Nat) (value : Nat) (hw : Memory.wf s.arc.mem = true) :
    Memory.wf (State.bootReg s off mask value).1.arc.mem = true := by
  unfold State.bootReg
  dsimp only
  repeat' split
  all_goals simp [hw]
@[simp] theorem State_bootEntry_keep (s : State) (r : FolRec) (e : List Word) (sec : Nat) (p : Nat) :
    (State.bootEntry s r e sec p).pending = s.pending ∧ (State.bootEntry s r e sec p).arc.mem = s.arc.mem := by
  unfold State.bootEntry
  dsimp only
  repeat' split
  all_goals simp
@[simp] theorem State_bootItem_pending (s : State) (r : FolRec) (item : List Word) (sec : Nat) : (State.bootItem s r item sec).pending = s.pending := by
  unfold State.bootItem
  split
  · have h := State_bootReg_pending s (folW item 0) (folW item 1) (folW item 2)
    split <;> (next e => rw [e] at h; simpa using h)
  · simp
@[simp] theorem State_bootItem_wf (s : State) (r : FolRec) (item : List Word) (sec : Nat) (hw : Memory.wf s.arc.mem = true) :
    Memory.wf (State.bootItem s r item sec).arc.mem = true := by
  unfold State.bootItem
  split
  · have h := State_bootReg_wf s (folW item 0) (folW item 1) (folW item 2) hw
    split <;> (next e => rw [e] at h; simpa using h)
  · simp [hw]
@[simp] theorem State_bootGo_pending (s : State) (r : FolRec) (ws : List Word) (sec : Nat) (rest : List (Nat × List Word)) : (State.bootGo s r ws sec rest).pending = s.pending := by unfold State.bootGo; simp
@[simp] theorem State_bootGo_wf (s : State) (r : FolRec) (ws : List Word) (sec : Nat) (rest : List (Nat × List Word)) (hw : Memory.wf s.arc.mem = true) :
    Memory.wf (State.bootGo s r ws sec rest).arc.mem = true := by
  unfold State.bootGo
  dsimp only
  repeat' split
  all_goals simp [hw]
@[simp] theorem State_bootEnd_keep (s : State) (st : Nat) :
    (State.bootEnd s st).pending = s.pending ∧ (State.bootEnd s st).arc.mem = s.arc.mem := by unfold State.bootEnd; simp
@[simp] theorem State_shiftOut_keep (s : State) (sel : Bool) (op : JtagOp) (bits : List Bool) :
    (State.shiftOut s sel op bits).pending = s.pending ∧ (State.shiftOut s sel op bits).arc.mem = s.arc.mem := by unfold State.shiftOut; simp
@[simp] theorem State_consume_keep (s : State) (c : Cmd) :
    (State.consume s c).pending = s.pending ∧ (State.consume s c).arc.mem = s.arc.mem := by
  unfold State.consume
  repeat' split
  all_goals simp
@[simp] theorem State_unfetch_keep (s : State) (c : Cmd) :
    (State.unfetch s c).pending = s.pending ∧ (State.unfetch s c).arc.mem = s.arc.mem := by unfold State.unfetch; simp
@[simp] theorem State_begin__keep (s : State) (w : Work) :
    (State.begin_ s w).pending = s.pending ∧ (State.begin_ s w).arc.mem = s.arc.mem := by
  unfold State.begin_
  dsimp only
  repeat' split
  all_goals simp
@[simp] theorem State_claim_keep (s : State) (c : Cmd) :
    (State.claim s c).pending = s.pending ∧ (State.claim s c).arc.mem = s.arc.mem := by unfold State.claim; simp
@[simp] theorem State_claimRound_keep (s : State) (hs : List Cmd) (d : Nat) :
    (State.claimRound s hs d).pending = s.pending ∧ (State.claimRound s hs d).arc.mem = s.arc.mem := by unfold State.claimRound; simp
@[simp] theorem State_loseRound_keep (s : State) (c : Cmd) :
    (State.loseRound s c).pending = s.pending ∧ (State.loseRound s c).arc.mem = s.arc.mem := by unfold State.loseRound; simp
@[simp] theorem State_sameRoundCmds_keep (s : State) :
    (State.sameRoundCmds s).pending = s.pending ∧ (State.sameRoundCmds s).arc.mem = s.arc.mem := by unfold State.sameRoundCmds; simp
@[simp] theorem State_haltNow_keep (s : State) :
    (State.haltNow s).pending = s.pending ∧ (State.haltNow s).arc.mem = s.arc.mem := by unfold State.haltNow; simp
@[simp] theorem State_pickItem_keep (s : State) :
    (State.pickItem s).pending = s.pending ∧ (State.pickItem s).arc.mem = s.arc.mem := by
  unfold State.pickItem
  dsimp only
  repeat' split
  all_goals simp
@[simp] theorem State_gapNote_keep (s : State) :
    (State.gapNote s).pending = s.pending ∧ (State.gapNote s).arc.mem = s.arc.mem := by
  unfold State.gapNote
  dsimp only
  repeat' split
  all_goals simp
@[simp] theorem State_csNote_keep (s : State) (kind : Nat) (addr : Nat) :
    (State.csNote s kind addr).pending = s.pending ∧ (State.csNote s kind addr).arc.mem = s.arc.mem := by unfold State.csNote; simp
@[simp] theorem State_csStop_keep (s : State) (addr : Nat) :
    (State.csStop s addr).pending = s.pending ∧ (State.csStop s addr).arc.mem = s.arc.mem := by
  unfold State.csStop
  dsimp only
  repeat' split
  all_goals simp
@[simp] theorem State_csFetch_keep (s : State) (a : Nat) :
    (State.csFetch s a).pending = s.pending ∧ (State.csFetch s a).arc.mem = s.arc.mem := by
  unfold State.csFetch
  dsimp only
  repeat' split
  all_goals simp
@[simp] theorem State_csExec_keep (s : State) (c : Bool) :
    (State.csExec s c).pending = s.pending ∧ (State.csExec s c).arc.mem = s.arc.mem := by unfold State.csExec; simp
@[simp] theorem State_csRun_keep (s : State) (q0 : List Bool) :
    (State.csRun s q0).pending = s.pending ∧ (State.csRun s q0).arc.mem = s.arc.mem := by fun_induction State.csRun <;> simp_all +zetaDelta
@[simp] theorem State_boundary_keep (s : State) :
    (State.boundary s).pending = s.pending ∧ (State.boundary s).arc.mem = s.arc.mem := by
  unfold State.boundary
  dsimp only
  repeat' split
  all_goals simp
@[simp] theorem State_chunkEnd_keep (s : State) (c : Cmd) (next : Nat) (total : Nat) (acc : Nat) :
    (State.chunkEnd s c next total acc).pending = s.pending ∧ (State.chunkEnd s c next total acc).arc.mem = s.arc.mem := by unfold State.chunkEnd; simp
@[simp] theorem State_holdStep_keep (s : State) (c : Cmd) (next : Nat) (acc : Nat) :
    (State.holdStep s c next acc).pending = s.pending ∧ (State.holdStep s c next acc).arc.mem = s.arc.mem := by unfold State.holdStep; simp
@[simp] theorem State_chunkStep_keep (c : Cmd) (from_ n total : Nat) (r : (State × Nat) × Nat) :
    (State.chunkStep c from_ n total r).pending = r.1.1.pending ∧ (State.chunkStep c from_ n total r).arc.mem = r.1.1.arc.mem := by
  unfold State.chunkStep
  split <;> simp
@[simp] theorem State_giveData_keep (s : State) (c : Cmd) (ws : List Word) :
    (State.giveData s c ws).pending = s.pending ∧ (State.giveData s c ws).arc.mem = s.arc.mem := by
  unfold State.giveData
  repeat' split
  all_goals simp
@[simp] theorem State_readOnlyWords_keep (s : State) (t : Nat) (i : Nat) :
    (State.readOnlyWords s t i).2.pending = s.pending ∧ (State.readOnlyWords s t i).2.arc.mem = s.arc.mem := by
  unfold State.readOnlyWords
  dsimp only
  repeat' split
  all_goals simp
@[simp] theorem State_gateLog_keep (s : State) (c : Cmd) (e : List Word) :
    (State.gateLog s c e).pending = s.pending ∧ (State.gateLog s c e).arc.mem = s.arc.mem := by unfold State.gateLog; simp
@[simp] theorem State_entryWriteCmd_keep (s : State) (c : Cmd) :
    (State.entryWriteCmd s c).1.pending = s.pending ∧ (State.entryWriteCmd s c).1.arc.mem = s.arc.mem := by
  unfold State.entryWriteCmd
  dsimp only
  repeat' split
  all_goals simp
@[simp] theorem State_readEnd_keep (s : State) (c : Cmd) (rep : Nat) (i : Nat) :
    (State.readEnd s c rep i).pending = s.pending ∧ (State.readEnd s c rep i).arc.mem = s.arc.mem := by
  unfold State.readEnd
  dsimp only
  repeat' split
  all_goals simp
@[simp] theorem State_missEnd_keep (s : State) (c : Cmd) (i : Nat) :
    (State.missEnd s c i).pending = s.pending ∧ (State.missEnd s c i).arc.mem = s.arc.mem := by unfold State.missEnd; simp
@[simp] theorem State_entryDeleteCmd_keep (s : State) (c : Cmd) :
    (State.entryDeleteCmd s c).1.pending = s.pending ∧ (State.entryDeleteCmd s c).1.arc.mem = s.arc.mem := by
  unfold State.entryDeleteCmd
  split <;> simp
@[simp] theorem State_hashInsertCmd_keep (s : State) (c : Cmd) :
    (State.hashInsertCmd s c).1.pending = s.pending ∧ (State.hashInsertCmd s c).1.arc.mem = s.arc.mem := by
  unfold State.hashInsertCmd
  split <;> simp
@[simp] theorem State_hashDeleteCmd_keep (s : State) (c : Cmd) :
    (State.hashDeleteCmd s c).1.pending = s.pending ∧ (State.hashDeleteCmd s c).1.arc.mem = s.arc.mem := by
  unfold State.hashDeleteCmd
  split <;> simp
@[simp] theorem State_catNote_keep (s : State) (c : Cmd) (steps : Nat) :
    (State.catNote s c steps).pending = s.pending ∧ (State.catNote s c steps).arc.mem = s.arc.mem := by unfold State.catNote; simp
@[simp] theorem State_catEnd_keep (s : State) (c : Cmd) (steps : Nat) :
    (State.catEnd s c steps).pending = s.pending ∧ (State.catEnd s c steps).arc.mem = s.arc.mem := by unfold State.catEnd; simp
@[simp] theorem State_catStep_keep (s : State) (c : Cmd) (q0 : CatStep) :
    (State.catStep s c q0).pending = s.pending ∧ (State.catStep s c q0).arc.mem = s.arc.mem := by
  unfold State.catStep
  repeat' split
  all_goals simp
@[simp] theorem State_catRun_keep (s : State) (c : Cmd) (most : Nat) (q0 : List CatStep) :
    (State.catRun s c most q0).1.pending = s.pending ∧ (State.catRun s c most q0).1.arc.mem = s.arc.mem := by
  induction q0 generalizing s most with
  | nil => exact ⟨rfl, rfl⟩
  | cons c t ih => unfold State.catRun; split <;> simp [ih]
@[simp] theorem State_catSteps_keep (s : State) (c : Cmd) (most : Nat) (steps : List CatStep) (acc : Nat) (fin : State → State)
    (h : ∀ u, (fin u).pending = u.pending ∧ (fin u).arc.mem = u.arc.mem) :
    (s.catSteps c most steps acc fin).pending = s.pending ∧ (s.catSteps c most steps acc fin).arc.mem = s.arc.mem := by
  unfold State.catSteps
  dsimp only
  split <;> simp [h]
@[simp] theorem State_catInsert_keep (s : State) (c : Cmd) (most : Nat) (e : List Word) (f : Nat) :
    (State.catInsert s c most e f).pending = s.pending ∧ (State.catInsert s c most e f).arc.mem = s.arc.mem := by
  unfold State.catInsert
  dsimp only
  repeat' split
  all_goals simp
@[simp] theorem State_insertCmd_keep (most : Nat) (s : State) (c : Cmd) :
    (State.insertCmd most s c).pending = s.pending ∧ (State.insertCmd most s c).arc.mem = s.arc.mem := by
  unfold State.insertCmd
  dsimp only
  repeat' split
  all_goals simp
@[simp] theorem State_removeCmd_keep (s : State) (c : Cmd) :
    (State.removeCmd s c).1.pending = s.pending ∧ (State.removeCmd s c).1.arc.mem = s.arc.mem := by
  unfold State.removeCmd
  dsimp only
  repeat' split
  all_goals simp
@[simp] theorem State_moveBlock_keep (s : State) (c : Cmd) (most : Nat) (st : Nat) (a : Nat) (n : Nat) (k : Nat) (up : Bool) :
    (State.moveBlock s c most st a n k up).pending = s.pending ∧ (State.moveBlock s c most st a n k up).arc.mem = s.arc.mem := by unfold State.moveBlock; simp
@[simp] theorem State_moveCmd_keep (most : Nat) (s : State) (c : Cmd) :
    (State.moveCmd most s c).pending = s.pending ∧ (State.moveCmd most s c).arc.mem = s.arc.mem := by unfold State.moveCmd; simp
@[simp] theorem State_sweepRow_keep (s : State) (origin : Nat) (eg : Bool) (p : Nat) (a : Nat) (slot : Bool) :
    (State.sweepRow s origin eg p a slot).1.pending = s.pending ∧ (State.sweepRow s origin eg p a slot).1.arc.mem = s.arc.mem := by unfold State.sweepRow; simp
@[simp] theorem State_sweepOne_keep (s : State) (origin : Nat) (slot : Bool) (k : Nat) :
    (State.sweepOne s origin slot k).1.pending = s.pending ∧ (State.sweepOne s origin slot k).1.arc.mem = s.arc.mem := by unfold State.sweepOne; simp
@[simp] theorem State_retireChunk_keep (s : State) (c : Cmd) (slot : Bool) (from_ : Nat) (most : Nat) :
    (State.retireChunk s c slot from_ most).pending = s.pending ∧ (State.retireChunk s c slot from_ most).arc.mem = s.arc.mem := by
  suffices h : ∀ Q : State → Prop, (∀ t, t.pending = s.pending ∧ t.arc.mem = s.arc.mem → Q t) → Q (s.retireChunk c slot from_ most) from
    h (fun x => x.pending = s.pending ∧ x.arc.mem = s.arc.mem) fun t h => h
  intro Q hQ
  unfold State.retireChunk
  extract_lets l r u v
  have hr : r.1.1.pending = s.pending ∧ r.1.1.arc.mem = s.arc.mem := chunkRun_keep _ _ _ _ (by intro x i; simp)
  have hu : u.pending = s.pending ∧ u.arc.mem = s.arc.mem := hr
  clear_value u
  have hv : v.pending = s.pending ∧ v.arc.mem = s.arc.mem := by
    simp only [v]
    split
    · simp [hu]
    · exact hu
  clear_value v
  refine hQ _ ?_
  simp [hv]
theorem State_retireBegin_keep (s : State) (slot : Bool) (resume : Nat) {t : State} (h : s.retireBegin slot resume = some t) :
    t.pending = s.pending ∧ t.arc.mem = s.arc.mem := by
  unfold State.retireBegin at h
  dsimp only at h
  repeat' split at h
  all_goals first
    | (simp only [Option.some.injEq] at h; subst h; simp)
    | simp at h
@[simp] theorem State_retireCmd_keep (most : Nat) (s : State) (c : Cmd) :
    (State.retireCmd most s c).pending = s.pending ∧ (State.retireCmd most s c).arc.mem = s.arc.mem := by
  unfold State.retireCmd
  dsimp only
  split
  · split <;> simp
  split
  · simp
  · split
    · simp
    · next u e => simp [State_retireBegin_keep _ _ _ e]
@[simp] theorem State_ageCmd_keep (hits : List Nat) (most : Nat) (s : State) (c : Cmd) :
    (State.ageCmd hits most s c).pending = s.pending ∧ (State.ageCmd hits most s c).arc.mem = s.arc.mem := by unfold State.ageCmd; simp
@[simp] theorem State_sweepJob_keep (s : State) (p : Nat) (hits : List Nat) (most : Nat) :
    (State.sweepJob s p hits most).pending = s.pending ∧ (State.sweepJob s p hits most).arc.mem = s.arc.mem := by
  unfold State.sweepJob
  dsimp only
  repeat' split
  all_goals simp
@[simp] theorem State_forgetEntry_keep (port : Nat) (x : State × Nat) (i : Nat) :
    (State.forgetEntry port x i).1.pending = x.1.pending ∧ (State.forgetEntry port x i).1.arc.mem = x.1.arc.mem := by unfold State.forgetEntry; simp
@[simp] theorem State_forgetChunk_keep (s : State) (port start next acc most : Nat) :
    (s.forgetChunk port start next acc most).1.1.pending = s.pending ∧ (s.forgetChunk port start next acc most).1.1.arc.mem = s.arc.mem :=
  chunkRun_keep _ _ _ _ (by intro x i; simp)
@[simp] theorem State_forgetJob_keep (s : State) (port : Nat) (most : Nat) :
    (State.forgetJob s port most).pending = s.pending ∧ (State.forgetJob s port most).arc.mem = s.arc.mem := by
  unfold State.forgetJob
  split
  · simp
  · dsimp only
    have h := State_forgetChunk_keep s port 0
    split <;> simp
@[simp] theorem State_forgetCmd_keep (most : Nat) (s : State) (c : Cmd) :
    (State.forgetCmd most s c).pending = s.pending ∧ (State.forgetCmd most s c).arc.mem = s.arc.mem := by unfold State.forgetCmd; simp
@[simp] theorem State_readCounters_keep (s : State) (set : Nat) (first : Nat) (n : Nat) :
    (State.readCounters s set first n).1.pending = s.pending ∧ (State.readCounters s set first n).1.arc.mem = s.arc.mem := by unfold State.readCounters; simp
@[simp] theorem State_resyncBegin_keep (s : State) (h : HostId) (resume : Nat) :
    (State.resyncBegin s h resume).pending = s.pending ∧ (State.resyncBegin s h resume).arc.mem = s.arc.mem := by unfold State.resyncBegin; simp
@[simp] theorem State_resyncStep_keep (s : State) (h : HostId) (c : Cmd) (k : Nat) (most : Nat) :
    (State.resyncStep s h c k most).pending = s.pending ∧ (State.resyncStep s h c k most).arc.mem = s.arc.mem := by
  unfold State.resyncStep
  dsimp only
  split <;> simp
@[simp] theorem State_resyncCmd_keep (most : Nat) (s : State) (c : Cmd) :
    (State.resyncCmd most s c).pending = s.pending ∧ (State.resyncCmd most s c).arc.mem = s.arc.mem := by unfold State.resyncCmd; simp
@[simp] theorem State_oneCut_keep (s : State) (c : Cmd) :
    (State.oneCut s c).pending = s.pending ∧ (State.oneCut s c).arc.mem = s.arc.mem := by
  unfold State.oneCut
  split
  all_goals simp
@[simp] theorem State_stopCut_keep (s : State) (done : Nat) :
    (State.stopCut s done).pending = s.pending ∧ (State.stopCut s done).arc.mem = s.arc.mem := by
  have hm : ∀ op n f, manyCmd op n = some f → ∀ (u : State) c, (f u c).pending = u.pending ∧ (f u c).arc.mem = u.arc.mem := by
    intro op n f hf u c
    unfold manyCmd at hf
    split at hf <;> first | (injection hf with e; subst e; simp) | cases hf
  unfold State.stopCut
  split
  · next c _ =>
    split
    · exact ⟨rfl, rfl⟩
    · split
      · next f hf =>
        dsimp only
        split
        · exact ⟨rfl, rfl⟩
        · simp [hm _ _ _ hf]
      · simp
  all_goals first
    | exact ⟨rfl, rfl⟩
    | (split <;> simp)
@[simp] theorem State_fieldWrite_pending (s : State) (m : Master) (f : Fld) (v : Nat) (p : Nat) (i : Nat) (j : Nat) : (State.fieldWrite s m f v p i j).pending = s.pending := by unfold State.fieldWrite; simp
@[simp] theorem State_fieldWrite_wf (s : State) (m : Master) (f : Fld) (v : Nat) (p : Nat) (i : Nat) (j : Nat) (hw : Memory.wf s.arc.mem = true) :
    Memory.wf (State.fieldWrite s m f v p i j).arc.mem = true := by unfold State.fieldWrite; simp [hw]
@[simp] theorem State_wordWrite_pending (s : State) (m : Master) (r : Reg) (data : Nat) (p : Nat) (i : Nat) (j : Nat) : (State.wordWrite s m r data p i j).pending = s.pending := by unfold State.wordWrite; simp
@[simp] theorem State_wordWrite_wf (s : State) (m : Master) (r : Reg) (data : Nat) (p : Nat) (i : Nat) (j : Nat) (hw : Memory.wf s.arc.mem = true) :
    Memory.wf (State.wordWrite s m r data p i j).arc.mem = true := by unfold State.wordWrite; simp [hw]
@[simp] theorem State_bar2Bad_keep (s : State) (m : Master) (data : Word) :
    (State.bar2Bad s m data).pending = s.pending ∧ (State.bar2Bad s m data).arc.mem = s.arc.mem := by unfold State.bar2Bad; simp
@[simp] theorem State_bar2Write_keep (s : State) (m : Master) (addr : Nat) (single : Bool) (data : Word) :
    (State.bar2Write s m addr single data).pending = s.pending ∧ (State.bar2Write s m addr single data).arc.mem = s.arc.mem := by
  unfold State.bar2Write
  dsimp only
  repeat' split
  all_goals simp
@[simp] theorem State_readTo_keep (s : State) (m : Master) (addr : Nat) :
    (State.readTo s m addr).pending = s.pending ∧ (State.readTo s m addr).arc.mem = s.arc.mem := by
  unfold State.readTo
  split
  · exact ⟨rfl, rfl⟩
  have h := State_regRead_keep s m addr
  split <;> (next e => rw [e] at h; simpa using h)
@[simp] theorem State_sbRefuse_keep (s : State) :
    (State.sbRefuse s).pending = s.pending ∧ (State.sbRefuse s).arc.mem = s.arc.mem := by unfold State.sbRefuse; simp
end Sys2Proof.Machine
end

