-- ==== Sys2Proof/Laws/KeepExec.lean ====
section
/-! SUPPORT. For every command: its next state has the same queue, and archive memory in canonical form. -/
set_option linter.unusedSimpArgs false
set_option linter.unusedVariables false
namespace Sys2Proof.Machine
theorem State_cmdRow_keeps (s : State) (op : Nat) (w : Bool) (f : State → Cmd → State) (h : ∀ u c, Keeps u (f u c)) : Keeps s (s.cmdRow op w f) := by
  unfold State.cmdRow
  split
  · split
    · exact .refl _
    · split
      · exact .of_eq (by simp)
      · split
        · exact .of_eq (by simp)
        · exact (Keeps.of_eq (State_idle_keep s)).trans (h _ _)
  · exact .refl _
theorem State_writeEnd_keeps (c : Cmd) (r : CmdWrite) (s : State) (h : r.1.pending = s.pending ∧ r.1.arc.mem = s.arc.mem) :
    Keeps s (State.writeEnd c r) := by
  unfold State.writeEnd
  exact .of_eq (by simpa using h)
theorem ringPut_keeps (u v : State) (h : HostId) (l : Nat) (e : List (List Word)) (hp : v.pending = u.pending) (ha : v.arc.mem = u.arc.mem) :
    Keeps u (v.ringPut h l e) :=
  .of_eq ⟨(State_ringPut_keep v h l e).1.trans hp, (State_ringPut_keep v h l e).2.trans ha⟩
theorem post_advance_keeps (u v : State) (h : HostId) (c n : Nat) (l : List Nat) (hv : Keeps u v) :
    Keeps u (if n = 0 then v else (l.foldl (fun s e => s.post h e) v).advance h c n) := by
  split
  · exact hv
  · exact hv.trans (.of_eq (by simp))

theorem execGateTransition_keeps (port : Nat) (s : State) {t : State} (h : execGateTransition port s = .next t) : Keeps s t := by unfold execGateTransition at h; cases h; exact ⟨by simp, fun hw => by simp [hw]⟩
theorem execPowerSample_keeps (rails : List Nat) (s : State) {t : State} (h : execPowerSample rails s = .next t) : Keeps s t := by unfold execPowerSample at h; cases h; exact ⟨by simp, fun hw => by simp [hw]⟩
theorem execRationPeriodEnd_keeps (temps : List Int) (s : State) {t : State} (h : execRationPeriodEnd temps s = .next t) : Keeps s t := by unfold execRationPeriodEnd at h; cases h; exact ⟨by simp, fun hw => by simp [hw]⟩
theorem execAllowanceLoad_keeps (s : State) {t : State} (h : execAllowanceLoad s = .next t) : Keeps s t := by unfold execAllowanceLoad at h; cases h; exact ⟨by simp, fun hw => by simp [hw]⟩
theorem execMonitorFail_keeps (s : State) {t : State} (h : execMonitorFail s = .next t) : Keeps s t := by unfold execMonitorFail at h; cases h; exact ⟨by simp, fun hw => by simp [hw]⟩
theorem execMonitorRecover_keeps (s : State) {t : State} (h : execMonitorRecover s = .next t) : Keeps s t := by unfold execMonitorRecover at h; cases h; exact ⟨by simp, fun hw => by simp [hw]⟩
theorem execIngressSlotAssign_keeps (p : Nat) (s : State) {t : State} (h : execIngressSlotAssign p s = .next t) : Keeps s t := by unfold execIngressSlotAssign at h; cases h; exact ⟨by simp, fun hw => by simp [hw]⟩
theorem execSlipLink_keeps (p : Nat) (s : State) {t : State} (h : execSlipLink p s = .next t) : Keeps s t := by
  have e := Host.Outcome.next.inj h
  subst e
  exact ⟨State_linkN_pending .., fun hw => State_linkN_wf (hw := hw) ..⟩
theorem execHarnessSelect_keeps (port : Nat) (s : State) {t : State} (h : execHarnessSelect port s = .next t) : Keeps s t := by unfold execHarnessSelect at h; cases h; exact ⟨by simp, fun hw => by simp [hw]⟩
theorem execEgressSlotAssign_keeps (p : Nat) (s : State) {t : State} (h : execEgressSlotAssign p s = .next t) : Keeps s t := by unfold execEgressSlotAssign at h; cases h; exact ⟨by simp, fun hw => by simp [hw]⟩
theorem execFlowSweep_keeps (p : Nat) (s : State) {t : State} (h : execFlowSweep p s = .next t) : Keeps s t := by
  have e := Host.Outcome.next.inj h
  subst e
  exact State_periodic_keeps _ _ _ _ _ fun u => ⟨by simp, fun hw => by simp [hw]⟩
theorem execPauseExpire_keeps (port : Nat) (prio : Nat) (s : State) {t : State} (h : execPauseExpire port prio s = .next t) : Keeps s t := by
  unfold execPauseExpire at h
  split at h <;> (injection h with e; subst e)
  · split <;> exact ⟨by simp, fun hw => by simp [hw]⟩
  · exact .refl _
theorem execPfcStormDeclare_keeps (port : Nat) (prio : Nat) (s : State) {t : State} (h : execPfcStormDeclare port prio s = .next t) : Keeps s t := by unfold execPfcStormDeclare at h; cases h; exact ⟨by simp, fun hw => by simp [hw]⟩
theorem execPfcStormEnd_keeps (port : Nat) (prio : Nat) (s : State) {t : State} (h : execPfcStormEnd port prio s = .next t) : Keeps s t := by unfold execPfcStormEnd at h; cases h; exact ⟨by simp, fun hw => by simp [hw]⟩
theorem execFrameRxStart_keeps (port : Nat) (phase : Nat) (head : List Byte) (s : State) {t : State} (h : execFrameRxStart port phase head s = .next t) : Keeps s t := by unfold execFrameRxStart at h; cases h; exact ⟨by simp, fun hw => by simp [hw]⟩
theorem execFrameRxEnd_keeps (port : Nat) (tail : List Byte) (fecBad : Bool) (pcsErr : Bool) (s : State) {t : State} (h : execFrameRxEnd port tail fecBad pcsErr s = .next t) : Keeps s t := by
  unfold execFrameRxEnd at h
  dsimp only at h
  repeat' split at h
  all_goals
    cases h
    exact ⟨by simp, fun hw => by simp [hw]⟩
theorem execStallOverrun_keeps (port : Nat) (bytes : List Byte) (s : State) {t : State} (h : execStallOverrun port bytes s = .next t) : Keeps s t := by
  unfold execStallOverrun at h
  dsimp only at h
  repeat' split at h
  all_goals
    cases h
    exact ⟨by simp, fun hw => by simp [hw]⟩
theorem execPauseFrameRx_keeps (port : Nat) (phase : Nat) (frame : List Byte) (fecBad : Bool) (s : State) {t : State} (h : execPauseFrameRx port phase frame fecBad s = .next t) : Keeps s t := by
  unfold execPauseFrameRx at h
  dsimp only at h
  repeat' split at h
  all_goals
    cases h
    exact ⟨by simp, fun hw => by simp [hw]⟩
theorem execFecCodewordDecode_keeps (port : Nat) (syms : List Nat) (uncorr : Bool) (s : State) {t : State} (h : execFecCodewordDecode port syms uncorr s = .next t) : Keeps s t := by
  unfold execFecCodewordDecode at h
  dsimp only at h
  repeat' split at h
  all_goals
    cases h
    exact ⟨by simp, fun hw => by simp [hw]⟩
theorem execFrameTxStart_keeps (port : Nat) (phase : Nat) (s : State) {t : State} (h : execFrameTxStart port phase s = .next t) : Keeps s t := by
  unfold execFrameTxStart at h
  dsimp only at h
  repeat' split at h
  all_goals
    cases h
    exact ⟨by simp, fun hw => by simp [hw]⟩
theorem execFrameTxEnd_keeps (port : Nat) (s : State) {t : State} (h : execFrameTxEnd port s = .next t) : Keeps s t := by
  unfold execFrameTxEnd at h
  dsimp only at h
  repeat' split at h
  all_goals
    cases h
    exact ⟨by simp, fun hw => by simp [hw]⟩
theorem execRecircFifoEnter_keeps (p : Nat) (s : State) {t : State} (h : execRecircFifoEnter p s = .next t) : Keeps s t := by
  unfold execRecircFifoEnter at h
  dsimp only at h
  repeat' split at h
  all_goals
    cases h
    exact ⟨by simp, fun hw => by simp [hw]⟩
theorem execPauseFrameTx_keeps (port : Nat) (s : State) {t : State} (h : execPauseFrameTx port s = .next t) : Keeps s t := by
  unfold execPauseFrameTx at h
  dsimp only at h
  repeat' split at h
  all_goals
    cases h
    exact ⟨by simp, fun hw => by simp [hw]⟩
theorem execPauseRepeat_keeps (port : Nat) (prio : Nat) (s : State) {t : State} (h : execPauseRepeat port prio s = .next t) : Keeps s t := by
  unfold execPauseRepeat at h
  dsimp only at h
  repeat' split at h
  all_goals
    cases h
    exact ⟨by simp, fun hw => by simp [hw]⟩
theorem execLinkRawRise_keeps (port : Nat) (s : State) {t : State} (h : execLinkRawRise port s = .next t) : Keeps s t := by unfold execLinkRawRise at h; cases h; exact ⟨by simp, fun hw => by simp [hw]⟩
theorem execLinkRawFall_keeps (port : Nat) (lane : Nat) (cause : Nat) (s : State) {t : State} (h : execLinkRawFall port lane cause s = .next t) : Keeps s t := by
  unfold execLinkRawFall at h
  cases h
  repeat' split
  all_goals exact ⟨by simp, fun hw => by simp [hw]⟩
theorem execHoldUpExpire_keeps (port : Nat) (s : State) {t : State} (h : execHoldUpExpire port s = .next t) : Keeps s t := by
  unfold execHoldUpExpire at h
  dsimp only at h
  repeat' split at h
  all_goals
    cases h
    exact ⟨by simp, fun hw => by simp [hw]⟩
theorem execDownHoldExpire_keeps (port : Nat) (s : State) {t : State} (h : execDownHoldExpire port s = .next t) : Keeps s t := by
  unfold execDownHoldExpire at h
  dsimp only at h
  repeat' split at h
  all_goals
    cases h
    exact ⟨by simp, fun hw => by simp [hw]⟩
theorem execWalkFree_keeps (port : Nat) (n : Nat) (s : State) {t : State} (h : execWalkFree port n s = .next t) : Keeps s t := by
  unfold execWalkFree at h
  split at h <;> (injection h with e; subst e)
  · exact .refl _
  · exact ⟨State_walkN_pending .., fun hw => State_walkN_wf (hw := hw) ..⟩
theorem execWalkEnd_keeps (port : Nat) (s : State) {t : State} (h : execWalkEnd port s = .next t) : Keeps s t := by
  unfold execWalkEnd at h
  dsimp only at h
  repeat' split at h
  all_goals
    cases h
    exact ⟨by simp, fun hw => by simp [hw]⟩
theorem execOctetReady_keeps (o : Nat) (s : State) {t : State} (h : execOctetReady o s = .next t) : Keeps s t := by
  unfold execOctetReady at h
  dsimp only at h
  repeat' split at h
  all_goals
    cases h
    exact ⟨by simp, fun hw => by simp [hw]⟩
theorem execAnResolve_keeps (port : Nat) (outcome : AnOutcome) (taps : List Word) (s : State) {t : State} (h : execAnResolve port outcome taps s = .next t) : Keeps s t := by
  unfold execAnResolve at h
  dsimp only at h
  repeat' split at h
  all_goals
    cases h
    exact ⟨by simp, fun hw => by simp [hw]⟩
theorem execCounterRestore_keeps (set : Nat) (elem : Nat) (idx : Nat) (s : State) {t : State} (h : execCounterRestore set elem idx s = .next t) : Keeps s t := by unfold execCounterRestore at h; cases h; exact ⟨by simp, fun hw => by simp [hw]⟩
theorem execSnapshotScanStart_keeps (s : State) {t : State} (h : execSnapshotScanStart s = .next t) : Keeps s t := by
  unfold execSnapshotScanStart at h
  dsimp only at h
  repeat' split at h
  all_goals
    cases h
    exact ⟨by simp, fun hw => by simp [hw]⟩
theorem execSnapshotComplete_keeps (s : State) {t : State} (h : execSnapshotComplete s = .next t) : Keeps s t := by
  unfold execSnapshotComplete at h
  split at h
  · injection h with e; subst e; exact .refl _
  · split at h <;> (injection h with e; subst e)
    · exact .refl _
    · exact State_archUnit_keeps _ _ _ fun u => ⟨by simp, fun hw => by simp [hw]⟩
theorem execEditionDrained_keeps (slot : Bool) (s : State) {t : State} (h : execEditionDrained slot s = .next t) : Keeps s t := by unfold execEditionDrained at h; cases h; exact ⟨by simp, fun hw => by simp [hw]⟩
theorem execDrainTimeout_keeps (slot : Bool) (s : State) {t : State} (h : execDrainTimeout slot s = .next t) : Keeps s t := by unfold execDrainTimeout at h; cases h; exact ⟨by simp, fun hw => by simp [hw]⟩
theorem execEdStuck_keeps (slot : Bool) (s : State) {t : State} (h : execEdStuck slot s = .next t) : Keeps s t := by unfold execEdStuck at h; cases h; exact ⟨by simp, fun hw => by simp [hw]⟩
theorem execTackPendingLoad_keeps (s : State) {t : State} (h : execTackPendingLoad s = .next t) : Keeps s t := by
  unfold execTackPendingLoad at h
  cases h
  repeat' split
  all_goals exact ⟨by simp, fun hw => by simp [hw]⟩
theorem execGpioPulseEnd_keeps (i : Nat) (s : State) {t : State} (h : execGpioPulseEnd i s = .next t) : Keeps s t := by
  unfold execGpioPulseEnd at h
  dsimp only at h
  repeat' split at h
  all_goals
    cases h
    exact ⟨by simp, fun hw => by simp [hw]⟩
theorem execTriggerFire_keeps (slot : Nat) (s : State) {t : State} (h : execTriggerFire slot s = .next t) : Keeps s t := by
  unfold execTriggerFire at h
  cases h
  repeat' split
  all_goals exact ⟨by simp, fun hw => by simp [hw]⟩
theorem execRefQualify_keeps (s : State) {t : State} (h : execRefQualify s = .next t) : Keeps s t := by unfold execRefQualify at h; cases h; exact ⟨by simp, fun hw => by simp [hw]⟩
theorem execRefDisqualify_keeps (s : State) {t : State} (h : execRefDisqualify s = .next t) : Keeps s t := by
  unfold execRefDisqualify at h
  cases h
  repeat' split
  all_goals exact ⟨by simp, fun hw => by simp [hw]⟩
theorem execPpsLoss_keeps (s : State) {t : State} (h : execPpsLoss s = .next t) : Keeps s t := by unfold execPpsLoss at h; cases h; exact ⟨by simp, fun hw => by simp [hw]⟩
theorem execTclkUnlock_keeps (s : State) {t : State} (h : execTclkUnlock s = .next t) : Keeps s t := by unfold execTclkUnlock at h; cases h; exact ⟨by simp, fun hw => by simp [hw]⟩
theorem execCourseTimeApply_keeps (s : State) {t : State} (h : execCourseTimeApply s = .next t) : Keeps s t := by
  unfold execCourseTimeApply at h
  dsimp only at h
  repeat' split at h
  all_goals
    cases h
    exact ⟨by simp, fun hw => by simp [hw]⟩
theorem execSetAtPpsTimeout_keeps (s : State) {t : State} (h : execSetAtPpsTimeout s = .next t) : Keeps s t := by
  unfold execSetAtPpsTimeout at h
  cases h
  repeat' split
  all_goals exact ⟨by simp, fun hw => by simp [hw]⟩
theorem execPpsInEdge_keeps (phase : Nat) (s : State) {t : State} (h : execPpsInEdge phase s = .next t) : Keeps s t := by
  unfold execPpsInEdge at h
  cases h
  repeat' split
  all_goals exact ⟨by simp, fun hw => by simp [hw]⟩
theorem execPpsEdgeValidate_keeps (stayed : Bool) (s : State) {t : State} (h : execPpsEdgeValidate stayed s = .next t) : Keeps s t := by
  unfold execPpsEdgeValidate at h
  dsimp only at h
  repeat' split at h
  all_goals
    cases h
    exact ⟨by simp, fun hw => by simp [hw]⟩
theorem execTodMessageRx_keeps (bytes : List Byte) (s : State) {t : State} (h : execTodMessageRx bytes s = .next t) : Keeps s t := by
  unfold execTodMessageRx at h
  dsimp only at h
  repeat' split at h
  all_goals
    cases h
    exact ⟨by simp, fun hw => by simp [hw]⟩
theorem execTodRxTimeout_keeps (s : State) {t : State} (h : execTodRxTimeout s = .next t) : Keeps s t := by unfold execTodRxTimeout at h; cases h; exact ⟨by simp, fun hw => by simp [hw]⟩
theorem execPpsOutRise_keeps (s : State) {t : State} (h : execPpsOutRise s = .next t) : Keeps s t := by unfold execPpsOutRise at h; cases h; exact ⟨by simp, fun hw => by simp [hw]⟩
theorem execPpsOutFall_keeps (s : State) {t : State} (h : execPpsOutFall s = .next t) : Keeps s t := by unfold execPpsOutFall at h; cases h; exact ⟨by simp, fun hw => by simp [hw]⟩
theorem execTodTxSend_keeps (s : State) {t : State} (h : execTodTxSend s = .next t) : Keeps s t := by unfold execTodTxSend at h; cases h; exact ⟨by simp, fun hw => by simp [hw]⟩
theorem execCalibrationRun_keeps (p : Nat) (s : State) {t : State} (h : execCalibrationRun p s = .next t) : Keeps s t := by unfold execCalibrationRun at h; cases h; exact ⟨by simp, fun hw => by simp [hw]⟩
theorem execCalibrationComplete_keeps (p : Nat) (trip : Int) (s : State) {t : State} (h : execCalibrationComplete p trip s = .next t) : Keeps s t := by
  unfold execCalibrationComplete at h
  dsimp only at h
  repeat' split at h
  all_goals
    cases h
    exact ⟨by simp, fun hw => by simp [hw]⟩
theorem execCalibrationTimeout_keeps (p : Nat) (s : State) {t : State} (h : execCalibrationTimeout p s = .next t) : Keeps s t := by unfold execCalibrationTimeout at h; cases h; exact ⟨by simp, fun hw => by simp [hw]⟩
theorem execTclkPllLock_keeps (s : State) {t : State} (h : execTclkPllLock s = .next t) : Keeps s t := by unfold execTclkPllLock at h; cases h; exact ⟨by simp, fun hw => by simp [hw]⟩
theorem execGpioCapture_keeps (i : Nat) (phase : Nat) (s : State) {t : State} (h : execGpioCapture i phase s = .next t) : Keeps s t := by
  unfold execGpioCapture at h
  dsimp only at h
  repeat' split at h
  all_goals
    cases h
    exact ⟨by simp, fun hw => by simp [hw]⟩
theorem execSynceFailover_keeps (j : Nat) (s : State) {t : State} (h : execSynceFailover j s = .next t) : Keeps s t := by unfold execSynceFailover at h; cases h; exact ⟨by simp, fun hw => by simp [hw]⟩
theorem execDramRequest_keeps (req : Nat) (write : Bool) (addr : Nat) (data : List Byte) (enables : List Bool) (s : State) {t : State} (h : execDramRequest req write addr data enables s = .next t) : Keeps s t := by unfold execDramRequest at h; cases h; exact ⟨by simp, fun hw => by simp [hw]⟩
theorem execDramRefresh_keeps (u : Nat) (s : State) {t : State} (h : execDramRefresh u s = .next t) : Keeps s t := by unfold execDramRefresh at h; cases h; exact ⟨by simp, fun hw => by simp [hw]⟩
theorem execMr4Poll_keeps (u : Nat) (twice : Bool) (s : State) {t : State} (h : execMr4Poll u twice s = .next t) : Keeps s t := by
  unfold execMr4Poll at h
  cases h
  repeat' split
  all_goals exact ⟨by simp, fun hw => by simp [hw]⟩
theorem execDramSchedule_keeps (u : Nat) (ecc : List (Nat × List Nat)) (s : State) {t : State} (h : execDramSchedule u ecc s = .next t) : Keeps s t := by
  unfold execDramSchedule at h
  cases h
  dsimp only
  repeat' split
  all_goals exact ⟨by simp, fun hw => by simp [hw]⟩
theorem execDramTrainDone_keeps (fails : Nat) (s : State) {t : State} (h : execDramTrainDone fails s = .next t) : Keeps s t := by unfold execDramTrainDone at h; cases h; exact ⟨by simp, fun hw => by simp [hw]⟩
theorem execZqCalibration_keeps (u : Nat) (s : State) {t : State} (h : execZqCalibration u s = .next t) : Keeps s t := by unfold execZqCalibration at h; cases h; exact ⟨by simp, fun hw => by simp [hw]⟩
theorem execDqsRetrain_keeps (u : Nat) (moved : Bool) (s : State) {t : State} (h : execDqsRetrain u moved s = .next t) : Keeps s t := by unfold execDqsRetrain at h; cases h; exact ⟨by simp, fun hw => by simp [hw]⟩
theorem execPatrolScrub_keeps (ecc : List (Nat × List Nat)) (s : State) {t : State} (h : execPatrolScrub ecc s = .next t) : Keeps s t := by
  unfold execPatrolScrub at h
  cases h
  repeat' split
  all_goals exact ⟨by simp, fun hw => by simp [hw]⟩
theorem execAlertReplay_keeps (u : Nat) (place : BankPlace) (failing : Bool) (s : State) {t : State} (h : execAlertReplay u place failing s = .next t) : Keeps s t := by
  unfold execAlertReplay at h
  cases h
  repeat' split
  all_goals exact ⟨by simp, fun hw => by simp [hw]⟩
theorem execReaderScrub_keeps (p : Nat) (s : State) {t : State} (h : execReaderScrub p s = .next t) : Keeps s t := by unfold execReaderScrub at h; cases h; exact ⟨by simp, fun hw => by simp [hw]⟩
theorem execOverflowScrub_keeps (unit : Nat) (s : State) {t : State} (h : execOverflowScrub unit s = .next t) : Keeps s t := by unfold execOverflowScrub at h; cases h; exact ⟨by simp, fun hw => by simp [hw]⟩
theorem execBucketScrub_keeps (unit : Nat) (s : State) {t : State} (h : execBucketScrub unit s = .next t) : Keeps s t := by unfold execBucketScrub at h; cases h; exact ⟨by simp, fun hw => by simp [hw]⟩
theorem execCatScrub_keeps (p : Nat) (s : State) {t : State} (h : execCatScrub p s = .next t) : Keeps s t := by unfold execCatScrub at h; cases h; exact ⟨by simp, fun hw => by simp [hw]⟩
theorem execFarScrub_keeps (p : Nat) (s : State) {t : State} (h : execFarScrub p s = .next t) : Keeps s t := by unfold execFarScrub at h; cases h; exact ⟨by simp, fun hw => by simp [hw]⟩
theorem execLearnInsert_keeps (p : Nat) (s : State) {t : State} (h : execLearnInsert p s = .next t) : Keeps s t := by unfold execLearnInsert at h; cases h; exact ⟨by simp, fun hw => by simp [hw]⟩
theorem execAgeSweepStart_keeps (p : Nat) (s : State) {t : State} (h : execAgeSweepStart p s = .next t) : Keeps s t := by unfold execAgeSweepStart at h; cases h; exact ⟨by simp, fun hw => by simp [hw]⟩
theorem execMirrorStall_keeps (h : HostId) (s : State) {t : State} (h : execMirrorStall h s = .next t) : Keeps s t := by unfold execMirrorStall at h; cases h; exact ⟨by simp, fun hw => by simp [hw]⟩
theorem execResyncChunk_keeps (s : State) {t : State} (h : execResyncChunk s = .next t) : Keeps s t := by
  unfold execResyncChunk at h
  cases h
  repeat' split
  all_goals exact ⟨by simp, fun hw => by simp [hw]⟩
theorem execRepairReadIssue_keeps (s : State) {t : State} (h : execRepairReadIssue s = .next t) : Keeps s t := by
  unfold execRepairReadIssue at h
  cases h
  repeat' split
  all_goals exact ⟨by simp, fun hw => by simp [hw]⟩
theorem execRepairRecordReturn_keeps (tag : Nat) (r : HostRead) (ws : List Word) (s : State) {t : State} (h : execRepairRecordReturn tag r ws s = .next t) : Keeps s t := by
  unfold execRepairRecordReturn at h
  cases h
  repeat' split
  all_goals exact ⟨by simp, fun hw => by simp [hw]⟩
theorem execRepairWrite_keeps (s : State) {t : State} (h : execRepairWrite s = .next t) : Keeps s t := by
  unfold execRepairWrite at h
  cases h
  repeat' split
  all_goals exact ⟨by simp, fun hw => by simp [hw]⟩
theorem execFenceTimeout_keeps (tag : Nat) (p : Nat) (s : State) {t : State} (h : execFenceTimeout tag p s = .next t) : Keeps s t := by
  unfold execFenceTimeout at h
  cases h
  repeat' split
  all_goals exact ⟨by simp, fun hw => by simp [hw]⟩
theorem execHostLost_keeps (h : HostId) (why : HostLoss) (s : State) {t : State} (h : execHostLost h why s = .next t) : Keeps s t := by
  unfold execHostLost at h
  cases h
  repeat' split
  all_goals exact ⟨by simp, fun hw => by simp [hw]⟩
theorem execHostLinkReturn_keeps (h : HostId) (speed : Nat) (width : Nat) (flit : Bool) (s : State) {t : State} (h : execHostLinkReturn h speed width flit s = .next t) : Keeps s t := by unfold execHostLinkReturn at h; cases h; exact ⟨by simp, fun hw => by simp [hw]⟩
theorem execPerstRelease_keeps (h : HostId) (s : State) {t : State} (h : execPerstRelease h s = .next t) : Keeps s t := by unfold execPerstRelease at h; cases h; exact ⟨by simp, fun hw => by simp [hw]⟩
theorem execDmaReadTimeout_keeps (h : HostId) (s : State) {t : State} (h : execDmaReadTimeout h s = .next t) : Keeps s t := by unfold execDmaReadTimeout at h; cases h; exact ⟨by simp, fun hw => by simp [hw]⟩
theorem execPcieLinkError_keeps (h : HostId) (e : PcieError) (s : State) {t : State} (h : execPcieLinkError h e s = .next t) : Keeps s t := by
  unfold execPcieLinkError at h
  cases h
  repeat' split
  all_goals exact ⟨by simp, fun hw => by simp [hw]⟩
theorem execDoorbellWrite_keeps (h : HostId) (c : Nat) (v : Word) (s : State) {t : State} (h : execDoorbellWrite h c v s = .next t) : Keeps s t := by unfold execDoorbellWrite at h; cases h; exact ⟨by simp, fun hw => by simp [hw]⟩
theorem execMsixModTimeout_keeps (c : Nat) (s : State) {t : State} (h : execMsixModTimeout c s = .next t) : Keeps s t := by unfold execMsixModTimeout at h; cases h; exact ⟨by simp, fun hw => by simp [hw]⟩
theorem execCompletionWrite_keeps (h : HostId) (pr : Bool) (s : State) {t : State} (h : execCompletionWrite h pr s = .next t) : Keeps s t := by
  have e := Host.Outcome.next.inj h
  subst e
  exact State_unit_keeps _ _ _ fun u => .of_eq (by simp)
theorem execEventWrite_keeps (h : HostId) (s : State) {t : State} (h : execEventWrite h s = .next t) : Keeps s t := by
  have e := Host.Outcome.next.inj h
  subst e
  refine State_unit_keeps _ _ _ fun u => ?_
  suffices k : ∀ Q : State → Prop, (∀ t, Keeps u t → Q t) → Q _ from k (Keeps u) fun t h => h
  intro Q hQ
  extract_lets q n w u1
  have h1 : u1.pending = u.pending := rfl
  have h2 : u1.arc.mem = u.arc.mem := rfl
  clear_value u1 n q
  exact hQ _ (ringPut_keeps u u1 _ _ _ h1 h2)
theorem execMirrorWrite_keeps (h : HostId) (s : State) {t : State} (h : execMirrorWrite h s = .next t) : Keeps s t := by
  have e := Host.Outcome.next.inj h
  subst e
  exact State_unit_keeps _ _ _ fun u => .of_eq (by simp)
theorem execPuntDeliver_keeps (h : HostId) (s : State) {t : State} (h : execPuntDeliver h s = .next t) : Keeps s t := by unfold execPuntDeliver at h; cases h; exact ⟨by simp, fun hw => by simp [hw]⟩
theorem execCaptureDeliver_keeps (s : State) {t : State} (h : execCaptureDeliver s = .next t) : Keeps s t := by unfold execCaptureDeliver at h; cases h; exact ⟨by simp, fun hw => by simp [hw]⟩
theorem execInjectFrame_keeps (h : HostId) (j : Nat) (d : List Word) (r : HostRead) (frame : List Byte) (s : State) {t : State} (h : execInjectFrame h j d r frame s = .next t) : Keeps s t := by
  have e := Host.Outcome.next.inj h
  subst e
  refine State_unit_keeps _ _ _ fun u => ?_
  suffices k : ∀ Q : State → Prop, (∀ t, Keeps u t → Q t) → Q _ from k (Keeps u) fun t h => h
  intro Q hQ
  extract_lets p u1 body u2 u3
  have h1 : Keeps u u1 := .of_eq (by simp [u1])
  clear_value u1
  have h2 : Keeps u u3 := h1.trans (.of_eq (by simp [u3, u2]))
  clear_value u3
  split
  · exact hQ _ (h1.trans (.of_eq (by simp)))
  split
  · refine hQ _ (h1.trans (.of_eq ?_))
    split <;> simp
  split
  · exact hQ _ (h2.trans ⟨by simp, fun hw => by simp [hw]⟩)
  · exact hQ _ (h2.trans ⟨by simp, fun hw => by simp [hw]⟩)
theorem execBufferPost_keeps (h : HostId) (entries : List Nat) (s : State) {t : State} (h : execBufferPost h entries s = .next t) : Keeps s t := by
  have e := Host.Outcome.next.inj h
  subst e
  refine State_unit_keeps _ _ _ fun u => ?_
  generalize chanOf _ 20 = c
  exact post_advance_keeps u _ _ c _ _ (.of_eq (State_ringRead_keep u _ c _ _ 8))
theorem execExportWrite_keeps (h : HostId) (j : Nat) (ecc : List (Nat × List Nat)) (s : State) {t : State} (h : execExportWrite h j ecc s = .next t) : Keeps s t := by
  unfold execExportWrite at h
  cases h
  repeat' split
  all_goals exact ⟨by simp, fun hw => by simp [hw]⟩
theorem execBulkTransfer_keeps (h : HostId) (j : Nat) (d : List Word) (r : HostRead) (data : List Byte) (ecc : List (Nat × List Nat)) (s : State) {t : State} (h : execBulkTransfer h j d r data ecc s = .next t) : Keeps s t := by
  unfold execBulkTransfer at h
  cases h
  split
  · split
    · split
      · exact ⟨by simp, fun hw => by simp [hw]⟩
      · exact .refl _
    · next u _ =>
      suffices k : ∀ Q : State → Prop, (∀ t, Keeps s t → Q t) → Q _ from k (Keeps s) fun t h => h
      intro Q hQ
      extract_lets u st m
      have h1 : Keeps s u := ⟨by simp [u], fun hw => by simp [u, hw]⟩
      have h2 : Keeps s m.1 := h1.trans ⟨by simp [m], fun hw => by simp [m, hw]⟩
      clear_value m u
      split
      · exact hQ _ (h1.trans (.of_eq (by simp)))
      split
      · exact hQ _ (h2.trans (.of_eq (by simp)))
      · exact hQ _ (h1.trans (.of_eq (by simp)))
  · exact .refl _
theorem execFaultEvent_keeps (slot : Nat) (s : State) {t : State} (h : execFaultEvent slot s = .next t) : Keeps s t := by
  unfold execFaultEvent at h
  cases h
  dsimp only
  repeat' split
  all_goals exact ⟨by simp, fun hw => by simp [hw]⟩
theorem execFaultInChange_keeps (k : Nat) (high : Bool) (s : State) {t : State} (h : execFaultInChange k high s = .next t) : Keeps s t := by unfold execFaultInChange at h; cases h; exact ⟨by simp, fun hw => by simp [hw]⟩
theorem execQuietPeriodEnd_keeps (id : Nat) (s : State) {t : State} (h : execQuietPeriodEnd id s = .next t) : Keeps s t := by
  have e := Host.Outcome.next.inj h
  subst e
  dsimp only
  split
  · exact .refl _
  · split
    · exact ⟨by simp, fun hw => by simp [hw]⟩
    · exact .of_eq (by simp)
theorem execClockStopped_keeps (k : Nat) (s : State) {t : State} (h : execClockStopped k s = .next t) : Keeps s t := by unfold execClockStopped at h; cases h; exact ⟨by simp, fun hw => by simp [hw]⟩
theorem execCrossingHung_keeps (x : Nat) (s : State) {t : State} (h : execCrossingHung x s = .next t) : Keeps s t := by
  unfold execCrossingHung at h
  cases h
  repeat' split
  all_goals exact ⟨by simp, fun hw => by simp [hw]⟩
theorem execD2dLinkUp_keeps (p : Nat) (s : State) {t : State} (h : execD2dLinkUp p s = .next t) : Keeps s t := by unfold execD2dLinkUp at h; cases h; exact ⟨by simp, fun hw => by simp [hw]⟩
theorem execD2dFlitError_keeps (p : Nat) (corrected : Bool) (lanes : List Nat) (s : State) {t : State} (h : execD2dFlitError p corrected lanes s = .next t) : Keeps s t := by
  unfold execD2dFlitError at h
  cases h
  dsimp only
  repeat' split
  all_goals exact ⟨by simp, fun hw => by simp [hw]⟩
theorem execD2dRetrain_keeps (p : Nat) (s : State) {t : State} (h : execD2dRetrain p s = .next t) : Keeps s t := by
  unfold execD2dRetrain at h
  cases h
  repeat' split
  all_goals exact ⟨by simp, fun hw => by simp [hw]⟩
theorem execD2dLinkPllUnlock_keeps (p : Nat) (s : State) {t : State} (h : execD2dLinkPllUnlock p s = .next t) : Keeps s t := by unfold execD2dLinkPllUnlock at h; cases h; exact ⟨by simp, fun hw => by simp [hw]⟩
theorem execCclkPllUnlock_keeps (s : State) {t : State} (h : execCclkPllUnlock s = .next t) : Keeps s t := by unfold execCclkPllUnlock at h; cases h; exact ⟨by simp, fun hw => by simp [hw]⟩
theorem execDclkPllUnlock_keeps (s : State) {t : State} (h : execDclkPllUnlock s = .next t) : Keeps s t := by unfold execDclkPllUnlock at h; cases h; exact ⟨by simp, fun hw => by simp [hw]⟩
theorem execSerdesPllUnlock_keeps (p : Nat) (s : State) {t : State} (h : execSerdesPllUnlock p s = .next t) : Keeps s t := by unfold execSerdesPllUnlock at h; cases h; exact ⟨by simp, fun hw => by simp [hw]⟩
theorem execColdReset_keeps (pwrgood : Bool) (s : State) {t : State} (h : execColdReset pwrgood s = .next t) : Keeps s t := by unfold execColdReset at h; cases h; exact ⟨by simp, fun hw => by simp [hw]⟩
theorem execResetRelease_keeps (tackSel : Nat) (hostMode : Nat) (bootSrc : Nat) (s : State) {t : State} (h : execResetRelease tackSel hostMode bootSrc s = .next t) : Keeps s t := by unfold execResetRelease at h; cases h; exact ⟨by simp, fun hw => by simp [hw]⟩
theorem execRefMgmtLoss_keeps (s : State) {t : State} (h : execRefMgmtLoss s = .next t) : Keeps s t := by unfold execRefMgmtLoss at h; cases h; exact ⟨by simp, fun hw => by simp [hw]⟩
theorem execRefMgmtRecover_keeps (s : State) {t : State} (h : execRefMgmtRecover s = .next t) : Keeps s t := by unfold execRefMgmtRecover at h; cases h; exact ⟨by simp, fun hw => by simp [hw]⟩
theorem execWarmResetRelease_keeps (s : State) {t : State} (h : execWarmResetRelease s = .next t) : Keeps s t := by
  unfold execWarmResetRelease at h
  cases h
  repeat' split
  all_goals exact ⟨by simp, fun hw => by simp [hw]⟩
theorem execClockStart_keeps (k : Nat) (s : State) {t : State} (h : execClockStart k s = .next t) : Keeps s t := by
  unfold execClockStart at h
  cases h
  repeat' split
  all_goals exact ⟨by simp, fun hw => by simp [hw]⟩
theorem execPllRelock_keeps (which : Pll) (s : State) {t : State} (h : execPllRelock which s = .next t) : Keeps s t := by
  unfold execPllRelock at h
  cases h
  repeat' split
  all_goals exact ⟨by simp, fun hw => by simp [hw]⟩
theorem execBootFusesDone_keeps (fuses : Fuses) (vdd : Nat) (s : State) {t : State} (h : execBootFusesDone fuses vdd s = .next t) : Keeps s t := by
  have e := Host.Outcome.next.inj h
  subst e
  suffices k : ∀ Q : State → Prop, (∀ t, Keeps s t → Q t) → Q _ from k (Keeps s) fun t h => h
  intro Q hQ
  extract_lets x x1 f burnt s1 z1 z2 s2 s3 s4 n short z3
  split
  · exact hQ _ (.refl _)
  have h1 : Keeps s s1 := .of_eq (by simp [s1])
  clear_value s1
  have h2 : Keeps s s2 := h1.trans (.of_eq ⟨rfl, rfl⟩)
  clear_value s2
  have h3 : Keeps s s3 := h2.trans (.of_eq (by simp [s3]))
  clear_value s3
  have h4 : Keeps s s4 := by
    simp only [s4]
    split
    · exact h3
    · exact h3.trans (.of_eq (by simp))
  clear_value s4
  exact hQ _ (h4.trans ⟨by simp, fun hw => by simp [hw]⟩)
theorem execBootHeadersRead_keeps (size : Nat) (second : Bool) (headA : List Word) (headB : List Word) (s : State) {t : State} (h : execBootHeadersRead size second headA headB s = .next t) : Keeps s t := by unfold execBootHeadersRead at h; cases h; exact ⟨by simp, fun hw => by simp [hw]⟩
theorem execBootVerifyDone_keeps (copy : List Word) (again : List Word) (s : State) {t : State} (h : execBootVerifyDone copy again s = .next t) : Keeps s t := by
  unfold execBootVerifyDone at h
  cases h
  dsimp only
  repeat' split
  all_goals exact ⟨by simp, fun hw => by simp [hw]⟩
theorem execBootApplyRecord_keeps (s : State) {t : State} (h : execBootApplyRecord s = .next t) : Keeps s t := by
  unfold execBootApplyRecord at h
  cases h
  repeat' split
  all_goals exact ⟨by simp, fun hw => by simp [hw]⟩
theorem execBootWaitDone_keeps (s : State) {t : State} (h : execBootWaitDone s = .next t) : Keeps s t := by
  unfold execBootWaitDone at h
  cases h
  repeat' split
  all_goals exact ⟨by simp, fun hw => by simp [hw]⟩
theorem execBootApplyEnd_keeps (again : List Word) (s : State) {t : State} (h : execBootApplyEnd again s = .next t) : Keeps s t := by unfold execBootApplyEnd at h; cases h; exact ⟨by simp, fun hw => by simp [hw]⟩
theorem execFlashOpDone_keeps (ok_ : Bool) (data : List Word) (s : State) {t : State} (h : execFlashOpDone ok_ data s = .next t) : Keeps s t := by
  unfold execFlashOpDone at h
  cases h
  repeat' split
  all_goals exact ⟨by simp, fun hw => by simp [hw]⟩
theorem execOtpProgramDone_keeps (s : State) {t : State} (h : execOtpProgramDone s = .next t) : Keeps s t := by
  unfold execOtpProgramDone at h
  cases h
  repeat' split
  all_goals exact ⟨by simp, fun hw => by simp [hw]⟩
theorem execJtagInstruction_keeps (sel : Bool) (op : JtagOp) (s : State) {t : State} (h : execJtagInstruction sel op s = .next t) : Keeps s t := by
  unfold execJtagInstruction at h
  dsimp only at h
  repeat' split at h
  all_goals
    cases h
    repeat' split
    all_goals exact ⟨by simp, fun hw => by simp [hw]⟩
theorem execCommandFetch_keeps (h : HostId) (pr : Bool) (ws : List Word) (r : HostRead) (data : List Word) (s : State) {t : State} (h : execCommandFetch h pr ws r data s = .next t) : Keeps s t := by
  have e := Host.Outcome.next.inj h
  subst e
  exact State_unit_keeps _ _ _ fun u => .of_eq (by simp)
theorem execClerkBoundary_keeps (conds : List Bool) (s : State) {t : State} (h : execClerkBoundary conds s = .next t) : Keeps s t := by unfold execClerkBoundary at h; cases h; exact ⟨by simp, fun hw => by simp [hw]⟩
theorem execStepOverrun_keeps (s : State) {t : State} (h : execStepOverrun s = .next t) : Keeps s t := by
  unfold execStepOverrun at h
  cases h
  repeat' split
  all_goals exact ⟨by simp, fun hw => by simp [hw]⟩
theorem execEntryWrite_keeps (s : State) {t : State} (h : execEntryWrite s = .next t) : Keeps s t := by
  unfold execEntryWrite at h
  cases h
  exact State_cmdRow_keeps _ _ _ _ fun u c => State_writeEnd_keeps _ _ _ (State_entryWriteCmd_keep u c)
theorem execEntryRead_keeps (s : State) {t : State} (h : execEntryRead s = .next t) : Keeps s t := by
  unfold execEntryRead at h
  cases h
  exact State_cmdRow_keeps _ _ _ _ fun u c => ⟨by simp, fun hw => by simp [hw]⟩
theorem execEntryDelete_keeps (s : State) {t : State} (h : execEntryDelete s = .next t) : Keeps s t := by
  unfold execEntryDelete at h
  cases h
  exact State_cmdRow_keeps _ _ _ _ fun u c => State_writeEnd_keeps _ _ _ (State_entryDeleteCmd_keep u c)
theorem execHashInsert_keeps (s : State) {t : State} (h : execHashInsert s = .next t) : Keeps s t := by
  unfold execHashInsert at h
  cases h
  exact State_cmdRow_keeps _ _ _ _ fun u c => State_writeEnd_keeps _ _ _ (State_hashInsertCmd_keep u c)
theorem execHashLookup_keeps (s : State) {t : State} (h : execHashLookup s = .next t) : Keeps s t := by
  unfold execHashLookup at h
  cases h
  refine State_cmdRow_keeps _ _ _ _ fun u c => ?_
  repeat' split
  all_goals exact ⟨by simp, fun hw => by simp [hw]⟩
theorem execHashDelete_keeps (s : State) {t : State} (h : execHashDelete s = .next t) : Keeps s t := by
  unfold execHashDelete at h
  cases h
  exact State_cmdRow_keeps _ _ _ _ fun u c => State_writeEnd_keeps _ _ _ (State_hashDeleteCmd_keep u c)
theorem execCatInsert_keeps (s : State) {t : State} (h : execCatInsert s = .next t) : Keeps s t := by
  unfold execCatInsert at h
  cases h
  exact State_cmdRow_keeps _ _ _ _ fun u c => .of_eq (by simp)
theorem execCatRemove_keeps (s : State) {t : State} (h : execCatRemove s = .next t) : Keeps s t := by
  unfold execCatRemove at h
  cases h
  exact State_cmdRow_keeps _ _ _ _ fun u c => State_writeEnd_keeps _ _ _ (State_removeCmd_keep u c)
theorem execCatMoveBlock_keeps (s : State) {t : State} (h : execCatMoveBlock s = .next t) : Keeps s t := by
  unfold execCatMoveBlock at h
  cases h
  exact State_cmdRow_keeps _ _ _ _ fun u c => .of_eq (by simp)
theorem execNop_keeps (s : State) {t : State} (h : execNop s = .next t) : Keeps s t := by
  unfold execNop at h
  cases h
  exact State_cmdRow_keeps _ _ _ _ fun u c => ⟨by simp, fun hw => by simp [hw]⟩
theorem execFence_keeps (s : State) {t : State} (h : execFence s = .next t) : Keeps s t := by
  unfold execFence at h
  cases h
  exact State_cmdRow_keeps _ _ _ _ fun u c => ⟨by simp, fun hw => by simp [hw]⟩
theorem execRegWrite_keeps (s : State) {t : State} (h : execRegWrite s = .next t) : Keeps s t := by
  unfold execRegWrite at h
  cases h
  refine State_cmdRow_keeps _ _ _ _ fun u c => ?_
  dsimp only
  repeat' split
  all_goals exact ⟨by simp, fun hw => by simp [hw]⟩
theorem execRegRead_keeps (s : State) {t : State} (h : execRegRead s = .next t) : Keeps s t := by
  unfold execRegRead at h
  cases h
  refine State_cmdRow_keeps _ _ _ _ fun u c => ?_
  dsimp only
  repeat' split
  all_goals exact ⟨by simp, fun hw => by simp [hw]⟩
theorem execEditionOpen_keeps (s : State) {t : State} (h : execEditionOpen s = .next t) : Keeps s t := by
  unfold execEditionOpen at h
  cases h
  exact State_cmdRow_keeps _ _ _ _ fun u c => ⟨by simp, fun hw => by simp [hw]⟩
theorem execEditionArm_keeps (s : State) {t : State} (h : execEditionArm s = .next t) : Keeps s t := by
  unfold execEditionArm at h
  cases h
  refine State_cmdRow_keeps _ _ _ _ fun u c => ?_
  dsimp only
  repeat' split
  all_goals exact ⟨by simp, fun hw => by simp [hw]⟩
theorem execEditionRetire_keeps (s : State) {t : State} (h : execEditionRetire s = .next t) : Keeps s t := by
  unfold execEditionRetire at h
  cases h
  exact State_cmdRow_keeps _ _ _ _ fun u c => .of_eq (State_retireCmd_keep ..)
theorem execAgeSweep_keeps (s : State) {t : State} (h : execAgeSweep s = .next t) : Keeps s t := by
  unfold execAgeSweep at h
  cases h
  exact State_cmdRow_keeps _ _ _ _ fun u c => .of_eq (State_ageCmd_keep ..)
theorem execAgeSweepChunk_keeps (hits : List Nat) (s : State) {t : State} (h : execAgeSweepChunk hits s = .next t) : Keeps s t := by
  unfold execAgeSweepChunk at h
  cases h
  split
  · exact .of_eq (State_sweepJob_keep ..)
  · exact State_cmdRow_keeps _ _ _ _ fun u c => .of_eq (State_ageCmd_keep ..)
  · exact .refl _
theorem execPortForget_keeps (s : State) {t : State} (h : execPortForget s = .next t) : Keeps s t := by
  unfold execPortForget at h
  cases h
  split
  · exact .of_eq (State_forgetJob_keep ..)
  · exact State_cmdRow_keeps _ _ _ _ fun u c => .of_eq (State_forgetCmd_keep ..)
theorem execScrub_keeps (s : State) {t : State} (h : execScrub s = .next t) : Keeps s t := by
  unfold execScrub at h
  cases h
  refine State_cmdRow_keeps _ _ _ _ fun u c => ?_
  dsimp only
  split
  · exact .of_eq (by simp)
  · refine .of_eq ?_
    simp only [State_chunkEnd_keep]
    exact keep_foldl1 _ _ _ (by intro x i; split <;> simp)
theorem execSnapshotAt_keeps (s : State) {t : State} (h : execSnapshotAt s = .next t) : Keeps s t := by
  unfold execSnapshotAt at h
  cases h
  refine State_cmdRow_keeps _ _ _ _ fun u c => ?_
  dsimp only
  repeat' split
  all_goals exact ⟨by simp, fun hw => by simp [hw]⟩
theorem execCounterRead_keeps (s : State) {t : State} (h : execCounterRead s = .next t) : Keeps s t := by
  unfold execCounterRead at h
  cases h
  exact State_cmdRow_keeps _ _ _ _ fun u c => ⟨by simp, fun hw => by simp [hw]⟩
theorem execTackSelectAt_keeps (s : State) {t : State} (h : execTackSelectAt s = .next t) : Keeps s t := by
  unfold execTackSelectAt at h
  cases h
  refine State_cmdRow_keeps _ _ _ _ fun u c => ?_
  dsimp only
  repeat' split
  all_goals exact ⟨by simp, fun hw => by simp [hw]⟩
theorem execPatchLoad_keeps (s : State) {t : State} (h : execPatchLoad s = .next t) : Keeps s t := by
  unfold execPatchLoad at h
  cases h
  exact State_cmdRow_keeps _ _ _ _ fun u c => ⟨by simp, fun hw => by simp [hw]⟩
theorem execPatchVerifyDone_keeps (key : List Word) (s : State) {t : State} (h : execPatchVerifyDone key s = .next t) : Keeps s t := by
  unfold execPatchVerifyDone at h
  cases h
  repeat' split
  all_goals exact ⟨by simp, fun hw => by simp [hw]⟩
theorem execPatchInstall_keeps (s : State) {t : State} (h : execPatchInstall s = .next t) : Keeps s t := by
  unfold execPatchInstall at h
  cases h
  repeat' split
  all_goals exact ⟨by simp, fun hw => by simp [hw]⟩
theorem execMirrorResync_keeps (s : State) {t : State} (h : execMirrorResync s = .next t) : Keeps s t := by
  unfold execMirrorResync at h
  cases h
  exact State_cmdRow_keeps _ _ _ _ fun u c => ⟨by simp, fun hw => by simp [hw]⟩
theorem execPortAdmin_keeps (s : State) {t : State} (h : execPortAdmin s = .next t) : Keeps s t := by
  unfold execPortAdmin at h
  cases h
  refine State_cmdRow_keeps _ _ _ _ fun u c => ?_
  dsimp only
  repeat' split
  all_goals exact ⟨by simp, fun hw => by simp [hw]⟩
theorem execClaimDomain_keeps (s : State) {t : State} (h : execClaimDomain s = .next t) : Keeps s t := by
  unfold execClaimDomain at h
  cases h
  exact State_cmdRow_keeps _ _ _ _ fun u c => .of_eq (by simp)
theorem execClerkStop_keeps (stop : CsStop) (s : State) {t : State} (h : execClerkStop stop s = .next t) : Keeps s t := by unfold execClerkStop at h; cases h; exact ⟨by simp, fun hw => by simp [hw]⟩
theorem execRegisterWrite_keeps (m : Master) (bar : Bar) (addr : Nat) (single : Bool) (data : Word) (s : State) {t : State} (h : execRegisterWrite m bar addr single data s = .next t) : Keeps s t := by
  unfold execRegisterWrite at h
  cases h
  repeat' split
  all_goals exact ⟨by simp, fun hw => by simp [hw]⟩
theorem execLatchedWordRead_keeps (m : Master) (bar : Bar) (addr : Nat) (single : Bool) (s : State) {t : State} (h : execLatchedWordRead m bar addr single s = .next t) : Keeps s t := by
  unfold execLatchedWordRead at h
  cases h
  repeat' split
  all_goals exact ⟨by simp, fun hw => by simp [hw]⟩
theorem execTsFifoRead_keeps (m : Master) (port : Nat) (s : State) {t : State} (h : execTsFifoRead m port s = .next t) : Keeps s t := by unfold execTsFifoRead at h; cases h; exact ⟨by simp, fun hw => by simp [hw]⟩
theorem execRejectLogRead_keeps (m : Master) (s : State) {t : State} (h : execRejectLogRead m s = .next t) : Keeps s t := by unfold execRejectLogRead at h; cases h; exact ⟨by simp, fun hw => by simp [hw]⟩
theorem execWatermarkReset_keeps (m : Master) (addr : Nat) (data : Word) (s : State) {t : State} (h : execWatermarkReset m addr data s = .next t) : Keeps s t := by
  unfold execWatermarkReset at h
  cases h
  repeat' split
  all_goals exact ⟨by simp, fun hw => by simp [hw]⟩
theorem execExpertGateWrite_keeps (m : Master) (addr : Nat) (key : Nat) (s : State) {t : State} (h : execExpertGateWrite m addr key s = .next t) : Keeps s t := by
  unfold execExpertGateWrite at h
  cases h
  repeat' split
  all_goals exact ⟨by simp, fun hw => by simp [hw]⟩
theorem execExpertGateExpire_keeps (s : State) {t : State} (h : execExpertGateExpire s = .next t) : Keeps s t := by unfold execExpertGateExpire at h; cases h; exact ⟨by simp, fun hw => by simp [hw]⟩
theorem execSetNow_keeps (m : Master) (s : State) {t : State} (h : execSetNow m s = .next t) : Keeps s t := by unfold execSetNow at h; cases h; exact ⟨by simp, fun hw => by simp [hw]⟩
theorem execSetAtPps_keeps (m : Master) (s : State) {t : State} (h : execSetAtPps m s = .next t) : Keeps s t := by unfold execSetAtPps at h; cases h; exact ⟨by simp, fun hw => by simp [hw]⟩
theorem execStep_keeps (m : Master) (s : State) {t : State} (h : execStep m s = .next t) : Keeps s t := by unfold execStep at h; cases h; exact ⟨by simp, fun hw => by simp [hw]⟩
theorem execClear_keeps (m : Master) (s : State) {t : State} (h : execClear m s = .next t) : Keeps s t := by unfold execClear at h; cases h; exact ⟨by simp, fun hw => by simp [hw]⟩
theorem execTimFreqWrite_keeps (m : Master) (data : Word) (s : State) {t : State} (h : execTimFreqWrite m data s = .next t) : Keeps s t := by unfold execTimFreqWrite at h; cases h; exact ⟨by simp, fun hw => by simp [hw]⟩
theorem execRunNow_keeps (m : Master) (s : State) {t : State} (h : execRunNow m s = .next t) : Keeps s t := by unfold execRunNow at h; cases h; exact ⟨by simp, fun hw => by simp [hw]⟩
theorem execTriggerArm_keeps (m : Master) (slot : Nat) (kind : Nat) (s : State) {t : State} (h : execTriggerArm m slot kind s = .next t) : Keeps s t := by unfold execTriggerArm at h; cases h; exact ⟨by simp, fun hw => by simp [hw]⟩
theorem execTriggerCancel_keeps (m : Master) (slot : Nat) (s : State) {t : State} (h : execTriggerCancel m slot s = .next t) : Keeps s t := by unfold execTriggerCancel at h; cases h; exact ⟨by simp, fun hw => by simp [hw]⟩
theorem execOctetModeApply_keeps (m : Master) (o : Nat) (data : Word) (s : State) {t : State} (h : execOctetModeApply m o data s = .next t) : Keeps s t := by unfold execOctetModeApply at h; cases h; exact ⟨by simp, fun hw => by simp [hw]⟩
theorem execAdminWrite_keeps (m : Master) (port : Nat) (on : Bool) (s : State) {t : State} (h : execAdminWrite m port on s = .next t) : Keeps s t := by unfold execAdminWrite at h; cases h; exact ⟨by simp, fun hw => by simp [hw]⟩
theorem execMirrorEnable_keeps (m : Master) (enA : Bool) (enB : Bool) (s : State) {t : State} (h : execMirrorEnable m enA enB s = .next t) : Keeps s t := by unfold execMirrorEnable at h; cases h; exact ⟨by simp, fun hw => by simp [hw]⟩
theorem execStableEnable_keeps (m : Master) (s : State) {t : State} (h : execStableEnable m s = .next t) : Keeps s t := by unfold execStableEnable at h; cases h; exact ⟨by simp, fun hw => by simp [hw]⟩
theorem execStableReady_keeps (s : State) {t : State} (h : execStableReady s = .next t) : Keeps s t := by unfold execStableReady at h; cases h; exact ⟨by simp, fun hw => by simp [hw]⟩
theorem execSnapDisable_keeps (m : Master) (s : State) {t : State} (h : execSnapDisable m s = .next t) : Keeps s t := by unfold execSnapDisable at h; cases h; exact ⟨by simp, fun hw => by simp [hw]⟩
theorem execFlowFlush_keeps (m : Master) (p : Nat) (s : State) {t : State} (h : execFlowFlush m p s = .next t) : Keeps s t := by unfold execFlowFlush at h; cases h; exact ⟨by simp, fun hw => by simp [hw]⟩
theorem execCaptureStop_keeps (m : Master) (s : State) {t : State} (h : execCaptureStop m s = .next t) : Keeps s t := by unfold execCaptureStop at h; cases h; exact ⟨by simp, fun hw => by simp [hw]⟩
theorem execCaptureRearm_keeps (m : Master) (s : State) {t : State} (h : execCaptureRearm m s = .next t) : Keeps s t := by unfold execCaptureRearm at h; cases h; exact ⟨by simp, fun hw => by simp [hw]⟩
theorem execDramTrainStart_keeps (m : Master) (s : State) {t : State} (h : execDramTrainStart m s = .next t) : Keeps s t := by unfold execDramTrainStart at h; cases h; exact ⟨by simp, fun hw => by simp [hw]⟩
theorem execChannelEnable_keeps (m : Master) (c : Nat) (s : State) {t : State} (h : execChannelEnable m c s = .next t) : Keeps s t := by unfold execChannelEnable at h; cases h; exact ⟨by simp, fun hw => by simp [hw]⟩
theorem execChannelStop_keeps (m : Master) (c : Nat) (s : State) {t : State} (h : execChannelStop m c s = .next t) : Keeps s t := by unfold execChannelStop at h; cases h; exact ⟨by simp, fun hw => by simp [hw]⟩
theorem execPoolDisable_keeps (m : Master) (k : Nat) (s : State) {t : State} (h : execPoolDisable m k s = .next t) : Keeps s t := by unfold execPoolDisable at h; cases h; exact ⟨by simp, fun hw => by simp [hw]⟩
theorem execOwnerCas_keeps (m : Master) (data : Word) (s : State) {t : State} (h : execOwnerCas m data s = .next t) : Keeps s t := by unfold execOwnerCas at h; cases h; exact ⟨by simp, fun hw => by simp [hw]⟩
theorem execHaltRequest_keeps (m : Master) (on : Bool) (s : State) {t : State} (h : execHaltRequest m on s = .next t) : Keeps s t := by unfold execHaltRequest at h; cases h; exact ⟨by simp, fun hw => by simp [hw]⟩
theorem execTawGo_keeps (m : Master) (s : State) {t : State} (h : execTawGo m s = .next t) : Keeps s t := by unfold execTawGo at h; cases h; exact ⟨by simp, fun hw => by simp [hw]⟩
theorem execFlashOp_keeps (m : Master) (cs : Nat) (op : Nat) (s : State) {t : State} (h : execFlashOp m cs op s = .next t) : Keeps s t := by unfold execFlashOp at h; cases h; exact ⟨by simp, fun hw => by simp [hw]⟩
theorem execOtpProgram_keeps (m : Master) (bit : Nat) (vfuse : Bool) (s : State) {t : State} (h : execOtpProgram m bit vfuse s = .next t) : Keeps s t := by unfold execOtpProgram at h; cases h; exact ⟨by simp, fun hw => by simp [hw]⟩
theorem execWarmReset_keeps (m : Master) (key : Nat) (s : State) {t : State} (h : execWarmReset m key s = .next t) : Keeps s t := by unfold execWarmReset at h; cases h; exact ⟨by simp, fun hw => by simp [hw]⟩
theorem execDomainClear_keeps (m : Master) (domain : Nat) (s : State) {t : State} (h : execDomainClear m domain s = .next t) : Keeps s t := by unfold execDomainClear at h; cases h; exact ⟨by simp, fun hw => by simp [hw]⟩
theorem execFaultForce_keeps (m : Master) (j : Nat) (data : Word) (s : State) {t : State} (h : execFaultForce m j data s = .next t) : Keeps s t := by unfold execFaultForce at h; cases h; exact ⟨by simp, fun hw => by simp [hw]⟩
theorem execErrorInject_keeps (m : Master) (data : Word) (s : State) {t : State} (h : execErrorInject m data s = .next t) : Keeps s t := by unfold execErrorInject at h; cases h; exact ⟨by simp, fun hw => by simp [hw]⟩
theorem execClockStop_keeps (m : Master) (data : Word) (s : State) {t : State} (h : execClockStop m data s = .next t) : Keeps s t := by unfold execClockStop at h; cases h; exact ⟨by simp, fun hw => by simp [hw]⟩
theorem execCrossingReset_keeps (m : Master) (data : Word) (s : State) {t : State} (h : execCrossingReset m data s = .next t) : Keeps s t := by unfold execCrossingReset at h; cases h; exact ⟨by simp, fun hw => by simp [hw]⟩
theorem execChipletReset_keeps (m : Master) (data : Word) (s : State) {t : State} (h : execChipletReset m data s = .next t) : Keeps s t := by unfold execChipletReset at h; cases h; exact ⟨by simp, fun hw => by simp [hw]⟩
theorem execSidebandWrite_keeps (addr7 : Nat) (bytes : List Byte) (s : State) {t : State} (h : execSidebandWrite addr7 bytes s = .next t) : Keeps s t := by
  unfold execSidebandWrite at h
  cases h
  dsimp only
  repeat' split
  all_goals exact ⟨by simp, fun hw => by simp [hw]⟩
theorem execSidebandRead_keeps (addr7 : Nat) (bytes : List Byte) (s : State) {t : State} (h : execSidebandRead addr7 bytes s = .next t) : Keeps s t := by
  unfold execSidebandRead at h
  cases h
  split
  · exact .of_eq ⟨rfl, rfl⟩
  split
  · exact .of_eq ⟨rfl, rfl⟩
  dsimp only
  split
  · exact .of_eq ⟨rfl, rfl⟩
  · have e := State_regRead_keep s .sb (lowFirst (bytes.drop 1))
    split <;> (next q => rw [q] at e; exact .of_eq (by simpa using e))
theorem execAlertResponse_keeps (s : State) {t : State} (h : execAlertResponse s = .next t) : Keeps s t := by unfold execAlertResponse at h; cases h; exact ⟨by simp, fun hw => by simp [hw]⟩
theorem execSidebandTimeout_keeps (s : State) {t : State} (h : execSidebandTimeout s = .next t) : Keeps s t := by unfold execSidebandTimeout at h; cases h; exact ⟨by simp, fun hw => by simp [hw]⟩
end Sys2Proof.Machine
end

