-- ==== Sys2Proof/Laws/Maps.lean ====
section
/-! SUPPORT. What the association lists and the bit fields do: a key reads what was last stored at it, other keys are untouched, and a field of a
number reads what was placed in it while the fields beside it stay. -/
namespace Sys2Proof.Machine

variable {κ α : Type} [DecidableEq κ]

@[simp] theorem AMap.get?_erase_self (m : AMap κ α) (k : κ) : AMap.get? (AMap.erase m k) k = none := by
  induction m with
  | nil => rfl
  | cons x t ih =>
    obtain ⟨k', v⟩ := x
    by_cases h : k' = k
    · simp [AMap.erase, h, ih]
    · simp [AMap.erase, AMap.get?, h, ih]

theorem AMap.get?_erase_ne (m : AMap κ α) {k k' : κ} (h : k' ≠ k) : AMap.get? (AMap.erase m k) k' = AMap.get? m k' := by
  induction m with
  | nil => rfl
  | cons x t ih =>
    obtain ⟨q, v⟩ := x
    by_cases hq : q = k
    · subst hq; simp [AMap.erase, AMap.get?, ih, Ne.symm h]
    · by_cases hr : q = k'
      · subst hr; simp [AMap.erase, AMap.get?, hq]
      · simp [AMap.erase, AMap.get?, hq, hr, ih]

@[simp] theorem AMap.get?_set_self (m : AMap κ α) (k : κ) (v : α) : AMap.get? (AMap.set m k v) k = some v := by
  simp [AMap.set, AMap.get?]

theorem AMap.get?_set_ne (m : AMap κ α) {k k' : κ} (v : α) (h : k' ≠ k) : AMap.get? (AMap.set m k v) k' = AMap.get? m k' := by
  simp [AMap.set, AMap.get?, Ne.symm h, AMap.get?_erase_ne m h]

@[simp] theorem AMap.getD_set_self (m : AMap κ α) (k : κ) (v d : α) : AMap.getD (AMap.set m k v) k d = v := by
  simp [AMap.getD]

theorem AMap.getD_set_ne (m : AMap κ α) {k k' : κ} (v d : α) (h : k' ≠ k) : AMap.getD (AMap.set m k v) k' d = AMap.getD m k' d := by
  simp [AMap.getD, AMap.get?_set_ne m v h]

@[simp] theorem AMap.getD_erase_self (m : AMap κ α) (k : κ) (d : α) : AMap.getD (AMap.erase m k) k d = d := by
  simp [AMap.getD]

theorem AMap.getD_erase_ne (m : AMap κ α) {k k' : κ} (d : α) (h : k' ≠ k) : AMap.getD (AMap.erase m k) k' d = AMap.getD m k' d := by
  simp [AMap.getD, AMap.get?_erase_ne m h]

/-- A field placed in a number reads back, cut to its width. -/
theorem bitsOf_setBits_self (n hi lo v : Nat) : bitsOf (setBits n hi lo v) hi lo = v % 2 ^ (hi + 1 - lo) := by
  unfold bitsOf setBits bitsOf
  have hp : 0 < 2 ^ lo := Nat.two_pow_pos lo
  have hw : 0 < 2 ^ (hi + 1 - lo) := Nat.two_pow_pos _
  generalize 2 ^ (hi + 1 - lo) = W at *
  generalize 2 ^ lo = L at *
  have e : n = L * (n / L) + n % L := (Nat.div_add_mod n L).symm
  have e2 : n / L = W * (n / L / W) + n / L % W := (Nat.div_add_mod (n / L) W).symm
  have hr : n % L < L := Nat.mod_lt _ hp
  have hv : v % W < W := Nat.mod_lt _ hw
  have : n - n / L % W * L + v % W * L = (W * (n / L / W) + v % W) * L + n % L := by
    have : n = (W * (n / L / W) + n / L % W) * L + n % L := by
      rw [← e2, Nat.mul_comm]; exact e
    calc n - n / L % W * L + v % W * L
        = ((W * (n / L / W) + n / L % W) * L + n % L) - n / L % W * L + v % W * L := by rw [← this]
      _ = (W * (n / L / W) + v % W) * L + n % L := by
        rw [Nat.add_mul, Nat.add_mul]; omega
  rw [this, Nat.add_comm _ (n % L), Nat.add_mul_div_right _ _ hp, Nat.div_eq_of_lt hr, Nat.zero_add,
    Nat.mul_add_mod, Nat.mod_mod]

/-- Bits below or above a field are what they were. -/
theorem bitsOf_setBits_other (n hi lo v a b : Nat) (h : a < lo ∨ hi < b) (hb : b ≤ a + 1) (hl : lo ≤ hi + 1) :
    bitsOf (setBits n hi lo v) a b = bitsOf n a b := by
  unfold bitsOf setBits bitsOf
  have hL : 0 < 2 ^ lo := Nat.two_pow_pos lo
  have hW : 0 < 2 ^ (hi + 1 - lo) := Nat.two_pow_pos _
  have hv : v % 2 ^ (hi + 1 - lo) < 2 ^ (hi + 1 - lo) := Nat.mod_lt _ hW
  have key : n - n / 2 ^ lo % 2 ^ (hi + 1 - lo) * 2 ^ lo + v % 2 ^ (hi + 1 - lo) * 2 ^ lo =
      (n / 2 ^ lo / 2 ^ (hi + 1 - lo) * 2 ^ (hi + 1 - lo) + v % 2 ^ (hi + 1 - lo)) * 2 ^ lo + n % 2 ^ lo := by
    generalize hWW : 2 ^ (hi + 1 - lo) = W at *
    generalize 2 ^ lo = L at *
    have e : n = (W * (n / L / W) + n / L % W) * L + n % L := by
      rw [Nat.div_add_mod (n / L) W, Nat.mul_comm]; exact (Nat.div_add_mod n L).symm
    calc n - n / L % W * L + v % W * L
        = ((W * (n / L / W) + n / L % W) * L + n % L) - n / L % W * L + v % W * L := by rw [← e]
      _ = (n / L / W * W + v % W) * L + n % L := by
        rw [Nat.add_mul, Nat.add_mul, Nat.mul_comm W]; omega
  rw [key]
  rcases h with h | h
  · -- the bits lie below the field
    have e1 : 2 ^ lo = 2 ^ b * 2 ^ (lo - b) := by rw [← Nat.pow_add]; congr 1; omega
    have e2 : 2 ^ (lo - b) = 2 ^ (a + 1 - b) * 2 ^ (lo - a - 1) := by rw [← Nat.pow_add]; congr 1; omega
    generalize n / 2 ^ lo / 2 ^ (hi + 1 - lo) * 2 ^ (hi + 1 - lo) + v % 2 ^ (hi + 1 - lo) = q
    have hn : n / 2 ^ b % 2 ^ (a + 1 - b) = n % 2 ^ lo / 2 ^ b % 2 ^ (a + 1 - b) := by
      conv => lhs; rw [← Nat.div_add_mod n (2 ^ lo)]
      rw [e1, Nat.mul_assoc, Nat.mul_add_div (Nat.two_pow_pos b), e2, Nat.mul_assoc, Nat.mul_add_mod]
    rw [hn]
    have : q * 2 ^ lo + n % 2 ^ lo = 2 ^ b * (2 ^ (lo - b) * q) + n % 2 ^ lo := by
      rw [← Nat.mul_assoc, ← e1, Nat.mul_comm]
    rw [this, Nat.mul_add_div (Nat.two_pow_pos b), e2, Nat.mul_assoc, Nat.mul_add_mod]
  · -- the bits lie above the field
    have e1 : 2 ^ b = 2 ^ (hi + 1) * 2 ^ (b - hi - 1) := by rw [← Nat.pow_add]; congr 1; omega
    have e2 : 2 ^ (hi + 1) = 2 ^ lo * 2 ^ (hi + 1 - lo) := by rw [← Nat.pow_add]; congr 1; omega
    congr 1
    rw [e1, ← Nat.div_div_eq_div_mul, ← Nat.div_div_eq_div_mul, e2, ← Nat.div_div_eq_div_mul, ← Nat.div_div_eq_div_mul]
    congr 1
    rw [Nat.add_comm _ (n % 2 ^ lo), Nat.add_mul_div_right _ _ hL, Nat.div_eq_of_lt (Nat.mod_lt n hL), Nat.zero_add,
      Nat.add_comm, Nat.add_mul_div_right _ _ hW, Nat.div_eq_of_lt hv, Nat.zero_add]

/-- Placing a field keeps a number of w bits within w bits. -/
theorem setBits_lt (n hi lo v w : Nat) (hn : n < 2 ^ w) (hh : hi < w) (hl : lo ≤ hi + 1) : setBits n hi lo v < 2 ^ w := by
  have hhigh : bitsOf (setBits n hi lo v) (w + (setBits n hi lo v)) w = bitsOf n (w + (setBits n hi lo v)) w :=
    bitsOf_setBits_other n hi lo v _ w (Or.inr hh) (by omega) hl
  unfold bitsOf at hhigh
  rw [Nat.div_eq_of_lt hn, Nat.zero_mod] at hhigh
  have hp : 0 < 2 ^ w := Nat.two_pow_pos w
  rcases Nat.lt_or_ge (setBits n hi lo v) (2 ^ w) with h | h
  · exact h
  · exfalso
    generalize setBits n hi lo v = x at *
    have hx : x / 2 ^ w < 2 ^ (w + x + 1 - w) :=
      Nat.lt_of_le_of_lt (Nat.div_le_self _ _) (Nat.lt_of_lt_of_le Nat.lt_two_pow_self (Nat.pow_le_pow_right (by omega) (by omega)))
    rw [Nat.mod_eq_of_lt hx] at hhigh
    have := Nat.div_pos h hp
    omega

end Sys2Proof.Machine
end

