-- ==== Sys2Proof/Laws/Registers.lean ====
section
/-! SUPPORT. Registers: a word or field written reads back, cut to its width, and every other register and field stays. -/
namespace Sys2Proof.Machine

@[simp] theorem State.setRg_regs (s : State) (r : Reg) (w : Word) (p i j k : Nat) :
    (s.setRg r w p i j k).regs = AMap.set s.regs ⟨r, p, i, j, k⟩ w := rfl

/-- A register word written reads back. -/
@[simp] theorem State.rg_setRg_self (s : State) (r : Reg) (w : Word) (p i j k : Nat) : (s.setRg r w p i j k).rg r p i j k = w := by
  simp [State.rg]

/-- A write of one register word leaves the word of every other register or index. -/
theorem State.rg_setRg_ne (s : State) {r r' : Reg} (w : Word) {p i j k p' i' j' k' : Nat}
    (h : ¬(r' = r ∧ p' = p ∧ i' = i ∧ j' = j ∧ k' = k)) : (s.setRg r w p i j k).rg r' p' i' j' k' = s.rg r' p' i' j' k' := by
  unfold State.rg
  rw [State.setRg_regs, AMap.getD_set_ne]
  simpa using h

theorem State.rg_setRg (s : State) (r r' : Reg) (w : Word) (p i j k p' i' j' k' : Nat) :
    (s.setRg r w p i j k).rg r' p' i' j' k' = if r' = r ∧ p' = p ∧ i' = i ∧ j' = j ∧ k' = k then w else s.rg r' p' i' j' k' := by
  split
  · next h => obtain ⟨rfl, rfl, rfl, rfl, rfl⟩ := h; simp
  · next h => exact State.rg_setRg_ne s w h

/-- A register reads by the register store alone. -/
theorem State.rg_congr {s t : State} (h : t.regs = s.regs) (r : Reg) (p i j k : Nat) : t.rg r p i j k = s.rg r p i j k := by
  simp [State.rg, h]

/-- A field reads by the register store alone. -/
theorem State.rd_congr {s t : State} (h : t.regs = s.regs) (f : Fld) (p i j k : Nat) : t.rd f p i j k = s.rd f p i j k := by
  simp [State.rd, State.rg_congr h]

/-- Two fields that share no bit of a register. -/
abbrev Fld.apart (f g : Fld) : Prop := g.reg ≠ f.reg ∨ g.hi < f.lo ∨ f.hi < g.lo

theorem State.wr_word (s : State) (f : Fld) (v p i j k : Nat) (h : f.ok) :
    ((s.wr f v p i j k).rg f.reg p i j k).toNat = setBits (s.rg f.reg p i j k).toNat f.hi f.lo v := by
  unfold State.wr
  rw [State.rg_setRg_self]
  show setBits _ _ _ _ % 2 ^ 32 = _
  exact Nat.mod_eq_of_lt (setBits_lt _ _ _ _ 32 (BitVec.isLt _) h.1 (by have := h.2; omega))

/-- A field written reads back, cut to its width. -/
theorem State.rd_wr_self (s : State) (f : Fld) (v p i j k : Nat) (h : f.ok) :
    (s.wr f v p i j k).rd f p i j k = v % 2 ^ (f.hi + 1 - f.lo) := by
  unfold State.rd
  rw [State.wr_word s f v p i j k h, bitsOf_setBits_self]

/-- A write of a field leaves every field that shares no bit with it. -/
theorem State.rd_wr_apart (s : State) (f g : Fld) (v p i j k p' i' j' k' : Nat) (hf : f.ok) (hg : g.ok) (h : f.apart g) :
    (s.wr f v p i j k).rd g p' i' j' k' = s.rd g p' i' j' k' := by
  unfold State.rd
  by_cases e : g.reg = f.reg ∧ p' = p ∧ i' = i ∧ j' = j ∧ k' = k
  · obtain ⟨e1, rfl, rfl, rfl, rfl⟩ := e
    rw [e1, State.wr_word s f v _ _ _ _ hf]
    have hg1 := hg.1
    have hg2 := hg.2
    have hf2 := hf.2
    refine bitsOf_setBits_other _ _ _ _ _ _ ?_ (by omega) (by omega)
    rcases h with h | h | h
    · exact absurd e1 h
    · exact Or.inl h
    · exact Or.inr h
  · unfold State.wr
    rw [State.rg_setRg_ne _ _ e]

/-- A write of a field at one index leaves every field at another. -/
theorem State.rd_wr_index (s : State) (f g : Fld) (v p i j k p' i' j' k' : Nat) (h : ¬(p' = p ∧ i' = i ∧ j' = j ∧ k' = k)) :
    (s.wr f v p i j k).rd g p' i' j' k' = s.rd g p' i' j' k' := by
  unfold State.rd State.wr
  rw [State.rg_setRg_ne _ _ (fun e => h e.2)]

/-- A write of a field leaves the word of every other register. -/
theorem State.rg_wr_ne (s : State) (f : Fld) (v p i j k : Nat) {r' : Reg} {p' i' j' k' : Nat}
    (h : ¬(r' = f.reg ∧ p' = p ∧ i' = i ∧ j' = j ∧ k' = k)) : (s.wr f v p i j k).rg r' p' i' j' k' = s.rg r' p' i' j' k' :=
  State.rg_setRg_ne s _ h

/-- A saturating field counts up to its largest value. -/
theorem State.rd_addSat_self (s : State) (f : Fld) (n p i j k : Nat) (h : f.ok) :
    (s.addSat f n p i j k).rd f p i j k = min (2 ^ (f.hi + 1 - f.lo) - 1) (s.rd f p i j k + n) := by
  unfold State.addSat satAdd
  rw [State.rd_wr_self _ _ _ _ _ _ _ h]
  apply Nat.mod_eq_of_lt
  have : 0 < 2 ^ (f.hi + 1 - f.lo) := Nat.two_pow_pos _
  omega

/-- A wrapping field counts modulo its width. -/
theorem State.rd_addWrap_self (s : State) (f : Fld) (n p i j k : Nat) (h : f.ok) :
    (s.addWrap f n p i j k).rd f p i j k = (s.rd f p i j k + n) % 2 ^ (f.hi + 1 - f.lo) :=
  State.rd_wr_self _ _ _ _ _ _ _ h

theorem State.rd_addSat_apart (s : State) (f g : Fld) (v p i j k p' i' j' k' : Nat) (hf : f.ok) (hg : g.ok) (h : f.apart g) :
    (s.addSat f v p i j k).rd g p' i' j' k' = s.rd g p' i' j' k' := State.rd_wr_apart _ _ _ _ _ _ _ _ _ _ _ _ hf hg h

theorem State.rd_addWrap_apart (s : State) (f g : Fld) (v p i j k p' i' j' k' : Nat) (hf : f.ok) (hg : g.ok) (h : f.apart g) :
    (s.addWrap f v p i j k).rd g p' i' j' k' = s.rd g p' i' j' k' := State.rd_wr_apart _ _ _ _ _ _ _ _ _ _ _ _ hf hg h

theorem State.rg_addSat_ne (s : State) (f : Fld) (v p i j k : Nat) {r' : Reg} {p' i' j' k' : Nat}
    (h : ¬(r' = f.reg ∧ p' = p ∧ i' = i ∧ j' = j ∧ k' = k)) : (s.addSat f v p i j k).rg r' p' i' j' k' = s.rg r' p' i' j' k' :=
  State.rg_setRg_ne s _ h

theorem State.rg_addWrap_ne (s : State) (f : Fld) (v p i j k : Nat) {r' : Reg} {p' i' j' k' : Nat}
    (h : ¬(r' = f.reg ∧ p' = p ∧ i' = i ∧ j' = j ∧ k' = k)) : (s.addWrap f v p i j k).rg r' p' i' j' k' = s.rg r' p' i' j' k' :=
  State.rg_setRg_ne s _ h

/-! ### The frame of the registers -/

theorem SameBits.refl (s : State) (ex : List FldAt) : SameBits s s ex := fun _ _ _ => rfl

/-- A change of anything but the register store keeps the frame. -/
theorem SameBits.of_regs {s t u : State} {ex : List FldAt} (h : SameBits s t ex) (e : u.regs = t.regs) : SameBits s u ex := fun g hg hx =>
  (State.rd_congr e ..).trans (h g hg hx)

/-- A record of fields around an unchanged register store keeps the frame. -/
theorem SameBits.of_mk {s t : State} {ex : List FldAt} {a b c d e f g h i j k l m n o p q r x y} (hs : SameBits s t ex) :
    SameBits s (State.mk a t.regs b c d e f g h i j k l m n o p q r x y) ex := hs.of_regs rfl

theorem SameBits.trans {s t u : State} {ex : List FldAt} (h : SameBits s t ex) (h' : SameBits t u ex) : SameBits s u ex := fun g hg hx =>
  (h' g hg hx).trans (h g hg hx)

theorem SameBits.mono {s t : State} {ex ex' : List FldAt} (h : SameBits s t ex) (hs : ∀ x ∈ ex, x ∈ ex') : SameBits s t ex' := fun g hg hx =>
  h g hg fun x m => hx x (hs x m)

/-- A write of a listed field keeps the frame. -/
theorem SameBits.wr {s t : State} {ex : List FldAt} (h : SameBits s t ex) {f : Fld} (v : Nat) {p i j k : Nat} (hf : f.ok)
    (hm : f.loc p i j k ∈ ex) : SameBits s (t.wr f v p i j k) ex := by
  intro g hg hx
  refine Eq.trans ?_ (h g hg hx)
  have ha := hx _ hm
  unfold State.val
  by_cases e : g.p = p ∧ g.i = i ∧ g.j = j ∧ g.k = k
  · refine State.rd_wr_apart _ _ _ _ _ _ _ _ _ _ _ _ hf hg ?_
    rcases ha with ha | ha | ha | ha
    · exact Or.inl ha
    · exact Or.inr (Or.inl ha)
    · exact Or.inr (Or.inr ha)
    · exact absurd e ha
  · exact State.rd_wr_index _ _ _ _ _ _ _ _ _ _ _ _ e

theorem SameBits.addSat {s t : State} {ex : List FldAt} (h : SameBits s t ex) {f : Fld} (v : Nat) {p i j k : Nat} (hf : f.ok)
    (hm : f.loc p i j k ∈ ex) : SameBits s (t.addSat f v p i j k) ex := h.wr _ hf hm

theorem SameBits.addWrap {s t : State} {ex : List FldAt} (h : SameBits s t ex) {f : Fld} (v : Nat) {p i j k : Nat} (hf : f.ok)
    (hm : f.loc p i j k ∈ ex) : SameBits s (t.addWrap f v p i j k) ex := h.wr _ hf hm

theorem SameBits.sub {s t : State} {ex : List FldAt} (h : SameBits s t ex) {f : Fld} (v : Nat) {p i j k : Nat} (hf : f.ok)
    (hm : f.loc p i j k ∈ ex) : SameBits s (t.sub f v p i j k) ex := h.wr _ hf hm

/-- A write of a listed register keeps the frame. -/
theorem SameBits.setRg {s t : State} {ex : List FldAt} (h : SameBits s t ex) {r : Reg} (w : Word) {p i j k : Nat}
    (hm : r.loc p i j k ∈ ex) : SameBits s (t.setRg r w p i j k) ex := by
  intro g hg hx
  refine Eq.trans ?_ (h g hg hx)
  have ha := hx _ hm
  unfold State.val State.rd
  rw [State.rg_setRg_ne]
  rintro ⟨e1, e2⟩
  obtain ⟨h1, h2⟩ := hg
  rcases ha with ha | ha | ha | ha
  · exact ha e1
  · exact absurd ha (Nat.not_lt_zero _)
  · have : (31 : Nat) < g.fld.lo := ha
    omega
  · exact ha e2

end Sys2Proof.Machine
end

