-- ==== Sys2Proof/Laws/RegWrite.lean ====
section
/-! SUPPORT. What a register write that passes does: it stores, and its effects follow (R11, R354, R355). -/
namespace Sys2Proof.Machine

/-- A write that the arbiter passes, of a register that is no gate, whose word is not refused, stores its word. -/
theorem State.regWrite_eq {s : State} {m : Master} {r : Reg} {p i j k data : Nat} (hp : s.passes m r p i j k)
    (hat : regAt (r.addr p i j k) = some ⟨r, p, i, j, k⟩) (hg : isGate r = false) (hc : r ≠ .GEN_OWNER_CAS)
    (hab : s.absentPort ⟨r, p, i, j, k⟩ = false)
    (hr : r.desc.reach (s.gateOpen (some m) r.desc.block p) ≠ 0)
    (hx : s.gateOpen (some m) r.desc.block p = true ∨ r.desc.expertHit = false)
    (hotp : r ≠ .FOL_OTP_PROG)
    (hf : (s.roundTake m (r.addr p i j k)).regRefuse (some m) ⟨r, p, i, j, k⟩
      (mixed (s.rg r p i j k).toNat data (r.desc.reach (s.gateOpen (some m) r.desc.block p))) = none)
    (hs : ((s.roundTake m (r.addr p i j k)).store ⟨r, p, i, j, k⟩ data (r.desc.reach (s.gateOpen (some m) r.desc.block p))).2 = none) :
    (s.regWrite m (r.addr p i j k) data).1 =
      ((s.roundTake m (r.addr p i j k)).store ⟨r, p, i, j, k⟩ data (r.desc.reach (s.gateOpen (some m) r.desc.block p))).1 := by
  obtain ⟨hh, hw, ha, hb⟩ := hp
  have hwin : ¬(m = .sb ∧ (!inWindow (r.addr p i j k) false) = true) := by
    rintro ⟨h1, h2⟩
    rw [hw h1] at h2
    exact absurd h2 (by decide)
  have hrun : (s.roundTake m (r.addr p i j k)).blockRuns r.desc.block = true := hb
  have hcl : ((!s.gateOpen (some m) r.desc.block p) && r.desc.expertHit) = false := by
    rcases hx with h | h
    · rw [h]; rfl
    · rw [h, Bool.and_false]
  have hdo : (s.roundTake m (r.addr p i j k)).regStore (some m) ⟨r, p, i, j, k⟩ data =
      (((s.roundTake m (r.addr p i j k)).store ⟨r, p, i, j, k⟩ data (r.desc.reach (s.gateOpen (some m) r.desc.block p))).1, none) := by
    unfold State.regStore
    dsimp only
    have hab' : (s.roundTake m (r.addr p i j k)).absentPort ⟨r, p, i, j, k⟩ = false := hab
    rw [if_neg (by rw [hab']; decide)]
    rw [if_neg fun h => hotp h.1]
    change (if ((!s.gateOpen (some m) r.desc.block p) && r.desc.expertHit) &&
      (r.desc.reach (s.gateOpen (some m) r.desc.block p) == 0) then _ else _) = _
    rw [hcl]
    simp only [Bool.false_and, Bool.false_eq_true, if_false]
    change (if r.desc.reach (s.gateOpen (some m) r.desc.block p) = 0 then _ else _) = _
    rw [if_neg hr]
    change (match (s.roundTake m (r.addr p i j k)).regRefuse (some m) ⟨r, p, i, j, k⟩
      (mixed (s.rg r p i j k).toNat data (r.desc.reach (s.gateOpen (some m) r.desc.block p))) with
      | some c => _ | none => _) = _
    rw [hf]
    change (match (s.roundTake m (r.addr p i j k)).store ⟨r, p, i, j, k⟩ data (r.desc.reach (s.gateOpen (some m) r.desc.block p)) with
      | (u, some c) => _ | (u, none) => (u, if ((!s.gateOpen (some m) r.desc.block p) && r.desc.expertHit)
          then some Cause.expertClosed else none)) = _
    rw [hcl]
    revert hs
    generalize (s.roundTake m (r.addr p i j k)).store ⟨r, p, i, j, k⟩ data (r.desc.reach (s.gateOpen (some m) r.desc.block p)) = q
    rcases q with ⟨u, c⟩
    intro hs
    dsimp only at hs
    subst hs
    rfl
  unfold State.regWrite
  rw [if_neg (by rw [hh]; decide), if_neg hwin]
  unfold State.regTry
  rw [hat]
  dsimp only
  rw [ha]
  dsimp only
  unfold State.regDo
  simp only [hrun, Bool.not_true, Bool.false_eq_true, if_false, hg, if_neg hc]
  rw [hdo]
  rfl

/-- The register store after a write that the arbiter passes: only the round is taken beside it. -/
@[simp] theorem State.roundTake_regs (s : State) (m : Master) (a : Nat) : (s.roundTake m a).regs = s.regs := rfl
@[simp] theorem State.roundTake_rg (s : State) (m : Master) (a : Nat) (r : Reg) (p i j k : Nat) :
    (s.roundTake m a).rg r p i j k = s.rg r p i j k := rfl
@[simp] theorem State.roundTake_rd (s : State) (m : Master) (a : Nat) (f : Fld) (p i j k : Nat) :
    (s.roundTake m a).rd f p i j k = s.rd f p i j k := rfl

end Sys2Proof.Machine
end

