-- ==== Sys2Proof/WellFormed.lean ====
section
/-! DEFINITION. Well-formed commands: operands within the ranges that the spec gives them. A meaning takes any operands and is harmless on
ill-formed ones; nothing in the machine depends on these checks. -/
namespace Sys2Proof

/-- A front-panel port (R64). -/
def portOk (n : Nat) : Bool := n < 256
/-- A pipeline, chiplet or link. -/
def pipeOk (n : Nat) : Bool := n < 8
/-- An octet (R63). -/
def octetOk (n : Nat) : Bool := n < 32
/-- A PFC priority. -/
def prioOk (n : Nat) : Bool := n < 8
/-- A phase within a cycle, in sixteenths. -/
def phaseOk (n : Nat) : Bool := n < 16
/-- An aligned BAR0 address (R464). -/
def addrOk (n : Nat) : Bool := n < 2 ^ 26 && n % 4 == 0
/-- An offset of a BAR (R326). An access that is not aligned is a command too: it is refused (R327). -/
def barOk : Bar → Nat → Bool
  | .bar0, n => n < 2 ^ 26
  | .bar2, n => n < 2 ^ 19
/-- A PLL of one of the eight chiplets. -/
def pllOk : Pll → Bool
  | .serdes p => p < 8
  | _ => true
/-- The values of the OTP fields (R382). -/
def fusesOk (f : Fuses) : Bool :=
  f.keyHash.length ≤ 4 && f.keyHash.all (· < 2 ^ 384) && f.keyRevoke < 16 && f.rollback < 2 ^ 64 && f.asym.length ≤ 8
/-- A supply voltage that a part may need (R449), in mV. -/
def vddOk (n : Nat) : Bool := 680 ≤ n && n ≤ 820 && n % 5 == 0
/-- A JTAG operation (R438). -/
def jtagOk : JtagOp → Bool
  | .programFuse bit _ => bit < 4096
  | _ => true

/-- Whether a command is well-formed. -/
def Instr.wf : Instr → Bool
  | .expertGateWrite _ addr key => addrOk addr && key < 256
  | .expertGateExpire => true
  | .registerWrite _ bar addr _ _ => barOk bar addr
  | .latchedWordRead _ bar addr _ => barOk bar addr
  | .tsFifoRead _ port => portOk port
  | .rejectLogRead _ => true
  | .watermarkReset _ addr _ => addrOk addr
  | .frameRxStart port phase _ => portOk port && phaseOk phase
  | .ingressSlotAssign p => pipeOk p
  | .frameRxEnd port _ _ _ => portOk port
  | .stallOverrun port _ => portOk port
  | .pauseFrameRx port phase _ _ => portOk port && phaseOk phase
  | .pauseExpire port prio => portOk port && prioOk prio
  | .slipLink p => pipeOk p
  | .harnessSelect port => port < 264
  | .egressSlotAssign p => pipeOk p
  | .frameTxStart port phase => portOk port && phaseOk phase
  | .frameTxEnd port => port < 264
  | .recircFifoEnter p => pipeOk p
  | .pauseFrameTx port => portOk port
  | .pauseRepeat port prio => portOk port && prioOk prio
  | .pfcStormDeclare port prio => portOk port && prioOk prio
  | .pfcStormEnd port prio => portOk port && prioOk prio
  | .walkFree port _ => portOk port
  | .walkEnd port => portOk port
  | .gateTransition port => port < 264
  | .octetModeApply _ o _ => octetOk o
  | .octetReady o => octetOk o
  | .adminWrite _ port _ => portOk port
  | .anResolve port (.resolved mode fec) _ => portOk port && mode < 15 && fec < 4
  | .anResolve port .failed _ => portOk port
  | .linkRawRise port => portOk port
  | .linkRawFall port lane cause => portOk port && lane < 256 && cause < 4
  | .holdUpExpire port => portOk port
  | .downHoldExpire port => portOk port
  | .refQualify => true
  | .refDisqualify => true
  | .ppsInEdge phase => phaseOk phase
  | .ppsEdgeValidate _ => true
  | .ppsLoss => true
  | .tclkUnlock => true
  | .setNow _ => true
  | .setAtPps _ => true
  | .step _ => true
  | .clear _ => true
  | .timFreqWrite _ _ => true
  | .courseTimeApply => true
  | .setAtPpsTimeout => true
  | .todMessageRx bytes => bytes.length == 16
  | .todRxTimeout => true
  | .ppsOutRise => true
  | .ppsOutFall => true
  | .todTxSend => true
  | .calibrationRun p => pipeOk p
  | .runNow _ => true
  | .calibrationComplete p _ => pipeOk p
  | .calibrationTimeout p => pipeOk p
  | .triggerArm _ slot kind => slot < 16 && kind < 16
  | .triggerCancel _ slot => slot < 16
  | .triggerFire slot => slot < 17
  | .gpioCapture i phase => i < 2 && phaseOk phase
  | .synceFailover j => j < 2
  | .readerScrub p => pipeOk p
  | .overflowScrub unit => unit < 9
  | .bucketScrub unit => unit < 9
  | .catScrub p => pipeOk p
  | .farScrub p => pipeOk p
  | .learnInsert p => pipeOk p
  | .ageSweepStart p => pipeOk p
  | .ageSweepChunk hits => hits.all (· < 532480)
  | .mirrorEnable _ _ _ => true
  | .mirrorWrite _ => true
  | .mirrorStall _ => true
  | .resyncChunk => true
  | .repairReadIssue => true
  | .repairRecordReturn tag _ ws => tag < 8 && ws.length ≤ 128
  | .repairWrite => true
  | .fenceTimeout tag p => tag < 8 && pipeOk p
  | .drainTimeout _ => true
  | .editionDrained _ => true
  | .edStuck _ => true
  | .stableEnable _ => true
  | .stableReady => true
  | .powerSample _ => true
  | .rationPeriodEnd temps => temps.length == 64
  | .allowanceLoad => true
  | .monitorFail => true
  | .snapshotScanStart => true
  | .snapshotComplete => true
  | .snapDisable _ => true
  | .counterRestore set elem idx => 1 ≤ set && set < 16 && elem < 4194304 && idx < 128
  | .flowSweep p => pipeOk p
  | .flowFlush _ p => pipeOk p
  | .captureStop _ => true
  | .captureRearm _ => true
  | .captureDeliver => true
  | .dramTrainStart _ => true
  | .dramTrainDone fails => fails < 256
  | .dramRequest req write addr data enables => req < 16 && addr % 64 == 0 && (!write || (data.length == 64 && enables.length == 64))
  | .dramSchedule u _ => u < 8
  | .dramRefresh u => u < 8
  | .mr4Poll u _ => u < 8
  | .zqCalibration u => u < 8
  | .dqsRetrain u _ => u < 8
  | .patrolScrub _ => true
  | .alertReplay u place _ => u < 8 && place.bank < 64 && place.pos < 8
  | .hostLost _ _ => true
  | .perstRelease _ => true
  | .doorbellWrite _ c _ => c < 64
  | .commandFetch _ _ ws _ _ => ws.length == 16
  | .completionWrite _ _ => true
  | .eventWrite _ => true
  | .puntDeliver _ => true
  | .injectFrame _ j d _ _ => j < 2 && d.length == 8
  | .exportWrite _ j _ => j < 2
  | .bulkTransfer _ j d _ _ _ => j < 2 && d.length == 8
  | .bufferPost _ entries => entries.length ≤ 64 && entries.all (· < 2 ^ 64)
  | .msixModTimeout c => c < 64
  | .channelEnable _ c => c < 64
  | .channelStop _ c => c < 64
  | .poolDisable _ k => k < 8
  | .ownerCas _ _ => true
  | .sidebandWrite addr7 bytes => addr7 < 128 && bytes.length ≤ 10
  | .sidebandRead addr7 bytes => addr7 < 128 && bytes.length ≤ 5
  | .alertResponse => true
  | .sidebandTimeout => true
  | .dmaReadTimeout _ => true
  | .clerkBoundary _ => true
  | .nop => true
  | .fence => true
  | .regWrite => true
  | .regRead => true
  | .entryWrite => true
  | .entryRead => true
  | .entryDelete => true
  | .hashInsert => true
  | .hashLookup => true
  | .hashDelete => true
  | .catInsert => true
  | .catRemove => true
  | .catMoveBlock => true
  | .editionOpen => true
  | .editionArm => true
  | .editionRetire => true
  | .ageSweep => true
  | .portForget => true
  | .scrub => true
  | .snapshotAt => true
  | .counterRead => true
  | .tackSelectAt => true
  | .tackPendingLoad => true
  | .patchLoad => true
  | .patchVerifyDone key => key.length == 24
  | .patchInstall => true
  | .mirrorResync => true
  | .portAdmin => true
  | .claimDomain => true
  | .haltRequest _ _ => true
  | .clerkStop stop => stop.addr < 16384 && stop.done < 65536
  | .tawGo _ => true
  | .stepOverrun => true
  | .coldReset _ => true
  | .resetRelease tackSel hostMode bootSrc => tackSel < 8 && hostMode < 4 && bootSrc < 2
  | .bootFusesDone fuses vdd => fusesOk fuses && vddOk vdd
  | .bootHeadersRead _ _ headA headB => headA.length ≤ 128 && headB.length ≤ 128
  | .bootVerifyDone _ _ => true
  | .bootApplyRecord => true
  | .bootWaitDone => true
  | .bootApplyEnd _ => true
  | .flashOp _ cs op => cs < 2 && op < 4
  | .flashOpDone _ _ => true
  | .otpProgram _ bit _ => bit < 4096
  | .otpProgramDone => true
  | .warmReset _ key => key < 256
  | .warmResetRelease => true
  | .faultEvent slot => slot < 2048
  | .quietPeriodEnd id => id < 65536
  | .domainClear _ domain => domain < 65536
  | .faultInChange k _ => k < 17
  | .faultForce _ j _ => j < 64
  | .errorInject _ _ => true
  | .refMgmtLoss => true
  | .refMgmtRecover => true
  | .clockStop _ _ => true
  | .clockStopped k => k < 16
  | .clockStart k => k < 16
  | .crossingHung x => 1 ≤ x && x < 18
  | .crossingReset _ _ => true
  | .chipletReset _ _ => true
  | .d2dLinkUp p => pipeOk p
  | .d2dFlitError p _ lanes => pipeOk p && lanes.all (· < 256)
  | .d2dRetrain p => pipeOk p
  | .cclkPllUnlock => true
  | .serdesPllUnlock p => pipeOk p
  | .hostLinkReturn _ speed width _ => speed < 8 && width < 32
  | .tclkPllLock => true
  | .pllRelock which => pllOk which
  | .dclkPllUnlock => true
  | .d2dLinkPllUnlock p => pipeOk p
  | .monitorRecover => true
  | .gpioPulseEnd i => i < 2
  | .fecCodewordDecode port _ _ => portOk port
  | .pcieLinkError _ _ => true
  | .jtagInstruction _ op => jtagOk op

end Sys2Proof
end

