-- ==== Sys2Proof/Tests/Slice0.lean ====
section
/-! SUPPORT. Tests of this slice: for each statement, states and operands that meet the hypotheses of each clause; the well-formedness checks; and
small checks of single steps against numbers of the spec. -/

set_option maxRecDepth 20000

namespace Sys2Proof.Tests
open Sys2Proof Sys2Proof.Machine

set_option linter.unusedVariables false
set_option Elab.async false

/-- A state a while after reset: course time and the running count have advanced. -/
def base : State := { State.reset with tim := { State.reset.tim with ct := 2 ^ 70, rc := 2 ^ 70, now := 2 ^ 22 } }

/-- Boot is done, nothing is owned, and every clock runs. -/
def ready (s : State) : State :=
  ((List.range 4).foldl (fun s i => s.setRg .GEN_OWNER_MAP 0 0 i) ((s.wr fFOL_BOOT_STATUS_STATE 5).wr fHST_MODE_HOST_MODE 1)).setRg .CKR_RUN 0xFFFFFFFF

/-- What holds of the content of an option holds of whatever it is said to be. -/
theorem all_some {α : Type} {x : Option α} {p : α → Prop} (h : ∀ a ∈ x.toList, p a) : ∀ a, x = some a → p a :=
  fun a e => h a (by simp [e])

/-- What holds at each offset holds throughout the interval. -/
theorem range_all {p : Nat → Prop} (a n : Nat) (h : ∀ j < n, p (a + j)) : ∀ k, a ≤ k → k < a + n → p k := fun k h1 h2 => by
  have h3 := h (k - a) (by omega)
  rwa [show a + (k - a) = k by omega] at h3

/-- With no entry listed, every entry is at its reset contents. -/
theorem ent_none {s : State} (t p i : Nat) (h : s.tables = []) : s.ent t p i = tblReset t i := by simp [State.ent, h, AMap.get?]

/-- Zeros have no bit set. -/
theorem entB_zeros (n w b : Nat) : entB (zeros n) w b = false := by
  have h : (zeros n).getD w 0 = 0 := by
    simp only [zeros, List.getD_eq_getElem?_getD, List.getElem?_replicate]; split <;> rfl
  simp only [entB, entF, h]; simp [bitsOf]

/-- Most tables reset to zeros. -/
theorem reset_bit (t i w b : Nat) (h : t ∉ [0x28, 0x29, 0x2A, 0x2E]) : entB (tblReset t i) w b = false := by
  unfold tblReset
  split <;> first | exact absurd (by decide) h | exact entB_zeros _ _ _

/-- The expert gate of a master at a block is open. -/
def openG (s : State) (m : Master) (b : Block) (p : Nat := 0) : State :=
  { s with hst := { s.hst with gates := [((m, b, p), (true, s.tim.now))] } }

namespace WA

def st0 (b : State) (st : Nat) : State := b.wr fTIM_STATUS_STATE st
def trq (b : State) : State := { ready b with tim := { b.tim with pend := none } }
def pnd (b : State) (c : Change) (t0 : Nat := 0) : State := { b with tim := { b.tim with pend := some ⟨c, t0, 5⟩ } }
def msg (ty fl : Nat) (bad : Nat := 0) : List Byte := let h := [0xA5, 0x5A, byte ty, byte fl, 1,2,3,4,5,6,7,8,9,10]; h ++ natBytes 2 ((crc16 h + bad) % 65536)
def cal (b : State) : State := { b with tim := { b.tim with calRun := [(2, 7), (1, b.tim.rc - 2^60)], calRes := [(1, 5)] }, ckr := { b.ckr with pulses := [] } }
def trg (b : State) (k : Nat) (tr : Option Trig) : State := { ((((((ready b).wr fTIM_STATUS_STATE 2).setRg .TIM_TRIG_TIME 999999999 0 k 0).setRg .TIM_TRIG_TIME 0xFFFFFFFF 0 k 1).setRg .TIM_TRIG_TIME 0 0 k 2).setRg .TIM_TRIG_CTRL (if tr.isSome then 0x200 + 4 else 0x1C00) 0 k) with tim := { b.tim with trigs := tr.toList } }
def trs (s : State) (l : List Trig) (ct : Nat := 100) : State := { s with tim := { s.tim with trigs := l, ct := ct }, ckr := { s.ckr with pulses := [] } }
def sw (b : State) (k : TrigKind) (arg : Nat := 0) : State := trs (((b.wr fCLE_ED_STATUS_IN_FORCE 0).setEdState true 2)) [⟨3, k, 90, 0, none, arg⟩]
def snp (b : State) (sc : Option Scan) : State := let s := (sw b .snapshot 6).setRg .ARC_SNAP_SIZE 28; { s with arc := { s.arc with scan := sc, snapUsed := 5 } }
def tck (b : State) : State := let s := (sw b .tack).wr fFOL_TACK_STATUS_LOADED 1; { s with fol := { s.fol with pend := [⟨⟨.HAR_OVH, 2, 3, 0, 0⟩, 7, 0, 255, 77⟩] } }

/-- States and operands that meet the hypotheses of `ReferenceStates`, clause by clause. -/
theorem witness_ReferenceStates :
    (∃ (s : State), s.tstate = 0 ∧ s.on fTIM_STATUS_TIME_SET = false) ∧
    (∃ (s : State), s.tstate = 0 ∧ s.on fTIM_STATUS_TIME_SET = true ∧ s.on fTIM_CFG_PPS_MODE = true) ∧
    (∃ (s : State), s.tstate = 0) ∧
    (∃ (s : State), s.tstate = 2) ∧
    (∃ (s : State), s.tstate = 2 ∧ s.ppsGood = false) ∧
    (∃ (s : State), s.tstate ≠ 0) :=
  ⟨⟨(st0 base 0).wr fTIM_STATUS_TIME_SET 0, by decide +kernel⟩,
    ⟨((st0 base 0).wr fTIM_STATUS_TIME_SET 1).wr fTIM_CFG_PPS_MODE 1, by decide +kernel⟩,
    ⟨(st0 base 0), by decide +kernel⟩,
    ⟨(st0 base 2), by decide +kernel⟩,
    ⟨{ (st0 base 2).wr fTIM_CFG_PPS_MODE 0 with tim := { base.tim with lastAcc := none, rc := 2^120 } }, by decide +kernel⟩,
    ⟨{ (st0 base 2) with tim := { base.tim with pend := some ⟨.freq 5, 7, 8⟩, trigs := [⟨9, .cadence, 7, 5, none, 0⟩, ⟨3, .gpio0, 7, 5, none, 0⟩] } }, by decide +kernel⟩⟩

/-- States and operands that meet the hypotheses of `CourseTimeRequests`, clause by clause. -/
theorem witness_CourseTimeRequests :
    (∃ (s : State) (m : Master), s.passes m .TIM_CTRL ∧ s.gateOpen (some m) .TIM 0 = true ∧ s.tim.pend = none) ∧
    (∃ (s : State) (m : Master), s.passes m .TIM_CTRL ∧ s.gateOpen (some m) .TIM 0 = true ∧ s.tim.pend = none ∧ s.timSet % ns nsPerSec = 0) ∧
    (∃ (s : State) (m : Master), s.passes m .TIM_CTRL ∧ s.gateOpen (some m) .TIM 0 = true ∧ s.tim.pend = none ∧ -32768 ≤ s.stepSec ∧
      s.stepSec ≤ 32767 ∧ 0 ≤ (s.wholeUs 1000 : Int) + s.timStep) ∧
    (∃ (s : State) (m : Master) (d : Word), s.passes m .TIM_FREQ_HI ∧ s.gateOpen (some m) .TIM 0 = true ∧ s.tim.pend = none ∧
      0x0000FFBE76C8B439 ≤ d.toNat * 2 ^ 32 + s.rd fTIM_FREQ_LO_VALUE ∧ d.toNat * 2 ^ 32 + s.rd fTIM_FREQ_LO_VALUE ≤ 0x0001004189374BC7) ∧
    (∃ (s : State) (m : Master), s.passes m .TIM_CTRL ∧ s.gateOpen (some m) .TIM 0 = true ∧ s.tim.pend.isSome = true) ∧
    (∃ (s : State) (m : Master), s.passes m .TIM_CTRL ∧ s.gateOpen (some m) .TIM 0 = false ∧ s.tim.pend = none) ∧
    (∃ (s : State) (m : Master), s.passes m .TIM_CTRL ∧ s.gateOpen (some m) .TIM 0 = true) :=
  ⟨⟨openG ((trq base).setRg .TIM_SET 5 0 0) .a .TIM, .a, by decide +kernel⟩,
    ⟨openG (((trq base).setRg .TIM_SET 0 0 0).setRg .TIM_SET 0x3344 0 2) .b .TIM, .b, by decide +kernel⟩,
    ⟨openG ((((trq base).setRg .TIM_STEP 5 0 0).setRg .TIM_STEP 3 0 1).setRg .TIM_STEP 0 0 2) .a .TIM, .a, by decide +kernel⟩,
    ⟨openG ((trq base).setRg .TIM_FREQ_LO 0x7777) .a .TIM, .a, 0x10000, by decide +kernel⟩,
    ⟨openG { trq base with tim := { base.tim with pend := some ⟨.freq 5, 7, 8⟩ } } .b .TIM, .b, by decide +kernel⟩,
    ⟨((trq base).setRg .TIM_SET 5 0 0), .a, by decide +kernel⟩,
    ⟨openG { trq base with tim := { base.tim with pend := some ⟨.freq 5, 7, 8⟩, trigs := [⟨9, .cadence, 7, 5, none, 0⟩, ⟨3, .gpio0, 7, 5, none, 0⟩] } } .a .TIM, .a, by decide +kernel⟩⟩

/-- States and operands that meet the hypotheses of `CourseTimeChanges`, clause by clause. -/
theorem witness_CourseTimeChanges :
    (∃ (s : State) (w t0 r0 : Nat), s.tim.pend = some ⟨.freq w, t0, r0⟩ ∧ t0 < s.tim.ct + s.tim.freq) ∧
    (∃ (s : State) (d : Int) (t0 r0 : Nat), s.tim.pend = some ⟨.step d, t0, r0⟩ ∧ t0 < s.tim.ct + s.tim.freq ∧ s.tim.trigs = [] ∧
      s.ed.imm = none) ∧
    (∃ (s : State) (v t0 r0 : Nat), s.tim.pend = some ⟨.setNow v, t0, r0⟩ ∧ t0 < s.tim.ct + s.tim.freq ∧ s.tim.trigs = [] ∧
      s.ed.imm = none ∧ s.on fTIM_STATUS_REF_OK = false) ∧
    (∃ (s : State) (p : Pending), s.tim.pend = some p ∧ s.tim.ct + s.tim.freq ≤ p.applyAt) ∧
    (∃ (s : State) (v t0 r0 : Nat), s.tim.pend = some ⟨.setAtPps v, t0, r0⟩ ∧ r0 + ns ((s.holdSecs + 1) * nsPerSec) ≤ s.tim.rc) ∧
    (∃ (s : State) (v t0 r0 : Nat), s.tim.pend = some ⟨.setNow v, t0, r0⟩ ∧ t0 < s.tim.ct + s.tim.freq ∧ s.tim.trigs = [] ∧
      s.ed.imm = none ∧ s.tstate = 0 ∧ s.on fTIM_STATUS_REF_OK = true ∧ s.on fTIM_CFG_PPS_MODE = true) ∧
    (∃ (s : State) (d : Int) (t0 r0 : Nat) (tr : Trig), s.tim.pend = some ⟨.step d, t0, r0⟩ ∧ t0 < s.tim.ct + s.tim.freq ∧
      s.tim.trigs = [tr] ∧ t0 < tr.at_ ∧ (tr.at_ : Int) < t0 + d ∧ tr.kind = .gpio0 ∧ tr.interval = 0 ∧ tr.cmd = none ∧ s.ed.imm = none ∧
      s.ckr.pulses = []) ∧
    (∃ (s : State) (d : Int) (t0 r0 : Nat), s.tim.pend = some ⟨.step d, t0, r0⟩ ∧ t0 < s.tim.ct + s.tim.freq ∧
      (∀ tr ∈ s.tim.trigs, tr.at_ ≤ t0 ∨ (t0 : Int) + d ≤ tr.at_) ∧ s.ed.imm = none) :=
  ⟨⟨pnd base (.freq 99), 99, 0, 5, by decide +kernel⟩,
    ⟨pnd base (.step (-4)), -4, 0, 5, by decide +kernel⟩,
    ⟨(pnd base (.setNow 99)).wr fTIM_STATUS_REF_OK 0, 99, 0, 5, by decide +kernel⟩,
    ⟨pnd base (.setNow 99) (2^200), ⟨.setNow 99, 2^200, 5⟩, by decide +kernel⟩,
    ⟨{ pnd (base.wr fTIM_CFG_HOLD_SECS 3) (.setAtPps 99) with tim := { (pnd base (.setAtPps 99)).tim with rc := 2^120 } }, 99, 0, 5, by decide +kernel⟩,
    ⟨((((pnd base (.setNow 99)).wr fTIM_STATUS_REF_OK 1).wr fTIM_CFG_PPS_MODE 1).wr fTIM_STATUS_STATE 0), 99, 0, 5, by decide +kernel⟩,
    ⟨trs (pnd base (.step 1000) 50) [⟨9, .gpio0, 700, 0, none, 0⟩], 1000, 50, 5, ⟨9, .gpio0, 700, 0, none, 0⟩, by decide +kernel⟩,
    ⟨trs (pnd base (.step (-20)) 50) [⟨9, .gpio0, 700, 0, none, 0⟩, ⟨1, .cadence, 40, 0, none, 0⟩], -20, 50, 5, by decide +kernel⟩⟩

/-- States and operands that meet the hypotheses of `PpsInput`, clause by clause. -/
theorem witness_PpsInput :
    (∃ (s : State) (phase : Nat), s.tim.edge = none) ∧
    (∃ (s : State) (e : PpsEdge), s.tim.edge = some e ∧ e.rc + ns 100 ≤ s.tim.rc ∧ s.ppsValid e = true ∧ s.tim.pend = none ∧
      (∀ m ∈ s.tim.tod, e.rc < m.2 + ns 500000000) ∧ s.tim.todCheck = [] ∧ s.tstate = 2) ∧
    (∃ (s : State) (e : PpsEdge), s.tim.edge = some e ∧ e.rc + ns 100 ≤ s.tim.rc) ∧
    (∃ (s : State) (e : PpsEdge) (b : Bool), s.tim.edge = some e ∧ s.tim.rc < e.rc + ns 100) :=
  ⟨⟨base, 7, by decide +kernel⟩,
    ⟨{ (((base.wr fTIM_STATUS_STATE 2).wr fTIM_CFG_PPS_MODE 0).setRg .TIM_PPS_WIN 100000) with tim := { base.tim with edge := some ⟨ns 3000000000, 5⟩ } }, ⟨ns 3000000000, 5⟩, by decide +kernel⟩,
    ⟨{ (base.wr fTIM_STATUS_STATE 2) with tim := { base.tim with edge := some ⟨7, 5⟩ } }, ⟨7, 5⟩, by decide +kernel⟩,
    ⟨{ (base.wr fTIM_STATUS_STATE 2) with tim := { base.tim with edge := some ⟨7, 2^200⟩ } }, ⟨7, 2^200⟩, true, by decide +kernel⟩⟩

/-- States and operands that meet the hypotheses of `TimeOfDay`, clause by clause. -/
theorem witness_TimeOfDay :
    (∃ (s : State) (bs : List Byte), bs.length = 16 ∧ bytesNat (bs.take 2) = 0xA55A ∧ crc16 (bs.take 14) = bytesNat (bs.drop 14) ∧
      (bs.getD 2 0).toNat = 1 ∧ bitOf (bs.getD 3 0).toNat 3 = true) ∧
    (∃ (s : State) (bs : List Byte), bs.length = 16 ∧ bytesNat (bs.take 2) = 0xA55A ∧
      (crc16 (bs.take 14) ≠ bytesNat (bs.drop 14) ∨ (bs.getD 2 0).toNat ≠ 1 ∨ bitOf (bs.getD 3 0).toNat 3 = false)) ∧
    (∃ (s : State) (bs : List Byte), bytesNat (bs.take 2) ≠ 0xA55A) ∧
    (∃ (s : State), s.tim.todDue = true ∧ s.tim.ppsRc + ns 100000000 ≤ s.tim.rc ∧ s.on fTIM_TOD_CFG_TX_EN = true) :=
  ⟨⟨((base.wr fTIM_STATUS_STATE 2).wr fTIM_TOD_CFG_RX_MODE 1), msg 1 8, by decide +kernel⟩,
    ⟨base, msg 1 8 1, by decide +kernel⟩,
    ⟨base, [1, 2, 3], by decide +kernel⟩,
    ⟨{ (((base.wr fTIM_TOD_CFG_TX_EN 1).wr fTIM_PPS_OUT_EN 1).wr fTIM_STATUS_STATE 2) with tim := { base.tim with todDue := true, ppsRc := 0, rc := 2^120 } }, by decide +kernel⟩⟩

/-- States and operands that meet the hypotheses of `TimePins`, clause by clause. -/
theorem witness_TimePins :
    (∃ (s : State), s.ppsOutOn = true ∧ s.ppsOutTime % ns nsPerSec < s.tim.freq ∧ s.tim.ppsOut = false) ∧
    (∃ (s : State), s.tim.ppsOut = true ∧ s.tim.ppsRc + ns (1000 * s.rd fTIM_PPS_OUT_WIDTH_US) ≤ s.tim.rc) ∧
    (∃ (s : State) (k phase : Nat), k < 2 ∧ s.rd fTIM_GPIO_CFG_MODE 0 k = 1 ∧
      (∀ r, AMap.get? s.tim.gpioLast k = some r → r + ns 1000 ≤ s.tim.rc)) ∧
    (∃ (s : State) (phase r : Nat), s.rd fTIM_GPIO_CFG_MODE 0 0 = 1 ∧ AMap.get? s.tim.gpioLast 0 = some r ∧ s.tim.rc < r + ns 1000) ∧
    (∃ (s : State) (k phase : Nat), s.rd fTIM_GPIO_CFG_MODE 0 k ≠ 1) ∧
    (∃ (s : State) (k r : Nat), AMap.get? s.tim.gpioOut k = some r ∧ r ≤ s.tim.rc) ∧
    (∃ (s : State) (j : Nat), s.on fTIM_SYNCE_SQUELCHED 0 j = false ∧ s.rd fTIM_SYNCE_ACTIVE 0 j = s.rd fTIM_SYNCE_LANE 0 j ∧
      s.rd fTIM_SYNCE_MODE 0 j = 0) :=
  ⟨⟨{ ((base.wr fTIM_PPS_OUT_EN 1).wr fTIM_STATUS_STATE 2) with tim := { base.tim with ppsOut := false, ct := ns 5000000000 } }, by decide +kernel⟩,
    ⟨{ base.wr fTIM_PPS_OUT_WIDTH_US 3 with tim := { base.tim with ppsOut := true, ppsRc := 0 } }, by decide +kernel⟩,
    ⟨(base.wr fTIM_GPIO_CFG_MODE 1 0 1), 1, 5, by decide +kernel⟩,
    ⟨{ (base.wr fTIM_GPIO_CFG_MODE 1 0 0) with tim := { base.tim with gpioLast := [(0, base.tim.rc)] } }, 5, base.tim.rc, by decide +kernel⟩,
    ⟨(base.wr fTIM_GPIO_CFG_MODE 2 0 1), 1, 5, by decide +kernel⟩,
    ⟨{ base with tim := { base.tim with gpioOut := [(0, 5), (1, 5)] } }, 1, 5, by decide +kernel⟩,
    ⟨(((((base.wr fTIM_SYNCE_SQUELCHED 0).wr fTIM_SYNCE_LANE 33).wr fTIM_SYNCE_ACTIVE 33).wr fTIM_SYNCE_MODE 0).setRg .TIM_SYNCE_EN 3), 0, by decide +kernel⟩⟩

/-- States and operands that meet the hypotheses of `Calibration`, clause by clause. -/
theorem witness_Calibration :
    (∃ (s : State) (p : Nat), s.on fCKR_PLL_STATUS_TCLK_LOCK = true ∧ s.chipletRuns p = true ∧ s.on fCKR_D2D_STATUS_UP 0 p = true ∧
      (∀ r, (p, r) ∉ s.tim.calRun) ∧
      (∀ r, AMap.get? s.tim.jobs (.calibration, p) = some r → r + ns (s.rd fTIM_CAL_CTRL_PERIOD_MS * 1000000) ≤ s.tim.rc)) ∧
    (∃ (s : State) (p r : Nat), AMap.get? s.tim.jobs (.calibration, p) = some r ∧
      s.tim.rc < r + ns (s.rd fTIM_CAL_CTRL_PERIOD_MS * 1000000)) ∧
    (∃ (s : State) (p b : Nat) (r : Int), p < 8 ∧ s.tim.calRun.find? (·.1 == p) = some (p, b) ∧ s.tim.rc ≤ b + ns 20000 ∧
      (∀ old, AMap.get? s.tim.calRes p = some old → (r + 125 * signedOf 16 (s.rg .TIM_CHIPLET_ASYM 0 p).toNat - old).natAbs ≤ 500)) ∧
    (∃ (s : State) (p b : Nat) (r old : Int), p < 8 ∧ s.tim.calRun.find? (·.1 == p) = some (p, b) ∧ s.tim.rc ≤ b + ns 20000 ∧
      AMap.get? s.tim.calRes p = some old ∧ 500 < (r + 125 * signedOf 16 (s.rg .TIM_CHIPLET_ASYM 0 p).toNat - old).natAbs ∧
      s.ckr.pulses = []) ∧
    (∃ (s : State) (p b : Nat), (p, b) ∈ s.tim.calRun ∧ b + ns 20000 ≤ s.tim.rc) ∧
    (∃ (s : State) (m : Master), s.passes m .TIM_CAL_CTRL ∧ s.gateOpen (some m) .TIM 0 = true ∧ 100 ≤ s.rd fTIM_CAL_CTRL_PERIOD_MS ∧
      s.rd fTIM_CAL_CTRL_PERIOD_MS ≤ 10000) :=
  ⟨⟨((((base.setRg .CKR_STOP 0).wr fCKR_PLL_STATUS_TCLK_LOCK 1).wr fCKR_D2D_STATUS_UP 1 0 1).setRg .CKR_RUN 0xFFFFFFFF), 1, by decide +kernel, by decide +kernel, by decide +kernel, (fun r h => by cases h), all_some (by decide +kernel)⟩,
    ⟨{ base.setRg .TIM_CAL_CTRL 100 with tim := { base.tim with jobs := [((.calibration, 1), base.tim.rc)] } }, 1, base.tim.rc, by decide +kernel⟩,
    ⟨(cal base).setRg .TIM_CHIPLET_ASYM 0xFFFF 0 1, 1, (cal base).tim.rc - 2^60, 255, by decide +kernel⟩,
    ⟨(cal base).setRg .TIM_CHIPLET_ASYM 4 0 1, 1, (cal base).tim.rc - 2^60, 256, 5, by decide +kernel⟩,
    ⟨cal base, 2, 7, by decide +kernel⟩,
    ⟨openG ((((ready base).wr fCKR_PLL_STATUS_TCLK_LOCK 1).wr fCKR_D2D_STATUS_UP 1 0 1).setRg .TIM_CAL_CTRL 2000) .a .TIM, .a, by decide +kernel⟩⟩

/-- States and operands that meet the hypotheses of `Triggers`, clause by clause. -/
theorem witness_Triggers :
    (∃ (s : State) (m : Master) (k t0 : Nat), 8 ≤ k ∧ k < 16 ∧ s.passes m .TIM_TRIG_CTRL 0 k ∧ s.trig? k = none ∧ s.tstate ≠ 0 ∧
      s.trigTime k = some t0 ∧ s.tim.ct + ns 2000 ≤ t0) ∧
    (∃ (s : State) (m : Master) (k : Nat) (tr : Trig), 8 ≤ k ∧ k < 16 ∧ s.passes m .TIM_TRIG_CTRL 0 k ∧ s.trig? k = some tr ∧
      tr.kind = .cadence ∧ tr.cmd = none ∧ (∀ q ∈ s.ckr.pulses, q.2.1 ≠ .bit fTIM_TRIG_CTRL_CANCELLED k 0)) ∧
    (∃ (s : State) (k : Nat) (tr : Trig), k < 16 ∧ s.trig? k = some tr ∧ s.tim.ct < tr.at_) ∧
    (∃ (s : State) (k : Nat) (tr : Trig), k < 16 ∧ s.trig? k = some tr ∧ tr.at_ ≤ s.tim.ct ∧ tr.kind = .gpio0 ∧ tr.interval = 0 ∧
      tr.cmd = none ∧ s.rd fTIM_GPIO_CFG_MODE 0 0 = 2 ∧ (∀ q ∈ s.ckr.pulses, q.2.1 ≠ .bit fTIM_TRIG_CTRL_FIRED k 0)) ∧
    (∃ (s : State) (k : Nat) (tr : Trig), k < 16 ∧ s.trig? k = some tr ∧ tr.at_ ≤ s.tim.ct ∧ tr.kind = .gpio1 ∧ tr.interval ≠ 0 ∧
      tr.cmd = none ∧ (∀ q ∈ s.ckr.pulses, q.2.1 ≠ .bit fTIM_TRIG_CTRL_FIRED k 0)) ∧
    (∃ (s : State) (tr : Trig), s.tim.trigs.find? (·.kind == .tack) = some tr ∧ s.on fFOL_TACK_STATUS_LOADED = false ∧ s.tackOk = true) ∧
    (∃ (s : State) (k : Nat) (tr : Trig), k < 16 ∧ s.trig? k = some tr ∧ tr.at_ ≤ s.tim.ct ∧ tr.kind = .edition ∧ tr.interval = 0 ∧
      s.edState (!s.edNow) = 2 ∧ (∀ q ∈ s.ckr.pulses, q.2.1 ≠ .bit fTIM_TRIG_CTRL_FIRED k 0)) ∧
    (∃ (s : State) (k : Nat) (tr : Trig), k < 16 ∧ s.trig? k = some tr ∧ tr.at_ ≤ s.tim.ct ∧ tr.kind = .snapshot ∧ tr.interval = 0 ∧
      s.arc.scan = none ∧ s.arc.snapUsed + snapSpan (tr.arg ||| 2 ^ 15) ≤ s.snapSize) ∧
    (∃ (s : State) (k : Nat) (tr : Trig), k < 16 ∧ s.trig? k = some tr ∧ tr.at_ ≤ s.tim.ct ∧ tr.kind = .snapshot ∧ tr.interval = 0 ∧
      s.arc.scan.isSome = true) ∧
    (∃ (s : State) (k : Nat) (tr : Trig), k < 16 ∧ s.trig? k = some tr ∧ tr.at_ ≤ s.tim.ct ∧ tr.kind = .cadence ∧ tr.interval = 0 ∧
      tr.cmd = none) ∧
    (∃ (s : State) (k : Nat) (tr : Trig) (f : TackField), k < 16 ∧ s.trig? k = some tr ∧ tr.at_ ≤ s.tim.ct ∧ tr.kind = .tack ∧
      tr.interval = 0 ∧ s.on fFOL_TACK_STATUS_LOADED = true ∧ s.fol.pend = [f] ∧ f.at_.reg = .HAR_OVH ∧ f.hi < 32 ∧ f.lo ≤ f.hi ∧
      f.mask = 2 ^ (f.hi + 1 - f.lo) - 1 ∧ f.value ≤ f.mask) ∧
    (∃ (s : State) (d : Int) (t0 r0 : Nat) (tr : Trig), s.tim.pend = some ⟨.step d, t0, r0⟩ ∧ t0 < s.tim.ct + s.tim.freq ∧
      s.tim.trigs = [tr] ∧ t0 < tr.at_ ∧ (tr.at_ : Int) < t0 + d ∧ tr.kind = .gpio1 ∧ tr.interval ≠ 0 ∧ tr.cmd = none ∧ s.ed.imm = none ∧
      s.ckr.pulses = []) :=
  ⟨⟨trg base 9 none, .a, 9, ns (0xFFFFFFFF * 1000000000 + 999999999), by decide +kernel⟩,
    ⟨trg base 9 (some ⟨9, .cadence, 7, 5, none, 0⟩), .a, 9, ⟨9, .cadence, 7, 5, none, 0⟩, by decide +kernel⟩,
    ⟨trg base 9 (some ⟨9, .cadence, 2^200, 5, none, 0⟩), 9, ⟨9, .cadence, 2^200, 5, none, 0⟩, by decide +kernel⟩,
    ⟨(trg base 9 (some ⟨9, .gpio0, 7, 0, none, 0⟩)).wr fTIM_GPIO_CFG_MODE 2, 9, ⟨9, .gpio0, 7, 0, none, 0⟩, by decide +kernel⟩,
    ⟨trg base 9 (some ⟨9, .gpio1, 7, 50, none, 0⟩), 9, ⟨9, .gpio1, 7, 50, none, 0⟩, by decide +kernel⟩,
    ⟨{ base.wr fFOL_TACK_STATUS_LOADED 0 with tim := { base.tim with trigs := [⟨1, .tack, 7, 50, none, 0⟩] } }, ⟨1, .tack, 7, 50, none, 0⟩, by decide +kernel⟩,
    ⟨sw base .edition, 3, ⟨3, .edition, 90, 0, none, 0⟩, by decide +kernel⟩,
    ⟨snp base none, 3, ⟨3, .snapshot, 90, 0, none, 6⟩, by decide +kernel⟩,
    ⟨snp base (some ⟨1, 2, false, 3, 4, true, [], none⟩), 3, ⟨3, .snapshot, 90, 0, none, 6⟩, by decide +kernel⟩,
    ⟨sw ((base.wr fHAR_GATE_CFG_SWAP_ARMED 1 2 3).wr fHAR_GATE_SWAPS_SWAPS 0xFFFF 2 3) .cadence, 3, ⟨3, .cadence, 90, 0, none, 0⟩, by decide +kernel⟩,
    ⟨tck base, 3, ⟨3, .tack, 90, 0, none, 0⟩, ⟨⟨.HAR_OVH, 2, 3, 0, 0⟩, 7, 0, 255, 77⟩, by decide +kernel⟩,
    ⟨trs (pnd base (.step (10 * 2^50)) 50) [⟨9, .gpio1, 700, 5, none, 0⟩], 10 * 2^50, 50, 5, ⟨9, .gpio1, 700, 5, none, 0⟩, by decide +kernel⟩⟩

end WA

namespace WB


/-- States and operands that meet the hypotheses of `RegisterWrites`, clause by clause. -/
theorem witness_RegisterWrites :
    (∃ (s : State) (m : Master) (addr : Nat) (single : Bool) (data : Word), s.hears m = true ∧ (single = false ∨ addr % 4 ≠ 0)) ∧
    (∃ (s : State) (m : Master) (addr : Nat) (data : Word), s.hears m = true ∧ addr % 4 = 0 ∧ regAt addr = none ∧
      s.clockStopped addr = false ∧ (m = .sb → inWindow addr false = true) ∧ data ≠ 0) ∧
    (∃ (s : State) (m : Master) (addr : Nat), addr % 4 = 0 ∧ regAt addr = none ∧ s.clockStopped addr = false ∧
      (m = .sb → inWindow addr false = true)) ∧
    (∃ (s : State) (addr : Nat) (data : Word), addr % 4 = 0 ∧ inWindow addr false = false) ∧
    (∃ (s : State) (m : Master) (a : RegAt) (addr : Nat) (data : Word), s.hears m = true ∧ addr % 4 = 0 ∧ regAt addr = some a ∧
      (m = .sb → inWindow addr false = true) ∧ s.bootForbids a.reg.desc.block = false ∧ s.notOwned m a = true) ∧
    (∃ (s : State) (m : Master) (addr : Nat) (data : Word), ((addr < 0x40000 ∧ addr % 0x1000 < 4 ∧
      (chanHost (addr / 0x1000)).1.master = m) ∨ (0x40000 ≤ addr ∧ addr < 0x41020))) ∧
    (∃ (s : State) (m : Master) (bar : Bar) (addr : Nat) (single : Bool) (data : Word), s.hears m = false) ∧
    (∃ (s : State) (m : Master) (r : Reg) (p i j k d : Nat), hostOf ⟨r, p, i, j, k⟩ = none ∧ regDomain ⟨r, p, i, j, k⟩ = some d) ∧
    (∃ (s : State) (m : Master) (addr : Nat) (single : Bool) (data : Word), s.hears m = true ∧ m ≠ .sb ∧ (0x41020 ≤ addr ∨ (addr < 0x40000 ∧
      4 ≤ addr % 0x1000 ∧ (chanHost (addr / 0x1000)).1.master = m))) ∧
    (∃ (s : State) (m : Master) (addr : Nat) (single : Bool) (data : Word), s.hears m = true ∧ m ≠ .sb ∧ addr < 0x40000 ∧
      (chanHost (addr / 0x1000)).1.master ≠ m) :=
  ⟨⟨ready base, .b, 0x31, true, 5, by decide +kernel⟩,
    ⟨ready base, .b, 0xFF00, 5, by decide +kernel⟩,
    ⟨base, .b, 0xFF00, by decide +kernel⟩,
    ⟨base, 0x10004, 5, by decide +kernel⟩,
    ⟨(ready base).setOwner 8 2, .a, ⟨.RAT_CFG, 0, 0, 0, 0⟩, 0x60000, 5, by decide +kernel⟩,
    ⟨base, .b, 0x8000, 5, by decide +kernel⟩,
    ⟨(ready base).setRg .HST_MODE 3, .b, .bar0, 0x60000, true, 5, by decide +kernel⟩,
    ⟨(ready base).setOwner 8 2, .a, .RAT_CFG, 0, 0, 0, 0, 8, by decide +kernel⟩,
    ⟨ready base, .a, 0x50000, false, 5, by decide +kernel⟩,
    ⟨ready base, .b, 0x5, false, 5, by decide +kernel⟩⟩

/-- States and operands that meet the hypotheses of `RegisterFields`, clause by clause. -/
theorem witness_RegisterFields :
    (∃ (s : State) (m : Master) (r : Reg) (p i j k : Nat) (data : Word), r ∈ plainRegs ∧ regAt (r.addr p i j k) = some ⟨r, p, i, j, k⟩ ∧
      s.passes m r p i j k) ∧
    (∃ (s : State) (m : Master) (r : Reg) (p i j k : Nat) (data : Word), regAt (r.addr p i j k) = some ⟨r, p, i, j, k⟩ ∧
      r ≠ .GEN_OWNER_CAS ∧ isGate r = false ∧ s.passes m r p i j k ∧ s.absentPort ⟨r, p, i, j, k⟩ = true) :=
  ⟨⟨(ready base), .a, plainRegs.getD 7 .RAT_CFG, 0, 0, 0, 0, 0xDEADBEEF, by decide +kernel⟩,
    ⟨(ready base).setRg .PRT_OCT_STATUS 0 1 0, .a, .PRT_CFG, 1, 1, 0, 0, 5, by decide +kernel⟩⟩

/-- States and operands that meet the hypotheses of `RegisterReads`, clause by clause. -/
theorem witness_RegisterReads :
    (∃ (s : State) (m : Master) (r : Reg) (p i j k : Nat), r ∈ plainRegs ∧ regAt (r.addr p i j k) = some ⟨r, p, i, j, k⟩ ∧
      s.hears m = true ∧ r.addr p i j k % 4 = 0 ∧ (m = .sb → inWindow (r.addr p i j k) true = true) ∧ s.blockRuns r.desc.block = true ∧
      s.ckr.warmAt = none) ∧
    (∃ (s : State) (m : Master) (r : Reg) (p i j k : Nat), regAt (r.addr p i j k) = some ⟨r, p, i, j, k⟩ ∧ s.hears m = true ∧ m ≠ .sb ∧
      r.addr p i j k % 4 = 0 ∧ s.absentPort ⟨r, p, i, j, k⟩ = true ∧ s.runs 1 = true) ∧
    (∃ (s : State) (m : Master) (addr : Nat) (single : Bool), s.hears m = true ∧ (single = false ∨ addr % 4 ≠ 0)) ∧
    (∃ (s : State) (m : Master) (addr : Nat), s.hears m = true ∧ addr % 4 = 0 ∧ regAt addr = none ∧ s.clockStopped addr = false) ∧
    (∃ (s : State) (m : Master), s.hears m = true ∧ s.runs 2 = true ∧ s.ckr.warmAt = none) ∧
    (∃ (s : State) (m : Master) (i : Nat) (ws : List Word), s.hears m = true ∧ (i = 1 ∨ i = 2) ∧ s.runs 2 = true ∧ s.ckr.warmAt = none ∧
      s.hst.held.find? (fun h => h.1 == m && h.2.1 == ⟨.TIM_NOW, 0, 0, 0, 0⟩) = some (m, ⟨.TIM_NOW, 0, 0, 0, 0⟩, ws)) ∧
    (∃ (s : State) (m : Master) (port : Nat) (e : List Word) (rest : List (List Word)), s.hears m = true ∧ m ≠ .sb ∧ port < 256 ∧
      s.portExists port = true ∧ s.runs 1 = true ∧ s.ckr.warmAt = none ∧ s.tsFifo port = e :: rest) ∧
    (∃ (s : State) (m : Master) (port : Nat), s.hears m = true ∧ m ≠ .sb ∧ port < 256 ∧ s.runs 1 = true ∧ s.ckr.warmAt = none ∧
      (s.tsFifo port = [] ∨ s.portExists port = false)) ∧
    (∃ (s : State) (m : Master) (e : List Word) (rest : List (List Word)), s.hears m = true ∧ s.runs 1 = true ∧ s.ckr.warmAt = none ∧
      s.hst.rejects = e :: rest) ∧
    (∃ (s : State) (m : Master), s.hears m = true ∧ s.runs 1 = true ∧ s.ckr.warmAt = none ∧ s.hst.rejects = []) ∧
    (∃ (s : State) (c : Nat), s.hears .a = true ∧ c < 64) ∧
    (∃ (s : State) (m : Master) (bar : Bar) (addr : Nat) (single : Bool), s.hears m = false) :=
  ⟨⟨(ready base), .a, plainRegs.getD 7 .RAT_CFG, 0, 0, 0, 0, by decide +kernel⟩,
    ⟨(ready base).setRg .PRT_OCT_STATUS 0 1 0, .a, .PRT_CFG, 1, 1, 0, 0, by decide +kernel⟩,
    ⟨(ready base), .a, 3, true, by decide +kernel⟩,
    ⟨(ready base), .a, 0xFF00, by decide +kernel⟩,
    ⟨(ready base), .a, by decide +kernel⟩,
    ⟨{ ready base with hst := { base.hst with held := [(.b, ⟨.TIM_NOW, 0, 0, 0, 0⟩, [1,2,3]), (.a, ⟨.TIM_NOW, 0, 0, 0, 0⟩, [4,5,6])] } }, .a, 2, [4,5,6], by decide +kernel⟩,
    ⟨{ (ready base).setRg .PRT_OCT_STATUS 4 1 0 with ports := { base.ports with tsFifo := [(0, [[5]]), (33, [[1,2,3,4],[5,6,7,8]])] } }, .a, 33, [1,2,3,4], [[5,6,7,8]], by decide +kernel⟩,
    ⟨{ ready base with ports := { base.ports with tsFifo := [(0, [[5]])] } }, .a, 33, by decide +kernel⟩,
    ⟨{ ready base with hst := { base.hst with rejects := [[1,2,3],[4,5,6]] } }, .sb, [1,2,3], [[4,5,6]], by decide +kernel⟩,
    ⟨{ ready base with hst := { base.hst with rejects := [] } }, .sb, by decide +kernel⟩,
    ⟨{ ready base with hst := { base.hst with doorbell := [((.b, 3), 9), ((.a, 3), 8)] } }, 3, by decide +kernel⟩,
    ⟨(ready base).setRg .HST_MODE 3, .b, .bar0, 0x31, true, by decide +kernel⟩⟩

/-- States and operands that meet the hypotheses of `ExpertGates`, clause by clause. -/
theorem witness_ExpertGates :
    (∃ (s : State) (m : Master) (r : Reg) (p : Nat), isGate r = true ∧ (if r.desc.block.perPipe then p < 8 else p = 0) ∧ s.passes m r p) ∧
    (∃ (s : State) (m : Master) (r : Reg) (p : Nat), isGate r = true ∧ (if r.desc.block.perPipe then p < 8 else p = 0) ∧ s.passes m r p ∧
      (s.gate m r.desc.block p).1 = true) ∧
    (∃ (s : State) (m : Master) (r : Reg) (p key : Nat), isGate r = true ∧ (if r.desc.block.perPipe then p < 8 else p = 0) ∧
      s.passes m r p ∧ key < 256 ∧ key ≠ 0xE0 ∧ (key ≠ 0x1F ∨ (s.gate m r.desc.block p).1 = false)) ∧
    (∃ (s : State) (m : Master) (b : Block) (p : Nat) (o : Bool) (t0 : Nat), AMap.get? s.hst.gates (m, b, p) = some (o, t0)) ∧
    (∃ (s : State) (m : Master), s.passes m .CKR_RESET ∧ s.gateOpen (some m) .CKR 0 = true) :=
  ⟨⟨ready base, .a, .PRT_EXPERT_GATE, 3, by decide +kernel⟩,
    ⟨(let s := ready base; { s with hst := { s.hst with gates := [((.a, .PRT, 3), (false, s.tim.now))] } }), .a, .PRT_EXPERT_GATE, 3, by decide +kernel⟩,
    ⟨openG (ready base) .a .PRT 3, .a, .PRT_EXPERT_GATE, 3, 0x20, by decide +kernel⟩,
    ⟨openG (ready base) .a .PRT 3, .a, .PRT, 3, true, base.tim.now, by decide +kernel⟩,
    ⟨openG (ready base) .a .CKR, .a, by decide +kernel⟩⟩

/-- States and operands that meet the hypotheses of `Sideband`, clause by clause. -/
theorem witness_Sideband :
    (∃ (s : State) (addr data : Word) (pec : List Byte), (pec = [byte (crc8 (byte (2 * s.rd fHST_SB_CFG_ADDR) :: byte 1 :: wordBytes addr ++ wordBytes data))] ∨ (pec = [] ∧
      s.on fHST_SB_CFG_PEC_REQ = false))) ∧
    (∃ (s : State) (body pec : List Byte), body.length = 9 ∧ ((pec = [] ∧ s.on fHST_SB_CFG_PEC_REQ = true) ∨ (∃ b : Byte, pec = [b] ∧
      b.toNat ≠ crc8 (byte (2 * s.rd fHST_SB_CFG_ADDR) :: body)) ∨ body.head? ≠ some (byte 1))) ∧
    (∃ (s : State) (addr7 : Nat) (bytes : List Byte), addr7 ≠ s.rd fHST_SB_CFG_ADDR) ∧
    (∃ (s : State) (r : Reg) (p i j k : Nat), r ∈ plainRegs ∧ regAt (r.addr p i j k) = some ⟨r, p, i, j, k⟩ ∧ r.addr p i j k % 4 = 0 ∧
      r.addr p i j k < 2 ^ 32 ∧ inWindow (r.addr p i j k) true = true ∧ s.blockRuns r.desc.block = true ∧ s.ckr.warmAt = none) ∧
    (∃ (s : State), s.hst.alertN = false) ∧
    (∃ (s : State), s.hst.alertN = true) :=
  ⟨⟨ready base, 0x60000, 0x1, [byte (crc8 (byte (2 * (ready base).rd fHST_SB_CFG_ADDR) :: byte 1 :: wordBytes 0x60000 ++ wordBytes 1))], by decide +kernel⟩,
    ⟨(ready base), [1,2,3,4,5,6,7,8,9], [byte (crc8 (byte (2 * (ready base).rd fHST_SB_CFG_ADDR) :: [1,2,3,4,5,6,7,8,9]) + 1)], by decide +kernel⟩,
    ⟨(ready base).setRg .HST_SB_CFG 0x44, 0x45, [1,2,3,4,5,6,7,8,9], by decide +kernel⟩,
    ⟨(ready base), .RAT_CFG, 0, 0, 0, 0, by decide +kernel⟩,
    ⟨{ base with hst := { base.hst with alertN := false } }, by decide +kernel⟩,
    ⟨base, by decide +kernel⟩⟩

/-- States and operands that meet the hypotheses of `Ownership`, clause by clause. -/
theorem witness_Ownership :
    (∃ (s : State) (m : Master) (d e n : Nat) (f : Bool), s.passes m .GEN_OWNER_CAS ∧ d < 64 ∧ e < 4 ∧ n < 4) :=
  ⟨(ready base).setOwner 17 1, .a, 17, 1, 2, false, by decide +kernel⟩

end WB

namespace WC

def upP (b : State) (port : Nat) (m : Nat := 4) : State := (b.wr fPRT_OCT_STATUS_ACTIVE_MODE m (port/32) (port%32/8))
def rise (b : State) (st : Nat) : State := ((((((upP b 1).setPrt fPRT_STATE_STATE 1 st).setPrt fPRT_STATE_LINK_RAW 1 0).wr fPRT_OCT_STATUS_READY 1).wr fCKR_D2D_STATUS_UP 1 0 0).setPrt fPRT_STATE_AN_DONE 1 1).setPrt fPRT_TIMERS_HOLD_UP_MS 1 7
def fall (b : State) (st : Nat) (live : Nat) : State := ((((upP b 1).setPrt fPRT_STATE_STATE 1 st).setPrt fPRT_STATE_LINK_RAW 1 1).setPrt fPRT_STATE_LIVE 1 live).setPrt fPRT_TIMERS_DOWN_HOLD_MS 1 7
def wk (b : State) (adm raw hold : Nat) : State := { ((((b.setPrt fPRT_STATE_STATE 1 2).setPrt fPRT_CFG_ADMIN 1 adm).setPrt fPRT_STATE_LINK_RAW 1 raw).setPrt fPRT_STATE_HOLD_TIMER 1 hold) with ports := { b.ports with walks := [(1, none)] } }
def stl1 : Stall := ⟨0, 5, List.replicate 80 9, 80, true, true, false, 0x84, 1, 0, true, 0, false, false, 1, true, false, 2, 1, 50, 40, none, 0, 0, 80, 1, 3, 0, some 1, 2, 0, false⟩
def slp1 : Slip := ⟨5, 0, 5, 3, 1, false, false, false, 1, 0, false, 0, 0, none, none, none, false, false, false, 9, 2⟩
def wks (b : State) (cls : Option Nat) (ids : List Nat) : State := { b with ports := { b.ports with walks := [(1, cls)] }, fwd := { b.fwd with queues := [(9, ids)], slips := [{ slp1 with id := 5 }, { slp1 with id := 6, outPort := 2 }], stalls := [stl1, { stl1 with idx := 8 }] } }
def fc (b : State) : State := ((((upP b 1).setPrt fPRT_FC_CFG_MODE 1 2).setPrt fPRT_STATE_STATE 1 4).setPrt fPRT_FC_CFG_PRIO_EN 1 255).setPrt fPRT_FC_CFG_TX_QUANTA 1 999

/-- States and operands that meet the hypotheses of `PortAdmin`, clause by clause. -/
theorem witness_PortAdmin :
    (∃ (s : State) (m : Master) (port : Nat), port < 256 ∧ s.passes m .PRT_CFG (port / 32) (port % 32) ∧
      s.gateOpen (some m) .PRT (port / 32) = true ∧ s.portExists port = true ∧ s.prt fPRT_CFG_LOOPBACK port ≤ 2 ∧
      1518 ≤ s.prt fPRT_CFG_MAX_FRAME port ∧ s.prt fPRT_CFG_MAX_FRAME port ≤ 9600 ∧ s.prt fPRT_CFG_ADMIN port = 0 ∧
      s.portState port = psDISABLED ∧ port ∉ s.ports.safe) ∧
    (∃ (s : State) (m : Master) (port : Nat), port < 256 ∧ s.passes m .PRT_CFG (port / 32) (port % 32) ∧
      s.gateOpen (some m) .PRT (port / 32) = true ∧ s.portExists port = true ∧ s.prt fPRT_CFG_LOOPBACK port ≤ 2 ∧
      1518 ≤ s.prt fPRT_CFG_MAX_FRAME port ∧ s.prt fPRT_CFG_MAX_FRAME port ≤ 9600 ∧ s.prt fPRT_CFG_ADMIN port = 1 ∧
      (s.portState port = psDOWN ∨ s.portState port = psHOLD_UP) ∧ s.rxOpen port = none) ∧
    (∃ (s : State) (m : Master) (port : Nat), port < 256 ∧ s.passes m .PRT_CFG (port / 32) (port % 32) ∧
      s.gateOpen (some m) .PRT (port / 32) = false ∧ s.portExists port = true ∧ s.prt fPRT_CFG_LOOPBACK port ≤ 2 ∧
      1518 ≤ s.prt fPRT_CFG_MAX_FRAME port ∧ s.prt fPRT_CFG_MAX_FRAME port ≤ 9600 ∧ s.prt fPRT_CFG_ADMIN port = 0 ∧
      s.portState port = psDISABLED ∧ port ∉ s.ports.safe) ∧
    (∃ (s : State) (m : Master) (o : Nat) (data : Word), o < 32 ∧ s.passes m .PRT_OCT_MODE (o / 4) (o % 4) ∧ bitsOf data.toNat 3 0 ≤ 14 ∧
      modeFecOk (bitsOf data.toNat 3 0) (bitsOf data.toNat 9 8) = true ∧ s.octIdle o = true) ∧
    (∃ (s : State) (m : Master) (o : Nat) (data : Word), o < 32 ∧ s.passes m .PRT_OCT_MODE (o / 4) (o % 4) ∧ bitsOf data.toNat 3 0 ≤ 14 ∧
      modeFecOk (bitsOf data.toNat 3 0) (bitsOf data.toNat 9 8) = true ∧ s.octIdle o = false ∧ s.hst.rejects.length < 16) ∧
    (∃ (s : State) (o t0 : Nat), AMap.get? s.ports.octAt o = some t0 ∧ s.rd fPRT_OCT_STATUS_ACTIVE_MODE (o / 4) (o % 4) ≠ 0) ∧
    (∃ (s : State) (port : Nat) (taps : List Word), s.portExists port = true ∧ s.portState port ≠ psDISABLED ∧
      s.on fPRT_OCT_MODE_AN_EN (port / 32) (port % 32 / 8) = true ∧ s.on fPRT_OCT_MODE_TRAIN_EN (port / 32) (port % 32 / 8) = false) ∧
    (∃ (s : State) (port : Nat) (taps : List Word), s.portExists port = true ∧ s.portState port ≠ psDISABLED ∧
      s.on fPRT_OCT_MODE_AN_EN (port / 32) (port % 32 / 8) = true ∧ s.prt fPRT_STATE_LINK_RAW port = 0) ∧
    (∃ (s : State) (port mode fec : Nat) (taps : List Word), s.portExists port = true ∧ s.portState port = psHOLD_UP ∧
      s.rxOpen port = none ∧ s.on fPRT_OCT_MODE_AN_EN (port / 32) (port % 32 / 8) = true ∧ (mode, fec) ≠ s.advertised port ∧
      s.prt fPRT_STATE_LINK_RAW port = 1) ∧
    (∃ (s : State) (port : Nat) (o : AnOutcome) (taps : List Word), s.on fPRT_OCT_MODE_AN_EN (port / 32) (port % 32 / 8) = false ∧
      s.on fPRT_OCT_MODE_TRAIN_EN (port / 32) (port % 32 / 8) = false) ∧
    (∃ (s : State) (port mode fec : Nat) (taps : List Word), s.portExists port = true ∧ s.portState port ≠ psDISABLED ∧
      s.on fPRT_OCT_MODE_AN_EN (port / 32) (port % 32 / 8) = false ∧ s.on fPRT_OCT_MODE_TRAIN_EN (port / 32) (port % 32 / 8) = true) :=
  ⟨⟨openG (((((upP (ready base) 1).setPrt fPRT_CFG_LOOPBACK 1 1).setPrt fPRT_CFG_MAX_FRAME 1 9000).setPrt fPRT_CFG_ADMIN 1 0).setPrt fPRT_STATE_STATE 1 0) .a .PRT 0, .a, 1, by decide +kernel⟩,
    ⟨openG (((((upP (ready base) 1).setPrt fPRT_CFG_LOOPBACK 1 1).setPrt fPRT_CFG_MAX_FRAME 1 9000).setPrt fPRT_CFG_ADMIN 1 1).setPrt fPRT_STATE_STATE 1 3) .a .PRT 0, .a, 1, by decide +kernel⟩,
    ⟨(((((upP (ready base) 1).setPrt fPRT_CFG_LOOPBACK 1 1).setPrt fPRT_CFG_MAX_FRAME 1 9000).setPrt fPRT_CFG_ADMIN 1 0).setPrt fPRT_STATE_STATE 1 0), .a, 1, by decide +kernel⟩,
    ⟨((ready base).wr fPRT_OCT_STATUS_ACTIVE_MODE 0), .b, 0, 0xFFFFF02D, by decide +kernel⟩,
    ⟨((upP (ready base) 1).setPrt fPRT_STATE_STATE 1 3), .b, 0, 0xFFFFF02D, by decide +kernel⟩,
    ⟨{(base.wr fPRT_OCT_STATUS_ACTIVE_MODE 3) with ports := { base.ports with octAt := [(0, 5)] } }, 0, 5, by decide +kernel⟩,
    ⟨((((upP base 1).setPrt fPRT_STATE_STATE 1 3).wr fPRT_OCT_MODE_AN_EN 1).wr fPRT_OCT_MODE_TRAIN_EN 0), 1, [], by decide +kernel⟩,
    ⟨(((((upP base 1).setPrt fPRT_STATE_STATE 1 3).wr fPRT_OCT_MODE_AN_EN 1).wr fPRT_OCT_MODE_TRAIN_EN 1).setPrt fPRT_STATE_LINK_RAW 1 0), 1, [], by decide +kernel⟩,
    ⟨(((((upP base 1).setPrt fPRT_STATE_STATE 1 3).wr fPRT_OCT_MODE_AN_EN 1).wr fPRT_OCT_MODE_TRAIN_EN 1).setPrt fPRT_STATE_LINK_RAW 1 1), 1, 3, 7, [], by decide +kernel⟩,
    ⟨(((upP base 1).wr fPRT_OCT_MODE_AN_EN 0).wr fPRT_OCT_MODE_TRAIN_EN 0), 1, .failed, [], by decide +kernel⟩,
    ⟨((((upP base 1).setPrt fPRT_STATE_STATE 1 3).wr fPRT_OCT_MODE_AN_EN 0).wr fPRT_OCT_MODE_TRAIN_EN 1), 1, 3, 7, [5, 6, 7, 8], by decide +kernel⟩⟩

/-- States and operands that meet the hypotheses of `PortLinks`, clause by clause. -/
theorem witness_PortLinks :
    (∃ (s : State) (port : Nat), s.canRise port = true ∧ s.portState port = psDOWN ∧ 0 < s.prt fPRT_TIMERS_HOLD_UP_MS port) ∧
    (∃ (s : State) (port : Nat), s.canRise port = true ∧ s.portState port = psUP) ∧
    (∃ (s : State) (port : Nat), s.canRise port = false) ∧
    (∃ (s : State) (port lane : Nat), s.portExists port = true ∧ s.prt fPRT_STATE_LINK_RAW port = 1 ∧ s.portState port = psHOLD_UP ∧
      s.live port = false ∧ s.rxOpen port = none) ∧
    (∃ (s : State) (port lane : Nat), s.portExists port = true ∧ s.prt fPRT_STATE_LINK_RAW port = 1 ∧ s.portState port = psUP ∧
      s.live port = true ∧ s.rxOpen port = none ∧ 0 < s.prt fPRT_TIMERS_DOWN_HOLD_MS port) ∧
    (∃ (s : State) (port lane cause : Nat), s.prt fPRT_STATE_LINK_RAW port = 0) ∧
    (∃ (s : State) (port t0 : Nat), AMap.get? s.ports.holdUp port = some t0 ∧ t0 ≤ s.tim.rc ∧ s.portState port = psHOLD_UP) ∧
    (∃ (s : State) (port t0 : Nat), AMap.get? s.ports.holdUp port = some t0 ∧ s.tim.rc < t0) ∧
    (∃ (s : State) (port t0 : Nat), AMap.get? s.ports.downHold port = some t0 ∧ t0 ≤ s.tim.rc ∧ s.portState port = psUP ∧
      s.prt fPRT_CFG_FORGET_ON_DOWN port = 0 ∧ AMap.get? s.ports.txNow port = none ∧ AMap.getD s.ports.txWait port [] = [] ∧
      (s.heldEgOf (port / 32)).all (fun h => h.2.copy.slip.outPort != port) = true ∧
      (AMap.getD s.fwd.sel (port / 32) []).all (fun c => c.slip.outPort != port) = true) ∧
    (∃ (s : State) (port t0 : Nat), AMap.get? s.ports.downHold port = some t0 ∧ s.tim.rc < t0) :=
  ⟨⟨rise base 1, 1, by decide +kernel⟩,
    ⟨{rise base 4 with ports := { base.ports with downHold := [(1, 5)] } }, 1, by decide +kernel⟩,
    ⟨(rise base 0), 1, by decide +kernel⟩,
    ⟨fall base 3 0, 1, 4, by decide +kernel⟩,
    ⟨fall base 4 1, 1, 4, by decide +kernel⟩,
    ⟨(base.setPrt fPRT_STATE_LINK_RAW 1 0), 1, 4, 1, by decide +kernel⟩,
    ⟨{ (base.setPrt fPRT_STATE_STATE 1 3) with ports := { base.ports with holdUp := [(1, 0)] } }, 1, 0, by decide +kernel⟩,
    ⟨{ (base.setPrt fPRT_STATE_STATE 1 3) with ports := { base.ports with holdUp := [(1, 2^200)] } }, 1, 2^200, by decide +kernel⟩,
    ⟨{ ((base.setPrt fPRT_STATE_STATE 1 4).setPrt fPRT_CFG_FORGET_ON_DOWN 1 0) with ports := { base.ports with downHold := [(1, 0)] } }, 1, 0, by decide +kernel⟩,
    ⟨{ (base.setPrt fPRT_STATE_STATE 1 4) with ports := { base.ports with downHold := [(1, 2^200)] } }, 1, 2^200, by decide +kernel⟩⟩

/-- States and operands that meet the hypotheses of `Walks`, clause by clause. -/
theorem witness_Walks :
    (∃ (s : State) (port q : Nat) (cls : Option Nat) (x : Slip) (st : Stall), s.ports.walks.find? (·.1 == port) = some (port, cls) ∧
      s.walkHead port cls = some (q, x.id) ∧ s.slip? x.id = some x ∧ s.frameOf x = some st ∧ 0 < st.refs ∧ (s.queue q).Nodup ∧
      s.marked 0x1C 15 0 x.id = none ∧ s.marked 0x1D 15 0 x.id = none) ∧
    (∃ (s : State) (port n : Nat), (∀ w ∈ s.ports.walks, w.1 ≠ port)) ∧
    (∃ (s : State) (port n : Nat) (cls : Option Nat), s.ports.walks.find? (·.1 == port) = some (port, cls) ∧ s.walkHead port cls = none) ∧
    (∃ (s : State) (port : Nat), s.ports.walks = [(port, none)] ∧ s.walkDone port none = true ∧ s.portState port = psFLUSH ∧
      s.prt fPRT_CFG_ADMIN port = 1 ∧ s.prt fPRT_STATE_LINK_RAW port = 0) ∧
    (∃ (s : State) (port : Nat), s.ports.walks = [(port, none)] ∧ s.walkDone port none = true ∧ s.portState port = psFLUSH ∧
      s.prt fPRT_CFG_ADMIN port = 1 ∧ s.prt fPRT_STATE_LINK_RAW port = 1 ∧ s.prt fPRT_STATE_HOLD_TIMER port = 1) ∧
    (∃ (s : State) (port : Nat), s.ports.walks = [(port, none)] ∧ s.walkDone port none = true ∧ s.portState port = psFLUSH ∧
      s.prt fPRT_CFG_ADMIN port = 1 ∧ s.prt fPRT_STATE_LINK_RAW port = 1 ∧ s.prt fPRT_STATE_HOLD_TIMER port = 0) ∧
    (∃ (s : State) (port : Nat), s.ports.walks = [(port, none)] ∧ s.walkDone port none = true ∧ s.portState port = psFLUSH ∧
      s.prt fPRT_CFG_ADMIN port = 0 ∧ s.rxOpen port = none) ∧
    (∃ (s : State) (port : Nat), s.ports.walks = [(port, none)] ∧ s.walkDone port none = true ∧ s.portState port = psSAFE ∧
      port ∉ s.ports.safe ∧ s.prt fPRT_CFG_ADMIN port = 1 ∧ s.prt fPRT_STATE_LINK_RAW port = 0) :=
  ⟨⟨wks base none [6, 5], 1, 9, none, { slp1 with id := 5 }, stl1, by decide +kernel⟩,
    ⟨{ base with ports := { base.ports with walks := [(2, none)] } }, 1, 5, by decide +kernel⟩,
    ⟨wk base 0 0 0, 1, 5, none, by decide +kernel⟩,
    ⟨wk base 1 0 0, 1, by decide +kernel⟩,
    ⟨wk base 1 1 1, 1, by decide +kernel⟩,
    ⟨wk base 1 1 0, 1, by decide +kernel⟩,
    ⟨wk base 0 1 0, 1, by decide +kernel⟩,
    ⟨(wk base 1 0 1).setPrt fPRT_STATE_STATE 1 5, 1, by decide +kernel⟩⟩

/-- States and operands that meet the hypotheses of `FlowControl`, clause by clause. -/
theorem witness_FlowControl :
    (∃ (s : State) (port prio till : Nat), prio < 8 ∧ AMap.get? s.ports.pause (port, prio) = some till ∧ till ≤ s.tim.rc) ∧
    (∃ (s : State) (port prio till : Nat), AMap.get? s.ports.pause (port, prio) = some till ∧ s.tim.rc < till) ∧
    (∃ (s : State) (port cls : Nat), s.ports.pfcDue.find? (·.1 == port) = some (port, cls, true) ∧ AMap.get? s.ports.txNow port = none ∧
      s.prt fPRT_FC_CFG_MODE port = 2 ∧ s.portState port = psUP ∧ bitOf (s.prt fPRT_FC_CFG_PRIO_EN port) (s.fcPrio port cls) = true ∧
      0 < s.prt fPRT_FC_CFG_TX_QUANTA port) ∧
    (∃ (s : State) (port : Nat), ((AMap.get? s.ports.txNow port).isSome = true ∨ s.portState port ≠ psUP)) ∧
    (∃ (s : State) (port prio t0 : Nat), s.prt fPRT_FC_CFG_MODE port = 2 ∧ AMap.get? s.ports.pfcRepeat (port, prio) = some t0 ∧
      t0 ≤ s.tim.rc ∧ AMap.get? s.ports.txNow port = none ∧ s.portState port = psUP ∧ s.generates port prio = true ∧
      s.xoffNow port prio = true ∧ 0 < s.prt fPRT_FC_CFG_TX_QUANTA port) ∧
    (∃ (s : State) (port prio : Nat), prio < 8 ∧ s.prt fPRT_FC_CFG_MODE port = 2 ∧ s.stormDue port prio = true) ∧
    (∃ (s : State) (port prio : Nat), s.stormDue port prio = false) ∧
    (∃ (s : State) (port prio : Nat), prio < 8 ∧ s.prt fPRT_FC_CFG_MODE port = 2 ∧ s.stormOver port prio = true) :=
  ⟨⟨{ base with ports := { base.ports with pause := [((1,2), 5)], pauseAcc := [((1,2), 7)] } }, 1, 2, 5, by decide +kernel⟩,
    ⟨{ base with ports := { base.ports with pause := [((1,2), 2^200)], pauseAcc := [((1,2), 7)] } }, 1, 2, 2^200, by decide +kernel⟩,
    ⟨{ fc base with ports := { base.ports with pfcDue := [(2, 2, false), (1, 2, true), (1, 4, false)] } }, 1, 2, by decide +kernel⟩,
    ⟨{ fc base with ports := { base.ports with txNow := [(1, ⟨⟨0,0,0,0,0,false,false,false,0,0,false,0,0,none,none,none,false,false,false,0,0⟩,0,0,[],0,⟨none,none,none⟩,[],false,false,none,false,false,none,0,0⟩)] } }, 1, by decide +kernel⟩,
    ⟨{ ((fc base).setPrt fPRT_STATE_STATE 1 4).wr fSTB_ING_USED_XOFF_STATE 1 0 (pc 1 ((fc base).prioClass 1 3)) with ports := { base.ports with pfcRepeat := [((1,3), 5)] } }, 1, 3, 5, by decide +kernel⟩,
    ⟨{ ((((fc base).setPrt fPRT_PFC_WD_EN 1 1).setPrt fPRT_PFC_STATUS_STORMED 1 0xF0).setPrt fPRT_PFC_WD_WD_MS 1 0) with ports := { base.ports with stormAt := [((1,3), 0)] } }, 1, 3, by decide +kernel⟩,
    ⟨base, 1, 3, by decide +kernel⟩,
    ⟨{ ((fc base).setPrt fPRT_PFC_STATUS_STORMED 1 0xF8).setPrt fPRT_PFC_WD_RESTORE_MS 1 0 with ports := { base.ports with restoreAt := [((1,3), 0)] } }, 1, 3, by decide +kernel⟩⟩

end WC

namespace WD

def upP (b : State) (port : Nat) (m : Nat := 4) : State := (b.wr fPRT_OCT_STATUS_ACTIVE_MODE m (port/32) (port%32/8))
def rxf (bs : List Byte) (f : RxFate) : RxFrame := ⟨1, bs, false, false, false, 99, 98, 1, true, false, [], f, 7⟩
def goodF (n : Nat) (et : Nat := 0x0800) (pl : List Byte := []) : List Byte := let h := (List.replicate 12 (7 : Byte)) ++ natBytes 2 et ++ pl ++ List.replicate (n - 18 - pl.length) 3; h ++ fcsBytes h
def stl (done bad : Bool) : Stall := ⟨0, 5, (goodF 80), 80, true, done, bad, 0x84, 1, 0, true, 0, false, false, 1, true, false, 2, 1, 50, 40, none, 0, 0, 80, 1, 3, 0, some 1, 2, 0, false⟩
def lf (ed ent : Bool) : LoopFrame := ⟨goodF 80, ent, 2, 50, 40, 1, ed, 0, 0, false, none, 0, 3⟩
def slp (port : Nat) : Slip := ⟨9, 0, 5, 3, 1, false, false, false, port, 0, false, 0, 0, none, none, none, false, false, false, 8, 2⟩
def egc (s : Slip) : EgCopy := ⟨s, 8, 80, [1,2,3], 3, ⟨none,none,none⟩, [], false, false, none, false, false, none, 0, 0⟩
def rcl (b : State) : State := (List.range 8).foldl (fun s c => s.setRg .STB_ING_LIMIT 0xFFFFF 0 (pc 1 c)) ((((((((b.setRg .CLE_ED_STATUS 0).wr fSTB_STATUS_READY 1).wr fSTB_POOL_FREE_FREE 99 0 0).wr fSTB_POOL_RSV_RSV 3 0 0).wr fSTB_POOL_FREE_FREE 99 0 1).wr fSTB_POOL_RSV_RSV 3 0 1).wr fSTB_SLIP_FREE 77).setRg .STB_EG_LIMIT 0xFFFFF 0 (pc 256 5))
def rclt (b : State) : State := (List.range 8).foldl (fun s c => s.setRg .STB_ING_USED 0 0 (pc 1 c)) { ((rcl b).setRg .STB_EG_USED 0 0 (pc 256 5)).setPrt fPRT_CFG_MAX_FRAME 1 9000 with
  fwd := { b.fwd with rx := [{ rxf (goodF 80) .waiting with ended := true }], credit := [(0, 6999)], slips := [⟨0, 0, 5, 3, 1, false, false, false, 2, 0, false, 0, 0, none, none, none, false, false, false, 8, 2⟩], linkFifo := [(0, [0])] }
  tables := [((0x01, 0, 0), [0, 0, 0, 0, 0, 0, 0x703]), ((0x02, 0, 3), List.replicate 32 0 ++ [word (2 ^ 21 + 5 * 2 ^ 25), 0, 0, 0])] }
def hw (b : State) : State := { ((((b.setPrt fPRT_STATE_STATE 1 4).setRg .PRT_PFC_STATUS 0 0 1).setRg .HAR_GATE_CFG 0 0 1).setRg .CLE_ED_STATUS 0).setRg .RAT_CFG 0 with
  fwd := { b.fwd with slips := [slp 1], stalls := [stl true false], queues := [(8, [9])] }
  tables := [((0x29, 0, 8), [(0x10000 + 0x4000 : Word) + 3, 0, 0, 0, 0, 0, 0]), ((0x2A, 0, 3), [(0x10001 : Word), 0, 0, 0, 0, 0, 0]), ((0x2B, 0, 1), [(0x0 : Word), 0, 0, 0, 0, 0, 0])] }
def tx (b : State) (st : Stall) (now : Bool) : State := { ((((b.setPrt fPRT_STATE_STATE 1 4).setRg .PRT_PFC_STATUS 0 0 1).setRg .HAR_GATE_CFG 0 0 1).setRg .PAR_FLOW_CFG 0).setPrt fPRT_CFG_MAX_FRAME 1 9000 with
  fwd := { b.fwd with slips := [slp 1], stalls := [st], queues := [] }, ports := { b.ports with txWait := if now then [] else [(1, [egc (slp 1)])], txNow := if now then [(1, egc (slp 1))] else [] } }
def arr (b : State) (r0 r1 : Word) (cbs : Word) : State :=
  let b := upP b 1
  let s := (List.range 8).foldl (fun s c => (s.setRg .STB_EG_LIMIT 0xFFFFF 0 (pc 2 c)).setRg .STB_EG_USED 0 0 (pc 2 c)) (rclt b)
  let s := (((((((s.setRg .BRS_LEARN_CFG 0 0).wr fBRS_PORT_UNTAG_V 1 0 1).wr fBRS_PORT_UNTAG_BD 5 0 1).wr fCAT_SLICE_I_EN 1 0 0).wr fCAT_CFG_SPLIT_I 1 0).setPrt fPRT_STATE_STATE 2 4).wr fCAT_SLICE_E_EN 1 0 0).wr fCAT_CFG_SPLIT_E 1 0
  { s with
    tables := [((0x01, 0, 0), [0, 0, 0, 0, 0, 0, 0x703]), ((0x02, 0, 3), word (2 ^ 31 + 5 * 2 ^ 14) :: List.replicate 35 0),
      ((0x08, 0, 0), [word (3 + 6 * 2 ^ 15), 0, 0, 0]), ((0x0A, 15, 5), [word (2 ^ 28), 0, 0, 0]), ((0x0C, 0, 524288), [0x07070707, word (2 ^ 30 + 5 * 2 ^ 16 + 0x0707), 2]),
      ((0x1A, 0, 3), List.replicate 20 0 ++ [7, r0, r1]), ((0x1B, 0, 3), List.replicate 20 0 ++ [7, r0, r1]), ((0x2C, 0, 3), [129, 0, 0, 0, 0, cbs, 0]), ((0x2D, 0, 3), [129, 0, 0, 0, 0, cbs, 0])] }
def arx : RxFrame := { rxf (goodF 80) .waiting with ended := true }
def akv (s : State) : List Byte := match (s.readerDecide (arx.ing 0)).out with | .fwd kv => kv | _ => []
def alk (s : State) : Look := match s.lookReads (arx.ing 0) (akv s) 0 with | .inr l => l | .inl _ => ⟨[],0,[],false,Rd.none,Rd.none,Rd.none,Rd.none,Rd.none,0,0,0,0,0,[]⟩
def ach (s : State) : Chosen := match s.choose 0 (alk s) with | .inr c => c | .inl _ => ⟨0,none,0⟩
def hw2 (b : State) : State := let s := hw b; { s with
  fwd := { s.fwd with slips := [slp 1, { slp 1 with id := 10, svc := 9 }], queues := [(8, [9]), (9, [10])], rounds := [((0, true, 3, true, 2), [(9, 5000)])] },
  tables := ((0x29, 0, 9), [(0x10000 + 0x4000 : Word) + 3 + 0x1000, 0, 0, 0, 0, 0, 0]) :: s.tables.map (fun x => if x.1 = (0x29, 0, 8) then (x.1, [(0x10000 + 0x4000 : Word) + 3 + 0x1000, 0, 0, 0, 0, 0, 0]) else x),
  flt := { s.flt with marks := [], nextMarks := [] } }
def ems (b : State) (r0 r1 cbs : Word) : State := let s := (arr b r0 r1 cbs).setPrt fPRT_CFG_MAX_FRAME 2 9000; { s with fwd := { s.fwd with slips := [slp 2], stalls := [stl true false], sel := [(0, [egc (slp 2)])] } }
def txm (b : State) (c : EgCopy) : State := let s := tx b (stl true false) false; { s with ports := { s.ports with txWait := [(1, [c])] } }
def gated (s : State) : State := { ((s.wr fHAR_GATE_CFG_EN 1 0 1).wr fHAR_CAD_LEN_LEN 1 0 1).wr fHAR_CAD_CYCLE_CYCLE_NS 1000 0 1 with flt := { s.flt with marks := [], nextMarks := [] } }
def osc : EgCopy := { egc (slp 1) with hdr := List.replicate 80 9, marks := ⟨some (20, none), none, none⟩ }
def tsc : EgCopy := { egc (slp 1) with hdr := List.replicate 80 9, marks := ⟨none, some 20, none⟩ }
def flk (s : State) : List Byte := s.flowBytes 0 (stl true false).layout []
def flf (s : State) : Flow := ⟨flk s, 7, 1, (stl true false).layout, none, 1, 500, 5, 0, 6, 1, 30, 40⟩
def flow0 (b : State) : State := (((txm b (egc (slp 1))).wr fPAR_FLOW_CFG_EN 1 0).wr fPAR_FLOW_PROF_EN 1 0 (stl true false).layout).wr fPAR_FLOW_PROF_OUT_PORT 0 0 (stl true false).layout
def flow1 (b : State) : State := { flow0 b with arc := { (flow0 b).arc with flows := [((0, (flow0 b).flowBucket 0 (flk (flow0 b)) (stl true false).inPort (stl true false).layout none, 0), { flf (flow0 b) with inPort := (stl true false).inPort })] } }
def unkc : EgCopy := { egc (slp 1) with unk := true, hdr := List.replicate 9999 9 }

/-- Where one row is valid, looks at no bit of the key and stands below the split, every key finds it alone. -/
theorem one_row {s : State} {eg wide ed : Bool} {p tag a : Nat} (hw : wide = false) (hv : (s.validRows eg p).map (·.1) = [a])
    (hm : ∀ x ∈ s.validRows eg p, entB x.2 20 0 = true ∧ entB x.2 20 (if ed then 2 else 1) = true ∧ wordsNat ((x.2.drop 10).take 10) = 0)
    (ht : s.sliceTakes eg p (a / 512) tag false = true) (hs : a < s.split eg p * 512) :
    ∀ key, s.catSearch eg p tag wide ed key = (some a, none) := by
  intro key
  obtain ⟨⟨b, e⟩, h, rfl⟩ := List.map_eq_singleton_iff.mp hv
  have m := hm (b, e) (by simp [h])
  have r : rowMatches e key ed = true := by cases ed <;> simp_all [rowMatches]
  subst hw
  simp [State.catSearch, h, ht, r, hs]
/-- A flow's bucket depends on the registers alone. -/
theorem flowBucket_congr {s t : State} (h : s.regs = t.regs) (p : Nat) (k : List Byte) (i l : Nat) (o : Option Nat) :
    s.flowBucket p k i l o = t.flowBucket p k i l o := by
  simp only [State.flowBucket, State.rd, State.rg, h]
/-- A flow listed alone, in way 0 of its bucket, is found there. -/
theorem flow_way {s : State} {p n : Nat} {f : Flow} (h : s.arc.flows = [((p, n, 0), f)]) :
    s.flowWay p n f.key f.inPort f.layout f.outPort = some 0 ∧ AMap.get? s.arc.flows (p, n, 0) = some f := by
  have g : AMap.get? s.arc.flows (p, n, 0) = some f := by simp [h, AMap.get?]
  exact ⟨by simp [State.flowWay, List.range_succ_eq_map, g], g⟩
/-- The flow of `flow1` is listed in its own bucket. -/
theorem flow1_flows : (flow1 base).arc.flows = [((0, (flow1 base).flowBucket 0 (flk (flow1 base)) (stl true false).inPort (stl true false).layout none, 0),
    { flf (flow1 base) with inPort := (stl true false).inPort })] := by
  have k : flk (flow1 base) = flk (flow0 base) := rfl
  have f : flf (flow1 base) = flf (flow0 base) := by unfold flf; rw [k]
  rw [k, f, flowBucket_congr (s := flow1 base) (t := flow0 base) rfl]
  rfl

/-- States and operands that meet the hypotheses of `MacReceive`, clause by clause. -/
theorem witness_MacReceive :
    (∃ (s : State) (port phase : Nat) (head : List Byte), s.portExists port = true ∧ s.portState port ≠ psDISABLED ∧ s.rxOpen port = none) ∧
    (∃ (s : State) (port phase : Nat) (head : List Byte), ((s.rxOpen port).isSome = true ∨ s.portState port = psDISABLED)) ∧
    (∃ (s : State) (port : Nat) (tail : List Byte) (x : RxFrame), s.rxOpen port = some x ∧ x.port = port ∧ x.trunc = false ∧
      x.notUp = false ∧ x.fate = .waiting ∧ x.late = [] ∧ x.bad = false ∧ 64 ≤ (x.bytes ++ tail).length ∧
      (x.bytes ++ tail).length ≤ s.prt fPRT_CFG_MAX_FRAME port ∧ fcsGood (x.bytes ++ tail) = true ∧
      bytesNat (((x.bytes ++ tail).drop 12).take 2) ≠ 0x8808) ∧
    (∃ (s : State) (port : Nat) (tail : List Byte) (x : RxFrame), s.rxOpen port = some x ∧ x.port = port ∧ x.trunc = false ∧
      x.notUp = false ∧ x.fate = .waiting ∧ x.late = [] ∧ 64 ≤ (x.bytes ++ tail).length ∧
      (x.bytes ++ tail).length ≤ s.prt fPRT_CFG_MAX_FRAME port ∧ (fcsGood (x.bytes ++ tail) = false ∨ x.bad = true) ∧
      bitOf (s.rd fARC_CAP_DROP_MASK_MASK 0 4) 4 = false) ∧
    (∃ (s : State) (port phase q : Nat) (frame : List Byte), s.portExists port = true ∧ s.rxOpen port = none ∧ s.portState port = psUP ∧
      frame.length = 64 ∧ 64 ≤ s.prt fPRT_CFG_MAX_FRAME port ∧ fcsGood frame = true ∧ bytesNat ((frame.drop 12).take 2) = 0x8808 ∧
      bytesNat ((frame.drop 14).take 2) = 1 ∧ bytesNat ((frame.drop 16).take 2) = q ∧ 0 < q ∧ s.prt fPRT_FC_CFG_MODE port = 1 ∧
      bitOf (s.rd fARC_CAP_DROP_MASK_MASK 0 4) 8 = false) ∧
    (∃ (s : State) (port : Nat) (bytes : List Byte) (x : RxFrame) (st : Stall), s.rxOpen port = some x ∧ s.rxStall x = some st ∧
      st.bad = false ∧ stallSize st.pool < (x.bytes ++ bytes).length ∧ stallSize st.pool < s.prt fPRT_CFG_MAX_FRAME port) ∧
    (∃ (s : State) (port : Nat) (syms : List Nat), s.portExists port = true ∧ s.portState port ≠ psDISABLED) ∧
    (∃ (s : State) (port n : Nat), s.portExists port = true ∧ s.portState port ≠ psDISABLED ∧ 0 < n ∧ n ≤ 15) :=
  ⟨⟨{ (upP base 1).setPrt fPRT_STATE_STATE 1 3 with fwd := { base.fwd with rx := [rxf [1] .gone].map fun x => { x with port := 2 } } }, 1, 5, [1,2,3], by decide +kernel⟩,
    ⟨{ upP base 1 with fwd := { base.fwd with rx := [rxf [1] .gone] } }, 1, 5, [1,2,3], by decide +kernel⟩,
    ⟨{ base.setPrt fPRT_CFG_MAX_FRAME 1 9000 with fwd := { base.fwd with rx := [rxf ((goodF 64).take 20) .waiting, { rxf [1] .gone with port := 2 }] } }, 1, (goodF 64).drop 20, rxf ((goodF 64).take 20) .waiting, by decide +kernel⟩,
    ⟨{ (base.setPrt fPRT_CFG_MAX_FRAME 1 9000) with fwd := { base.fwd with rx := [rxf ((goodF 64).take 20) .waiting, { rxf [1] .gone with port := 2 }] } }, 1, (goodF 64).drop 21 ++ [1,2], rxf ((goodF 64).take 20) .waiting, by decide +kernel⟩,
    ⟨(((upP base 1).setPrt fPRT_CFG_MAX_FRAME 1 9000).setPrt fPRT_STATE_STATE 1 4).setPrt fPRT_FC_CFG_MODE 1 1, 1, 3, 0x1234, goodF 64 0x8808 [0, 1, 0x12, 0x34], by decide +kernel⟩,
    ⟨{ base.setPrt fPRT_CFG_MAX_FRAME 1 9000 with fwd := { base.fwd with stalls := [stl false false], rx := [rxf (goodF 80) (.stalled 0 5), { rxf [1] .gone with port := 2 }] } }, 1, goodF 64, rxf (goodF 80) (.stalled 0 5), stl false false, by decide +kernel⟩,
    ⟨(upP base 1).setPrt fPRT_STATE_STATE 1 3, 1, [3], by decide +kernel⟩,
    ⟨(upP base 1).setPrt fPRT_STATE_STATE 1 3, 1, 15, by decide +kernel⟩⟩

/-- States and operands that meet the hypotheses of `Forwarding`, clause by clause. -/
theorem witness_Forwarding :
    (∃ (s : State) (p : Nat), (∀ x ∈ s.fwd.rx, x.port / 32 ≠ p ∨ x.ready = false) ∧ s.loop p = [] ∧ s.injq p = []) ∧
    (∃ (s : State) (p k cls sh nx : Nat) (fr : Bool) (x : RxFrame), p < 8 ∧ s.fwd.rx = [x] ∧ x.port / 32 = p ∧ x.ready = true ∧
      x.ended = true ∧ s.loop p = [] ∧ s.injq p = [] ∧ s.flt.marks = [] ∧ s.flt.nextMarks = [] ∧ s.lrn.repairs = [] ∧ s.edState x.ed ≠ 5 ∧
      (s.readerDecide (x.ing 0)).out = .recirc cls sh nx fr ∧ s.on fSTB_STATUS_READY = true ∧
      s.choosePool ((s.readerDecide (x.ing 0)).p + 64) true = some k ∧
      (∀ c, c < 8 → s.rd fSTB_ING_USED_USED 0 (pc x.port c) + poolUnits k ≤ s.rd fSTB_ING_LIMIT_LIMIT 0 (pc x.port c)) ∧
      s.rd fSTB_EG_USED_USED 0 (pc (256 + p) cls) + poolUnits k ≤ s.rd fSTB_EG_LIMIT_LIMIT 0 (pc (256 + p) cls) ∧
      (s.link p).length < 16384 ∧ 0 < s.rd fSTB_SLIP_FREE) ∧
    (∃ (s : State) (p a k col : Nat) (x : RxFrame) (kv : List Byte) (l : Look) (r : Chosen), s.arrives p a x kv l r ∧
      rAct (rowRes (s.ent 0x1A p a)) = 0 ∧ rMirV (rowRes (s.ent 0x1A p a)) = false ∧ rCapture (rowRes (s.ent 0x1A p a)) = false ∧
      (rReinV (rowRes (s.ent 0x1A p a)) = true → (s.meter 0x2C p (rRein (rowRes (s.ent 0x1A p a))) (s.startColour (x.ing 0)) (s.readerDecide (x.ing 0)).p).2 = (col, false)) ∧
      (rReinV (rowRes (s.ent 0x1A p a)) = false → col = s.startColour (x.ing 0)) ∧ s.stateRefusal (resDest r.r) = none ∧
      s.stormed (resDest r.r) (s.classOf (x.ing 0) (some (rowRes (s.ent 0x1A p a))) none r.r) = false ∧ s.on fSTB_STATUS_READY = true ∧
      s.choosePool ((s.readerDecide (x.ing 0)).p + 64) true = some k ∧
      (∀ c, c < 8 → s.rd fSTB_ING_USED_USED 0 (pc x.port c) + poolUnits k ≤ s.rd fSTB_ING_LIMIT_LIMIT 0 (pc x.port c)) ∧
      s.rd fSTB_EG_USED_USED 0 (pc (resDest r.r) (s.classOf (x.ing 0) (some (rowRes (s.ent 0x1A p a))) none r.r)) + poolUnits k ≤ s.rd fSTB_EG_LIMIT_LIMIT 0 (pc (resDest r.r) (s.classOf (x.ing 0) (some (rowRes (s.ent 0x1A p a))) none r.r)) ∧
      (s.link (resDest r.r / 32)).length < 16384 ∧ 0 < s.rd fSTB_SLIP_FREE) ∧
    (∃ (s : State) (p a : Nat) (x : RxFrame) (kv : List Byte) (l : Look) (r : Chosen), s.arrives p a x kv l r ∧
      rAct (rowRes (s.ent 0x1A p a)) = 1) ∧
    (∃ (s : State) (p a : Nat) (x : RxFrame) (kv : List Byte) (l : Look) (r : Chosen), s.arrives p a x kv l r ∧
      rAct (rowRes (s.ent 0x1A p a)) = 0 ∧ rReinV (rowRes (s.ent 0x1A p a)) = true ∧
      (s.meter 0x2C p (rRein (rowRes (s.ent 0x1A p a))) (s.startColour (x.ing 0)) (s.readerDecide (x.ing 0)).p).2.2 = true) ∧
    (∃ (s : State) (p : Nat) (x : LoopFrame), (∀ y ∈ s.fwd.rx, y.port / 32 ≠ p ∨ y.ready = false) ∧ s.loop p = [x] ∧ x.entered = true ∧
      s.injq p = [] ∧ s.edState x.ed = 5 ∧ bitOf (s.rd fARC_CAP_DROP_MASK_MASK 0 4) 24 = false) ∧
    (∃ (s : State) (p id : Nat) (x : Slip), s.link p = [id] ∧ s.slip? id = some x ∧ s.stateRefusal x.outPort = none ∧
      s.stormed x.outPort x.cls = false) ∧
    (∃ (s : State) (p id : Nat) (x : Slip) (st : Stall) (code : Nat), s.link p = [id] ∧ s.slip? id = some x ∧ s.frameOf x = some st ∧
      s.stateRefusal x.outPort = some code ∧ 0 < st.refs) ∧
    (∃ (s : State) (p : Nat), s.link p = []) ∧
    (∃ (s : State) (port : Nat), s.canSelect (egPipe port) (egLocal port) = false) ∧
    (∃ (s : State) (port id : Nat) (c : Cand), port < 256 ∧ s.canSelect (port / 32) (port % 32) = true ∧
      s.dropTooLong (port / 32) (port % 32) (s.busyServices (port / 32) (port % 32)) = s ∧
      s.candidates (port / 32) (port % 32) (s.busyServices (port / 32) (port % 32)) = (s, [c]) ∧ s.selectDrop c.slip = none ∧
      s.stbRead c.slip (port / 32) = (s, true) ∧ s.queue (port / 32 * 8192 + c.sv) = [id]) ∧
    (∃ (s : State) (port : Nat) (cs : List Cand), port < 256 ∧ s.canSelect (port / 32) (port % 32) = true ∧
      s.dropTooLong (port / 32) (port % 32) (s.busyServices (port / 32) (port % 32)) = s ∧
      s.candidates (port / 32) (port % 32) (s.busyServices (port / 32) (port % 32)) = (s, cs) ∧ cs ≠ [] ∧ s.flt.marks = [] ∧
      s.flt.nextMarks = [] ∧ (∀ c ∈ cs, s.selectDrop c.slip = none)) ∧
    (∃ (s : State) (p a col : Nat) (c : EgCopy) (st : Stall) (g : Prog), s.emerges p a c st ∧ c.slip.outPort < 256 ∧
      rAct (rowRes (s.ent 0x1B p a)) = 0 ∧ (s.egRein p (some (rowRes (s.ent 0x1B p a))) c.slip.colour st.len).2 = (col, false) ∧
      (s.farrier p 0 c.slip st (farOf (some (rowRes (s.ent 0x1B p a))) none)).2 = .ok g none ∧ g.recirc = 0 ∧
      (∀ n, st.lf = some n → ((n : Int) + g.d).toNat ≤ s.prt fPRT_CFG_MAX_FRAME c.slip.outPort)) ∧
    (∃ (s : State) (p a : Nat) (c : EgCopy) (st : Stall), s.emerges p a c st ∧ rAct (rowRes (s.ent 0x1B p a)) = 1) ∧
    (∃ (s : State) (p a : Nat) (c : EgCopy) (st : Stall), s.emerges p a c st ∧ rAct (rowRes (s.ent 0x1B p a)) = 0 ∧
      (s.egRein p (some (rowRes (s.ent 0x1B p a))) c.slip.colour st.len).2.2 = true) ∧
    (∃ (s : State) (p : Nat), AMap.getD s.fwd.sel p [] = [] ∧ (∀ h ∈ s.heldEgOf p, h.1 ≠ [])) ∧
    (∃ (s : State) (p : Nat) (c : EgCopy) (st : Stall), AMap.getD s.fwd.sel p [] = [c] ∧ s.frameOf c.slip = some st ∧ st.lf.isSome = true ∧
      c.slip.skip = true ∧ (∀ h ∈ s.heldEgOf p, h.1 ≠ [])) ∧
    (∃ (s : State) (p : Nat) (x : LoopFrame), s.loop p = [x] ∧ x.entered = false) ∧
    (∃ (s : State) (port : Nat), s.flt.marks = []) ∧
    (∃ (s : State) (port t0 : Nat), s.on fHAR_GATE_CFG_EN (port / 32) (port % 32) = false) :=
  ⟨⟨{ base with fwd := { base.fwd with rx := [{ rxf (goodF 64) .gone with ended := true }], credit := [(0, 6999)] } }, 0, by decide +kernel⟩,
    ⟨rclt base, 0, 1, 5, 0, 0, false, { rxf (goodF 80) .waiting with ended := true }, by decide +kernel⟩,
    ⟨arr base 0x900000 0x700 9000, 0, 3, 1, 0, arx, akv (arr base 0x900000 0x700 9000), alk (arr base 0x900000 0x700 9000), ach (arr base 0x900000 0x700 9000), by
      unfold State.arrives
      dsimp only
      repeat' apply And.intro
      all_goals first
        | decide +kernel
        | exact one_row (by decide +kernel) (by decide +kernel) (by decide +kernel) (by decide +kernel) (by decide +kernel)⟩,
    ⟨arr base 0x900029 0 9000, 0, 3, arx, akv (arr base 0 0 9000), alk (arr base 0 0 9000), ach (arr base 0 0 9000), by
      unfold State.arrives
      dsimp only
      repeat' apply And.intro
      all_goals first
        | decide +kernel
        | exact one_row (by decide +kernel) (by decide +kernel) (by decide +kernel) (by decide +kernel) (by decide +kernel)⟩,
    ⟨arr base 0x900000 0x700 0, 0, 3, arx, akv (arr base 0 0 9000), alk (arr base 0 0 9000), ach (arr base 0 0 9000), by
      unfold State.arrives
      dsimp only
      repeat' apply And.intro
      all_goals first
        | decide +kernel
        | exact one_row (by decide +kernel) (by decide +kernel) (by decide +kernel) (by decide +kernel) (by decide +kernel)⟩,
    ⟨{ base.wr fCLE_ED_STATUS_STATE_B 5 with fwd := { base.fwd with loops := [(0, [lf true true])], credit := [(0, 6999)] } }, 0, lf true true, by decide +kernel⟩,
    ⟨{ (base.setPrt fPRT_STATE_STATE 1 4).setRg .PRT_PFC_STATUS 0 0 1 with fwd := { base.fwd with linkFifo := [(0, [9])], slips := [slp 1], queues := [(8, [3, 4])] } }, 0, 9, slp 1, by decide +kernel⟩,
    ⟨{ (base.setPrt fPRT_STATE_STATE 1 2).setRg .PRT_PFC_STATUS 0 0 1 with fwd := { base.fwd with linkFifo := [(0, [9])], slips := [slp 1], stalls := [stl true false], queues := [(8, [3, 4])] } }, 0, 9, slp 1, stl true false, 0x80, by decide +kernel⟩,
    ⟨base, 0, by decide +kernel⟩,
    ⟨{ base with fwd := { base.fwd with sel := [(0, [egc (slp 1)])] } }, 1, by decide +kernel⟩,
    ⟨hw base, 1, 9, ((hw base).candidates 0 1 ((hw base).busyServices 0 1)).2.headD ⟨0,0,slp 1,0,false,0,0⟩, by decide +kernel⟩,
    ⟨hw2 base, 1, ((hw2 base).candidates 0 1 ((hw2 base).busyServices 0 1)).2, by decide +kernel⟩,
    ⟨ems base 0x900000 0x700 9000, 0, 3, 0, egc (slp 2), stl true false, (match ((ems base 0x900000 0x700 9000).farrier 0 0 (slp 2) (stl true false) none).2 with | .ok g _ => g | _ => ⟨[],0,[],⟨none,none,none⟩,false,false,0⟩), by
      unfold State.emerges
      dsimp only
      repeat' apply And.intro
      all_goals first
        | decide +kernel
        | exact one_row (by decide +kernel) (by decide +kernel) (by decide +kernel) (by decide +kernel) (by decide +kernel)⟩,
    ⟨ems base 0x900029 0 9000, 0, 3, egc (slp 2), stl true false, by
      unfold State.emerges
      dsimp only
      repeat' apply And.intro
      all_goals first
        | decide +kernel
        | exact one_row (by decide +kernel) (by decide +kernel) (by decide +kernel) (by decide +kernel) (by decide +kernel)⟩,
    ⟨ems base 0x900000 0x700 0, 0, 3, egc (slp 2), stl true false, by
      unfold State.emerges
      dsimp only
      repeat' apply And.intro
      all_goals first
        | decide +kernel
        | exact one_row (by decide +kernel) (by decide +kernel) (by decide +kernel) (by decide +kernel) (by decide +kernel)⟩,
    ⟨base, 0, by decide +kernel⟩,
    ⟨{ base with fwd := { base.fwd with sel := [(0, [egc { slp 1 with skip := true }])], stalls := [stl true false], slips := [{ slp 1 with skip := true }] } }, 0, egc { slp 1 with skip := true }, stl true false, by decide +kernel⟩,
    ⟨{ base with fwd := { base.fwd with loops := [(0, [lf true false])] } }, 0, lf true false, by decide +kernel⟩,
    ⟨base, 1, by decide +kernel⟩,
    ⟨(base.setRg .HAR_GATE_CFG 0 0 1), 1, 7, by decide +kernel⟩⟩

/-- States and operands that meet the hypotheses of `MacTransmit`, clause by clause. -/
theorem witness_MacTransmit :
    (∃ (s : State) (port phase : Nat) (c : EgCopy) (rest : List EgCopy) (st : Stall), s.txGoes port c rest st ∧
      bitOf (s.gatesAt port s.tim.ct) c.slip.cls = true ∧ c.marks = ⟨none, none, none⟩ ∧ c.capture = false ∧
      s.on fPAR_FLOW_CFG_EN (port / 32) = false) ∧
    (∃ (s : State) (port phase : Nat) (c : EgCopy) (rest : List EgCopy) (st : Stall), s.txGoes port c rest st ∧
      bitOf (s.gatesAt port s.tim.ct) c.slip.cls = false) ∧
    (∃ (s : State) (port phase off : Nat) (c : EgCopy) (rest : List EgCopy) (st : Stall), s.txGoes port c rest st ∧
      bitOf (s.gatesAt port s.tim.ct) c.slip.cls = true ∧ c.marks = ⟨some (off, none), none, none⟩ ∧
      s.prt fPRT_PTP_CFG_ONE_STEP_EN port = 1) ∧
    (∃ (s : State) (port phase off : Nat) (c : EgCopy) (rest : List EgCopy) (st : Stall), s.txGoes port c rest st ∧
      bitOf (s.gatesAt port s.tim.ct) c.slip.cls = true ∧ c.marks = ⟨none, some off, none⟩ ∧ s.prt fPRT_PTP_CFG_TWO_STEP_EN port = 1 ∧
      (s.tsFifo port).length < 64) ∧
    (∃ (s : State) (port phase off : Nat) (c : EgCopy) (rest : List EgCopy) (st : Stall), s.txGoes port c rest st ∧
      bitOf (s.gatesAt port s.tim.ct) c.slip.cls = true ∧ c.marks = ⟨none, some off, none⟩ ∧ s.prt fPRT_PTP_CFG_TWO_STEP_EN port = 1 ∧
      64 ≤ (s.tsFifo port).length) ∧
    (∃ (s : State) (port phase w : Nat) (c : EgCopy) (rest : List EgCopy) (st : Stall) (key : List Byte) (out : Option Nat) (f : Flow), s.txGoes port c rest st ∧
      bitOf (s.gatesAt port s.tim.ct) c.slip.cls = true ∧ c.marks = ⟨none, none, none⟩ ∧ c.capture = false ∧ c.slip.direct = false ∧
      s.on fPAR_FLOW_CFG_EN (port / 32) = true ∧ s.on fPAR_FLOW_PROF_EN (port / 32) st.layout = true ∧
      key = s.flowBytes (port / 32) st.layout c.kv ∧
      out = (if s.on fPAR_FLOW_PROF_OUT_PORT (port / 32) st.layout = true then some c.slip.outPort else none) ∧
      s.flowWay (port / 32) (s.flowBucket (port / 32) key st.inPort st.layout out) key st.inPort st.layout out = some w ∧
      AMap.get? s.arc.flows (port / 32, s.flowBucket (port / 32) key st.inPort st.layout out, w) = some f) ∧
    (∃ (s : State) (port phase : Nat) (c : EgCopy) (rest : List EgCopy) (st : Stall), s.txGoes port c rest st ∧
      bitOf (s.gatesAt port s.tim.ct) c.slip.cls = true ∧ c.marks = ⟨none, none, none⟩ ∧ c.capture = true ∧ s.on fARC_CFG_CAP_EN = true ∧
      s.on fPAR_FLOW_CFG_EN (port / 32) = false ∧ s.capRefill.capTakes = true) ∧
    (∃ (s : State) (port phase : Nat) (c : EgCopy) (rest : List EgCopy) (st : Stall), port < 256 ∧
      AMap.getD s.ports.txWait port [] = c :: rest ∧ s.portState port = psUP ∧ AMap.get? s.ports.txNow port = none ∧
      s.frameOf c.slip = some st ∧ st.bad = true ∧ 0 < st.refs ∧ s.pauseFirst port = false) ∧
    (∃ (s : State) (port phase : Nat), (AMap.getD s.ports.txWait port [] = [] ∨ s.pauseFirst port = true)) ∧
    (∃ (s : State) (port : Nat) (c : EgCopy) (st : Stall), port < 256 ∧ AMap.get? s.ports.txNow port = some c ∧ s.frameOf c.slip = some st ∧
      st.done = true ∧ st.bad = false ∧ c.late = false ∧ c.flow = none ∧ (c.body st).length + 4 ≤ s.prt fPRT_CFG_MAX_FRAME port ∧
      s.stbLost c.slip = false ∧ 0 < st.refs) ∧
    (∃ (s : State) (port : Nat) (c : EgCopy) (st : Stall), port < 256 ∧ AMap.get? s.ports.txNow port = some c ∧ s.frameOf c.slip = some st ∧
      st.done = false ∧ st.bad = false ∧ c.unk = false) ∧
    (∃ (s : State) (port : Nat) (c : EgCopy) (st : Stall), port < 256 ∧ AMap.get? s.ports.txNow port = some c ∧ s.frameOf c.slip = some st ∧
      st.done = true ∧ st.bad = false ∧ c.unk = true ∧ 64 ≤ s.prt fPRT_CFG_MAX_FRAME port ∧
      s.prt fPRT_CFG_MAX_FRAME port < (c.body st).length + 4 ∧ 0 < st.refs) :=
  ⟨⟨tx base (stl true false) false, 1, 3, egc (slp 1), [], stl true false, by unfold State.txGoes; decide +kernel⟩,
    ⟨gated (tx base (stl true false) false), 1, 3, egc (slp 1), [], stl true false, by unfold State.txGoes; decide +kernel⟩,
    ⟨(txm base osc).setPrt fPRT_PTP_CFG_ONE_STEP_EN 1 1, 1, 3, 20, osc, [], stl true false, by unfold State.txGoes; decide +kernel⟩,
    ⟨(txm base tsc).setPrt fPRT_PTP_CFG_TWO_STEP_EN 1 1, 1, 3, 20, tsc, [], stl true false, by unfold State.txGoes; decide +kernel⟩,
    ⟨let s := (txm base tsc).setPrt fPRT_PTP_CFG_TWO_STEP_EN 1 1; { s with ports := { s.ports with tsFifo := [(1, List.replicate 64 [1])] } }, 1, 3, 20, tsc, [], stl true false, by unfold State.txGoes; decide +kernel⟩,
    ⟨flow1 base, 1, 3, 0, egc (slp 1), [], stl true false, flk (flow1 base), none, { flf (flow1 base) with inPort := (stl true false).inPort }, by unfold State.txGoes; decide +kernel, by decide +kernel, rfl, rfl, rfl, by decide +kernel, by decide +kernel, rfl, by decide +kernel,
      (flow_way flow1_flows).1, (flow_way flow1_flows).2⟩,
    ⟨let s := ((((txm base { egc (slp 1) with capture := true }).wr fARC_CFG_CAP_EN 1).wr fARC_CAP_CFG_MODE 1).wr fARC_CAP_STATUS_STATE 0).wr fARC_CAP_CFG_LOG2_RECS 10; { s with arc := { s.arc with capTok := 10 ^ 40, capTokRc := s.tim.rc } }, 1, 3, { egc (slp 1) with capture := true }, [], stl true false, by unfold State.txGoes; decide +kernel⟩,
    ⟨tx base (stl true true) false, 1, 3, egc (slp 1), [], stl true true, by decide +kernel⟩,
    ⟨base, 1, 3, by decide +kernel⟩,
    ⟨tx base (stl true false) true, 1, egc (slp 1), stl true false, by decide +kernel⟩,
    ⟨tx base (stl false false) true, 1, egc (slp 1), stl false false, by decide +kernel⟩,
    ⟨{ tx base (stl true false) true with ports := { base.ports with txNow := [(1, unkc)] } }, 1, unkc, stl true false, by decide +kernel⟩⟩

end WD

namespace WE

def mk (b : State) (ms : List (Nat × Nat × Nat × Nat × Bool)) : State := { b with flt := { b.flt with marks := ms, nextMarks := [] } }
def nr (b : State) : State := { b with lrn := { b.lrn with repairs := [], waiting := [] } }
def lr (b : State) (dt : Nat) (full : Bool := false) : State := { (b.setRg .BRS_LEARN_CFG 1 0).setRg .BRS_HASH 0 0 with tables := [((0x0C, 0, 3), [1,2,3])], lrn := { b.lrn with queues := [(0, [rq dt, ⟨5, 4, 3, 2, 1, true, 0, 0⟩])], mirrors := [(.a, ⟨7, [], true, 3⟩)], hits := [(0, 9)] } }
  where rq dt := ⟨0x123, 0xABCDE01234, dt, 2, 5, false, 1, 1⟩
def plc (s : State) := (s.bridgePlace 0 0x123 0xABCDE01234).getD 0
def age (b : State) (d : Nat) (sw : List (Nat × Nat)) : State := { b.wr fBRS_AGE_CFG_PERIOD_S 7 with lrn := { b.lrn with ageDue := [(0, d), (1, 5)], mirrors := [(.a, ⟨7, [], true, 3⟩)] }, clerk := { b.clerk with sweeps := sw } }
def swp (b : State) (i : Nat) (e : List Word) (hits : List (Nat × Nat)) : State := { (age b (b.tim.rc + 1) [(0, i)]) with tables := [((0x0C, 0, 532479), e), ((0x0C, 0, 3), [1, 0x40000000, 0x20000])], lrn := { (age b (b.tim.rc + 1) [(0, i)]).lrn with hits := hits }, clerk := { (age b 0 [(0, i), (1, 3)]).clerk with work := .sweep 0 } }
def mi (b : State) (en sz : Nat) (q : List (Nat × List Word)) : State := { (((openG (ready b) .a .CLE).setRg .CLE_MIRROR_CFG (BitVec.ofNat 32 (en + 2 * 4))).wr fCLE_MIRROR_CFG_STALL_US 1000).setRg .CLE_MIRROR_SIZE (BitVec.ofNat 32 sz) 0 0 with lrn := { b.lrn with mirrors := [(.a, ⟨7, q, true, 3⟩), (.b, ⟨9, [(3,[4])], true, 3⟩)] }, clerk := { b.clerk with resyncs := [(.b, 3), (.a, 2)] } }
def mw (b : State) (m : Word) : State := let s := mi b 3 0 ((List.range 70).map fun k => (32 * k, [(BitVec.ofNat 32 k : Word), 2])); { s.setRg .HST_CH_CFG 0xFFFFFFFF 0 (chanOf .a 17) with ckr := { s.ckr with pulses := [] }, hst := { s.hst with lost := [], msix := [((.a, 4 * s.rd fHST_CH_CFG_VECTOR 0 (chanOf .a 17) + 3), m)] } }
def rs (b : State) (k : Nat) : State := { b with clerk := { b.clerk with work := .resync .a, resyncs := [(.a, k)] }, lrn := { b.lrn with mirrors := [(.a, ⟨7, [], true, 3⟩)] }, tables := [((1, 0, 62), [1,2,3,4,5,6,7,8])] }
def rp (b : State) (ph : Nat) (rec_ : Option (List Word)) (pn rt : List (Nat × Nat)) (fs : List Nat) (w : Work) : State := { b with lrn := { b.lrn with repairs := [rr ph rec_ pn rt fs], waiting := [], mirrors := [] , held := []}, clerk := { b.clerk with work := w } }
  where rr ph rec_ pn rt fs := ⟨3, 1, 0, 5, ph, .a, rec_, pn, rt, fs, 1000, 0⟩
def gr : List Word := mirrorWords 9 1 0 2 5 [1,2,3,4,5,6,7,8]
def edd (b : State) (st r : Nat) : State := { (b.wr fCLE_ED_STATUS_STATE_B st).wr fCLE_ED_RESIDENT_RESIDENT r 0 1 with ed := { b.ed with drainRc := [(1, 5000)], drainLen := [(1, 20)], expRc := [(1, 77)] }, flt := { b.flt with present := [slotOf .ED_STUCK 0, 3] }, hst := { b.hst with events := [(.a, [[1]])] } }
def ra (b : State) : State := { b with rat := { b.rat with sum := 123456789, samples := 10, work := [(0, 500000), (1, 77)], deferred := [(1, [((3, 7, false), 40)])], kinds := [(0, [0,1])], remain := [(0, -5)], sampleAt := b.tim.rc - ns 1000, endAt := b.tim.rc - ns 10000 } }
def tps : List Int := (List.range 64).map fun (k : Nat) => (k : Int) * 12 - 170
def full3 (b : State) : State := let s := lr b 1; { s with tables := ((List.range 4).map fun w => ((0x0C, 0, 4 * s.bridgeBucket 0 0x123 0xABCDE01234 + w), [(w : Word), 0x40000000, 0])).map (fun x => x) ++ (List.range 8192).map fun k => ((0x0C, 0, 524288 + k), [(5 : Word), 0x40000000, 0]) }
def notDue (b : State) (p : Nat) : State := { ((((b.wr fRDR_SCRUB_PERIOD_US 70 p).wr fCAT_SCRUB_PERIOD_US 70 p).wr fFAR_SCRUB_PERIOD_US 70 p).wr fBRS_SCRUB_OVF_PERIOD_US 70 p).wr fBRS_SCRUB_BUCKET_PERIOD_MS 70 p with tim := { b.tim with jobs := [((.readerScrub, p), b.tim.rc), ((.catScrub, p), b.tim.rc), ((.farScrub, p), b.tim.rc), ((.overflowScrub, p), b.tim.rc), ((.bucketScrub, p), b.tim.rc)] } }
def rk (b : State) : Nat := if b.tim.rc = b.tim.rc + 1 then 0 else resyncAll - 5
def ovf3 (b : State) : State := let s := lr b 1; { s with tables := (List.range 4).map fun w => ((0x0C, 0, 4 * s.bridgeBucket 0 0x123 0xABCDE01234 + w), [(w : Word), 0x40000000, 0]) }
def mv (b : State) (mvd : Bool) : State := let s := lr b 0; { s with tables := [((0x0C, 0, 524290), bridgeWords 0x123 0xABCDE01234 0 7 false false 5), ((0x0C, 0, 3), [1,2,3])], lrn := { s.lrn with queues := [(0, [⟨0x123, 0xABCDE01234, 1, 2, 5, mvd, 1, 1⟩, ⟨5, 4, 3, 2, 1, true, 0, 0⟩])] } }

/-- A store whose bucket and overflow entries are all valid has no place. -/
theorem place_none (s : State) (p bd mac : Nat) (e : List Word)
    (hb : ((List.range 4).find? fun w => !bridgeV (s.ent 0x0C p (4 * s.bridgeBucket p bd mac + w))) = none)
    (hv : bridgeV e = true) (h : ∀ k < 8192, ((0x0C, p, 524288 + k), e) ∈ s.tables) : s.bridgePlace p bd mac = none := by
  simp only [State.bridgePlace, hb, Option.map_eq_none_iff, List.find?_eq_none]
  intro k _ hk
  simp only [Bool.and_eq_true, Bool.not_eq_true', decide_eq_true_eq, decide_eq_false_iff_not] at hk
  exact hk.1 (List.mem_map.mpr ⟨((0x0C, p, 524288 + k), e), List.mem_filter.mpr ⟨h k hk.2, by simp [hv]⟩, rfl⟩)

/-- A key that neither its bucket nor an overflow entry holds is not found. -/
theorem find_none (s : State) (p bd mac : Nat)
    (hb : ((List.range 4).find? fun w => bridgeIs (s.ent 0x0C p (4 * s.bridgeBucket p bd mac + w)) bd mac) = none)
    (h : ∀ x ∈ s.tables, bridgeIs x.2 bd mac = false) : s.bridgeFind p bd mac = none := by
  simp only [State.bridgeFind, hb, State.ovfFind]
  rw [List.filter_eq_nil_iff.mpr (fun x hx => by simp [h x hx])]; rfl

/-- Every entry of the full store is of one of two forms. -/
theorem full3_is : ∀ x ∈ (full3 base).tables, bridgeIs x.2 0x123 0xABCDE01234 = false := by
  intro x hx
  rcases List.mem_append.mp hx with h | h
  · obtain ⟨y, hy, rfl⟩ := List.mem_map.mp h
    obtain ⟨w, _, rfl⟩ := List.mem_map.mp hy
    exact Bool.and_eq_false_iff.mpr (.inr (by simp [entF, bitsOf]))
  · obtain ⟨k, _, rfl⟩ := List.mem_map.mp h
    exact Bool.and_eq_false_iff.mpr (.inr (by simp [entF, bitsOf]))

/-- States and operands that meet the hypotheses of `Scrubs`, clause by clause. -/
theorem witness_Scrubs :
    (∃ (s : State) (p : Nat), s.marksOf 0x01 p = [] ∧ s.marksOf 0x02 p = [] ∧
      s.jobDue .readerScrub p (ns (s.rd fRDR_SCRUB_PERIOD_US p * 1000)) = true) ∧
    (∃ (s : State) (p r i : Nat), s.marksOf 0x01 p = [(r, i)] ∧ s.marksOf 0x02 p = [] ∧ r < 6 ∧ i < 64 ∧
      s.jobDue .readerScrub p (ns (s.rd fRDR_SCRUB_PERIOD_US p * 1000)) = true) ∧
    (∃ (s : State) (p i : Nat), s.marksOf 0x01 p = [(0, i), (1, i)] ∧ s.marksOf 0x02 p = [] ∧ i < 64 ∧ s.lrn.repairs = [] ∧
      s.jobDue .readerScrub p (ns (s.rd fRDR_SCRUB_PERIOD_US p * 1000)) = true) ∧
    (∃ (s : State) (u : Nat), s.marksOf (if u < 8 then 0x08 else 0x0A) (if u < 8 then u else 15) = [] ∧
      s.jobDue .overflowScrub u (ns ((if u < 8 then s.rd fBRS_SCRUB_OVF_PERIOD_US u else s.rd fKST_SCRUB_OVF_PERIOD_US) * 1000)) = true) ∧
    (∃ (s : State) (u r i : Nat), u < 8 ∧ 524288 ≤ i ∧ s.marksOf 0x08 u = [(r, i)] ∧ s.flt.nextMarks = [] ∧ s.lrn.repairs = [] ∧
      bridgeV (s.ent 0x0C u i) = true ∧ bridgeStatic (s.ent 0x0C u i) = true ∧
      s.jobDue .overflowScrub u (ns (s.rd fBRS_SCRUB_OVF_PERIOD_US u * 1000)) = true) ∧
    (∃ (s : State) (r i : Nat), 1048576 ≤ i ∧ s.marksOf 0x0A 15 = [(r, i)] ∧ s.flt.nextMarks = [] ∧ s.lrn.repairs = [] ∧
      s.jobDue .overflowScrub 8 (ns (s.rd fKST_SCRUB_OVF_PERIOD_US * 1000)) = true) ∧
    (∃ (s : State) (u : Nat), u < 8 ∧ s.marksOf 0x07 u = [] ∧
      s.jobDue .bucketScrub u (ns (1000 * s.rd fBRS_SCRUB_BUCKET_PERIOD_MS u * 1000)) = true) ∧
    (∃ (s : State) (u r i : Nat), u < 8 ∧ s.marksOf 0x07 u = [(r, i)] ∧ s.lrn.repairs = [] ∧
      s.jobDue .bucketScrub u (ns (1000 * s.rd fBRS_SCRUB_BUCKET_PERIOD_MS u * 1000)) = true) ∧
    (∃ (s : State) (r i : Nat), s.marksOf 0x09 15 = [(r, i)] ∧ s.marksOf 0x0B 15 = [] ∧ s.lrn.repairs = [] ∧
      s.jobDue .bucketScrub 8 (ns (1000 * s.rd fKST_SCRUB_BUCKET_PERIOD_MS * 1000)) = true) ∧
    (∃ (s : State) (p : Nat), (∀ ck ∈ [0x12, 0x13, 0x14, 0x15], s.marksOf ck p = []) ∧
      s.jobDue .catScrub p (ns (s.rd fCAT_SCRUB_PERIOD_US p * 1000)) = true) ∧
    (∃ (s : State) (p r i : Nat), s.marksOf 0x12 p = [(r, i)] ∧ (∀ ck ∈ [0x13, 0x14, 0x15], s.marksOf ck p = []) ∧ r < 3 ∧
      s.jobDue .catScrub p (ns (s.rd fCAT_SCRUB_PERIOD_US p * 1000)) = true) ∧
    (∃ (s : State) (p i : Nat), p < 8 ∧ s.marksOf 0x12 p = [(0, i), (1, i), (2, i)] ∧ (∀ ck ∈ [0x13, 0x14, 0x15], s.marksOf ck p = []) ∧
      s.lrn.repairs = [] ∧ s.jobDue .catScrub p (ns (s.rd fCAT_SCRUB_PERIOD_US p * 1000)) = true) ∧
    (∃ (s : State) (p : Nat), s.marksOf 0x16 p = [] ∧ s.marksOf 0x17 15 = [] ∧ s.marksOf 0x18 15 = [] ∧
      s.jobDue .farScrub p (ns (s.rd fFAR_SCRUB_PERIOD_US p * 1000)) = true) ∧
    (∃ (s : State) (p r i : Nat), s.marksOf 0x16 p = [(r, i)] ∧ s.marksOf 0x17 15 = [] ∧ s.marksOf 0x18 15 = [] ∧ r < 3 ∧
      s.jobDue .farScrub p (ns (s.rd fFAR_SCRUB_PERIOD_US p * 1000)) = true) ∧
    (∃ (s : State) (p i : Nat), p < 8 ∧ s.marksOf 0x16 p = [(0, i), (1, i), (2, i)] ∧ s.marksOf 0x17 15 = [] ∧ s.marksOf 0x18 15 = [] ∧
      s.lrn.repairs = [] ∧ s.jobDue .farScrub p (ns (s.rd fFAR_SCRUB_PERIOD_US p * 1000)) = true) ∧
    (∃ (s : State) (u : Nat), s.jobDue .readerScrub u (ns (s.rd fRDR_SCRUB_PERIOD_US u * 1000)) = false) ∧
    (∃ (s : State) (u : Nat), s.jobDue .catScrub u (ns (s.rd fCAT_SCRUB_PERIOD_US u * 1000)) = false) ∧
    (∃ (s : State) (u : Nat), s.jobDue .farScrub u (ns (s.rd fFAR_SCRUB_PERIOD_US u * 1000)) = false) ∧
    (∃ (s : State) (u : Nat), u < 8 ∧ s.jobDue .overflowScrub u (ns (s.rd fBRS_SCRUB_OVF_PERIOD_US u * 1000)) = false) ∧
    (∃ (s : State) (u : Nat), u < 8 ∧ s.jobDue .bucketScrub u (ns (1000 * s.rd fBRS_SCRUB_BUCKET_PERIOD_MS u * 1000)) = false) :=
  ⟨⟨mk base [(0x1A, 0, 0, 5, true)], 0, by decide +kernel⟩,
    ⟨mk base [(0x1A, 0, 0, 5, true), (1, 0, 5, 7, true)], 0, 5, 7, by decide +kernel⟩,
    ⟨nr (mk base [(1, 0, 0, 7, true), (1, 0, 1, 7, false), (0x1A, 0, 0, 5, true)]), 0, 7, by decide +kernel⟩,
    ⟨mk base [(0x1A, 0, 0, 5, true)], 8, by decide +kernel⟩,
    ⟨{ nr (mk base [(8, 0, 0, 524290, true), (0x1A, 0, 0, 5, true)]) with tables := [((0x0C, 0, 524290), [1, 0x40000000 + 0x20000, 0x20000]), ((0x0C, 0, 2), [1,2,3])] }, 0, 0, 524290, by decide +kernel⟩,
    ⟨nr (mk base [(0x0A, 15, 1, 1048577, true), (0x1A, 0, 0, 5, true)]), 1, 1048577, by decide +kernel⟩,
    ⟨mk base [(0x1A, 0, 0, 5, true)], 0, by decide +kernel⟩,
    ⟨nr (mk base [(7, 0, 0, 77, true), (0x1A, 0, 0, 5, true)]), 0, 0, 77, by decide +kernel⟩,
    ⟨nr (mk base [(9, 15, 0, 77, true), (0x1A, 0, 0, 5, true)]), 0, 77, by decide +kernel⟩,
    ⟨mk base [(0x1A, 0, 0, 5, true)], 0, by decide +kernel⟩,
    ⟨mk base [(0x1A, 0, 0, 5, true), (0x12, 0, 2, 99, false)], 0, 2, 99, by decide +kernel⟩,
    ⟨nr (mk base [(0x12, 0, 0, 99, false), (0x12, 0, 1, 99, false), (0x12, 0, 2, 99, false)]), 0, 99, by decide +kernel⟩,
    ⟨mk base [(0x1A, 0, 0, 5, true)], 0, by decide +kernel⟩,
    ⟨mk base [(0x1A, 0, 0, 5, true), (0x16, 0, 2, 99, false)], 0, 2, 99, by decide +kernel⟩,
    ⟨nr (mk base [(0x16, 0, 0, 99, false), (0x16, 0, 1, 99, false), (0x16, 0, 2, 99, false)]), 0, 99, by decide +kernel⟩,
    ⟨notDue (mk base [(0x1A, 0, 0, 5, true), (1, 0, 5, 7, true)]) 3, 3, by decide +kernel⟩,
    ⟨notDue (mk base [(0x1A, 0, 0, 5, true), (1, 0, 5, 7, true)]) 3, 3, by decide +kernel⟩,
    ⟨notDue (mk base [(0x1A, 0, 0, 5, true), (1, 0, 5, 7, true)]) 3, 3, by decide +kernel⟩,
    ⟨notDue (mk base [(0x1A, 0, 0, 5, true), (1, 0, 5, 7, true)]) 3, 3, by decide +kernel⟩,
    ⟨notDue (mk base [(0x1A, 0, 0, 5, true), (1, 0, 5, 7, true)]) 3, 3, by decide +kernel⟩⟩

/-- States and operands that meet the hypotheses of `Learning`, clause by clause. -/
theorem witness_Learning :
    (∃ (s : State) (p : Nat), (s.learnQ p = [] ∨ s.mirFull = true)) ∧
    (∃ (s : State) (p i : Nat) (r : LearnReq) (rest : List LearnReq), s.learnQ p = r :: rest ∧ rest.length < 1024 ∧ s.mirFull = false ∧
      s.bridgeFind p r.bd r.mac = none ∧ s.bridgePlace p r.bd r.mac = some i ∧ i < 524288 ∧ r.move = false ∧
      s.on fBRS_LEARN_CFG_EVT_LEARN p = false) ∧
    (∃ (s : State) (p i : Nat) (r : LearnReq) (rest : List LearnReq), s.learnQ p = r :: rest ∧ rest.length < 1024 ∧ s.mirFull = false ∧
      s.bridgeFind p r.bd r.mac = none ∧ s.bridgePlace p r.bd r.mac = some i ∧ 524288 ≤ i ∧ r.move = false ∧
      s.on fBRS_LEARN_CFG_EVT_LEARN p = false) ∧
    (∃ (s : State) (p i : Nat) (r : LearnReq) (rest : List LearnReq) (e : List Word), s.learnQ p = r :: rest ∧ rest.length < 1024 ∧
      s.mirFull = false ∧ s.bridgeFind p r.bd r.mac = some i ∧ e = s.ent 0x0C p i ∧ r.move = true ∧ bridgeStatic e = false ∧
      (entF e 2 16 14, entF e 2 13 0) ≠ (r.dt, r.dest) ∧ s.on fBRS_LEARN_CFG_EVT_LEARN p = false) ∧
    (∃ (e : List Word) (dt dest mt : Nat), e.length = 3 ∧ dt < 8 ∧ dest < 16384 ∧ mt < 256) ∧
    (∃ (s : State) (p i : Nat) (r : LearnReq) (rest : List LearnReq), s.learnQ p = r :: rest ∧ rest.length < 1024 ∧ s.mirFull = false ∧
      s.bridgeFind p r.bd r.mac = some i ∧ r.move = false ∧ r.dt ≠ dtPORT) ∧
    (∃ (s : State) (p : Nat) (r : LearnReq) (rest : List LearnReq), p < 8 ∧ s.learnQ p = r :: rest ∧ rest.length < 1024 ∧
      s.mirFull = false ∧ s.bridgeFind p r.bd r.mac = none ∧ s.bridgePlace p r.bd r.mac = none ∧ r.move = false ∧ r.dt ≠ dtPORT) ∧
    (∃ (s : State) (p : Nat), p < 8 ∧ s.ageIsDue p = true ∧ AMap.get? s.clerk.sweeps p = none) ∧
    (∃ (s : State) (p : Nat), (s.ageIsDue p = false ∨ (AMap.get? s.clerk.sweeps p).isSome = true)) ∧
    (∃ (s : State) (p i : Nat) (hits : List Nat), s.clerk.work = .sweep p ∧ s.mirFull = false ∧ AMap.get? s.clerk.sweeps p = some i ∧
      i % 4096 = 0 ∧ i + 4096 < 532480 ∧
      (∀ k, i ≤ k → k < i + 4096 → bridgeV (s.ent 0x0C p k) = false ∨ bridgeStatic (s.ent 0x0C p k) = true)) ∧
    (∃ (s : State) (p i : Nat) (hits : List Nat), s.clerk.work = .sweep p ∧ s.mirFull = false ∧ AMap.get? s.clerk.sweeps p = some i ∧
      i ≤ 532480 ∧ 532480 ≤ i + 4096 ∧ (∀ k, i ≤ k → k < 532480 → bridgeV (s.ent 0x0C p k) = false ∨ bridgeStatic (s.ent 0x0C p k) = true) ∧
      s.ageIsDue p = false) ∧
    (∃ (s : State) (p : Nat) (hits : List Nat), p < 8 ∧ s.clerk.work = .sweep p ∧ s.mirFull = false ∧
      AMap.get? s.clerk.sweeps p = some 532479 ∧ bridgeV (s.ent 0x0C p 532479) = true ∧ bridgeStatic (s.ent 0x0C p 532479) = false ∧
      s.on fBRS_LEARN_CFG_EVT_AGE p = false) ∧
    (∃ (s : State) (p i : Nat) (hits : List Nat), s.clerk.work = .sweep p ∧ s.mirFull = true ∧ AMap.get? s.clerk.sweeps p = some i ∧
      i < 532480) :=
  ⟨⟨{ base with lrn := { base.lrn with queues := [] } }, 0, by decide +kernel⟩,
    ⟨lr base 0, 0, plc (lr base 0), ⟨0x123, 0xABCDE01234, 0, 2, 5, false, 1, 1⟩, [⟨5, 4, 3, 2, 1, true, 0, 0⟩], by decide +kernel⟩,
    ⟨ovf3 base, 0, 524288, ⟨0x123, 0xABCDE01234, 1, 2, 5, false, 1, 1⟩, [⟨5, 4, 3, 2, 1, true, 0, 0⟩], by decide +kernel⟩,
    ⟨mv base true, 0, 524290, ⟨0x123, 0xABCDE01234, 1, 2, 5, true, 1, 1⟩, [⟨5, 4, 3, 2, 1, true, 0, 0⟩], bridgeWords 0x123 0xABCDE01234 0 7 false false 5, by decide +kernel⟩,
    ⟨bridgeWords 0x123 0xABCDE01234 0 7 true true 5, 3, 16000, 200, by decide +kernel⟩,
    ⟨mv base false, 0, 524290, ⟨0x123, 0xABCDE01234, 1, 2, 5, false, 1, 1⟩, [⟨5, 4, 3, 2, 1, true, 0, 0⟩], by decide +kernel⟩,
    ⟨full3 base, 0, ⟨0x123, 0xABCDE01234, 1, 2, 5, false, 1, 1⟩, [⟨5, 4, 3, 2, 1, true, 0, 0⟩], by decide +kernel, by decide +kernel, by decide +kernel, by decide +kernel, find_none _ _ _ _ (by decide +kernel) full3_is,
      place_none _ _ _ _ [5, 0x40000000, 0] (by decide +kernel) (by decide +kernel)
        (fun k hk => List.mem_append_right _ (List.mem_map.mpr ⟨k, List.mem_range.mpr hk, rfl⟩)),
      by decide +kernel, by decide +kernel⟩,
    ⟨age base base.tim.rc [(1, 4096)], 0, by decide +kernel⟩,
    ⟨age base (base.tim.rc + 1) [], 0, by decide +kernel⟩,
    ⟨{ swp base 0 [] [] with tables := [] }, 0, 0, [], by decide +kernel, by decide +kernel, by decide +kernel, by decide +kernel, by decide +kernel,
      (fun k _ _ => .inl (by rw [ent_none _ _ _ rfl]; exact reset_bit _ _ _ _ (by decide)))⟩,
    ⟨swp base 532470 [1,0x40000000,0x20000] [], 0, 532470, [], by decide +kernel, by decide +kernel, by decide +kernel, by decide, by decide,
      range_all 532470 10 (by decide +kernel), by decide +kernel⟩,
    ⟨(swp base 532479 [1,0x40000000,0x10] []).setRg .BRS_LEARN_CFG 1, 0, [532479], by decide +kernel⟩,
    ⟨{ swp base 532470 [1,0x40000000,0x20000] [] with lrn := { (swp base 0 [] []).lrn with mirrors := [(.a, ⟨5, List.replicate 4096 (1,[]), true, 3⟩)] } }, 0, 532470, [], by decide +kernel⟩⟩

/-- States and operands that meet the hypotheses of `Mirrors`, clause by clause. -/
theorem witness_Mirrors :
    (∃ (s : State) (m : Master), s.passes m .CLE_MIRROR_CFG ∧ s.on fCLE_MIRROR_CFG_EN_A = false ∧ s.on fCLE_MIRROR_CFG_EN_B = false ∧
      100 ≤ s.rd fCLE_MIRROR_CFG_STALL_US ∧ s.rd fCLE_MIRROR_CFG_STALL_US ≤ 10000 ∧ s.gateOpen (some m) .CLE 0 = true ∧
      mirrorNeed ≤ s.rd fCLE_MIRROR_SIZE_SIZE_MIB 0 0 ∧ bitsOf (s.rg .GEN_OWNER_MAP 0 0).toNat 9 8 = 1) ∧
    (∃ (s : State) (m : Master), s.passes m .CLE_MIRROR_CFG ∧ s.on fCLE_MIRROR_CFG_EN_A = true ∧ s.on fCLE_MIRROR_CFG_EN_B = true ∧
      100 ≤ s.rd fCLE_MIRROR_CFG_STALL_US ∧ s.rd fCLE_MIRROR_CFG_STALL_US ≤ 10000 ∧ s.gateOpen (some m) .CLE 0 = true) ∧
    (∃ (s : State) (m : Master), s.passes m .CLE_MIRROR_CFG ∧ s.on fCLE_MIRROR_CFG_EN_A = false ∧ s.on fCLE_MIRROR_CFG_EN_B = false ∧
      100 ≤ s.rd fCLE_MIRROR_CFG_STALL_US ∧ s.rd fCLE_MIRROR_CFG_STALL_US ≤ 10000 ∧ s.rd fCLE_MIRROR_SIZE_SIZE_MIB 0 0 < mirrorNeed) ∧
    (∃ (s : State) (h : HostId), s.engineNext (chanOf h 17 / 16) = some (chanOf h 17) ∧ s.calm h (chanOf h 17)) ∧
    (∃ (s : State) (h : HostId), (s.chOn h 17 = false ∨ (s.mirQ h).running = false ∨ (s.mirQ h).queue = [])) ∧
    (∃ (s : State) (h : HostId), (s.mirQ h).running = true ∧ (s.mirQ h).queue ≠ [] ∧
      (s.mirQ h).progress + ns (s.rd fCLE_MIRROR_CFG_STALL_US * 1000) ≤ s.tim.rc) ∧
    (∃ (s : State) (h : HostId), ((s.mirQ h).running = false ∨ (s.mirQ h).queue = [] ∨ s.tim.rc < (s.mirQ h).progress + ns (s.rd fCLE_MIRROR_CFG_STALL_US * 1000))) ∧
    (∃ (s : State) (h : HostId) (k : Nat), s.clerk.work = .resync h ∧ s.clerk.resyncs = [(h, k)] ∧ (s.mirQ h).running = true ∧
      (s.mirQ h).queue = [] ∧ 0 < k ∧ k < resyncAll) ∧
    (∃ (s : State) (h : HostId), s.clerk.work = .resync h ∧ 4096 ≤ (s.mirQ h).queue.length ∧ s.clerk.resyncs.any (·.1 == h) = true) ∧
    (∃ (k : Nat) (x : Nat × Nat × Nat), resyncAt mirRegions k = some x) ∧
    (∃ (s : State) (m : Master), s.passes m .CLE_MIRROR_CFG ∧ s.on fCLE_MIRROR_CFG_EN_A = false ∧ s.on fCLE_MIRROR_CFG_EN_B = false ∧
      100 ≤ s.rd fCLE_MIRROR_CFG_STALL_US ∧ s.rd fCLE_MIRROR_CFG_STALL_US ≤ 10000 ∧ s.gateOpen (some m) .CLE 0 = false ∧
      mirrorNeed ≤ s.rd fCLE_MIRROR_SIZE_SIZE_MIB 0 0 ∧ bitsOf (s.rg .GEN_OWNER_MAP 0 0).toNat 9 8 = 1) :=
  ⟨⟨(mi base 0 mirrorNeed []).setRg .GEN_OWNER_MAP 0x100 0 0, .a, by decide +kernel⟩,
    ⟨mi base 3 0 [], .a, by decide +kernel⟩,
    ⟨mi base 0 (mirrorNeed - 1) [], .a, by decide +kernel⟩,
    ⟨(mw base 1).wr fHST_CH_CFG_VECTOR 3 0 (chanOf .a 17), .a, by decide +kernel⟩,
    ⟨mi base 3 0 [], .a, by decide +kernel⟩,
    ⟨mw base 0, .a, by decide +kernel⟩,
    ⟨mi base 3 0 [], .a, by decide +kernel⟩,
    ⟨rs base 4050, .a, 4050, by decide +kernel⟩,
    ⟨{ rs base 60 with lrn := { (rs base 60).lrn with mirrors := [(.a, ⟨5, List.replicate 4096 (1,[]), true, 3⟩)] } }, .a, by decide +kernel⟩,
    ⟨62, (1, 0, 62), by decide +kernel⟩,
    ⟨{ (mi base 0 mirrorNeed []).setRg .GEN_OWNER_MAP 0x100 0 0 with hst := { (mi base 0 mirrorNeed []).hst with gates := [] } }, .a, by decide +kernel⟩⟩

/-- States and operands that meet the hypotheses of `Repairs`, clause by clause. -/
theorem witness_Repairs :
    (∃ (s : State) (tag : Nat) (r : Repair) (h : HostId), s.clerk.work = .repairRead tag ∧ s.repair? tag = some r ∧
      s.catSister r.table r.pipe r.index = false ∧ s.repairMirror = some h ∧ h ∉ s.hst.lost) ∧
    (∃ (s : State) (tag : Nat) (r : Repair), s.clerk.work = .repairRead tag ∧ s.repair? tag = some r ∧
      s.catSister r.table r.pipe r.index = false ∧ s.repairMirror = none) ∧
    (∃ (s : State), s.on fCLE_MIRROR_CFG_REPAIR_SRC = false ∧ s.on fCLE_MIRROR_STATUS_VALID_A = true ∧ s.on fCLE_MIRROR_CFG_EN_A = true) ∧
    (∃ (s : State), s.on fCLE_MIRROR_CFG_REPAIR_SRC = false ∧ s.on fCLE_MIRROR_STATUS_VALID_A = false ∧
      s.on fCLE_MIRROR_CFG_FALLBACK = true ∧ s.on fCLE_MIRROR_STATUS_VALID_B = true ∧ s.on fCLE_MIRROR_CFG_EN_B = true) ∧
    (∃ (s : State), s.on fCLE_MIRROR_STATUS_VALID_A = false ∧ s.on fCLE_MIRROR_STATUS_VALID_B = false) ∧
    (∃ (s : State) (tag : Nat) (r : Repair) (a : HostRead) (ws : List Word), s.repair? tag = some r ∧ r.phase = 1 ∧
      r.behind + (s.mirQ r.host).queue.length ≤ (s.mirQ r.host).seq) ∧
    (∃ (s : State) (tag : Nat) (r : Repair) (a : HostRead) (ws : List Word), s.repair? tag = some r ∧
      (s.mirQ r.host).seq - (s.mirQ r.host).queue.length < r.behind) ∧
    (∃ (s : State) (tag : Nat) (r : Repair) (ws : List Word), s.clerk.work = .repairWrite tag ∧ s.repair? tag = some r ∧
      s.lrn.repairs = [r] ∧ s.mirFull = false ∧
      r.table ∈ [0x01, 0x02, 0x08, 0x0A, 0x0B, 0x0F, 0x10, 0x11, 0x12, 0x13, 0x18, 0x19, 0x20, 0x21, 0x22, 0x28, 0x2F] ∧
      r.pipe = tblPipe r.table r.pipe ∧ r.record = some ws ∧ recordGood r ws = true ∧ r.punted = [] ∧ s.lrn.waiting = []) ∧
    (∃ (s : State) (tag : Nat) (r : Repair), s.clerk.work = .repairWrite tag ∧ s.repair? tag = some r ∧ s.lrn.repairs = [r] ∧
      s.mirFull = false ∧ r.table ∈ [0x01, 0x02, 0x08, 0x0A, 0x0B, 0x0F, 0x10, 0x11, 0x12, 0x13, 0x18, 0x19, 0x20, 0x21, 0x22, 0x28, 0x2F] ∧
      r.pipe = tblPipe r.table r.pipe ∧ r.record = none ∧ r.punted = [(0, 3), (1, 2)] ∧ r.returned = [(1, 2)]) ∧
    (∃ (s : State) (tag : Nat) (r : Repair), s.clerk.work = .repairWrite tag ∧ s.repair? tag = some r ∧ s.mirFull = true) ∧
    (∃ (s : State) (tag p : Nat) (r : Repair), s.lrn.repairs = [r] ∧ r.tag = tag ∧ r.fences = [p] ∧ s.lrn.waiting = [] ∧ s.heldOf p = [] ∧
      r.rcOpen + ns (s.rd fCLE_REPAIR_CFG_FENCE_TIMEOUT_US * 1000) ≤ s.tim.rc) ∧
    (∃ (s : State) (tag p : Nat) (r : Repair), s.repair? tag = some r ∧
      (p ∉ r.fences ∨ s.tim.rc < r.rcOpen + ns (s.rd fCLE_REPAIR_CFG_FENCE_TIMEOUT_US * 1000))) :=
  ⟨⟨(rp base 0 none [] [] [] (.repairRead 3)).setRg .CLE_MIRROR_CFG 3 |>.setRg .CLE_MIRROR_STATUS 3, 3, ⟨3, 1, 0, 5, 0, .a, none, [], [], [], 1000, 0⟩, .a, by decide +kernel⟩,
    ⟨(rp base 0 none [] [] [] (.repairRead 3)).setRg .CLE_MIRROR_CFG 0 |>.setRg .CLE_MIRROR_STATUS 0, 3, ⟨3, 1, 0, 5, 0, .a, none, [], [], [], 1000, 0⟩, by decide +kernel⟩,
    ⟨base.setRg .CLE_MIRROR_CFG 3 |>.setRg .CLE_MIRROR_STATUS 1, by decide +kernel⟩,
    ⟨(base.setRg .CLE_MIRROR_CFG 3 |>.setRg .CLE_MIRROR_STATUS 2).wr fCLE_MIRROR_CFG_FALLBACK 1, by decide +kernel⟩,
    ⟨base.setRg .CLE_MIRROR_STATUS 0, by decide +kernel⟩,
    ⟨(rp base 1 none [] [] [] .idle), 3, ⟨3, 1, 0, 5, 1, .a, none, [], [], [], 1000, 0⟩, .ok, gr, by decide +kernel⟩,
    ⟨{ rp base 1 none [] [] [] .idle with lrn := { (rp base 1 none [] [] [] .idle).lrn with repairs := [⟨3, 1, 0, 5, 1, .a, none, [], [], [], 1000, 9⟩], mirrors := [(.a, ⟨9, [(1, [])], true, 3⟩)] } }, 3, ⟨3, 1, 0, 5, 1, .a, none, [], [], [], 1000, 9⟩, .ok, gr, by decide +kernel⟩,
    ⟨(rp base 2 (some gr) [] [] [] (.repairWrite 3)), 3, ⟨3, 1, 0, 5, 2, .a, some gr, [], [], [], 1000, 0⟩, gr, by decide +kernel⟩,
    ⟨(rp base 2 none [(0,3),(1,2)] [(1,2)] [] (.repairWrite 3)), 3, ⟨3, 1, 0, 5, 2, .a, none, [(0,3),(1,2)], [(1,2)], [], 1000, 0⟩, by decide +kernel⟩,
    ⟨{ rp base 2 none [(0,3),(1,2)] [(1,2)] [] (.repairWrite 3) with lrn := { (rp base 2 none [(0,3),(1,2)] [(1,2)] [] (.repairWrite 3)).lrn with mirrors := [(.a, ⟨5, List.replicate 4096 (1,[]), true, 3⟩)] } }, 3, ⟨3, 1, 0, 5, 2, .a, none, [(0,3),(1,2)], [(1,2)], [], 1000, 0⟩, by decide +kernel⟩,
    ⟨(rp base 3 none [] [] [0] .idle), 3, 0, ⟨3, 1, 0, 5, 3, .a, none, [], [], [0], 1000, 0⟩, by decide +kernel⟩,
    ⟨(rp base 3 none [] [] [1] .idle), 3, 0, ⟨3, 1, 0, 5, 3, .a, none, [], [], [1], 1000, 0⟩, by decide +kernel⟩⟩

/-- States and operands that meet the hypotheses of `EditionDrain`, clause by clause. -/
theorem witness_EditionDrain :
    (∃ (s : State) (b : Bool), (s.edState b = 4 ∨ s.edState b = 5) ∧ s.resident b = 0 ∧ s.markedAtMac b = false) ∧
    (∃ (s : State) (b : Bool), ((s.edState b ≠ 4 ∧ s.edState b ≠ 5) ∨ s.resident b ≠ 0 ∨ s.markedAtMac b = true)) ∧
    (∃ (s : State) (b : Bool), s.edState b = 4 ∧ 0 < s.resident b ∧
      AMap.getD s.ed.drainRc (b2n b) 0 + ns (1000 * AMap.getD s.ed.drainLen (b2n b) 0) ≤ s.tim.rc) ∧
    (∃ (s : State) (b : Bool), (s.edState b ≠ 4 ∨ s.resident b = 0 ∨ s.tim.rc < AMap.getD s.ed.drainRc (b2n b) 0 + ns (1000 * AMap.getD s.ed.drainLen (b2n b) 0))) ∧
    (∃ (s : State) (b : Bool), s.edState b = 5 ∧ AMap.getD s.ed.expRc (b2n b) 0 + ns nsPerSec ≤ s.tim.rc ∧
      s.isPresent (slotOf .ED_STUCK 0) = false) ∧
    (∃ (s : State) (b : Bool), (s.edState b ≠ 5 ∨ s.tim.rc < AMap.getD s.ed.expRc (b2n b) 0 + ns nsPerSec)) :=
  ⟨⟨edd base 4 0, true, by decide +kernel⟩,
    ⟨edd base 3 0, true, by decide +kernel⟩,
    ⟨edd base 4 3, true, by decide +kernel⟩,
    ⟨edd base 4 0, true, by decide +kernel⟩,
    ⟨{ edd base 5 3 with tim := { base.tim with rc := 2^90 }, flt := { base.flt with present := [3] } }, true, by decide +kernel⟩,
    ⟨{ edd base 5 3 with ed := { base.ed with expRc := [(1, base.tim.rc)] } }, true, by decide +kernel⟩⟩

/-- States and operands that meet the hypotheses of `Ration`, clause by clause. -/
theorem witness_Ration :
    (∃ (s : State) (rails : List Nat), s.rat.sampleAt + ns 1000 ≤ s.tim.rc) ∧
    (∃ (s : State) (rails : List Nat), s.tim.rc < s.rat.sampleAt + ns 1000) ∧
    (∃ (s : State) (temps : List Int), s.tim.rc < s.rat.endAt + ns 10000) ∧
    (∃ (s : State) (temps : List Int), s.rat.endAt + ns 10000 ≤ s.tim.rc ∧ temps.length = 64) ∧
    (∃ (s : State) (mw : Nat), s.rat.failed = false) ∧
    (∃ (s : State) (t0 : Nat) (shares : List Nat), s.rat.next = some (t0, shares) ∧ t0 ≤ s.tim.rc ∧ shares.length = 8 ∧
      (∀ x ∈ shares, x < 2 ^ 32)) ∧
    (∃ (s : State), (∀ x ∈ s.rat.next, s.tim.rc < x.1)) :=
  ⟨⟨ra base, [100000, 3], by decide +kernel⟩,
    ⟨{ ra base with rat := { (ra base).rat with sampleAt := base.tim.rc } }, [5], by decide +kernel⟩,
    ⟨{ ra base with rat := { (ra base).rat with endAt := base.tim.rc } }, tps, by decide +kernel⟩,
    ⟨ra base, tps, by decide +kernel⟩,
    ⟨ra base, 100000, by decide +kernel⟩,
    ⟨{ ra base with rat := { (ra base).rat with next := some (5, [1,2,3,4,5,6,7,0xFFFFFFFF]) } }, 5, [1,2,3,4,5,6,7,0xFFFFFFFF], by decide +kernel⟩,
    ⟨{ ra base with rat := { (ra base).rat with next := some (base.tim.rc + 1, [1,2,3,4,5,6,7,0xFFFFFFFF]) } }, by decide +kernel⟩⟩

end WE

namespace WF

def sc (t : Nat) (st : Bool) (rc : Nat) : Scan := ⟨t, 2, false, 2^15, rc, st, [1,0,0,0,0,0,0,0], none⟩
def snp (b : State) (x : Scan) : State := { ((ready b).setRg .ARC_SNAP_SIZE 24).setRg .ARC_SNAP_BASE_LO 0x10000 with arc := { b.arc with scan := some x, snapHead := 2000, snapUsed := 5, snapSkipped := 3, snapSeq := 9, mem := [(100, 5), (0x10000 + 2003, 7), (0x10000+5000, 8)], resid := [0,3] }, drm := { b.drm with queues := [] }, flt := { b.flt with marks := [], nextMarks := [] }, epoch := some 5, cnts := [((15, 1, 0), 3), ((15, 0, 0), 3), ((1,1,1), 4)], saved := [((15, 1, 0), 2)] }
def fl (last : Nat) : Flow := ⟨[1,2,3], 77, 2, 3, some 4, 2^33+1, 5000000000, 10, 2, last, 1, 5, 6⟩
def fw (b : State) (p last : Nat) : State := { ((ready b).setRg .PAR_FLOW_CFG 1 p).setRg .ARC_LEDGER_CFG 16 with arc := { b.arc with flows := [((p, 5, 2), fl last)], ledHead := 65537, ledUsed := 3, mem := [(30, 1), (b.ledBase + 70, 9), (b.ledBase + 130, 6)] }, drm := { b.drm with queues := [] }, flt := { b.flt with marks := [], nextMarks := [] } }
def fwt (b : State) : State := { b with tim := { b.tim with ct := 2^95 } }
def cp (b : State) (st post : Nat) : State := (((ready b).setRg .ARC_CAP_CFG 0x10A).setRg .ARC_CAP_STATUS (BitVec.ofNat 32 st)).setRg .ARC_CAP_POST (BitVec.ofNat 32 post)
def st7 : Stall := ⟨0, 5, List.replicate 80 9, 80, true, true, false, 0x84, 1, 0, true, 0, false, false, 1, true, false, 2, 1, 50, 40, none, 0, 0, 80, 1, 3, 0, none, 2, 0, false⟩
def sl7 : Slip := ⟨9, 0, 5, 7, 1, false, false, false, 266, 0, false, 0, 0, none, none, none, true, false, false, 8, 2⟩
def dr (b : State) : State := { ((b.setRg .DRM_CFG 0xC20203).setRg .DRM_STATUS 1).setRg .CKR_RUN 0xFFFFFFFF with drm := { b.drm with queues := [((0, 3), [⟨2, true, 0, List.replicate 64 1, List.replicate 64 true, 5⟩])] } , arc := { b.arc with mem := [(4, 5), (200, 7), (300, 8)] }, flt := { b.flt with marks := [], nextMarks := [] } }
def drs (b : State) : State := (dr b).setRg .DRM_ARB 0x123456 |>.setRg .DRM_SCHED 0x10200100
def q1 (b : State) (r : DramReq) (op : Bool) : State := { drs b with drm := { b.drm with queues := [((drs b).dramKey r.addr, [r])], openRow := if op then [((drs b).dramKey r.addr, ((drs b).dramAt r.addr).row)] else [], writing := [] } }
def rq (w : Bool) (n : Nat) : DramReq := ⟨2, w, 192, List.replicate 64 6, (List.replicate n true) ++ [false, true], 5⟩
def zt (s : State) (z tr : Nat) (e : List Nat := []) : State := { s.setRg .DRM_TRAIN 0xFFFFFFFF with drm := { s.drm with zqNext := z, trNext := tr, exits := e, paused := [] }, tim := { s.tim with jobs := [] } }
def q2 (b : State) (l : List DramReq) : State := let s := drs b; { s with drm := { b.drm with queues := [(s.dramKey 192, l)], openRow := [(s.dramKey 192, (s.dramAt 192).row)], writing := [] }, tim := { s.tim with rc := 7 } }

/-- States and operands that meet the hypotheses of `Snapshots`, clause by clause. -/
theorem witness_Snapshots :
    (∃ (s : State) (m : Master), s.passes m .STB_CFG ∧ s.on fSTB_CFG_EN = false) ∧
    (∃ (s : State), s.on fSTB_CFG_EN = true ∧ s.on fSTB_STATUS_READY = false) ∧
    (∃ (s : State), (s.on fSTB_CFG_EN = false ∨ s.on fSTB_STATUS_READY = true)) ∧
    (∃ (s : State) (x : Scan), s.arc.scan = some x ∧ x.started = false ∧ x.rc + ns 10000 ≤ s.tim.rc) ∧
    (∃ (s : State), (∀ x ∈ s.arc.scan, x.started = true ∨ s.tim.rc < x.rc + ns 10000)) ∧
    (∃ (s : State) (x : Scan), s.arc.scan = some x ∧ x.started = true ∧ x.rc + ns 10000 + snapLen x.mask * nsU / s.scanRate ≤ s.tim.rc ∧
      s.archOpen = true ∧ s.drm.waiting = [] ∧ s.drm.queues = [] ∧ s.flt.marks = [] ∧ s.flt.nextMarks = [] ∧
      s.arc.snapHead + snapSpan x.mask ≤ s.snapSize) ∧
    (∃ (s : State), (∀ x ∈ s.arc.scan, x.started = false ∨ s.tim.rc < x.rc + ns 10000 + snapLen x.mask * nsU / s.scanRate)) ∧
    (∃ (s : State) (x : Scan), s.arc.scan = some x ∧ x.started = true ∧ x.rc + ns 10000 + snapLen x.mask * nsU / s.scanRate ≤ s.tim.rc ∧
      s.archOpen = false ∧ s.dclkOn = true) ∧
    (∃ (s : State) (m : Master), s.passes m .ARC_CFG ∧ s.on fARC_CFG_SNAP_EN = true ∧ (∀ tr ∈ s.tim.trigs, tr.kind ≠ .snapshot) ∧
      s.arc.scan.isSome = true) ∧
    (∃ (s : State) (set elem idx : Nat), set < 14 ∧ elem < (setInfo set).1 ∧ idx < (setInfo set).2) ∧
    (∃ (s : State) (set elem idx : Nat), ¬(elem < (setInfo set).1 ∧ idx < (setInfo set).2)) :=
  ⟨⟨(ready base).setRg .STB_CFG 2, .a, by decide +kernel⟩,
    ⟨((base.setRg .STB_CFG 1).setRg .STB_STATUS 0).setRg .STB_POOL_COUNT 77 0 2, by decide +kernel⟩,
    ⟨(base.setRg .STB_CFG 0), by decide +kernel⟩,
    ⟨{ base with arc := { base.arc with scan := some (sc 5 false 3) } }, sc 5 false 3, by decide +kernel⟩,
    ⟨{ base with arc := { base.arc with scan := some (sc 5 false base.tim.rc) } }, by decide +kernel⟩,
    ⟨snp base (sc 5 true 3), sc 5 true 3, by decide +kernel⟩,
    ⟨snp base (sc 5 true base.tim.rc), by decide +kernel⟩,
    ⟨let s := snp base (sc 5 true 3); { s with drm := { s.drm with paused := [(1, s.tim.rc + 3)] } }, sc 5 true 3, by decide +kernel⟩,
    ⟨(ready (snp base (sc 5 true 3))).setRg .ARC_CFG 3, .a, by decide +kernel⟩,
    ⟨{ base with arc := { base.arc with lastMask := 2, lastSnap := [((1, 1, 83), 4), ((2,1,7), 5)] }, cnts := [((1,1,83), 7), ((2,1,7),9)] }, 1, 1, 83, by decide +kernel⟩,
    ⟨base, 1, 256, 5, by decide +kernel⟩⟩

/-- States and operands that meet the hypotheses of `FlowsAndCapture`, clause by clause. -/
theorem witness_FlowsAndCapture :
    (∃ (s : State) (p : Nat) (k : Nat × Nat × Nat) (f : Flow), s.arc.flows = [(k, f)] ∧ k.1 = p ∧ s.on fPAR_FLOW_CFG_EN p = true ∧
      f.last + ns (s.rd fARC_FLOW_TIMERS_IDLE_MS * 1000000) ≤ s.tim.ct ∧ s.arc.ledUsed < s.ledSize ∧ s.dramClear = true ∧
      s.drm.queues = [] ∧ s.flt.marks = [] ∧ s.flt.nextMarks = [] ∧ s.jobDue .flowSweep p (ns 1000000) = true) ∧
    (∃ (s : State) (p : Nat), s.on fPAR_FLOW_CFG_EN p = true ∧
      (∀ x ∈ s.arc.flows, x.1.1 ≠ p ∨ (s.tim.ct < x.2.last + ns (s.rd fARC_FLOW_TIMERS_IDLE_MS * 1000000) ∧
      s.tim.ct < x.2.first + ns (s.rd fARC_FLOW_TIMERS_ACTIVE_S * nsPerSec))) ∧ s.jobDue .flowSweep p (ns 1000000) = true) ∧
    (∃ (s : State) (p : Nat), s.jobDue .flowSweep p (ns 1000000) = false) ∧
    (∃ (s : State) (m : Master) (p : Nat) (k : Nat × Nat × Nat) (f : Flow), p < 8 ∧ s.dramWaits 1 < 256 ∧ s.passes m .PAR_FLOW_CFG p ∧
      s.gateOpen (some m) .PAR p = true ∧ s.on fPAR_FLOW_CFG_EN p = true ∧ s.arc.flows = [(k, f)] ∧ k.1 = p ∧ s.arc.ledUsed < s.ledSize) ∧
    (∃ (s : State) (m : Master) (p : Nat), p < 8 ∧ s.passes m .PAR_FLOW_CFG p ∧ s.gateOpen (some m) .PAR p = true ∧
      s.on fPAR_FLOW_CFG_EN p = true ∧ (∀ x ∈ s.arc.flows, x.1.1 ≠ p)) ∧
    (∃ (s : State) (m : Master) (p : Nat), p < 8 ∧ s.passes m .PAR_FLOW_CFG p ∧ s.gateOpen (some m) .PAR p = false ∧
      s.on fPAR_FLOW_CFG_EN p = true ∧ (∀ x ∈ s.arc.flows, x.1.1 ≠ p)) ∧
    (∃ (s : State) (m : Master), s.passes m .ARC_CAP_CFG ∧ s.rd fARC_CAP_CFG_MODE = 1 ∧ s.rd fARC_CAP_STATUS_STATE = 0 ∧
      10 ≤ s.rd fARC_CAP_CFG_LOG2_RECS ∧ s.rd fARC_CAP_CFG_LOG2_RECS ≤ 24 ∧ s.rd fARC_CAP_POST_POST < 2 ^ s.rd fARC_CAP_CFG_LOG2_RECS ∧
      s.rg .ARC_CAP_CFG = s.rg .ARC_CAP_CFG &&& 0xF1F) ∧
    (∃ (s : State) (m : Master), s.passes m .ARC_CAP_CFG ∧ s.rd fARC_CAP_STATUS_STATE = 2 ∧ 10 ≤ s.rd fARC_CAP_CFG_LOG2_RECS ∧
      s.rd fARC_CAP_CFG_LOG2_RECS ≤ 24 ∧ s.rd fARC_CAP_POST_POST < 2 ^ s.rd fARC_CAP_CFG_LOG2_RECS ∧
      s.rg .ARC_CAP_CFG = s.rg .ARC_CAP_CFG &&& 0xF1F) ∧
    (∃ (s : State), (∀ c, c < 8 → s.queue (hostQueue 266 c) = [])) ∧
    (∃ (s : State) (id : Nat) (x : Slip) (st : Stall), s.queue (hostQueue 266 7) = [id] ∧ s.slip? id = some x ∧ x.id = id ∧ x.cls = 7 ∧
      x.outPort = 266 ∧ s.frameOf x = some st ∧ st.done = true ∧ st.bad = false ∧ s.flt.marks = [] ∧ s.flt.nextMarks = [] ∧
      s.drm.queues = [] ∧ s.dramClear = true ∧ s.on fARC_CFG_CAP_EN = true ∧ s.capRefill.capTakes = true ∧ s.rd fARC_CAP_STATUS_STATE = 0) :=
  ⟨⟨fwt (fw base 0 11), 0, (0, 5, 2), fl 11, by decide +kernel⟩,
    ⟨fw { base with arc := base.arc } 0 (2^120) |> fun s => { s with arc := { s.arc with flows := [((0, 5, 2), { fl (2^120) with first := 2^120 })] } }, 0, by decide +kernel⟩,
    ⟨let s := fw base 0 11; { s with tim := { s.tim with jobs := [((.flowSweep, 0), s.tim.rc)] } }, 0, by decide +kernel⟩,
    ⟨openG (ready (fw base 0 11)) .a .PAR 0, .a, 0, (0, 5, 2), fl 11, by decide +kernel⟩,
    ⟨(ready (fw base 1 11)).setRg .PAR_FLOW_CFG 1 0 |> (openG · .a .PAR 0), .a, 0, by decide +kernel⟩,
    ⟨(ready (fw base 1 11)).setRg .PAR_FLOW_CFG 1 0, .a, 0, by decide +kernel⟩,
    ⟨cp base 0 1023, .a, by decide +kernel⟩,
    ⟨cp base 2 5, .b, by decide +kernel⟩,
    ⟨base, by decide +kernel⟩,
    ⟨{ (cp base 0 3).setRg .ARC_CFG 4 with fwd := { base.fwd with stalls := [st7], slips := [sl7, { sl7 with id := 8 }], queues := [(hostQueue 266 7, [9])] }, flt := { base.flt with marks := [], nextMarks := [] }, drm := { base.drm with queues := [] }, arc := { base.arc with capHead := 1026, mem := [(3,4), (base.capBase + 700, 3), (base.capBase + 961, 3)] } }, 9, sl7, st7, by decide +kernel⟩⟩

/-- States and operands that meet the hypotheses of `DramService`, clause by clause. -/
theorem witness_DramService :
    (∃ (s : State) (req a : Nat) (w : Bool) (data : List Byte) (en : List Bool), req < 7 ∧ s.on fDRM_STATUS_READY = true ∧ a % 64 = 0 ∧
      a + 64 ≤ s.drmBytes ∧ s.dclkOn = true ∧ s.drm.waiting = [] ∧ (s.bank (s.dramKey a)).length < 8) ∧
    (∃ (s : State) (req a : Nat) (w : Bool) (data : List Byte) (en : List Bool), s.on fDRM_STATUS_READY = true ∧ a % 64 = 0 ∧
      a + 64 ≤ s.drmBytes ∧ s.dclkOn = false) ∧
    (∃ (s : State) (req a : Nat) (w : Bool) (data : List Byte) (en : List Bool), (s.on fDRM_STATUS_READY = false ∨ a % 64 ≠ 0 ∨ s.drmBytes < a + 64)) ∧
    (∃ (s : State) (u : Nat), (s.on fDRM_STATUS_READY = false ∨ s.dclkOn = false ∨ s.dramPaused u = true)) ∧
    (∃ (s : State) (k : Nat × Nat) (r : DramReq), s.on fDRM_STATUS_READY = true ∧ s.dclkOn = true ∧ s.dramPaused k.1 = false ∧
      s.drm.queues = [(k, [r])] ∧ s.owed k.1 = 0 ∧ s.drm.waiting = [] ∧ s.rowOpen (k, r) = false ∧ s.drm.writing = [] ∧ r.write = false ∧
      s.rd fDRM_SCHED_WR_HI ≠ 0) ∧
    (∃ (s : State) (k : Nat × Nat) (r : DramReq), s.on fDRM_STATUS_READY = true ∧ s.dclkOn = true ∧ s.dramPaused k.1 = false ∧
      s.drm.queues = [(k, [r])] ∧ s.owed k.1 = 0 ∧ s.rowOpen (k, r) = true ∧ s.drm.waiting = [] ∧ r.write = true ∧ r.addr % 64 = 0 ∧
      s.flt.marks = [] ∧ s.flt.nextMarks = []) ∧
    (∃ (s : State) (k : Nat × Nat) (r : DramReq), s.on fDRM_STATUS_READY = true ∧ s.dclkOn = true ∧ s.dramPaused k.1 = false ∧
      s.drm.queues = [(k, [r])] ∧ s.owed k.1 = 0 ∧ s.rowOpen (k, r) = true ∧ s.drm.waiting = [] ∧ r.write = false ∧ r.req ≠ 6 ∧
      s.flt.marks = [] ∧ s.rd fDRM_SCHED_WR_HI ≠ 0) ∧
    (∃ (s : State) (k : Nat × Nat) (w r : DramReq), s.on fDRM_STATUS_READY = true ∧ s.dclkOn = true ∧ s.dramPaused k.1 = false ∧
      s.drm.queues = [(k, [w, r])] ∧ s.owed k.1 = 0 ∧ s.rowOpen (k, r) = true ∧ s.drm.waiting = [] ∧ w.whole = true ∧ r.write = false ∧
      r.addr = w.addr ∧ s.drm.writing = [] ∧ 1 < s.rd fDRM_SCHED_WR_HI ∧ (∀ x ∈ [w, r], s.tim.rc ≤ x.since + ns (s.rd fDRM_SCHED_AGE_NS))) ∧
    (∃ (s : State) (k : Nat × Nat) (r w : DramReq), s.on fDRM_STATUS_READY = true ∧ s.dclkOn = true ∧ s.dramPaused k.1 = false ∧
      s.drm.queues = [(k, [r, w])] ∧ s.owed k.1 = 0 ∧ s.rowOpen (k, r) = true ∧ s.drm.waiting = [] ∧ r.write = false ∧ w.write = true ∧
      w.addr = r.addr ∧ r.req ≠ 6 ∧ s.flt.marks = []) ∧
    (∃ (s : State) (k : Nat × Nat) (r : DramReq), s.on fDRM_STATUS_READY = true ∧ s.dclkOn = true ∧ s.dramPaused k.1 = false ∧
      s.drm.queues = [(k, [r])] ∧ s.owed k.1 = 0 ∧ s.rowOpen (k, r) = true ∧ s.drm.waiting = [] ∧ r.write = false ∧ r.req < 6 ∧
      r.addr % 64 = 0 ∧ s.flt.marks = [] ∧ s.rd fDRM_SCHED_WR_HI ≠ 0 ∧ s.dramSub r.addr < 8) :=
  ⟨⟨(drs base), 3, 192, false, [], [], by decide +kernel⟩,
    ⟨(drs base).setRg .CKR_RUN 0, 3, 192, false, [], [], by decide +kernel⟩,
    ⟨(drs base), 3, 65, false, [], [], by decide +kernel⟩,
    ⟨{ drs base with drm := { base.drm with paused := [(1, base.tim.rc + 4)] } }, 1, by decide +kernel⟩,
    ⟨q1 base (rq false 4) false, (drs base).dramKey 192, rq false 4, by decide +kernel⟩,
    ⟨q1 base (rq true 4) true, (drs base).dramKey 192, rq true 4, by decide +kernel⟩,
    ⟨q1 base (rq false 4) true, (drs base).dramKey 192, rq false 4, by decide +kernel⟩,
    ⟨(q2 base [rq true 64, rq false 4]).wr fDRM_SCHED_WR_HI 30, (drs base).dramKey 192, rq true 64, rq false 4, by decide +kernel⟩,
    ⟨q2 base [rq false 4, rq true 64], (drs base).dramKey 192, rq false 4, rq true 64, by decide +kernel⟩,
    ⟨q1 base (rq false 4) true, (drs base).dramKey 192, rq false 4, by decide +kernel⟩⟩

/-- States and operands that meet the hypotheses of `DramUpkeep`, clause by clause. -/
theorem witness_DramUpkeep :
    (∃ (s : State) (m : Master), s.passes m .DRM_CFG ∧ s.gateOpen (some m) .DRM 0 = true ∧ s.on fDRM_CFG_EN = false ∧
      s.rd fDRM_CFG_CH_EN ∈ [1, 3, 15] ∧ s.rd fDRM_CFG_WIDTH < 3 ∧ s.rd fDRM_CFG_SPEED < 3 ∧ 8 ≤ s.rd fDRM_CFG_GRAIN_LOG2 ∧
      s.rd fDRM_CFG_GRAIN_LOG2 ≤ 16 ∧ 8 ≤ drmGib (s.rg .DRM_CFG).toNat ∧ drmGib (s.rg .DRM_CFG).toNat ≤ 128) ∧
    (∃ (s : State) (m : Master), s.passes m .DRM_CFG ∧ s.gateOpen (some m) .DRM 0 = false ∧ s.on fDRM_CFG_EN = false ∧
      s.rd fDRM_CFG_CH_EN ∈ [1, 3, 15] ∧ s.rd fDRM_CFG_WIDTH < 3 ∧ s.rd fDRM_CFG_SPEED < 3 ∧ 8 ≤ s.rd fDRM_CFG_GRAIN_LOG2 ∧
      s.rd fDRM_CFG_GRAIN_LOG2 ≤ 16 ∧ 8 ≤ drmGib (s.rg .DRM_CFG).toNat ∧ drmGib (s.rg .DRM_CFG).toNat ≤ 128) ∧
    (∃ (s : State), s.on fDRM_STATUS_TRAINING = true) ∧
    (∃ (s : State) (f : Nat), s.on fDRM_STATUS_TRAINING = true ∧ s.on fDRM_STATUS_READY = false ∧ f < 2 ^ s.dramN ∧ 0 < f ∧ f < 256) ∧
    (∃ (s : State) (f : Nat), s.on fDRM_STATUS_TRAINING = false) ∧
    (∃ (s : State) (u : Nat), s.on fDRM_STATUS_READY = true ∧ s.dclkOn = true ∧ AMap.getD s.drm.refDue u 0 ≤ s.tim.rc ∧ s.subReqs u = [] ∧
      s.owed u = 0 ∧ s.rd fDRM_REF_MODE ≠ 1) ∧
    (∃ (s : State) (u : Nat), s.on fDRM_STATUS_READY = true ∧ s.dclkOn = true ∧ AMap.getD s.drm.refDue u 0 ≤ s.tim.rc ∧ s.subReqs u ≠ [] ∧
      s.owed u < s.rd fDRM_REF_POSTPONE) ∧
    (∃ (s : State) (u : Nat), (s.on fDRM_STATUS_READY = false ∨ s.dclkOn = false ∨ s.tim.rc < AMap.getD s.drm.refDue u 0)) ∧
    (∃ (s : State) (u : Nat), u ∉ s.drm.doubleRate ∧ s.rd fDRM_REF_MODE ≠ 1) ∧
    (∃ (s : State) (u : Nat) (twice : Bool), s.dclkOn = true ∧ s.jobDue .mr4 u (ns 1000000) = true) ∧
    (∃ (s : State) (u : Nat) (twice : Bool), s.jobDue .mr4 u (ns 1000000) = false) ∧
    (∃ (s : State) (u : Nat), s.mayPause u = true ∧ s.drm.zqNext = u ∧ u ≠ 0) ∧
    (∃ (s : State), s.mayPause 0 = true ∧ s.runNext s.drm.zqNext = 0 ∧ s.jobDue .zq 0 (ns (s.rd fDRM_TRAIN_ZQ_MS * 1000000)) = true) ∧
    (∃ (s : State) (u : Nat), (s.runNext s.drm.zqNext ≠ u ∨ (u = 0 ∧ s.jobDue .zq 0 (ns (s.rd fDRM_TRAIN_ZQ_MS * 1000000)) = false))) ∧
    (∃ (s : State) (u : Nat), s.mayPause u = false) ∧
    (∃ (s : State) (u : Nat), s.mayPause u = true ∧ s.drm.exits = [] ∧ s.drm.trNext = u ∧ u ≠ 0 ∧ s.rd fDRM_TRAIN_RETRAIN_MS ≠ 0) ∧
    (∃ (s : State) (u : Nat) (moved : Bool), s.drm.exits = [] ∧ (s.rd fDRM_TRAIN_RETRAIN_MS = 0 ∨ s.runNext s.drm.trNext ≠ u)) ∧
    (∃ (s : State) (u : Nat) (l : List Nat), s.mayPause u = true ∧ s.drm.exits = u :: l) ∧
    (∃ (s : State) (u : Nat), s.mayPause u = true ∧ s.drm.exits = [] ∧ s.drm.trNext = u ∧ u ≠ 0 ∧ s.rd fDRM_TRAIN_RETRAIN_MS ≠ 0) ∧
    (∃ (s : State), s.on fDRM_STATUS_READY = true ∧ s.dclkOn = true ∧ s.on fDRM_SCRUB_EN = true ∧ s.flt.marks = [] ∧ s.drm.queues = [] ∧
      s.dramClear = true ∧ s.jobDue .patrol 0 s.patrolTime = true) ∧
    (∃ (s : State), s.on fDRM_STATUS_READY = true ∧ s.dclkOn = true ∧ s.on fDRM_SCRUB_EN = true ∧ s.flt.marks = [] ∧
      s.jobDue .patrol 0 s.patrolTime = true ∧ s.dramClear = true) ∧
    (∃ (s : State), s.on fDRM_STATUS_READY = true ∧ s.dclkOn = true ∧ s.on fDRM_SCRUB_EN = true ∧ s.jobDue .patrol 0 s.patrolTime = true ∧
      s.dramClear = false ∧ s.drm.waiting = [] ∧ (s.bank (s.dramKey (s.drm.scrubAt * 64))).length < 8) ∧
    (∃ (s : State), (s.on fDRM_STATUS_READY = false ∨ s.dclkOn = false ∨ s.on fDRM_SCRUB_EN = false ∨ s.jobDue .patrol 0 s.patrolTime = false)) ∧
    (∃ (s : State) (u b n : Nat), s.dclkOn = true ∧ AMap.getD s.drm.replays u 0 < 3) ∧
    (∃ (s : State) (u b n : Nat), s.dclkOn = true) ∧
    (∃ (s : State) (u b n : Nat) (r : DramReq), s.dclkOn = true ∧ AMap.getD s.drm.replays u 0 = 3 ∧ (s.bank (u, b))[n]? = some r ∧
      s.drm.waiting = []) :=
  ⟨⟨(openG (ready base) .a .DRM).setRg .DRM_CFG 0xC20203, .a, by decide +kernel⟩,
    ⟨(ready base).setRg .DRM_CFG 0xC20203, .a, by decide +kernel⟩,
    ⟨(base.setRg .DRM_STATUS 0xFF02).setRg .DRM_CFG 0xC20203, by decide +kernel⟩,
    ⟨(base.setRg .DRM_STATUS 0xFF02).setRg .DRM_CFG 0xC20203, 5, by decide +kernel⟩,
    ⟨base.setRg .DRM_STATUS 0xFF01, 3, by decide +kernel⟩,
    ⟨{ (drs base).setRg .DRM_REF 0 with drm := { base.drm with openRow := [((0,1),2),((1,1),3)] } }, 0, by decide +kernel⟩,
    ⟨{ (drs base).setRg .DRM_REF 4 with drm := { (drs base).drm with openRow := [((0,1),2),((1,1),3)], postponed := [(0, 2)] } } |> fun s => s.wr fDRM_REF_POSTPONE 4, 0, by decide +kernel⟩,
    ⟨{ (drs base) with drm := { base.drm with refDue := [(0, base.tim.rc + 1)] } }, 0, by decide +kernel⟩,
    ⟨(drs base).setRg .DRM_REF 0, 3, by decide +kernel⟩,
    ⟨{ drs base with drm := { base.drm with doubleRate := [3, 5] } }, 3, false, by decide +kernel⟩,
    ⟨let s := drs base; { s with tim := { s.tim with jobs := [((.mr4, 3), s.tim.rc)] } }, 3, true, by decide +kernel⟩,
    ⟨zt (drs base) 1 0, 1, by decide +kernel⟩,
    ⟨zt (drs base) 0 0, by decide +kernel⟩,
    ⟨zt (drs base) 1 0, 0, by decide +kernel⟩,
    ⟨{ drs base with drm := { base.drm with paused := [(0, base.tim.rc + 5)] } }, 1, by decide +kernel⟩,
    ⟨zt (drs base) 1 1, 1, by decide +kernel⟩,
    ⟨zt (drs base) 1 1, 0, true, by decide +kernel⟩,
    ⟨zt (drs base) 1 1 [1, 2], 1, [2], by decide +kernel⟩,
    ⟨zt (drs base) 1 1, 1, by decide +kernel⟩,
    ⟨{ (drs base).setRg .DRM_SCRUB 0x80000001 with drm := { base.drm with scrubAt := 77 } }, by decide +kernel⟩,
    ⟨{ (drs base).setRg .DRM_SCRUB 0x80000001 with drm := { base.drm with scrubAt := (drs base).drmBytes / 64 - 1 } }, by decide +kernel⟩,
    ⟨{ (drs base).setRg .DRM_SCRUB 0x80000001 with drm := { base.drm with scrubAt := 77, replays := [(1, 2)] } }, by decide +kernel⟩,
    ⟨(drs base).setRg .DRM_SCRUB 0, by decide +kernel⟩,
    ⟨{ drs base with drm := { base.drm with replays := [(1, 2)] } }, 1, 3, 0, by decide +kernel⟩,
    ⟨{ drs base with drm := { base.drm with replays := [(1, 2)] } }, 1, 3, 0, by decide +kernel⟩,
    ⟨{ drs base with drm := { base.drm with queues := [((0, 3), [rq true 3, rq false 1])], replays := [(0, 3)] } }, 0, 3, 0, rq true 3, by decide +kernel⟩⟩

end WF

namespace WG

def lsb (b : State) : State := { ready b with hst := { b.hst with lost := [], gates := [((.a, .TIM, 0), (true, 5)), ((.b, .TIM, 0), (true, 5))], events := [(.a, [[1]])] }, clerk := { b.clerk with fetched := [⟨.ring .a true, [], [], false, 0, false, 0, 0⟩, ⟨.ring .b true, [], [], false, 0, false, 0, 0⟩, ⟨.taw .a, [], [], false, 0, false, 0, 0⟩] }, lrn := { b.lrn with mirrors := [(.a, ⟨7, [(1,[2])], true, 3⟩)] } }
def chn (b : State) (c : Nat) (cfg dev host : Word) : State := (((ready b).setRg .HST_CH_CFG cfg 0 c).setRg .HST_CH_DEV_IDX dev 0 c).setRg .HST_CH_HOST_IDX host 0 c
def md (b : State) (since : Nat) (m : Word) : State := { chn b (chanOf .a 14) 0x86058001 7 3 with ckr := { b.ckr with pulses := [] }, hst := { b.hst with lost := [], chans := [(chanOf .a 14, ⟨since, 2, true⟩)], msix := [((.a, 4*5+3), m)] } }
def tn (s : State) (l : Nat) : State := { s with hst := { s.hst with turns := [(chanOf .a l / 16, (chanOf .a l % 16 + 15) % 16)], lost := [] }, ckr := { s.ckr with pulses := [] } }
def hr (b : State) (l : Nat) (dev host : Word) (msk : Word := 0) : State := let s := chn b (chanOf .a l) 0x86058001 dev host; { s with ckr := { s.ckr with pulses := [] }, hst := { s.hst with lost := [], turns := [(chanOf .a l / 16, (chanOf .a l % 16 + 15) % 16)], msix := [((.a, 4*5+3), msk)], compl := [(.ring .a false, [⟨3, 4, 5, 6, 7⟩])], events := [(.a, [[1,2,3,4,5,6,7,8]])], pba := [] } }
def pp (b : State) (l : List Nat) (bs : List ((HostId × Nat) × Bool)) : State := let s := (hr b 20 0xFFFFFFFF 3).setRg .HST_POOL_CFG 0x80080010 0 1; { s with hst := { s.hst with posted := [(.a, 1, l), (.a, 0, [3])], bufState := bs } }
def bk (b : State) : State := { ((hr b 18 4 5).setRg .DRM_CFG 0xC20203).setRg .DRM_STATUS 1 |>.setRg .ARC_CFG 0 with drm := { b.drm with queues := [] }, arc := { b.arc with mem := [(100, 5), (103, 6), (107, 8)] }, flt := { b.flt with marks := [], nextMarks := [] } }
def stp : Stall := ⟨0, 5, List.replicate 80 9, 80, true, true, false, 0x84, 1, 0, true, 0, false, false, 1, true, false, 2, 1, 50, 40, none, 0, 0, 80, 1, 3, 0, none, 2, 0, false⟩
def slp7 : Slip := ⟨9, 0, 5, 7, 1, false, false, false, 264, 0, false, 0, 0, none, some 3, none, false, false, false, 8, 2⟩
def pd (b : State) : State := let s := (hr b 11 4 2).setRg .HST_POOL_CFG 0x80080010 0 1 |>.setRg .HST_POOL_CFG 0 0 0; { s with fwd := { b.fwd with stalls := [stp], slips := [slp7, { slp7 with id := 8 }], queues := [(hostQueue 264 7, [9])] }, flt := { b.flt with marks := [], nextMarks := [] }, hst := { s.hst with posted := [(.a, 1, [65537, 65539])], bufState := [((.a, 65537), true)] } }
def ex (b : State) (used : Nat) : State := let s := (hr b 15 4 3).setRg .HST_CH_CFG 0x8C058001 0 (chanOf .a 15) |>.setRg .RAT_CFG 0 |>.setRg .ARC_EXPORT 2 0 0 |>.setRg .ARC_LEDGER_CFG 16; { s with arc := { b.arc with ledUsed := used, ledHead := 65538, expPos := [], mem := [(s.ledBase + 64, 2), (s.ledBase + 70, 5)] }, drm := { b.drm with queues := [] }, flt := { b.flt with marks := [], nextMarks := [] } }
def mg (b : State) (m : Bool) : State := let s := md b 3 0; { s with ckr := { s.ckr with pulses := [(2, .msi .a 5, m)] } }
def iw (b : State) : State := let s := ((hr b 12 4 9).setRg .RAT_CFG 0).setRg .PRT_OCT_STATUS 4 0 0; { s with fwd := { s.fwd with inject := [(5, [⟨[1,2,3], .a, 0, 5, 5, 6, 0, true, none⟩])] } }
def bkw (b : State) : State := let s := bk b; { s with regs := (s.setRg .CKR_RUN (s.rg .CKR_RUN &&& 0xFFFFFFF7)).regs }
def bku (b : State) (asks : List (Nat × Nat × Bool)) : State := let s := bk b; { s with drm := { s.drm with units := [⟨chanOf .a 18, [1, 5, 0x5000, 2, 100, 0, 9, 0], .ok, [], 0, asks, [(64, 0, List.replicate 64 7)]⟩] } }

/-- States and operands that meet the hypotheses of `HostLinks`, clause by clause. -/
theorem witness_HostLinks :
    (∃ (s : State) (h : HostId) (why : HostLoss), h ∉ s.hst.lost) ∧
    (∃ (s : State) (h : HostId), h ∈ s.hst.lost) ∧
    (∃ (s : State) (h : HostId), h ∈ s.hst.lost) ∧
    (∃ (s : State) (h : HostId) (sp w : Nat) (fl : Bool), s.linkMay h sp w fl = true) ∧
    (∃ (s : State) (h : HostId) (sp w : Nat) (fl : Bool), (s.endpointOn h = false ∨ w ∉ [1, 2, 4, 8, 16] ∨ (s.endpointLanes h).2 < w ∨ sp = 0 ∨ 6 < sp ∨ (sp = 6 ∧
      fl = false))) ∧
    (∃ (s : State) (h : HostId), s.endpointOn h = true) ∧
    (∃ (s : State) (h : HostId), s.endpointOn h = false) ∧
    (∃ (s : State) (h : HostId) (e : PcieError), e ≠ .correctable) :=
  ⟨⟨(lsb base).setRg .GEN_OWNER_MAP 0x1B1B1B1B 0 0, .a, .linkDown, by decide +kernel⟩,
    ⟨{ lsb base with hst := { base.hst with lost := [.a] } }, .a, by decide +kernel⟩,
    ⟨{ lsb base with hst := { base.hst with lost := [.a] } }, .a, by decide +kernel⟩,
    ⟨{ lsb base with hst := { base.hst with lost := [.a, .b] }, flt := { base.flt with present := [slotOf .HST_LINK_DOWN 0, 2] } }, .a, 5, 8, true, by decide +kernel⟩,
    ⟨(lsb base).setRg .HST_MODE 3, .a, 5, 8, true, by decide +kernel⟩,
    ⟨{ (lsb base).setRg .HST_MODE 0 with hst := { base.hst with msix := [((.a, 3), 0), ((.b, 3), 0)], pba := [(.a, [3]), (.b, [1])] } }, .a, by decide +kernel⟩,
    ⟨(lsb base).setRg .HST_MODE 3, .a, by decide +kernel⟩,
    ⟨base, .b, .poisoned, by decide +kernel⟩⟩

/-- States and operands that meet the hypotheses of `Channels`, clause by clause. -/
theorem witness_Channels :
    (∃ (s : State) (h : HostId) (c : Nat) (v : Word), s.hears h.master = true ∧ c < 64 ∧ (chanHost c).1 = h ∧
      s.on fHST_CH_CFG_EN 0 c = true ∧ softRing (chanHost c).2 = true ∧
      (v.toNat + 2 ^ 32 - s.rd fHST_CH_DEV_IDX_IDX 0 c) % 2 ^ 32 ≤ s.ringSize c ∧
      (v.toNat + 2 ^ 32 - s.rd fHST_CH_HOST_IDX_IDX 0 c) % 2 ^ 32 ≤ s.ringSize c) ∧
    (∃ (s : State) (h : HostId) (c : Nat) (v : Word), s.hears h.master = true ∧ c < 64 ∧ (chanHost c).1 = h ∧
      s.on fHST_CH_CFG_EN 0 c = true ∧ softRing (chanHost c).2 = true ∧
      s.ringSize c < (v.toNat + 2 ^ 32 - s.rd fHST_CH_DEV_IDX_IDX 0 c) % 2 ^ 32 ∧ s.hst.rejects = []) ∧
    (∃ (s : State) (h : HostId) (c : Nat) (v : Word), s.hears h.master = true ∧ c < 64 ∧ (chanHost c).1 = h ∧
      s.on fHST_CH_CFG_EN 0 c = true ∧ (chanHost c).2 = 14 ∧ (v.toNat + 2 ^ 32 - s.rd fHST_CH_HOST_IDX_IDX 0 c) % 2 ^ 32 ≤ s.ringUsed c) ∧
    (∃ (s : State) (h : HostId) (c : Nat) (v : Word), s.hears h.master = true ∧ c < 64 ∧ (chanHost c).1 ≠ h) ∧
    (∃ (s : State) (h : HostId) (c : Nat) (v : Word), s.hears h.master = true ∧ c < 64 ∧ (chanHost c).1 = h ∧
      s.on fHST_CH_CFG_EN 0 c = false) ∧
    (∃ (s : State) (h : HostId) (c : Nat) (v : Word), s.hears h.master = false) ∧
    (∃ (s : State) (c : Nat), c < 64 ∧ s.passes (chanHost c).1.master .HST_CH_CFG 0 c ∧ s.on fHST_CH_CFG_EN 0 c = false ∧
      0 < s.rd fHST_CH_CFG_MOD_COUNT 0 c ∧ (chanHost c).2 ≠ 15 ∧ (chanHost c).2 ≠ 16 ∧ 6 ≤ s.rd fHST_CH_CFG_LOG2_SIZE 0 c ∧
      s.rd fHST_CH_CFG_LOG2_SIZE 0 c ≤ 20) ∧
    (∃ (s : State) (c : Nat), c < 64 ∧ s.passes (chanHost c).1.master .HST_CH_CFG 0 c ∧ s.on fHST_CH_CFG_EN 0 c = true ∧
      0 < s.rd fHST_CH_CFG_MOD_COUNT 0 c ∧ (chanHost c).2 ≠ 15 ∧ (chanHost c).2 ≠ 16 ∧ 6 ≤ s.rd fHST_CH_CFG_LOG2_SIZE 0 c ∧
      s.rd fHST_CH_CFG_LOG2_SIZE 0 c ≤ 20) ∧
    (∃ (s : State) (c : Nat), c < 64 ∧ s.on fHST_CH_CFG_EN 0 c = true ∧ s.on fHST_CH_CFG_INT_EN 0 c = true ∧ (s.chanSt c).since ≠ 0 ∧
      (s.chanSt c).firstAt + ns (s.rd fHST_CH_MOD_MOD_US 0 c * 1000) ≤ s.tim.rc ∧ (chanHost c).1 ∉ s.hst.lost ∧ s.calm (chanHost c).1 c ∧
      s.msixMasked (chanHost c).1 (s.rd fHST_CH_CFG_VECTOR 0 c) = false) ∧
    (∃ (s : State) (c : Nat) (q : Nat × Pulse × Bool), c < 64 ∧ s.on fHST_CH_CFG_EN 0 c = true ∧ s.on fHST_CH_CFG_INT_EN 0 c = true ∧
      (s.chanSt c).since ≠ 0 ∧ (s.chanSt c).firstAt + ns (s.rd fHST_CH_MOD_MOD_US 0 c * 1000) ≤ s.tim.rc ∧ q.1 = 2 + (chanHost c).1.num ∧
      q.2.1 = .msi (chanHost c).1 (s.rd fHST_CH_CFG_VECTOR 0 c) ∧ s.ckr.pulses = [q]) ∧
    (∃ (s : State) (c : Nat), c < 64 ∧ s.on fHST_CH_CFG_EN 0 c = true ∧ s.on fHST_CH_CFG_INT_EN 0 c = true ∧ (s.chanSt c).since ≠ 0 ∧
      (s.chanSt c).firstAt + ns (s.rd fHST_CH_MOD_MOD_US 0 c * 1000) ≤ s.tim.rc ∧ s.calm (chanHost c).1 c ∧
      s.msixMasked (chanHost c).1 (s.rd fHST_CH_CFG_VECTOR 0 c) = true) ∧
    (∃ (s : State) (c : Nat), c < 64 ∧
      (s.on fHST_CH_CFG_INT_EN 0 c = false ∨ (s.chanSt c).since = 0 ∨ s.tim.rc < (s.chanSt c).firstAt + ns (s.rd fHST_CH_MOD_MOD_US 0 c * 1000))) ∧
    (∃ (s : State) (h : HostId) (k : Nat), k < 4 ∧ s.passes h.master .HST_POOL_CFG 0 (4 * h.num + k) ∧
      s.on fHST_POOL_CFG_EN 0 (4 * h.num + k) = true) :=
  ⟨⟨chn base (chanOf .a 0) 0x86000001 0xFFFFFFF0 0xFFFFFFF5, .a, chanOf .a 0, 48, by decide +kernel⟩,
    ⟨let s := chn base (chanOf .a 0) 0x86000001 0xFFFFFFF0 0xFFFFFFF5; { s with hst := { s.hst with rejects := [] } }, .a, chanOf .a 0, 49, by decide +kernel⟩,
    ⟨chn base (chanOf .a 14) 0x86000001 7 3, .a, chanOf .a 14, 7, by decide +kernel⟩,
    ⟨ready base, .b, chanOf .a 14, 7, by decide +kernel⟩,
    ⟨chn base (chanOf .a 14) 0x06000001 7 3, .a, chanOf .a 14, 9, by decide +kernel⟩,
    ⟨(chn base (chanOf .a 14) 0x86000001 7 3).setRg .HST_MODE 3, .a, chanOf .a 14, 7, by decide +kernel⟩,
    ⟨chn base (chanOf .a 14) 0x06000001 7 3, chanOf .a 14, by decide +kernel⟩,
    ⟨{ chn base (chanOf .a 14) 0x86000001 7 3 with hst := { base.hst with events := [(.a, [[1]]), (.b, [[1]])], chans := [(chanOf .a 14, ⟨1,2,true⟩), (3, ⟨1,2,true⟩)] } }, chanOf .a 14, by decide +kernel⟩,
    ⟨md base 3 0, chanOf .a 14, by decide +kernel⟩,
    ⟨mg base false, chanOf .a 14, (2, .msi .a 5, false), by decide +kernel⟩,
    ⟨md base 3 1, chanOf .a 14, by decide +kernel⟩,
    ⟨md base 0 1, chanOf .a 14, by decide +kernel⟩,
    ⟨{ (ready base).setRg .HST_POOL_CFG 0x80080010 0 1 with hst := { base.hst with posted := [(.a, 1, [65537]), (.a, 0, [3])], bufState := [((.a, 65537), true), ((.a, 3), true)] } }, .a, 1, by decide +kernel⟩⟩

/-- States and operands that meet the hypotheses of `HostRings`, clause by clause. -/
theorem witness_HostRings :
    (∃ (s : State) (h : HostId) (pr : Bool) (ws data : List Word) (r : HostRead) (c : Cmd), s.turn (chanOf h (b2n pr)) ∧
      c = ⟨.ring h pr, ws.take 16, if r = .ok then data else [], r != .ok, s.clerk.seq, false, 0, 0⟩) ∧
    (∃ (s : State) (h : HostId) (pr : Bool) (ws data : List Word) (r : HostRead), ¬s.turn (chanOf h (b2n pr))) ∧
    (∃ (s : State) (h : HostId) (x : Completion), s.turn (chanOf h 2) ∧ AMap.getD s.hst.compl (.ring h false) [] = [x] ∧
      s.calm h (chanOf h 2)) ∧
    (∃ (s : State) (h : HostId) (pr : Bool), ¬s.turn (chanOf h (if pr then 3 else 2))) ∧
    (∃ (s : State) (h : HostId) (x : List Word), s.turn (chanOf h 14) ∧ s.eventsOf h = [x] ∧ x.length = 8 ∧ s.calm h (chanOf h 14)) ∧
    (∃ (s : State) (h : HostId), s.turn (chanOf h 14) ∧ 17 ≤ (s.eventsOf h).length ∧ 16 ≤ s.ringRoom (chanOf h 14)) ∧
    (∃ (s : State) (h : HostId), ¬s.turn (chanOf h 14)) ∧
    (∃ (s : State) (h : HostId) (id : Nat), s.turn (chanOf h 20) ∧ id < 2 ^ 18 ∧ s.on fHST_POOL_CFG_EN 0 (4 * h.num + id / 65536) = true ∧
      id % 65536 ≤ s.rd fHST_POOL_CFG_COUNT_M1 0 (4 * h.num + id / 65536) ∧ s.bufPosted h id = false) ∧
    (∃ (s : State) (h : HostId) (id : Nat), s.turn (chanOf h 20) ∧ id < 2 ^ 18 ∧ s.on fHST_POOL_CFG_EN 0 (4 * h.num + id / 65536) = true ∧
      id % 65536 ≤ s.rd fHST_POOL_CFG_COUNT_M1 0 (4 * h.num + id / 65536) ∧ s.bufPosted h id = true) ∧
    (∃ (s : State) (h : HostId) (es : List Nat), ¬s.turn (chanOf h 20)) ∧
    (∃ (s : State) (h : HostId) (d : List Word) (data : List Byte), s.turn (chanOf h 18) ∧ s.unitOf (chanOf h 18) = none ∧
      s.dramClear = true ∧ s.calm h (chanOf h 18) ∧ s.bulkStatus d = 0 ∧ dF d 0 0 0 = 1 ∧ s.flt.marks = [] ∧ s.drm.queues = []) ∧
    (∃ (s : State) (h : HostId) (d : List Word) (data : List Byte), s.turn (chanOf h 18) ∧ s.unitOf (chanOf h 18) = none ∧
      s.dramClear = true ∧ s.calm h (chanOf h 18) ∧ s.bulkStatus d = 0 ∧ dF d 0 0 0 = 0 ∧ data.length = dF d 1 16 0 ∧ s.flt.marks = [] ∧
      s.flt.nextMarks = [] ∧ s.drm.queues = []) ∧
    (∃ (s : State) (h : HostId) (d : List Word) (data : List Byte), s.turn (chanOf h 18) ∧ s.unitOf (chanOf h 18) = none ∧
      s.calm h (chanOf h 18) ∧ dF d 1 16 0 = 0) ∧
    (∃ (s : State) (h : HostId) (d : List Word) (r : HostRead) (data : List Byte), s.turn (chanOf h 18) ∧ s.unitOf (chanOf h 18) = none ∧
      s.dramClear = false ∧ s.bulkStatus d = 0 ∧ dF d 0 0 0 = 1 ∧ s.dclkOn = false) ∧
    (∃ (s : State) (h : HostId) (u : ArcUnit) (d : List Word) (r : HostRead) (data : List Byte) (e : List (Nat × List Nat)), s.turn (chanOf h 18) ∧
      s.unitOf (chanOf h 18) = some u ∧ u.asks ≠ []) ∧
    (∃ (s : State) (h : HostId) (u : ArcUnit) (d : List Word) (r : HostRead) (data : List Byte) (e : List (Nat × List Nat)), s.turn (chanOf h 18) ∧
      s.unitOf (chanOf h 18) = some u ∧ u.asks = [] ∧ dF u.d 0 0 0 = 1 ∧ (answersAt u.got (bulkAddr u.d) (dF u.d 1 16 0)).2 = none ∧
      s.calm h (chanOf h 18)) ∧
    (∃ (s : State) (h : HostId) (d : List Word) (r : HostRead) (data : List Byte) (e : List (Nat × List Nat)), ¬s.turn (chanOf h 18)) :=
  ⟨⟨hr base 0 7 9, .a, false, List.replicate 17 5, [3], .ok, ⟨.ring .a false, (List.replicate 17 5).take 16, [3], false, base.clerk.seq, false, 0, 0⟩, by decide +kernel⟩,
    ⟨hr base 1 9 9, .a, true, List.replicate 16 5, [3], .timeout, by decide +kernel⟩,
    ⟨hr base 2 0xFFFFFFFF 0xFFFFFFF0, .a, ⟨3, 4, 5, 6, 7⟩, by decide +kernel⟩,
    ⟨(hr base 2 0 0).setRg .HST_CH_CFG 0 0 (chanOf .a 2), .a, false, by decide +kernel⟩,
    ⟨hr base 14 77 70, .a, [1,2,3,4,5,6,7,8], by decide +kernel⟩,
    ⟨let s := hr base 14 77 70; { s with hst := { s.hst with events := [(.a, List.replicate 17 [1,2,3,4,5,6,7,8])] } }, .a, by decide +kernel⟩,
    ⟨(hr base 14 0 0).setRg .HST_CH_CFG 0 0 (chanOf .a 14), .a, by decide +kernel⟩,
    ⟨pp base [65537] [((.a, 65537), true)], .a, 65552, by decide +kernel⟩,
    ⟨pp base [65537] [((.a, 65537), true)], .a, 65537, by decide +kernel⟩,
    ⟨hr base 20 3 3, .a, [4], by decide +kernel⟩,
    ⟨bk base, .a, [1, 5, 0x5000, 2, 100, 0, 9, 0], [], by decide +kernel⟩,
    ⟨bk base, .a, [0, 5, 0x5000, 2, 100, 0, 9, 0], [9, 0, 1, 2, 3], by decide +kernel⟩,
    ⟨bk base, .a, [0, 0, 0x5000, 2, 100, 0, 9, 0], [9, 0, 1, 2, 3], by decide +kernel⟩,
    ⟨bkw base, .a, [1, 5, 0x5000, 2, 100, 0, 9, 0], .ok, [], by decide +kernel⟩,
    ⟨bku base [(4, 128, false)], .a, ⟨chanOf .a 18, [1, 5, 0x5000, 2, 100, 0, 9, 0], .ok, [], 0, [(4, 128, false)], [(64, 0, List.replicate 64 7)]⟩, [4], .ok, [], [], by decide +kernel⟩,
    ⟨bku base [], .a, ⟨chanOf .a 18, [1, 5, 0x5000, 2, 100, 0, 9, 0], .ok, [], 0, [], [(64, 0, List.replicate 64 7)]⟩, [4], .ok, [], [], by decide +kernel⟩,
    ⟨hr base 18 3 3, .a, [4], .ok, [], [], by decide +kernel⟩⟩

/-- States and operands that meet the hypotheses of `HostFrames`, clause by clause. -/
theorem witness_HostFrames :
    (∃ (s : State) (h : HostId) (id k buf : Nat) (rest : List Nat) (x : Slip) (st : Stall), s.queue (hostQueue (264 + h.num) 7) = [id] ∧
      s.slip? id = some x ∧ x.id = id ∧ x.cls = 7 ∧ x.outPort = 264 + h.num ∧ s.frameOf x = some st ∧ st.done = true ∧ st.bad = false ∧
      s.flt.marks = [] ∧ s.poolsOn h = [k] ∧ s.postedOf h k = buf :: rest ∧ st.body.length ≤ s.poolSize h k ∧ s.turn (chanOf h 11) ∧
      0 < s.ringRoom (chanOf h 11) ∧ s.calm h (chanOf h 11)) ∧
    (∃ (s : State) (h : HostId), (∀ c, c < 8 → s.queue (hostQueue (264 + h.num) c) = [])) ∧
    (∃ (s : State) (h : HostId) (d : List Word) (frame : List Byte), s.turn (chanOf h 12) ∧ s.injectBad d = false ∧ dF d 0 14 14 = 0 ∧
      dF d 0 15 15 = 0 ∧ s.injectWaits h 0 d = false) ∧
    (∃ (s : State) (h : HostId) (d : List Word) (r : HostRead) (frame : List Byte), s.turn (chanOf h 12) ∧ s.injectBad d = true) ∧
    (∃ (s : State) (h : HostId) (d : List Word) (frame : List Byte), s.turn (chanOf h 12) ∧ s.injectBad d = false ∧ dF d 0 14 14 = 0 ∧
      dF d 0 15 15 = 0 ∧ s.injectWaits h 0 d = false ∧ bitOf (s.rd fARC_CAP_DROP_MASK_MASK 0 4) 29 = false) ∧
    (∃ (s : State) (h : HostId) (d : List Word) (r : HostRead) (frame : List Byte), ¬s.turn (chanOf h 12)) ∧
    (∃ (s : State) (h : HostId) (d : List Word) (r : HostRead) (frame : List Byte), s.turn (chanOf h 12) ∧ s.injectBad d = false ∧
      dF d 0 14 14 = 1 ∧ s.injectWaits h 0 d = true) ∧
    (∃ (s : State) (h : HostId), s.turn (chanOf h 15) ∧ s.unitOf (chanOf h 15) = none ∧ s.dramClear = true ∧ s.calm h (chanOf h 15) ∧
      s.rd fARC_EXPORT_STREAM 0 (2 * h.num) = 2 ∧ s.arc.ledUsed = 1 ∧ AMap.getD s.arc.expPos (2 * h.num) (0, false) = (0, false) ∧
      s.flt.marks = [] ∧ s.drm.queues = [] ∧ 12 ≤ s.rd fHST_CH_CFG_LOG2_SIZE 0 (chanOf h 15) ∧ 16 ≤ s.rd fARC_LEDGER_CFG_LOG2_RECS) ∧
    (∃ (s : State) (h : HostId) (e : List (Nat × List Nat)), s.drm.units = [] ∧
      (s.chOn h 15 = false ∨ s.rd fARC_EXPORT_STREAM 0 (2 * h.num) = 0 ∨ (s.rd fARC_EXPORT_STREAM 0 (2 * h.num) = 2 ∧
      s.arc.ledUsed = 0) ∨ (¬s.turn (chanOf h 15) ∧ s.yielding = []))) ∧
    (∃ (s : State) (h : HostId) (e : List (Nat × List Nat)), s.drm.units = [] ∧ s.chOn h 15 = true ∧ s.exportMay h 0 = true ∧
      s.yielding ≠ []) :=
  ⟨⟨pd base, .a, 9, 1, 65537, [65539], slp7, stp, by decide +kernel⟩,
    ⟨base, .a, by decide +kernel⟩,
    ⟨(hr base 12 4 9).setRg .RAT_CFG 0, .a, [60 + 3 * 65536, 0, 0, 0, 0, 0, 0, 0], List.replicate 70 9, by decide +kernel⟩,
    ⟨(hr base 12 4 9), .a, [59 + 3 * 65536, 0, 0, 0, 0, 0, 0, 0], .ok, List.replicate 70 9, by decide +kernel⟩,
    ⟨(hr base 12 4 9).setRg .RAT_CFG 0, .a, [60 + 3 * 65536, 0, 0, 0, 0, 0, 0, 0], [], by decide +kernel⟩,
    ⟨(hr base 12 4 4).setRg .RAT_CFG 0, .a, [60 + 3 * 65536, 0, 0, 0, 0, 0, 0, 0], .ok, [], by decide +kernel⟩,
    ⟨iw base, .a, [60 + 0x4000, 0, 0, 0, 0, 0, 0, 0], .ok, List.replicate 70 9, by decide +kernel⟩,
    ⟨ex base 1, .a, by decide +kernel⟩,
    ⟨ex base 0, .a, [], by decide +kernel⟩,
    ⟨let s := (ex base 1).setRg .RAT_CFG 0xFFFFFFFF; { s with rat := { s.rat with remain := [(3, -5)], failed := false, shed := 0 } }, .a, [], by decide +kernel⟩⟩

end WG

namespace WH

def ck (b : State) (w : Work) : State := { ready b with clerk := { b.clerk with work := w, chunked := [] }, lrn := { b.lrn with mirrors := [], repairs := [] }, flt := { b.flt with marks := [(1,0,0,3,true)] } }
def cid (b : State) (halt : Bool) (rdy : Bool := true) : State := let s := ck b .idle; let s := ((s.wr fCLE_STATUS_READY (b2n rdy)).wr fCLE_STATUS_HALTED 0).wr fCLE_CTRL_HALT (b2n halt); s
def cf (s : State) (f : List Cmd) (ch : List Cmd := []) : State := { s with clerk := { s.clerk with fetched := f, chunked := ch } }
def rc0 (h : HostId) (pr : Bool) (ws : List Word) (seq : Nat := 5) : Cmd := ⟨.ring h pr, ws ++ List.replicate (16 - ws.length) 0, [], false, seq, false, 0, 0⟩
def tc (m : Master) (ws : List Word) : Cmd := ⟨.taw m, ws ++ List.replicate (16 - ws.length) 0, [], false, 0, false, 0, 0⟩
def wk (b : State) (c : Cmd) : State := ck b (.cmd c)
def rm (s : State) : State := ((s.setRg .HST_CH_CFG 0xF1 0 (chanOf .a 2)).setRg .HST_CH_CFG 0xF1 0 (chanOf .a 3)).setRg .HST_CH_CFG 0xF1 0 (chanOf .a 0)
def pr9 (s : State) : State := { s with clerk := { s.clerk with priRun := 8 } }
def up (s : State) (a : Nat) : State := { s with clerk := { s.clerk with upc := a } }
def full (s : State) : State := { s with lrn := { s.lrn with mirrors := [(.a, ⟨7, List.replicate 4096 (1,[]), true, 3⟩)] } }
def hld (s : State) (src : CmdSrc) : State := { s with clerk := { s.clerk with hold := [(src, [.waiting 3, .done 2 ⟨1,2,3,4,5⟩])] } }
def so (s : State) (t : Nat) : State := { s with clerk := { s.clerk with stepStart := some t } }
def tw (b : State) (m : Master) (w : Nat) : State := (((ready b).setRg .CLE_TAW_CTRL (BitVec.ofNat 32 w) 0 m.num).setRg .CLE_TAW_CMD 0x10305 0 m.num 3).setRg .CLE_TAW_DATA 0xABC 0 m.num 1
def pm (s : State) : State := s.setRg .CLE_PATCH_MAP (BitVec.ofNat 32 (2^31 + 0x3805 * 2^16 + 0x77)) 0 5
def tcx (op tb p i : Nat) (data : List Word) (w3 : Nat := data.length) (w0 : Nat := 0) : Cmd := { tc .a [BitVec.ofNat 32 (op + tb * 256 + p * 65536 + w0), 9, BitVec.ofNat 32 i, BitVec.ofNat 32 w3] with data := data }
def rcx (op tb p i : Nat) (data : List Word) (w3 : Nat := data.length) (w0 : Nat := 0) : Cmd := { rc0 .a true [BitVec.ofNat 32 (op + tb * 256 + p * 65536 + w0), 9, BitVec.ofNat 32 i, BitVec.ofNat 32 w3] with data := data }
def wkr (b : State) (c : Cmd) : State := rm (wk b c)
def tcw (op a d : Nat) : Cmd := tc .a [BitVec.ofNat 32 op, 9, BitVec.ofNat 32 a, BitVec.ofNat 32 d]
def rcw (op a d : Nat) : Cmd := rc0 .a true [BitVec.ofNat 32 op, 9, BitVec.ofNat 32 a, BitVec.ofNat 32 d]
def stop (s : State) : State := s.setRg .CKR_RUN 0
def pf (b : State) (c : Cmd) (sl : List Nat) : State := { (wk b c).setRg .KST_PFX_UNITS 40 with tables := sl.map fun k => ((0x0E,15,k), if k = 1 then [0x10000, 0x0A000000, 0,0,0,0,0,0] else [0x10000, 0x0B000000, 0,0,0,0,0,0]) }
def stl5 : Stall := ⟨0, 5, [1,2,3], 80, true, true, false, 0x84, 1, 0, true, 0, false, false, 1, true, false, 2, 1, 50, 40, none, 0, 0, 80, 1, 3, 0, some 1, 2, 0, false⟩
def kve : List Word := [5, 6, 0x20007, 0, 0]
def hs (b : State) (op : Nat) (r : Nat) : State := let s := (wk b (tcx op 0x0C 3 0 [0x17, 0x10002, 9] 3 (r * 2^21))).setRg .BRS_HASH 0 3; { s with tables := [((0x0C, 3, (s.bridgePlace 3 1 0x200000017).getD 0), [0x17, 0x40010002, 0x10])] }
def hi (b : State) : Nat := (((wk b (tcx 0 0x0C 3 0 [])).setRg .BRS_HASH 0 3).bridgePlace 3 1 0x200000017).getD 0
def rowW (k v : Nat) : List Word := (List.replicate 20 (BitVec.ofNat 32 k)) ++ [BitVec.ofNat 32 v, 0, 0]
def catS (b : State) (c : Cmd) (rows : List Nat) : State := { ((wk b c).setRg .CAT_CFG 0 2) with tables := rows.map fun k => ((0x1A,2,k), rowW k 1) }
def tcv (op : Nat) (ws : List Nat) : Cmd := tc .a ([BitVec.ofNat 32 op, 9] ++ ws.map fun w => BitVec.ofNat 32 w)
def rcv (op : Nat) (ws : List Nat) : Cmd := rc0 .a true ([BitVec.ofNat 32 op, 9] ++ ws.map fun w => BitVec.ofNat 32 w)
def ed (s : State) (st : Nat) : State := { (s.wr (fEdState (!s.edNow)) st).wr fTIM_STATUS_STATE 2 with tim := { s.tim with trigs := [] }, ed := { s.ed with imm := none } }
def l1 (b : State) : State := { b with tim := { b.tim with ct := 2^70 + 12345 } }
def tws : List Nat := [((2^70 + 12345 + 3000 * 2^48) / 2^48 + 1) % 1000000000, ((2^70 + 12345 + 3000 * 2^48) / 2^48 + 1) / 1000000000, 0]
def tat : Nat := ((2^70 + 12345 + 3000 * 2^48) / 2^48 + 1) * 2^48
def br (s : State) (p : Nat) (e : List Word) (hit : Bool) : State := { (s.setRg .BRS_LEARN_CFG 1 p) with tables := [((0x0C, p, 532479), e)], lrn := { s.lrn with hits := if hit then [(p, 532479)] else [] } }
def fg (b : State) (i : Nat) : State := let s := br (ck b (.forget 37)) 1 [1,0x40020000,37] true; { s with clerk := { s.clerk with forgets := [(5,1),(37,i)] } }
def nm (s : State) (m : List (Nat × Nat × Nat × Nat × Bool)) : State := { s with flt := { s.flt with marks := m } }
def sn (s : State) : State := (((ed (l1 s) 1).wr fARC_CFG_SNAP_EN 1).wr fDRM_STATUS_READY 1)
def cn (s : State) : State := { nm s [] with cnts := [((10, 5, 3), 2^40 + 7)], ports := { s.ports with pause := [] } }
def tws2 : List Nat := [((2^70 + 12345 + 1000000 * 2^48) / 2^48 + 1) % 1000000000, ((2^70 + 12345 + 1000000 * 2^48) / 2^48 + 1) / 1000000000, 0]
def tat2 : Nat := ((2^70 + 12345 + 1000000 * 2^48) / 2^48 + 1) * 2^48
def tk (s : State) : State := { ed ((l1 s).wr fFOL_TACK_AVAIL_LIVE 0xFF) 1 with fol := { s.fol with store := [(3, ⟨⟨.RAT_CFG, 0,0,0,0⟩, 3, 0, 0xFFFFFFFF, 5⟩)] } }
def img : List Word := [0x434C5054, BitVec.ofNat 32 (0x70000 + Config.romId.toNat), 0x10001, 0x3900] ++ List.replicate 12 0 ++ [0x39000005] ++ [1,2,3,4,5,6] ++ List.replicate 24 9
def sec' (s : State) (x : Bool) : State := { s with fol := { s.fol with fuses := { s.fol.fuses with secure := x } } }
def pw (b : State) (w : Work) (v : Bool) (d : List Word) : State := let s := rm (ck b w); { s with clerk := { s.clerk with patches := [⟨rcv 0x3C [], d, v⟩], hold := [(.ring .a true, [.waiting 5])] } }
def sec (s : State) (x : Bool) : State := { s with fol := { s.fol with fuses := { s.fol.fuses with secure := x } } }
def me (s : State) : State := { ((s.wr fCLE_MIRROR_CFG_EN_A 1).wr fCLE_MIRROR_CFG_EN_B 0) with lrn := { s.lrn with mirrors := [(.a, ⟨3, [], true, 5⟩)] }, hst := { s.hst with lost := [] } }
def po (s : State) (adm : Nat) : State := { ((s.setPrt fPRT_CFG_ADMIN 1 adm).wr fPRT_OCT_STATUS_ACTIVE_MODE 4).setPrt fPRT_STATE_STATE 1 0 with ports := { s.ports with safe := [] } }
def ciw : List Word := (rowW 3 1)
def fe (b : State) : Cmd := rc0 .a false [1, 7]
def sb2 (m : Master) : Cmd := tc m [0x1010, 9, 4, 1]
def rav (h : Bool) (v : Nat) : Cmd := if h then rc0 .b false [2, 9, BitVec.ofNat 32 (Reg.addr .RAT_AVS), BitVec.ofNat 32 v] else tc .a [2, 9, BitVec.ofNat 32 (Reg.addr .RAT_AVS), BitVec.ofNat 32 v]
def csw (s : State) (l : List (Nat × List Word)) : State := { s with clerk := { s.clerk with storeRam := l } }
def rok (s : State) : State := { s with clerk := { s.clerk with regOk := true } }
def mb (b : State) : State := let s := wk b (tcx 0x14 0x0D 0 0 kve); { s with flt := { s.flt with marks := [(9, 15, 0, 4 * s.keyBucket (keyEntry (entClean 0x0D kve)).1 (keyEntry (entClean 0x0D kve)).2 + 2, true)] } }
def ed' (s : State) : State := { (s.wr (fEdState false) 2).wr (fEdState true) 2 with tim := { s.tim with trigs := [] } }
def cfr (b : State) : State := { ((ed' (catS b (tcx 0x18 0x1A 2 7 (rowW 3 1)) [8]))) with tables := [((0x1A,2,7), rowW 9 6)] }

/-- The image is well-formed whatever the ROM's identifier. -/
theorem patchOk_img : patchOk img = true := by
  have h := Config.romId.isLt
  have e : bitsOf (BitVec.ofNat 32 (0x70000 + Config.romId.toNat)).toNat 15 0 = Config.romId.toNat := by
    simp only [bitsOf, BitVec.toNat_ofNat]; omega
  have f : bitsOf (BitVec.ofNat 32 (0x70000 + Config.romId.toNat)).toNat 31 16 = 7 := by
    simp only [bitsOf, BitVec.toNat_ofNat]; omega
  simp only [patchOk, img, List.cons_append, List.getD_cons_zero, List.getD_cons_succ, e, f, beq_self_eq_true]
  decide +kernel

/-- States and operands that meet the hypotheses of `ClerkSteps`, clause by clause. -/
theorem witness_ClerkSteps :
    (∃ (s : State) (fs : List Bool), (s.clerk.work ≠ .idle ∨ s.clerk.stopped = true ∨ s.on fCLE_STATUS_READY = false ∨ s.booted = false)) ∧
    (∃ (s : State) (fs : List Bool), s.clerk.work = .idle ∧ s.clerk.stopped = false ∧ s.on fCLE_STATUS_READY = true ∧ s.booted = true ∧
      s.haltReq = true ∧ s.on fCLE_STATUS_HALTED = false ∧ s.clerk.stepStart = none ∧ s.clerk.chunked = [] ∧
      (∀ m ∈ s.flt.marks, m.1 ≠ 0x26 ∧ m.1 ≠ 0x27)) ∧
    (∃ (s : State) (c : Cmd), s.clerk.work = .idle ∧ s.clerk.stopped = false ∧ s.on fCLE_STATUS_READY = true ∧ s.booted = true ∧
      s.haltReq = true ∧ s.on fCLE_STATUS_HALTED = false ∧ s.clerk.stepStart = none ∧ s.clerk.chunked = [c]) ∧
    (∃ (s : State) (fs : List Bool), s.clerk.work = .idle ∧ s.clerk.stopped = false ∧ s.on fCLE_STATUS_READY = true ∧ s.booted = true ∧
      s.haltReq = false ∧ s.clerk.stepStart = none ∧ s.lrn.repairs = [] ∧ s.clerk.patches = [] ∧ s.clerk.fetched = [] ∧
      s.clerk.chunked = [] ∧ s.clerk.sweeps = [] ∧ s.clerk.resyncs = [] ∧ s.clerk.forgets = [] ∧ (∀ m ∈ s.flt.marks, m.1 ≠ 0x26 ∧
      m.1 ≠ 0x27)) ∧
    (∃ (s : State) (h : HostId) (pr : Bool) (c : Cmd), s.clerk.work = .idle ∧ s.clerk.stopped = false ∧ s.on fCLE_STATUS_READY = true ∧
      s.booted = true ∧ s.haltReq = false ∧ s.clerk.stepStart = none ∧ s.lrn.repairs = [] ∧ s.clerk.patches = [] ∧ s.clerk.chunked = [] ∧
      s.clerk.sweeps = [] ∧ s.clerk.resyncs = [] ∧ s.clerk.forgets = [] ∧ s.clerk.fetched = [c] ∧ c.src = .ring h pr ∧ c.begun = false ∧
      s.mayBegin c = true ∧ opKnown c.opcode = true ∧ h ∉ s.hst.lost ∧ AMap.getD s.clerk.stops c.src 0 ≤ c.seq) ∧
    (∃ (s : State) (h : HostId) (pr : Bool) (c : Cmd), s.clerk.work = .idle ∧ s.clerk.stopped = false ∧ s.on fCLE_STATUS_READY = true ∧
      s.booted = true ∧ s.haltReq = false ∧ s.clerk.stepStart = none ∧ s.lrn.repairs = [] ∧ s.clerk.patches = [] ∧ s.clerk.chunked = [] ∧
      s.clerk.sweeps = [] ∧ s.clerk.resyncs = [] ∧ s.clerk.forgets = [] ∧ s.clerk.fetched = [c] ∧ c.src = .ring h pr ∧ c.begun = false ∧
      s.mayBegin c = true ∧ opKnown c.opcode = true ∧ c.seq < AMap.getD s.clerk.stops c.src 0) ∧
    (∃ (s : State) (m : Master) (c : Cmd), s.clerk.work = .idle ∧ s.clerk.stopped = false ∧ s.on fCLE_STATUS_READY = true ∧
      s.booted = true ∧ s.haltReq = false ∧ s.clerk.stepStart = none ∧ s.lrn.repairs = [] ∧ s.clerk.patches = [] ∧ s.clerk.chunked = [] ∧
      s.clerk.sweeps = [] ∧ s.clerk.resyncs = [] ∧ s.clerk.forgets = [] ∧ s.clerk.fetched = [c] ∧ c.src = .taw m ∧ c.begun = false ∧
      s.mayBegin c = true ∧ opKnown c.opcode = false) ∧
    (∃ (s : State) (h : HostId) (c d : Cmd), s.clerk.work = .idle ∧ s.clerk.stopped = false ∧ s.on fCLE_STATUS_READY = true ∧
      s.booted = true ∧ s.haltReq = false ∧ s.clerk.stepStart = none ∧ s.lrn.repairs = [] ∧ s.clerk.patches = [] ∧ s.clerk.chunked = [] ∧
      s.clerk.sweeps = [] ∧ s.clerk.resyncs = [] ∧ s.clerk.forgets = [] ∧ s.clerk.fetched = [d, c] ∧ c.src = .ring h true ∧
      d.src = .ring h false ∧ c.begun = false ∧ d.begun = false ∧ s.mayBegin c = true ∧ s.mayBegin d = true ∧ opKnown c.opcode = true ∧
      opKnown d.opcode = true) ∧
    (∃ (s : State) (w : Work) (fs : List Bool), s.clerk.work = .idle ∧ s.clerk.stopped = false ∧ s.on fCLE_STATUS_READY = true ∧
      s.booted = true ∧ s.haltReq = false ∧ s.clerk.stepStart = none ∧ s.repairReady = some w ∧ (∀ m ∈ s.flt.marks, m.1 ≠ 0x26 ∧
      m.1 ≠ 0x27)) ∧
    (∃ (s : State) (c : Cmd), s.clerk.work = .idle ∧ s.clerk.stopped = false ∧ s.on fCLE_STATUS_READY = true ∧ s.booted = true ∧
      s.haltReq = false ∧ s.clerk.stepStart = none ∧ s.lrn.repairs = [] ∧ s.clerk.patches = [] ∧ s.clerk.chunked = [] ∧
      s.clerk.sweeps = [] ∧ s.clerk.resyncs = [] ∧ s.clerk.forgets = [] ∧ s.clerk.fetched = [c] ∧ c.opcode = 0x01 ∧ c.begun = false ∧
      (s.holdOf c.src ≠ [] ∨ (s.drm.waiting.any fun r => r.write) = true)) ∧
    (∃ (s : State) (c d : Cmd), s.clerk.work = .idle ∧ s.clerk.stopped = false ∧ s.on fCLE_STATUS_READY = true ∧ s.booted = true ∧
      s.haltReq = false ∧ s.clerk.stepStart = none ∧ s.lrn.repairs = [] ∧ s.clerk.patches = [] ∧ s.clerk.chunked = [] ∧
      s.clerk.fetched = [d, c] ∧ c.src = .taw .a ∧ d.src = .taw .b ∧ c.begun = false ∧ c.opcode = 0x10 ∧ d.opcode = 0x10 ∧ c.table = 0x10 ∧
      d.table = 0x10 ∧ c.index = d.index ∧ s.owner 12 = 0 ∧ s.clerk.sweeps = [] ∧ s.clerk.resyncs = [] ∧ s.clerk.forgets = []) ∧
    (∃ (s : State) (c d : Cmd) (h : HostId), s.clerk.work = .idle ∧ s.clerk.stopped = false ∧ s.on fCLE_STATUS_READY = true ∧
      s.booted = true ∧ s.haltReq = false ∧ s.clerk.stepStart = none ∧ s.lrn.repairs = [] ∧ s.clerk.patches = [] ∧ s.clerk.chunked = [] ∧
      s.clerk.fetched = [d, c] ∧ c.src = .taw .a ∧ d.src = .ring h false ∧ h = .b ∧ c.begun = false ∧ c.opcode = 0x02 ∧ d.opcode = 0x02 ∧
      c.w 2 = Reg.addr .RAT_AVS ∧ d.w 2 = Reg.addr .RAT_AVS ∧ s.owner 8 = 0 ∧ s.complRoom d.src = false ∧ s.clerk.sweeps = [] ∧
      s.clerk.resyncs = [] ∧ s.clerk.forgets = []) ∧
    (∃ (s : State) (b : Bool) (f : CsFields), s.clerk.work = .idle ∧ s.clerk.stopped = false ∧ s.on fCLE_STATUS_READY = true ∧
      s.booted = true ∧ (∀ m ∈ s.flt.marks, m.1 ≠ 0x26 ∧ m.1 ≠ 0x27) ∧ f = csFields (s.csWord (s.fetchAddr s.clerk.upc))) ∧
    (∃ (s : State) (b : Bool) (fs : List Bool), s.clerk.work = .idle ∧ s.clerk.stopped = false ∧ s.on fCLE_STATUS_READY = true ∧
      s.booted = true ∧ (∀ m ∈ s.flt.marks, m.1 ≠ 0x26 ∧ m.1 ≠ 0x27) ∧ (csFields (s.csWord (s.fetchAddr s.clerk.upc))).stepEnd = true) ∧
    (∃ (s : State) (b : Bool), s.clerk.work = .idle ∧ s.clerk.stopped = false ∧ s.on fCLE_STATUS_READY = true ∧ s.booted = true ∧
      0x2000 ≤ s.fetchAddr s.clerk.upc ∧ s.marked 0x26 15 0 (s.fetchAddr s.clerk.upc) = some false) ∧
    (∃ (s : State) (b : Bool) (a : Nat), s.clerk.work = .idle ∧ s.clerk.stopped = false ∧ s.on fCLE_STATUS_READY = true ∧ s.booted = true ∧
      s.clerk.upc = a ∧ a < 0x2000 ∧ s.fetchAddr a = a ∧ s.bad 0x27 15 0 a = true ∧ s.bad 0x26 15 0 (a + 0x2000) = false) ∧
    (∃ (s : State) (m : Master) (c : Cmd) (b : Bool) (fs : List Bool), s.clerk.work = .idle ∧ s.clerk.stopped = false ∧
      s.on fCLE_STATUS_READY = true ∧ s.booted = true ∧ s.haltReq = false ∧ s.clerk.stepStart = none ∧ s.lrn.repairs = [] ∧
      s.clerk.patches = [] ∧ s.clerk.chunked = [] ∧ s.clerk.sweeps = [] ∧ s.clerk.resyncs = [] ∧ s.clerk.forgets = [] ∧
      s.clerk.fetched = [c] ∧ c.src = .taw m ∧ c.begun = false ∧ s.mayBegin c = true ∧ opKnown c.opcode = true ∧
      0x2000 ≤ s.fetchAddr s.clerk.upc ∧ s.marked 0x26 15 0 (s.fetchAddr s.clerk.upc) = some true) ∧
    (∃ (s : State) (i : Instr) (op : Nat), (i, op) ∈ cmdRows ∧ (∀ c, s.clerk.work = .cmd c → c.opcode ≠ op) ∧
      (∀ port, s.clerk.work ≠ .forget port)) ∧
    (∃ (s : State) (i : Instr) (op : Nat) (c : Cmd), (i, op) ∈ cmdRows ∧ op ∈ holdOps ∧ s.clerk.work = .cmd c ∧ c.opcode = op ∧
      s.mirShort (s.cmdNeed c) = true) ∧
    (∃ (s : State) (i : Instr) (op : Nat) (c : Cmd) (st : Nat), (i, op) ∈ cmdRows ∧ s.clerk.work = .cmd c ∧ c.opcode = op ∧
      c.begun = false ∧ (op ∈ holdOps → s.mirShort (s.cmdNeed c) = false) ∧ (c.failed = true ∧ st = stTIMEOUT ∨ c.failed = false ∧
      (cmdReserved c = true ∨ cmdNames c = false) ∧ st = stBAD_ARGS ∨ c.failed = false ∧ cmdReserved c = false ∧ cmdNames c = true ∧
      s.cmdOwned c = false ∧ st = stCONFLICT)) ∧
    (∃ (s : State) (c : Cmd), s.takes 0x00 c) ∧
    (∃ (s : State) (c : Cmd), s.takes 0x01 c) ∧
    (∃ (s : State) (c : Cmd) (h : HostId) (pr : Bool) (n : Nat) (rest : List HoldEnt), s.takes 0x00 c ∧ c.src = .ring h pr ∧
      s.holdOf c.src = .waiting n :: rest ∧ n ≠ c.seq ∧ .waiting c.seq ∉ rest) ∧
    (∃ (s : State) (a n : Nat), s.clerk.stopped = true) ∧
    (∃ (s : State) (a : Nat) (c : Cmd), s.clerk.stopped = false ∧ s.clerk.work = .cmd c ∧ (∀ d ∈ s.clerk.chunked, d.begun = false)) ∧
    (∃ (s : State) (a n : Nat) (c : Cmd), s.clerk.stopped = false ∧ s.clerk.work = .idle ∧ s.clerk.chunked = [c] ∧ c.begun = true) ∧
    (∃ (s : State) (a n : Nat) (c : Cmd) (e : List Word), s.clerk.stopped = false ∧ s.takes 0x10 c ∧ s.mirShort (s.cmdNeed c) = false ∧
      0 < n ∧ c.entData = some e ∧ c.table = 0x10 ∧ tableArgs c.table c.pipe c.index = true ∧ e.length = tblWords c.table ∧
      entReserved c.table e = false ∧ s.entArgs c.table c.pipe c.index (entClean c.table e) = true ∧
      s.entConflict c.table c.pipe c.index (entClean c.table e) = false ∧ (∀ d ∈ s.clerk.chunked, d.begun = false)) ∧
    (∃ (s : State) (a n f : Nat) (c : Cmd) (e : List Word), s.clerk.stopped = false ∧ s.takes 0x18 c ∧ s.mirShort (n + 1) = false ∧
      c.entData = some e ∧ (∀ d ∈ s.clerk.chunked, d.begun = false) ∧ c.catArgs = true ∧ c.index < catSize c.eg ∧
      s.sliceWide c.eg c.pipe (c.index / 512) = false ∧ e.length = 23 ∧ entReserved c.table e = false ∧
      s.entArgs c.table c.pipe c.index (entClean c.table e) = true ∧ s.rowFree c.eg c.pipe c.index = false ∧
      s.nextFree c.eg c.pipe 1 (s.rowRunEnd c.eg c.pipe c.index) c.index (catSize c.eg) = some f ∧ n ≤ f - c.index) ∧
    (∃ (s : State) (a : Nat), s.clerk.stopped = false ∧ (∀ c, s.clerk.work ≠ .cmd c) ∧ (∀ d ∈ s.clerk.chunked, d.begun = false) ∧
      s.on fCLE_CS_LAST_VALID = false) ∧
    (∃ (s : State) (a : Nat), s.clerk.work ≠ .idle ∧ s.clerk.stepStart = some a ∧ a + ns 100000 ≤ s.tim.rc ∧ s.mirFull = false ∧
      s.clerk.stepHeld = false ∧ s.clerk.overran = false) ∧
    (∃ (s : State), ((∀ a, s.clerk.stepStart = some a → s.tim.rc < a + ns 100000) ∨ s.clerk.work = .idle ∨ s.mirFull = true ∨ s.clerk.stepHeld = true ∨ s.clerk.overran = true)) ∧
    (∃ (s : State) (m : Master), s.passes m .CLE_TAW_CTRL 0 m.num ∧ s.on fCLE_TAW_CTRL_BUSY 0 m.num = false) ∧
    (∃ (s : State) (m : Master), s.passes m .CLE_TAW_CTRL 0 m.num ∧ s.on fCLE_TAW_CTRL_BUSY 0 m.num = true) ∧
    (∃ (s : State) (m : Master) (b : Bool), s.passes m .CLE_CTRL ∧ s.gateOpen (some m) .CLE 0 = true) ∧
    (∃ (s : State) (a i : Nat), a < 0x2000 ∧ i < 64 ∧ s.on fCLE_PATCH_MAP_V 0 i = true ∧ s.rd fCLE_PATCH_MAP_ROM_ADDR 0 i = a ∧
      (∀ j, j < i → s.on fCLE_PATCH_MAP_V 0 j = false ∨ s.rd fCLE_PATCH_MAP_ROM_ADDR 0 j ≠ a)) :=
  ⟨⟨ck base .patch, [true], by decide +kernel⟩,
    ⟨cid base true, [true, false], by decide +kernel⟩,
    ⟨cf (cid base true) [] [{ rc0 .a false [0x28, 7] with begun := true, acc := 9, next := 12 }], { rc0 .a false [0x28, 7] with begun := true, acc := 9, next := 12 }, by decide +kernel⟩,
    ⟨cid base false, [true, false], by decide +kernel⟩,
    ⟨cf (rm (cid base false)) [rc0 .a false [0x10, 7]], .a, false, rc0 .a false [0x10, 7], by decide +kernel⟩,
    ⟨let s := cf (rm (cid base false)) [rc0 .a false [0x10, 7] 5]; { s with clerk := { s.clerk with stops := [(.ring .a false, 6)] } }, .a, false, rc0 .a false [0x10, 7] 5, by decide +kernel⟩,
    ⟨cf (cid base false) [tc .sb [0x77, 1]], .sb, tc .sb [0x77, 1], by decide +kernel⟩,
    ⟨cf (rm (cid base false)) [rc0 .a false [0x10, 7], rc0 .a true [0x00, 7]], .a, rc0 .a true [0x00, 7], rc0 .a false [0x10, 7], by decide +kernel⟩,
    ⟨{ cf (cid base false) [tc .sb [0x77, 1]] with lrn := { base.lrn with repairs := [⟨3, 0x0C, 0, 5, 0, .a, none, [], [], [], 0, 0⟩] } }, .repairRead 3, [true], by decide +kernel⟩,
    ⟨hld (cf (rm (cid base false)) [fe base]) (.ring .a false), fe base, by decide +kernel⟩,
    ⟨cf (cid base false) [sb2 .b, sb2 .a], sb2 .a, sb2 .b, by decide +kernel⟩,
    ⟨((((cf (cid base false) [rav true 3, rav false 4]).wr fHST_CH_CFG_EN 1 0 (chanOf .b 2)).wr fHST_CH_CFG_LOG2_SIZE 4 0 (chanOf .b 2)).setRg .HST_CH_DEV_IDX 0x20 0 (chanOf .b 2)).setRg .HST_CH_HOST_IDX 0x10 0 (chanOf .b 2), rav false 4, rav true 3, .b, by decide +kernel⟩,
    ⟨up (csw (cid base false) [(0x3900, [BitVec.ofNat 32 (0x11 + 5 * 2^14), 0x22, 0,0,0,0])]) 0x3900, true, ⟨0x11, 5, false, false, 0x22⟩, by decide +kernel⟩,
    ⟨up (csw (cid base false) [(0x3900, [BitVec.ofNat 32 (0x3901 + 2^21), 0x22, 0,0,0,0]), (0x3901, [5,6,0,0,0,0])]) 0x3900, true, [false], by decide +kernel⟩,
    ⟨up { (cid base false) with flt := { base.flt with marks := [(0x26, 15, 0, 0x2010, false)] } } 0x2010, true, by decide +kernel⟩,
    ⟨up { (cid base false) with flt := { base.flt with marks := [(0x27, 15, 0, 0x10, false)] } } 0x10, true, 0x10, by decide +kernel⟩,
    ⟨up { cf (cid base false) [sb2 .a] with flt := { base.flt with marks := [(0x26, 15, 0, 0x2010, true)] } } 0x2010, .a, sb2 .a, false, [true], by decide +kernel⟩,
    ⟨wk base (tc .a [0x11]), .nop, 0, by decide +kernel, fun c e => by cases e; decide, fun port e => by cases e⟩,
    ⟨full (wk base (tc .a [0x10])), .entryWrite, 0x10, tc .a [0x10], by decide +kernel⟩,
    ⟨wk base { tc .a [0x10, 5] with failed := true }, .entryWrite, 0x10, { tc .a [0x10, 5] with failed := true }, 8, by decide +kernel⟩,
    ⟨rm (wk base (rc0 .a true [0, 5])), (rc0 .a true [0, 5]), by decide +kernel⟩,
    ⟨rm (wk base (rc0 .a true [1, 5])), (rc0 .a true [1, 5]), by decide +kernel⟩,
    ⟨hld (rm (wk base (rc0 .a true [0, 5]))) (.ring .a true), (rc0 .a true [0, 5]), .a, true, 3, [.done 2 ⟨1,2,3,4,5⟩], by decide +kernel⟩,
    ⟨{ cid base false with clerk := { base.clerk with stopped := true } }, 5, 2, by decide +kernel⟩,
    ⟨wk base (tc .b [0x10, 5]), 99, (tc .b [0x10, 5]), by decide +kernel⟩,
    ⟨cf (cid base false) [] [{ tc .a [0x28, 7] with begun := true, acc := 9, next := 12 }], 7, 3, { tc .a [0x28, 7] with begun := true, acc := 9, next := 12 }, by decide +kernel⟩,
    ⟨wk base (tcx 0x10 0x10 0 5 [7]), 7, 1, (tcx 0x10 0x10 0 5 [7]), [7], by decide +kernel⟩,
    ⟨catS base (tcx 0x18 0x1A 2 7 (rowW 3 1)) [7,8,9,11], 0x4000, 2, 10, tcx 0x18 0x1A 2 7 (rowW 3 1), rowW 3 1, by decide +kernel⟩,
    ⟨(ck base (.sweep 0)).setRg .CLE_CS_LAST 0, 0x3FFF, by decide +kernel, (fun c e => by cases e), by decide +kernel⟩,
    ⟨so (ck base .patch) 4, 4, by decide +kernel⟩,
    ⟨so (ck base .patch) (base.tim.rc - ns 99999), by decide +kernel⟩,
    ⟨tw base .a 0xF04, .a, by decide +kernel⟩,
    ⟨tw base .b 2, .b, by decide +kernel⟩,
    ⟨openG (ready base) .b .CLE, .b, true, by decide +kernel⟩,
    ⟨((ck base .idle).setRg .CLE_PATCH_MAP (BitVec.ofNat 32 (2^31 + 0x3805 * 2^16 + 0x77)) 0 5).setRg .CLE_PATCH_MAP (BitVec.ofNat 32 (0x3806 * 2^16 + 0x77)) 0 4, 0x77, 5, by decide +kernel⟩⟩

/-- States and operands that meet the hypotheses of `ClerkTables`, clause by clause. -/
theorem witness_ClerkTables :
    (∃ (s : State) (c : Cmd) (r : Reg) (p i j k : Nat), s.takes 0x02 c ∧ r ∈ plainRegs ∧ regAt (r.addr p i j k) = some ⟨r, p, i, j, k⟩ ∧
      c.w 2 = r.addr p i j k ∧ r.addr p i j k % 4 = 0 ∧ s.arbitrate c.master ⟨r, p, i, j, k⟩ (r.addr p i j k) = none ∧
      s.clockStopped (r.addr p i j k) = false ∧ s.blockRuns r.desc.block = true ∧
      (s.gateOpen (some c.master) r.desc.block p = true ∨ r.desc.expertHit = false)) ∧
    (∃ (s : State) (c : Cmd), s.takes 0x02 c ∧ s.clockStopped (c.w 2) = true ∧ s.clerk.regOk = false) ∧
    (∃ (s : State) (c : Cmd), s.takes 0x02 c ∧ s.clockStopped (c.w 2) = true ∧ s.clerk.regOk = true ∧ c.w 2 = Reg.addr .TIM_PPS_DELAY ∧
      s.arbitrate c.master ⟨.TIM_PPS_DELAY, 0, 0, 0, 0⟩ (c.w 2) = none) ∧
    (∃ (s : State) (c : Cmd), s.takes 0x02 c ∧ s.clockStopped (c.w 2) = false ∧ c.w 2 % 4 ≠ 0) ∧
    (∃ (s : State) (c : Cmd) (r : Reg) (p i j k : Nat), s.takes 0x03 c ∧ r ∈ plainRegs ∧ regAt (c.w 2) = some ⟨r, p, i, j, k⟩ ∧
      c.w 2 % 4 = 0 ∧ s.clockStopped (c.w 2) = false ∧ s.ckr.warmAt = none) ∧
    (∃ (s : State) (c : Cmd), s.takes 0x03 c ∧ s.clockStopped (c.w 2) = false ∧ (c.w 2 % 4 ≠ 0 ∨ regAt (c.w 2) = none)) ∧
    (∃ (s : State) (c : Cmd), s.takes 0x03 c ∧ s.clerk.regOk = false ∧ s.clockStopped (c.w 2) = true) ∧
    (∃ (s : State) (c : Cmd), s.takes 0x03 c ∧ c.w 2 % 4 = 0 ∧ s.clerk.regOk = true ∧ s.clockStopped (c.w 2) = true) ∧
    (∃ (s : State) (c : Cmd) (e : List Word), s.takes 0x10 c ∧ s.mirShort (s.cmdNeed c) = false ∧ c.entData = some e ∧
      c.table ∈ plainTables ∧ tableArgs c.table c.pipe c.index = true ∧ e.length = tblWords c.table ∧ entReserved c.table e = false ∧
      (s.gateOpen (some c.master) .HAR c.pipe = true ∨ c.table ≠ 0x28) ∧ s.entArgs c.table c.pipe c.index (entClean c.table e) = true ∧
      s.entConflict c.table c.pipe c.index (entClean c.table e) = false) ∧
    (∃ (s : State) (c : Cmd) (e : List Word), s.takes 0x10 c ∧ s.mirShort (s.cmdNeed c) = false ∧ c.entData = some e ∧
      c.table ∈ [0x0C, 0x0D, 0x1A, 0x1B, 0x29, 0x2A, 0x2B, 0x2C, 0x2D, 0x2E] ∧ tableArgs c.table c.pipe c.index = true ∧
      s.entWords c.table c.pipe c.index e.length = true ∧ entReserved c.table e = false ∧ s.gateOpen (some c.master) .HAR c.pipe = true ∧
      s.entArgs c.table c.pipe c.index (entClean c.table e) = true ∧ s.entConflict c.table c.pipe c.index (entClean c.table e) = false) ∧
    (∃ (s : State) (c : Cmd) (e : List Word), s.takes 0x10 c ∧ s.mirShort (s.cmdNeed c) = false ∧ c.entData = some e ∧
      s.entWords c.table c.pipe c.index e.length = false) ∧
    (∃ (s : State) (c : Cmd) (e : List Word), s.takes 0x10 c ∧ s.mirShort (s.cmdNeed c) = false ∧ c.entData = some e ∧ c.table = 0x0E ∧
      e.length = 8 ∧ entReserved 0x0E e = false ∧ pfxOk (entClean 0x0E e) = true ∧
      resOk (wordsNat (((entClean 0x0E e).drop 5).take 2)) false = true ∧ s.pfxSlot (entClean 0x0E e) = none ∧
      s.rd fKST_PFX_UNITS_USED + pfxCost (entClean 0x0E e) ≤ 1048576) ∧
    (∃ (s : State) (c : Cmd) (e : List Word), s.takes 0x12 c ∧ s.mirShort (s.cmdNeed c) = false ∧ c.entData = some e ∧
      c.table ∈ plainTables ∧ c.table ≠ 0x01 ∧ e.length = tblWords c.table ∧ tableArgs c.table c.pipe c.index = true ∧
      s.entConflict c.table c.pipe c.index (zeros (tblWords c.table)) = false) ∧
    (∃ (s : State) (c : Cmd) (e : List Word), s.takes 0x12 c ∧ s.mirShort (s.cmdNeed c) = false ∧ c.entData = some e ∧ c.table = 0x01 ∧
      e.length = 8 ∧ c.pipe < 8 ∧ c.index < 64 ∧ s.entConflict 0x01 c.pipe c.index (entSet (s.ent 0x01 c.pipe c.index) 6 10 10 0) = false) ∧
    (∃ (s : State) (c : Cmd) (e : List Word) (n : Nat), s.takes 0x12 c ∧ s.mirShort (s.cmdNeed c) = false ∧ c.entData = some e ∧
      c.table = 0x0E ∧ e.length = 8 ∧ entReserved 0x0E e = false ∧ pfxOk (entClean 0x0E e) = true ∧ s.pfxSlot (entClean 0x0E e) = some n) ∧
    (∃ (s : State) (c : Cmd), s.takes 0x11 c ∧ tableArgs c.table c.pipe c.index = true ∧ c.table ≠ 0x0E ∧ c.table ≠ 0x38 ∧ c.table ≠ 0x39 ∧
      s.entWords c.table c.pipe c.index c.count = true ∧ c.table < 0x28 ∧ s.oddRow c.table c.pipe c.index = false ∧
      s.entBad c.table c.pipe c.replica c.index = none) ∧
    (∃ (s : State) (c : Cmd), s.takes 0x11 c ∧ c.table = 0x0A ∧ c.count = tblWords 0x0A ∧ c.index < 16384 ∧ c.pipe < 8 ∧
      s.entBad 0x0A c.pipe c.pipe c.index = some c.index ∧ s.lrn.repairs = []) ∧
    (∃ (s : State) (c : Cmd) (x : Stall), s.takes 0x11 c ∧ c.table = 0x38 ∧ c.count = 8 ∧ c.index < 262144 ∧ s.flt.marks = [] ∧
      s.fwd.stalls.find? (fun x => s.stallNo x.pool x.idx == c.index) = some x) ∧
    (∃ (s : State) (c : Cmd) (e : List Word) (i : Nat), s.takes 0x13 c ∧ s.mirShort (s.cmdNeed c) = false ∧ c.entData = some e ∧
      c.table = 0x0C ∧ c.pipe < 8 ∧ e.length = 3 ∧ entReserved 0x0C e = false ∧ bridgeOk (entSet (entClean 0x0C e) 1 30 30 1) = true ∧
      s.hashFind 0x0C c.pipe (entSet (entClean 0x0C e) 1 30 30 1) = none ∧
      s.bridgePlace c.pipe (bridgeBd (entSet (entClean 0x0C e) 1 30 30 1)) (bridgeMac (entSet (entClean 0x0C e) 1 30 30 1)) = some i) ∧
    (∃ (s : State) (c : Cmd) (e : List Word) (i : Nat), s.takes 0x13 c ∧ s.mirShort (s.cmdNeed c) = false ∧ c.entData = some e ∧
      c.table = 0x0D ∧ e.length = 5 ∧ State.hashArgs 0x0D c.pipe e = true ∧ keyEntryOk (keyValid (entClean 0x0D e)) = true ∧
      s.hashFind 0x0D c.pipe (keyValid (entClean 0x0D e)) = none ∧
      s.kstPlace (keyEntry (keyValid (entClean 0x0D e))).1 (keyEntry (keyValid (entClean 0x0D e))).2 = some i) ∧
    (∃ (s : State) (c : Cmd) (e : List Word) (i : Nat), s.takes 0x13 c ∧ s.mirShort (s.cmdNeed c) = false ∧ c.entData = some e ∧
      c.table = 0x0C ∧ c.pipe < 8 ∧ e.length = 3 ∧ entReserved 0x0C e = false ∧ bridgeOk (entSet (entClean 0x0C e) 1 30 30 1) = true ∧
      s.hashFind 0x0C c.pipe (entSet (entClean 0x0C e) 1 30 30 1) = some i) ∧
    (∃ (s : State) (c : Cmd) (e : List Word), s.takes 0x14 c ∧ c.entData = some e ∧ State.hashArgs c.table c.pipe e = true ∧
      s.hashFind c.table c.pipe (entClean c.table e) = none ∧ s.missBad c.table c.pipe (entClean c.table e) = none) ∧
    (∃ (s : State) (c : Cmd) (e : List Word) (i : Nat), s.takes 0x14 c ∧ c.entData = some e ∧ State.hashArgs c.table c.pipe e = true ∧
      s.hashFind c.table c.pipe (entClean c.table e) = none ∧ s.missBad c.table c.pipe (entClean c.table e) = some i ∧ s.lrn.repairs = []) ∧
    (∃ (s : State) (c : Cmd) (e : List Word) (i : Nat), s.takes 0x14 c ∧ c.entData = some e ∧ State.hashArgs c.table c.pipe e = true ∧
      s.hashFind c.table c.pipe (entClean c.table e) = some i ∧ s.entBad c.table c.pipe 0 i = none) ∧
    (∃ (s : State) (c : Cmd) (e : List Word), s.takes 0x15 c ∧ s.mirShort (s.cmdNeed c) = false ∧ c.entData = some e ∧
      State.hashArgs c.table c.pipe e = true ∧ s.hashFind c.table c.pipe (entClean c.table e) = none) ∧
    (∃ (s : State) (c : Cmd) (e : List Word) (i : Nat), s.takes 0x15 c ∧ s.mirShort (s.cmdNeed c) = false ∧ c.entData = some e ∧
      State.hashArgs 0x0C c.pipe e = true ∧ c.table = 0x0C ∧ s.hashFind 0x0C c.pipe (entClean 0x0C e) = some i) ∧
    (∃ (s : State) (c : Cmd) (e : List Word), s.takes 0x18 c ∧ s.mirShort (s.cmdNeed c) = false ∧ c.entData = some e ∧ c.catArgs = true ∧
      c.index < catSize c.eg ∧ s.sliceWide c.eg c.pipe (c.index / 512) = false ∧ e.length = 23 ∧ entReserved c.table e = false ∧
      s.entArgs c.table c.pipe c.index (entClean c.table e) = true ∧ s.entConflict c.table c.pipe c.index (entClean c.table e) = false ∧
      s.rowFree c.eg c.pipe c.index = true) ∧
    (∃ (s : State) (c : Cmd) (e : List Word), s.takes 0x18 c ∧ s.mirShort (s.cmdNeed c) = false ∧ c.entData = some e ∧ c.catArgs = true ∧
      c.index < catSize c.eg ∧ s.sliceWide c.eg c.pipe (c.index / 512) = false ∧ e.length = 23 ∧ entReserved c.table e = false ∧
      s.entArgs c.table c.pipe c.index (entClean c.table e) = true ∧ s.entConflict c.table c.pipe c.index (entClean c.table e) = true ∧
      s.rowFree c.eg c.pipe c.index = true) ∧
    (∃ (s : State) (c : Cmd) (e : List Word) (f : Nat), s.takes 0x18 c ∧ s.mirShort (f - c.index + 1) = false ∧ c.entData = some e ∧
      c.catArgs = true ∧ c.index < catSize c.eg ∧ s.sliceWide c.eg c.pipe (c.index / 512) = false ∧ e.length = 23 ∧
      entReserved c.table e = false ∧ s.entArgs c.table c.pipe c.index (entClean c.table e) = true ∧ s.rowFree c.eg c.pipe c.index = false ∧
      s.nextFree c.eg c.pipe 1 (s.rowRunEnd c.eg c.pipe c.index) c.index (catSize c.eg) = some f) ∧
    (∃ (s : State) (c : Cmd) (e : List Word), s.takes 0x18 c ∧ s.mirShort (s.cmdNeed c) = false ∧ c.entData = some e ∧ c.catArgs = true ∧
      c.index < catSize c.eg ∧ s.sliceWide c.eg c.pipe (c.index / 512) = false ∧ e.length = 23 ∧ entReserved c.table e = false ∧
      s.entArgs c.table c.pipe c.index (entClean c.table e) = true ∧ s.rowFree c.eg c.pipe c.index = false ∧
      s.nextFree c.eg c.pipe 1 (s.rowRunEnd c.eg c.pipe c.index) c.index (catSize c.eg) = none) ∧
    (∃ (s : State) (c : Cmd), s.takes 0x19 c ∧ s.mirShort (s.cmdNeed c) = false ∧ c.catArgs = true ∧ c.index < catSize c.eg ∧
      s.sliceWide c.eg c.pipe (c.index / 512) = false ∧ s.entConflict c.table c.pipe c.index (zeros 23) = false) ∧
    (∃ (s : State) (c : Cmd) (n k : Nat) (up : Bool), s.takes 0x1A c ∧ s.mirShort (n + k) = false ∧ c.catArgs = true ∧
      n = bitsOf (c.w 3) 13 0 ∧ k = bitsOf (c.w 3) 27 14 ∧ up = bitOf (c.w 3) 28 ∧ c.index + n ≤ catSize c.eg ∧
      s.moveArgs c c.index n k up = true ∧ s.sliceWide c.eg c.pipe (c.index / 512) = false ∧ 0 < k) ∧
    (∃ (s : State) (c : Cmd), s.takes 0x1A c ∧ s.mirShort (s.cmdNeed c) = false ∧ c.catArgs = true ∧
      c.index + bitsOf (c.w 3) 13 0 ≤ catSize c.eg ∧ s.moveArgs c c.index (bitsOf (c.w 3) 13 0) 0 (bitOf (c.w 3) 28) = true ∧
      bitsOf (c.w 3) 27 14 = 0) :=
  ⟨⟨wkr base (rcw 2 (Reg.addr .HST_PUNT_MAP 0 1) 0x12345), (rcw 2 (Reg.addr .HST_PUNT_MAP 0 1) 0x12345), .HST_PUNT_MAP, 0, 1, 0, 0, by decide +kernel⟩,
    ⟨stop (wk base (tcw 2 (Reg.addr .TIM_PPS_DELAY) 0x12345)), (tcw 2 (Reg.addr .TIM_PPS_DELAY) 0x12345), by decide +kernel⟩,
    ⟨rok (stop (wk base (tcw 2 (Reg.addr .TIM_PPS_DELAY) 0x12345))), (tcw 2 (Reg.addr .TIM_PPS_DELAY) 0x12345), by decide +kernel⟩,
    ⟨wk base (tcw 2 0x10001 0x12345), (tcw 2 0x10001 0x12345), by decide +kernel⟩,
    ⟨wk base (tcw 3 (Reg.addr .TIM_PPS_DELAY) 0), (tcw 3 (Reg.addr .TIM_PPS_DELAY) 0), .TIM_PPS_DELAY, 0, 0, 0, 0, by decide +kernel⟩,
    ⟨wk base (tcw 3 0x10001 0), (tcw 3 0x10001 0), by decide +kernel⟩,
    ⟨stop (wk base (tcw 3 (Reg.addr .TIM_PPS_DELAY) 0)), (tcw 3 (Reg.addr .TIM_PPS_DELAY) 0), by decide +kernel⟩,
    ⟨rok (stop (wk base (tcw 3 (Reg.addr .TIM_PPS_DELAY) 0))), (tcw 3 (Reg.addr .TIM_PPS_DELAY) 0), by decide +kernel⟩,
    ⟨wk base (tcx 0x10 0x10 0 5 [7]), (tcx 0x10 0x10 0 5 [7]), [7], by decide +kernel⟩,
    ⟨openG (wk base (tcx 0x10 0x0C 2 5 [7,0x40000000,0])) .a .HAR 2, (tcx 0x10 0x0C 2 5 [7,0x40000000,0]), [7,0x40000000,0], by decide +kernel⟩,
    ⟨wk base (tcx 0x10 0x10 2 5 [7,0]), (tcx 0x10 0x10 2 5 [7,0]), [7,0], by decide +kernel⟩,
    ⟨pf base (tcx 0x10 0x0E 2 0 [0x10000, 0x0A000000, 0,0,0,0,0,0]) [0, 2], (tcx 0x10 0x0E 2 0 [0x10000, 0x0A000000, 0,0,0,0,0,0]), [0x10000, 0x0A000000, 0,0,0,0,0,0], by decide +kernel⟩,
    ⟨wk base (tcx 0x12 0x10 0 5 [7]), (tcx 0x12 0x10 0 5 [7]), [7], by decide +kernel⟩,
    ⟨{ wk base (tcx 0x12 1 3 5 (zeros 8)) with tables := [((1,3,5),[1,2,3,4,5,6,0x403,0])] }, (tcx 0x12 1 3 5 (zeros 8)), zeros 8, by decide +kernel⟩,
    ⟨pf base (tcx 0x12 0x0E 2 0 [0x10000, 0x0A000000, 0,0,0,0,0,0]) [0, 1, 2], (tcx 0x12 0x0E 2 0 [0x10000, 0x0A000000, 0,0,0,0,0,0]), [0x10000, 0x0A000000, 0,0,0,0,0,0], 1, by decide +kernel⟩,
    ⟨wk base (tcx 0x11 0x10 3 5 [] 1), (tcx 0x11 0x10 3 5 [] 1), by decide +kernel⟩,
    ⟨{ wk base (tcx 0x11 0x0A 3 5 [] (tblWords 0x0A)) with flt := { base.flt with marks := [(5, 15, 3, 5, false)] } }, (tcx 0x11 0x0A 3 5 [] (tblWords 0x0A)), by decide +kernel⟩,
    ⟨{ wk base (tcx 0x11 0x38 0 5 [] 8) with fwd := { base.fwd with stalls := [stl5] }, flt := { base.flt with marks := [] } }, (tcx 0x11 0x38 0 5 [] 8), stl5, by decide +kernel⟩,
    ⟨{ (wk base (tcx 0x13 0x0C 3 0 [0x17, 0x10002, 9])).setRg .BRS_HASH 0 3 with tables := [((0x0C,3,2),[1,2,3])] }, (tcx 0x13 0x0C 3 0 [0x17, 0x10002, 9]), [0x17, 0x10002, 9], ({ (wk base (tcx 0x13 0x0C 3 0 [0x17, 0x10002, 9])).setRg .BRS_HASH 0 3 with tables := [((0x0C,3,2),[1,2,3])] }.bridgePlace 3 1 0x200000017).getD 0, by decide +kernel⟩,
    ⟨wk base (tcx 0x13 0x0D 0 0 kve), tcx 0x13 0x0D 0 0 kve, kve, ((ck base .idle).kstPlace (keyEntry (keyValid (entClean 0x0D kve))).1 (keyEntry (keyValid (entClean 0x0D kve))).2).getD 0, by decide +kernel⟩,
    ⟨hs base 0x13 0, tcx 0x13 0x0C 3 0 [0x17, 0x10002, 9], [0x17, 0x10002, 9], hi base, by decide +kernel⟩,
    ⟨wk base (tcx 0x14 0x0D 0 0 kve), tcx 0x14 0x0D 0 0 kve, kve, by decide +kernel⟩,
    ⟨mb base, tcx 0x14 0x0D 0 0 kve, kve, 4 * (mb base).keyBucket (keyEntry (entClean 0x0D kve)).1 (keyEntry (entClean 0x0D kve)).2 + 2, by decide +kernel⟩,
    ⟨hs base 0x14 0, tcx 0x14 0x0C 3 0 [0x17, 0x10002, 9], [0x17, 0x10002, 9], hi base, by decide +kernel⟩,
    ⟨wk base (tcx 0x15 0x0D 0 0 kve), tcx 0x15 0x0D 0 0 kve, kve, by decide +kernel⟩,
    ⟨hs base 0x15 0, tcx 0x15 0x0C 3 0 [0x17, 0x10002, 9], [0x17, 0x10002, 9], hi base, by decide +kernel⟩,
    ⟨catS base (tcx 0x18 0x1A 2 7 (rowW 3 1)) [8], tcx 0x18 0x1A 2 7 (rowW 3 1), rowW 3 1, by decide +kernel⟩,
    ⟨cfr base, tcx 0x18 0x1A 2 7 (rowW 3 1), rowW 3 1, by decide +kernel⟩,
    ⟨catS base (tcx 0x18 0x1A 2 7 (rowW 3 1)) [7,8,9,11], tcx 0x18 0x1A 2 7 (rowW 3 1), rowW 3 1, 10, by decide +kernel⟩,
    ⟨(catS base (tcx 0x18 0x1A 2 511 (rowW 3 1)) [511]).setRg .CAT_SLICE_I 1 2 1, tcx 0x18 0x1A 2 511 (rowW 3 1), rowW 3 1, by decide +kernel⟩,
    ⟨catS base (tcx 0x19 0x1A 2 7 [] 0) [7,8], tcx 0x19 0x1A 2 7 [] 0, by decide +kernel⟩,
    ⟨catS base (tcx 0x1A 0x1A 2 7 [] (3 + 2 * 2^14)) [7,8,9,12], tcx 0x1A 0x1A 2 7 [] (3 + 2 * 2^14), 3, 2, false, by decide +kernel⟩,
    ⟨catS base (tcx 0x1A 0x1A 2 7 [] 3) [7,8,9,12], tcx 0x1A 0x1A 2 7 [] 3, by decide +kernel⟩⟩

/-- States and operands that meet the hypotheses of `ClerkSystem`, clause by clause. -/
theorem witness_ClerkSystem :
    (∃ (s : State) (c : Cmd), s.takes 0x20 c ∧ s.edState (!s.edNow) = 0) ∧
    (∃ (s : State) (c : Cmd), s.takes 0x20 c ∧ s.edState (!s.edNow) ≠ 0) ∧
    (∃ (s : State) (c : Cmd), s.takes 0x21 c ∧ s.kindArmed .edition = false ∧ s.ed.imm = none ∧ s.edState (!s.edNow) = 1 ∧
      bitOf (c.w 5) 0 = true ∧ c.time ≠ none) ∧
    (∃ (s : State) (c : Cmd) (at_ k : Nat), s.takes 0x21 c ∧ s.kindArmed .edition = false ∧ s.ed.imm = none ∧ s.edState (!s.edNow) = 1 ∧
      bitOf (c.w 5) 0 = false ∧ c.time = some at_ ∧ s.blockRuns .TIM = true ∧ s.tstate ≠ 0 ∧ s.tim.ct + ns 2000 ≤ at_ ∧ s.freeSlot = some k) ∧
    (∃ (s : State) (c : Cmd), s.takes 0x21 c ∧ c.time = none) ∧
    (∃ (s : State) (c : Cmd), s.takes 0x21 c ∧ c.time ≠ none ∧ (s.kindArmed .edition = true ∨ s.ed.imm ≠ none)) ∧
    (∃ (s : State) (c : Cmd), s.takes 0x22 c ∧ s.mirShort (s.cmdNeed c) = false ∧ s.edState (!s.edNow) = 1 ∧ c.w 2 = sweepAll - 1) ∧
    (∃ (s : State) (c : Cmd), s.takes 0x22 c ∧ s.mirShort (s.cmdNeed c) = false ∧ s.edState (!s.edNow) = 1 ∧ c.w 2 = 0 ∧
      s.mirShort 2 = false ∧ (∀ i < 64, entB (s.ent 0x01 0 i) 6 (8 + b2n (!s.edNow)) = false) ∧
      (∀ i < 4032, entB (s.ent 0x1A 0 i) 20 (1 + b2n (!s.edNow)) = false)) ∧
    (∃ (s : State) (c : Cmd), s.takes 0x22 c ∧ s.mirShort (s.cmdNeed c) = false ∧ c.w 2 < sweepAll ∧ s.edState (!s.edNow) = 0) ∧
    (∃ (s : State) (c : Cmd), s.takes 0x22 c ∧ s.mirShort (s.cmdNeed c) = false ∧ sweepAll ≤ c.w 2) ∧
    (∃ (s : State) (c : Cmd), s.takes 0x28 c ∧ s.mirShort (s.cmdNeed c) = false ∧ c.pipe < 8 ∧ c.w 2 = 532479 ∧
      (bridgeV (s.ent 0x0C c.pipe 532479) = false ∨ bridgeStatic (s.ent 0x0C c.pipe 532479) = true)) ∧
    (∃ (s : State) (c : Cmd), s.takes 0x28 c ∧ s.mirShort (s.cmdNeed c) = false ∧ c.pipe < 8 ∧ c.w 2 = 532479 ∧
      bridgeV (s.ent 0x0C c.pipe 532479) = true ∧ bridgeStatic (s.ent 0x0C c.pipe 532479) = false ∧
      s.on fBRS_LEARN_CFG_EVT_AGE c.pipe = false) ∧
    (∃ (s : State) (c : Cmd), s.takes 0x29 c ∧ s.mirShort (s.cmdNeed c) = false ∧ bitsOf (c.w 2) 8 0 < 256 ∧ c.w 3 = 532479 ∧
      s.on fBRS_LEARN_CFG_EVT_AGE (bitsOf (c.w 2) 8 0 / 32) = false) ∧
    (∃ (s : State) (port i : Nat), s.clerk.work = .forget port ∧ s.mirFull = false ∧ AMap.get? s.clerk.forgets port = some i ∧ i < 532480 ∧
      (∀ k, i ≤ k → k < min ((i / 4096 + 1) * 4096) 532480 → bridgeV (s.ent 0x0C (port / 32) k) = false ∨ bridgeStatic (s.ent 0x0C (port / 32) k) = true)) ∧
    (∃ (s : State) (c : Cmd), s.takes 0x2A c ∧ tableArgs c.table c.pipe (c.w 2) = true ∧ c.table ≠ 0x38 ∧ c.table ≠ 0x39 ∧
      c.w 2 < tblEntries c.table ∧ s.flt.marks = []) ∧
    (∃ (s : State) (c : Cmd) (rep i : Nat), s.takes 0x2A c ∧ c.table = 0x10 ∧ c.w 2 = 0 ∧ i < 4096 ∧
      s.flt.marks = [(0x0D, 15, rep, i, false)] ∧ s.lrn.repairs = []) ∧
    (∃ (s : State) (c : Cmd) (at_ k : Nat), s.takes 0x30 c ∧ c.time = some at_ ∧ s.on fARC_CFG_SNAP_EN = true ∧
      s.on fDRM_STATUS_READY = true ∧ (c.w 5 + c.w 6 * 2 ^ 32 = 0 ∨ 100000 ≤ c.w 5 + c.w 6 * 2 ^ 32) ∧ bitOf (c.w 7) 0 = false ∧
      s.kindArmed .snapshot = false ∧ s.blockRuns .TIM = true ∧ s.tstate ≠ 0 ∧ s.tim.ct + ns 2000 ≤ at_ ∧ s.freeSlot = some k) ∧
    (∃ (s : State) (c : Cmd) (at_ : Nat), s.takes 0x30 c ∧ c.time = some at_ ∧
      (s.on fARC_CFG_SNAP_EN = false ∨ s.on fDRM_STATUS_READY = false ∨ bitOf (c.w 7) 0 = true)) ∧
    (∃ (s : State) (c : Cmd), s.takes 0x31 c ∧ c.table ∈ [3, 4, 5, 6, 7, 8, 9, 10, 11, 12, 13, 14] ∧ c.w 3 = 1 ∧
      c.w 2 < (setInfo c.table).1 ∧ s.flt.marks = [] ∧ s.settle = s) ∧
    (∃ (s : State) (c : Cmd), s.takes 0x31 c ∧ (setInfo c.table).1 < c.w 2 + c.w 3) ∧
    (∃ (s : State) (c : Cmd) (at_ k : Nat), s.takes 0x38 c ∧ c.time = some at_ ∧ bitsOf (c.w 5) 2 0 < 7 ∧
      bitOf (s.rd fFOL_TACK_AVAIL_LIVE) (bitsOf (c.w 5) 2 0) = true ∧ s.tackForeign c.master (bitsOf (c.w 5) 2 0) = false ∧
      s.kindArmed .tack = false ∧ s.blockRuns .TIM = true ∧ s.tstate ≠ 0 ∧ s.tim.ct + ns 1000000 ≤ at_ ∧ s.freeSlot = some k) ∧
    (∃ (s : State) (c : Cmd), s.takes 0x38 c ∧ c.time = none) ∧
    (∃ (s : State) (c : Cmd), s.takes 0x3C c ∧ c.isTaw = false ∧ c.w 3 = 4 * c.data.length ∧ patchOk c.data = true) ∧
    (∃ (s : State) (c : Cmd), s.takes 0x3C c ∧ (c.isTaw = true ∨ c.w 3 ≠ 4 * c.data.length ∨ patchOk c.data = false)) ∧
    (∃ (s : State) (k : List Word), (∀ x ∈ s.clerk.patches, x.verified = true)) ∧
    (∃ (s : State) (x : Patch) (k : List Word), s.clerk.patches = [x] ∧ x.verified = false ∧
      (s.fol.fuses.secure = false ∨ (s.keySlotOf k).isSome = true ∧
      signatureOk k (x.words.drop (x.words.length - 24)) (patchDigest x.words) = true)) ∧
    (∃ (s : State) (x : Patch) (k : List Word) (h : HostId) (pr : Bool), s.clerk.patches = [x] ∧ x.verified = false ∧ s.clerk.work = .idle ∧
      x.cmd.src = .ring h pr ∧ s.fol.fuses.secure = true ∧
      (s.keySlotOf k = none ∨ signatureOk k (x.words.drop (x.words.length - 24)) (patchDigest x.words) = false)) ∧
    (∃ (s : State) (x : Patch), s.clerk.work = .patch ∧ s.clerk.patches = [x] ∧ x.verified = true) ∧
    (∃ (s : State), s.clerk.work ≠ .patch) ∧
    (∃ (s : State) (c : Cmd), s.takes 0x3D c ∧ s.mirShort (s.cmdNeed c) = false ∧ bitOf (c.w 2) 0 = false ∧ s.on (mirEn .a) = true ∧
      c.w 3 = resyncAll - 1 ∧ s.hst.lost = []) ∧
    (∃ (s : State) (c : Cmd), s.takes 0x3D c ∧ s.mirShort (s.cmdNeed c) = false ∧ bitOf (c.w 2) 0 = true ∧
      (s.on (mirEn .b) = false ∨ resyncAll ≤ c.w 3)) ∧
    (∃ (s : State) (c : Cmd) (port : Nat), s.takes 0x3E c ∧ port = bitsOf (c.w 2) 8 0 ∧ s.portExists port = true ∧
      s.prt fPRT_CFG_ADMIN port = b2n (bitOf (c.w 2) 9)) ∧
    (∃ (s : State) (c : Cmd) (port : Nat), s.takes 0x3E c ∧ port = bitsOf (c.w 2) 8 0 ∧ port < 256 ∧ s.portExists port = true ∧
      bitOf (c.w 2) 9 = true ∧ bitOf (c.w 2) 11 = false ∧ s.prt fPRT_CFG_ADMIN port = 0 ∧ s.portState port = psDISABLED ∧
      port ∉ s.ports.safe) ∧
    (∃ (s : State) (c : Cmd), s.takes 0x3E c ∧ s.portExists (bitsOf (c.w 2) 8 0) = false) ∧
    (∃ (s : State) (c : Cmd) (d n : Nat), s.takes 0x3F c ∧ d = bitsOf (c.w 2) 5 0 ∧ n = bitsOf (c.w 2) 13 12) ∧
    (∃ (s : State) (c : Cmd) (hits : List Nat), s.takes 0x28 c ∧ s.mirShort (s.cmdNeed c) = false ∧ c.pipe < 8 ∧ c.w 2 = 532479 ∧
      bridgeV (s.ent 0x0C c.pipe 532479) = true ∧ bridgeStatic (s.ent 0x0C c.pipe 532479) = false ∧ s.hitBit c.pipe 532479 = false ∧
      532479 ∈ hits) :=
  ⟨⟨ed (wk base (tcv 0x20 [0xBEEF])) 0, tcv 0x20 [0xBEEF], by decide +kernel⟩,
    ⟨ed (wk base (tcv 0x20 [0xBEEF])) 3, tcv 0x20 [0xBEEF], by decide +kernel⟩,
    ⟨ed (wkr base (rcv 0x21 [0,0,0,1])) 1, rcv 0x21 [0,0,0,1], by decide +kernel⟩,
    ⟨l1 (ed (wkr base (rcv 0x21 tws)) 1), rcv 0x21 tws, tat, 0, by decide +kernel⟩,
    ⟨ed (wk base (tcv 0x21 [1000000000, 0, 0, 1])) 1, tcv 0x21 [1000000000, 0, 0, 1], by decide +kernel⟩,
    ⟨{ (wk base (tcv 0x21 [0])) with tim := { base.tim with trigs := [⟨3, .edition, 5, 0, none, 0⟩] } }, tcv 0x21 [0], by decide +kernel⟩,
    ⟨((ed (wk base (tcv 0x22 [sweepAll - 1])) 1).wr fFAR_PORT_DEF_A_V 1 7 32).wr fFAR_PORT_DEF_B_V 1 7 32, tcv 0x22 [sweepAll - 1], by decide +kernel⟩,
    ⟨ed (wkr base (rcv 0x22 [0])) 1, rcv 0x22 [0], by decide +kernel, by decide +kernel, by decide +kernel, by decide +kernel, by decide +kernel, (fun i _ => by
      rw [ent_none _ _ _ rfl]; exact reset_bit _ _ _ _ (by decide)),
      fun i _ => by rw [ent_none _ _ _ rfl]; exact reset_bit _ _ _ _ (by decide)⟩,
    ⟨ed (wkr base (rcv 0x22 [0])) 0, rcv 0x22 [0], by decide +kernel⟩,
    ⟨ed (wkr base (rcv 0x22 [sweepAll])) 0, rcv 0x22 [sweepAll], by decide +kernel⟩,
    ⟨br (wk base (tcv (0x28 + 3 * 65536) [532479])) 3 [1,2,3] false, tcv (0x28 + 3 * 65536) [532479], by decide +kernel⟩,
    ⟨br (wk base (tcv (0x28 + 3 * 65536) [532479])) 3 [1,0x40000000,5] false, tcv (0x28 + 3 * 65536) [532479], by decide +kernel⟩,
    ⟨br (wk base (tcv 0x29 [37, 532479])) 1 [1,0x40000000,37] true, tcv 0x29 [37, 532479], by decide +kernel⟩,
    ⟨{ ck base (.forget 37) with clerk := { (ck base (.forget 37)).clerk with forgets := [(5, 1), (37, 532479)] } }, 37, 532479, by decide +kernel, by decide +kernel, by decide +kernel, by decide +kernel,
      fun k h1 h2 => by
        have h : k = 532479 := by omega
        subst h; decide +kernel⟩,
    ⟨nm (wk base (tcv (0x2A + 0x1000) [0])) [], tcv (0x2A + 0x1000) [0], by decide +kernel⟩,
    ⟨nm (wk base (tcv (0x2A + 0x1000) [0])) [(0x0D, 15, 3, 99, false)], tcv (0x2A + 0x1000) [0], 3, 99, by decide +kernel⟩,
    ⟨sn (wk base (tcv 0x30 (tws ++ [100000, 0, 0xFE]))), tcv 0x30 (tws ++ [100000, 0, 0xFE]), tat, 0, by decide +kernel⟩,
    ⟨sn (wk base (tcv 0x30 (tws ++ [100000, 0, 0xFF]))), tcv 0x30 (tws ++ [100000, 0, 0xFF]), tat, by decide +kernel⟩,
    ⟨((cn (wk base (tcv (0x31 + 0xA00) [5, 1]))).setRg .STB_ING_USED 0 0 1).setRg .STB_ING_USED 0, tcv (0x31 + 0xA00) [5, 1], by decide +kernel⟩,
    ⟨cn (wk base (tcv (0x31 + 0xF00) [5, 4])), tcv (0x31 + 0xF00) [5, 4], by decide +kernel⟩,
    ⟨tk (wkr base (rcv 0x38 (tws2 ++ [3]))), rcv 0x38 (tws2 ++ [3]), tat2, 0, by decide +kernel⟩,
    ⟨tk (wkr base (rcv 0x38 [1000000000, 0, 0, 3])), rcv 0x38 [1000000000, 0, 0, 3], by decide +kernel⟩,
    ⟨wkr base { rcv 0x3C [0, 4 * img.length] with data := img }, { rcv 0x3C [0, 4 * img.length] with data := img }, ⟨rfl, by decide +kernel, rfl, by decide +kernel⟩, rfl, by decide +kernel, patchOk_img⟩,
    ⟨wkr base { rcv 0x3C [0, 5] with data := [1] }, { rcv 0x3C [0, 5] with data := [1] }, by decide +kernel⟩,
    ⟨{ ck base .patch with clerk := { base.clerk with patches := [⟨tcv 1 [], [1], true⟩] } }, [1], by decide +kernel⟩,
    ⟨sec' { ck base .patch with clerk := { base.clerk with patches := [⟨tcv 1 [], [1], false⟩] } } false, ⟨tcv 1 [], [1], false⟩, [1,2], by decide +kernel⟩,
    ⟨sec { pw base .idle false [1] with clerk := { (pw base .idle false [1]).clerk with hold := [] } } true, ⟨rcv 0x3C [], [1], false⟩, [7], .a, true, by decide +kernel⟩,
    ⟨{ pw base .patch true [1, 2] with clerk := { (pw base .patch true [1, 2]).clerk with hold := [] } }, ⟨rcv 0x3C [], [1, 2], true⟩, by decide +kernel⟩,
    ⟨pw base .idle true img, by decide +kernel⟩,
    ⟨me (wk base (tcv 0x3D [0, resyncAll - 1])), tcv 0x3D [0, resyncAll - 1], by decide +kernel⟩,
    ⟨me (wk base (tcv 0x3D [1, 5])), tcv 0x3D [1, 5], by decide +kernel⟩,
    ⟨po (wk base (tcv 0x3E [1 + 3 * 1024])) 0, tcv 0x3E [1 + 3 * 1024], 1, by decide +kernel⟩,
    ⟨po (wk base (tcv 0x3E [1 + 512])) 0, tcv 0x3E [1 + 512], 1, by decide +kernel⟩,
    ⟨po (wk base (tcv 0x3E [200 + 512])) 0, tcv 0x3E [200 + 512], by decide +kernel⟩,
    ⟨wk base (tcv 0x3F [8 + 1 * 4096]), tcv 0x3F [8 + 1 * 4096], 8, 1, by decide +kernel⟩,
    ⟨br (wk base (tcv (0x28 + 3 * 65536) [532479])) 3 [1,0x40000000,5] false, tcv (0x28 + 3 * 65536) [532479], [7, 532479], by decide +kernel⟩⟩

end WH

namespace WI

def hd (b : State) (held lost : Bool) : State := { b with ckr := { b.ckr with held := held, refLost := lost } }
def st (b : State) (n : Nat) : State := { (((b.setRg .CKR_RUN 0xFFFFFFFF).wr fFOL_BOOT_STATUS_STATE n).wr fCKR_RESET_STATUS_CAUSE 1) with fol := { b.fol with tamper := false, tackSel := 3, secs := [], wait := none, rec_ := none, flOp := none, otpOp := none, otp := none, burnt := [], readErr := false }, ckr := { b.ckr with waits := [] } }
def fu : Fuses := { State.reset.fol.fuses with secure := true, debugLock := true, rollback := 7, keyRevoke := 5, bad := [] }
def hdr : List Word := let h : List Word := [0x464F4C49, 0xEF950001, 9, 608, 0x100, 77, 0] ; h ++ [BitVec.ofNat 32 (crc32 0 0xFFFFFFFF (wordsBytes (h ++ body)))] ++ body
  where body : List Word := List.replicate 24 1 ++ [1, 512, 0, BitVec.ofNat 32 (crc32 0 0xFFFFFFFF [])] ++ List.replicate 92 0
def vf (b : State) (a c : Nat) : State := { ((st b 3).wr fFOL_COPY_STATUS_CAUSE_A a).wr fFOL_COPY_STATUS_CAUSE_B c with fol := { (st b 3).fol with flash := (2^27, false), heads := [hdr, []], fuses := { fu with secure := false, rollback := 0 } } }
def cpy : List Word := hdr ++ List.replicate 24 0
def ap (b : State) (secs : List (Nat × List Word)) (r : Option FolRec) : State := { (ready b).wr fFOL_BOOT_STATUS_STATE 4 with fol := { (st b 4).fol with secs := secs, rec_ := r, short := false } }
def tri (r : Reg) (i : Nat) : List Word := [BitVec.ofNat 32 (Reg.addr r 0 i), 0xFF00FF, 0x12345678, 9]
def hadr : Nat := (List.range 0x100000).find? (fun a => a % 4 == 0 && (regAt a).isNone && (blockAt a).map (fun x => x.1) == some .HST) |>.getD 0
def wt (b : State) (v d : Nat) : State := let s := ap b [(1, [9])] none; { (s.setRg .RAT_CFG 7).wr fFOL_BOOT_ERR_VALID 0 with fol := { s.fol with wait := some (Reg.addr .RAT_CFG, 6, v, d) } }
def ae (b : State) (dg : Nat) : State := { ap b [] none with fol := { (ap b [] none).fol with digest := dg, startRc := b.tim.rc - 5, again := cpy } }
def fl (b : State) (r : Option (Nat × Nat × Nat)) : State := { (ready b).wr fFOL_FL_CTRL_BUSY 0 with fol := { b.fol with range := r } }

/-- States and operands that meet the hypotheses of `BootImage`, clause by clause. -/
theorem witness_BootImage :
    (∃ (s : State) (a b c : Nat), s.ckr.held = false) ∧
    (∃ (s : State) (a b c : Nat), s.ckr.held = true ∧ s.ckr.refLost = false) ∧
    (∃ (s : State) (a b c : Nat), s.ckr.held = true ∧ s.ckr.refLost = true) ∧
    (∃ (s : State) (f : Fuses) (v : Nat), s.rd fFOL_BOOT_STATUS_STATE ≠ 1) ∧
    (∃ (s : State) (f : Fuses) (v : Nat), s.rd fFOL_BOOT_STATUS_STATE = 1 ∧ s.rd fCKR_RESET_STATUS_CAUSE < 3 ∧ s.fol.tamper = false ∧
      s.ckr.waits = [] ∧ f.bad = [] ∧ f.rollback < 2 ^ 64 ∧ f.keyRevoke < 16 ∧ partVdd v = true ∧ s.fol.tackSel < 8 ∧ s.fol.otp = none ∧
      s.fol.burnt = []) ∧
    (∃ (s : State) (f g : Fuses) (v w : Nat), s.rd fFOL_BOOT_STATUS_STATE = 1 ∧ s.rd fCKR_RESET_STATUS_CAUSE < 3 ∧ s.ckr.waits = [] ∧
      f.bad = [] ∧ partVdd w = true ∧ s.fol.otp = some (g, w)) ∧
    (∃ (s : State) (f : Fuses) (v : Nat), s.fol.otp = none ∧ (v < 680 ∨ 820 < v ∨ v % 5 ≠ 0)) ∧
    (∃ (s : State) (f : Fuses) (v : Nat), s.rd fFOL_BOOT_STATUS_STATE = 1 ∧ s.rd fCKR_RESET_STATUS_CAUSE < 3 ∧ s.ckr.waits = [] ∧
      f.bad = [.secure] ∧ partVdd v = true ∧ s.fol.otp = none ∧ s.fol.burnt = []) ∧
    (∃ (s : State) (n : Nat) (two : Bool) (a b : List Word), (s.rd fFOL_BOOT_STATUS_STATE ≠ 2 ∨ s.runs 4 = false ∧ s.fol.readErr = false)) ∧
    (∃ (s : State) (n : Nat) (two : Bool) (a b : List Word), s.rd fFOL_BOOT_STATUS_STATE = 2 ∧ s.runs 4 = true ∧ s.fol.readErr = false) ∧
    (∃ (s : State) (n : Nat) (two : Bool) (a b : List Word), s.rd fFOL_BOOT_STATUS_STATE = 2 ∧ s.fol.readErr = true) ∧
    (∃ (s : State) (ws k : List Word), (s.rd fFOL_BOOT_STATUS_STATE ≠ 3 ∨ s.runs 4 = false ∧ s.fol.readErr = false)) ∧
    (∃ (s : State) (ws k : List Word), s.rd fFOL_BOOT_STATUS_STATE = 3 ∧ s.runs 4 = true ∧ s.fol.readErr = false ∧ s.copyOrder = []) ∧
    (∃ (s : State) (ws k : List Word) (x : Nat) (l : List Nat), s.rd fFOL_BOOT_STATUS_STATE = 3 ∧ s.runs 4 = true ∧ s.fol.readErr = false ∧
      s.copyOrder = x :: l ∧ s.copyCause ws ≠ 0) ∧
    (∃ (s : State) (ws k : List Word) (x : Nat) (l : List Nat), s.rd fFOL_BOOT_STATUS_STATE = 3 ∧ s.runs 4 = true ∧ s.fol.readErr = false ∧
      s.copyOrder = x :: l ∧ s.copyCause ws = 0 ∧ (dirUsed k).find? (fun d => d.2.ty == 3) = none ∧ x < 2) ∧
    (∃ (s : State) (ws : List Word), headCause ws = 0 ∧ s.fol.fuses.secure = true) :=
  ⟨⟨hd base false true, 1, 2, 3, by decide +kernel⟩,
    ⟨hd base true false, 11, 2, 1, by decide +kernel⟩,
    ⟨hd base true true, 11, 2, 1, by decide +kernel⟩,
    ⟨st base 2, fu, 800, by decide +kernel⟩,
    ⟨st base 1, fu, 800, by decide +kernel⟩,
    ⟨{ st base 1 with fol := { (st base 1).fol with otp := some (fu, 700), burnt := [3, 9] } }, { fu with secure := false }, fu, 800, 700, by decide +kernel⟩,
    ⟨st base 1, fu, 675, by decide +kernel⟩,
    ⟨st base 1, { fu with secure := false, bad := [.secure] }, 800, by decide +kernel⟩,
    ⟨st base 1, 5, true, [], [], by decide +kernel⟩,
    ⟨st base 2, 5, true, [1], hdr, by decide +kernel⟩,
    ⟨{ st base 2 with fol := { (st base 2).fol with readErr := true } }, 5, true, hdr, hdr, by decide +kernel⟩,
    ⟨st base 2, hdr, [3], by decide +kernel⟩,
    ⟨vf base 1 2, hdr, [3], by decide +kernel⟩,
    ⟨vf base 8 8, [1], [3], 0, [1], by decide +kernel⟩,
    ⟨vf base 8 8, cpy, cpy, 0, [1], by decide +kernel⟩,
    ⟨{ vf base 8 8 with fol := { (vf base 8 8).fol with fuses := { fu with secure := true, rollback := 0 } } }, cpy, by decide +kernel⟩⟩

/-- States and operands that meet the hypotheses of `BootApply`, clause by clause. -/
theorem witness_BootApply :
    (∃ (s : State), (s.rd fFOL_BOOT_STATUS_STATE ≠ 4 ∨ s.fol.wait.isSome = true ∨ s.fol.secs = [] ∨ s.fol.readErr = true ∨ s.runs 4 = false)) ∧
    (∃ (s : State) (sec : Nat) (l : List (Nat × List Word)), s.rd fFOL_BOOT_STATUS_STATE = 4 ∧ s.fol.wait = none ∧ s.runs 4 = true ∧
      s.fol.readErr = false ∧ s.fol.secs = (sec, []) :: l ∧ s.fol.rec_ = none) ∧
    (∃ (s : State) (sec n q : Nat) (l : List (Nat × List Word)) (ws : List Word) (r : Reg) (p i j k : Nat) (m v : Word), s.rd fFOL_BOOT_STATUS_STATE = 4 ∧
      s.fol.wait = none ∧ s.runs 4 = true ∧ s.fol.readErr = false ∧ s.fol.rec_ = some ⟨1, 0, q, n + 1, 3, 0⟩ ∧
      s.fol.secs = (sec, word (r.addr p i j k) :: m :: v :: ws) :: l ∧ r ∈ plainRegs ∧ r.desc.block ≠ .HST ∧
      s.blockRuns r.desc.block = true ∧ regAt (r.addr p i j k) = some ⟨r, p, i, j, k⟩) ∧
    (∃ (s : State) (sec : Nat) (l : List (Nat × List Word)) (ws : List Word) (a m v : Word), s.rd fFOL_BOOT_STATUS_STATE = 4 ∧
      s.fol.wait = none ∧ s.runs 4 = true ∧ s.fol.readErr = false ∧ s.fol.rec_ = some ⟨1, 0, 0, 1, 3, 0⟩ ∧
      s.fol.secs = (sec, a :: m :: v :: ws) :: l ∧ (blockAt a.toNat).map (fun x => x.1) = some .HST ∧ s.on fFOL_BOOT_ERR_VALID = false ∧
      sec < 16) ∧
    (∃ (s : State) (sec : Nat) (l : List (Nat × List Word)) (ws : List Word) (m v : Word), s.rd fFOL_BOOT_STATUS_STATE = 4 ∧
      s.fol.wait = none ∧ s.runs 4 = true ∧ s.fol.readErr = false ∧ s.fol.rec_ = some ⟨1, 0, 0, 1, 3, 0⟩ ∧
      s.fol.secs = (sec, word (Reg.addr .FOL_FL_CTRL) :: m :: v :: ws) :: l ∧ s.fol.flOp = none) ∧
    (∃ (s : State) (sec i : Nat) (l : List (Nat × List Word)) (e w : Word) (ws : List Word), s.rd fFOL_BOOT_STATUS_STATE = 4 ∧
      s.fol.wait = none ∧ s.runs 4 = true ∧ s.fol.readErr = false ∧ s.fol.rec_ = none ∧
      s.fol.secs = (sec, word (2 + 0x10 * 2 ^ 8) :: 1 :: word i :: 1 :: e :: ws) :: l ∧ i < 4096 ∧ entReserved 0x10 [e] = false ∧
      s.entArgs 0x10 0 i (entClean 0x10 [e]) = true ∧ w = e) ∧
    (∃ (s : State) (sec n : Nat) (a m v : Word) (ws : List Word) (l : List (Nat × List Word)), s.rd fFOL_BOOT_STATUS_STATE = 4 ∧
      s.fol.wait = none ∧ s.runs 4 = true ∧ s.fol.readErr = false ∧ s.fol.rec_ = none ∧
      s.fol.secs = (sec, word 4 :: word n :: a :: m :: v :: ws) :: l ∧ n < 2 ^ 32) ∧
    (∃ (s : State) (sec : Nat) (ws : List Word) (l : List (Nat × List Word)), s.rd fFOL_BOOT_STATUS_STATE = 4 ∧ s.fol.wait = none ∧
      s.runs 4 = true ∧ s.fol.readErr = false ∧ s.fol.rec_ = none ∧ s.fol.secs = (sec, ws) :: l ∧ ws ≠ [] ∧ recOf ws = none) ∧
    (∃ (s : State), s.fol.wait = none) ∧
    (∃ (s : State) (r : Reg) (p i j k m v d : Nat), r ∈ plainRegs ∧ regAt (r.addr p i j k) = some ⟨r, p, i, j, k⟩ ∧
      s.fol.wait = some (r.addr p i j k, m, v, d)) ∧
    (∃ (s : State) (ws : List Word), s.rd fFOL_BOOT_STATUS_STATE ≠ 4) ∧
    (∃ (s : State) (ws : List Word), s.fol.short = false ∧ s.fol.readErr = false ∧ (s.fol.secs ≠ [] ∨ ws ≠ s.fol.again)) ∧
    (∃ (s : State) (ws : List Word), s.rd fFOL_BOOT_STATUS_STATE = 4 ∧ s.fol.short = true) ∧
    (∃ (s : State) (ws : List Word), s.rd fFOL_BOOT_STATUS_STATE = 4 ∧ s.fol.short = false ∧ s.fol.secs = [] ∧ s.fol.wait = none ∧
      s.fol.readErr = false ∧ ws = s.fol.again ∧ s.copyChanged ws = false) ∧
    (∃ (s : State) (ws : List Word), s.rd fFOL_BOOT_STATUS_STATE = 4 ∧ s.fol.short = false ∧ (s.fol.readErr = true ∨ s.fol.secs = [] ∧
      ws = s.fol.again ∧ s.copyChanged ws = true)) ∧
    (∃ (s : State) (m : Master) (cs op : Nat), s.passes m .FOL_FL_CTRL ∧ s.on fFOL_FL_CTRL_BUSY = false ∧ op < 3 ∧
      s.flashBusyRange op (cs % 2) (s.rd fFOL_FL_ADDR_ADDR) = false) ∧
    (∃ (s : State) (m : Master) (cs op : Nat), s.passes m .FOL_FL_CTRL ∧ s.on fFOL_FL_CTRL_BUSY = false ∧ op < 3 ∧
      s.flashBusyRange op (cs % 2) (s.rd fFOL_FL_ADDR_ADDR) = true ∧ s.hst.rejects.length < 16) ∧
    (∃ (s : State) (k : Bool) (d : List Word), (s.fol.flOp = none ∨ s.runs 4 = false)) ∧
    (∃ (s : State) (k : Bool) (d : List Word) (op cs a : Nat), s.fol.flOp = some (op, cs, a) ∧ s.runs 4 = true) ∧
    (∃ (s : State) (b : Nat) (v : Bool), s.passes .sb .FOL_OTP_PROG ∧ s.gateOpen (some .sb) .FOL 0 = true ∧ s.on fFOL_OTP_PROG_BUSY = false) ∧
    (∃ (s : State) (m : Master) (b : Nat) (v : Bool), m ≠ .sb ∧ s.passes m .FOL_OTP_PROG ∧ s.hst.rejects.length < 16) ∧
    (∃ (s : State), s.fol.otpOp = none) ∧
    (∃ (s : State) (b : Nat), s.fol.otpOp = some b) :=
  ⟨⟨st base 2, by decide +kernel⟩,
    ⟨ap base [(1, []), (2, [3])] none, 1, [(2, [3])], by decide +kernel⟩,
    ⟨(ap base [(1, tri .RAT_CFG 0), (2, [3])] (some ⟨1, 0, 3, 2, 3, 0⟩)).setRg .RAT_CFG 0x3, 1, 1, 3, [(2, [3])], [9], .RAT_CFG, 0, 0, 0, 0, 0xFF00FF, 0x12345678, by decide +kernel⟩,
    ⟨(ap base [(1, tri .HST_PUNT_MAP 2), (2, [3])] (some ⟨1, 0, 0, 1, 3, 0⟩)).wr fFOL_BOOT_ERR_VALID 0, 1, [(2, [3])], [9], BitVec.ofNat 32 (Reg.addr .HST_PUNT_MAP 0 2), 0xFF00FF, 0x12345678, by decide +kernel⟩,
    ⟨{ (ap base [(1, [BitVec.ofNat 32 (Reg.addr .FOL_FL_CTRL), 0xFFFFFFFF, 0xFFFFFFFF, 9]), (2, [3])] (some ⟨1, 0, 0, 1, 3, 0⟩)) with hst := base.hst }, 1, [(2, [3])], [9], 0xFFFFFFFF, 0xFFFFFFFF, by decide +kernel⟩,
    ⟨{ ap base [(1, [0x1002, 1, 77, 1, 5, 8]), (2, [3])] none with lrn := { base.lrn with mirrors := [] } }, 1, 77, [(2, [3])], 5, 5, [8], by decide +kernel⟩,
    ⟨ap base [(1, [4, 77, 1, 5, 8, 9]), (2, [3])] none, 1, 77, 1, 5, 8, [9], [(2, [3])], by decide +kernel⟩,
    ⟨ap base [(1, [9, 77, 1, 5, 8, 9]), (2, [3])] none, 1, [9, 77, 1, 5, 8, 9], [(2, [3])], by decide +kernel⟩,
    ⟨st base 4, by decide +kernel⟩,
    ⟨wt base 6 5, .RAT_CFG, 0, 0, 0, 0, 6, 6, 5, by decide +kernel⟩,
    ⟨st base 3, [1], by decide +kernel⟩,
    ⟨ae base (sha384 ((wordsBytes cpy).take 512)), [1], by decide +kernel⟩,
    ⟨{ ap base [(1,[])] none with fol := { (ap base [] none).fol with short := true } }, [], by decide +kernel⟩,
    ⟨ae base (sha384 ((wordsBytes cpy).take 512)), cpy, by decide +kernel⟩,
    ⟨ae base 9, cpy, by decide +kernel⟩,
    ⟨fl base (some (0, 0x100000, 100)), .a, 1, 2, by decide +kernel⟩,
    ⟨(fl base (some (1, 0x110000, 100))).setRg .FOL_FL_ADDR 0x11FFFF, .a, 1, 2, by decide +kernel⟩,
    ⟨st base 4, true, [1], by decide +kernel⟩,
    ⟨{ st base 4 with fol := { base.fol with flOp := some (0, 1, 5) } }, true, [1,2,3], 0, 1, 5, by decide +kernel⟩,
    ⟨openG ((ready base).wr fFOL_OTP_PROG_BUSY 0) .sb .FOL, 0x123, true, by decide +kernel⟩,
    ⟨openG ((ready base).wr fFOL_OTP_PROG_BUSY 0) .b .FOL, .b, 0x123, true, by decide +kernel⟩,
    ⟨st base 4, by decide +kernel⟩,
    ⟨{ st base 4 with fol := { base.fol with otpOp := some 6, burnt := [5, 7] } }, 6, by decide +kernel⟩⟩

end WI

namespace WJ

def fc (b : State) (slot cfg : Nat) (c : Crossing) (doms : List Dom := []) : State := { b.setRg .FLT_SRC_CFG (BitVec.ofNat 32 cfg) 0 slot with flt := { b.flt with crossing := [⟨7, 2, 3, false, 5, 1⟩, c], doms := doms } }
def cr (slot : Nat) : Crossing := ⟨slot, 3, 0x205, true, 2^70, 2⟩
def EN : Nat := 2^31
def fullD : List Dom := (List.range 32).map fun i => { Dom.fresh (0x2080 + i) with live := true, rec_ := some i, sev := 1 }
def wn (s : State) : State := { s with flt := { s.flt with windows := [(1300, 2^70 - 2^48, 4)] } }
def qd (b : State) (d : Dom) (q : Nat := 1) : State := { ((b.setRg .FLT_SCOPE_CFG (BitVec.ofNat 32 (2 * 2^16 + q)) 0 1).setRg .FLT_SCOPE_WIN 5 0 1).setRg .FLT_SCOPE_CFG (BitVec.ofNat 32 (2 * 2^16 + q)) 0 0 with flt := { b.flt with doms := [d, { Dom.fresh 0x2003 with live := true, rec_ := some 1 }], inputs := [] } }
def dd (sev : Nat) (act rec_ recov : Nat) (b : State) : Dom := { Dom.fresh 0x2014 with live := true, rec_ := some rec_, sev := sev, act := act, told := true, recov := recov, recovWin := some b.tim.rc, quietRc := 0 }
def fin (b : State) (r : Nat) (l : List (Nat × FaultIn)) (pr : List Nat) : State := { b.setRg .FLT_IN_CFG (BitVec.ofNat 32 (EN + r * 2^16 + 0x8000)) with flt := { b.flt with inputs := l, present := pr, doms := [] } }
def ff (b : State) (v : Nat) (pr : List Nat) : State := openG { (ready b).setRg .FLT_FORCE (BitVec.ofNat 32 v) 0 1 with flt := { b.flt with present := pr, doms := [] } } .b .FLT
def ij (b : State) : State := openG { (ready b).setRg .FLT_INJECT_INDEX 77 with flt := { b.flt with marks := [(5, 15, 3, 77, false)], nextMarks := [(9, 15, 1, true)] } } .a .FLT
def dq (s : State) (n : Nat) : State := { s with flt := { s.flt with dayQ := List.replicate n (cr 5, 1, Dom.fresh 7) } }

/-- States and operands that meet the hypotheses of `FaultCollection`, clause by clause. -/
theorem witness_FaultCollection :
    (∃ (s : State) (slot : Nat), s.flt.crossing.find? (·.slot == slot) = none) ∧
    (∃ (s : State) (slot : Nat) (c : Crossing), s.flt.crossing.find? (·.slot == slot) = some c ∧ s.lowerFirst c = false ∧
      s.on fFLT_SRC_CFG_EN 0 slot = false) ∧
    (∃ (s : State) (slot : Nat) (c : Crossing), s.flt.crossing.find? (·.slot == slot) = some c ∧ s.lowerFirst c = true) ∧
    (∃ (s : State) (slot r : Nat) (c : Crossing), s.flt.crossing.find? (·.slot == slot) = some c ∧ s.lowerFirst c = false ∧
      s.on fFLT_SRC_CFG_EN 0 slot = true ∧ s.on fFLT_SRC_CFG_COUNTED 0 slot = false ∧ s.rd fFLT_SRC_CFG_SEV 0 slot < 3 ∧ slot < 2048 ∧
      (s.dom (s.slotDom slot c.detail)).live = false ∧ s.freeRec = some r) ∧
    (∃ (s : State) (slot : Nat) (c : Crossing), s.flt.crossing.find? (·.slot == slot) = some c ∧ s.lowerFirst c = false ∧
      s.on fFLT_SRC_CFG_EN 0 slot = true ∧ s.on fFLT_SRC_CFG_COUNTED 0 slot = false ∧ s.rd fFLT_SRC_CFG_SEV 0 slot < 3 ∧
      (s.dom (s.slotDom slot c.detail)).live = true) ∧
    (∃ (s : State) (slot : Nat) (c : Crossing), s.flt.crossing.find? (·.slot == slot) = some c ∧ s.lowerFirst c = false ∧
      s.on fFLT_SRC_CFG_EN 0 slot = true ∧ s.on fFLT_SRC_CFG_COUNTED 0 slot = false ∧ s.rd fFLT_SRC_CFG_SEV 0 slot < 3 ∧ slot < 2048 ∧
      (s.dom (s.slotDom slot c.detail)).live = false ∧ s.freeRec = none) ∧
    (∃ (s t : State) (c : Crossing) (sev : Nat) (d : Dom) (q : List (Crossing × Nat × Dom)), t = s.daybookNext ∧
      s.flt.dayQ = (c, sev, d) :: q ∧ sev < 4 ∧ c.slot < 4096 ∧ d.id < 65536) ∧
    (∃ (s : State) (slot : Nat) (c : Crossing), s.flt.crossing.find? (·.slot == slot) = some c ∧ s.lowerFirst c = false ∧
      s.on fFLT_SRC_CFG_EN 0 slot = true ∧ s.on fFLT_SRC_CFG_COUNTED 0 slot = false ∧ s.rd fFLT_SRC_CFG_SEV 0 slot = 3) ∧
    (∃ (s : State) (slot t0 n : Nat) (c : Crossing), s.flt.crossing.find? (·.slot == slot) = some c ∧ s.lowerFirst c = false ∧
      s.on fFLT_SRC_CFG_EN 0 slot = true ∧ s.on fFLT_SRC_CFG_COUNTED 0 slot = true ∧
      s.flt.windows.find? (·.1 == slot) = some (slot, t0, n) ∧ c.ct < t0 + s.fltWin slot ∧ s.rd fFLT_SRC_CFG_REACT 0 slot = 0 ∧
      s.rd fFLT_SRC_CFG_SEV 0 slot < 3 ∧ (s.dom (s.slotDom slot c.detail)).live = false) ∧
    (∃ (s : State) (slot : Nat) (c : Crossing), s.flt.crossing.find? (·.slot == slot) = some c ∧ s.lowerFirst c = false ∧
      s.on fFLT_SRC_CFG_EN 0 slot = true) :=
  ⟨⟨{ base with flt := { base.flt with crossing := [cr 9] } }, 8, by decide +kernel⟩,
    ⟨fc base 1300 0 (cr 1300), 1300, cr 1300, by decide +kernel⟩,
    ⟨let s := fc base 1300 0 (cr 1300); { s with flt := { s.flt with crossing := [⟨7, 2, 3, false, 5, 1⟩, cr 1300, { cr 1044 with detail := 0x205, ct := 2^70 + 1 }] } }, 1300, cr 1300, by decide +kernel⟩,
    ⟨fc base 1300 (EN + 2 * 2^26) (cr 1300), 1300, 0, cr 1300, by decide +kernel⟩,
    ⟨fc base 1300 (EN + 1 * 2^26) (cr 1300) [{ Dom.fresh 0x2014 with live := true, rec_ := some 0, sev := 2, merged := 9 }], 1300, cr 1300, by decide +kernel⟩,
    ⟨fc base 1300 (EN + 1 * 2^26) (cr 1300) fullD, 1300, cr 1300, by decide +kernel⟩,
    ⟨dq base 3, (dq base 3).daybookNext, cr 5, 1, Dom.fresh 7, [(cr 5, 1, Dom.fresh 7), (cr 5, 1, Dom.fresh 7)], by decide +kernel⟩,
    ⟨fc base 1300 (EN + 2^30 + 2^28 + 3 * 2^26) (cr 1300), 1300, cr 1300, by decide +kernel⟩,
    ⟨wn (fc base 1300 (EN + 2^25 + 0 * 2^26 + 10 * 2^16 + 7) (cr 1300)), 1300, 2^70 - 2^48, 4, cr 1300, by decide +kernel⟩,
    ⟨fc base 1300 (EN + 2^30 + 2^28 + 3 * 2^26) (cr 1300), 1300, cr 1300, by decide +kernel⟩⟩

/-- States and operands that meet the hypotheses of `FaultRecovery`, clause by clause. -/
theorem witness_FaultRecovery :
    (∃ (s : State) (id : Nat), (s.levelIn id = true ∨ s.tim.rc < (s.dom id).quietRc + s.quietLen id)) ∧
    (∃ (s : State) (id : Nat), ((s.dom id).live = false ∨ (s.dom id).latched = true) ∧ (∀ k < 17, (s.input k).masked = false)) ∧
    (∃ (s : State) (id r : Nat), s.levelIn id = false ∧ (s.dom id).quietRc + s.quietLen id ≤ s.tim.rc ∧ (s.dom id).live = true ∧
      (s.dom id).latched = false ∧ (s.dom id).sev < 2 ∧ (s.dom id).rec_ = some r ∧ (∀ d ∈ s.flt.doms, d.norec = none) ∧
      (∀ k < 17, (s.input k).masked = false)) ∧
    (∃ (s : State) (id r : Nat), s.levelIn id = false ∧ (s.dom id).quietRc + s.quietLen id ≤ s.tim.rc ∧ (s.dom id).live = true ∧
      (s.dom id).latched = false ∧ 2 ≤ (s.dom id).sev ∧ (s.dom id).rec_ = some r ∧ (∀ d ∈ s.flt.doms, d.norec = none) ∧
      (∀ k < 17, (s.input k).masked = false) ∧ (s.recoveries (s.dom id)).1 ≤ s.rd fFLT_SCOPE_CFG_REC_LIMIT 0 (domLevel id)) ∧
    (∃ (s : State) (id r : Nat), s.levelIn id = false ∧ (s.dom id).quietRc + s.quietLen id ≤ s.tim.rc ∧ (s.dom id).live = true ∧
      (s.dom id).latched = false ∧ 2 ≤ (s.dom id).sev ∧ (s.dom id).sev < 4 ∧ (s.dom id).rec_ = some r ∧ (s.dom id).id = id ∧ id < 65536 ∧
      (∀ k < 17, (s.input k).masked = false) ∧ s.rd fFLT_SCOPE_CFG_REC_LIMIT 0 (domLevel id) < (s.recoveries (s.dom id)).1) ∧
    (∃ (s : State) (m : Master) (id r : Nat), s.passes m .FLT_DOM_CLEAR ∧ id < 65536 ∧ (s.dom id).live = true ∧ (s.dom id).rec_ = some r ∧
      (∀ d ∈ s.flt.doms, d.norec = none) ∧ s.levelIn id = false) ∧
    (∃ (s : State) (m : Master) (id : Nat), s.passes m .FLT_DOM_CLEAR ∧ id < 65536 ∧ (s.dom id).live = false) :=
  ⟨⟨qd base { dd 2 1 4 0 base with quietRc := base.tim.rc }, 0x2014, by decide +kernel⟩,
    ⟨qd base { dd 2 1 4 0 base with latched := true }, 0x2014, by decide +kernel⟩,
    ⟨qd base (dd 1 0 4 0 base), 0x2014, 4, by decide +kernel⟩,
    ⟨qd base (dd 2 1 4 1 base), 0x2014, 4, by decide +kernel⟩,
    ⟨qd base (dd 3 1 4 2 base), 0x2014, 4, by decide +kernel⟩,
    ⟨qd (ready base) (dd 3 1 4 2 base), .a, 0x2014, 4, by decide +kernel⟩,
    ⟨qd (ready base) (dd 3 1 4 2 base), .sb, 0x2015, by decide +kernel⟩⟩

/-- States and operands that meet the hypotheses of `FaultTesting`, clause by clause. -/
theorem witness_FaultTesting :
    (∃ (s : State), s.on fFLT_IN_CFG_EN = true ∧ (s.input 0).asserted = false ∧ (s.input 0).masked = false ∧ s.rd fFLT_IN_CFG_RATE_MAX = 0 ∧
      s.isPresent 70 = false) ∧
    (∃ (s : State), (s.input 0).asserted = true ∧ (s.input 0).masked = false) ∧
    (∃ (s : State) (k : Nat) (h : Bool), 16 < k) ∧
    (∃ (s : State) (i : Nat), i < 16 ∧ s.rd fFLT_GPIO_MODE 0 i = 2 ∧ s.on fFLT_GPIO_POL 0 i = true ∧ (s.input (1 + i)).asserted = false ∧
      (s.input (1 + i)).masked = false ∧ s.rd fFLT_GPIO_RATE_MAX 0 i = 0 ∧ s.isPresent (71 + i) = false) ∧
    (∃ (s : State), s.on fFLT_IN_CFG_EN = true ∧ (s.input 0).asserted = false ∧ (s.input 0).masked = false ∧ s.rd fFLT_IN_CFG_RATE_MAX ≠ 0 ∧
      s.rd fFLT_IN_CFG_RATE_MAX = (s.inTimes 0).length) ∧
    (∃ (s : State) (m : Master) (j b : Nat) (k : FKind), s.passes m .FLT_FORCE 0 j ∧ s.gateOpen (some m) .FLT 0 = true ∧ j < 64 ∧ b < 32 ∧
      slotKind (32 * j + b) = some k ∧ k.src.level = false ∧ s.rg .FLT_FORCE 0 j = 0) ∧
    (∃ (s : State) (m : Master) (j b : Nat) (k : FKind), s.passes m .FLT_FORCE 0 j ∧ s.gateOpen (some m) .FLT 0 = true ∧ j < 64 ∧ b < 32 ∧
      slotKind (32 * j + b) = some k ∧ k.src.level = true ∧ s.rg .FLT_FORCE 0 j = 0 ∧ s.isPresent (32 * j + b) = false) ∧
    (∃ (s : State) (m : Master) (j b : Nat) (k : FKind), s.passes m .FLT_FORCE 0 j ∧ s.gateOpen (some m) .FLT 0 = true ∧ j < 64 ∧ b < 32 ∧
      slotKind (32 * j + b) = some k ∧ k.src.level = true ∧ s.rg .FLT_FORCE 0 j = word (2 ^ b)) ∧
    (∃ (s : State) (m : Master) (ck p rep : Nat) (d : Bool), s.passes m .FLT_INJECT ∧ s.gateOpen (some m) .FLT 0 = true ∧ 1 ≤ ck ∧
      ck ≤ 0x27 ∧ p < 8 ∧ rep ≤ 2) ∧
    (∃ (s : State) (m : Master) (ck p rep : Nat) (d : Bool), s.passes m .FLT_INJECT ∧ s.gateOpen (some m) .FLT 0 = true ∧ 1 ≤ ck ∧
      ck ≤ 0x26 ∧ p < 8 ∧ rep ≤ 2) ∧
    (∃ (s : State) (m : Master) (p rep : Nat) (d : Bool), s.passes m .FLT_INJECT ∧ s.gateOpen (some m) .FLT 0 = true ∧ p < 8 ∧ rep ≤ 2 ∧
      s.hst.rejects.length < 16) ∧
    (∃ (s : State) (id : Nat), (∀ o ∈ s.flt.present, s.on fFLT_SRC_CFG_EN 0 (o % 4096) = false)) :=
  ⟨⟨fin base 0 [] [4], by decide +kernel⟩,
    ⟨fin base 0 [(0, ⟨true, false, [5]⟩)] [70, 4], by decide +kernel⟩,
    ⟨base, 17, true, by decide +kernel⟩,
    ⟨fin (base.setRg .FLT_GPIO 0x6 0 1) 0 [] [4], 1, by decide +kernel⟩,
    ⟨fin base 3 [(0, ⟨false, false, [base.tim.rc - 5, base.tim.rc - 4, base.tim.rc - 4]⟩)] [4], by decide +kernel⟩,
    ⟨ff base 0 [], .b, 1, 1, .DRM_ECC_CORR, by decide +kernel⟩,
    ⟨ff base 0 [5], .b, 1, 30, .CKR_D2D_LINK, by decide +kernel⟩,
    ⟨ff base (2^30) [5, 62 + 4096], .b, 1, 30, .CKR_D2D_LINK, by decide +kernel⟩,
    ⟨ij base, .a, 5, 3, 1, true, by decide +kernel⟩,
    ⟨ij base, .a, 9, 3, 2, true, by decide +kernel⟩,
    ⟨{ ij base with hst := { (ij base).hst with rejects := [] } }, .a, 3, 0, true, by decide +kernel⟩,
    ⟨{ base.setRg .FLT_SRC_CFG 0 0 70 with flt := { base.flt with present := [70] } }, 0, by decide +kernel⟩⟩

end WJ

namespace WK

def cg (b : State) : State := openG { ready b with ckr := { b.ckr with pulses := [], stopping := [2], starting := [3], waits := [] } } .a .CKR
def idleOct (b : State) (p : Nat) : State := (List.range 4).foldl (fun s o => s.setRg .PRT_OCT_MODE 0 p o) b
def noOct (b : State) : State := { (List.range 8).foldl (fun s p => (List.range 8).foldl (fun s o => s.setRg .PRT_OCT_MODE 0 p o) s) b with }
def acc (b : State) (x : Nat) (q : Nat) (w : Option Word) : Access := { crossing := x, master := q, since := 5, offset := 0x12340, write := w, hung := false, sec := 0, late := false }
def up (b : State) (p v : Nat) : State := (cg b).wr fCKR_D2D_STATUS_UP v 0 p
def tr (b : State) (p t : Nat) : State := { up b p 0 with ckr := { b.ckr with trainAt := [(2, 7), (p, t)] } }
def fl (b : State) (n : Nat) : State := { up b 4 1 with ckr := { b.ckr with flits := List.replicate n (4, b.tim.rc - 5) ++ List.replicate 20 (4, 0) ++ List.replicate 20 (3, b.tim.rc) }, fwd := { b.fwd with rx := [] } }
def st (b : State) : State := { ((cg b).setRg .GEN_STRAPS 0x1F).setRg .HST_MODE 3 with fol := { b.fol with tackSel := 2, burnt := [3] } }
def rl (b : State) (h : Bool) : State := { st b with ckr := { b.ckr with refLost := true, held := h } }
def live : Dom := { Dom.fresh 0x2014 with live := true, rec_ := some 2, sev := 2, act := 1, recov := 2 }
def dq (b : State) (st : Bool) : State := { cg b with ckr := { b.ckr with pulses := [], waits := [], stopping := [3] }, drm := { b.drm with waiting := if st then [] else [⟨2, true, 0, [], [], 5⟩, ⟨3, false, 64, [], [], 5⟩], queues := [((0, 0), [⟨4, false, 64, [], [], 5⟩, ⟨2, true, 128, [], [], 5⟩])], units := [⟨3, [], .ok, [], 0, [(4, 64, false)], []⟩] } }
def st' (b : State) : State := (cg b).setRg .HST_MODE 3
def onp (b : State) : State := { ((((fl b 3).wr fPRT_OCT_STATUS_ACTIVE_MODE 1 4 0).setPrt fPRT_STATE_STATE 128 2)) with fwd := { b.fwd with rx := [] }, cnts := [], saved := [], epoch := none }
def onpl (b : State) : List Nat := [(onp b).rxRoute ((onp b).portLanes 128 |>.getD 0 0), (onp b).rxRoute ((onp b).portLanes 128 |>.getD 2 0), 5]

/-- No port outside pipeline 4 is named where no port of it receives. -/
theorem no_rx {s : State} {p : Nat} (h : ∀ j < 32, s.rxOn (32 * p + j) = false) : ∀ k, s.rxOn k = true → k / 32 ≠ p := fun k hk e => by
  have g := h (k % 32) (Nat.mod_lt _ (by decide))
  rw [← e, show 32 * (k / 32) + k % 32 = k by omega, hk] at g
  cases g
/-- What holds of the one receiving port of a pipeline holds of each. -/
theorem one_rx {s : State} {p n : Nat} {q : Nat → Prop} (h : ∀ j < 32, j ≠ n → s.rxOn (32 * p + j) = false) :
    ∀ k, s.rxOn k = true → k / 32 = p → k ≠ 32 * p + n → q k := fun k hk e hn => by
  have g := h (k % 32) (Nat.mod_lt _ (by decide)) (by omega)
  rw [← e, show 32 * (k / 32) + k % 32 = k by omega, hk] at g
  cases g

/-- States and operands that meet the hypotheses of `ClockStops`, clause by clause. -/
theorem witness_ClockStops :
    (∃ (s : State) (m : Master) (p : Nat), s.passes m .CKR_STOP ∧ s.gateOpen (some m) .CKR 0 = true ∧ p < 8 ∧
      bitOf (s.rg .CKR_STOP).toNat (8 + p) = false ∧ s.chipletBusy p = false ∧ s.runs (8 + p) = true) ∧
    (∃ (s : State) (m : Master) (p : Nat), s.passes m .CKR_STOP ∧ s.gateOpen (some m) .CKR 0 = true ∧ p < 8 ∧
      bitOf (s.rg .CKR_STOP).toNat (8 + p) = true ∧ s.runs (8 + p) = false) ∧
    (∃ (s : State) (m : Master) (p : Nat), s.passes m .CKR_STOP ∧ s.gateOpen (some m) .CKR 0 = true ∧ p < 8 ∧
      bitOf (s.rg .CKR_STOP).toNat (8 + p) = false ∧ s.chipletBusy p = true) ∧
    (∃ (s : State) (k : Nat), k ∉ s.ckr.stopping) ∧
    (∃ (s : State) (k : Nat), k ∈ s.ckr.stopping ∧ k < 8 ∧ (k ≠ 3 ∨ s.dramInside = false)) ∧
    (∃ (s : State), (s.drm.waiting ≠ [] ∨ (∃ q ∈ s.drm.queues, q.2 ≠ []))) ∧
    (∃ (s : State) (p : Nat), 8 + p ∈ s.ckr.stopping ∧ p < 8) ∧
    (∃ (s : State) (k : Nat), k ∉ s.ckr.starting) ∧
    (∃ (s : State) (k : Nat), k ∈ s.ckr.starting ∧ k < 8 ∧ s.ckr.waits = []) ∧
    (∃ (s : State) (p : Nat), 8 + p ∈ s.ckr.starting ∧ p < 8) ∧
    (∃ (s : State), (s.on fCKR_PLL_STATUS_DCLK_LOCK = true ∨ s.rd fFOL_BOOT_STATUS_STATE < 2)) ∧
    (∃ (s : State), s.on fCKR_PLL_STATUS_DCLK_LOCK = false ∧ 2 ≤ s.rd fFOL_BOOT_STATUS_STATE ∧ s.ckr.waits = []) :=
  ⟨⟨(noOct (cg base)).setRg .CKR_STOP 0x20, .a, 5, by decide +kernel⟩,
    ⟨(((cg base).setRg .CKR_STOP 0x2020)).setRg .CKR_RUN 0x0, .a, 5, by decide +kernel⟩,
    ⟨((noOct (cg base)).setRg .CKR_STOP 0x20).wr fPRT_OCT_STATUS_ACTIVE_MODE 1 5 1, .a, 5, by decide +kernel⟩,
    ⟨cg base, 7, by decide +kernel⟩,
    ⟨cg base, 2, by decide +kernel⟩,
    ⟨dq base true, by decide +kernel⟩,
    ⟨{ cg base with ckr := { base.ckr with stopping := [9, 13] }, tim := { base.tim with calRun := [(5, 2), (2, 3)] } }, 5, by decide +kernel⟩,
    ⟨cg base, 7, by decide +kernel⟩,
    ⟨cg base, 3, by decide +kernel⟩,
    ⟨{ cg base with ckr := { base.ckr with starting := [9, 13] } }, 5, by decide +kernel⟩,
    ⟨base.wr fCKR_PLL_STATUS_DCLK_LOCK 1, by decide +kernel⟩,
    ⟨((cg base).wr fCKR_PLL_STATUS_DCLK_LOCK 0).setRg .CKR_STOP 0x8, by decide +kernel⟩⟩

/-- States and operands that meet the hypotheses of `Crossings`, clause by clause. -/
theorem witness_Crossings :
    (∃ (s : State) (x : Nat), s.hungAt x = none) ∧
    (∃ (s : State) (x : Nat) (a : Access), s.ckr.waits = [a] ∧ a.crossing = x ∧ a.hung = false ∧ a.since + ns 64000 ≤ s.tim.rc ∧ x < 18 ∧
      a.master < 4 ∧ s.on fCKR_HUNG_LAST_VALID = false ∧ s.on fCKR_XCFG_AUTO_XRESET = false) ∧
    (∃ (s : State) (x : Nat) (a : Access), s.ckr.waits = [a] ∧ a.crossing = x ∧ a.hung = false ∧ a.since + ns 64000 ≤ s.tim.rc ∧
      a.master = 0 ∧ s.on fCKR_XCFG_AUTO_XRESET = true) ∧
    (∃ (s : State) (m : Master) (x : Nat), s.passes m .CKR_XRESET ∧ s.gateOpen (some m) .CKR 0 = true ∧ x < 18 ∧ x ≠ 8 ∧
      (∀ a ∈ s.ckr.waits, a.crossing ≠ x) ∧ s.ckr.pulses = [] ∧ (x ≠ 9 ∨ s.runs 4 = true)) ∧
    (∃ (s : State) (m : Master), s.passes m .CKR_XRESET ∧ s.gateOpen (some m) .CKR 0 = true ∧ (∀ a ∈ s.ckr.waits, a.crossing ≠ 8) ∧
      s.ckr.pulses = []) ∧
    (∃ (s : State) (m q : Master) (x : Nat) (a : Access) (l : List Access), s.passes m .CKR_XRESET ∧ s.gateOpen (some m) .CKR 0 = true ∧
      x < 18 ∧ s.ckr.waits = a :: l ∧ a.crossing = x ∧ (∀ b ∈ l, b.crossing ≠ x) ∧ s.ckr.pulses = [] ∧ a.master = q.num + 1 ∧
      a.late = false ∧ a.write = none) ∧
    (∃ (s : State) (m : Master) (x : Nat) (a : Access), s.passes m .CKR_XRESET ∧ s.gateOpen (some m) .CKR 0 = true ∧ x < 18 ∧
      s.ckr.waits = [a] ∧ a.crossing = x ∧ s.ckr.pulses = [] ∧ a.late = true) ∧
    (∃ (s : State) (m q : Master) (x : Nat) (w : Word) (a : Access) (l : List Access), s.passes m .CKR_XRESET ∧
      s.gateOpen (some m) .CKR 0 = true ∧ x < 18 ∧ s.ckr.waits = a :: l ∧ a.crossing = x ∧ (∀ b ∈ l, b.crossing ≠ x) ∧ s.ckr.pulses = [] ∧
      a.master = q.num + 1 ∧ a.late = false ∧ a.write = some w ∧ s.hst.rejects.length < 16) ∧
    (∃ (s : State) (m : Master) (op : Nat × Nat × Nat), s.passes m .CKR_XRESET ∧ s.gateOpen (some m) .CKR 0 = true ∧ s.ckr.waits = [] ∧
      s.runs 4 = false ∧ s.fol.flOp = some op) ∧
    (∃ (s : State) (m : Master) (x : Nat) (w : Pulse) (b : Bool), s.passes m .CKR_XRESET ∧ s.gateOpen (some m) .CKR 0 = true ∧ x < 18 ∧
      s.ckr.waits = [] ∧ s.ckr.pulses = [(x, w, b)]) ∧
    (∃ (s : State) (r : DramReq) (l : List DramReq), s.ckr.waits = [] ∧ s.dclkOn = false ∧ s.drm.waiting = r :: l ∧
      r.since + ns 64000 ≤ s.tim.rc ∧ (∀ a, AMap.get? s.ckr.acted 8 = some a → a < r.since) ∧ s.on fCKR_XCFG_AUTO_XRESET = false) ∧
    (∃ (s : State) (t0 : Nat), s.ckr.waits = [] ∧ s.runs 4 = false ∧ s.bootReadAt = some t0 ∧ t0 + ns 64000 ≤ s.tim.rc ∧
      (∀ a, AMap.get? s.ckr.acted 9 = some a → a < t0)) :=
  ⟨⟨cg base, 4, by decide +kernel⟩,
    ⟨{ ((cg base).wr fCKR_HUNG_LAST_VALID 0).wr fCKR_XCFG_AUTO_XRESET 0 with ckr := { base.ckr with waits := [acc base 9 2 none] } }, 9, acc base 9 2 none, by decide +kernel⟩,
    ⟨{ (cg base).wr fCKR_XCFG_AUTO_XRESET 1 with ckr := { base.ckr with waits := [acc base 9 0 none] } }, 9, acc base 9 0 none, by decide +kernel⟩,
    ⟨{ cg base with ckr := { base.ckr with pulses := [], waits := [acc base 9 2 none] } }, .a, 12, by decide +kernel⟩,
    ⟨{ cg base with ckr := { base.ckr with pulses := [], waits := [acc base 9 2 none] } }, .a, by decide +kernel⟩,
    ⟨{ cg base with ckr := { base.ckr with pulses := [], waits := [acc base 9 2 none, acc base 7 1 (some 5)] } }, .a, .b, 9, acc base 9 2 none, [acc base 7 1 (some 5)], by decide +kernel⟩,
    ⟨{ cg base with ckr := { base.ckr with pulses := [], waits := [{ acc base 7 2 none with late := true }] } }, .a, 7, { acc base 7 2 none with late := true }, by decide +kernel⟩,
    ⟨{ cg base with ckr := { base.ckr with pulses := [], waits := [acc base 9 3 (some 77), acc base 7 1 (some 5)] } }, .a, .sb, 9, 77, acc base 9 3 (some 77), [acc base 7 1 (some 5)], by decide +kernel⟩,
    ⟨{ cg base with ckr := { (cg base).ckr with waits := [] }, fol := { base.fol with flOp := some (1, 0, 5) } } |> (·.setRg .CKR_RUN 0xFFFFFFEF), .a, (1, 0, 5), by decide +kernel⟩,
    ⟨{ cg base with ckr := { (cg base).ckr with pulses := [(3, .msi .b 4, true)] } }, .a, 3, .msi .b 4, true, by decide +kernel⟩,
    ⟨{ ((cg base).setRg .CKR_RUN 0xFFFFFFF7) with drm := { base.drm with waiting := [⟨2, true, 0, List.replicate 64 1, List.replicate 64 true, 5⟩] } } |> (fun s => (s.wr fCKR_XSTATUS_HUNG 0 0 8).wr fCKR_XCFG_AUTO_XRESET 0), ⟨2, true, 0, List.replicate 64 1, List.replicate 64 true, 5⟩, [], by decide +kernel⟩,
    ⟨{ (((st' base).setRg .CKR_RUN 0xFFFFFFEF).wr fFOL_BOOT_STATUS_STATE 2).wr fCKR_XCFG_AUTO_XRESET 1 with fol := { base.fol with readErr := false, readRc := 5 }, ckr := { base.ckr with waits := [], acted := [], fclkOff := 7 } }, 7, by decide +kernel⟩⟩

/-- States and operands that meet the hypotheses of `ChipletLinks`, clause by clause. -/
theorem witness_ChipletLinks :
    (∃ (s : State) (p : Nat), (s.chipletRuns p = false ∨ s.on fCKR_D2D_STATUS_UP 0 p = true ∨ s.rd fFOL_BOOT_STATUS_STATE = 0)) ∧
    (∃ (s : State) (p : Nat), p < 8 ∧ s.chipletRuns p = true ∧ s.on fCKR_D2D_STATUS_UP 0 p = false ∧ s.rd fFOL_BOOT_STATUS_STATE ≠ 0) ∧
    (∃ (s : State) (p : Nat) (k : Bool) (l : List Nat), s.on fCKR_D2D_STATUS_UP 0 p = false) ∧
    (∃ (s : State) (p : Nat) (l : List Nat), s.on fCKR_D2D_STATUS_UP 0 p = true) ∧
    (∃ (s : State) (p : Nat) (l : List Nat), s.on fCKR_D2D_STATUS_UP 0 p = true ∧
      (s.ckr.flits.countP fun f => f.1 == p && decide (s.tim.rc < f.2 + ns 1000000)) < 15 ∧ (∀ k, s.rxOn k = true → k / 32 ≠ p)) ∧
    (∃ (s : State) (p k : Nat) (l : List Nat), s.on fCKR_D2D_STATUS_UP 0 p = true ∧
      (s.ckr.flits.countP fun f => f.1 == p && decide (s.tim.rc < f.2 + ns 1000000)) < 15 ∧ p < 8 ∧ s.rxOn k = true ∧ k / 32 = p ∧
      (∀ j, s.rxOn j = true → j / 32 = p → j ≠ k → ∀ q ∈ s.portLanes j, s.rxRoute q ∉ l) ∧ (∃ q ∈ s.portLanes k, s.rxRoute q ∈ l)) ∧
    (∃ (s : State) (p : Nat) (l : List Nat), s.on fCKR_D2D_STATUS_UP 0 p = true ∧
      15 ≤ (s.ckr.flits.countP fun f => f.1 == p && decide (s.tim.rc < f.2 + ns 1000000))) ∧
    (∃ (s : State) (p t0 : Nat), AMap.get? s.ckr.trainAt p = some t0 ∧ s.chipletRuns p = true ∧ s.on fCKR_D2D_STATUS_UP 0 p = false ∧
      t0 + ns 10000000 ≤ s.tim.rc) ∧
    (∃ (s : State) (p : Nat), ((∀ t0, AMap.get? s.ckr.trainAt p = some t0 → s.tim.rc < t0 + ns 10000000) ∨ s.chipletRuns p = false ∨ s.on fCKR_D2D_STATUS_UP 0 p = true)) ∧
    (∃ (s : State) (p : Nat), p < 8) ∧
    (∃ (s : State) (m : Master) (p : Nat), s.passes m .CKR_CHIPLET_RESET ∧ s.gateOpen (some m) .CKR 0 = true ∧ p < 8 ∧
      bitOf (s.rg .CKR_STOP).toNat (8 + p) = false ∧ s.rawPorts p = [] ∧ (∀ a ∈ s.ckr.waits, a.crossing ≠ 10 + p)) ∧
    (∃ (s : State) (m : Master) (p : Nat), s.passes m .CKR_CHIPLET_RESET ∧ s.gateOpen (some m) .CKR 0 = true ∧ p < 8 ∧
      bitOf (s.rg .CKR_STOP).toNat (8 + p) = true) :=
  ⟨⟨(up base 4 0).setRg .CKR_STOP 0x1000, 4, by decide +kernel⟩,
    ⟨(up base 4 0).setRg .CKR_STOP 0x800, 4, by decide +kernel⟩,
    ⟨up base 4 0, 4, true, [3], by decide +kernel⟩,
    ⟨up base 4 1, 4, [3], by decide +kernel⟩,
    ⟨fl base 14, 4, [3], by decide +kernel, by decide +kernel, no_rx (by decide +kernel)⟩,
    ⟨onp base, 4, 128, onpl base, by decide +kernel, by decide +kernel, by decide, by decide +kernel, by decide, one_rx (n := 0) (by decide +kernel), by decide +kernel⟩,
    ⟨fl base 15, 4, [3], by decide +kernel⟩,
    ⟨{ (tr base 4 7).setRg .CKR_STOP 0 with tim := { base.tim with rc := 2^80 } }, 4, 7, by decide +kernel⟩,
    ⟨tr base 4 (base.tim.rc - 1), 4, by decide +kernel⟩,
    ⟨up base 4 1, 4, by decide +kernel⟩,
    ⟨(noOct (up base 4 1)).setRg .CKR_STOP 0, .a, 4, by decide +kernel⟩,
    ⟨(noOct (up base 4 1)).setRg .CKR_STOP 0x1000, .a, 4, by decide +kernel⟩⟩

/-- States and operands that meet the hypotheses of `Resets`, clause by clause. -/
theorem witness_Resets :
    (∃ (s : State), s.ckr.refLost = false) ∧
    (∃ (s : State), s.ckr.refLost = true ∧ s.ckr.held = true) ∧
    (∃ (s : State), s.ckr.refLost = true ∧ s.ckr.held = false) ∧
    (∃ (s : State) (m : Master), s.passes m .CKR_RESET ∧ s.gateOpen (some m) .CKR 0 = true) ∧
    (∃ (s : State) (m : Master) (key : Nat), s.passes m .CKR_RESET ∧ s.gateOpen (some m) .CKR 0 = true ∧ key < 256 ∧ key ≠ 0x5A) ∧
    (∃ (s : State), s.ckr.warmAt = none) ∧
    (∃ (s : State) (t0 : Nat), s.ckr.warmAt = some t0 ∧ s.tim.rc < t0 + ns 10000) ∧
    (∃ (s : State) (t0 : Nat), s.ckr.warmAt = some t0 ∧ t0 + ns 10000 ≤ s.tim.rc) :=
  ⟨⟨st base, by decide +kernel⟩,
    ⟨rl base true, by decide +kernel⟩,
    ⟨rl base false, by decide +kernel⟩,
    ⟨{ (st base).setRg .HST_MODE 1 with flt := { base.flt with doms := [live] }, cnts := [((1, 1, 83), 5)], arc := { base.arc with mem := [(3, 7)] } }, .a, by decide +kernel⟩,
    ⟨(st base).setRg .HST_MODE 1, .a, 0x5B, by decide +kernel⟩,
    ⟨{ st base with ckr := { base.ckr with warmAt := none } }, by decide +kernel⟩,
    ⟨{ st base with ckr := { base.ckr with warmAt := some (base.tim.rc - 1) } }, base.tim.rc - 1, by decide +kernel⟩,
    ⟨{ st base with ckr := { base.ckr with warmAt := some (base.tim.rc - 2^62) } }, base.tim.rc - 2^62, by decide +kernel⟩⟩

end WK

namespace WL

def lk (b : State) (v : Nat) : State := b.wr fFOL_OTP_POLICY_DEBUG_LOCK v
def bz (b : State) (v : Nat) : State := (lk b 0).wr fFOL_OTP_PROG_BUSY v
def mk (b : State) : State := { ready b with ckr := { b.ckr with waits := [] } }
def dr (b : State) (v : Nat) : State := b.setRg .DRM_CFG (BitVec.ofNat 32 v)

/-- States and operands that meet the hypotheses of `Jtag`, clause by clause. -/
theorem witness_Jtag :
    (∃ (s : State) (ac : Bool) (cells : List Bool) (drive : List (Nat × Nat × Bool)) (r c : Nat) (b : Ball), ballAt r c = some b) ∧
    (∃ (s : State) (op : JtagOp), (match op with | .programFuse _ _ => true | .test _ => true | _ => false) = true) ∧
    (∃ (s : State) (op : JtagOp), s.on fFOL_OTP_POLICY_DEBUG_LOCK = true ∧
      (match op with | .idcode => false | .bypass => false | _ => true) = true) ∧
    (∃ (s : State) (n : Nat), s.on fFOL_OTP_POLICY_DEBUG_LOCK = false ∧ s.on fFOL_OTP_PROG_BUSY = false ∧ n < 4096) ∧
    (∃ (s : State) (n : Nat), s.on fFOL_OTP_POLICY_DEBUG_LOCK = false ∧ s.on fFOL_OTP_PROG_BUSY = false ∧ n < 4096) ∧
    (∃ (s : State) (n : Nat) (v : Bool), s.on fFOL_OTP_POLICY_DEBUG_LOCK = false ∧ s.on fFOL_OTP_PROG_BUSY = true) ∧
    (∃ (s : State) (ir : Nat), s.on fFOL_OTP_POLICY_DEBUG_LOCK = false) :=
  ⟨⟨base, false, [true, false], [(13, 49, true), (5, 15, true)], 5, 15, .sdTxp 18, by decide +kernel⟩,
    ⟨lk base 0, .test 5, by decide +kernel⟩,
    ⟨lk base 1, .test 5, by decide +kernel⟩,
    ⟨bz base 0, 4095, by decide +kernel⟩,
    ⟨bz base 0, 4095, by decide +kernel⟩,
    ⟨bz base 1, 4095, false, by decide +kernel⟩,
    ⟨lk base 0, 5, by decide +kernel⟩⟩

/-- States and operands that meet the hypotheses of `WatermarkResets`, clause by clause. -/
theorem witness_WatermarkResets :
    (∃ (s : State) (m : Master) (mark : Fld) (now : Option Fld) (p i : Nat), (mark, now) ∈ markFields ∧ s.passes m mark.reg p i ∧
      regAt (mark.reg.addr p i) = some ⟨mark.reg, p, i, 0, 0⟩ ∧ mark.reg.addr p i % 4 = 0) ∧
    (∃ (s : State) (m : Master) (mark : Fld) (p : Nat) (data : Word), mark ∈ [fKST_OVF_COUNT_OVF_HIGH, fBRS_OVF_COUNT_OVF_HIGH, fBRS_LEARN_STATUS_QUEUE_HIGH, fFAR_STATUS_LOOP_HIGH] ∧
      s.passes m mark.reg p ∧ regAt (mark.reg.addr p) = some ⟨mark.reg, p, 0, 0, 0⟩ ∧ mark.reg.addr p % 4 = 0 ∧
      bitsOf data.toNat mark.hi mark.lo ≠ 0) ∧
    (∃ (s : State) (m : Master) (addr : Nat) (data : Word), (∀ a, regAt addr = some a → a.reg ∉ markFields.map fun x => x.1.reg)) :=
  ⟨⟨mk base, .a, fSTB_POOL_LOW_LOW, some fSTB_POOL_FREE_FREE, 0, 1, by decide +kernel⟩,
    ⟨mk base, .a, fFAR_STATUS_LOOP_HIGH, 3, 0x80000000, by decide +kernel⟩,
    ⟨mk base, .b, Reg.addr .TIM_CFG, 0, by decide +kernel⟩⟩

/-- States and operands that meet the hypotheses of `DramMapping`, clause by clause. -/
theorem witness_DramMapping :
    (∃ (s : State) (a b : Nat), 0 < s.dramN ∧ 8 ≤ s.rd fDRM_CFG_GRAIN_LOG2 ∧ s.dramSub a = s.dramSub b ∧ s.dramBurst a = s.dramBurst b ∧
      a % 64 = b % 64) ∧
    (∃ (order width density ranks a b : Nat), order < 4 ∧ width < 3 ∧ density < 2 ∧ ranks < 2 ∧
      a < 2 ^ ((if width = 0 then 7 else 6) + (if width = 2 then 2 else 3) + 2 + (16 + density) + ranks) ∧
      b < 2 ^ ((if width = 0 then 7 else 6) + (if width = 2 then 2 else 3) + 2 + (16 + density) + ranks) ∧
      dramPlace order width density ranks a = dramPlace order width density ranks b) :=
  ⟨⟨dr base (15 + 10 * 2^20), 0x12345678, 0x12345678, by decide +kernel⟩,
    ⟨1, 0, 0, 0, 152709921, 152709921, by decide +kernel⟩⟩

/-- States and operands that meet the hypotheses of `DomainCodes`, clause by clause. -/
theorem witness_DomainCodes :
    (∃ (level inst : Nat), level ≤ 4 ∧ inst ≤ 255) :=
  ⟨4, 255, by decide +kernel⟩

end WL

/-! ### Well-formedness: for each check, a command that it refuses -/

/-- Ill-formed commands, part 1. -/
theorem wf_refuses_1 : (([
    .expertGateWrite .a 0x4000000 0, .expertGateWrite .a 2 0, .expertGateWrite .a 0 256, .registerWrite .a .bar0 0x4000000 false 0,
    .registerWrite .a .bar2 0x80000 false 0, .latchedWordRead .a .bar0 0x4000000 false, .latchedWordRead .a .bar2 0x80000 false,
    .tsFifoRead .a 256, .watermarkReset .a 0x4000000 0, .watermarkReset .a 2 0, .frameRxStart 256 0 [], .frameRxStart 0 16 [],
    .ingressSlotAssign 8, .frameRxEnd 256 [] false false, .stallOverrun 256 [], .pauseFrameRx 256 0 [] false, .pauseFrameRx 0 16 [] false,
    .pauseExpire 256 0, .pauseExpire 0 8, .slipLink 8, .harnessSelect 264, .egressSlotAssign 8, .frameTxStart 256 0, .frameTxStart 0 16,
    .frameTxEnd 264, .recircFifoEnter 8, .pauseFrameTx 256, .pauseRepeat 256 0, .pauseRepeat 0 8, .pfcStormDeclare 256 0] : List Instr).all fun i => !i.wf) = true := by decide +kernel

/-- Ill-formed commands, part 2. -/
theorem wf_refuses_2 : (([
    .pfcStormDeclare 0 8, .pfcStormEnd 256 0, .pfcStormEnd 0 8, .walkFree 256 0, .walkEnd 256, .gateTransition 264, .octetModeApply .a 32 0,
    .octetReady 32, .adminWrite .a 256 false, .linkRawRise 256, .linkRawFall 256 0 0, .linkRawFall 0 256 0, .linkRawFall 0 0 4,
    .holdUpExpire 256, .downHoldExpire 256, .ppsInEdge 16, .todMessageRx [], .calibrationRun 8, .calibrationComplete 8 0,
    .calibrationTimeout 8, .triggerArm .a 16 0, .triggerArm .a 0 16, .triggerCancel .a 16, .triggerFire 17, .gpioCapture 2 0,
    .gpioCapture 0 16, .synceFailover 2, .readerScrub 8, .overflowScrub 9, .bucketScrub 9] : List Instr).all fun i => !i.wf) = true := by decide +kernel

/-- Ill-formed commands, part 3. -/
theorem wf_refuses_3 : (([
    .catScrub 8, .farScrub 8, .learnInsert 8, .ageSweepStart 8, .ageSweepChunk [532480], .repairRecordReturn 8 .ok [],
    .repairRecordReturn 0 .ok (List.replicate 129 0), .fenceTimeout 8 0, .fenceTimeout 0 8, .rationPeriodEnd [], .counterRestore 0 0 0,
    .counterRestore 16 0 0, .counterRestore 1 4194304 0, .counterRestore 1 0 128, .flowSweep 8, .flowFlush .a 8, .dramTrainDone 256,
    .dramRequest 16 false 0 [] [], .dramSchedule 8 [], .dramRefresh 8, .mr4Poll 8 false, .zqCalibration 8, .dqsRetrain 8 false,
    .alertReplay 8 ⟨0, 0⟩ false, .doorbellWrite .a 64 0, .commandFetch .a false [] .ok [], .injectFrame .a 2 (List.replicate 8 0) .ok [],
    .injectFrame .a 0 [] .ok [], .exportWrite .a 2 [], .bulkTransfer .a 2 (List.replicate 8 0) .ok [] []] : List Instr).all fun i => !i.wf) = true := by decide +kernel

/-- Ill-formed commands, part 4. -/
theorem wf_refuses_4 : (([
    .bulkTransfer .a 0 [] .ok [] [], .bufferPost .a (List.replicate 65 0), .bufferPost .a [2 ^ 64], .msixModTimeout 64, .channelEnable .a 64,
    .channelStop .a 64, .poolDisable .a 8, .sidebandWrite 128 [], .sidebandWrite 0 (List.replicate 11 0), .sidebandRead 128 [],
    .sidebandRead 0 (List.replicate 6 0), .patchVerifyDone [], .resetRelease 8 0 0, .resetRelease 0 4 0, .resetRelease 0 0 2,
    .bootHeadersRead 0 false (List.replicate 129 0) [], .bootHeadersRead 0 false [] (List.replicate 129 0), .flashOp .a 2 0, .flashOp .a 0 4,
    .otpProgram .a 4096 false, .warmReset .a 256, .faultEvent 2048, .quietPeriodEnd 65536, .domainClear .a 65536, .faultInChange 17 false,
    .faultForce .a 64 0, .clockStopped 16, .clockStart 16, .crossingHung 0, .crossingHung 18] : List Instr).all fun i => !i.wf) = true := by decide +kernel

/-- Ill-formed commands, part 5. -/
theorem wf_refuses_5 : (([
    .d2dLinkUp 8, .d2dFlitError 8 false [], .d2dFlitError 0 false [256], .d2dRetrain 8, .serdesPllUnlock 8, .hostLinkReturn .a 8 0 false,
    .hostLinkReturn .a 0 32 false, .pllRelock (.serdes 8), .d2dLinkPllUnlock 8, .gpioPulseEnd 2, .fecCodewordDecode 256 [] false,
    .jtagInstruction false (.programFuse 4096 true), .bootFusesDone ⟨false, false, [0, 0, 0, 0, 0], 0, 0, [], []⟩ 750,
    .bootFusesDone ⟨false, false, [2 ^ 384], 0, 0, [], []⟩ 750, .bootFusesDone ⟨false, false, [], 16, 0, [], []⟩ 750,
    .bootFusesDone ⟨false, false, [], 0, 2 ^ 64, [], []⟩ 750, .bootFusesDone ⟨false, false, [], 0, 0, [0, 0, 0, 0, 0, 0, 0, 0, 0], []⟩ 750,
    .bootFusesDone ⟨false, false, [], 0, 0, [], []⟩ 675, .bootFusesDone ⟨false, false, [], 0, 0, [], []⟩ 681,
    .bootFusesDone ⟨false, false, [], 0, 0, [], []⟩ 825, .alertReplay 0 ⟨64, 0⟩ false, .alertReplay 0 ⟨0, 8⟩ false, .clerkStop ⟨16384, 0⟩,
    .clerkStop ⟨0, 65536⟩, .dramRequest 16 false 0 [] [], .dramRequest 0 false 32 [] [], .dramRequest 0 true 0 [] (List.replicate 64 true),
    .dramRequest 0 true 0 (List.replicate 64 0) []] : List Instr).all fun i => !i.wf) = true := by decide +kernel

/-- Commands with operands at the ends of their ranges are well-formed. -/
theorem wf_accepts : (([.frameRxStart 255 15 [], .triggerFire 16, .registerWrite .a .bar0 0x3FFFFFF false 0, .jtagInstruction true (.programFuse 4095 true),
    .bootFusesDone ⟨true, true, [2 ^ 384 - 1, 0, 0, 0], 15, 2 ^ 64 - 1, [0], []⟩ 820, .patchVerifyDone (List.replicate 24 0), .dramRequest 15 false 64 [] []] : List Instr).all fun i => i.wf) = true := by
  decide +kernel

/-- The opcode table gives no row any bits, so no word spells a command, and `withFetchWord` changes nothing. -/
theorem no_word_spells (n w : Nat) (s : State) : decodeTableWord n w = none ∧ s.withFetchWord n w = s := ⟨rfl, rfl⟩

/-! ### The statements about steps -/

/-- A state whose queue holds a command. -/
theorem witness_StepRunsFront : ∃ (s : State) (c : Instr) (rest : List Instr), s.pending = c :: rest :=
  ⟨{ base with pending := [.warmResetRelease, .refMgmtLoss] }, .warmResetRelease, [.refMgmtLoss], rfl⟩

/-- Empty queues with TCLK running and stopped. -/
theorem witness_IdleTick : (∃ s : State, s.pending = [] ∧ s.runs 2 = true) ∧ (∃ s : State, s.pending = [] ∧ s.runs 2 = false) :=
  ⟨⟨ready base, by decide +kernel⟩, ⟨base, by decide +kernel⟩⟩

/-- A command that answers a next state. -/
theorem witness_QueueUntouched : ∃ (c : Instr) (s t : State), exec c s = .next t := ⟨.refMgmtRecover, base, base, rfl⟩

/-- A step from a state that meets the invariant. -/
theorem witness_StepKeepsInv : ∃ s t : State, s.Inv ∧ step s = .next t :=
  ⟨{ base with pending := [.refMgmtRecover] }, base, by unfold State.Inv; decide +kernel, rfl⟩

/-- Registers of one, two and three index values at the ends of their ranges. -/
theorem witness_RegMapRoundTrip : ∃ (r : Reg) (p i j k : Nat), (if r.desc.block.perPipe then p < 8 else p = 0) ∧
    (match r.desc.dims with
      | [] => i = 0 ∧ j = 0 ∧ k = 0
      | [(a, _)] => i < a ∧ j = 0 ∧ k = 0
      | [(a, _), (b, _)] => i < a ∧ j < b ∧ k = 0
      | (a, _) :: (b, _) :: (c, _) :: _ => i < a ∧ j < b ∧ k < c) :=
  ⟨.HAR_CAD_CYCLE, 7, 31, 1, 0, by decide +kernel, (by decide : 31 < 32 ∧ 1 < 2 ∧ 0 = 0)⟩

/-! ### Numbers of the spec's examples -/

/-- The example of R309 and R310: four channels of x4 16 Gb devices with one rank, GRAIN_LOG2 = 12, ORDER = 1, A = 0x12_3456_7840. -/
theorem test_dram_place :
    let s := (((base.wr fDRM_CFG_CH_EN 15).wr fDRM_CFG_GRAIN_LOG2 12).wr fDRM_CFG_ORDER 1).wr fDRM_CFG_WIDTH 0
    s.dramSub 0x1234567840 = 7 ∧ s.dramBurst 0x1234567840 = 152709921 ∧ s.dramAt 0x1234567840 = ⟨0, 1, 2, 37282, 100⟩ := by decide +kernel

/-- The example of R64: octet 2 in mode 4 has ports 16 to 19 of two lanes, and octet 25 carries port 200 on lanes 200 and 201. -/
theorem test_port_lanes :
    let s := (base.wr fPRT_OCT_STATUS_ACTIVE_MODE 4 0 2).wr fPRT_OCT_STATUS_ACTIVE_MODE 4 6 1
    s.portExists 19 = true ∧ s.portExists 20 = false ∧ s.portLanes 17 = [18, 19] ∧ s.portLanes 200 = [200, 201] := by decide +kernel

/-- The example of the register map: port 200 is local port 8 of pipeline 6, and its class 3 is `STB_EG[1,603]`. -/
theorem test_addresses :
    Reg.addr .PRT_CFG 6 8 = 0x1C01800 ∧ Reg.addr .HAR_GATE_CFG 6 8 = 0x1CC0280 ∧ Reg.addr .STB_EG_LIMIT 0 1603 = 0xBD218 ∧
      regAt 0xBD218 = some ⟨.STB_EG_LIMIT, 0, 1603, 0, 0⟩ := by decide +kernel

/-- The example of the channels: local channel 10 of host B is channel 42. -/
theorem test_channel : chanOf .b 10 = 42 ∧ chanOf .a 10 = 34 := by decide +kernel

/-- The example of R268: 215 ns falls in bin 15. -/
theorem test_histogram_bin : histBin 215 = 15 ∧ histBin 192 = 15 ∧ histBin 223 = 15 ∧ histBin 224 = 16 := by decide +kernel

/-- The example of R126: LAG 5 with port 232 down. Bucket 69 is dead, and byte 0xC3 names the third live bucket from 0, whose slot 0 is port 224. -/
theorem test_lag_remap :
    let s := ((base.setPrt fPRT_STATE_LIVE 224 1).setPrt fPRT_STATE_LIVE 240 1).setPrt fPRT_STATE_LIVE 248 1
    let e : List Word := [0x02E802E0, 0x02F802F0] ++ List.replicate 30 0 ++ List.replicate 64 0x03020100
    s.lagPick e 0xC345 = some (224, true) ∧ s.lagPick e 0xC346 = some (240, false) := by decide +kernel

/-- The example of R278: 560 W against a target of 515 W with 3,692,308 units of work gives an allowance of 3,346,154. -/
theorem test_allowance :
    { base.wr fRAT_CAP_BOARD_CAP_W 520 with
      rat := { base.rat with work := [(0, 3692308)] } }.ratA 560000 = 3346154 := by decide +kernel

/-! ### Single steps -/

/-- A step writes a register from the front of the queue and leaves the rest: `WINDOW_NS` becomes 500. -/
theorem test_step_write :
    (match step { ready base with pending := [.registerWrite .a .bar0 (Reg.addr .TIM_PPS_WIN) true 500, .warmResetRelease] } with
      | .next t => t.rd fTIM_PPS_WIN_WINDOW_NS == 500 && t.pending == [.warmResetRelease]
      | _ => false) = true := by decide +kernel

/-- A value outside the range of `WINDOW_NS` is refused and counted (R32). -/
theorem test_step_refuse :
    (match step { ready base with pending := [.registerWrite .a .bar0 (Reg.addr .TIM_PPS_WIN) true 9] } with
      | .next t => t.rd fTIM_PPS_WIN_WINDOW_NS == 1000 && t.rd fHST_REJECT_COUNT_COUNT == 1
      | _ => false) = true := by decide +kernel

/-- The example of R427: a read of host A has waited 64 µs at crossing 7 with AUTO_XRESET: it answers an error and the crossing is flushed. -/
theorem test_step_hung :
    (match step { ready base with
        tim := { base.tim with rc := ns 64000 }, ckr := { base.ckr with waits := [⟨7, 1, 0x80004, none, 0, false, 0, false⟩] }, pending := [.crossingHung 7] } with
      | .next t => t.ckr.waits == [] && AMap.get? t.hst.readData .a == some none && t.rd fCKR_XSTATUS_FLUSHES 0 7 == 1 &&
          t.flt.crossing.any fun c => c.slot == slotOf .HUNG_CROSSING 0
      | _ => false) = true := by decide +kernel

end Sys2Proof.Tests
end

section
/-! SUPPORT. What the operations of a scrub do, one rule each: which words are marked bad, which faults wait in the crossing, which counters rise,
which registers are written and what stays. -/
namespace Sys2Proof.Machine

/-! ### Words whose check fails (R417) -/

/-- The bad words of a checker are read from the list of marks alone. -/
theorem State.marksOf_congr {s t : State} (h : t.flt.marks = s.flt.marks) (ck p : Nat) : t.marksOf ck p = s.marksOf ck p := by
  simp only [State.marksOf, h]

@[simp] theorem State.raise_marks (s : State) (k : FKind) (x d : Nat) : (s.raise k x d).flt.marks = s.flt.marks := (rfl)
@[simp] theorem State.marksOf_jobRun (s : State) (j : Job) (n ck p : Nat) : (s.jobRun j n).marksOf ck p = s.marksOf ck p := (rfl)
@[simp] theorem State.marksOf_wr (s : State) (f : Fld) (v a b c d ck p : Nat) : (s.wr f v a b c d).marksOf ck p = s.marksOf ck p := (rfl)
@[simp] theorem State.marksOf_addSat (s : State) (f : Fld) (v a b c d ck p : Nat) : (s.addSat f v a b c d).marksOf ck p = s.marksOf ck p := (rfl)
@[simp] theorem State.marksOf_raise (s : State) (k : FKind) (x d ck p : Nat) : (s.raise k x d).marksOf ck p = s.marksOf ck p := (rfl)
@[simp] theorem State.marksOf_blk (s : State) (q x n ck p : Nat) : (s.blk q x n).marksOf ck p = s.marksOf ck p :=
  State.marksOf_congr (by simp) ck p

/-- A replica's word fails its check exactly when it is among the marked words of its checker. -/
theorem State.bad_iff (s : State) (ck p r i : Nat) : s.bad ck p r i = true ↔ (r, i) ∈ s.marksOf ck p := by
  simp only [State.bad, State.marked, Option.isSome_map, List.find?_isSome, State.marksOf, Bool.and_eq_true, beq_iff_eq,
    List.mem_map, List.mem_filter, Prod.mk.injEq]
  constructor
  · rintro ⟨m, hm, ⟨⟨hck, hp⟩, hr⟩, hi⟩
    exact ⟨m, ⟨hm, hck, hp⟩, hr, hi⟩
  · rintro ⟨m, ⟨hm, hck, hp⟩, hr, hi⟩
    exact ⟨m, hm, ⟨⟨hck, hp⟩, hr⟩, hi⟩

/-- The check as a Boolean, for the conditions of the model. -/
theorem State.bad_eq (s : State) (ck p r i : Nat) : s.bad ck p r i = decide ((r, i) ∈ s.marksOf ck p) := by
  rw [Bool.eq_iff_iff, State.bad_iff, decide_eq_true_iff]

/-- A word rewritten is good again, and the other words of its checker stay. -/
theorem State.marksOf_unmark_self (s : State) (ck p r i : Nat) :
    (s.unmark ck p r i).marksOf ck p = (s.marksOf ck p).filter (· != (r, i)) := by
  simp only [State.marksOf, State.unmark, List.filter_filter, List.filter_map]
  congr 1
  apply List.filter_congr
  intro m _
  have hpair : ((m.2.2.1, m.2.2.2.1) == (r, i)) = (m.2.2.1 == r && m.2.2.2.1 == i) := rfl
  cases h1 : m.1 == ck <;> cases h2 : m.2.1 == p <;> simp [bne, hpair]

/-- A word rewritten leaves the words of every other checker. -/
theorem State.marksOf_unmark_ne (s : State) {ck ck' : Nat} (p p' r i : Nat) (h : ck' ≠ ck) :
    (s.unmark ck p r i).marksOf ck' p' = s.marksOf ck' p' := by
  simp only [State.marksOf, State.unmark, List.filter_filter]
  congr 1
  apply List.filter_congr
  intro m _
  cases h1 : m.1 == ck' with
  | false => simp
  | true => simp [beq_iff_eq.mp h1, h]

/-- With no injection armed, a write makes the check bits of its word good in every replica and changes nothing else. -/
theorem State.wroteWord_unarmed {s : State} (h : s.flt.nextMarks = []) (ck p i : Nat) :
    s.wroteWord ck p i =
      { s with flt := { s.flt with marks := s.flt.marks.filter fun m => !(m.1 == ck && m.2.1 == p && m.2.2.2.1 == i) } } := by
  simp [State.wroteWord, h]

/-! ### Faults on their way to the collector (R401) -/

/-- A fault raised waits in the crossing. -/
theorem Raised.raise_self (s : State) (k : FKind) (x d : Nat) : Raised (s.raise k x d) k x :=
  ⟨_, List.mem_append_right _ (List.mem_singleton.mpr rfl), rfl⟩

/-- Another fault raised, which may join a waiting one of its own slot, leaves some event of every slot that had one. -/
theorem Raised.raise {s : State} {k : FKind} {x : Nat} (h : Raised s k x) (k' : FKind) (x' d : Nat) : Raised (s.raise k' x' d) k x := by
  obtain ⟨c, hc, hs⟩ := h
  by_cases hj : slotOf k' x' = c.slot
  · exact ⟨_, List.mem_append_right _ (List.mem_singleton.mpr rfl), hj.trans hs⟩
  · exact ⟨c, List.mem_append_left _ (List.mem_filter.mpr ⟨hc, by simp [Crossing.joins, hj]⟩), hs⟩

/-- The crossing alone says which faults wait. -/
theorem Raised.of_crossing {s t : State} {k : FKind} {x : Nat} (h : Raised s k x) (e : t.flt.crossing = s.flt.crossing) : Raised t k x := by
  obtain ⟨c, hc, hs⟩ := h
  exact ⟨c, e ▸ hc, hs⟩

/-! ### Counters (R287) -/

/-- An event counted in a block raises its live counter by one. -/
@[simp] theorem State.blk_cnts (s : State) (p x n : Nat) :
    (s.blk p x n).cnts = AMap.set s.cnts (14, p * 1024 + x, 0) (AMap.getD s.cnts (14, p * 1024 + x, 0) 0 + n) := by
  unfold State.blk State.count State.countAt
  dsimp only
  repeat' split
  all_goals rfl

/-- One event counted in a block, and no counter changed before or after it. -/
theorem CountsUp.of_blk {s u t : State} {p x : Nat} (hu : u.cnts = s.cnts) (ht : t.cnts = (u.blk p x).cnts) :
    CountsUp s t [((14, p * 1024 + x, 0), 1)] := by
  intro key
  rw [ht, State.blk_cnts, hu]
  by_cases h : key = (14, p * 1024 + x, 0)
  · subst h; simp
  · rw [AMap.getD_set_ne _ _ _ h]
    simp [Ne.symm h]

/-! ### Registers -/

@[simp] theorem State.rd_raise (s : State) (k : FKind) (x d : Nat) (f : Fld) (p i j l : Nat) : (s.raise k x d).rd f p i j l = s.rd f p i j l := (rfl)
@[simp] theorem State.rd_unmark (s : State) (a b c d : Nat) (f : Fld) (p i j l : Nat) : (s.unmark a b c d).rd f p i j l = s.rd f p i j l := (rfl)
@[simp] theorem State.rd_blk (s : State) (q x n : Nat) (f : Fld) (p i j l : Nat) : (s.blk q x n).rd f p i j l = s.rd f p i j l :=
  State.rd_congr (by simp) ..

/-- A one-bit field that is on reads 1. -/
theorem State.rd_of_on {s : State} {f : Fld} {p i j k : Nat} (h : s.on f p i j k = true) : s.rd f p i j k = 1 := by
  simpa [State.on] using h

/-! ### The status registers that keep the first failure (R105, R128, R174, R204) -/

/-- The state with the first failure since the last clear captured: `VALID` is set and the other fields are written, unless it was set. -/
def State.parCapture (s : State) (valid : Fld) (p : Nat) (l : List (Fld × Nat)) : State :=
  if s.on valid p then s else l.foldl (fun s x => s.wr x.1 x.2 p) (s.wr valid 1 p)

/-- Writing a list of fields changes only registers. -/
theorem State.foldl_wr_only_regs (l : List (Fld × Nat)) (s : State) (p : Nat) :
    l.foldl (fun s x => s.wr x.1 x.2 p) s = { s with regs := (l.foldl (fun s x => s.wr x.1 x.2 p) s).regs } := by
  induction l generalizing s with
  | nil => rfl
  | cons x l ih => exact (ih (s.wr x.1 x.2 p)).trans rfl

theorem State.parCapture_only_regs (s : State) (valid : Fld) (p : Nat) (l : List (Fld × Nat)) :
    s.parCapture valid p l = { s with regs := (s.parCapture valid p l).regs } := by
  unfold State.parCapture
  split
  · rfl
  · exact (State.foldl_wr_only_regs l (s.wr valid 1 p) p).trans rfl

@[simp] theorem State.parCapture_flt (s : State) (f : Fld) (p : Nat) (l : List (Fld × Nat)) : (s.parCapture f p l).flt = s.flt := by
  rw [State.parCapture_only_regs]
@[simp] theorem State.parCapture_lrn (s : State) (f : Fld) (p : Nat) (l : List (Fld × Nat)) : (s.parCapture f p l).lrn = s.lrn := by
  rw [State.parCapture_only_regs]
@[simp] theorem State.parCapture_cnts (s : State) (f : Fld) (p : Nat) (l : List (Fld × Nat)) : (s.parCapture f p l).cnts = s.cnts := by
  rw [State.parCapture_only_regs]
@[simp] theorem State.parCapture_saved (s : State) (f : Fld) (p : Nat) (l : List (Fld × Nat)) : (s.parCapture f p l).saved = s.saved := by
  rw [State.parCapture_only_regs]
@[simp] theorem State.parCapture_tables (s : State) (f : Fld) (p : Nat) (l : List (Fld × Nat)) : (s.parCapture f p l).tables = s.tables := by
  rw [State.parCapture_only_regs]
@[simp] theorem State.marksOf_parCapture (s : State) (f : Fld) (q : Nat) (l : List (Fld × Nat)) (ck p : Nat) :
    (s.parCapture f q l).marksOf ck p = s.marksOf ck p := State.marksOf_congr (by simp) ck p

/-- Writing fields apart from one leaves it. -/
theorem State.rd_foldl_wr_apart {l : List (Fld × Nat)} {g : Fld} (hg : g.ok) (h : ∀ x ∈ l, x.1.ok ∧ x.1.apart g) (s : State) (p q i j k : Nat) :
    (l.foldl (fun s x => s.wr x.1 x.2 p) s).rd g q i j k = s.rd g q i j k := by
  induction l generalizing s with
  | nil => rfl
  | cons x l ih =>
    obtain ⟨hx, hl⟩ := List.forall_mem_cons.mp h
    rw [List.foldl_cons, ih hl, State.rd_wr_apart _ _ _ _ _ _ _ _ _ _ _ _ hx.1 hg hx.2]

/-- After a failure the status register is valid, whether it was before or not. -/
theorem State.rd_parCapture_valid (s : State) {valid : Fld} (p : Nat) {l : List (Fld × Nat)} (hv : valid.ok)
    (h : ∀ x ∈ l, x.1.ok ∧ x.1.apart valid) : (s.parCapture valid p l).rd valid p = 1 := by
  unfold State.parCapture
  split
  · next hon => exact State.rd_of_on hon
  · rw [State.rd_foldl_wr_apart hv h, State.rd_wr_self _ _ _ _ _ _ _ hv]
    exact Nat.mod_eq_of_lt (Nat.one_lt_two_pow (by have := hv.2; omega))

theorem State.rd_parCapture_apart (s : State) {valid g : Fld} (p : Nat) {l : List (Fld × Nat)} (q i j k : Nat) (hg : g.ok)
    (hv : valid.ok ∧ valid.apart g) (h : ∀ x ∈ l, x.1.ok ∧ x.1.apart g) : (s.parCapture valid p l).rd g q i j k = s.rd g q i j k := by
  unfold State.parCapture
  split
  · rfl
  · rw [State.rd_foldl_wr_apart hg h, State.rd_wr_apart _ _ _ _ _ _ _ _ _ _ _ _ hv.1 hg hv.2]

/-- A capture writes only the fields of its status register. -/
theorem SameBits.parCapture {s t : State} {ex : List FldAt} (h : SameBits s t ex) {valid : Fld} {p : Nat} {l : List (Fld × Nat)}
    (hv : valid.ok ∧ valid.loc p ∈ ex) (hl : ∀ x ∈ l, x.1.ok ∧ x.1.loc p ∈ ex) : SameBits s (t.parCapture valid p l) ex := by
  unfold State.parCapture
  split
  · exact h
  · replace h := h.wr 1 hv.1 hv.2
    generalize t.wr valid 1 p = t at h ⊢
    induction l generalizing t with
    | nil => exact h
    | cons x l ih =>
      obtain ⟨hx, hl⟩ := List.forall_mem_cons.mp hl
      exact ih hl _ (h.wr x.2 hx.1 hx.2)

/-! ### Table entries -/

/-- An entry stored reads back. -/
theorem State.ent_of_set {s t : State} {ti p i : Nat} {e : List Word} (h : t.tables = AMap.set s.tables (ti, tblPipe ti p, i) e) :
    t.ent ti p i = e := by
  simp [State.ent, h]

/-- An entry stored leaves every other one. -/
theorem State.ent_of_set_ne {s t : State} {ti p i ti' p' i' : Nat} {e : List Word} (h : t.tables = AMap.set s.tables (ti, tblPipe ti p, i) e)
    (hne : (ti', tblPipe ti' p', i') ≠ (ti, tblPipe ti p, i)) : t.ent ti' p' i' = s.ent ti' p' i' := by
  simp only [State.ent, h, AMap.get?_set_ne _ _ hne]

/-- With no injection armed, a write of an entry that one checker guards stores it with good check bits in every replica. -/
theorem State.setEnt_unarmed {s : State} (h : s.flt.nextMarks = []) {ti p i ck j : Nat} (hc : entChecks ti i = [(ck, j)]) (e : List Word) :
    s.setEnt ti p i e =
      { s with
        tables := AMap.set s.tables (ti, tblPipe ti p, i) e
        flt := { s.flt with marks := s.flt.marks.filter fun m => !(m.1 == ck && m.2.1 == tblPipe ti p && m.2.2.2.1 == j) } } := by
  simp only [State.setEnt, hc, List.foldl_cons, List.foldl_nil]
  exact State.wroteWord_unarmed (s := { s with tables := AMap.set s.tables (ti, tblPipe ti p, i) e }) h ck (tblPipe ti p) j

/-- Such a write leaves no bad word at its index, in any replica. -/
theorem State.marksOf_setEnt_unarmed {s : State} (h : s.flt.nextMarks = []) {ti p i ck j : Nat} (hc : entChecks ti i = [(ck, j)]) (e : List Word) :
    (s.setEnt ti p i e).marksOf ck (tblPipe ti p) = (s.marksOf ck (tblPipe ti p)).filter (·.2 != j) := by
  rw [State.setEnt_unarmed h hc]
  simp only [State.marksOf, List.filter_filter, List.filter_map]
  congr 1
  apply List.filter_congr
  intro m _
  cases h1 : m.1 == ck <;> cases h2 : m.2.1 == tblPipe ti p <;> simp [bne]

/-! ### Opening a repair (R149) -/

/-- The state with the repair of one entry open, under tag 0, and counted. -/
def State.withRepair (s : State) (ti p i : Nat) : State :=
  { s with lrn := { s.lrn with repairs := [⟨0, ti, tblPipe ti p, i, 0, .a, none, [], [], [], 0, 0⟩] } }.addSat fCLE_REPAIR_STATUS_OPEN 1

@[simp] theorem State.withRepair_repairs (s : State) (ti p i : Nat) :
    (s.withRepair ti p i).lrn.repairs = [⟨0, ti, tblPipe ti p, i, 0, .a, none, [], [], [], 0, 0⟩] := (rfl)
@[simp] theorem State.withRepair_flt (s : State) (ti p i : Nat) : (s.withRepair ti p i).flt = s.flt := (rfl)
@[simp] theorem State.withRepair_cnts (s : State) (ti p i : Nat) : (s.withRepair ti p i).cnts = s.cnts := (rfl)
@[simp] theorem State.withRepair_saved (s : State) (ti p i : Nat) : (s.withRepair ti p i).saved = s.saved := (rfl)
@[simp] theorem State.withRepair_tables (s : State) (ti p i : Nat) : (s.withRepair ti p i).tables = s.tables := (rfl)
@[simp] theorem State.marksOf_withRepair (s : State) (ti p i a b : Nat) : (s.withRepair ti p i).marksOf a b = s.marksOf a b := (rfl)

theorem State.rd_withRepair_apart (s : State) (ti p i : Nat) {f : Fld} (a b c d : Nat) (hf : f.ok) (h : fCLE_REPAIR_STATUS_OPEN.apart f) :
    (s.withRepair ti p i).rd f a b c d = s.rd f a b c d := State.rd_addSat_apart _ _ _ _ _ _ _ _ _ _ _ _ (by decide) hf h

/-- The repairs open are counted, up to 15. -/
theorem State.rd_withRepair_open (s : State) (ti p i : Nat) :
    (s.withRepair ti p i).rd fCLE_REPAIR_STATUS_OPEN = min 15 (s.rd fCLE_REPAIR_STATUS_OPEN + 1) :=
  State.rd_addSat_self _ _ _ _ _ _ _ (by decide)

/-- A bad entry met with no repair open opens one; Catalogue counter 17 counts a row that no replica has whole. -/
theorem State.repairOpen_first {s : State} (h : s.lrn.repairs = []) (ti p i : Nat) :
    (s.repairOpen ti p i).1 =
      (if (ti = 0x1A ∨ ti = 0x1B) ∧ !s.catSister ti p i then s.blk p (192 + 17) else s).withRepair ti p i := by
  have htag : ((List.range 8).find? fun k => !([] : List Repair).any (·.tag == k)) = some 0 := rfl
  unfold State.repairOpen
  simp only [h, List.find?_nil, htag]
  split <;> simp [State.withRepair, repPipe, h]

theorem State.repairOpen_first_other {s : State} (h : s.lrn.repairs = []) {ti : Nat} (p i : Nat) (ht : ti ≠ 0x1A ∧ ti ≠ 0x1B) :
    (s.repairOpen ti p i).1 = s.withRepair ti p i := by
  rw [State.repairOpen_first h, if_neg (by simp [ht])]

theorem Raised.withRepair {s : State} {k : FKind} {x : Nat} (h : Raised s k x) (ti p i : Nat) : Raised (s.withRepair ti p i) k x :=
  h.of_crossing (by rw [State.withRepair_flt])

/-- An entry whose repair is open opens no other. -/
theorem State.repairOpen_again {s : State} {ti p i : Nat}
    (h : s.lrn.repairs = [⟨0, ti, tblPipe ti p, i, 0, .a, none, [], [], [], 0, 0⟩]) : (s.repairOpen ti p i).1 = s := by
  simp [State.repairOpen, h, repPipe]

theorem SameBits.withRepair {s t : State} {ex : List FldAt} (h : SameBits s t ex) (hm : fCLE_REPAIR_STATUS_OPEN.loc ∈ ex) (ti p i : Nat) :
    SameBits s (t.withRepair ti p i) ex := SameBits.addSat (h.of_regs rfl) 1 (by decide) hm

/-! ### What a scrub reports and repairs, and what it leaves -/

/-- From `s` to `t` only registers, counters, open repairs, faults in the crossing and check bits have changed. -/
def ScrubFrame (s t : State) : Prop :=
  t = { s with
    regs := t.regs, cnts := t.cnts, saved := t.saved, lrn := { s.lrn with repairs := t.lrn.repairs }
    flt := { s.flt with crossing := t.flt.crossing, marks := t.flt.marks } }

namespace ScrubFrame
variable {s t u : State}

protected theorem refl (s : State) : ScrubFrame s s := rfl

protected theorem trans (h : ScrubFrame s t) (h' : ScrubFrame t u) : ScrubFrame s u := by
  unfold ScrubFrame at h h' ⊢
  rw [h', h]

theorem wr (h : ScrubFrame s t) (f : Fld) (v p i j k : Nat) : ScrubFrame s (t.wr f v p i j k) := h.trans rfl
theorem addSat (h : ScrubFrame s t) (f : Fld) (v p i j k : Nat) : ScrubFrame s (t.addSat f v p i j k) := h.trans rfl
theorem raise (h : ScrubFrame s t) (k : FKind) (x d : Nat) : ScrubFrame s (t.raise k x d) := h.trans rfl
theorem unmark (h : ScrubFrame s t) (ck p r i : Nat) : ScrubFrame s (t.unmark ck p r i) := h.trans rfl

theorem blk (h : ScrubFrame s t) (p x n : Nat) : ScrubFrame s (t.blk p x n) := by
  refine h.trans ?_
  unfold ScrubFrame State.blk State.count State.countAt
  dsimp only
  repeat' split
  all_goals rfl

theorem withRepair (h : ScrubFrame s t) (ti p i : Nat) : ScrubFrame s (t.withRepair ti p i) := h.trans rfl

theorem parCapture (h : ScrubFrame s t) (f : Fld) (p : Nat) (l : List (Fld × Nat)) : ScrubFrame s (t.parCapture f p l) := by
  refine h.trans ?_
  unfold ScrubFrame
  rw [State.parCapture_only_regs]

/-- What a scrub leaves when it rewrites and counts nothing. -/
theorem eq_of_cnts_marks (h : ScrubFrame s t) (hc : t.cnts = s.cnts) (hs : t.saved = s.saved) (hm : t.flt.marks = s.flt.marks) :
    t = { s with
      regs := t.regs, lrn := { s.lrn with repairs := t.lrn.repairs }, flt := { s.flt with crossing := t.flt.crossing } } :=
  Eq.trans h (by rw [hc, hs, hm])

/-- What a scrub leaves when it opens no repair. -/
theorem eq_of_lrn (h : ScrubFrame s t) (hl : t.lrn = s.lrn) :
    t = { s with regs := t.regs, cnts := t.cnts, saved := t.saved, flt := { s.flt with crossing := t.flt.crossing, marks := t.flt.marks } } :=
  Eq.trans h (by rw [hl])

end ScrubFrame
end Sys2Proof.Machine
end

section
/-! When a scrub runs and over which words, and the Reader's scrub (R105): a bad word is copied from its sister, and one whose sister is bad too opens
the repair of its entry. -/
namespace Sys2Proof.Machine

/-! ### When a scrub runs -/

/-- A pass that is due notes when it runs, and runs. -/
theorem State.scrubJob_due {s : State} {j : Job} {i us : Nat} (h : s.jobDue j i (ns (us * 1000)) = true) (run : State → State) :
    s.scrubJob j i us run = .next (run (s.jobRun j i)) := by
  simp [State.scrubJob, State.periodic, h]

/-- Before a pass is due nothing happens. -/
theorem State.scrubJob_not_due {s : State} {j : Job} {i us : Nat} (h : s.jobDue j i (ns (us * 1000)) = false) (run : State → State) :
    s.scrubJob j i us run = .next s := by
  simp [State.scrubJob, State.periodic, h]

/-- A scrub's course over a list of words of one checker: each that is bad when the scrub reads it is dealt with. -/
def State.scrubWords (s : State) (ck p : Nat) (f : State → Nat × Nat → State) (l : List (Nat × Nat)) : State :=
  l.foldl (fun s x => if s.bad ck p x.1 x.2 then f s x else s) s

@[simp] theorem State.scrubWords_nil (s : State) (ck p : Nat) (f : State → Nat × Nat → State) : s.scrubWords ck p f [] = s := (rfl)

theorem State.scrubWords_cons_bad {s : State} {ck p : Nat} {x : Nat × Nat} (h : x ∈ s.marksOf ck p) (f : State → Nat × Nat → State)
    (l : List (Nat × Nat)) : s.scrubWords ck p f (x :: l) = (f s x).scrubWords ck p f l := by
  simp only [State.scrubWords, List.foldl_cons, (s.bad_iff ck p x.1 x.2).mpr h, if_true]

/-! ### The Reader's scrub (R105) -/

/-- One pass of the Reader's scrub: the select entries, then the layouts. -/
def State.readerPass (s : State) (p : Nat) : State :=
  let s := s.scrubWords 0x01 p (fun s x => s.scrubRdr p 0x01 0x01 6 x) (s.marksOf 0x01 p)
  s.scrubWords 0x02 p (fun s x => s.scrubRdr p 0x02 0x02 12 x) (s.marksOf 0x02 p)

theorem exec_readerScrub_due {s : State} {p : Nat} (h : s.jobDue .readerScrub p (ns (s.rd fRDR_SCRUB_PERIOD_US p * 1000)) = true) :
    exec (.readerScrub p) s = .next ((s.jobRun .readerScrub p).readerPass p) := State.scrubJob_due h _

/-- The report of a failed read of a Reader table. -/
def State.rdrReport (s : State) (p table i : Nat) : State :=
  ((s.raise .RDR_PARITY p i).wr fRDR_PAR_STATUS_TABLE table p).wr fRDR_PAR_STATUS_ENTRY i p

/-- A word reported, copied from its sister and counted. -/
def State.rdrCopied (s : State) (p table ck r i : Nat) : State :=
  (((s.rdrReport p table i).unmark ck p r i).addSat fRDR_PAR_STATUS_RETRIES 1 p).blk p 75

/-- A word reported whose sister is bad too. -/
def State.rdrLost (s : State) (p table i : Nat) : State :=
  ((s.rdrReport p table i).raise .RDR_PARITY_DOUBLE p i).wr fRDR_PAR_STATUS_DOUBLE 1 p

theorem State.scrubRdr_good_sister {s : State} {p ck ti n r i : Nat} (hb : (r, i) ∈ s.marksOf ck p) (hg : ((r + 1) % n, i) ∉ s.marksOf ck p) :
    s.scrubRdr p ck ti n (r, i) = s.rdrCopied p (ti - 1) ck r i := by
  simp [State.scrubRdr, State.rdrRead, State.bad_eq, State.rdrReport, State.rdrCopied, hb, hg]

theorem State.scrubRdr_bad_sister {s : State} {p ck ti n r i : Nat} (hb : (r, i) ∈ s.marksOf ck p) (hs : ((r + 1) % n, i) ∈ s.marksOf ck p) :
    s.scrubRdr p ck ti n (r, i) = ((s.rdrLost p (ti - 1) i).repairOpen ti p i).1 := by
  simp [State.scrubRdr, State.rdrRead, State.bad_eq, State.rdrReport, State.rdrLost, hb, hs]

theorem State.marksOf_rdrCopied_self (s : State) (p table ck r i : Nat) :
    (s.rdrCopied p table ck r i).marksOf ck p = (s.marksOf ck p).filter (· != (r, i)) := by
  simp [State.rdrCopied, State.marksOf_unmark_self, State.rdrReport]
theorem State.marksOf_rdrCopied_ne (s : State) {ck ck' : Nat} (p q table r i : Nat) (h : ck' ≠ ck) :
    (s.rdrCopied p table ck r i).marksOf ck' q = s.marksOf ck' q := by
  simp [State.rdrCopied, State.marksOf_unmark_ne _ _ _ _ _ h, State.rdrReport]
@[simp] theorem State.rdrCopied_lrn (s : State) (p table ck r i : Nat) : (s.rdrCopied p table ck r i).lrn = s.lrn := by
  simp [State.rdrCopied, State.rdrReport, State.unmark]
theorem State.rd_rdrCopied_retries (s : State) (p table ck r i : Nat) :
    (s.rdrCopied p table ck r i).rd fRDR_PAR_STATUS_RETRIES p = s.satUp fRDR_PAR_STATUS_RETRIES p := by
  rw [State.rdrCopied, State.rd_blk, State.rd_addSat_self _ _ _ _ _ _ _ (by decide)]
  simp (disch := decide) only [State.rdrReport, State.rd_unmark, State.rd_wr_apart, State.rd_raise, State.satUp]
theorem State.rd_rdrCopied_entry (s : State) (p table ck r i : Nat) (h : i < 64) :
    (s.rdrCopied p table ck r i).rd fRDR_PAR_STATUS_ENTRY p = i := by
  rw [State.rdrCopied, State.rd_blk, State.rd_addSat_apart _ _ _ _ _ _ _ _ _ _ _ _ (by decide) (by decide) (by decide), State.rd_unmark,
    State.rdrReport, State.rd_wr_self _ _ _ _ _ _ _ (by decide)]
  exact Nat.mod_eq_of_lt h
theorem State.rd_rdrCopied_double (s : State) (p table ck r i : Nat) :
    (s.rdrCopied p table ck r i).rd fRDR_PAR_STATUS_DOUBLE p = s.rd fRDR_PAR_STATUS_DOUBLE p := by
  simp (disch := decide) only [State.rdrCopied, State.rdrReport, State.rd_blk, State.rd_addSat_apart, State.rd_unmark, State.rd_wr_apart,
    State.rd_raise]

theorem Raised.rdrCopied_self (s : State) (p table ck r i : Nat) : Raised (s.rdrCopied p table ck r i) .RDR_PARITY p :=
  (Raised.raise_self s .RDR_PARITY p i).of_crossing (by simp [State.rdrCopied, State.rdrReport, State.unmark])
theorem Raised.rdrCopied {s : State} {k : FKind} {x : Nat} (h : Raised s k x) (p table ck r i : Nat) : Raised (s.rdrCopied p table ck r i) k x :=
  (h.raise .RDR_PARITY p i).of_crossing (by simp [State.rdrCopied, State.rdrReport, State.unmark])

theorem Raised.rdrLost_self (s : State) (p table i : Nat) : Raised (s.rdrLost p table i) .RDR_PARITY_DOUBLE p :=
  (Raised.raise_self (s.rdrReport p table i) .RDR_PARITY_DOUBLE p i).of_crossing (by simp [State.rdrLost])

theorem ScrubFrame.rdrReport {s t : State} (h : ScrubFrame s t) (p table i : Nat) : ScrubFrame s (t.rdrReport p table i) :=
  ((h.raise ..).wr ..).wr ..
theorem ScrubFrame.rdrCopied {s t : State} (h : ScrubFrame s t) (p table ck r i : Nat) : ScrubFrame s (t.rdrCopied p table ck r i) :=
  (((h.rdrReport ..).unmark ..).addSat ..).blk ..
theorem ScrubFrame.rdrLost {s t : State} (h : ScrubFrame s t) (p table i : Nat) : ScrubFrame s (t.rdrLost p table i) :=
  ((h.rdrReport ..).raise ..).wr ..

theorem SameBits.rdrCopied (s : State) (p table ck r i : Nat) : SameBits s (s.rdrCopied p table ck r i)
    [fRDR_PAR_STATUS_RETRIES.loc p, fRDR_PAR_STATUS_TABLE.loc p, fRDR_PAR_STATUS_ENTRY.loc p] := by
  have hreport : SameBits s (s.rdrReport p table i)
      [fRDR_PAR_STATUS_RETRIES.loc p, fRDR_PAR_STATUS_TABLE.loc p, fRDR_PAR_STATUS_ENTRY.loc p] :=
    (((SameBits.refl s _).of_regs (State.raise_regs ..)).wr _ (by decide) (by simp)).wr _ (by decide) (by simp)
  have hcopied := SameBits.addSat (t := (s.rdrReport p table i).unmark ck p r i) (f := fRDR_PAR_STATUS_RETRIES) (p := p) (i := 0) (j := 0) (k := 0)
    (hreport.of_regs rfl) 1 (by decide) (by simp)
  exact hcopied.of_regs (by simp [State.rdrCopied])

theorem readerScrub_clean (s : State) (p : Nat) (h1 : s.marksOf 0x01 p = []) (h2 : s.marksOf 0x02 p = [])
    (hdue : s.jobDue .readerScrub p (ns (s.rd fRDR_SCRUB_PERIOD_US p * 1000)) = true) :
    exec (.readerScrub p) s = .next { s with tim := { s.tim with jobs := AMap.set s.tim.jobs (.readerScrub, p) s.tim.rc } } := by
  rw [exec_readerScrub_due hdue]
  simp only [State.readerPass, State.marksOf_jobRun, h1, h2, State.scrubWords_nil]
  rfl

/-- A select entry bad in one replica is copied from its sister. -/
theorem readerScrub_rewrites (s : State) (p r i : Nat) (h1 : s.marksOf 0x01 p = [(r, i)]) (h2 : s.marksOf 0x02 p = []) (hi : i < 64)
    (hdue : s.jobDue .readerScrub p (ns (s.rd fRDR_SCRUB_PERIOD_US p * 1000)) = true) : Gives (.readerScrub p) s fun t =>
    t.marksOf 0x01 p = [] ∧ t.rd fRDR_PAR_STATUS_RETRIES p = s.satUp fRDR_PAR_STATUS_RETRIES p ∧ t.rd fRDR_PAR_STATUS_ENTRY p = i ∧
    CountsUp s t [((14, p * 1024 + 75, 0), 1)] ∧ Raised t .RDR_PARITY p ∧
    t = { s with
      tim := { s.tim with jobs := AMap.set s.tim.jobs (.readerScrub, p) s.tim.rc }, regs := t.regs, cnts := t.cnts, saved := t.saved
      flt := { s.flt with crossing := t.flt.crossing, marks := t.flt.marks } } ∧
    SameBits s t [fRDR_PAR_STATUS_RETRIES.loc p, fRDR_PAR_STATUS_TABLE.loc p, fRDR_PAR_STATUS_ENTRY.loc p] := by
  have hsister : (r + 1) % 6 ≠ r := by omega
  have hpass : (s.jobRun .readerScrub p).readerPass p = (s.jobRun .readerScrub p).rdrCopied p 0 0x01 r i := by
    unfold State.readerPass
    rw [State.marksOf_jobRun, h1, State.scrubWords_cons_bad (by simp [h1]), State.scrubRdr_good_sister (by simp [h1]) (by simp [h1, hsister])]
    simp [State.marksOf_rdrCopied_ne, h2]
  refine ⟨_, (exec_readerScrub_due hdue).trans (congrArg _ hpass), ?_, State.rd_rdrCopied_retries .., State.rd_rdrCopied_entry _ _ _ _ _ _ hi,
    ?_, Raised.rdrCopied_self .., ?_, SameBits.rdrCopied (s.jobRun .readerScrub p) p 0 0x01 r i⟩
  · simp [State.marksOf_rdrCopied_self, h1]
  · exact CountsUp.of_blk (u := (((s.jobRun .readerScrub p).rdrReport p 0 i).unmark 0x01 p r i).addSat fRDR_PAR_STATUS_RETRIES 1 p) rfl rfl
  · exact ScrubFrame.eq_of_lrn ((ScrubFrame.refl (s.jobRun .readerScrub p)).rdrCopied p 0 0x01 r i) (by simp)

/-- A select entry bad in a replica and its sister opens its repair, and the sister is copied from the replica after it. -/
theorem readerScrub_repairs (s : State) (p i : Nat) (h1 : s.marksOf 0x01 p = [(0, i), (1, i)]) (h2 : s.marksOf 0x02 p = [])
    (hrep : s.lrn.repairs = []) (hdue : s.jobDue .readerScrub p (ns (s.rd fRDR_SCRUB_PERIOD_US p * 1000)) = true) :
    Gives (.readerScrub p) s fun t =>
    t.marksOf 0x01 p = [(0, i)] ∧ t.lrn.repairs = [⟨0, 0x01, p, i, 0, .a, none, [], [], [], 0, 0⟩] ∧ t.rd fRDR_PAR_STATUS_DOUBLE p = 1 ∧
    Raised t .RDR_PARITY p ∧ Raised t .RDR_PARITY_DOUBLE p ∧
    t = { s with
      tim := { s.tim with jobs := AMap.set s.tim.jobs (.readerScrub, p) s.tim.rc }, regs := t.regs, cnts := t.cnts, saved := t.saved
      lrn := { s.lrn with repairs := t.lrn.repairs }, flt := { s.flt with crossing := t.flt.crossing, marks := t.flt.marks } } := by
  have hopen : ((s.jobRun .readerScrub p).rdrLost p 0 i).lrn.repairs = [] := hrep
  have hmarks : ∀ ck q, (((s.jobRun .readerScrub p).rdrLost p 0 i).withRepair 0x01 p i).marksOf ck q = s.marksOf ck q := fun _ _ => rfl
  have hpass : (s.jobRun .readerScrub p).readerPass p =
      (((s.jobRun .readerScrub p).rdrLost p 0 i).withRepair 0x01 p i).rdrCopied p 0 0x01 1 i := by
    unfold State.readerPass
    rw [State.marksOf_jobRun, h1, State.scrubWords_cons_bad (by simp [h1]), State.scrubRdr_bad_sister (by simp [h1]) (by simp [h1]),
      State.repairOpen_first_other hopen _ _ (by decide), State.scrubWords_cons_bad (by simp [hmarks, h1]),
      State.scrubRdr_good_sister (by simp [hmarks, h1]) (by simp [hmarks, h1])]
    simp [State.marksOf_rdrCopied_ne, hmarks, h2]
  refine ⟨_, (exec_readerScrub_due hdue).trans (congrArg _ hpass), ?_, ?_, ?_, ?_, ?_, ?_⟩
  · simp [State.marksOf_rdrCopied_self, hmarks, h1]
  · simp [tblPipe, tblInfo]
  · rw [State.rd_rdrCopied_double, State.rd_withRepair_apart _ _ _ _ _ _ _ _ (by decide) (by decide), State.rdrLost,
      State.rd_wr_self _ _ _ _ _ _ _ (by decide)]
    rfl
  · exact Raised.rdrCopied_self ..
  · exact ((Raised.rdrLost_self (s.jobRun .readerScrub p) p 0 i).withRepair 0x01 p i).rdrCopied p 0 0x01 1 i
  · exact (((ScrubFrame.refl (s.jobRun .readerScrub p)).rdrLost p 0 i).withRepair 0x01 p i).rdrCopied p 0 0x01 1 i

end Sys2Proof.Machine
end

section
/-! The Catalogue's scrub (R175): a bad row is rewritten from a good replica, and one bad in all three opens the repair of its entry. -/
namespace Sys2Proof.Machine

/-- One pass of the Catalogue's scrub: the rows and results of the ingress half, then those of the egress half. -/
def State.catPass (s : State) (p : Nat) : State :=
  let s := s.scrubWords 0x12 p (fun s x => s.scrubCat p false 0 0x12 x) (s.marksOf 0x12 p)
  let s := s.scrubWords 0x14 p (fun s x => s.scrubCat p false 1 0x14 x) (s.marksOf 0x14 p)
  let s := s.scrubWords 0x13 p (fun s x => s.scrubCat p true 0 0x13 x) (s.marksOf 0x13 p)
  s.scrubWords 0x15 p (fun s x => s.scrubCat p true 1 0x15 x) (s.marksOf 0x15 p)

theorem exec_catScrub_due {s : State} {p : Nat} (h : s.jobDue .catScrub p (ns (s.rd fCAT_SCRUB_PERIOD_US p * 1000)) = true) :
    exec (.catScrub p) s = .next ((s.jobRun .catScrub p).catPass p) := State.scrubJob_due h _

/-- A pass over bad ingress rows alone ends with them. -/
theorem State.catPass_rows_only {s : State} {p : Nat} {l : List (Nat × Nat)} (h : s.marksOf 0x12 p = l)
    (hn : ∀ ck ∈ [0x13, 0x14, 0x15], (s.scrubWords 0x12 p (fun s x => s.scrubCat p false 0 0x12 x) l).marksOf ck p = []) :
    s.catPass p = s.scrubWords 0x12 p (fun s x => s.scrubCat p false 0 0x12 x) l := by
  simp only [List.forall_mem_cons] at hn
  obtain ⟨h13, h14, h15, -⟩ := hn
  simp only [State.catPass, h, h14, h13, h15, State.scrubWords_nil]

/-- The report of a bad ingress row. -/
def State.rowReport (s : State) (p r i : Nat) : State :=
  (s.parCapture fCAT_PAR_STATUS_VALID p [(fCAT_PAR_STATUS_DIR, 0), (fCAT_PAR_STATUS_REPLICA, r), (fCAT_PAR_STATUS_KIND, 0),
    (fCAT_PAR_STATUS_ADDR, i)]).raise .CAT_ROW_PARITY p i

@[simp] theorem State.marksOf_rowReport (s : State) (p r i ck q : Nat) : (s.rowReport p r i).marksOf ck q = s.marksOf ck q := by
  simp [State.rowReport]
@[simp] theorem State.rowReport_marks (s : State) (p r i : Nat) : (s.rowReport p r i).flt.marks = s.flt.marks := by
  simp [State.rowReport]
@[simp] theorem State.rowReport_lrn (s : State) (p r i : Nat) : (s.rowReport p r i).lrn = s.lrn := by
  simp [State.rowReport]
@[simp] theorem State.rowReport_cnts (s : State) (p r i : Nat) : (s.rowReport p r i).cnts = s.cnts := by
  simp [State.rowReport]
theorem State.rd_rowReport_valid (s : State) (p r i : Nat) : (s.rowReport p r i).rd fCAT_PAR_STATUS_VALID p = 1 := by
  rw [State.rowReport, State.rd_raise, State.rd_parCapture_valid _ _ (by decide)]
  simp only [List.forall_mem_cons]
  decide
theorem Raised.rowReport_self (s : State) (p r i : Nat) : Raised (s.rowReport p r i) .CAT_ROW_PARITY p := Raised.raise_self ..
theorem ScrubFrame.rowReport {s t : State} (h : ScrubFrame s t) (p r i : Nat) : ScrubFrame s (t.rowReport p r i) :=
  (h.parCapture fCAT_PAR_STATUS_VALID p _).raise .CAT_ROW_PARITY p i
theorem SameBits.rowReport (s : State) (p r i : Nat) : SameBits s (s.rowReport p r i)
    [fCAT_PAR_STATUS_VALID.loc p, fCAT_PAR_STATUS_DIR.loc p, fCAT_PAR_STATUS_REPLICA.loc p, fCAT_PAR_STATUS_KIND.loc p,
      fCAT_PAR_STATUS_ADDR.loc p] := by
  have hpar := SameBits.parCapture (SameBits.refl s [fCAT_PAR_STATUS_VALID.loc p, fCAT_PAR_STATUS_DIR.loc p, fCAT_PAR_STATUS_REPLICA.loc p,
    fCAT_PAR_STATUS_KIND.loc p, fCAT_PAR_STATUS_ADDR.loc p]) (valid := fCAT_PAR_STATUS_VALID) (p := p)
    (l := [(fCAT_PAR_STATUS_DIR, 0), (fCAT_PAR_STATUS_REPLICA, r), (fCAT_PAR_STATUS_KIND, 0), (fCAT_PAR_STATUS_ADDR, i)])
    ⟨by decide, by simp⟩ (by simp; decide)
  exact hpar.of_regs rfl

/-- A row bad in every replica is reported as lost too. -/
def State.rowLost (s : State) (p r i : Nat) : State := (s.rowReport p r i).raise .CAT_ROW_LOST p i

@[simp] theorem State.marksOf_rowLost (s : State) (p r i ck q : Nat) : (s.rowLost p r i).marksOf ck q = s.marksOf ck q := by
  simp [State.rowLost]
@[simp] theorem State.rowLost_marks (s : State) (p r i : Nat) : (s.rowLost p r i).flt.marks = s.flt.marks := by simp [State.rowLost]
@[simp] theorem State.rowLost_lrn (s : State) (p r i : Nat) : (s.rowLost p r i).lrn = s.lrn := by simp [State.rowLost]
@[simp] theorem State.rowLost_cnts (s : State) (p r i : Nat) : (s.rowLost p r i).cnts = s.cnts := by simp [State.rowLost]
theorem Raised.rowLost_row (s : State) (p r i : Nat) : Raised (s.rowLost p r i) .CAT_ROW_PARITY p := (Raised.rowReport_self ..).raise ..
theorem Raised.rowLost_self (s : State) (p r i : Nat) : Raised (s.rowLost p r i) .CAT_ROW_LOST p := Raised.raise_self ..

/-- A bad ingress row with a good sister is reported, rewritten and counted. -/
theorem State.scrubCat_good_sister {s : State} {p r o i : Nat} (ho : o ∈ [0, 1, 2]) (hne : o ≠ r) (hg : (o, i) ∉ s.marksOf 0x12 p) :
    s.scrubCat p false 0 0x12 (r, i) = ((s.rowReport p r i).unmark 0x12 p r i).blk p 208 := by
  have hany : ([0, 1, 2].any fun o => o != r && !(s.rowReport p r i).bad 0x12 p o i) = true :=
    List.any_eq_true.mpr ⟨o, ho, by simp [State.bad_eq, hne, hg]⟩
  exact if_pos hany

/-- An ingress row bad in every replica is reported as lost, and its repair opens. -/
theorem State.scrubCat_no_sister {s : State} {p r i : Nat} (hb : ∀ o ∈ [0, 1, 2], (o, i) ∈ s.marksOf 0x12 p) :
    s.scrubCat p false 0 0x12 (r, i) = ((s.rowLost p r i).repairOpen 0x1A p i).1 := by
  have hany : ¬([0, 1, 2].any fun o => o != r && !(s.rowReport p r i).bad 0x12 p o i) = true := by
    rw [List.any_eq_true]
    rintro ⟨o, ho, hx⟩
    simp [State.bad_eq, hb o ho] at hx
  exact if_neg hany

/-- Of three replicas, some is another than a given one. -/
theorem exists_other_replica (r : Nat) : ∃ o ∈ [0, 1, 2], o ≠ r := by
  by_cases h0 : r = 0
  · exact ⟨1, by simp, by omega⟩
  · exact ⟨0, by simp, by omega⟩

theorem catScrub_clean (s : State) (p : Nat) (h : ∀ ck ∈ [0x12, 0x13, 0x14, 0x15], s.marksOf ck p = [])
    (hdue : s.jobDue .catScrub p (ns (s.rd fCAT_SCRUB_PERIOD_US p * 1000)) = true) :
    exec (.catScrub p) s = .next { s with tim := { s.tim with jobs := AMap.set s.tim.jobs (.catScrub, p) s.tim.rc } } := by
  obtain ⟨h12, hn⟩ := List.forall_mem_cons.mp h
  rw [exec_catScrub_due hdue, State.catPass_rows_only (s := s.jobRun .catScrub p) (l := []) h12 hn]
  rfl

/-- A row bad in one replica is rewritten from a good one. -/
theorem catScrub_rewrites (s : State) (p r i : Nat) (h : s.marksOf 0x12 p = [(r, i)]) (hn : ∀ ck ∈ [0x13, 0x14, 0x15], s.marksOf ck p = [])
    (hdue : s.jobDue .catScrub p (ns (s.rd fCAT_SCRUB_PERIOD_US p * 1000)) = true) : Gives (.catScrub p) s fun t =>
    t.marksOf 0x12 p = [] ∧ CountsUp s t [((14, p * 1024 + 208, 0), 1)] ∧ Raised t .CAT_ROW_PARITY p ∧ t.rd fCAT_PAR_STATUS_VALID p = 1 ∧
    t = { s with
      tim := { s.tim with jobs := AMap.set s.tim.jobs (.catScrub, p) s.tim.rc }, regs := t.regs, cnts := t.cnts, saved := t.saved
      flt := { s.flt with crossing := t.flt.crossing, marks := t.flt.marks } } ∧
    SameBits s t [fCAT_PAR_STATUS_VALID.loc p, fCAT_PAR_STATUS_DIR.loc p, fCAT_PAR_STATUS_REPLICA.loc p, fCAT_PAR_STATUS_KIND.loc p,
      fCAT_PAR_STATUS_ADDR.loc p] := by
  obtain ⟨o, ho, hne⟩ := exists_other_replica r
  have hword : (s.jobRun .catScrub p).scrubWords 0x12 p (fun s x => s.scrubCat p false 0 0x12 x) [(r, i)] =
      (((s.jobRun .catScrub p).rowReport p r i).unmark 0x12 p r i).blk p 208 := by
    rw [State.scrubWords_cons_bad (by simp [h]), State.scrubCat_good_sister ho hne (by simp [h, hne]), State.scrubWords_nil]
  have hpass := State.catPass_rows_only (s := s.jobRun .catScrub p) h (by
    intro ck hck
    have hck' : ck ≠ 0x12 := by rintro rfl; simp at hck
    simp [hword, State.marksOf_unmark_ne _ _ _ _ _ hck', hn ck hck])
  refine ⟨_, (exec_catScrub_due hdue).trans (congrArg _ (hpass.trans hword)), ?_, ?_, ?_, ?_, ?_, ?_⟩
  · simp [State.marksOf_unmark_self, h]
  · exact CountsUp.of_blk (u := ((s.jobRun .catScrub p).rowReport p r i).unmark 0x12 p r i) (State.rowReport_cnts (s.jobRun .catScrub p) p r i) rfl
  · exact (Raised.rowReport_self (s.jobRun .catScrub p) p r i).of_crossing (by simp [State.unmark])
  · simp [State.rd_rowReport_valid]
  · exact ScrubFrame.eq_of_lrn ((((ScrubFrame.refl (s.jobRun .catScrub p)).rowReport p r i).unmark 0x12 p r i).blk p 208 1) (by simp [State.unmark])
  · exact (SameBits.rowReport (s.jobRun .catScrub p) p r i).of_regs (by simp [State.unmark])

/-- A row bad in every replica opens one repair of its entry, which counts as taken from the mirror. -/
theorem catScrub_repairs (s : State) (p i : Nat) (h : s.marksOf 0x12 p = [(0, i), (1, i), (2, i)])
    (hn : ∀ ck ∈ [0x13, 0x14, 0x15], s.marksOf ck p = []) (hrep : s.lrn.repairs = [])
    (hdue : s.jobDue .catScrub p (ns (s.rd fCAT_SCRUB_PERIOD_US p * 1000)) = true) : Gives (.catScrub p) s fun t =>
    t.lrn.repairs = [⟨0, 0x1A, p, i, 0, .a, none, [], [], [], 0, 0⟩] ∧ t.flt.marks = s.flt.marks ∧
    CountsUp s t [((14, p * 1024 + 209, 0), 1)] ∧ Raised t .CAT_ROW_PARITY p ∧ Raised t .CAT_ROW_LOST p := by
  have hb : ∀ o ∈ [0, 1, 2], (o, i) ∈ s.marksOf 0x12 p := by simp [h]
  have hwhole : ((s.jobRun .catScrub p).rowLost p 0 i).catSister 0x1A p i = false := by
    simp [State.catSister, State.bad_eq, h]
  have hfirst : (((s.jobRun .catScrub p).rowLost p 0 i).repairOpen 0x1A p i).1 =
      (((s.jobRun .catScrub p).rowLost p 0 i).blk p 209).withRepair 0x1A p i := by
    rw [State.repairOpen_first (by simp [hrep]), if_pos (by simp [hwhole])]
  have hwords : (s.jobRun .catScrub p).scrubWords 0x12 p (fun s x => s.scrubCat p false 0 0x12 x) [(0, i), (1, i), (2, i)] =
      (((((s.jobRun .catScrub p).rowLost p 0 i).blk p 209).withRepair 0x1A p i).rowLost p 1 i).rowLost p 2 i := by
    rw [State.scrubWords_cons_bad (by simp [h]), State.scrubCat_no_sister (by simpa using hb), hfirst,
      State.scrubWords_cons_bad (by simp [h]), State.scrubCat_no_sister (by simpa using hb), State.repairOpen_again (by simp),
      State.scrubWords_cons_bad (by simp [h]), State.scrubCat_no_sister (by simpa using hb), State.repairOpen_again (by simp),
      State.scrubWords_nil]
  have hpass := State.catPass_rows_only (s := s.jobRun .catScrub p) h (by
    intro ck hck
    simp [hwords, hn ck hck])
  refine ⟨_, (exec_catScrub_due hdue).trans (congrArg _ (hpass.trans hwords)), ?_, ?_, ?_, ?_, ?_⟩
  · simp [tblPipe, tblInfo]
  · simp
  · exact CountsUp.of_blk (u := (s.jobRun .catScrub p).rowLost p 0 i) (by simp) (by simp)
  · exact Raised.rowLost_row ..
  · exact Raised.rowLost_self ..

end Sys2Proof.Machine
end

section
/-! The Farrier's scrub (R204): a bad rewrite word is rewritten from a good replica, and one bad in all three opens the repair of its entry. -/
namespace Sys2Proof.Machine

/-- The bad words of a checker in the three replicas of one pipeline, which begin at `base`. -/
def State.farWords (s : State) (ck key base : Nat) : List (Nat × Nat) :=
  (s.marksOf ck key).filter fun x => decide (base ≤ x.1) && decide (x.1 < base + 3)

/-- One pass of the Farrier's scrub: the rewrite words, the ARG entries and the egress VLAN entries. -/
def State.farPass (s : State) (p : Nat) : State :=
  let s := s.scrubWords 0x16 p (fun s x => s.scrubFar p 0x20 0x16 p 0 x) (s.farWords 0x16 p 0)
  let s := s.scrubWords 0x17 15 (fun s x => s.scrubFar p 0x21 0x17 15 (3 * p) x) (s.farWords 0x17 15 (3 * p))
  s.scrubWords 0x18 15 (fun s x => s.scrubFar p 0x22 0x18 15 (3 * p) x) (s.farWords 0x18 15 (3 * p))

theorem exec_farScrub_due {s : State} {p : Nat} (h : s.jobDue .farScrub p (ns (s.rd fFAR_SCRUB_PERIOD_US p * 1000)) = true) :
    exec (.farScrub p) s = .next ((s.jobRun .farScrub p).farPass p) := State.scrubJob_due h _

/-- A pass over bad rewrite words alone ends with them. -/
theorem State.farPass_rewrites_only {s : State} {p : Nat} {l : List (Nat × Nat)} (h : s.farWords 0x16 p 0 = l)
    (h17 : (s.scrubWords 0x16 p (fun s x => s.scrubFar p 0x20 0x16 p 0 x) l).marksOf 0x17 15 = [])
    (h18 : (s.scrubWords 0x16 p (fun s x => s.scrubFar p 0x20 0x16 p 0 x) l).marksOf 0x18 15 = []) :
    s.farPass p = s.scrubWords 0x16 p (fun s x => s.scrubFar p 0x20 0x16 p 0 x) l := by
  unfold State.farPass
  simp only [h]
  simp only [State.farWords, h17, h18, List.filter_nil, State.scrubWords_nil]

/-- The report of a bad rewrite word. -/
def State.rewriteReport (s : State) (p r i : Nat) : State :=
  (s.raise .FAR_PARITY p i).parCapture fFAR_PAR_STATUS_VALID p
    [(fFAR_PAR_STATUS_TABLE, 0), (fFAR_PAR_STATUS_REPLICA, r), (fFAR_PAR_STATUS_INDEX, i)]

/-- A rewrite word bad in every replica is reported as lost too. -/
def State.rewriteLost (s : State) (p r i : Nat) : State := (s.rewriteReport p r i).raise .FAR_PARITY_LOST p i

@[simp] theorem State.marksOf_rewriteReport (s : State) (p r i ck q : Nat) : (s.rewriteReport p r i).marksOf ck q = s.marksOf ck q := by
  simp [State.rewriteReport]
@[simp] theorem State.rewriteReport_marks (s : State) (p r i : Nat) : (s.rewriteReport p r i).flt.marks = s.flt.marks := by
  simp [State.rewriteReport]
@[simp] theorem State.rewriteReport_lrn (s : State) (p r i : Nat) : (s.rewriteReport p r i).lrn = s.lrn := by simp [State.rewriteReport]
@[simp] theorem State.rewriteReport_cnts (s : State) (p r i : Nat) : (s.rewriteReport p r i).cnts = s.cnts := by simp [State.rewriteReport]
theorem State.rd_rewriteReport_valid (s : State) (p r i : Nat) : (s.rewriteReport p r i).rd fFAR_PAR_STATUS_VALID p = 1 := by
  rw [State.rewriteReport, State.rd_parCapture_valid _ _ (by decide)]
  simp only [List.forall_mem_cons]
  decide
theorem Raised.rewriteReport_self (s : State) (p r i : Nat) : Raised (s.rewriteReport p r i) .FAR_PARITY p :=
  (Raised.raise_self s .FAR_PARITY p i).of_crossing (congrArg _ (State.parCapture_flt ..))
theorem ScrubFrame.rewriteReport {s t : State} (h : ScrubFrame s t) (p r i : Nat) : ScrubFrame s (t.rewriteReport p r i) :=
  (h.raise .FAR_PARITY p i).parCapture fFAR_PAR_STATUS_VALID p _
theorem SameBits.rewriteReport (s : State) (p r i : Nat) : SameBits s (s.rewriteReport p r i)
    [fFAR_PAR_STATUS_VALID.loc p, fFAR_PAR_STATUS_TABLE.loc p, fFAR_PAR_STATUS_REPLICA.loc p, fFAR_PAR_STATUS_INDEX.loc p] :=
  SameBits.parCapture ((SameBits.refl s _).of_regs (State.raise_regs s .FAR_PARITY p i)) ⟨by decide, by simp⟩ (by simp; decide)

@[simp] theorem State.marksOf_rewriteLost (s : State) (p r i ck q : Nat) : (s.rewriteLost p r i).marksOf ck q = s.marksOf ck q := by
  simp [State.rewriteLost]
@[simp] theorem State.rewriteLost_marks (s : State) (p r i : Nat) : (s.rewriteLost p r i).flt.marks = s.flt.marks := by simp [State.rewriteLost]
@[simp] theorem State.rewriteLost_lrn (s : State) (p r i : Nat) : (s.rewriteLost p r i).lrn = s.lrn := by simp [State.rewriteLost]
@[simp] theorem State.rewriteLost_cnts (s : State) (p r i : Nat) : (s.rewriteLost p r i).cnts = s.cnts := by simp [State.rewriteLost]
theorem Raised.rewriteLost_word (s : State) (p r i : Nat) : Raised (s.rewriteLost p r i) .FAR_PARITY p := (Raised.rewriteReport_self ..).raise ..
theorem Raised.rewriteLost_self (s : State) (p r i : Nat) : Raised (s.rewriteLost p r i) .FAR_PARITY_LOST p := Raised.raise_self ..

/-- A bad rewrite word with a good sister is reported, rewritten and counted. -/
theorem State.scrubFar_good_sister {s : State} {p r o i : Nat} (ho : o ∈ [0, 1, 2]) (hne : o ≠ r) (hg : (o, i) ∉ s.marksOf 0x16 p) :
    s.scrubFar p 0x20 0x16 p 0 (r, i) = ((s.rewriteReport p r i).unmark 0x16 p r i).blk p 238 := by
  have hany : ([0, 1, 2].any fun o => 0 + o != r && !(s.rewriteReport p r i).bad 0x16 p (0 + o) i) = true :=
    List.any_eq_true.mpr ⟨o, ho, by simp [State.bad_eq, hne, hg]⟩
  exact if_pos hany

/-- A rewrite word bad in every replica is reported as lost, and its repair opens. -/
theorem State.scrubFar_no_sister {s : State} {p r i : Nat} (hb : ∀ o ∈ [0, 1, 2], (o, i) ∈ s.marksOf 0x16 p) :
    s.scrubFar p 0x20 0x16 p 0 (r, i) = ((s.rewriteLost p r i).repairOpen 0x20 p i).1 := by
  have hany : ¬([0, 1, 2].any fun o => 0 + o != r && !(s.rewriteReport p r i).bad 0x16 p (0 + o) i) = true := by
    rw [List.any_eq_true]
    rintro ⟨o, ho, hx⟩
    simp [State.bad_eq, hb o ho] at hx
  exact if_neg hany

theorem farScrub_clean (s : State) (p : Nat) (h : s.marksOf 0x16 p = []) (h17 : s.marksOf 0x17 15 = []) (h18 : s.marksOf 0x18 15 = [])
    (hdue : s.jobDue .farScrub p (ns (s.rd fFAR_SCRUB_PERIOD_US p * 1000)) = true) :
    exec (.farScrub p) s = .next { s with tim := { s.tim with jobs := AMap.set s.tim.jobs (.farScrub, p) s.tim.rc } } := by
  rw [exec_farScrub_due hdue, State.farPass_rewrites_only (s := s.jobRun .farScrub p) (l := []) (by simp [State.farWords, h]) h17 h18]
  rfl

/-- A rewrite word bad in one replica is rewritten from a good one. -/
theorem farScrub_rewrites (s : State) (p r i : Nat) (h : s.marksOf 0x16 p = [(r, i)]) (h17 : s.marksOf 0x17 15 = [])
    (h18 : s.marksOf 0x18 15 = []) (hr : r < 3) (hdue : s.jobDue .farScrub p (ns (s.rd fFAR_SCRUB_PERIOD_US p * 1000)) = true) :
    Gives (.farScrub p) s fun t =>
    t.marksOf 0x16 p = [] ∧ CountsUp s t [((14, p * 1024 + 238, 0), 1)] ∧ Raised t .FAR_PARITY p ∧ t.rd fFAR_PAR_STATUS_VALID p = 1 ∧
    t = { s with
      tim := { s.tim with jobs := AMap.set s.tim.jobs (.farScrub, p) s.tim.rc }, regs := t.regs, cnts := t.cnts, saved := t.saved
      flt := { s.flt with crossing := t.flt.crossing, marks := t.flt.marks } } ∧
    SameBits s t [fFAR_PAR_STATUS_VALID.loc p, fFAR_PAR_STATUS_TABLE.loc p, fFAR_PAR_STATUS_REPLICA.loc p, fFAR_PAR_STATUS_INDEX.loc p] := by
  obtain ⟨o, ho, hne⟩ := exists_other_replica r
  have hword : (s.jobRun .farScrub p).scrubWords 0x16 p (fun s x => s.scrubFar p 0x20 0x16 p 0 x) [(r, i)] =
      (((s.jobRun .farScrub p).rewriteReport p r i).unmark 0x16 p r i).blk p 238 := by
    rw [State.scrubWords_cons_bad (by simp [h]), State.scrubFar_good_sister ho hne (by simp [h, hne]), State.scrubWords_nil]
  have hpass := State.farPass_rewrites_only (s := s.jobRun .farScrub p) (p := p) (l := [(r, i)]) (by simp [State.farWords, h, hr])
    (by simp [hword, State.marksOf_unmark_ne, h17]) (by simp [hword, State.marksOf_unmark_ne, h18])
  refine ⟨_, (exec_farScrub_due hdue).trans (congrArg _ (hpass.trans hword)), ?_, ?_, ?_, ?_, ?_, ?_⟩
  · simp [State.marksOf_unmark_self, h]
  · exact CountsUp.of_blk (u := ((s.jobRun .farScrub p).rewriteReport p r i).unmark 0x16 p r i)
      (State.rewriteReport_cnts (s.jobRun .farScrub p) p r i) rfl
  · exact (Raised.rewriteReport_self (s.jobRun .farScrub p) p r i).of_crossing (by simp [State.unmark])
  · simp [State.rd_rewriteReport_valid]
  · exact ScrubFrame.eq_of_lrn ((((ScrubFrame.refl (s.jobRun .farScrub p)).rewriteReport p r i).unmark 0x16 p r i).blk p 238 1)
      (by simp [State.unmark])
  · exact (SameBits.rewriteReport (s.jobRun .farScrub p) p r i).of_regs (by simp [State.unmark])

/-- A rewrite word bad in every replica opens one repair of its entry. -/
theorem farScrub_repairs (s : State) (p i : Nat) (h : s.marksOf 0x16 p = [(0, i), (1, i), (2, i)]) (h17 : s.marksOf 0x17 15 = [])
    (h18 : s.marksOf 0x18 15 = []) (hrep : s.lrn.repairs = [])
    (hdue : s.jobDue .farScrub p (ns (s.rd fFAR_SCRUB_PERIOD_US p * 1000)) = true) : Gives (.farScrub p) s fun t =>
    t.lrn.repairs = [⟨0, 0x20, p, i, 0, .a, none, [], [], [], 0, 0⟩] ∧ t.flt.marks = s.flt.marks ∧ t.cnts = s.cnts ∧
    Raised t .FAR_PARITY p ∧ Raised t .FAR_PARITY_LOST p := by
  have hb : ∀ o ∈ [0, 1, 2], (o, i) ∈ s.marksOf 0x16 p := by simp [h]
  have hwords : (s.jobRun .farScrub p).scrubWords 0x16 p (fun s x => s.scrubFar p 0x20 0x16 p 0 x) [(0, i), (1, i), (2, i)] =
      ((((s.jobRun .farScrub p).rewriteLost p 0 i).withRepair 0x20 p i).rewriteLost p 1 i).rewriteLost p 2 i := by
    rw [State.scrubWords_cons_bad (by simp [h]), State.scrubFar_no_sister (by simpa using hb),
      State.repairOpen_first_other (by simp [hrep]) _ _ (by decide),
      State.scrubWords_cons_bad (by simp [h]), State.scrubFar_no_sister (by simpa using hb), State.repairOpen_again (by simp),
      State.scrubWords_cons_bad (by simp [h]), State.scrubFar_no_sister (by simpa using hb), State.repairOpen_again (by simp),
      State.scrubWords_nil]
  have hpass := State.farPass_rewrites_only (s := s.jobRun .farScrub p) (p := p) (l := [(0, i), (1, i), (2, i)]) (by simp [State.farWords, h])
    (by simp [hwords, h17]) (by simp [hwords, h18])
  refine ⟨_, (exec_farScrub_due hdue).trans (congrArg _ (hpass.trans hwords)), ?_, ?_, ?_, ?_, ?_⟩
  · simp [tblPipe, tblInfo]
  · simp
  · simp
  · exact Raised.rewriteLost_word ..
  · exact Raised.rewriteLost_self ..

end Sys2Proof.Machine
end

section
/-! The scrubs of the overflow stores and the buckets (R128, R129), which have no sister to copy: every bad entry opens its repair. -/
namespace Sys2Proof.Machine

/-! ### The overflow scrub (R129) -/

theorem exec_overflowScrub_due {s : State} {u : Nat}
    (h : s.jobDue .overflowScrub u (ns ((if u < 8 then s.rd fBRS_SCRUB_OVF_PERIOD_US u else s.rd fKST_SCRUB_OVF_PERIOD_US) * 1000)) = true) :
    exec (.overflowScrub u) s = .next ((s.jobRun .overflowScrub u).scrubOvfAll u) := State.scrubJob_due h _

/-- The counting of a bridge entry changes only registers. -/
theorem State.bridgeUse_only_regs (s : State) (p i : Nat) (up : Bool) : s.bridgeUse p i up = { s with regs := (s.bridgeUse p i up).regs } := by
  unfold State.bridgeUse
  dsimp only
  repeat' split
  all_goals rfl

@[simp] theorem State.bridgeUse_flt (s : State) (p i : Nat) (up : Bool) : (s.bridgeUse p i up).flt = s.flt := by rw [State.bridgeUse_only_regs]
@[simp] theorem State.bridgeUse_lrn (s : State) (p i : Nat) (up : Bool) : (s.bridgeUse p i up).lrn = s.lrn := by rw [State.bridgeUse_only_regs]
@[simp] theorem State.bridgeUse_tables (s : State) (p i : Nat) (up : Bool) : (s.bridgeUse p i up).tables = s.tables := by
  rw [State.bridgeUse_only_regs]

/-- The counting of a key-store entry changes only registers. -/
theorem State.kstUse_only_regs (s : State) (i : Nat) (up : Bool) : s.kstUse i up = { s with regs := (s.kstUse i up).regs } := by
  unfold State.kstUse
  dsimp only
  repeat' split
  all_goals rfl

/-- A field counted down reads one less, or 0. -/
theorem State.rd_sub_self (s : State) (f : Fld) (n p i j k : Nat) (h : f.ok) : (s.sub f n p i j k).rd f p i j k = s.rd f p i j k - n := by
  unfold State.sub
  rw [State.rd_wr_self _ _ _ _ _ _ _ h]
  exact Nat.mod_eq_of_lt (Nat.lt_of_le_of_lt (Nat.sub_le ..) (Nat.mod_lt _ (Nat.two_pow_pos _)))

/-- An overflow entry that goes is counted down, whatever its high-water mark. -/
theorem State.rd_bridgeUse_ovf (s : State) {p i : Nat} (hi : 524288 ≤ i) :
    (s.bridgeUse p i false).rd fBRS_OVF_COUNT_OVF_ENTRIES p = s.rd fBRS_OVF_COUNT_OVF_ENTRIES p - 1 := by
  have hsub := State.rd_sub_self s fBRS_OVF_COUNT_OVF_ENTRIES 1 p 0 0 0 (by decide)
  simp only [State.bridgeUse, Nat.not_lt.mpr hi, if_false, Bool.false_eq_true]
  split
  · rw [State.rd_wr_apart _ _ _ _ _ _ _ _ _ _ _ _ (by decide) (by decide) (by decide), hsub]
  · exact hsub

/-- The bridge store's scrub of a bad static overflow entry: counted down, its hit bit cleared, invalidated, reported, and its repair open. -/
theorem State.scrubOvf_static {s : State} {u i : Nat} (hu : u < 8) (hv : bridgeV (s.ent 0x0C u i) = true)
    (hst : bridgeStatic (s.ent 0x0C u i) = true) : s.scrubOvf u i =
      (((((s.bridgeUse u i false).clearHit u i).setEnt 0x0C u i (zeros 3)).raise .OVF_SCRUB u i).repairOpen 0x0C u i).1 := by
  simp only [State.scrubOvf, hu, hv, hst, if_true]

/-- The overflow entries that a pass finds bad at one index alone are scrubbed once. -/
theorem State.scrubOvfAll_one {s : State} {u r i : Nat} (h : s.marksOf (if u < 8 then 0x08 else 0x0A) (if u < 8 then u else 15) = [(r, i)]) :
    s.scrubOvfAll u = s.scrubOvf u i := by
  have hl : (if u < 8 then s.marksOf 0x08 u else s.marksOf 0x0A 15) = [(r, i)] := by
    rw [← h]; split <;> rfl
  unfold State.scrubOvfAll
  rw [hl]
  rfl

theorem overflowScrub_clean (s : State) (u : Nat) (h : s.marksOf (if u < 8 then 0x08 else 0x0A) (if u < 8 then u else 15) = [])
    (hdue : s.jobDue .overflowScrub u (ns ((if u < 8 then s.rd fBRS_SCRUB_OVF_PERIOD_US u else s.rd fKST_SCRUB_OVF_PERIOD_US) * 1000)) = true) :
    exec (.overflowScrub u) s = .next { s with tim := { s.tim with jobs := AMap.set s.tim.jobs (.overflowScrub, u) s.tim.rc } } := by
  have hl : (if u < 8 then (s.jobRun .overflowScrub u).marksOf 0x08 u else (s.jobRun .overflowScrub u).marksOf 0x0A 15) = [] := by
    rw [← h]; split <;> rfl
  rw [exec_overflowScrub_due hdue, State.scrubOvfAll, hl]
  rfl

/-- A bad static overflow entry of a bridge store is invalidated, and its repair opens. -/
theorem overflowScrub_bridge (s : State) (u r i : Nat) (hu : u < 8) (hi : 524288 ≤ i) (h : s.marksOf 0x08 u = [(r, i)])
    (hnext : s.flt.nextMarks = []) (hrep : s.lrn.repairs = []) (hv : bridgeV (s.ent 0x0C u i) = true) (hst : bridgeStatic (s.ent 0x0C u i) = true)
    (hdue : s.jobDue .overflowScrub u (ns (s.rd fBRS_SCRUB_OVF_PERIOD_US u * 1000)) = true) : Gives (.overflowScrub u) s fun t =>
    t.ent 0x0C u i = zeros 3 ∧ t.marksOf 0x08 u = [] ∧ t.lrn.repairs = [⟨0, 0x0C, u, i, 0, .a, none, [], [], [], 0, 0⟩] ∧ Raised t .OVF_SCRUB u ∧
    t.rd fBRS_OVF_COUNT_OVF_ENTRIES u = s.rd fBRS_OVF_COUNT_OVF_ENTRIES u - 1 ∧
    (∀ ti p j, (ti, tblPipe ti p, j) ≠ (0x0C, u, i) → t.ent ti p j = s.ent ti p j) ∧
    t = { s with
      tim := { s.tim with jobs := AMap.set s.tim.jobs (.overflowScrub, u) s.tim.rc }, regs := t.regs, tables := t.tables
      lrn := { s.lrn with repairs := t.lrn.repairs, hits := t.lrn.hits }
      flt := { s.flt with crossing := t.flt.crossing, marks := t.flt.marks } } := by
  have hcheck : entChecks 0x0C i = [(0x08, i)] := by simp [entChecks, Nat.not_lt.mpr hi]
  obtain ⟨b, hb⟩ : ∃ b, b = ((s.jobRun .overflowScrub u).bridgeUse u i false).clearHit u i := ⟨_, rfl⟩
  have hflt : b.flt = s.flt := by simp [hb, State.clearHit]
  have hbn : b.flt.nextMarks = [] := by rw [hflt, hnext]
  have hbr : b.lrn.repairs = [] := by simp [hb, State.clearHit, hrep]
  have hbt : b.tables = s.tables := by simp [hb, State.clearHit]
  have hset := State.setEnt_unarmed hbn (p := u) hcheck (zeros 3)
  have hpass : (s.jobRun .overflowScrub u).scrubOvfAll u = ((b.setEnt 0x0C u i (zeros 3)).raise .OVF_SCRUB u i).withRepair 0x0C u i := by
    rw [State.scrubOvfAll_one (r := r) (by simpa [hu] using h), State.scrubOvf_static (s := s.jobRun .overflowScrub u) hu hv hst, ← hb,
      State.repairOpen_first_other (by simp [hset, hbr]) _ _ (by decide)]
  have htables : (((b.setEnt 0x0C u i (zeros 3)).raise .OVF_SCRUB u i).withRepair 0x0C u i).tables =
      AMap.set s.tables (0x0C, tblPipe 0x0C u, i) (zeros 3) := by
    simp [hset, hbt]
  refine ⟨_, (exec_overflowScrub_due (by simpa [hu] using hdue)).trans (congrArg _ hpass), State.ent_of_set htables, ?_, ?_, ?_, ?_,
    fun ti p j hne => State.ent_of_set_ne htables hne, ?_⟩
  · have hmarks : (b.setEnt 0x0C u i (zeros 3)).marksOf 0x08 u = (b.marksOf 0x08 u).filter (·.2 != i) := State.marksOf_setEnt_unarmed hbn hcheck _
    have hbm : b.marksOf 0x08 u = s.marksOf 0x08 u := State.marksOf_congr (by rw [hflt]) _ _
    simp [hmarks, hbm, h]
  · simp [tblPipe, tblInfo]
  · exact (Raised.raise_self ..).withRepair ..
  · rw [State.rd_withRepair_apart _ _ _ _ _ _ _ _ (by decide) (by decide), State.rd_raise, hset, hb]
    exact State.rd_bridgeUse_ovf (s.jobRun .overflowScrub u) hi
  · rw [hset, hb, State.bridgeUse_only_regs]
    rfl

/-- A bad overflow entry of the key store is invalidated in both copies, and its repair opens. -/
theorem overflowScrub_keyStore (s : State) (r i : Nat) (hi : 1048576 ≤ i) (h : s.marksOf 0x0A 15 = [(r, i)]) (hnext : s.flt.nextMarks = [])
    (hrep : s.lrn.repairs = []) (hdue : s.jobDue .overflowScrub 8 (ns (s.rd fKST_SCRUB_OVF_PERIOD_US * 1000)) = true) :
    Gives (.overflowScrub 8) s fun t =>
    t.ent 0x0D 15 i = zeros 5 ∧ t.lrn.repairs = [⟨0, 0x0D, 15, i, 0, .a, none, [], [], [], 0, 0⟩] ∧ Raised t .OVF_SCRUB 8 := by
  have hcheck : entChecks 0x0D i = [(0x0A, i)] := by simp [entChecks, Nat.not_lt.mpr hi]
  obtain ⟨b, hscrub, hflt, hlrn⟩ : ∃ b : State, (s.jobRun .overflowScrub 8).scrubOvf 8 i =
      (((b.setEnt 0x0D 15 i (zeros 5)).raise .OVF_SCRUB 8 i).repairOpen 0x0D 15 i).1 ∧ b.flt = s.flt ∧ b.lrn = s.lrn := by
    refine ⟨_, rfl, ?_, ?_⟩
    all_goals
      split
      · rw [State.kstUse_only_regs]; rfl
      · rfl
  have hset := State.setEnt_unarmed (s := b) (by rw [hflt, hnext]) (p := 15) hcheck (zeros 5)
  have hpass : (s.jobRun .overflowScrub 8).scrubOvfAll 8 = ((b.setEnt 0x0D 15 i (zeros 5)).raise .OVF_SCRUB 8 i).withRepair 0x0D 15 i := by
    rw [State.scrubOvfAll_one (r := r) h, hscrub, State.repairOpen_first_other (by simp [hset, hlrn, hrep]) _ _ (by decide)]
  refine ⟨_, (exec_overflowScrub_due hdue).trans (congrArg _ hpass), ?_, ?_, ?_⟩
  · exact State.ent_of_set (s := b) (by simp [hset])
  · simp [tblPipe, tblInfo]
  · exact (Raised.raise_self ..).withRepair ..

/-! ### The bucket scrub (R128, R129) -/

theorem exec_bucketScrub_due {s : State} {u : Nat}
    (h : s.jobDue .bucketScrub u
      (ns (1000 * (if u < 8 then s.rd fBRS_SCRUB_BUCKET_PERIOD_MS u else s.rd fKST_SCRUB_BUCKET_PERIOD_MS) * 1000)) = true) :
    exec (.bucketScrub u) s = .next ((s.jobRun .bucketScrub u).scrubBuckets u) := State.scrubJob_due h _

/-- The report of a bad bridge bucket. -/
def State.bucketReport (s : State) (u i : Nat) : State :=
  (s.raise .BRS_PARITY u i).parCapture fBRS_PAR_STATUS_VALID u [(fBRS_PAR_STATUS_TABLE, brsTable 0x0C i), (fBRS_PAR_STATUS_INDEX, i)]

/-- The report of a bad key-store bucket of a copy. -/
def State.keyBucketReport (s : State) (r i : Nat) : State :=
  (s.raise .KST_PARITY 0 i).parCapture fKST_PAR_STATUS_VALID 0
    [(fKST_PAR_STATUS_COPY, 4 * r / 4), (fKST_PAR_STATUS_TABLE, if i < 1048576 then 0 else 1), (fKST_PAR_STATUS_INDEX, i)]

theorem State.lkReport_bridge (s : State) (u i : Nat) : s.lkReport u 0x0C i = s.bucketReport u i := rfl
theorem State.lkReport_key (s : State) (r i : Nat) : s.lkReport (4 * r) 0x0D i = s.keyBucketReport r i := rfl

@[simp] theorem State.bucketReport_lrn (s : State) (u i : Nat) : (s.bucketReport u i).lrn = s.lrn := by simp [State.bucketReport]

theorem bucketScrub_clean (s : State) (u : Nat) (hu : u < 8) (h : s.marksOf 0x07 u = [])
    (hdue : s.jobDue .bucketScrub u (ns (1000 * s.rd fBRS_SCRUB_BUCKET_PERIOD_MS u * 1000)) = true) :
    exec (.bucketScrub u) s = .next { s with tim := { s.tim with jobs := AMap.set s.tim.jobs (.bucketScrub, u) s.tim.rc } } := by
  rw [exec_bucketScrub_due (by simpa [hu] using hdue)]
  simp only [State.scrubBuckets, hu, if_true, State.marksOf_jobRun, h, List.foldl_nil]
  rfl

/-- A bad bridge bucket is reported, and the repair of its entry opens. -/
theorem bucketScrub_bridge (s : State) (u r i : Nat) (hu : u < 8) (h : s.marksOf 0x07 u = [(r, i)]) (hrep : s.lrn.repairs = [])
    (hdue : s.jobDue .bucketScrub u (ns (1000 * s.rd fBRS_SCRUB_BUCKET_PERIOD_MS u * 1000)) = true) : Gives (.bucketScrub u) s fun t =>
    t.lrn.repairs = [⟨0, 0x0C, u, i, 0, .a, none, [], [], [], 0, 0⟩] ∧ t.rd fCLE_REPAIR_STATUS_OPEN = min 15 (s.rd fCLE_REPAIR_STATUS_OPEN + 1) ∧
    Raised t .BRS_PARITY u ∧ t.rd fBRS_PAR_STATUS_VALID u = 1 ∧
    t = { s with
      tim := { s.tim with jobs := AMap.set s.tim.jobs (.bucketScrub, u) s.tim.rc }, regs := t.regs
      lrn := { s.lrn with repairs := t.lrn.repairs }, flt := { s.flt with crossing := t.flt.crossing } } ∧
    SameBits s t [fCLE_REPAIR_STATUS_OPEN.loc, fBRS_PAR_STATUS_VALID.loc u, fBRS_PAR_STATUS_TABLE.loc u, fBRS_PAR_STATUS_INDEX.loc u] := by
  have hpass : (s.jobRun .bucketScrub u).scrubBuckets u = ((s.jobRun .bucketScrub u).bucketReport u i).withRepair 0x0C u i := by
    simp only [State.scrubBuckets, hu, if_true, State.marksOf_jobRun, h, List.foldl_cons, List.foldl_nil, State.lkReport_bridge]
    exact State.repairOpen_first_other (by simp [hrep]) _ _ (by decide)
  have hbits : SameBits s ((s.jobRun .bucketScrub u).bucketReport u i)
      [fCLE_REPAIR_STATUS_OPEN.loc, fBRS_PAR_STATUS_VALID.loc u, fBRS_PAR_STATUS_TABLE.loc u, fBRS_PAR_STATUS_INDEX.loc u] :=
    SameBits.parCapture ((SameBits.refl s _).of_regs (State.raise_regs (s.jobRun .bucketScrub u) .BRS_PARITY u i)) ⟨by decide, by simp⟩
      (by simp; decide)
  refine ⟨_, (exec_bucketScrub_due (by simpa [hu] using hdue)).trans (congrArg _ hpass), ?_, ?_, ?_, ?_, ?_,
    hbits.withRepair (by simp) 0x0C u i⟩
  · simp [tblPipe, tblInfo]
  · rw [State.rd_withRepair_open]
    have hopen : ((s.jobRun .bucketScrub u).bucketReport u i).rd fCLE_REPAIR_STATUS_OPEN = s.rd fCLE_REPAIR_STATUS_OPEN :=
      State.rd_parCapture_apart _ _ _ _ _ _ (by decide) (by decide) (by simp only [List.forall_mem_cons]; decide)
    rw [hopen]
  · exact ((Raised.raise_self (s.jobRun .bucketScrub u) .BRS_PARITY u i).of_crossing (congrArg _ (State.parCapture_flt ..))).withRepair ..
  · rw [State.rd_withRepair_apart _ _ _ _ _ _ _ _ (by decide) (by decide)]
    refine State.rd_parCapture_valid _ _ (by decide) ?_
    simp only [List.forall_mem_cons]
    decide
  · exact ScrubFrame.eq_of_cnts_marks ((((ScrubFrame.refl (s.jobRun .bucketScrub u)).raise .BRS_PARITY u i).parCapture fBRS_PAR_STATUS_VALID u
      _).withRepair 0x0C u i) (by simp) (by simp) (by simp)

/-- A bad key-store bucket is reported, and the repair of its entry opens. -/
theorem bucketScrub_keyStore (s : State) (r i : Nat) (h : s.marksOf 0x09 15 = [(r, i)]) (h11 : s.marksOf 0x0B 15 = []) (hrep : s.lrn.repairs = [])
    (hdue : s.jobDue .bucketScrub 8 (ns (1000 * s.rd fKST_SCRUB_BUCKET_PERIOD_MS * 1000)) = true) : Gives (.bucketScrub 8) s fun t =>
    t.lrn.repairs = [⟨0, 0x0D, 15, i, 0, .a, none, [], [], [], 0, 0⟩] ∧ Raised t .KST_PARITY ∧ t.tables = s.tables := by
  have hpass : (s.jobRun .bucketScrub 8).scrubBuckets 8 = ((s.jobRun .bucketScrub 8).keyBucketReport r i).withRepair 0x0D 15 i := by
    have hword : (((s.jobRun .bucketScrub 8).keyBucketReport r i).repairOpen 0x0D 15 i).1 =
        ((s.jobRun .bucketScrub 8).keyBucketReport r i).withRepair 0x0D 15 i :=
      State.repairOpen_first_other (by simp [State.keyBucketReport, hrep]) _ _ (by decide)
    simp only [State.scrubBuckets, if_neg (by decide : ¬ 8 < 8), State.marksOf_jobRun, h, List.foldl_cons, List.foldl_nil, State.lkReport_key,
      hword]
    simp [State.keyBucketReport, h11]
  refine ⟨_, (exec_bucketScrub_due hdue).trans (congrArg _ hpass), ?_, ?_, ?_⟩
  · simp [tblPipe, tblInfo]
  · exact ((Raised.raise_self (s.jobRun .bucketScrub 8) .KST_PARITY 0 i).of_crossing (congrArg _ (State.parCapture_flt ..))).withRepair ..
  · simp [State.keyBucketReport]

end Sys2Proof.Machine
end

section
/-! The statement on the scrubs of the tables (R105, R128, R129, R149, R175, R204). -/
namespace Sys2Proof.Machine

/-- Settles O22: each clause is the due, clean, rewritten or lost case of one scrub, or its pass before the period is over. -/
theorem scrubs : Obligations.Scrubs :=
  ⟨readerScrub_clean, fun s p r i h1 h2 _ => readerScrub_rewrites s p r i h1 h2, fun s p i h1 h2 _ => readerScrub_repairs s p i h1 h2,
    overflowScrub_clean, overflowScrub_bridge, overflowScrub_keyStore, bucketScrub_clean, bucketScrub_bridge, bucketScrub_keyStore,
    catScrub_clean, fun s p r i h hn _ => catScrub_rewrites s p r i h hn, fun s p i _ => catScrub_repairs s p i,
    farScrub_clean, farScrub_rewrites, fun s p i _ => farScrub_repairs s p i,
    fun _ _ h => State.scrubJob_not_due h _, fun _ _ h => State.scrubJob_not_due h _, fun _ _ h => State.scrubJob_not_due h _,
    fun _ _ hu h => State.scrubJob_not_due (by simpa [hu] using h) _, fun _ _ hu h => State.scrubJob_not_due (by simpa [hu] using h) _⟩

end Sys2Proof.Machine
end

section
/-! The mirror's write stream (R147): a unit that waits for archive memory under its channel keeps the turn, whether the mirror has records or not. -/
namespace Sys2Proof.Machine

/-- A unit in progress on an engine keeps the turn for its channel, whatever work that channel has (R334). -/
theorem State.engineNext_of_unit {s : State} {e : Nat} {u : ArcUnit} (h : s.drm.units.find? (fun u => u.chan / 16 == e) = some u) :
    s.engineNext e = some u.chan := by
  simp [State.engineNext, h]

/-- A state as reset leaves it, no mirror running, but with a unit in progress under the channel of host A's mirror. -/
def idleMirrorWithUnit : State :=
  { State.reset with drm := { State.reset.drm with units := [⟨chanOf .a 17, [], .ok, [], 0, [], []⟩] } }

/-- The mirror's channel has the turn there. -/
theorem idleMirrorWithUnit_turn : idleMirrorWithUnit.engineNext (chanOf .a 17 / 16) = some (chanOf .a 17) :=
  State.engineNext_of_unit (u := ⟨chanOf .a 17, [], .ok, [], 0, [], []⟩) rfl

/-- MIRROR_WRITE takes that turn, and the engine notes which channel it served last. -/
theorem idleMirrorWithUnit_mirrorWrite : Gives (.mirrorWrite .a) idleMirrorWithUnit fun t => AMap.get? t.hst.turns 1 = some 4 :=
  ⟨_, rfl, by
    rw [State.unit, if_pos idleMirrorWithUnit_turn]
    decide +kernel⟩

/-- Refutes O24: its fifth clause says that MIRROR_WRITE of a mirror that does not run changes nothing. It does not ask that no unit waits for archive
memory under the mirror's channel; such a unit has the turn with no record queued, and the unit that MIRROR_WRITE then runs moves the engine's last
channel. -/
theorem not_mirrors : ¬ Obligations.Mirrors := by
  unfold Obligations.Mirrors
  rintro ⟨-, -, -, -, hidle, -⟩
  obtain ⟨t, hrun, hturn⟩ := idleMirrorWithUnit_mirrorWrite
  have hsame := hidle idleMirrorWithUnit .a (.inr (.inl rfl))
  obtain rfl : t = idleMirrorWithUnit := by simpa [hrun] using hsame
  exact absurd hturn (by decide)

end Sys2Proof.Machine
end

section
/-! The count of a repair's event that finds a ring full (R143, R149, R349). -/
namespace Sys2Proof.Machine

/-- An open repair without a record of an entry of table 0x01, whose pipeline number is none of the eight: it does not fit the four bits of an event
record. -/
def strayRepair : Repair := ⟨3, 0x01, 17, 0, 2, .a, none, [(0, 3), (1, 2)], [(1, 2)], [], 0, 0⟩

/-- The Clerk is to write that repair, and host A's event ring is on, of one entry, and full. -/
def strayRepairDue : State :=
  let s := ((State.reset.wr fHST_CH_CFG_EN 1 0 (chanOf .a 14)).wr fHST_CH_CFG_LOG2_SIZE 0 0 (chanOf .a 14)).wr fHST_CH_DEV_IDX_IDX 1 0 (chanOf .a 14)
  { s with lrn := { s.lrn with repairs := [strayRepair] }, clerk := { s.clerk with work := .repairWrite 3 } }

/-- REPAIR_WRITE counts the event that the ring discards in the pipeline that the record names, 17 modulo 16. -/
theorem strayRepairDue_repairWrite : Gives .repairWrite strayRepairDue fun t => t.cnt 14 (1 * 1024 + 173) 0 = 1 :=
  ⟨_, rfl, by decide +kernel⟩

/-- Refutes O25: its ninth clause bounds the pipeline of a repair without a record by nothing. For pipeline 17 it lets the discarded event count in
pipeline 0 alone, and REPAIR_WRITE counts it in pipeline 1, which the record's four bits give. -/
theorem not_repairs : ¬ Obligations.Repairs := by
  unfold Obligations.Repairs
  rintro ⟨-, -, -, -, -, -, -, -, hlost, -⟩
  obtain ⟨t, hrun, -, -, -, -, -, hcounts, -⟩ := hlost strayRepairDue 3 strayRepair rfl rfl rfl rfl (by decide) rfl rfl rfl rfl
  obtain ⟨u, hrun', hcnt⟩ := strayRepairDue_repairWrite
  obtain rfl : t = u := by simpa [hrun] using hrun'
  have hzero : AMap.getD t.cnts (14, 1 * 1024 + 173, 0) 0 = 0 := (hcounts _).trans (by decide +kernel)
  rw [State.cnt, hzero] at hcnt
  exact absurd hcnt (by decide)

end Sys2Proof.Machine
end

section
/-! Events and level sources, one rule each: what an event leaves on the rings and in the counters (R143, R349), and what the end and the start of a
level source leave in the collector (R399, R411). -/
namespace Sys2Proof.Machine

/-! ### Counters and registers -/

/-- Counters that rise twice rise by both lists. -/
theorem CountsUp.trans {s t u : State} {l m : List ((Nat × Nat × Nat) × Nat)} (h : CountsUp s t l) (h' : CountsUp t u m) :
    CountsUp s u (l ++ m) := by
  intro key
  rw [h' key, h key, List.filter_append, List.map_append, List.sum_append, Nat.add_assoc]

/-- The live counters alone say which have risen. -/
theorem CountsUp.of_cnts {s t s' t' : State} {l : List ((Nat × Nat × Nat) × Nat)} (h : CountsUp s t l) (hs : s'.cnts = s.cnts)
    (ht : t'.cnts = t.cnts) : CountsUp s' t' l := by
  intro key
  rw [hs, ht, h key]

theorem CountsUp.of_cnts_eq {s t : State} (h : t.cnts = s.cnts) : CountsUp s t [] := by
  intro key
  rw [h, List.filter_nil, List.map_nil, List.sum_nil, Nat.add_zero]

/-- A field of a register that has no listed field reads the same. -/
theorem SameBits.rd_eq {s t : State} {ex : List FldAt} (h : SameBits s t ex) {f : Fld} (hf : f.ok) (hx : ∀ x ∈ ex, f.reg ≠ x.fld.reg)
    (p i j k : Nat) : t.rd f p i j k = s.rd f p i j k :=
  h ⟨f, p, i, j, k⟩ hf fun x hm => .inl (hx x hm)

/-- A block counter changes only the counters and their saved copies. -/
theorem State.blk_only (s : State) (p x n : Nat) : s.blk p x n = { s with cnts := (s.blk p x n).cnts, saved := (s.blk p x n).saved } := by
  unfold State.blk State.count State.countAt
  dsimp only
  repeat' split
  all_goals rfl

/-! ### What an event leaves on one host's ring (R349) -/

/-- What a host's event ring takes of an offered record: the record, when the ring is on and has room. -/
def State.eventKept (s : State) (h : HostId) (r : List Word) : List (List Word) :=
  if s.on fHST_CH_CFG_EN 0 (chanOf h 14) = true ∧ s.ringUsed (chanOf h 14) + (s.eventsOf h).length < s.ringSize (chanOf h 14) then [r] else []

/-- What the discard of an event of pipeline p at one host counts, when that host's ring is on and full. -/
def State.eventDrop (s : State) (h : HostId) (p : Nat) : List ((Nat × Nat × Nat) × Nat) :=
  if s.on fHST_CH_CFG_EN 0 (chanOf h 14) = true ∧ s.ringSize (chanOf h 14) ≤ s.ringUsed (chanOf h 14) + (s.eventsOf h).length then
    [((14, (if p < 8 then p else 0) * 1024 + 173, 0), 1)]
  else []

theorem told_iff (s t : State) (r : List Word) : Told s t r ↔ ∀ h, t.eventsOf h = s.eventsOf h ++ s.eventKept h r := Iff.rfl

theorem State.evtDrops_eq (s : State) (p : Nat) : s.evtDrops p = s.eventDrop .a p ++ s.eventDrop .b p := by
  simp [State.evtDrops, State.eventDrop, hosts]

/-- Whether a host's event ring keeps a record depends on these fields and on the events that wait. -/
def ringFields : List Fld := [fHST_CH_CFG_EN, fHST_CH_CFG_LOG2_SIZE, fHST_CH_DEV_IDX_IDX, fHST_CH_HOST_IDX_IDX]

/-- Two states in which a host's event ring takes and discards the same. -/
def SameRing (s u : State) (h : HostId) : Prop :=
  u.eventsOf h = s.eventsOf h ∧ ∀ f ∈ ringFields, u.rd f 0 (chanOf h 14) = s.rd f 0 (chanOf h 14)

/-- Such rings are on together, hold as much and have the same size. -/
theorem SameRing.reads {s u : State} {h : HostId} (e : SameRing s u h) :
    u.on fHST_CH_CFG_EN 0 (chanOf h 14) = s.on fHST_CH_CFG_EN 0 (chanOf h 14) ∧ u.ringUsed (chanOf h 14) = s.ringUsed (chanOf h 14) ∧
      u.ringSize (chanOf h 14) = s.ringSize (chanOf h 14) := by
  have hrd := e.2
  simp only [ringFields, List.forall_mem_cons] at hrd
  obtain ⟨hen, hsize, hdev, hhost, -⟩ := hrd
  refine ⟨congrArg (· == 1) hen, ?_, congrArg (2 ^ ·) hsize⟩
  rw [State.ringUsed, hdev, hhost, State.ringUsed]

theorem SameRing.eventKept {s u : State} {h : HostId} (e : SameRing s u h) (r : List Word) : u.eventKept h r = s.eventKept h r := by
  obtain ⟨hon, hused, hsize⟩ := e.reads
  rw [State.eventKept, e.1, hon, hused, hsize, State.eventKept]

theorem SameRing.eventDrop {s u : State} {h : HostId} (e : SameRing s u h) (p : Nat) : u.eventDrop h p = s.eventDrop h p := by
  obtain ⟨hon, hused, hsize⟩ := e.reads
  rw [State.eventDrop, e.1, hon, hused, hsize, State.eventDrop]

/-- What an offer of a record to one host does: it keeps the record, counts its discard, or finds the ring off. -/
theorem State.eventTo_cases (s : State) (h : HostId) (r : List Word) :
    (s.eventTo h r = { s with hst := { s.hst with events := AMap.set s.hst.events h (s.eventsOf h ++ [r]) } } ∧ s.eventKept h r = [r] ∧
      ∀ p, s.eventDrop h p = []) ∨
    (s.eventTo h r = s.blk (if bitsOf (r.getD 0 0).toNat 11 8 < 8 then bitsOf (r.getD 0 0).toNat 11 8 else 0) 173 ∧ s.eventKept h r = [] ∧
      ∀ p, s.eventDrop h p = [((14, (if p < 8 then p else 0) * 1024 + 173, 0), 1)]) ∨
    (s.eventTo h r = s ∧ s.eventKept h r = [] ∧ ∀ p, s.eventDrop h p = []) := by
  unfold State.eventTo State.eventKept State.eventDrop
  by_cases hon : s.on fHST_CH_CFG_EN 0 (chanOf h 14) = true
  · by_cases hroom : s.ringUsed (chanOf h 14) + (s.eventsOf h).length < s.ringSize (chanOf h 14)
    · exact .inl (by simp [hon, hroom])
    · exact .inr (.inl (by simp [hon, hroom, Nat.not_lt.mp hroom]))
  · exact .inr (.inr (by simp [hon]))

theorem State.eventsOf_eventTo_self (s : State) (h : HostId) (r : List Word) :
    (s.eventTo h r).eventsOf h = s.eventsOf h ++ s.eventKept h r := by
  obtain ⟨heq, hkept, -⟩ | ⟨heq, hkept, -⟩ | ⟨heq, hkept, -⟩ := s.eventTo_cases h r <;> rw [heq, hkept] <;> simp [State.eventsOf]

theorem State.eventsOf_eventTo_ne (s : State) {h h' : HostId} (r : List Word) (hne : h' ≠ h) : (s.eventTo h r).eventsOf h' = s.eventsOf h' := by
  obtain ⟨heq, -⟩ | ⟨heq, -⟩ | ⟨heq, -⟩ := s.eventTo_cases h r <;> rw [heq] <;> simp [State.eventsOf, AMap.getD_set_ne _ _ _ hne]

/-- An offer to one host leaves the other host's ring. -/
theorem SameRing.eventTo_ne (s : State) {h h' : HostId} (r : List Word) (hne : h' ≠ h) : SameRing s (s.eventTo h r) h' :=
  ⟨s.eventsOf_eventTo_ne r hne, fun _ _ => State.rd_congr (by simp) ..⟩

/-- A record's discard counts in the pipeline that its word 0 names. -/
theorem CountsUp.eventTo (s : State) (h : HostId) {r : List Word} {p : Nat} (hp : bitsOf (r.getD 0 0).toNat 11 8 = p) :
    CountsUp s (s.eventTo h r) (s.eventDrop h p) := by
  obtain ⟨heq, -, hdrop⟩ | ⟨heq, -, hdrop⟩ | ⟨heq, -, hdrop⟩ := s.eventTo_cases h r
  · rw [heq, hdrop]
    exact CountsUp.of_cnts_eq rfl
  · rw [heq, hdrop, hp]
    exact CountsUp.of_blk rfl rfl
  · rw [heq, hdrop]
    exact CountsUp.of_cnts_eq rfl

/-- An offer changes only the events that wait, the counters and their saved copies. -/
theorem State.eventTo_only (s : State) (h : HostId) (r : List Word) :
    s.eventTo h r = { s with
      cnts := (s.eventTo h r).cnts, saved := (s.eventTo h r).saved, hst := { s.hst with events := (s.eventTo h r).hst.events } } := by
  obtain ⟨heq, -⟩ | ⟨heq, -⟩ | ⟨heq, -⟩ := s.eventTo_cases h r <;> rw [heq]
  rw [State.blk_only]

/-! ### An event offered to both hosts -/

/-- Word 0 of an event record names its pipeline. -/
theorem State.eventRec_pipe (s : State) {ty pipe : Nat} (hty : ty < 256) (hpipe : pipe < 16) (w1 w2 w3 w4 t : Nat) :
    bitsOf ((s.eventRec ty pipe 0 w1 w2 w3 w4 t).getD 0 0).toNat 11 8 = pipe := by
  have hword : ((s.eventRec ty pipe 0 w1 w2 w3 w4 t).getD 0 0).toNat = (ty + pipe * 2 ^ 8 + s.tstate * 2 ^ 12 + 0) % 2 ^ 32 := rfl
  rw [hword, bitsOf]
  omega

theorem Told.eventAt (s : State) (ty pipe w1 w2 t : Nat) : Told s (s.eventAt ty pipe w1 w2 t) (s.eventRec ty pipe 0 w1 w2 0 0 t) := by
  generalize hr : s.eventRec ty pipe 0 w1 w2 0 0 t = r
  simp only [told_iff, State.eventAt, hr]
  intro h
  cases h with
  | a => rw [State.eventsOf_eventTo_ne _ _ (by decide), State.eventsOf_eventTo_self]
  | b =>
    rw [State.eventsOf_eventTo_self, s.eventsOf_eventTo_ne _ (by decide), (SameRing.eventTo_ne s r (by decide)).eventKept]

theorem CountsUp.eventAt (s : State) {ty pipe : Nat} (hty : ty < 256) (hpipe : pipe < 16) (w1 w2 t : Nat) :
    CountsUp s (s.eventAt ty pipe w1 w2 t) (s.evtDrops pipe) := by
  have hp := s.eventRec_pipe hty hpipe w1 w2 0 0 t
  have hb := CountsUp.eventTo (s.eventTo .a (s.eventRec ty pipe 0 w1 w2 0 0 t)) .b hp
  rw [(SameRing.eventTo_ne s _ (by decide)).eventDrop] at hb
  rw [State.evtDrops_eq]
  exact (CountsUp.eventTo s .a hp).trans hb

/-- An event changes only the events that wait, the counters and their saved copies. -/
theorem State.eventAt_only (s : State) (ty pipe w1 w2 t : Nat) :
    s.eventAt ty pipe w1 w2 t = { s with
      cnts := (s.eventAt ty pipe w1 w2 t).cnts, saved := (s.eventAt ty pipe w1 w2 t).saved
      hst := { s.hst with events := (s.eventAt ty pipe w1 w2 t).hst.events } } := by
  unfold State.eventAt
  generalize s.eventRec ty pipe 0 w1 w2 0 0 t = r
  have ha := s.eventTo_only .a r
  have hb := (s.eventTo .a r).eventTo_only .b r
  dsimp only
  generalize s.eventTo .a r = u at ha hb ⊢
  rw [hb, ha]

/-- What both rings take depends on the rings alone. -/
theorem Told.of_sameRing {s u t : State} {r : List Word} (h : Told u t r) (hs : ∀ x, SameRing s u x) : Told s t r := fun x =>
  ((told_iff ..).mp h x).trans (by rw [(hs x).1, (hs x).eventKept, State.eventKept])

theorem Told.of_events {s t t' : State} {r : List Word} (h : Told s t r) (e : t'.hst.events = t.hst.events) : Told s t' r := fun x => by
  rw [← h x, State.eventsOf, State.eventsOf, e]

theorem State.evtDrops_of_sameRing {s u : State} (hs : ∀ x, SameRing s u x) (p : Nat) : u.evtDrops p = s.evtDrops p := by
  rw [State.evtDrops_eq, State.evtDrops_eq, (hs .a).eventDrop, (hs .b).eventDrop]

/-! ### Level sources (R399, R411) -/

/-- The start of a quiet period changes only the domains. -/
theorem State.quietFrom_only (s : State) (d : Nat) : s.quietFrom d = { s with flt := { s.flt with doms := (s.quietFrom d).flt.doms } } := by
  unfold State.quietFrom
  split <;> rfl

/-- The end of a level source takes it from the present ones, and changes the domains alone beside it. -/
theorem State.levelOff_eq (s : State) (k : FKind) (x : Nat) :
    s.levelOff k x = { s with flt := { s.flt with
      present := s.flt.present.filter (· != slotOf k x), doms := (s.levelOff k x).flt.doms } } := by
  by_cases h : slotOf k x ∈ s.flt.present
  · have hoff : s.levelOff k x =
        { s with flt := { s.flt with present := s.flt.present.filter (· != slotOf k x) } }.quietFrom (s.slotDom (slotOf k x) 0) := if_pos h
    rw [hoff, State.quietFrom_only]
  · have hoff : s.levelOff k x = s := if_neg h
    have hall : s.flt.present.filter (· != slotOf k x) = s.flt.present :=
      List.filter_eq_self.mpr fun y hy => bne_iff_ne.mpr fun e => h (e ▸ hy)
    rw [hoff, hall]

theorem State.levelOff_not_present (s : State) (k : FKind) (x : Nat) : slotOf k x ∉ (s.levelOff k x).flt.present := by
  rw [State.levelOff_eq]
  simp

/-- A level source that was absent becomes present and raises one event. -/
theorem State.levelOn_absent {s : State} {k : FKind} {x : Nat} (h : s.isPresent (slotOf k x) = false) (d : Nat) :
    s.levelOn k x d = { s with flt := { s.flt with present := slotOf k x :: s.flt.present } }.raise k x d := by
  have habs : slotOf k x ∉ s.flt.present := by
    intro hm
    simp [State.isPresent, hm] at h
  simp [State.levelOn, State.levelOnSlot, habs, h, State.raise]

end Sys2Proof.Machine
end

section
/-! The end of a drain (R209, R213, R214, R217, R220): what it writes, the event it sends, and the level source it ends or starts. -/
namespace Sys2Proof.Machine

/-! ### The registers of a drain -/

theorem fEdState_ok (b : Bool) : (fEdState b).ok := by cases b <;> decide
theorem fEdState_reg (b : Bool) : (fEdState b).reg = .CLE_ED_STATUS := by cases b <;> rfl
theorem fEdState_width (b : Bool) : (fEdState b).hi + 1 - (fEdState b).lo = 3 := by cases b <;> rfl
theorem fEdState_apart (b : Bool) : (fEdState b).apart (fEdState !b) := by cases b <;> decide

/-- A slot's state written reads back; the other slot's state stays. -/
theorem State.edState_setEdState_self (s : State) (b : Bool) {v : Nat} (hv : v < 8) : (s.setEdState b v).edState b = v := by
  rw [State.edState, State.setEdState, State.rd_wr_self _ _ _ _ _ _ _ (fEdState_ok b), fEdState_width]
  exact Nat.mod_eq_of_lt hv
theorem State.edState_setEdState_not (s : State) (b : Bool) (v : Nat) : (s.setEdState b v).edState (!b) = s.edState (!b) :=
  State.rd_wr_apart _ _ _ _ _ _ _ _ _ _ _ _ (fEdState_ok b) (fEdState_ok _) (fEdState_apart b)

/-- A write of another register leaves both slots' states. -/
theorem State.edState_wr (s : State) {f : Fld} (hf : f.ok) (hreg : f.reg ≠ .CLE_ED_STATUS) (v : Nat) (b : Bool) :
    (s.wr f v).edState b = s.edState b :=
  State.rd_wr_apart _ _ _ _ _ _ _ _ _ _ _ _ hf (fEdState_ok b) (.inl (by rw [fEdState_reg]; exact hreg.symm))

theorem State.edState_congr {s t : State} (h : t.regs = s.regs) (b : Bool) : t.edState b = s.edState b := State.rd_congr h ..

/-- Two states that differ at most in the edition status and drain registers, and in nothing that an event ring depends on. -/
def SameBesideDrain (s u : State) : Prop :=
  u.hst.events = s.hst.events ∧
    ∀ g : Fld, g.ok → g.reg ≠ .CLE_ED_STATUS → g.reg ≠ .CLE_ED_DRAIN → ∀ p i j k, u.rd g p i j k = s.rd g p i j k

/-- A write of a slot's state and of one field of the drain register leaves every other register. -/
theorem SameBesideDrain.of_sameBits {s u : State} {b : Bool} {f : Fld} (he : u.hst.events = s.hst.events)
    (h : SameBits s u [(fEdState b).loc, f.loc]) (hf : f.reg = .CLE_ED_DRAIN) : SameBesideDrain s u := by
  refine ⟨he, fun g hg hst hdr => h.rd_eq hg ?_⟩
  simp only [List.forall_mem_cons]
  exact ⟨(fEdState_reg b).symm ▸ hst, hf.symm ▸ hdr, by simp⟩

namespace SameBesideDrain
variable {s u : State}

theorem of_regs {t : State} (h : SameBesideDrain s u) (he : t.hst.events = u.hst.events) (hr : t.regs = u.regs) : SameBesideDrain s t :=
  ⟨he.trans h.1, fun g hg hst hdr p i j k => (State.rd_congr hr ..).trans (h.2 g hg hst hdr p i j k)⟩

theorem raise (h : SameBesideDrain s u) (k : FKind) (x d : Nat) : SameBesideDrain s (u.raise k x d) := h.of_regs rfl rfl

theorem sameRing (h : SameBesideDrain s u) (x : HostId) : SameRing s u x := by
  refine ⟨by rw [State.eventsOf, State.eventsOf, h.1], ?_⟩
  have hok : ∀ f ∈ ringFields, f.ok ∧ f.reg ≠ .CLE_ED_STATUS ∧ f.reg ≠ .CLE_ED_DRAIN := by decide
  intro f hf
  obtain ⟨hfok, hst, hdr⟩ := hok f hf
  exact h.2 f hfok hst hdr ..

theorem edNum (h : SameBesideDrain s u) (b : Bool) : u.edNum b = s.edNum b := by
  cases b
  · exact h.2 fCLE_ED_NUM_NUM_A (by decide) (by decide) (by decide) ..
  · exact h.2 fCLE_ED_NUM_NUM_B (by decide) (by decide) (by decide) ..

theorem resident (h : SameBesideDrain s u) (b : Bool) : u.resident b = s.resident b :=
  h.2 fCLE_ED_RESIDENT_RESIDENT (by decide) (by decide) (by decide) ..

theorem tstate (h : SameBesideDrain s u) : u.tstate = s.tstate :=
  h.2 fTIM_STATUS_STATE (by decide) (by decide) (by decide) ..

/-- The event of a drain names the slot's edition, and goes to the rings as they were before the drain's writes. -/
theorem told_edEvent (h : SameBesideDrain s u) (ty : Nat) (b : Bool) (w2 t : Nat) :
    Told s (u.edEvent ty b false w2 t) (s.eventRec ty 15 0 (s.edNum b + b2n b * 2 ^ 16) w2 0 0 t) := by
  have htold := (Told.eventAt u ty 15 (u.edNum b + b2n b * 2 ^ 16 + b2n false * 2 ^ 17) w2 t).of_sameRing h.sameRing
  have hrec : u.eventRec ty 15 0 (u.edNum b + b2n b * 2 ^ 16 + b2n false * 2 ^ 17) w2 0 0 t =
      s.eventRec ty 15 0 (s.edNum b + b2n b * 2 ^ 16) w2 0 0 t := by
    simp only [State.eventRec, h.edNum, h.tstate, b2n, Bool.false_eq_true, if_false, Nat.zero_mul, Nat.add_zero]
  rwa [hrec] at htold

theorem countsUp_edEvent (h : SameBesideDrain s u) (hc : u.cnts = s.cnts) {ty : Nat} (hty : ty < 256) (b late : Bool) (w2 t : Nat) :
    CountsUp s (u.edEvent ty b late w2 t) (s.evtDrops 15) := by
  rw [← State.evtDrops_of_sameRing h.sameRing]
  exact (CountsUp.eventAt u hty (by decide) _ w2 t).of_cnts hc.symm rfl

end SameBesideDrain

/-- An edition event changes only the events that wait, the counters and their saved copies. -/
theorem State.edEvent_only (s : State) (ty : Nat) (b late : Bool) (w2 t : Nat) :
    s.edEvent ty b late w2 t = { s with
      cnts := (s.edEvent ty b late w2 t).cnts, saved := (s.edEvent ty b late w2 t).saved
      hst := { s.hst with events := (s.edEvent ty b late w2 t).hst.events } } := State.eventAt_only ..

@[simp] theorem State.edEvent_regs (s : State) (ty : Nat) (b late : Bool) (w2 t : Nat) : (s.edEvent ty b late w2 t).regs = s.regs :=
  State.eventAt_regs ..
@[simp] theorem State.edEvent_flt (s : State) (ty : Nat) (b late : Bool) (w2 t : Nat) : (s.edEvent ty b late w2 t).flt = s.flt :=
  State.eventAt_flt ..
@[simp] theorem State.edEvent_ed (s : State) (ty : Nat) (b late : Bool) (w2 t : Nat) : (s.edEvent ty b late w2 t).ed = s.ed :=
  State.eventAt_ed ..

/-! ### EDITION_DRAINED (R213) -/

/-- The time that a slot's drain has taken, in whole microseconds (R213). -/
def State.drainUs (s : State) (b : Bool) : Nat := (s.tim.rc - AMap.getD s.ed.drainRc (b2n b) s.tim.rc) / ns 1000

/-- The registers at the end of a drain: the slot is DRAINED and the drain's time recorded. -/
def State.drainEnd (s : State) (b : Bool) : State := (s.setEdState b 6).wr fCLE_ED_DRAIN_LAST_DRAIN_US (min 0xFFFFFF (s.drainUs b))

theorem State.drainEnd_sameBits (s : State) (b : Bool) :
    SameBits s (s.drainEnd b) [(fEdState b).loc, fCLE_ED_DRAIN_LAST_DRAIN_US.loc] :=
  ((SameBits.refl s _).wr 6 (fEdState_ok b) (by simp)).wr _ (by decide) (by simp)

theorem State.drainEnd_beside (s : State) (b : Bool) : SameBesideDrain s (s.drainEnd b) := .of_sameBits rfl (s.drainEnd_sameBits b) rfl

theorem State.edState_drainEnd (s : State) (b : Bool) : (s.drainEnd b).edState b = 6 ∧ (s.drainEnd b).edState (!b) = s.edState (!b) := by
  constructor
  · rw [State.drainEnd, State.edState_wr _ (by decide) (by decide), State.edState_setEdState_self _ _ (by decide)]
  · rw [State.drainEnd, State.edState_wr _ (by decide) (by decide), State.edState_setEdState_not]

theorem State.rd_drainEnd_lastDrain (s : State) (b : Bool) : (s.drainEnd b).rd fCLE_ED_DRAIN_LAST_DRAIN_US = min 0xFFFFFF (s.drainUs b) := by
  rw [State.drainEnd, State.rd_wr_self _ _ _ _ _ _ _ (by decide)]
  exact Nat.mod_eq_of_lt (Nat.lt_of_le_of_lt (Nat.min_le_left ..) (by decide))

theorem exec_editionDrained_empty {s : State} {b : Bool} (hst : s.edState b = 4 ∨ s.edState b = 5) (hres : s.resident b = 0)
    (hmac : s.markedAtMac b = false) :
    exec (.editionDrained b) s = .next (((s.drainEnd b).edEvent 0x31 b false 0 s.tim.ct).levelOff .ED_STUCK) :=
  congrArg Host.Outcome.next (if_pos ⟨hst, hres, hmac⟩)

theorem editionDrained_ends (s : State) (b : Bool) (hst : s.edState b = 4 ∨ s.edState b = 5) (hres : s.resident b = 0)
    (hmac : s.markedAtMac b = false) : Gives (.editionDrained b) s fun t =>
    t.edState b = 6 ∧ t.edState (!b) = s.edState (!b) ∧
    t.rd fCLE_ED_DRAIN_LAST_DRAIN_US = min 0xFFFFFF ((s.tim.rc - AMap.getD s.ed.drainRc (b2n b) s.tim.rc) / ns 1000) ∧
    Told s t (s.eventRec 0x31 15 0 (s.edNum b + b2n b * 2 ^ 16) 0 0 0 s.tim.ct) ∧ CountsUp s t (s.evtDrops 15) ∧
    slotOf .ED_STUCK 0 ∉ t.flt.present ∧
    t = { s with
      regs := t.regs, cnts := t.cnts, saved := t.saved, hst := { s.hst with events := t.hst.events }
      flt := { s.flt with present := t.flt.present, doms := t.flt.doms } } ∧
    SameBits s t [(fEdState b).loc, fCLE_ED_DRAIN_LAST_DRAIN_US.loc] := by
  have hbeside := s.drainEnd_beside b
  have hregs : (((s.drainEnd b).edEvent 0x31 b false 0 s.tim.ct).levelOff .ED_STUCK).regs = (s.drainEnd b).regs := by simp
  obtain ⟨hself, hother⟩ := s.edState_drainEnd b
  refine ⟨_, exec_editionDrained_empty hst hres hmac, ?_, ?_, ?_, ?_, ?_, ?_, ?_, ?_⟩
  · exact (State.edState_congr hregs b).trans hself
  · exact (State.edState_congr hregs _).trans hother
  · exact (State.rd_congr hregs ..).trans (s.rd_drainEnd_lastDrain b)
  · exact (hbeside.told_edEvent 0x31 b 0 s.tim.ct).of_events (by simp)
  · exact (hbeside.countsUp_edEvent rfl (by decide : 0x31 < 256) b false 0 s.tim.ct).of_cnts rfl (by simp)
  · exact State.levelOff_not_present _ .ED_STUCK 0
  · rw [State.levelOff_eq, State.edEvent_only]
    rfl
  · exact (s.drainEnd_sameBits b).of_regs hregs

theorem editionDrained_waits (s : State) (b : Bool)
    (h : (s.edState b ≠ 4 ∧ s.edState b ≠ 5) ∨ s.resident b ≠ 0 ∨ s.markedAtMac b = true) : exec (.editionDrained b) s = .next s := by
  refine congrArg Host.Outcome.next (if_neg ?_)
  rintro ⟨hst, hres, hmac⟩
  obtain ⟨h4, h5⟩ | hne | hmarked := h
  · exact hst.elim h4 h5
  · exact hne hres
  · exact absurd (hmac.symm.trans hmarked) (by decide)

/-! ### DRAIN_TIMEOUT (R214) -/

/-- A slot is EXPIRING from now on, and the expiry counted. -/
def State.drainExpire (s : State) (b : Bool) : State :=
  { (s.setEdState b 5).addSat fCLE_ED_DRAIN_EXPIRIES 1 with ed := { s.ed with expRc := AMap.set s.ed.expRc (b2n b) s.tim.rc } }

theorem State.drainExpire_regs (s : State) (b : Bool) :
    (s.drainExpire b).regs = ((s.setEdState b 5).addSat fCLE_ED_DRAIN_EXPIRIES 1).regs := rfl

theorem State.drainExpire_sameBits (s : State) (b : Bool) : SameBits s (s.drainExpire b) [(fEdState b).loc, fCLE_ED_DRAIN_EXPIRIES.loc] :=
  (((SameBits.refl s _).wr 5 (fEdState_ok b) (by simp)).addSat 1 (by decide) (by simp)).of_regs (s.drainExpire_regs b)

theorem State.drainExpire_beside (s : State) (b : Bool) : SameBesideDrain s (s.drainExpire b) := .of_sameBits rfl (s.drainExpire_sameBits b) rfl

theorem State.edState_drainExpire (s : State) (b : Bool) : (s.drainExpire b).edState b = 5 := by
  rw [State.edState_congr (s.drainExpire_regs b), State.addSat, State.edState_wr _ (by decide) (by decide),
    State.edState_setEdState_self _ _ (by decide)]

theorem State.rd_drainExpire_expiries (s : State) (b : Bool) :
    (s.drainExpire b).rd fCLE_ED_DRAIN_EXPIRIES = s.satUp fCLE_ED_DRAIN_EXPIRIES := by
  rw [State.rd_congr (s.drainExpire_regs b), State.rd_addSat_self _ _ _ _ _ _ _ (by decide), State.setEdState,
    State.rd_wr_apart _ _ _ _ _ _ _ _ _ _ _ _ (fEdState_ok b) (by decide) (.inl (by rw [fEdState_reg]; decide))]
  rfl

theorem exec_drainTimeout_due {s : State} {b : Bool} (hst : s.edState b = 4) (hres : 0 < s.resident b)
    (hdue : AMap.getD s.ed.drainRc (b2n b) 0 + ns (1000 * AMap.getD s.ed.drainLen (b2n b) 0) ≤ s.tim.rc) :
    exec (.drainTimeout b) s =
      .next (((s.drainExpire b).raise .ED_EXPIRED 0 (s.edNum b)).edEvent 0x32 b false (s.resident b) s.tim.ct) := by
  rw [← (s.drainExpire_beside b).resident b, ← (s.drainExpire_beside b).edNum b]
  exact congrArg Host.Outcome.next (if_pos ⟨hst, hdue, hres⟩)

theorem drainTimeout_expires (s : State) (b : Bool) (hst : s.edState b = 4) (hres : 0 < s.resident b)
    (hdue : AMap.getD s.ed.drainRc (b2n b) 0 + ns (1000 * AMap.getD s.ed.drainLen (b2n b) 0) ≤ s.tim.rc) : Gives (.drainTimeout b) s fun t =>
    t.edState b = 5 ∧ t.rd fCLE_ED_DRAIN_EXPIRIES = s.satUp fCLE_ED_DRAIN_EXPIRIES ∧ AMap.get? t.ed.expRc (b2n b) = some s.tim.rc ∧
    Raised t .ED_EXPIRED ∧ Told s t (s.eventRec 0x32 15 0 (s.edNum b + b2n b * 2 ^ 16) (s.resident b) 0 0 s.tim.ct) ∧
    CountsUp s t (s.evtDrops 15) ∧
    t = { s with
      regs := t.regs, cnts := t.cnts, saved := t.saved, hst := { s.hst with events := t.hst.events }
      flt := { s.flt with crossing := t.flt.crossing }, ed := { s.ed with expRc := t.ed.expRc } } ∧
    SameBits s t [(fEdState b).loc, fCLE_ED_DRAIN_EXPIRIES.loc] := by
  have hbeside := (s.drainExpire_beside b).raise .ED_EXPIRED 0 (s.edNum b)
  refine ⟨_, exec_drainTimeout_due hst hres hdue, ?_, ?_, ?_, ?_, ?_, ?_, ?_, ?_⟩
  · exact (State.edState_congr (by simp) b).trans (s.edState_drainExpire b)
  · exact (State.rd_congr (by simp) ..).trans (s.rd_drainExpire_expiries b)
  · rw [State.edEvent_ed]
    exact AMap.get?_set_self ..
  · exact (Raised.raise_self (s.drainExpire b) .ED_EXPIRED 0 (s.edNum b)).of_crossing (by simp)
  · exact hbeside.told_edEvent 0x32 b (s.resident b) s.tim.ct
  · exact hbeside.countsUp_edEvent rfl (by decide) b false (s.resident b) s.tim.ct
  · rw [State.edEvent_only]
    rfl
  · exact (s.drainExpire_sameBits b).of_regs (by simp)

theorem drainTimeout_waits (s : State) (b : Bool)
    (h : s.edState b ≠ 4 ∨ s.resident b = 0 ∨ s.tim.rc < AMap.getD s.ed.drainRc (b2n b) 0 + ns (1000 * AMap.getD s.ed.drainLen (b2n b) 0)) :
    exec (.drainTimeout b) s = .next s := by
  refine congrArg Host.Outcome.next (if_neg ?_)
  rintro ⟨hst, hdue, hres⟩
  obtain hne | hzero | hearly := h
  · exact hne hst
  · exact Nat.ne_of_gt hres hzero
  · exact Nat.not_le.mpr hearly hdue

/-! ### ED_STUCK (R220) -/

theorem edStuck_raises (s : State) (b : Bool) (hst : s.edState b = 5) (hdue : AMap.getD s.ed.expRc (b2n b) 0 + ns nsPerSec ≤ s.tim.rc)
    (habs : s.isPresent (slotOf .ED_STUCK 0) = false) : Gives (.edStuck b) s fun t =>
    t.isPresent (slotOf .ED_STUCK 0) = true ∧ Raised t .ED_STUCK ∧
    t = { s with flt := { s.flt with crossing := t.flt.crossing, present := t.flt.present } } := by
  have hexec : exec (.edStuck b) s = .next (s.levelOn .ED_STUCK 0 (s.edNum b)) := congrArg Host.Outcome.next (if_pos ⟨hst, hdue⟩)
  rw [State.levelOn_absent habs] at hexec
  refine ⟨_, hexec, ?_, Raised.raise_self .., rfl⟩
  simp [State.isPresent, State.raise, State.raiseSlot]

theorem edStuck_waits (s : State) (b : Bool) (h : s.edState b ≠ 5 ∨ s.tim.rc < AMap.getD s.ed.expRc (b2n b) 0 + ns nsPerSec) :
    exec (.edStuck b) s = .next s := by
  refine congrArg Host.Outcome.next (if_neg ?_)
  rintro ⟨hst, hdue⟩
  exact h.elim (fun hne => hne hst) fun hearly => Nat.not_le.mpr hearly hdue

/-- Settles O26: each of the three events acts in one case, and changes nothing where the slot's state, its count or the time does not allow it. -/
theorem editionDrain : Obligations.EditionDrain :=
  ⟨editionDrained_ends, editionDrained_waits, drainTimeout_expires, drainTimeout_waits, edStuck_raises, edStuck_waits⟩

end Sys2Proof.Machine
end

section
/-! A snapshot that ends while the controller replays (R292, R311, R322): what the scan writes is queued, and archive memory still holds what it held. -/
namespace Sys2Proof.Machine

/-! ### Writes while a subchannel replays (R311, R322) -/

/-- While a subchannel replays, a unit's requests are not served at once. -/
theorem State.dramClear_of_replay {s : State} {x : Nat × Nat} (hx : x ∈ s.drm.replays) (hne : x.2 ≠ 0) : s.dramClear = false := by
  have hall : (s.drm.replays.all fun x => x.2 == 0) = false := List.all_eq_false.mpr ⟨x, hx, by simpa using hne⟩
  rw [State.dramClear, hall, Bool.and_false]

/-- The arbiter has no part in replays. -/
theorem State.arbOne_replays {s t : State} (h : s.arbOne = some t) : t.drm.replays = s.drm.replays := by
  unfold State.arbOne at h
  dsimp only at h
  split at h
  · cases h
  · split at h
    · cases h
      rfl
    · cases h

@[simp] theorem State.arb_replays (s : State) (n : Nat) : (s.arb n).drm.replays = s.drm.replays := by
  induction n generalizing s with
  | zero => rfl
  | succ n ih =>
    unfold State.arb
    split
    · next h => rw [ih, State.arbOne_replays h]
    · rfl

@[simp] theorem State.dramIssue_replays (s : State) (rs : List DramReq) : (s.dramIssue rs).drm.replays = s.drm.replays := by
  unfold State.dramIssue
  dsimp only
  split
  · rw [State.arb_replays]
  · rfl

/-- A unit's write while a subchannel replays leaves memory, and the replay goes on. -/
theorem State.memWrite_of_replay {s : State} {x : Nat × Nat} (hx : x ∈ s.drm.replays) (hne : x.2 ≠ 0) (req a : Nat) (bs : List Byte) :
    (s.memWrite req a bs).arc.mem = s.arc.mem ∧ (s.memWrite req a bs).drm.replays = s.drm.replays := by
  have hissue : s.memWrite req a bs = s.dramIssue (burstWrites req a s.tim.rc bs) :=
    if_neg (by rw [State.dramClear_of_replay hx hne]; decide)
  rw [hissue]
  exact ⟨(State_dramIssue_keep ..).2, State.dramIssue_replays ..⟩

theorem State.ringWrite_of_replay {s : State} {x : Nat × Nat} (hx : x ∈ s.drm.replays) (hne : x.2 ≠ 0) (base size off : Nat) (bs : List Byte) :
    (s.ringWrite base size off bs).arc.mem = s.arc.mem := by
  unfold State.ringWrite
  dsimp only
  obtain ⟨hmem, hrep⟩ := State.memWrite_of_replay hx hne 0 (base + off % size) (bs.take (size - off % size))
  rw [(State.memWrite_of_replay (hrep.symm ▸ hx) hne ..).1, hmem]

/-! ### The end of a scan (R292, R293) -/

/-- With no word marked bad, the scan's reads change nothing. -/
theorem State.tallyCheck_unmarked {s : State} (h : s.flt.marks = []) (p : Nat) : s.tallyCheck p = s := by
  simp [State.tallyCheck, h]

theorem State.scanCheck_unmarked {s : State} (h : s.flt.marks = []) (mask : Nat) : s.scanCheck mask = s := by
  have htallies : ∀ l : List Nat, l.foldl (fun s p => s.tallyCheck p) s = s := by
    intro l
    induction l with
    | nil => rfl
    | cons p l ih => rw [List.foldl_cons, State.tallyCheck_unmarked h, ih]
  simp [State.scanCheck, h, htallies]

/-- A snapshot that completes while a subchannel replays leaves memory as it is: its bytes wait. -/
theorem State.snapComplete_mem_of_replay {s : State} {x : Nat × Nat} (hx : x ∈ s.drm.replays) (hne : x.2 ≠ 0) (sc : Scan) :
    (s.snapComplete sc).arc.mem = s.arc.mem := by
  unfold State.snapComplete
  dsimp only
  rw [(State_consReport_keep ..).2]
  exact State.ringWrite_of_replay hx hne ..

/-- SNAPSHOT_COMPLETE at the scan's end, with archive memory open and no word marked bad. -/
theorem exec_snapshotComplete_due {s : State} {x : Scan} (hscan : s.arc.scan = some x) (hstart : x.started = true)
    (hdue : x.rc + ns 10000 + snapLen x.mask * nsU / s.scanRate ≤ s.tim.rc) (hopen : s.archOpen = true) (hmarks : s.flt.marks = []) :
    exec .snapshotComplete s =
      .next ({ s with drm := { s.drm with blocked := s.drm.blocked.filter (·.1 != 0) } }.snapComplete x) := by
  have hlate : (!x.started || decide (s.tim.rc < x.rc + ns 10000 + snapLen x.mask * nsU / s.scanRate)) = false := by
    simp [hstart, Nat.not_lt.mpr hdue]
  show execSnapshotComplete s = _
  simp only [execSnapshotComplete, hscan, hlate, Bool.false_eq_true, if_false, State.archUnit, hopen, if_true]
  rw [State.scanCheck_unmarked (s := { s with drm := { s.drm with blocked := s.drm.blocked.filter (·.1 != 0) } }) hmarks]

/-- The header's first byte is its TYPE, 1. -/
theorem State.snapHeader_head? (s : State) (x : Scan) (fails crc : Nat) : (s.snapHeader x fails crc).head? = some 1 := by
  have hw : ∀ n, n % 256 = 1 → some (byte ((word n).toNat / 2 ^ (8 * 0))) = some (1 : Byte) := by
    intro n hn
    refine congrArg some (BitVec.eq_of_toNat_eq ?_)
    simp [byte, word]
    omega
  exact hw _ (by omega)

/-! ### A scan that ends in a replay -/

/-- A started scan of the tallies alone, fired at running count 0. -/
def tallyScan : Scan := ⟨0, 0, false, 2 ^ 15, 0, true, [], none⟩

/-- One channel of archive memory runs, the snapshot region is of 16 MiB and empty, and the time of that scan is over, but subchannel 0 has replayed
once for an alert (R322). -/
def tallyScanInReplay : State :=
  let s := ((State.reset.wr fCKR_RUN_CLOCKS 127).wr fDRM_CFG_CH_EN 1).wr fARC_SNAP_SIZE_LOG2 24
  { s with
    tim := { s.tim with rc := ns 10100 }, arc := { s.arc with scan := some tallyScan }
    drm := { s.drm with replays := [(0, 1)] } }

/-- Refutes O28: its sixth clause says that a snapshot's bytes are in memory once it is complete. It does not ask that no subchannel replays; while
one does, the writes of the scan wait at the arbiter or in their bank queues, and memory reads as before. -/
theorem not_snapshots : ¬ Obligations.Snapshots := by
  unfold Obligations.Snapshots
  rintro ⟨-, -, -, -, -, hcomplete, -⟩
  have hopen : tallyScanInReplay.archOpen = true := by decide +kernel
  have hdue : tallyScan.rc + ns 10000 + snapLen tallyScan.mask * nsU / tallyScanInReplay.scanRate ≤ tallyScanInReplay.tim.rc := by decide +kernel
  obtain ⟨t, hrun, -, -, -, -, -, -, -, -, -, hreads, -⟩ :=
    hcomplete tallyScanInReplay tallyScan rfl rfl hdue hopen rfl rfl rfl rfl (by decide +kernel)
  have hmem : t.arc.mem = [] := by
    obtain rfl := Host.Outcome.next.inj ((exec_snapshotComplete_due rfl rfl hdue hopen rfl).symm.trans hrun)
    exact State.snapComplete_mem_of_replay (x := (0, 1)) List.mem_cons_self (by decide) tallyScan
  have hzero : (Memory.reads t.arc.mem (tallyScanInReplay.snapBase + tallyScanInReplay.arc.snapHead) (snapLen tallyScan.mask)).head? = some 0 := by
    rw [hmem]
    decide +kernel
  rw [hreads, List.head?_append, State.snapHeader_head?] at hzero
  exact absurd hzero (by decide)

end Sys2Proof.Machine
end

section
/-! A capture copy whose release ends the XOFF state of its frame's port and class (R85, R238, R241, R301). -/
namespace Sys2Proof.Machine

/-- A frame of 64 bytes from front-panel port 0, class 0, all received, which one copy still refers to. -/
def xoffFrame : Stall :=
  ⟨0, 5, List.replicate 64 0, 64, true, true, false, 0, 0, 0, false, 0, false, false, 0, true, false, 0, 1, 0, 0, none, 0, 0, 64, 0, 0, 0, none, 1, 0,
    false⟩

/-- Its copy for port 266, class 7. -/
def xoffCopy : Slip := ⟨9, 0, 5, 7, 0, false, false, false, 266, 0, false, 0, 0, none, none, none, true, false, false, hostQueue 266 7, 1⟩

/-- The copy is the head of its queue at port 266 and capture is on. Port 0 pauses its peer by class; its class 0, with a threshold of 1 unit, has been
in XOFF for 100 ns because of this frame alone. -/
def xoffCopyDue : State :=
  let s := ((State.reset.wr fCKR_RUN_CLOCKS 127).wr fARC_CFG_CAP_EN 1).wr fARC_CAP_CFG_LOG2_RECS 10
  let s := ((s.wr fPRT_FC_CFG_MODE 2).wr fSTB_ING_XOFF_XOFF 1).wr fSTB_ING_USED_USED 1
  let s := s.wr fSTB_ING_USED_XOFF_STATE 1
  { s with
    tim := { s.tim with rc := ns 100 }, ports := { s.ports with xoffAt := [((0, 0), 0)] }
    fwd := { s.fwd with stalls := [xoffFrame], slips := [xoffCopy], queues := [(hostQueue 266 7, [9])] } }

/-- CAPTURE_DELIVER releases the copy, the frame's stall is freed, and the time in XOFF that ends with it is counted in TX counter 48 of port 0. -/
theorem xoffCopyDue_captureDeliver : Gives .captureDeliver xoffCopyDue fun t => t.cnt 2 0 48 = 100 :=
  ⟨_, rfl, by decide +kernel⟩

/-- Refutes O29: its tenth clause lists the counters that a capture copy raises, and no other may change. It does not ask that the release of the
frame leaves the XOFF state of its port and class as it is (R241): where it ends one, the time spent in XOFF is counted too (R85). -/
theorem not_flowsAndCapture : ¬ Obligations.FlowsAndCapture := by
  unfold Obligations.FlowsAndCapture
  rintro ⟨-, -, -, -, -, -, -, -, -, hdeliver⟩
  obtain ⟨t, hrun, -, -, -, -, -, hcounts, -⟩ := hdeliver xoffCopyDue 9 xoffCopy xoffFrame (by decide +kernel) (by decide +kernel) rfl rfl rfl
    (by decide +kernel) rfl rfl rfl rfl rfl (by decide +kernel) (by decide +kernel) (by decide +kernel) (by decide +kernel)
  obtain ⟨u, hrun', hcnt⟩ := xoffCopyDue_captureDeliver
  obtain rfl : t = u := by simpa [hrun] using hrun'
  have hzero : AMap.getD t.cnts (2, 0, 48) 0 = 0 := (hcounts _).trans (by decide +kernel)
  rw [State.cnt, hzero] at hcnt
  exact absurd hcnt (by decide)

end Sys2Proof.Machine
end

section
/-! A punt whose release ends the XOFF state of its frame's port and class (R85, R238, R241, R343). -/
namespace Sys2Proof.Machine

/-- The copy of `xoffFrame` for host A's port, class 7, punted for reason 3. -/
def xoffPunt : Slip := { xoffCopy with outPort := 264, punt := some 3, capture := false, svc := hostQueue 264 7 }

/-- The machine of `xoffCopyDue`, with that copy at the head of host A's class 7: the ring of the class is on and empty, and pool 0, of buffers of 256
bytes, holds one buffer. -/
def xoffPuntDue : State :=
  let s := xoffCopyDue.wr fHST_CH_CFG_EN 1 0 (chanOf .a 11)
  let s := (s.wr fHST_POOL_CFG_EN 1).wr fHST_POOL_CFG_SIZE_256 1
  { s with
    fwd := { s.fwd with slips := [xoffPunt], queues := [(hostQueue 264 7, [9])] }
    hst := { s.hst with lost := [], posted := [(.a, 0, [0])], bufState := [((.a, 0), true)] } }

/-- Class 7 of host A has the turn on its engine. -/
theorem xoffPuntDue_turn : xoffPuntDue.turn (chanOf .a 11) := by decide +kernel

/-- PUNT_DELIVER releases the copy, the frame's stall is freed, and the time in XOFF that ends with it is counted in TX counter 48 of port 0. -/
theorem xoffPuntDue_puntDeliver : Gives (.puntDeliver .a) xoffPuntDue fun t => t.cnt 2 0 48 = 100 :=
  ⟨_, rfl, by decide +kernel⟩

/-- Refutes O35: its first clause lists the counters that a delivered punt raises, and no other may change. It does not ask that the release of the
frame leaves the XOFF state of its port and class as it is (R241): where it ends one, the time spent in XOFF is counted too (R85). -/
theorem not_hostFrames : ¬ Obligations.HostFrames := by
  unfold Obligations.HostFrames
  rintro ⟨hpunt, -⟩
  obtain ⟨t, hrun, -, -, -, -, -, hcounts, -⟩ := hpunt xoffPuntDue .a 9 0 0 [] xoffPunt xoffFrame (by decide +kernel) (by decide +kernel) rfl rfl rfl
    (by decide +kernel) rfl rfl rfl (by decide +kernel) (by decide +kernel) (by decide +kernel) xoffPuntDue_turn (by decide +kernel)
    (by decide +kernel)
  obtain ⟨u, hrun', hcnt⟩ := xoffPuntDue_puntDeliver
  obtain rfl : t = u := by simpa [hrun] using hrun'
  have hzero : AMap.getD t.cnts (2, 0, 48) 0 = 0 := (hcounts _).trans (by decide +kernel)
  rw [State.cnt, hzero] at hcnt
  exact absurd hcnt (by decide)

end Sys2Proof.Machine
end
